-- ==== Sys2Proof/Word.lean ====
section
/-!
DEFINITION. The word types of the FZ9 and the one sparse table that every register file and every memory of the model
is held in. Spec: 00_scope.md R1, R2, R5; 01_freuz_fz9.md R16.
-/
namespace Sys2Proof

/-- One byte of memory. -/
abbrev Byte := BitVec 8
/-- A 32-bit lane value (a V register of one thread). -/
abbrev Word32 := BitVec 32
/-- A 64-bit value: an S register, an address, an instruction word. -/
abbrev Word64 := BitVec 64
/-- One bit for each of the 128 lanes of a group (R73, R446 TLANES). -/
abbrev LaneMask := BitVec 128

/-- A table from numbers to values in one canonical form: keys strictly rising, and no entry equal to the value `d`
that an unlisted key reads as. -/
abbrev Table (α : Type) := List (Nat × α)

/-- The value of key `k`; an unlisted key reads as `d`. -/
def Table.get {α : Type} (d : α) : Table α → Nat → α
  | [], _ => d
  | (j, v) :: rest, k => if j = k then v else Table.get d rest k

/-- The table with `k` removed. -/
def Table.erase {α : Type} : Table α → Nat → Table α
  | [], _ => []
  | (j, v) :: rest, k => if j = k then Table.erase rest k else (j, v) :: Table.erase rest k

/-- The table with `v` stored at `k`, whatever `v` is. -/
def Table.put {α : Type} : Table α → Nat → α → Table α
  | [], k, v => [(k, v)]
  | (j, w) :: rest, k, v =>
    if k < j then (k, v) :: (j, w) :: rest
    else if j = k then (k, v) :: rest
    else (j, w) :: Table.put rest k v

/-- The table with key `k` reading `v`; storing the value an unlisted key reads as removes the entry. -/
def Table.set {α : Type} [DecidableEq α] (d : α) (t : Table α) (k : Nat) (v : α) : Table α :=
  if v = d then Table.erase t k else Table.put t k v

/-- Every key of the table is at least `lo`, the keys rise strictly, and no entry holds `d`. -/
def Table.wfFrom {α : Type} [DecidableEq α] (d : α) : Nat → Table α → Bool
  | _, [] => true
  | lo, (j, v) :: rest => decide (lo ≤ j) && decide (v ≠ d) && Table.wfFrom d (j + 1) rest

/-- The canonical form of a table. -/
def Table.wf {α : Type} [DecidableEq α] (d : α) (t : Table α) : Bool := Table.wfFrom d 0 t

/-- Bit `i` of a lane mask. -/
abbrev LaneMask.has (m : LaneMask) (i : Nat) : Bool := m.getLsbD i

end Sys2Proof
end

