-- ==== Sys2Proof/Machine/Numbers.lean ====
section
/-!
DEFINITION. Number formats and rounding (08_number_formats.md R188 to R203): binary floating formats on exact values, rounded once;
LNS6 and E8; and the fixed-point enclosures behind FEXP2 and FLOG2 (R232). Flags stand as in FLAGS bits 5:0 of R147.
-/
namespace Sys2Proof

/-! ### Flags (R196, R147) -/

abbrev Flags := BitVec 6
def fIV : Flags := 1
def fDZ : Flags := 2
def fOF : Flags := 4
def fUF : Flags := 8
def fNX : Flags := 16
def fUD : Flags := 32
/-- `f` where `b`, else none. -/
def flagIf (b : Bool) (f : Flags) : Flags := if b then f else 0

/-! ### Integers (R8, R188) -/

/-- Floor of the square root, by bits from `k` down. -/
def isqrtFrom (n : Nat) : Nat → Nat → Nat
  | 0, r => if (r + 1) * (r + 1) ≤ n then r + 1 else r
  | k + 1, r => isqrtFrom n k (if (r + 2 ^ (k + 1)) * (r + 2 ^ (k + 1)) ≤ n then r + 2 ^ (k + 1) else r)

/-- Floor of the square root. -/
def isqrt (n : Nat) : Nat := isqrtFrom n (n.log2 / 2 + 1) 0

/-- `m · 2^e` rounded down to an integer, for any sign of `e`. -/
def scaleDown (m : Nat) (e : Int) : Nat := if 0 ≤ e then m <<< e.toNat else m >>> (-e).toNat

/-- The bits of `m · 2^e` below the integer are not all zero. -/
def scaleRest (m : Nat) (e : Int) : Bool := if 0 ≤ e then false else decide (m % 2 ^ (-e).toNat ≠ 0)

/-- Compare `m · 2^e` with `n · 2^f`. -/
def cmpMag (m : Nat) (e : Int) (n : Nat) (f : Int) : Ordering :=
  if e ≤ f then compare m (n <<< (f - e).toNat) else compare (m <<< (e - f).toNat) n

/-! ### Binary formats (R190, R191) -/

/-- A binary format: exponent bits and fraction bits. -/
structure FloatFmt where
  ebits : Nat
  fbits : Nat
  deriving DecidableEq, Repr, Inhabited

def f64 : FloatFmt := { ebits := 11, fbits := 52 }
def f32 : FloatFmt := { ebits := 8, fbits := 23 }
def f16 : FloatFmt := { ebits := 5, fbits := 10 }
def bf16 : FloatFmt := { ebits := 8, fbits := 7 }

def FloatFmt.prec (f : FloatFmt) : Nat := f.fbits + 1
def FloatFmt.emax (f : FloatFmt) : Int := 2 ^ (f.ebits - 1) - 1
def FloatFmt.emin (f : FloatFmt) : Int := 1 - f.emax
/-- The spacing of the subnormals is `2 ^ qmin`. -/
def FloatFmt.qmin (f : FloatFmt) : Int := f.emin - f.fbits
def FloatFmt.signBit (f : FloatFmt) (neg : Bool) : Nat := if neg then 2 ^ (f.ebits + f.fbits) else 0
def FloatFmt.infBits (f : FloatFmt) (neg : Bool) : Nat := f.signBit neg + (2 ^ f.ebits - 1) * 2 ^ f.fbits
def FloatFmt.maxBits (f : FloatFmt) (neg : Bool) : Nat := f.infBits neg - 1
/-- The canonical NaN (R190, R192). -/
def FloatFmt.canonNaN (f : FloatFmt) : Nat := f.infBits false + 2 ^ (f.fbits - 1)

/-- The value of a floating operand: a NaN, an infinity, or exactly `(-1)^neg · m · 2^e`, a zero keeping its sign. -/
inductive FVal where
  | nan (signalling : Bool)
  | inf (neg : Bool)
  | fin (neg : Bool) (m : Nat) (e : Int)
  deriving DecidableEq, Repr, Inhabited

/-- The value that bits of a format encode (R191). -/
def unpackF (f : FloatFmt) (bits : Nat) : FVal :=
  let frac := bits % 2 ^ f.fbits
  let ex := (bits / 2 ^ f.fbits) % 2 ^ f.ebits
  let neg := decide ((bits / 2 ^ (f.fbits + f.ebits)) % 2 = 1)
  if ex = 2 ^ f.ebits - 1 then
    if frac = 0 then .inf neg else .nan (decide (frac < 2 ^ (f.fbits - 1)))
  else if ex = 0 then .fin neg frac f.qmin
  else .fin neg (2 ^ f.fbits + frac) (f.qmin + (ex - 1))

def FVal.isNaN : FVal → Bool
  | .nan _ => true
  | _ => false
def FVal.isSNaN : FVal → Bool
  | .nan s => s
  | _ => false
def FVal.isZero : FVal → Bool
  | .fin _ m _ => m == 0
  | _ => false
def FVal.isFinNZ : FVal → Bool
  | .fin _ m _ => m != 0
  | _ => false
def FVal.neg : FVal → FVal
  | .nan s => .nan s
  | .inf n => .inf (!n)
  | .fin n m e => .fin (!n) m e
def FVal.sign : FVal → Bool
  | .nan _ => false
  | .inf n => n
  | .fin n _ _ => n
/-- `floor (log2 |x|)` of a finite nonzero value. -/
def FVal.expo : FVal → Int
  | .fin _ m e => (m.log2 : Int) + e
  | _ => 0

/-! ### Rounding (R34, R195) -/

/-- Whether a magnitude with integer part `y`, remainder `rem` of `2^sh` and a nonzero tail below where `sticky`, rounds away. -/
def roundUp (rm : Nat) (neg : Bool) (y rem sh : Nat) (sticky : Bool) : Bool :=
  match rm with
  | 0 => decide (2 ^ sh < 2 * rem) || (decide (2 * rem = 2 ^ sh) && decide (0 < sh) && (sticky || y % 2 == 1))
  | 1 => false
  | 2 => neg && (decide (rem ≠ 0) || sticky)
  | _ => !neg && (decide (rem ≠ 0) || sticky)

/-- round_to (R195): the exact value `(-1)^neg · (m + δ) · 2^e`, with `0 < δ < 1` where `sticky`, as bits and flags. A sticky value has
at least three bits more than the precision of the format. -/
def roundTo (f : FloatFmt) (rm : Nat) (neg : Bool) (m : Nat) (e : Int) (sticky : Bool) : Nat × Flags :=
  if m = 0 then (f.signBit neg, 0) else
  let l := (m.log2 : Int) + e
  let q := max (l - f.fbits) f.qmin
  let sh := (q - e).toNat
  let y := if e < q then m >>> sh else m <<< (e - q).toNat
  let rem := m % 2 ^ sh
  let inexact := decide (rem ≠ 0) || sticky
  let y := if roundUp rm neg y rem sh sticky then y + 1 else y
  let mag := (q - f.qmin).toNat * 2 ^ f.fbits + y
  if (2 ^ f.ebits - 1) * 2 ^ f.fbits ≤ mag then
    let away := rm == 0 || (rm == 3 && !neg) || (rm == 2 && neg)
    (if away then f.infBits neg else f.maxBits neg, fOF ||| fNX)
  else (f.signBit neg + mag, flagIf inexact (fNX ||| flagIf (decide (l < f.emin)) fUF))

/-- A value rounded to a format; NaN and infinity as R195 says, with no flag. -/
def roundVal (f : FloatFmt) (rm : Nat) : FVal → Nat × Flags
  | .nan _ => (f.canonNaN, 0)
  | .inf n => (f.infBits n, 0)
  | .fin n m e => roundTo f rm n m e false

/-- IV for a signalling operand (R192). -/
def snanFlag (l : List FVal) : Flags := flagIf (l.any FVal.isSNaN) fIV

/-- The canonical NaN, with IV where `b`. -/
def nanOut (f : FloatFmt) (b : Bool) : Nat × Flags := (f.canonNaN, flagIf b fIV)

/-- The exact sum of two finite values; a zero takes its sign by R194. -/
def addFin (rm : Nat) (n1 : Bool) (m1 : Nat) (e1 : Int) (n2 : Bool) (m2 : Nat) (e2 : Int) : FVal :=
  let e := min e1 e2
  let a : Int := (m1 <<< (e1 - e).toNat : Nat)
  let b : Int := (m2 <<< (e2 - e).toNat : Nat)
  let s := (if n1 then -a else a) + (if n2 then -b else b)
  if s = 0 then
    if m1 = 0 ∧ m2 = 0 ∧ n1 = n2 then .fin n1 0 0 else .fin (rm == 2) 0 0
  else .fin (decide (s < 0)) s.natAbs e

/-- A sum in a format (R231). -/
def fAdd (f : FloatFmt) (rm : Nat) (x y : FVal) : Nat × Flags :=
  match x, y with
  | .nan _, _ => nanOut f (x.isSNaN || y.isSNaN)
  | _, .nan _ => nanOut f (x.isSNaN || y.isSNaN)
  | .inf a, .inf b => if a = b then (f.infBits a, 0) else nanOut f true
  | .inf a, .fin .. => (f.infBits a, 0)
  | .fin .., .inf b => (f.infBits b, 0)
  | .fin n1 m1 e1, .fin n2 m2 e2 => roundVal f rm (addFin rm n1 m1 e1 n2 m2 e2)

/-- A product in a format (R231). -/
def fMul (f : FloatFmt) (rm : Nat) (x y : FVal) : Nat × Flags :=
  match x, y with
  | .nan _, _ => nanOut f (x.isSNaN || y.isSNaN)
  | _, .nan _ => nanOut f (x.isSNaN || y.isSNaN)
  | .inf a, .inf b => (f.infBits (a != b), 0)
  | .inf a, .fin n m _ => if m = 0 then nanOut f true else (f.infBits (a != n), 0)
  | .fin n m _, .inf b => if m = 0 then nanOut f true else (f.infBits (n != b), 0)
  | .fin n1 m1 e1, .fin n2 m2 e2 => roundTo f rm (n1 != n2) (m1 * m2) (e1 + e2) false

/-- The exact product of two values, for a fused sum: NaN where R231 calls it invalid. -/
def mulVal (x y : FVal) : FVal :=
  match x, y with
  | .nan s, _ => .nan s
  | _, .nan s => .nan s
  | .inf a, .inf b => .inf (a != b)
  | .inf a, .fin n m _ => if m = 0 then .nan false else .inf (a != n)
  | .fin n m _, .inf b => if m = 0 then .nan false else .inf (n != b)
  | .fin n1 m1 e1, .fin n2 m2 e2 => .fin (n1 != n2) (m1 * m2) (e1 + e2)

/-- A product of zero and infinity (R231). -/
def zeroTimesInf (x y : FVal) : Bool :=
  match x, y with
  | .inf _, .fin _ m _ => m == 0
  | .fin _ m _, .inf _ => m == 0
  | _, _ => false

/-- A fused multiply-add with one rounding (R231). -/
def fFma (f : FloatFmt) (rm : Nat) (x y z : FVal) : Nat × Flags :=
  if zeroTimesInf x y then nanOut f true
  else if x.isNaN || y.isNaN || z.isNaN then nanOut f (x.isSNaN || y.isSNaN || z.isSNaN)
  else fAdd f rm (mulVal x y) z

/-- The quotient of two finite nonzero magnitudes to `2 · prec + 9` bits: integer part, exponent, tail. -/
def divMag (f : FloatFmt) (m1 : Nat) (e1 : Int) (m2 : Nat) (e2 : Int) : Nat × Int × Bool :=
  let k := 2 * f.prec + 10 + m2.log2
  let n := m1 <<< k
  (n / m2, e1 - e2 - k, decide (n % m2 ≠ 0))

/-- A quotient in a format (R232). -/
def fDiv (f : FloatFmt) (rm : Nat) (x y : FVal) : Nat × Flags :=
  match x, y with
  | .nan _, _ => nanOut f (x.isSNaN || y.isSNaN)
  | _, .nan _ => nanOut f (x.isSNaN || y.isSNaN)
  | .inf _, .inf _ => nanOut f true
  | .inf a, .fin n _ _ => (f.infBits (a != n), 0)
  | .fin n _ _, .inf b => (f.signBit (n != b), 0)
  | .fin n1 m1 e1, .fin n2 m2 e2 =>
    if m2 = 0 then if m1 = 0 then nanOut f true else (f.infBits (n1 != n2), fDZ)
    else if m1 = 0 then (f.signBit (n1 != n2), 0)
    else
      let (q, e, s) := divMag f m1 e1 m2 e2
      roundTo f rm (n1 != n2) q e s

/-- The floor of the root of `m · 2^e` to more than `2 · prec` bits. -/
def sqrtMag (f : FloatFmt) (m : Nat) (e : Int) : Nat × Int × Bool :=
  let k := 4 * f.prec + 10
  let k := if (e - k) % 2 = 0 then k else k + 1
  let n := m <<< k
  let r := isqrt n
  (r, (e - k) / 2, decide (r * r ≠ n))

/-- A square root in a format (R232). -/
def fSqrt (f : FloatFmt) (rm : Nat) (x : FVal) : Nat × Flags :=
  match x with
  | .nan s => nanOut f s
  | .inf n => if n then nanOut f true else (f.infBits false, 0)
  | .fin n m e =>
    if m = 0 then (f.signBit n, 0)
    else if n then nanOut f true
    else
      let (r, e', s) := sqrtMag f m e
      roundTo f rm false r e' s

/-- A reciprocal square root (R232). -/
def fRsqrt (f : FloatFmt) (rm : Nat) (x : FVal) : Nat × Flags :=
  match x with
  | .nan s => nanOut f s
  | .inf n => if n then nanOut f true else (0, 0)
  | .fin n m e =>
    if m = 0 then (f.infBits n, 0)
    else if n then nanOut f true
    else
      let (m, e) := if e % 2 = 0 then (m, e) else (2 * m, e - 1)
      let k := 3 * f.prec + m.log2
      let r := isqrt (2 ^ (2 * k) / m)
      roundTo f rm false r (-(e / 2) - k) (decide (r * r * m ≠ 2 ^ (2 * k)))

/-! ### FEXP2 and FLOG2 (R232) -/

/-- Fraction bits of the fixed-point enclosures. -/
def fxBits : Nat := 256
def fxOne : Nat := 2 ^ fxBits

/-- The sum of `1 / (k · 2^k)` for `k` from `n` down, in fixed point. -/
def ln2From : Nat → Nat → Nat
  | 0, acc => acc
  | n + 1, acc => ln2From n (acc + fxOne / ((n + 1) * 2 ^ (n + 1)))
/-- ln 2 in fixed point. -/
def ln2Fx : Nat := ln2From 260 0

/-- The Taylor sum of the exponential at `y`: `fuel` further terms after the term `t` of index `k`. -/
def expFrom (y : Nat) : Nat → Nat → Nat → Nat → Nat
  | 0, _, _, acc => acc
  | fuel + 1, k, t, acc =>
    let t' := t * y / fxOne / (k + 1)
    expFrom y fuel (k + 1) t' (acc + t')
/-- `2^r` in fixed point for a fraction `r` in fixed point. -/
def exp2Fx (r : Nat) : Nat := expFrom (r * ln2Fx / fxOne) 70 0 fxOne fxOne

/-- FEXP2 (R232). -/
def fExp2 (f : FloatFmt) (rm : Nat) (x : FVal) : Nat × Flags :=
  match x with
  | .nan s => nanOut f s
  | .inf n => if n then (0, 0) else (f.infBits false, 0)
  | .fin n m e =>
    if m = 0 then roundTo f rm false 1 0 false
    else if 20 ≤ (m.log2 : Int) + e then
      if n then roundTo f rm false (2 ^ 60) (-2 ^ 20) true else roundTo f rm false 1 (2 ^ 20) true
    else
      let whole := scaleDown m e
      let frac := scaleDown m (e + fxBits) % fxOne
      let exact := frac == 0 && !scaleRest m (e + fxBits)
      if exact then roundTo f rm false 1 (if n then -(whole : Int) else whole) false
      else
        -- x = whole + r, or -(whole + 1) + (1 - r)
        let (k, r) := if n then (-(whole : Int) - 1, fxOne - frac) else ((whole : Int), frac)
        roundTo f rm false (exp2Fx r) (k - fxBits) true

/-- `2 · atanh z` in fixed point: terms `z^(2k+1)/(2k+1)`. -/
def atanhFrom (z2 : Nat) : Nat → Nat → Nat → Nat → Nat
  | 0, _, _, acc => acc
  | fuel + 1, k, p, acc =>
    let p' := p * z2 / fxOne
    atanhFrom z2 fuel (k + 2) p' (acc + p' / (k + 2))
/-- ln of `m / 2^l` in fixed point, for `2^l ≤ m < 2^(l+1)`. -/
def lnFx (m l : Nat) : Nat :=
  let z := ((m - 2 ^ l) * fxOne) / (m + 2 ^ l)
  2 * atanhFrom (z * z / fxOne) 90 1 z z

/-- FLOG2 (R232). -/
def fLog2 (f : FloatFmt) (rm : Nat) (x : FVal) : Nat × Flags :=
  match x with
  | .nan s => nanOut f s
  | .inf n => if n then nanOut f true else (f.infBits false, 0)
  | .fin n m e =>
    if m = 0 then (f.infBits true, fDZ)
    else if n then nanOut f true
    else
      let l := m.log2
      let k := (l : Int) + e
      if m = 2 ^ l then
        if k = 0 then (0, 0) else roundTo f rm (decide (k < 0)) k.natAbs 0 false
      else
        let v : Int := k * fxOne + ((lnFx m l * fxOne / ln2Fx : Nat) : Int)
        if 0 ≤ v then roundTo f rm false v.natAbs (-(fxBits : Int)) true
        else roundTo f rm true (v.natAbs - 1) (-(fxBits : Int)) true

/-! ### Comparison, selection, classification -/

/-- The order of two numbers that are no NaN, −0 equal to +0. -/
def cmpVal (x y : FVal) : Ordering :=
  match x, y with
  | .inf a, .inf b => if a = b then .eq else if a then .lt else .gt
  | .inf a, _ => if a then .lt else .gt
  | _, .inf b => if b then .gt else .lt
  | .fin n1 m1 e1, .fin n2 m2 e2 =>
    if m1 = 0 ∧ m2 = 0 then .eq
    else if m1 = 0 then (if n2 then .gt else .lt)
    else if m2 = 0 then (if n1 then .lt else .gt)
    else if n1 ≠ n2 then (if n1 then .lt else .gt)
    else if n1 then cmpMag m2 e2 m1 e1 else cmpMag m1 e1 m2 e2
  | _, _ => .eq

/-- The conditions of R223 on two floats. -/
def condF (c : Nat) (x y : FVal) : Bool :=
  let un := x.isNaN || y.isNaN
  let o := cmpVal x y
  match c with
  | 0 => !un && o == .eq
  | 1 => un || o != .eq
  | 2 => !un && o == .lt
  | 3 => !un && o != .gt
  | 4 => !un && o == .gt
  | 5 => !un && o != .lt
  | 6 => un
  | _ => !un

/-- FMIN and FMAX (R193), on bits: −0 below +0, a number before a NaN. -/
def fMinMax (f : FloatFmt) (mx : Bool) (a b : Nat) : Nat × Flags :=
  let x := unpackF f a
  let y := unpackF f b
  let fl := snanFlag [x, y]
  if x.isNaN && y.isNaN then (f.canonNaN, fl)
  else if x.isNaN then (b, fl)
  else if y.isNaN then (a, fl)
  else
    let less := match cmpVal x y with
      | .lt => true
      | .gt => false
      | .eq => x.sign && !y.sign
    (if less != mx then a else b, fl)

/-- FCLASS (R235). -/
def fClass (f : FloatFmt) (bits : Nat) : Nat :=
  match unpackF f bits with
  | .nan s => if s then 2 ^ 8 else 2 ^ 9
  | .inf n => if n then 2 ^ 0 else 2 ^ 7
  | .fin n m _ =>
    if m = 0 then (if n then 2 ^ 3 else 2 ^ 4)
    else if m < 2 ^ f.fbits then (if n then 2 ^ 2 else 2 ^ 5)
    else (if n then 2 ^ 1 else 2 ^ 6)

/-! ### Integers and floats (R198) -/

/-- `(-1)^neg · m · 2^e` rounded to an integer in mode `rm`, and whether that was inexact. -/
def roundInt (rm : Nat) (neg : Bool) (m : Nat) (e : Int) : Int × Bool :=
  let sh := (-e).toNat
  let y := scaleDown m e
  let rem := if 0 ≤ e then 0 else m % 2 ^ sh
  let y := if roundUp rm neg y rem sh false then y + 1 else y
  (if neg then -(y : Int) else y, decide (rem ≠ 0))

/-- The range of an integer type: width and sign. -/
def intMin (w : Nat) (signed : Bool) : Int := if signed then -2 ^ (w - 1) else 0
def intMax (w : Nat) (signed : Bool) : Int := if signed then 2 ^ (w - 1) - 1 else 2 ^ w - 1

/-- Float to integer (R198). -/
def fToInt (w : Nat) (signed : Bool) (rm : Nat) : FVal → Int × Flags
  | .nan _ => (0, fIV)
  | .inf n => (if n then intMin w signed else intMax w signed, fIV)
  | .fin n m e =>
    let (y, inexact) := roundInt rm n m e
    if y < intMin w signed then (intMin w signed, fIV)
    else if intMax w signed < y then (intMax w signed, fIV)
    else (y, flagIf inexact fNX)

/-- An integer as an exact value. -/
def intVal (i : Int) : FVal := .fin (decide (i < 0)) i.natAbs 0

/-- FRND (R236): the integral value in the same format, the sign kept. -/
def fRnd (f : FloatFmt) (rm : Nat) (bits : Nat) : Nat × Flags :=
  match unpackF f bits with
  | .nan s => nanOut f s
  | .inf _ => (bits, 0)
  | .fin n m e => if m = 0 then (bits, 0) else ((roundTo f rm n (roundInt rm n m e).1.natAbs 0 false).1, 0)

/-- FSCL (R236). -/
def fScl (f : FloatFmt) (rm : Nat) (bits : Nat) (k : Int) : Nat × Flags :=
  match unpackF f bits with
  | .nan s => nanOut f s
  | .inf _ => (bits, 0)
  | .fin n m e => if m = 0 then (bits, 0) else roundTo f rm n m (e + k) false

/-! ### LNS6 (R199 to R202) and E8 (R203) -/

/-- The quarter table L (R200). -/
def lnsL : Nat → Nat
  | 0 => 0x8000
  | 1 => 0x9838
  | 2 => 0xB505
  | _ => 0xD745

/-- The arithmetic value of a code (R200). -/
def lnsVal (code : Nat) : FVal :=
  if code % 64 = 0x20 then .fin false 0 0
  else .fin (decide (32 ≤ code % 64)) (lnsL (code % 4)) ((code % 32 / 4 : Nat) - 19)

/-- The product of two codes (R201). -/
def lnsMul (a b : Nat) : FVal :=
  if a % 64 = 0x20 ∨ b % 64 = 0x20 then .fin false 0 0
  else
    let s := a % 32 + b % 32
    .fin (decide (a % 64 / 32 ≠ b % 64 / 32)) (lnsL (s % 4)) ((s / 4 : Nat) - 23)

/-- The magnitude index `m` of a code as a pair. -/
def lnsMag (m : Nat) : Nat × Int := (lnsL (m % 4), (m / 4 : Nat) - 19)

/-- The greatest magnitude index from `lo` to `k` whose magnitude is at most `m · 2^e`. -/
def lnsBelow (m : Nat) (e : Int) (lo : Nat) : Nat → Option Nat
  | 0 => if lo = 0 ∧ cmpMag (lnsMag 0).1 (lnsMag 0).2 m e ≠ .gt then some 0 else none
  | k + 1 => if lo ≤ k + 1 ∧ cmpMag (lnsMag (k + 1)).1 (lnsMag (k + 1)).2 m e ≠ .gt then some (k + 1)
    else lnsBelow m e lo k

/-- The code of sign and magnitude index; none is zero. -/
def lnsCode (neg : Bool) : Option Nat → Nat
  | none => 0x20
  | some k => if neg then 32 + k else k

/-- Conversion of an exact value to LNS6 (R202). -/
def toLns (rm : Nat) : FVal → Nat × Flags
  | .nan _ => (0x20, fIV)
  | .inf n => (lnsCode n (some 31), fOF)
  | .fin n m e =>
    if m = 0 then (0x20, 0)
    else if cmpMag m e (lnsMag 31).1 (lnsMag 31).2 = .gt then (lnsCode n (some 31), fOF ||| fNX)
    else
      let lo := if n then 1 else 0
      let dn := lnsBelow m e lo 31
      let dnMag := match dn with
        | some k => lnsMag k
        | none => (0, 0)
      if dn.isSome && cmpMag dnMag.1 dnMag.2 m e == .eq then (lnsCode n dn, 0)
      else
        let upK := match dn with
          | some k => k + 1
          | none => lo
        let upMag := lnsMag upK
        let up : Option Nat := some upK
        let pick : Option Nat := match rm with
          | 1 => dn
          | 2 => if n then up else dn
          | 3 => if n then dn else up
          | _ =>
            -- nearest: 2x against the sum of the neighbours
            let b := min (min dnMag.2 upMag.2) e
            let sum := dnMag.1 <<< (dnMag.2 - b).toNat + upMag.1 <<< (upMag.2 - b).toNat
            let twice := (2 * m) <<< (e - b).toNat
            if twice < sum then dn
            else if sum < twice then up
            else match dn with
              | none => none
              | some k => if k % 2 = 0 then dn else up
        (lnsCode n pick, fNX ||| flagIf pick.isNone fUF)

/-- The value of an element under an E8 block scale (R203): a NaN block makes every element a NaN. -/
def e8Scale (x : FVal) (e : Nat) : FVal :=
  if e = 255 then .nan false else
  match x with
  | .fin n m k => .fin n m (k + e - 127)
  | y => y

/-! ### grid_round and shifts (R9, R208) -/

/-- An integer divided by `2^k`, to the nearest integer, ties to even; and whether that was inexact. -/
def shiftRNE (i : Int) (k : Nat) : Int × Bool :=
  let y := i.natAbs >>> k
  let rem := i.natAbs % 2 ^ k
  let y := if roundUp 0 false y rem k false then y + 1 else y
  (if i < 0 then -(y : Int) else y, decide (rem ≠ 0))

/-- `grid_round(x, g) / 2^g` of a finite value (R9), and whether it was inexact. -/
def gridUnits (neg : Bool) (m : Nat) (e g : Int) : Int × Bool :=
  let s : Int := if neg then -(m : Int) else m
  if g ≤ e then (s * 2 ^ (e - g).toNat, false) else shiftRNE s (g - e).toNat

/-! ### CRC-64 (R405) -/

/-- One bit of a message into the CRC. -/
def crcBit (d : Word64) (b : Bool) : Word64 :=
  if (d.getLsbD 63) != b then (d <<< 1) ^^^ 0x42F0E1EBA9EA3693 else d <<< 1
/-- One byte, most significant bit first. -/
def crcByte (d : Word64) (x : Byte) : Word64 :=
  (List.range 8).foldl (fun d i => crcBit d (x.getLsbD (7 - i))) d
/-- crc_upd (R405). -/
def crcUpd (d : Word64) (l : List Byte) : Word64 := l.foldl crcByte d
/-- The eight bytes of a 64-bit value, little-endian (R2). -/
def bytes64 (w : Word64) : List Byte := (List.range 8).map fun i => w.extractLsb' (8 * i) 8
/-- crc_upd over 64-bit values. -/
def crcWords (d : Word64) (l : List Word64) : Word64 := l.foldl (fun d w => crcUpd d (bytes64 w)) d

end Sys2Proof
end

