-- ==== Sys2Proof/Syntax.lean ====
section
/-!
DEFINITION. The abstract syntax: one constructor of `Instr` for each row of spec/opcode_table.json. The rows are the words
of the instruction set (02_instruction_words.md R28, R29, R36, R48 give the fields of their shapes) and the part's other
steps, the events of 95_what_each_step_holds.md.
-/
namespace Sys2Proof

/-- A team, named by its grid id (R111) and its linear id in the grid (R105). -/
structure TRef where
  grid : Nat
  team : Nat
  deriving DecidableEq, Repr, Inhabited

/-- A group, named by its team and its group index in the team (R74). -/
structure GRef where
  grid  : Nat
  team  : Nat
  group : Nat
  deriving DecidableEq, Repr, Inhabited

/-- The team of a group. -/
def GRef.tref (g : GRef) : TRef := { grid := g.grid, team := g.team }

/-- The two streams of a round (R87). -/
inductive Stream where
  | a | b
  deriving DecidableEq, Repr, Inhabited

/-- A full-form word of layout F without its opcode (R28): the run boundary, the guard, the four operand fields and the
modifiers. -/
structure OpF where
  rb : Bool
  ge : Bool
  gn : Bool
  gd : BitVec 3
  d  : BitVec 8
  a  : BitVec 8
  b  : BitVec 8
  c  : BitVec 8
  m  : BitVec 15
  deriving DecidableEq, Repr, Inhabited

/-- A full-form word of layout I without its opcode (R29). -/
structure OpI where
  rb  : Bool
  ge  : Bool
  gn  : Bool
  gd  : BitVec 3
  d   : BitVec 8
  a   : BitVec 8
  imm : BitVec 31
  deriving DecidableEq, Repr, Inhabited

/-- A full-form word of layout W without its opcode (R29); its bits 38:32 are zero. -/
structure OpW where
  rb  : Bool
  ge  : Bool
  gn  : Bool
  gd  : BitVec 3
  d   : BitVec 8
  imm : BitVec 32
  deriving DecidableEq, Repr, Inhabited

/-- One slot of a paired word (R36). -/
structure Slot where
  op : BitVec 7
  d  : BitVec 8
  a  : BitVec 8
  b  : BitVec 8
  deriving DecidableEq, Repr, Inhabited

/-- A paired word (R36). -/
structure OpP where
  rb : Bool
  s0 : Slot
  s1 : Slot
  deriving DecidableEq, Repr, Inhabited

/-- An unimplemented hint (R25, R48): the low six bits of its opcode, and the bits below the opcode, which nothing reads. -/
structure OpH where
  rb   : Bool
  idx  : BitVec 6
  rest : BitVec 52
  deriving DecidableEq, Repr, Inhabited

/-- A read of `n` bytes or a write of bytes by an agent outside the device (R344, R431, R432). -/
inductive HostAccess where
  | read (n : Nat)
  | write (bytes : List Byte)
  deriving DecidableEq, Repr, Inhabited

/-- A 64-bit write to BAR 0 by a function: 0 the physical function, 1 to 32 a virtual one (R412, R431). -/
structure BarWrite where
  fn : Nat
  v  : Word64
  deriving DecidableEq, Repr, Inhabited

/-- An offset in a window of BAR 0, reached by a function (R412, R431). -/
structure BarPlace where
  fn  : Nat
  off : Nat
  deriving DecidableEq, Repr, Inhabited

/-- What an uncorrectable error in data poisons (R455). -/
inductive PoisonSite where
  | memLine (pa : Nat)
  | scratchLine (tm : TRef) (line : Nat)
  | imageLine (g : GRef) (line : Nat)
  | logNode (tm : TRef) (node : Nat)
  | slot (core k : Nat)
  | acc (core k : Nat)
  deriving DecidableEq, Repr, Inhabited

/-- A shared structure with an uncorrectable error (R456). -/
inductive SharedUnit where
  | translation (unit : Nat)
  | icache (core : Nat)
  | press (slice : Nat)
  | futures (core : Nat)
  | sweep (core : Nat)
  | refine (core : Nat)
  | collective (die : Nat)
  | queue (q : Nat)
  deriving DecidableEq, Repr, Inhabited

/-- The temperatures that the throttle and the trip look at, in degrees Celsius (R436). -/
structure Heat where
  hottestDie : Nat
  inlet      : Nat
  deriving DecidableEq, Repr, Inhabited

/-- The rows of spec/opcode_table.json. -/
inductive Instr where
  /-- ADD, R216. -/
  | add (o : OpF)
  /-- SUB, R216. -/
  | sub (o : OpF)
  /-- ADDC, R217. -/
  | addc (o : OpF)
  /-- MUL, R216. -/
  | mul (o : OpF)
  /-- MULH, R216. -/
  | mulh (o : OpF)
  /-- MAD, R216. -/
  | mad (o : OpF)
  /-- MADW, R216. -/
  | madw (o : OpF)
  /-- DIV, R218. -/
  | div (o : OpF)
  /-- REM, R218. -/
  | rem (o : OpF)
  /-- NEG, R216. -/
  | neg (o : OpF)
  /-- ABS, R216. -/
  | abs (o : OpF)
  /-- MIN, R216. -/
  | min (o : OpF)
  /-- MAX, R216. -/
  | max (o : OpF)
  /-- AND, R219. -/
  | and (o : OpF)
  /-- OR, R219. -/
  | or (o : OpF)
  /-- XOR, R219. -/
  | xor (o : OpF)
  /-- NOT, R219. -/
  | not (o : OpF)
  /-- ANDN, R219. -/
  | andn (o : OpF)
  /-- SHL, R219. -/
  | shl (o : OpF)
  /-- SHR, R219. -/
  | shr (o : OpF)
  /-- SAR, R219. -/
  | sar (o : OpF)
  /-- ROTL, R219. -/
  | rotl (o : OpF)
  /-- FSHL, R220. -/
  | fshl (o : OpF)
  /-- POPC, R220. -/
  | popc (o : OpF)
  /-- CLZ, R220. -/
  | clz (o : OpF)
  /-- CTZ, R220. -/
  | ctz (o : OpF)
  /-- BREV, R220. -/
  | brev (o : OpF)
  /-- BFX, R221. -/
  | bfx (o : OpF)
  /-- BFI, R221. -/
  | bfi (o : OpF)
  /-- SEL, R222. -/
  | sel (o : OpF)
  /-- CMP, R224. -/
  | cmp (o : OpF)
  /-- MOV, R222. -/
  | mov (o : OpF)
  /-- MOVW, R222. -/
  | movw (o : OpW)
  /-- LEA, R222. -/
  | lea (o : OpF)
  /-- ADD_IMM, R225. -/
  | addImm (o : OpI)
  /-- MUL_IMM, R225. -/
  | mulImm (o : OpI)
  /-- AND_IMM, R225. -/
  | andImm (o : OpI)
  /-- OR_IMM, R225. -/
  | orImm (o : OpI)
  /-- XOR_IMM, R225. -/
  | xorImm (o : OpI)
  /-- SHL_IMM, R225. -/
  | shlImm (o : OpI)
  /-- SHR_IMM, R225. -/
  | shrImm (o : OpI)
  /-- SAR_IMM, R225. -/
  | sarImm (o : OpI)
  /-- ROTL_IMM, R225. -/
  | rotlImm (o : OpI)
  /-- UADD, R226. -/
  | uadd (o : OpF)
  /-- USUB, R226. -/
  | usub (o : OpF)
  /-- UMUL, R226. -/
  | umul (o : OpF)
  /-- UMULH, R226. -/
  | umulh (o : OpF)
  /-- UAND, R226. -/
  | uand (o : OpF)
  /-- UOR, R226. -/
  | uor (o : OpF)
  /-- UXOR, R226. -/
  | uxor (o : OpF)
  /-- USHL, R226. -/
  | ushl (o : OpF)
  /-- USHR, R226. -/
  | ushr (o : OpF)
  /-- USAR, R226. -/
  | usar (o : OpF)
  /-- UMIN, R226. -/
  | umin (o : OpF)
  /-- UMAX, R226. -/
  | umax (o : OpF)
  /-- UCMP, R226. -/
  | ucmp (o : OpF)
  /-- UMOV, R226. -/
  | umov (o : OpF)
  /-- UMOVW, R226. -/
  | umovw (o : OpW)
  /-- ULEA, R226. -/
  | ulea (o : OpF)
  /-- UDIV, R227. -/
  | udiv (o : OpF)
  /-- URDV, R228. -/
  | urdv (o : OpF)
  /-- UADD_IMM, R229. -/
  | uaddImm (o : OpI)
  /-- UMUL_IMM, R229. -/
  | umulImm (o : OpI)
  /-- UAND_IMM, R229. -/
  | uandImm (o : OpI)
  /-- UOR_IMM, R229. -/
  | uorImm (o : OpI)
  /-- UXOR_IMM, R229. -/
  | uxorImm (o : OpI)
  /-- USHL_IMM, R229. -/
  | ushlImm (o : OpI)
  /-- USHR_IMM, R229. -/
  | ushrImm (o : OpI)
  /-- USAR_IMM, R229. -/
  | usarImm (o : OpI)
  /-- FADD, R231. -/
  | fadd (o : OpF)
  /-- FSUB, R231. -/
  | fsub (o : OpF)
  /-- FMUL, R231. -/
  | fmul (o : OpF)
  /-- FFMA, R231. -/
  | ffma (o : OpF)
  /-- FDIV, R232. -/
  | fdiv (o : OpF)
  /-- FSQRT, R232. -/
  | fsqrt (o : OpF)
  /-- FRCP, R232. -/
  | frcp (o : OpF)
  /-- FRSQ, R232. -/
  | frsq (o : OpF)
  /-- FEXP2, R232. -/
  | fexp2 (o : OpF)
  /-- FLOG2, R232. -/
  | flog2 (o : OpF)
  /-- FMIN, R233. -/
  | fmin (o : OpF)
  /-- FMAX, R233. -/
  | fmax (o : OpF)
  /-- FCMP, R234. -/
  | fcmp (o : OpF)
  /-- FCLASS, R235. -/
  | fclass (o : OpF)
  /-- FRND, R236. -/
  | frnd (o : OpF)
  /-- FSCL, R236. -/
  | fscl (o : OpF)
  /-- HADD2, R237. -/
  | hadd2 (o : OpF)
  /-- HMUL2, R237. -/
  | hmul2 (o : OpF)
  /-- HFMA2, R237. -/
  | hfma2 (o : OpF)
  /-- FSEL, R238. -/
  | fsel (o : OpF)
  /-- DADD, R239. -/
  | dadd (o : OpF)
  /-- DMUL, R239. -/
  | dmul (o : OpF)
  /-- DFMA, R239. -/
  | dfma (o : OpF)
  /-- DDIV, R239. -/
  | ddiv (o : OpF)
  /-- DSQRT, R239. -/
  | dsqrt (o : OpF)
  /-- DCMP, R239. -/
  | dcmp (o : OpF)
  /-- CVT, R241. -/
  | cvt (o : OpF)
  /-- PACK, R242. -/
  | pack (o : OpF)
  /-- UNPACK, R243. -/
  | unpack (o : OpF)
  /-- QBLK, R244. -/
  | qblk (o : OpF)
  /-- XLD, R268. -/
  | xld (o : OpF)
  /-- XMOVV, R269. -/
  | xmovv (o : OpF)
  /-- XPIN, R270. -/
  | xpin (o : OpF)
  /-- XMOV, R269. -/
  | xmov (o : OpF)
  /-- XADD, R267. -/
  | xadd (o : OpF)
  /-- XSUB, R267. -/
  | xsub (o : OpF)
  /-- XMUL, R267. -/
  | xmul (o : OpF)
  /-- XFMA, R267. -/
  | xfma (o : OpF)
  /-- XDIV, R267. -/
  | xdiv (o : OpF)
  /-- XNEG, R267. -/
  | xneg (o : OpF)
  /-- XABS, R267. -/
  | xabs (o : OpF)
  /-- XMIN, R267. -/
  | xmin (o : OpF)
  /-- XMAX, R267. -/
  | xmax (o : OpF)
  /-- XCMP, R271. -/
  | xcmp (o : OpF)
  /-- XSGN, R271. -/
  | xsgn (o : OpF)
  /-- XLO, R269. -/
  | xlo (o : OpF)
  /-- XHI, R269. -/
  | xhi (o : OpF)
  /-- XSEVER, R269. -/
  | xsever (o : OpF)
  /-- XREF, R272. -/
  | xref (o : OpF)
  /-- XST, R268. -/
  | xst (o : OpF)
  /-- XSTG, R273. -/
  | xstg (o : OpF)
  /-- XLOGQ, R273. -/
  | xlogq (o : OpF)
  /-- PSET, R158. -/
  | pset (o : OpF)
  /-- PNOT, R158. -/
  | pnot (o : OpF)
  /-- PAND, R158. -/
  | pand (o : OpF)
  /-- POR, R158. -/
  | por (o : OpF)
  /-- PXOR, R158. -/
  | pxor (o : OpF)
  /-- PPOP, R158. -/
  | ppop (o : OpF)
  /-- PDUP, R158. -/
  | pdup (o : OpF)
  /-- PMASK, R158. -/
  | pmask (o : OpF)
  /-- BRA, R159. -/
  | bra (o : OpI)
  /-- BRU, R159. -/
  | bru (o : OpI)
  /-- BRX, R159. -/
  | brx (o : OpF)
  /-- CALL, R160. -/
  | call (o : OpI)
  /-- RET, R160. -/
  | ret (o : OpF)
  /-- EXIT, R162. -/
  | exit (o : OpF)
  /-- NOP, R163. -/
  | nop (o : OpF)
  /-- PAUSE, R164. -/
  | pause (o : OpF)
  /-- SHFL, R167. -/
  | shfl (o : OpF)
  /-- VOTE, R168. -/
  | vote (o : OpF)
  /-- BALLOT, R168. -/
  | ballot (o : OpF)
  /-- MATCH, R169. -/
  | matchLanes (o : OpF)
  /-- COMPACT, R170. -/
  | compact (o : OpF)
  /-- REDUX, R171. -/
  | redux (o : OpF)
  /-- SCAN, R173. -/
  | scan (o : OpF)
  /-- ELECT, R174. -/
  | elect (o : OpF)
  /-- ISECT, R176. -/
  | isect (o : OpF)
  /-- MERGE, R177. -/
  | merge (o : OpF)
  /-- LD, R349. -/
  | ld (o : OpF)
  /-- ST, R350. -/
  | st (o : OpF)
  /-- LDU, R349. -/
  | ldu (o : OpF)
  /-- STU, R350. -/
  | stu (o : OpF)
  /-- PREF, R351. -/
  | pref (o : OpF)
  /-- TAINT, R403. -/
  | taint (o : OpF)
  /-- ATOM, R352. -/
  | atom (o : OpF)
  /-- RED, R352. -/
  | red (o : OpF)
  /-- ATOMU, R352. -/
  | atomu (o : OpF)
  /-- PHASE, R364. -/
  | phase (o : OpF)
  /-- FENCE, R365. -/
  | fence (o : OpF)
  /-- CFENCE, R366. -/
  | cfence (o : OpF)
  /-- BAR, R178. -/
  | bar (o : OpF)
  /-- ORDW, R183. -/
  | ordw (o : OpF)
  /-- ORDD, R183. -/
  | ordd (o : OpF)
  /-- CNTWAIT, R185. -/
  | cntwait (o : OpF)
  /-- TFENCE, R449. -/
  | tfence (o : OpF)
  /-- COPY, R379. -/
  | copy (o : OpF)
  /-- GATHER, R382. -/
  | gather (o : OpF)
  /-- COLL, R385. -/
  | coll (o : OpF)
  /-- LAUNCH, R388. -/
  | launch (o : OpF)
  /-- FTEST, R390. -/
  | ftest (o : OpF)
  /-- FWAIT, R391. -/
  | fwait (o : OpF)
  /-- FCANCEL, R392. -/
  | fcancel (o : OpF)
  /-- FMOV, R393. -/
  | fmov (o : OpF)
  /-- FSTAT, R394. -/
  | fstat (o : OpF)
  /-- BFACQ, R274. -/
  | bfacq (o : OpF)
  /-- BFREL, R276. -/
  | bfrel (o : OpF)
  /-- OSCLAIM, R281. -/
  | osclaim (o : OpF)
  /-- OSREL, R281. -/
  | osrel (o : OpF)
  /-- OSFILL, R282. -/
  | osfill (o : OpF)
  /-- OSSAVE, R282. -/
  | ossave (o : OpF)
  /-- BSTSET, R287. -/
  | bstset (o : OpF)
  /-- BFSTAGE, R290. -/
  | bfstage (o : OpF)
  /-- BFCHAIN, R292. -/
  | bfchain (o : OpF)
  /-- BFZERO, R293. -/
  | bfzero (o : OpF)
  /-- BFDRAIN, R294. -/
  | bfdrain (o : OpF)
  /-- BFSCALE, R295. -/
  | bfscale (o : OpF)
  /-- GANGSET, R296. -/
  | gangset (o : OpF)
  /-- SWBIND, R150. -/
  | swbind (o : OpF)
  /-- SWRUN, R152. -/
  | swrun (o : OpF)
  /-- SWWAKE, R153. -/
  | swwake (o : OpF)
  /-- SWPOKE, R153. -/
  | swpoke (o : OpF)
  /-- SWSTAT, R154. -/
  | swstat (o : OpF)
  /-- TRAP, R458. -/
  | trap (o : OpF)
  /-- TRET, R444. -/
  | tret (o : OpF)
  /-- CSRR, R445. -/
  | csrr (o : OpF)
  /-- CSRW, R445. -/
  | csrw (o : OpF)
  /-- KILL, R458. -/
  | kill (o : OpF)
  /-- FLAGR, R458. -/
  | flagr (o : OpF)
  /-- CLOCK, R458. -/
  | clock (o : OpF)
  /-- BRKPT, R458. -/
  | brkpt (o : OpF)
  /-- DIGEST, R409. -/
  | digest (o : OpF)
  /-- TLBQ, R459. -/
  | tlbq (o : OpF)
  /-- HREF, R49. -/
  | href (o : OpF)
  /-- HPF, R49. -/
  | hpf (o : OpF)
  /-- HSCH, R49. -/
  | hsch (o : OpF)
  /-- HINT_NOP, R25. -/
  | hintNop (o : OpH)
  /-- PAIRED_WORD, R37. -/
  | pairedWord (o : OpP)
  /-- ISSUE_SLOT_SELECT, R120. -/
  | issueSlotSelect (core part : Nat)
  /-- GROUP_PROMOTION, R120. -/
  | groupPromotion (g : GRef)
  /-- PAUSE_EXPIRY, R164. -/
  | pauseExpiry (g : GRef)
  /-- REG_LINE_FILL, R95. -/
  | regLineFill (g : GRef) (line : Nat)
  /-- REG_LINE_WRITEBACK, R95. -/
  | regLineWriteback (core : Nat) (g : GRef) (line : Nat)
  /-- RUN_COMMIT, R439. -/
  | runCommit (g : GRef)
  /-- DEFERRED_WRITE, R83. -/
  | deferredWrite (g : GRef)
  /-- TEAM_SCRATCH_RELEASE, R98. -/
  | teamScratchRelease (tm : TRef)
  /-- DET_UPDATE_HOLD, R358. -/
  | detUpdateHold (g : GRef)
  /-- ATOMIC_PERFORM, R335. -/
  | atomicPerform (g : GRef)
  /-- VIEW_ADVANCE, R327. -/
  | viewAdvance (core line : Nat)
  /-- LINE_PRESENT, R312. -/
  | linePresent (tm : TRef) (line : Nat)
  /-- WINDOW_ACCESS_ARRIVE, R316. -/
  | windowAccessArrive (g : GRef)
  /-- CNTWAIT_RECHECK, R185. -/
  | cntwaitRecheck (g : GRef)
  /-- PAGE_WALK, R421. -/
  | pageWalk (unit asid : Nat) (va : Word64)
  /-- ZB_RECHECK, R422. -/
  | zbRecheck (n : Nat)
  /-- PAGE_ZEROED, R422. -/
  | pageZeroed (n : Nat)
  /-- REFERRAL_DECIDE, R261. -/
  | referralDecide (core : Nat)
  /-- COPY_LINE_WRITE, R380. -/
  | copyLineWrite (n line : Nat)
  /-- COPY_COMPLETE, R371. -/
  | copyComplete (n : Nat)
  /-- GATHER_COMPLETE, R382. -/
  | gatherComplete (n : Nat)
  /-- COLL_COMPLETE, R385. -/
  | collComplete (n : Nat)
  /-- COLL_ABORT, R387. -/
  | collAbort (n : Nat)
  /-- LAUNCH_ENQUEUE, R388. -/
  | launchEnqueue (n : Nat)
  /-- BF_COMMAND_PERFORM, R284. -/
  | bfCommandPerform (core : Nat)
  /-- BF_STAGE_PASS, R299. -/
  | bfStagePass (core : Nat)
  /-- SWRUN_START, R141. -/
  | swrunStart (core slot : Nat)
  /-- SWEEP, R135. -/
  | sweep (core slot : Nat)
  /-- HEAD_EXAMINE, R106. -/
  | headExamine (q : Nat)
  /-- DEP_COUNTER_RECHECK, R107. -/
  | depCounterRecheck (q : Nat)
  /-- GRID_START, R111. -/
  | gridStart
  /-- TEAM_PLACE, R115. -/
  | teamPlace (grid : Nat)
  /-- PLACEMENT_TIMEOUT, R115. -/
  | placementTimeout (grid : Nat)
  /-- SWAP_TRIGGER, R123. -/
  | swapTrigger (grid : Nat)
  /-- TEAM_SWAP_OUT, R124. -/
  | teamSwapOut (tm : TRef)
  /-- TEAM_RESUME, R125. -/
  | teamResume (tm : TRef)
  /-- KILL_COMPLETE, R451. -/
  | killComplete (grid : Nat)
  /-- QWRITE_WRITE, R101. -/
  | qwriteWrite (q : Nat) (v : BarWrite)
  /-- QCTL_DISABLE, R103. -/
  | qctlDisable (q : Nat) (v : BarWrite)
  /-- QCTL_ENABLE, R103. -/
  | qctlEnable (q : Nat) (v : BarWrite)
  /-- QCTL_RECONFIGURE, R103. -/
  | qctlReconfigure (q : Nat) (v : BarWrite)
  /-- QBASE_WRITE, R103. -/
  | qbaseWrite (q : Nat) (v : BarWrite)
  /-- CTXSYNC, R417. -/
  | ctxsync (v : BarWrite)
  /-- SYNC_DONE, R414. -/
  | syncDone
  /-- INVAL_RANGE, R424. -/
  | invalRange (v : BarWrite)
  /-- INVAL_ASID, R424. -/
  | invalAsid (v : BarWrite)
  /-- INVAL_ALL, R424. -/
  | invalAll (v : BarWrite)
  /-- INVALIDATION_DONE, R424. -/
  | invalidationDone
  /-- REPLAY, R426. -/
  | replay (v : BarWrite)
  /-- GRIDKILL, R413. -/
  | gridkill (v : BarWrite)
  /-- ATTREQ, R435. -/
  | attreq (v : BarWrite)
  /-- ATTESTATION_DONE, R435. -/
  | attestationDone
  /-- FWCTL_VERIFY, R434. -/
  | fwctlVerify (v : BarWrite)
  /-- FWCTL_RESTART, R434. -/
  | fwctlRestart (v : BarWrite)
  /-- VERIFY_DONE, R434. -/
  | verifyDone
  /-- FIRMWARE_WINDOW_WRITE, R433. -/
  | firmwareWindowWrite (off : BarPlace) (bytes : List Byte)
  /-- REGISTER_WRITE, R414. -/
  | registerWrite (off : Nat) (v : BarWrite)
  /-- HOST_MEMORY_WRITE, R344. -/
  | hostMemoryWrite (pa : Nat) (bytes : List Byte)
  /-- HOST_MEMORY_READ, R344. -/
  | hostMemoryRead (pa n : Nat)
  /-- VF_APERTURE_ACCESS, R431. -/
  | vfApertureAccess (vf : Nat) (va : Word64) (acc : HostAccess)
  /-- ATS_INVALIDATION, R430. -/
  | atsInvalidation (pasid page pages : Nat)
  /-- HOST_LINK_DOWN, R430. -/
  | hostLinkDown
  /-- PEER_ACCESS, R432. -/
  | peerAccess (src pa : Nat) (acc : HostAccess)
  /-- PORT_LOSS, R432. -/
  | portLoss (port : Nat)
  /-- POWER_ON, R433. -/
  | powerOn
  /-- BUDGET_PERIOD_START, R428. -/
  | budgetPeriodStart
  /-- THROTTLE_STEP, R436. -/
  | throttleStep (heat : Heat)
  /-- THERMAL_TRIP, R436. -/
  | thermalTrip (heat : Heat)
  /-- SOFT_ERROR_CORRECTED, R455. -/
  | softErrorCorrected (site : PoisonSite)
  /-- UNCORRECTABLE_ERROR, R455. -/
  | uncorrectableError (site : PoisonSite)
  /-- DIE_ERROR, R456. -/
  | dieError (unit : SharedUnit)
  /-- HOST_LINK_UP, R430. -/
  | hostLinkUp
  /-- VERNAL_LINK_PORT_UP, R432. -/
  | vernalLinkPortUp (port : Nat)
  /-- BF_TRANSFER_COMPLETE, R282. -/
  | bfTransferComplete (core : Nat)
  deriving DecidableEq, Repr, Inhabited

end Sys2Proof
end

