-- ==== Sys2Proof/Config.lean ====
section
/-!
DEFINITION. What the spec leaves open: free values, with no body, so that nothing can be proved of which value they take; and the
constants of the FZ9 that several files use. Each free value has its row in notes/assumptions.
-/
namespace Sys2Proof

/-- Who moves next: the next word of a run, an event, or the passing of time in nanoseconds. -/
inductive Turn where
  | word (g : GRef) (b : Stream)
  | event (i : Instr)
  | time (ns : Nat)
  deriving DecidableEq, Repr, Inhabited

/-! ### Free values (log 1, 4, 5, 6, 8, 9, 10) -/

/-- The turn that comes when the schedule of the state lists none; applied to the tick (log 1). -/
opaque Config.turn : Nat → Turn
/-- A choice of a number, applied to the tick: the prefix a plain load sees (R327, R329), which copy of a code line is
fetched (R341), and which of two values two unordered writes leave (log 4). -/
opaque Config.choice : Nat → Nat
/-- The byte at an offset of a scratchpad that nothing has written since dispatch (R311); applied to the serial of the
placement (log 5). -/
opaque Config.scratchByte : Nat → Nat → Byte
/-- The bytes that a peer device or a rank on another device supplies; applied to the tick and a position (log 6). -/
opaque Config.peerByte : Nat → Nat → Byte
/-- Whether a Vernal Link path reaches a peer device over the ports that work (R432; log 6). -/
opaque Config.peerReached : BitVec 18 → Nat → Bool
/-- Whether a peer device grants an access (R432; log 6); applied to the tick. -/
opaque Config.peerGranted : Nat → Bool
/-- The busy cycles of an engine step whose length the spec does not give (R428; log 9); applied to the tick. -/
opaque Config.busyCycles : Nat → Nat
/-- SHA-256 (R434, R435), named by the spec and not given by it (log 8). -/
opaque Config.sha256 : List Byte → BitVec 256
/-- SLH-DSA-SHA2-128s verification under a public key (R433, R434; log 8): key, message, signature. -/
opaque Config.slhVerify : List Byte → List Byte → List Byte → Bool
/-- SLH-DSA-SHA2-128s signing by the device key (R435; log 8). -/
opaque Config.slhSign : List Byte → List Byte
/-- The public key the management core holds for verification (R434; log 8). -/
opaque Config.firmwareKey : List Byte
/-- The security version fused as the least accepted (R434; log 8). -/
opaque Config.fusedMinSvn : Nat
/-- The unique id of the device (R435; log 8). -/
opaque Config.uniqueId : BitVec 256
/-- The public key of the device (R435; log 8). -/
opaque Config.devicePublicKey : BitVec 256
/-- Whether an access of a path that misses the caches moves its line at the stack, which charges the HBM budget (R428; log 9);
applied to the tick. -/
opaque Config.hbmCharged : Nat → Bool
/-- The page of host memory that the host's own translation gives to a page of a PASID, after so many ATS invalidations (R423, R430;
log 68). -/
opaque Config.hostPage : Nat → Nat → Nat → Nat
/-- What BFDRAIN delivers to a lane from a poisoned accumulator, for which the spec gives no value (R455; log 31); applied to the tick. -/
opaque Config.poisonData : Nat → Nat → BitVec 64
/-- The engine-private bytes of a butterfly save area (R454; log 10); applied to a position. -/
opaque Config.bfQueueByte : Nat → Nat → Byte

/-! ### Figures (R15, R16) -/

/-- Cores of the device. -/
def numCores : Nat := 320
/-- The die of a core. -/
def dieOf (core : Nat) : Nat := core / 40
/-- Group slots of a partition, and partitions of a core. -/
def slotsPerPart : Nat := 12
def partsPerCore : Nat := 8
/-- Bytes of the scratchpad of a core. -/
def scratchBytes : Nat := 1048576
/-- Bytes of HBM behind one die (R307). -/
def dieBytes : Nat := 288000000000
/-- The hop distance of two dies (R13). -/
def hops (d e : Nat) : Nat :=
  (max (d / 4) (e / 4) - min (d / 4) (e / 4)) + (max (d % 4) (e % 4) - min (d % 4) (e % 4))

end Sys2Proof
end

