-- ==== Sys2Proof/Machine/State.lean ====
section
/-!
DEFINITION. The state of the device as plain data: registers and threads (04 R73, R92, R93), runs and rounds (04 R79 to R90), memory
and its orders (13 R322 to R332), the engines and their queues (06, 10, 11, 15), the distributor (05), contexts and the host
(17), traps and faults (18); and the state after reset.
-/
namespace Sys2Proof.Machine

/-! ### Registers and threads -/

/-- A V register of one thread: its word and its taint bit (R399). -/
structure VCell where
  w : Word32 := 0
  t : Bool := false
  deriving DecidableEq, Repr, Inhabited

/-- An interval register (R209): bounds, handle and taint. The reset value is the exact point 0 (R77). -/
structure XCell where
  lo : Word32 := 0
  hi : Word32 := 0
  h  : Word32 := 0x80000000
  t  : Bool := false
  deriving DecidableEq, Repr, Inhabited

/-- The tag of an S register (R370). -/
inductive Tag where
  | none | pending | failed
  deriving DecidableEq, Repr, Inhabited

/-- An S register: its word, its tag, and one taint bit for each half (R399; bit 0 is bits 31:0). -/
structure SCell where
  w   : Word64 := 0
  tag : Tag := .none
  t   : BitVec 2 := 0
  deriving DecidableEq, Repr, Inhabited

/-- The state of a thread (R78). -/
inductive Status where
  | never | live | exited
  deriving DecidableEq, Repr, Inhabited

/-- The three kinds of barrier (R178). -/
inductive Barrier where
  | team | role (r : Nat) | grid
  deriving DecidableEq, Repr, Inhabited

/-- What a word does to the predicate register of a lane (R156): nothing, a push, a replacement of p0, or the whole. -/
inductive PredOp where
  | keep | push (b : Bool) | rep (b : Bool) | all (p : BitVec 8)
  deriving DecidableEq, Repr, Inhabited

/-- What a blocked thread waits for (R78), with the address of the word where the rules return to it; or a predicate operation of a word of
the same run that follows a wait with a push, which takes its place behind that push (R157). -/
inductive Wait where
  | pred (op : PredOp)
  | bar (b : Barrier) (pc : Word64)
  | ordw (k : Nat)
  | cnt (addr thr pc : Word64)
  | fut (h : Word64)
  | det (key : Nat) (pc : Word64)
  deriving DecidableEq, Repr, Inhabited

/-- One thread (R73, R93, R263, R399, R406). `waits` holds the synchronising words of its latest run whose conditions are not met, each with
its place in the run, in program order (R78, R157). -/
structure Thread where
  st     : Status := .never
  pc     : Word64 := 0
  v      : Table VCell := []
  x      : Table XCell := []
  pred   : BitVec 8 := 0
  flags  : BitVec 6 := 0
  waits  : List (Nat × Wait) := []
  age    : BitVec 8 := 0
  dcode  : BitVec 6 := 0
  ct     : Bool := false
  digest : Word64 := 0
  digT   : Bool := false
  deriving DecidableEq, Repr, Inhabited

/-! ### What a word does -/

/-- What a word does to one lane: registers, predicates, flags raised (R196), flags written whole (R458), control taint (R400),
decision code (R263). -/
structure LaneWrite where
  lane  : Nat
  v     : List (Nat × VCell) := []
  x     : List (Nat × XCell) := []
  preds : List PredOp := []
  raise : BitVec 6 := 0
  flags : Option (BitVec 6) := none
  ct    : Bool := false
  dcode : Option (BitVec 6) := none
  deriving DecidableEq, Repr, Inhabited

/-- Where an access meets its bytes: memory at a physical address, a scratchpad, a context image, an operand slot (its element array or
its side-store), or an accumulator window (R305, R314, R315). -/
inductive Target where
  | mem (pa : Nat)
  | scratch (tm : TRef) (addr : Nat)
  | image (g : GRef) (off : Nat)
  | slot (core k : Nat) (side : Bool) (off : Nat)
  | acc (core k off : Nat)
  deriving DecidableEq, Repr, Inhabited

/-- A store of one lane, its address translated and its bytes converted (R347, R350). `ord` is the variant of R350; `word`
numbers the store word within its group. -/
structure StoreReq where
  lane  : Nat
  at_   : Target
  va    : Word64
  bytes : List Byte
  ord   : Nat
  t     : Bool
  word  : Nat := 0
  deriving DecidableEq, Repr, Inhabited

/-- An atomic of one lane (R352, R353); `key` names the answer of a returning one. -/
structure AtomReq where
  g     : GRef
  lane  : Nat
  core  : Nat
  key   : Option Nat
  at_   : Target
  va    : Word64
  size  : Nat
  op    : Nat
  ty    : Nat
  rm    : Nat
  scope : Nat
  det   : Bool
  v     : Word64
  cmp   : Word64
  t     : Bool
  deriving DecidableEq, Repr, Inhabited

/-- An engine command as its word issues it (R375, R277, R148): the numbers of its fields, read when the word executed. -/
inductive CmdKind where
  /-- COPY: records, bases, coordinates, spaces, rounding (R379). -/
  | copy (src dst : BitVec 512) (sbase dbase : Word64) (coord : List Int) (sspace dspace rm : Nat)
  /-- GATHER: records, bases, index list address, count, spaces, rounding (R382). -/
  | gather (src dst : BitVec 512) (sbase dbase list : Word64) (n ispace dspace rm : Nat)
  /-- COLL: communicator record, sequence, buffers, count, type, op, reduction, spaces, rounding (R384). -/
  | coll (comm : BitVec 512) (seq : Nat) (src dst : Word64) (n ty op red sspace dspace rm : Nat)
  /-- LAUNCH: packet and queue (R388). -/
  | launch (pkt : BitVec 1024) (q : Nat)
  /-- OSFILL (R282): type, space, slot, address, descriptor, scale address. -/
  | osfill (ty space f : Nat) (addr desc scale : Word64)
  /-- OSSAVE (R282). -/
  | ossave (ty space f : Nat) (addr desc scale : Word64)
  /-- BFSTAGE, BFCHAIN (R290, R292): chain, register, slot, accumulator, gang, tag. -/
  | stage (chain : Bool) (k f n : Nat) (gang : Bool) (tag : Nat)
  /-- BFZERO (R293). -/
  | zero (n : Nat)
  /-- BFDRAIN to a slot (R294): type, accumulator, rounding, slot. -/
  | drainSlot (ty n rm f : Nat)
  /-- BFDRAIN to memory (R294): type, accumulator, rounding, space, address, descriptor. -/
  | drainMem (ty n rm space : Nat) (addr desc : Word64)
  /-- SWRUN (R152): core and slot of the binding, serial, the sheet record, completion record address. -/
  | swrun (core slot serial : Nat) (record : BitVec 512) (recAt : Word64)
  /-- A COPY or COLL, by its engine and its destination base, whose record stands on a peer device that no path reaches (R376, R432). -/
  | lost (eng : Nat) (base : Word64)
  deriving DecidableEq, Repr, Inhabited

/-- A butterfly word that returns no future (R277), an LSU window access (R318), and the place in engine order of a window access that is
still to come, named by the serial of its engine command. -/
inductive BfOp where
  | release
  | claim (n key : Nat)
  | unclaim (f n : Nat)
  | setStride (k : Nat) (v : BitVec 32)
  | setGang (v : BitVec 39)
  | scale (write : Bool) (f : Nat) (v : Word32) (t : Bool) (key : Nat)
  | drainV (ty n rm : Nat) (row : Word64) (key : Nat)
  | winWrite (at_ : Target) (bytes : List Byte) (t : Bool) (word : Nat)
  | winMark (serial : Nat)
  | winRead (at_ : Target) (n lane key : Nat)
  deriving DecidableEq, Repr, Inhabited

/-- A poke or a wake of a sheet element (R153), or the near trigger that a poke sends (R141). -/
inductive PokeKind where
  | wake | near | val (w : Word32) | ctx (w : Word32)
  deriving DecidableEq, Repr, Inhabited

/-- An entry of a sheet's queue, with its issuer index (R74). -/
structure Poke where
  issuer : Nat
  elem   : Nat
  kind   : PokeKind
  t      : Bool
  deriving DecidableEq, Repr, Inhabited

/-- A boundary effect of a run (R82), in program order. A wait carries the place of its word in the run. -/
inductive Effect where
  | stores (l : List StoreReq) (unif : Bool)
  | atoms (l : List AtomReq) (unif : Bool)
  | phase (form : Nat)
  | fence (scope : Nat)
  | cfence (a b : Nat)
  | block (pos : Nat) (w : Wait) (lanes : List Nat)
  | ordd (k : Nat)
  | command (k : CmdKind) (d : Nat) (ctr : Word64) (key : Nat) (t : Bool)
  | cancel (h : Word64)
  | bfacq (key : Nat)
  | bf (op : BfOp)
  | bind (record : BitVec 512) (key : Nat) (t : Bool)
  | pokes (core slot serial : Nat) (l : List Poke)
  | bindRel (core slot serial : Nat)
  | kill (pc : Word64)
  deriving DecidableEq, Repr, Inhabited

/-- What an engine or a press unit answers a waiting word: a value, flags, taint and a code. -/
structure Answer where
  key  : Nat
  lane : Nat
  w    : Word64
  raise : BitVec 6 := 0
  t    : Bool := false
  code : Nat := 0
  deriving DecidableEq, Repr, Inhabited

/-- The lanes of a load with the values that their words read (R322, R336). -/
structure LoadLane where
  lane : Nat
  w    : Word64
  t    : Bool
  ct   : Bool
  deriving DecidableEq, Repr, Inhabited

/-- What a deferred write (R83) waits for and how it is formed. -/
inductive DForm where
  /-- The writes are known. -/
  | ready (l : List LaneWrite) (s : List (Nat × SCell))
  /-- LD (R349): destination, memory type, CV. -/
  | load (d ty : Nat) (cv : Bool) (l : List LoadLane)
  /-- LDU: destination, and every lane of the active set for its flags. -/
  | loadu (d ty : Nat) (cv : Bool) (l : LoadLane) (act : List Nat)
  /-- XLD (R268): destination, .lh, the reserved nodes. -/
  | xload (d : Nat) (lh : Bool) (nodes : List Nat) (l : List LoadLane)
  /-- XDIV (R255): destination, and for each lane the result and the node words to write. -/
  | xdiv (d : Nat) (l : List (Nat × XCell × Option (Nat × BitVec 128)))
  /-- ATOM: destination, type, the key of the answers, the lanes with the taint of their address registers. -/
  | atom (d ty : Nat) (key : Nat) (lanes : List (Nat × Bool))
  /-- ATOMU. -/
  | atomu (d ty : Nat) (key : Nat) (lane : Nat) (t : Bool) (act : List Nat)
  /-- XCMP: condition, policy, .rep; filter outcomes are answers already. -/
  | xcmp (cond pol : Nat) (rep : Bool) (key : Nat) (lanes : List Nat)
  /-- XSGN: destination, policy. -/
  | xsgn (d pol : Nat) (key : Nat) (lanes : List Nat)
  /-- XREF: destination, and for each lane the source as its word read it. -/
  | xref (d : Nat) (key : Nat) (lanes : List (Nat × XCell))
  /-- A uniform register takes an answer: BFSCALE, OSCLAIM, a future handle, SWBIND. -/
  | uniform (d : Nat) (key : Nat) (tag : Tag) (t : Bool)
  /-- A push of an answer into lanes: BFACQ. -/
  | push (key : Nat) (lanes : List Nat) (ct : Bool)
  /-- BFDRAIN.v (R294): destination, flags destination, lanes, and the taint of its operands. -/
  | drainV (d fd : Nat) (key : Nat) (lanes : List Nat) (t : Bool)
  /-- FSTAT (R394): the status word is read when the write is made. -/
  | fstat (d : Nat) (h : Word64) (t : BitVec 2)
  /-- CNTWAIT and FWAIT (R185, R391): the lanes block, or take their push at once; the flag is the control taint. -/
  | wait (w : Wait) (lanes : List (Nat × Bool))
  deriving DecidableEq, Repr, Inhabited

/-- A deferred write with the place of its word in the round, and the number of the round (R450). -/
structure Deferred where
  pc   : Word64
  pos  : Nat
  b    : Stream
  begun : Nat
  form : DForm
  deriving DecidableEq, Repr, Inhabited

/-- A precise fault or a requested trap at a word (R441, R446, R489). `detail` is TCAUSE.DETAIL of a FUTURE_FAULT, and 1 for a translation
fault of the LSU or CODE path (R426). -/
structure FaultInfo where
  cause  : Nat
  pc     : Word64
  addr   : Word64
  lanes  : LaneMask
  detail : Nat := 0
  pos    : Nat
  stream : Bool := false
  after  : Bool := false
  flags  : BitVec 6 := 0
  deriving DecidableEq, Repr, Inhabited

/-- A word that raised enabled flags in a lane (R450). -/
structure Raised where
  b    : Stream
  pos  : Nat
  pc   : Word64
  lane : Nat
  deriving DecidableEq, Repr, Inhabited

/-- A write of a run to control state of its group: trap registers and CR.DEBUG (R445), the refinement priority and the scheduling mark
(R49). The run sees it at once, the group takes it as the run commits (R89, R96). -/
inductive CtlWrite where
  | tpc (bank : Nat) (v : Word64)
  | taddr (bank : Nat) (v : Word64)
  | debug (ss be : Bool)
  | prio (v : BitVec 2)
  | mark (v : BitVec 2)
  deriving DecidableEq, Repr, Inhabited

/-- The expression log of a team (R249 to R252): nodes of 16 bytes, the heads of the two free lists, the two bump pointers, and the
counts of nodes in use (R273). -/
structure ExprLog where
  nodes     : Table (BitVec 128) := []
  scrHead   : Nat := 0x7FFFFFFF
  scrBump   : Nat := 0
  spillHead : Nat := 0x7FFFFFFF
  spillBump : Nat := 0
  scrUsed   : Nat := 0
  spillUsed : Nat := 0
  poison    : List Nat := []
  deriving DecidableEq, Repr, Inhabited

/-- The pre-image of one word of a run (R440): where the run stood, and its lanes, registers and effects, before the word executed; and the
expression log, where a store to a window precedes it in the run (R256). -/
structure Pre where
  at_     : Word64
  last    : Word64
  lanes   : List Thread
  s       : Table SCell
  written : List Nat
  effects : List Effect
  deferred : List Deferred
  ctl     : List CtlWrite
  pause   : Option Nat
  log     : Option ExprLog := none
  deriving DecidableEq, Repr, Inhabited

/-- A load that waits at its targets: the key under which engines answer its window reads, its lanes with their addresses and targets
(R285, R313), and the nodes that an XLD has reserved (R268), with the two bump pointers of the log before it reserved them. -/
structure Probe where
  key   : Option Nat
  lanes : List (Nat × Word64 × Target)
  nodes : Option (List Nat) := none
  bumps : Nat × Nat := (0, 0)
  deriving DecidableEq, Repr, Inhabited

/-- A run in progress or ended and not yet committed (R79 to R86, R439). `tret` is the resume PC of a TRET of it; `step` and `be` are SS and
BE of CR.DEBUG as the run began (R457); `lastAt` is the cycle of its latest word (R164), `cmds` the engine commands that its words hold
(R369), `pre` the pre-images of its words (R440). -/
structure Run where
  begun    : Word64
  at_      : Word64
  pos      : Nat := 0
  active   : LaneMask
  ended    : Bool := false
  s        : Table SCell
  written  : List Nat := []
  effects  : List Effect := []
  deferred : List Deferred := []
  ctl      : List CtlWrite := []
  fault    : Option FaultInfo := none
  missing  : List Nat := []
  pause    : Option Nat := none
  tfence   : Option (Word64 × Nat) := none
  exit     : Option (Word64 × Nat × List Nat) := none
  last     : Word64
  tret     : Option Word64 := none
  step     : Bool := false
  be       : Bool := true
  cmds     : Nat := 0
  lastAt   : Nat := 0
  probe    : Option Probe := none
  pre      : List Pre := []
  committed : Bool := false
  deriving DecidableEq, Repr, Inhabited

/-- A byte of a target that no memory is, as a store of run A put it there, and as it and the taint of its sector or object stood before:
loads of run B of the round do not see that store (R89, R322). -/
structure Veil where
  at_ : Target
  put : Byte
  old : Byte
  t   : Bool
  deriving DecidableEq, Repr, Inhabited

/-- A round (R87): the registers at its start, the number of stores issued before it, the threads runnable then, the stream B address still
waiting for a slot, and its runs; and what run B does not see of run A: its stores to other targets than memory, and its writes of control
state, as the writes that undo them (R89). -/
structure Round where
  startS   : Table SCell
  start    : List Thread
  begun    : Nat
  sids     : Nat := 0
  runnable : LaneMask := 0
  a        : Option Run
  b        : Option Run
  waitB    : Option Word64 := none
  veil     : List Veil := []
  ctlBack  : List CtlWrite := []
  deriving DecidableEq, Repr, Inhabited

/-- One bank of trap registers (R441, R446). -/
structure Bank where
  tpc    : Word64 := 0
  taddr  : Word64 := 0
  tcause : BitVec 20 := 0
  tstate : BitVec 8 := 0
  tlanes : LaneMask := 0
  deriving DecidableEq, Repr, Inhabited

/-- A future slot (R368): generation, completed, status word, place in the order of completions, the handle's engine. A slot that has held no
future has generation 0, so the first handle of it has GEN 1. DESIGN CHOICE: the spec resets GEN per slot and gives no value (R367; log 91). -/
structure Future where
  gen   : BitVec 33 := 0
  used  : Bool := false
  isDone : Bool := true
  word  : Word64 := 0
  order : Nat := 0
  eng   : Nat := 0
  deriving DecidableEq, Repr, Inhabited

/-- A command digest waiting for its turn to fold into the group's engine digest (R407), with the taint of what it folds (R409). -/
structure DigestTurn where
  serial : Nat
  value  : Option Word64
  t      : Bool := false
  deriving DecidableEq, Repr, Inhabited

/-- A group (R73, R92, R93, R368, R406, R446 to R450). `own` holds its window stores to its own image that have been performed while run B of
their round had still to run, as offset, bytes and taint: the registers take them as the round ends (R317, R338). -/
structure Group where
  ref     : GRef
  role    : Nat
  core    : Nat := 0
  part    : Nat := 0
  slot    : Nat := 0
  s       : Table SCell := []
  prio    : BitVec 2 := 0
  mark    : BitVec 2 := 0
  pauseTo : Option Nat := none
  pauses  : List Bool := []
  level   : BitVec 2 := 0
  bank1   : Bank := {}
  bank2   : Bank := {}
  flagPc  : Word64 := 0
  flagLane : BitVec 7 := 0
  flagV   : Bool := false
  flagAt  : Nat := 0
  ss      : Bool := false
  be      : Bool := true
  futures : Table Future := []
  engDig  : Word64 := 0
  engDigT : Bool := false
  digests : List DigestTurn := []
  lanes   : List Thread := []
  round   : Option Round := none
  outbox  : List (Stream × Effect) := []
  own     : List (Nat × List Byte × Bool) := []
  pend    : List Deferred := []
  detPend : List Deferred := []
  cfences : List (Nat × List Nat) := []
  answers : List Answer := []
  keys    : Nat := 0
  raised  : List Raised := []
  afters  : List FaultInfo := []
  eligible : Option Nat := none
  promoted : Bool := false
  replay  : Option Nat := none
  fenceRel : Nat := 0
  seen    : List Nat := []
  linesIn : List Nat := []
  poison  : List Nat := []
  deriving DecidableEq, Repr, Inhabited

/-! ### Teams and grids -/

/-- The bytes of a poisoned line that the lanes of one store word have written so far (R455). -/
structure Cover where
  line : Nat
  g    : GRef
  word : Nat
  mask : BitVec 64
  deriving DecidableEq, Repr, Inhabited

/-- A store of a group held at an absent scratchpad line (R313); `n` numbers it. -/
structure Held where
  n     : Nat
  g     : GRef
  addr  : Nat
  bytes : List Byte
  t     : Bool
  word  : Nat := 0
  deriving DecidableEq, Repr, Inhabited

/-- An operand slot of the butterfly engine (R279). -/
structure BfSlot where
  claimed : Bool := false
  tag     : Nat := 0
  rows    : Nat := 0
  scale   : Word32 := 0x3F800000
  data    : Table Byte := []
  side    : Table Byte := []
  t       : Bool := false
  poison  : Bool := false
  deriving DecidableEq, Repr, Inhabited

/-- A tile accumulator (R204, R205, R283): 50-bit elements, grid exponent, tensor factor. -/
structure BfAcc where
  elems : Table (BitVec 50) := []
  g     : Int := -32768
  T     : BitVec 72 := 0x00FFD2400000000000#72
  rows  : Nat := 64
  tset  : Bool := false
  dirty : Bool := false
  t     : Bool := false
  poison : Bool := false
  deriving DecidableEq, Repr, Inhabited

/-- One participant of a gang command (R297): its command, its flags, and the cause that its part ended with (0 for none). -/
structure BfPart where
  g      : GRef
  serial : Nat
  slot   : Nat
  gen    : BitVec 33
  ctr    : Word64
  kind   : CmdKind
  flags  : BitVec 6 := 0
  cause  : Nat := 0
  deriving DecidableEq, Repr

/-- One accepted command of a butterfly engine (R284); `held` says that its team held the engine at its acceptance (R276). With the progress
of a transfer, stage, chain or gang (R302): `stage` counts the lines of a transfer or the enabled stages of a chain, `pass` the passes of a
stage (R299), `part` the parts of a gang. `readT` says that a fill has read a tainted sector (R304), `t` that its digest entry is tainted, by
its word or by what it moved (R409). -/
structure BfCmd where
  g      : GRef
  team   : TRef
  asid   : Nat
  serial : Nat
  fut    : Option (Nat × BitVec 33)
  ctr    : Word64
  kind   : CmdKind ⊕ BfOp
  held   : Bool := true
  begun  : Bool := false
  stop   : Bool := false
  hold   : Option Nat := none
  stage  : Nat := 0
  pass   : Nat := 0
  part   : Nat := 0
  flags  : BitVec 6 := 0
  mid    : List (Table Word32) := []
  peers  : List BfPart := []
  after  : List Nat := []
  lines  : List (TRef × Nat) := []
  wrote  : Table (BitVec 3 × Word64) := []
  readT  : Bool := false
  t      : Bool := false
  deriving DecidableEq, Repr

/-- The rendezvous latch (R297): kind, register, tag, and the participants that wait. -/
structure Latch where
  chain : Bool
  k     : Nat
  tag   : Nat
  parts : List BfCmd
  deriving DecidableEq, Repr

/-- The butterfly engine of a core (R274 to R302). -/
structure BfEngine where
  holder : Option TRef := none
  leaving : Bool := false
  slots  : Table BfSlot := []
  accs   : Table BfAcc := []
  bst    : Table (BitVec 32) := []
  gang   : BitVec 39 := 0
  latch  : Option Latch := none
  queue  : List BfCmd := []
  deriving DecidableEq, Repr

/-- The preference of a team (R113): die, slice, and the core of a TABLE entry. -/
structure Pref where
  die   : Nat := 0
  slice : Nat := 0
  core  : Option Nat := none
  deriving DecidableEq, Repr, Inhabited

/-- The placement of one team under way (R113, R115): its preference, fixed as it became next or asked to resume, the cycle since which it
waits for its preferred die, and whether that wait is over. -/
structure Wish where
  pref    : Pref
  since   : Option Nat := none
  expired : Bool := false
  deriving DecidableEq, Repr, Inhabited

/-- A team (R73, R105, R113 to R118, R250, R311 to R313, R408). -/
structure Team where
  ref     : TRef
  tx      : Nat := 0
  ty      : Nat := 0
  tz      : Nat := 0
  frame   : Nat := 0
  core    : Nat := 0
  quad    : Bool := false
  prefDie : Nat := 0
  prefSlice : Nat := 0
  bases   : List Nat := [0]
  size    : Nat := 0
  serial  : Nat := 0
  scratch : Table (Option Byte) := []
  spTaint : Table Bool := []
  held    : List Held := []
  spPoison : List Nat := []
  spCover : List Cover := []
  log     : ExprLog := {}
  resident : Bool := true
  leaving : Bool := false
  exited  : Bool := false
  released : Bool := false
  savedBf : List (Nat × BfEngine) := []
  asking  : Bool := false
  wish    : Option Wish := none
  deriving DecidableEq, Repr

/-- A fault record (R452) without the fields that the context and the clock supply. -/
structure FaultRec where
  kind  : Nat
  final : Nat
  grid  : BitVec 32 := 0
  addr  : Word64 := 0
  pc    : Word64 := 0
  team  : Word64 := 0xFFFFFFFFFFFFFFFF
  lane  : BitVec 8 := 0xFF
  group : BitVec 8 := 0xFF
  detail : BitVec 8 := 0
  level : BitVec 2 := 0
  cause1 : BitVec 8 := 0
  cause2 : BitVec 8 := 0
  deriving DecidableEq, Repr, Inhabited

/-- A started grid (R104, R111, R183). -/
structure Grid where
  id      : BitVec 32
  slot    : Nat
  asid    : Nat
  pkt     : BitVec 1024
  counters : List Word64 := [0, 0, 0, 0]
  nextTeam : Nat := 0
  wish    : Option Wish := none
  waiting : Option Nat := none
  exited  : List Nat := []
  digests : Table Word64 := []
  kill    : Option FaultRec := none
  ended   : Bool := false
  deriving DecidableEq, Repr, Inhabited

/-- A held deterministic update (R358); the stores numbered below `before` were issued before it. -/
structure HeldUpd where
  issuer : Nat
  req    : AtomReq
  before : Nat := 0
  deriving DecidableEq, Repr, Inhabited

/-- The holding buffer of an address of a grid, with its sort-area entries (R358, R411). -/
structure Hold where
  grid  : Nat
  pa    : Nat
  ups   : List HeldUpd
  sorted : List HeldUpd := []
  entry : Bool := true
  deriving DecidableEq, Repr, Inhabited

/-- An update applied early, whose old value its lane receives at the barrier's release (R361). -/
structure EarlyAns where
  g   : GRef
  ans : Answer
  deriving DecidableEq, Repr, Inhabited

/-! ### Memory -/

/-- A byte of memory as it stood before one write of its line's home order, with the taint of its sector then (R399). -/
structure Past where
  pa  : Nat
  seq : Nat
  old : Byte
  t   : Bool := false
  deriving DecidableEq, Repr, Inhabited

/-- Memory behind every home (R308, R323): the present bytes, the bytes each write replaced, oldest first, and the number of
writes so far, which is the phase order's (R324) place of the last one. -/
structure Home where
  mem    : Table Byte := []
  past   : List Past := []
  seq    : Nat := 0
  poison : List Nat := []
  cover  : List Cover := []
  taint  : Table Bool := []
  deriving DecidableEq, Repr, Inhabited

/-- A `.g` store that has been issued (R322): unposted while `seq` is none, then the place of its posting in the phase order. `rel` is
the scope of an ST.REL: 0 none, 1 TEAM, 2 CORE. `pubs` are the groups it is published to (R332). -/
structure GStore where
  sid   : Nat
  g     : GRef
  core  : Nat
  va    : Word64 := 0
  pa    : Nat
  bytes : List Byte
  rel   : Nat
  pubs  : List GRef := []
  seq   : Option Nat := none
  t     : Bool
  det   : Bool
  word  : Nat := 0
  deriving DecidableEq, Repr, Inhabited

/-- A core's view (R327): what the last renew covered, and the lines that have grown past it. -/
structure View where
  all   : Nat := 0
  lines : Table Nat := []
  deriving DecidableEq, Repr, Inhabited

/-- A line of an instruction cache and the moment it was fetched (R341). -/
structure ILine where
  core : Nat
  pa   : Nat
  seq  : Nat
  deriving DecidableEq, Repr, Inhabited

/-- A translation held by the TLB or walk cache of a unit (R424): the leaf entry and where it was found. -/
structure TlbEntry where
  unit : Nat
  asid : Nat
  vpn  : Nat
  size : Nat
  pte  : Word64
  deriving DecidableEq, Repr, Inhabited

/-- A walk that found a leaf with Z = 1 (R422): it zeroes the page, or waits for the walk that does. -/
structure ZWalk where
  n     : Nat
  asid  : Nat
  va    : Word64
  pteAt : Nat
  pte   : Word64
  size  : Nat
  owner : Bool
  deriving DecidableEq, Repr, Inhabited

/-! ### Engines -/

/-- A window access of an engine command, by its serial, that its target has accepted and that waits there (R319). -/
structure Arrival where
  serial : Nat
  va     : Word64
  at_    : Target
  deriving DecidableEq, Repr, Inhabited

/-- A line that a COPY or GATHER has taken (R339): a line of memory by its number, one of a peer page above those, with its bytes and the
taint of its sectors. -/
structure GotLine where
  key   : Nat
  bytes : List Byte
  t0    : Bool
  t1    : Bool
  deriving DecidableEq, Repr, Inhabited

/-- A command of the copy, gather, collective or launch engine (R371): what it may still write, and how it ends. `got` holds the lines that
it has read. -/
structure Command where
  serial : Nat
  g      : GRef
  asid   : Nat
  core   : Nat
  slot   : Nat
  gen    : BitVec 33
  eng    : Nat
  kind   : CmdKind
  ctr    : Word64
  lines  : List (Option TRef × Nat)
  after  : List Nat := []
  cancel : Bool := false
  abort  : Bool := false
  stop   : Option Nat := none
  flags  : BitVec 6 := 0
  failed : Option (Nat × Nat) := none
  got    : List GotLine := []
  wrote  : Table (BitVec 3 × Word64) := []
  t      : Bool := false
  det    : Bool := false
  deriving DecidableEq, Repr

/-- A lane referred to the refinement engine (R260), or an XREF of it (R272), with the expression log as its word read it. -/
structure Referral where
  g    : GRef
  core : Nat
  key  : Nat
  lane : Nat
  prio : Nat
  a    : Word32 ⊕ Nat
  b    : Option (Word32 ⊕ Nat)
  stage : Option Nat
  nodes : Table (BitVec 128)
  t    : Bool := false
  deriving DecidableEq, Repr

/-- A SWRUN accepted for a sheet (R152). `changed` holds, for each element it has written, the word it first found, the word it last left
(R407) and the taint of that one (R409); `t` is the taint of its word, `wroteT` says that some word it wrote was tainted. -/
structure SwRun where
  serial : Nat
  g      : GRef
  slot   : Nat
  gen    : BitVec 33
  recAt  : Word64
  ctr    : Word64
  cancel : Bool := false
  started : Bool := false
  sweeps : Nat := 0
  flags  : BitVec 6 := 0
  table  : List Word64 := []
  code   : List (List Word64) := []
  changed : Table (Word64 × Word64 × Bool) := []
  after  : List Nat := []
  stop   : Option Nat := none
  t      : Bool := false
  wroteT : Bool := false
  deriving DecidableEq, Repr, Inhabited

/-- A bound sheet (R128, R136, R137, R149, R490). -/
structure Sheet where
  core    : Nat
  slot    : Nat
  cores   : List (Nat × Nat)
  serial  : BitVec 32
  team    : TRef
  asid    : Nat
  record  : BitVec 512
  sweepNo : BitVec 32 := 0
  deckle  : Table Bool := []
  queue   : List Poke := []
  pendW   : List Poke := []
  runs    : List SwRun := []
  runnable : Nat := 0
  releasing : Bool := false
  deriving DecidableEq, Repr, Inhabited

/-- A SWRUN whose sheet had gone when its engine accepted it (R152; log 33): the sheet as its word named it, and the run. -/
structure Orphan where
  sheet : Sheet
  run   : SwRun
  deriving DecidableEq, Repr, Inhabited

/-! ### Queues, contexts and the host -/

/-- The head of a launch queue under examination (R106, R107, R111). -/
structure Head where
  pkt   : BitVec 1024
  at_   : Word64
  met   : List Nat := []
  ready : Option Nat := none
  deriving DecidableEq, Repr, Inhabited

/-- A launch queue (R100). -/
structure Queue where
  qctl  : Word64 := 0
  qbase : Word64 := 0
  write : Word64 := 0
  read  : Word64 := 0
  head  : Option Head := none
  deriving DecidableEq, Repr, Inhabited

/-- A valid context (R415, R416): the device's copy of its descriptor, its budget table and counters (R427, R428), the records
written or dropped. -/
structure Context where
  asid   : Nat
  desc   : BitVec 1024
  budget : List (BitVec 32) := []
  spent  : Table Nat := []
  frwrite : BitVec 32 := 0
  drops  : BitVec 32 := 0
  recs   : Word64 := 0
  replays : Nat := 0
  deriving DecidableEq, Repr, Inhabited

/-- A device operation that a write has started and that has not completed (R414), and an ATS invalidation of the host (R430). REPLAY
completes in its write. -/
inductive DevOp where
  | sync (asid : Nat)
  | inval (scope pages asid : Nat) (addr : Word64)
  | gridkill (asid grid : Nat)
  | attest
  | ats (pasid page pages : Nat)
  deriving DecidableEq, Repr, Inhabited

/-- A page of host memory held by the address translation cache of the host link (R423): its PASID, its number, and the host's translation. -/
structure AtcEntry where
  pasid : Nat
  page  : Nat
  host  : Nat
  deriving DecidableEq, Repr, Inhabited

/-- The registers of R413 and the host side of the device (R412 to R436). `atsN` counts the ATS invalidations received; `synced` is what the
first sync not yet complete has read of its descriptor and its budget table, none of these where they were poisoned (R416). -/
structure Device where
  state    : Nat := 0
  cause    : Nat := 0
  ctxBase  : Word64 := 0
  syncs    : BitVec 32 := 0
  syncBad  : Bool := false
  invAddr  : Word64 := 0
  invDone  : Word64 := 0
  domIdx   : BitVec 8 := 0
  attDone  : Word64 := 0
  qowner   : Table (BitVec 6) := []
  nonce    : Table Byte := []
  attAddr  : Word64 := 0
  ops      : List DevOp := []
  synced   : Option (BitVec 1024 × Option (List (BitVec 32))) := none
  window   : Table Byte := []
  length   : Nat := 0
  image    : List Byte := []
  caps     : Bool := false
  grants   : Table Byte := []
  linkUp   : Bool := true
  atc      : List AtcEntry := []
  atsN     : Nat := 0
  ports    : BitVec 18 := 0x3FFFF
  mhz      : Nat := 1000
  msix     : List (Nat × Nat) := []
  ns       : Nat := 0
  mcycles  : Nat := 0
  period   : Nat := 0
  throttleAt : Nat := 0
  gridIds  : BitVec 32 := 0
  readData : List Byte := []
  deriving DecidableEq, Repr, Inhabited

/-- The state of the machine. -/
structure State where
  grids    : List Grid := []
  teams    : List Team := []
  groups   : List Group := []
  home     : Home := {}
  stores   : List GStore := []
  sids     : Nat := 0
  views    : Table View := []
  ilines   : List ILine := []
  tlb      : List TlbEntry := []
  zwalks   : List ZWalk := []
  cmds     : List Command := []
  arrived  : List Arrival := []
  bf       : Table BfEngine := []
  referrals : List Referral := []
  sheets   : List Sheet := []
  orphans  : List Orphan := []
  holds    : List Hold := []
  early    : List EarlyAns := []
  collSeq  : List (Nat × Nat × Nat) := []
  collDone : List (Nat × Nat) := []
  rota     : Table Nat := []
  serials  : Nat := 0
  queues   : Table Queue := []
  ctxs     : List Context := []
  dev      : Device := {}
  turns    : List Turn := []
  tick     : Nat := 0
  cur      : Option (GRef × Stream) := none
  deriving DecidableEq, Repr

/-! ### Outcomes that are no next state -/

/-- Why the machine stops. Device faults are states of the machine (R437 to R452), not stops. -/
inductive Fault where
  /-- Raised by the meaning of a word when no run is in progress whose word it could be. Safe: no such state executes a word. -/
  | noRun
  deriving DecidableEq, Repr, Inhabited

/-- Why the model gives no meaning. -/
inductive Refusal where
  /-- Raised by an arm of the dispatch whose instruction has no meaning yet. Safe. -/
  | notModelled (mnemonic : String)
  deriving DecidableEq, Repr, Inhabited

/-- The machine right after reset: nothing launched, no context valid, DEVSTAT RESET (R413, R433). -/
def State.reset : State := {}

end Sys2Proof.Machine
end

