-- ==== Sys2Proof/Machine/Memory.lean ====
section
/-!
DEFINITION. Memory at the homes, views, posting and renewing (13_phase_consistency.md R322 to R332, R339), and translation
(17_contexts_and_host.md R419 to R424). What an unlisted byte reads as is 0 (log 2).
-/
namespace Sys2Proof.Machine
open Sys2Proof

/-- Bits `lo + n - 1` to `lo` of a record. -/
def bits {k : Nat} (b : BitVec k) (lo n : Nat) : Nat := (b.toNat >>> lo) % 2 ^ n
/-- Bits `lo + n - 1` to `lo`, as a word. -/
def bits64 {k : Nat} (b : BitVec k) (lo n : Nat) : Word64 := BitVec.ofNat 64 (bits b lo n)

/-- The value of bytes, lowest address first (R2). -/
def leNat : List Byte → Nat
  | [] => 0
  | b :: rest => b.toNat + 256 * leNat rest
/-- The `n` bytes of a value, lowest address first (R2). -/
def leBytes (v : Nat) : Nat → List Byte
  | 0 => []
  | n + 1 => BitVec.ofNat 8 v :: leBytes (v / 256) n

/-! ### Homes -/

/-- What a write does to the taint of its sectors (R400, R402): a write from outside every deterministic grid clears it; a write of a
deterministic grid sets it, clears it where it fills the sector, or leaves it. -/
inductive TaintMode where
  | outside | det (t : Bool)
  deriving DecidableEq, Repr, Inhabited

/-- The byte that an unlisted address holds (log 2). -/
def memDefault : Byte := 0

/-- The memory of a home is in canonical form. -/
def Memory.wf (m : Table Byte) : Bool := Table.wf memDefault m

/-- The physical addresses that exist (R307). -/
def paExists (pa : Nat) : Bool :=
  decide (2 ^ 51 ≤ pa) || (decide (pa < 2 ^ 42) && decide (pa % 2 ^ 39 < dieBytes))

/-- Where the 4 KiB capability region stands for the page-table entries that map it (R19): the spec gives it no physical address, and the
model takes the last page of the address space. DESIGN CHOICE (log 67). -/
def capPa : Nat := 2 ^ 52 - 4096
/-- A byte of the capability region. -/
def inCaps (pa : Nat) : Bool := decide (capPa ≤ pa)
/-- System memory behind the host link (R307). -/
def isSystem (pa : Nat) : Bool := decide (2 ^ 51 ≤ pa) && !inCaps pa
/-- Memory that a write reaches: the capability region is read-only to all (R20). -/
def paWritable (pa : Nat) : Bool := paExists pa && !inCaps pa

/-- The byte at the home now. -/
def Home.byte (h : Home) (pa : Nat) : Byte := Table.get memDefault h.mem pa
/-- The byte as the writes up to place `n` of the phase order left it. -/
def Home.byteAt (h : Home) (n pa : Nat) : Byte :=
  match h.past.find? fun p => p.pa == pa && decide (n < p.seq) with
  | some p => p.old
  | none => h.byte pa
/-- `n` bytes at the home now. -/
def Home.read (h : Home) (pa n : Nat) : List Byte := (List.range n).map fun i => h.byte (pa + i)
/-- `n` bytes as of a place of the phase order. -/
def Home.readAt (h : Home) (k pa n : Nat) : List Byte := (List.range n).map fun i => h.byteAt k (pa + i)
/-- The taint of the sector of a byte as the writes up to place `n` left it (R399): caches keep the bit with the bytes. -/
def Home.taintedAt (h : Home) (n pa : Nat) : Bool :=
  match h.past.find? fun p => p.pa / 32 == pa / 32 && decide (n < p.seq) with
  | some p => p.t
  | none => Table.get false h.taint (pa / 32)
/-- The place of the last write to a byte up to place `n`; 0 where none. -/
def Home.lastWrite (h : Home) (n pa : Nat) : Nat :=
  h.past.foldl (fun m p => if p.pa = pa ∧ p.seq ≤ n then max m p.seq else m) 0
/-- The place of the last write to a 64-byte line. -/
def Home.lineLast (h : Home) (line : Nat) : Nat :=
  h.past.foldl (fun m p => if p.pa / 64 = line then max m p.seq else m) 0
def Home.nat (h : Home) (pa n : Nat) : Nat := leNat (h.read pa n)

/-- The sectors that `n` bytes at `pa` touch (R399). -/
def sectorsOf (pa n : Nat) : List Nat :=
  if n = 0 then [] else (List.range ((pa + n - 1) / 32 - pa / 32 + 1)).map (· + pa / 32)
/-- The lines that `n` bytes at `pa` touch. -/
def linesOf (pa n : Nat) : List Nat :=
  if n = 0 then [] else (List.range ((pa + n - 1) / 64 - pa / 64 + 1)).map (· + pa / 64)

/-- Taint of sectors after a write (R400, R402). -/
def writeTaint (m : TaintMode) (pa n : Nat) (t : Table Bool) : Table Bool :=
  (sectorsOf pa n).foldl (fun t k =>
    match m with
    | .outside => Table.set false t k false
    | .det true => Table.set false t k true
    | .det false => if pa ≤ 32 * k ∧ 32 * k + 32 ≤ pa + n then Table.set false t k false else t) t

/-- Bytes stored in a byte table. -/
def setBytes (m : Table Byte) (pa : Nat) : List Byte → Table Byte
  | [] => m
  | b :: rest => setBytes (Table.set memDefault m pa b) (pa + 1) rest

/-- One write of a line's home order (R323): its bytes enter together, at the next place of the phase order. A write that covers a
whole line clears its poison (R455). -/
def Home.write (h : Home) (m : TaintMode) (pa : Nat) (bs : List Byte) : Home :=
  { h with
    mem := setBytes h.mem pa bs
    past := h.past ++ (List.range bs.length).map fun i => { pa := pa + i, seq := h.seq + 1, old := h.byte (pa + i), t := Table.get false h.taint ((pa + i) / 32) }
    seq := h.seq + 1
    poison := h.poison.filter fun l => !(decide (pa ≤ 64 * l) && decide (64 * l + 64 ≤ pa + bs.length))
    taint := writeTaint m pa bs.length h.taint }

/-- Taint of the sectors of scattered bytes after one write (R380, R400, R402). -/
def scatterTaint (m : TaintMode) (l : List (Nat × Byte)) (t : Table Bool) : Table Bool :=
  ((l.map fun p => p.1 / 32).dedup).foldl (fun t k =>
    match m with
    | .outside => Table.set false t k false
    | .det true => Table.set false t k true
    | .det false => if (List.range 32).all fun i => l.any fun p => p.1 == 32 * k + i then Table.set false t k false else t) t

/-- The lines that scattered bytes cover whole. -/
def scatterFull (l : List (Nat × Byte)) (k : Nat) : Bool := (List.range 64).all fun i => l.any fun p => p.1 == 64 * k + i

/-- One write of a line's home order that covers scattered bytes of the line (R377, R380). -/
def Home.scatter (h : Home) (m : TaintMode) (l : List (Nat × Byte)) : Home :=
  { h with
    mem := l.foldl (fun t p => Table.set memDefault t p.1 p.2) h.mem
    past := h.past ++ l.map fun p => { pa := p.1, seq := h.seq + 1, old := h.byte p.1, t := Table.get false h.taint (p.1 / 32) }
    seq := h.seq + 1
    poison := h.poison.filter fun k => !scatterFull l k
    taint := scatterTaint m l h.taint }

/-- Some sector of the bytes is tainted. -/
def Home.tainted (h : Home) (pa n : Nat) : Bool := (sectorsOf pa n).any fun k => Table.get false h.taint k

/-- Lines written from a poisoned source stay poisoned (R455). -/
def State.markPoison (s : State) (pa n : Nat) : State :=
  { s with home := { s.home with poison := (s.home.poison ++ linesOf pa n).dedup } }

/-- A write reaches memory (R430): writes to system memory are discarded while the host link is down, and so is a write where no
memory exists, or to the capability region (R20). -/
def State.homeWrite (s : State) (m : TaintMode) (pa : Nat) (bs : List Byte) : State :=
  if isSystem pa && !s.dev.linkUp then s
  else if paWritable pa then { s with home := s.home.write m pa bs } else s

/-- A scattered write reaches memory, under the same rules. -/
def State.homeScatter (s : State) (m : TaintMode) (l : List (Nat × Byte)) : State :=
  { s with home := s.home.scatter m (l.filter fun p => paWritable p.1 && !(isSystem p.1 && !s.dev.linkUp)) }

/-- A read of these bytes delivers poison (R430, R455). -/
def State.poisoned (s : State) (pa n : Nat) : Bool :=
  (isSystem pa && !s.dev.linkUp) || (linesOf pa n).any fun l => s.home.poison.contains l

/-! ### Posting, views, renewing (R325 to R328) -/

def State.viewOf (s : State) (core line : Nat) : Nat :=
  let v := Table.get {} s.views core
  max v.all (Table.get 0 v.lines line)

/-- A view grows to a place of the phase order; it never retreats (R327). -/
def State.growView (s : State) (core line n : Nat) : State :=
  let v := Table.get {} s.views core
  if n ≤ max v.all (Table.get 0 v.lines line) then s
  else { s with views := Table.set {} s.views core { v with lines := Table.set 0 v.lines line n } }

/-- renew (R328). -/
def State.renew (s : State) (core : Nat) : State :=
  { s with views := Table.set {} s.views core { all := s.home.seq, lines := [] } }

/-- The bytes of a line that a write of `n` bytes at an address covers. -/
def lineMask (line a n : Nat) : BitVec 64 :=
  (List.range 64).foldl (fun m i => if a ≤ 64 * line + i ∧ 64 * line + i < a + n then m ||| (1#64 <<< i) else m) 0
/-- The lanes of one store word that together cover a poisoned line clear its poison (R455): the poison that is left, and the bytes covered so
far. -/
def coverLines (g : GRef) (word a n : Nat) (poison : List Nat) (cover : List Cover) : List Nat × List Cover :=
  ((linesOf a n).filter poison.contains).foldl (fun (r : List Nat × List Cover) l =>
    let mine (c : Cover) : Bool := decide (c.line = l) && decide (c.g = g) && decide (c.word = word)
    let m := ((r.2.find? mine).map (·.mask)).getD 0 ||| lineMask l a n
    if m = BitVec.allOnes 64 then (r.1.filter (· ≠ l), r.2.filter fun c => decide (c.line ≠ l))
    else (r.1, { line := l, g := g, word := word, mask := m } :: r.2.filter fun c => !mine c)) (poison, cover)
/-- One store is appended to its home order. -/
def State.postOne (s : State) (st : GStore) : State × GStore :=
  let s := s.homeWrite (if st.det then .det st.t else .outside) st.pa st.bytes
  let c := coverLines st.g st.word st.pa st.bytes.length s.home.poison s.home.cover
  ({ s with home := { s.home with poison := c.1, cover := c.2 } }, { st with seq := some s.home.seq })

/-- Posts the chosen stores of a list in its order. -/
def postList (p : GStore → Bool) (s : State) : List GStore → State × List GStore
  | [] => (s, [])
  | st :: rest =>
    if st.seq.isNone && p st then
      let (s, st) := s.postOne st
      let (s, rest) := postList p s rest
      (s, st :: rest)
    else
      let (s, rest) := postList p s rest
      (s, st :: rest)

/-- Every unposted store that `p` chooses is posted, in issue order, at this moment (R326). -/
def State.postWhere (s : State) (p : GStore → Bool) : State :=
  let (s', l) := postList p s s.stores
  { s' with stores := l }

/-- post(core) (R326). -/
def State.post (s : State) (core : Nat) : State := s.postWhere fun st => decide (st.core = core)
/-- The stores of one group are posted. -/
def State.postGroup (s : State) (g : GRef) : State := s.postWhere fun st => decide (st.g = g)
/-- The stores of one group to one line are posted (R325). -/
def State.postLine (s : State) (g : GRef) (line : Nat) : State :=
  s.postWhere fun st => decide (st.g = g) && decide (st.pa / 64 = line)
/-- The stores of a team are posted. -/
def State.postTeam (s : State) (t : TRef) : State := s.postWhere fun st => decide (st.g.tref = t)
/-- The stores of a grid are posted. -/
def State.postGrid (s : State) (g : Nat) : State := s.postWhere fun st => decide (st.g.grid = g)

/-! ### Contexts -/

def State.ctx? (s : State) (asid : Nat) : Option Context := s.ctxs.find? fun c => decide (c.asid = asid)
def Context.root (c : Context) : Nat := bits c.desc 64 64
def Context.frbase (c : Context) : Nat := bits c.desc 128 64
def Context.frlog (c : Context) : Nat := bits c.desc 27 5
def Context.msix (c : Context) : Nat := bits c.desc 32 6
def Context.pasid (c : Context) : Nat := bits c.desc 44 20
def Context.vf (c : Context) : Nat := bits c.desc 38 6
def Context.replayMode (c : Context) : Bool := c.desc.getLsbD 1
def Context.trapPc (c : Context) : Word64 := bits64 c.desc 256 64
def Context.save (c : Context) : Word64 := bits64 c.desc 320 64
def Context.budgetAt (c : Context) : Nat := bits c.desc 384 64
def Context.commBase (c : Context) : Nat := bits c.desc 448 32
def Context.commCnt (c : Context) : Nat := bits c.desc 480 32
def Context.capVa (c : Context) : Word64 := bits64 c.desc 512 64

def State.setCtx (s : State) (c : Context) : State :=
  { s with ctxs := s.ctxs.map fun d => if d.asid = c.asid then c else d }

/-! ### Page tables (R419 to R421) -/

def pteV (p : Word64) : Bool := p.getLsbD 0
def pteR (p : Word64) : Bool := p.getLsbD 1
def pteW (p : Word64) : Bool := p.getLsbD 2
def pteX (p : Word64) : Bool := p.getLsbD 3
def pteLeaf (p : Word64) : Bool := p.getLsbD 4
def pteZB (p : Word64) : Bool := p.getLsbD 5
def ptePeer (p : Word64) : Bool := p.getLsbD 61
def pteImg (p : Word64) : Bool := p.getLsbD 62
def pteZ (p : Word64) : Bool := p.getLsbD 63
def pteContig (p : Word64) : Bool := p.getLsbD 60
def ptePdev (p : Word64) : Nat := bits p 52 8
/-- The physical address of the page or of the next table. -/
def ptePa (p : Word64) : Nat := bits p 12 40 * 4096

/-- log2 of the page size by the size code of R459. -/
def pageBits : Nat → Nat
  | 0 => 12
  | 1 => 16
  | 2 => 21
  | _ => 30

/-- The leaf that a walk reached: its entry, where the entry stands, and the size code. -/
structure Leaf where
  pte : Word64
  at_ : Nat
  size : Nat
  deriving DecidableEq, Repr, Inhabited

/-- The checks of R421 on a leaf at a level. -/
def leafOk (p : Word64) (level : Nat) : Bool :=
  decide (bits p 6 6 = 0) && decide (level ≤ 2) && !(pteContig p && decide (level ≠ 0)) &&
    (ptePeer p || decide (ptePdev p = 0)) && !(pteZ p && ptePeer p) &&
    decide (ptePa p % 2 ^ pageBits (if level = 0 then 0 else level + 1) = 0) &&
    (ptePeer p || isSystem (ptePa p) ||
      (paExists (ptePa p) && paExists (ptePa p + 2 ^ pageBits (if level = 0 then 0 else level + 1) - 1)))

/-- A non-leaf entry holds V and PFN alone (R421). -/
def tableOk (p : Word64) : Bool := decide (p &&& ~~~0x000FFFFFFFFFF001#64 = 0)

/-- The page of host memory that a request of a PASID reaches (R423): through the address translation cache where it holds the page, else
as the host translates it (log 68). -/
def State.hostPage (s : State) (pasid page : Nat) : Nat :=
  match s.dev.atc.find? fun e => decide (e.pasid = pasid) && decide (e.page = page) with
  | some e => e.host
  | none => Config.hostPage s.dev.atsN pasid page
/-- Where the request of a context for a physical address arrives: host memory through the host's translation of its PASID (R423). -/
def State.hostPa (s : State) (c : Context) (pa : Nat) : Nat :=
  if isSystem pa then 2 ^ 51 + s.hostPage c.pasid ((pa - 2 ^ 51) / 4096) % (2 ^ 39 - 1) * 4096 + pa % 4096 else pa
/-- The eight bytes of a table entry. One that reads as poison, as host memory does while the link is down (R430, R455), is read as 0, whose V
is 0: the walk ends there in a translation fault. DESIGN CHOICE: the spec gives a walk no response to poison (log 90). -/
def State.entry (s : State) (a : Nat) : Word64 := if s.poisoned a 8 then 0 else BitVec.ofNat 64 (s.home.nat a 8)
/-- The walk from a level down (R419, R421): none is a translation fault. `rd` reads an entry, and `at_` says where an entry of a table stands:
one of a table in host memory is read there with the context's PASID (R423). -/
def walkFrom (rd : Nat → Word64) (at_ : Nat → Nat) (va : Word64) : Nat → Nat → Option Leaf
  | 0, table =>
    let a := at_ (table + 8 * bits va 12 9)
    let p := rd a
    if pteV p && pteLeaf p && leafOk p 0 then some { pte := p, at_ := a, size := if pteContig p then 1 else 0 } else none
  | level + 1, table =>
    let a := at_ (table + 8 * bits va (12 + 9 * (level + 1)) 9)
    let p := rd a
    if !pteV p then none
    else if pteLeaf p then
      if leafOk p (level + 1) then some { pte := p, at_ := a, size := level + 2 } else none
    else if tableOk p then walkFrom rd at_ va level (ptePa p) else none

/-- The walk of a context (R419); 57 bits are translated (R306). -/
def State.walk (s : State) (c : Context) (va : Word64) : Option Leaf :=
  if bits va 57 7 ≠ 0 then none else walkFrom s.entry (s.hostPa c) va 4 c.root

/-- The entries that a walk from a level down reads, by the address of each. -/
def walkReads (rd : Nat → Word64) (at_ : Nat → Nat) (va : Word64) : Nat → Nat → List Nat
  | 0, table => [at_ (table + 8 * bits va 12 9)]
  | level + 1, table =>
    let a := at_ (table + 8 * bits va (12 + 9 * (level + 1)) 9)
    let p := rd a
    if !pteV p || pteLeaf p || !tableOk p then [a] else a :: walkReads rd at_ va level (ptePa p)
/-- The entries that the walk of a context reads. -/
def State.walkReads (s : State) (c : Context) (va : Word64) : List Nat :=
  if bits va 57 7 ≠ 0 then [] else Machine.walkReads s.entry (s.hostPa c) va 4 c.root

/-- What translation says of an address. -/
inductive Xlat where
  | ok (pa : Nat) (pte : Word64) (size : Nat)
  | fault
  | zero
  deriving DecidableEq, Repr, Inhabited

/-- Where the entry at index 16j of a part of a 64 KiB page stands. -/
def Leaf.firstAt (l : Leaf) : Nat := l.at_ - l.at_ % 128
/-- The sixteen entries of a 64 KiB page are as the driver has to write them: parts of one page with equal attributes and consecutive
frames, the first aligned (R421). -/
def State.contigWhole (s : State) (l : Leaf) : Bool :=
  let first := s.entry l.firstAt
  let attrs (p : Word64) : Word64 := p &&& ~~~0x000FFFFFFFFFF000#64
  decide (ptePa first % 65536 = 0) && (List.range 16).all fun i =>
    let p := s.entry (l.firstAt + 8 * i)
    attrs p == attrs l.pte && decide (ptePa p = ptePa first + 4096 * i)

/-- Translation through a leaf. -/
def leafXlat (l : Leaf) (va : Word64) : Xlat :=
  if pteZ l.pte then .zero else .ok (ptePa l.pte + bits va 0 (pageBits (if l.size = 1 then 0 else l.size))) l.pte l.size
/-- Translation of a part of a 64 KiB page through the entry at index 16j, whose frame begins the page. -/
def firstXlat (p va : Word64) : Xlat :=
  if !(pteV p && pteLeaf p && leafOk p 0) then .fault
  else if pteZ p then .zero else .ok (ptePa p + bits va 0 16) p 0
/-- Translation goes through the entry of the address itself, and not through that at index 16j of a 64 KiB page that the driver has not
written as R421 asks (log 4). -/
def State.ownEntry (s : State) (l : Leaf) : Bool := decide (l.size ≠ 1) || s.contigWhole l || decide (Config.choice s.tick % 2 = 0)
/-- Translation through the leaf that a walk reached. Where the driver broke the rule of a 64 KiB page, it goes through the entry of the
address itself or through that at index 16j (R421; log 4). -/
def State.walkXlat (s : State) (l : Leaf) (va : Word64) : Xlat :=
  if s.ownEntry l then leafXlat l va else firstXlat (s.entry l.firstAt) va
/-- The leaf with Z = 1 that a walk met, with the size of the page that it maps: the part of a 64 KiB page through its own entry, the whole
through that at index 16j (R421, R422). -/
def State.zeroLeaf (s : State) (l : Leaf) : Option Leaf :=
  let p := s.entry l.firstAt
  if s.ownEntry l then if pteZ l.pte then some { l with size := if l.size = 1 then 0 else l.size } else none
  else if pteV p && pteLeaf p && leafOk p 0 && pteZ p then some { pte := p, at_ := l.firstAt, size := 1 } else none

/-- A translation carried on to host memory. -/
def Xlat.onHost (s : State) (c : Context) : Xlat → Xlat
  | .ok pa pte n => .ok (if ptePeer pte then pa else s.hostPa c pa) pte n
  | x => x

/-- The entry that a unit holds for an address (R424). -/
def State.tlbHit (s : State) (unit asid : Nat) (va : Word64) : Option TlbEntry :=
  s.tlb.find? fun e => decide (e.unit = unit) && decide (e.asid = asid) && decide (e.vpn = va.toNat / 2 ^ pageBits e.size)
/-- The entries that the translation of an access reads at their homes: those of a walk, where the unit holds none for it (R424). -/
def State.xlatReads (s : State) (unit : Nat) (c : Context) (va : Word64) : List Nat :=
  if (s.tlbHit unit c.asid va).isSome then [] else s.walkReads c va
/-- The leaf of an address as a unit finds it (R424): through the entry it holds, else by a walk now. -/
def State.leafAt (s : State) (unit : Nat) (c : Context) (va : Word64) : Xlat :=
  if bits va 57 7 ≠ 0 then .fault else
  match s.tlbHit unit c.asid va with
  | some e => .ok (ptePa e.pte + va.toNat % 2 ^ pageBits e.size) e.pte e.size
  | none =>
    match s.walk c va with
    | none => .fault
    | some l => s.walkXlat l va
/-- Translation by a unit: the leaf, and for host memory the host's own translation (R423). -/
def State.xlat (s : State) (unit : Nat) (c : Context) (va : Word64) : Xlat := (s.leafAt unit c va).onHost s c

/-- What an access needs (R421). -/
inductive Need where
  | read | write | both | exec
  deriving DecidableEq, Repr, Inhabited

/-- The permission check of R421 at a physical address; no mapping of the capability region carries write permission (R20). -/
def permOk (n : Need) (p : Word64) (pa : Nat) : Bool :=
  match n with
  | .read => pteR p
  | .write => pteW p && !inCaps pa
  | .both => pteR p && pteW p && !inCaps pa
  | .exec => pteX p

/-- The outcome of the translation and permission checks of an access (R421, R423, R321): a physical address, a fault with its cause
code of R438, or a wait for a page that is zeroing (R422). -/
inductive Access where
  | ok (pa : Nat)
  | peer (dev pa : Nat)
  | fault (cause : Nat)
  | zero
  deriving DecidableEq, Repr, Inhabited

/-- Translation and permission of an access on a path that may not meet image or peer pages. -/
def State.access (s : State) (unit : Nat) (c : Context) (need : Need) (va : Word64) : Access :=
  match s.xlat unit c va with
  | .fault => .fault 4
  | .zero => .zero
  | .ok pa pte _ => if pteImg pte || ptePeer pte || !permOk need pte pa then .fault 5 else .ok pa

/-- The same for COPY and COLL, which reach peer pages (R380, R423). -/
def State.accessPeer (s : State) (unit : Nat) (c : Context) (need : Need) (va : Word64) : Access :=
  match s.xlat unit c va with
  | .fault => .fault 4
  | .zero => .zero
  | .ok pa pte _ =>
    if pteImg pte || !permOk need pte (if ptePeer pte then 0 else pa) then .fault 5
    else if ptePeer pte then .peer (ptePdev pte) pa else .ok pa

/-- The same for REG and REFINE, which reach image pages (R321). -/
def State.accessImage (s : State) (unit : Nat) (c : Context) (need : Need) (va : Word64) : Access :=
  match s.xlat unit c va with
  | .fault => .fault 4
  | .zero => .zero
  | .ok pa pte _ => if ptePeer pte || !permOk need pte pa then .fault 5 else .ok pa

/-- The walkers and TLBs that the engines of a die use. -/
def dieUnit (die : Nat) : Nat := numCores + die
/-- The unit of the distributor and the host. -/
def hostUnit : Nat := numCores + 8

/-! ### Reads and writes through translation, at the home -/

/-- The bytes at a virtual address, each through its own translation; none where one fails. A caller
waits first for pages that are still to be zeroed (`waitZero`). -/
def State.readVa (s : State) (unit : Nat) (c : Context) (va : Word64) (n : Nat) : Option (List Byte) :=
  (List.range n).mapM fun i =>
    match s.access unit c .read (va + BitVec.ofNat 64 i) with
    | .ok pa => if s.poisoned pa 1 then none else some (s.home.byte pa)
    | _ => none

/-- An atomic add to the counter at `va` by its press unit; none where the access fails (R110, R371); a caller waits
first for a page that is still to be zeroed (`State.counterWaits`). That of a deterministic grid is no
write from outside it (R402). -/
def State.addCounter (s : State) (unit : Nat) (c : Context) (va : Word64) (f : Word64 → Word64) (det : Bool) : Option State :=
  match s.access unit c .both va with
  | .ok pa =>
    if s.poisoned pa 8 then none
    else
      let old := BitVec.ofNat 64 (s.home.nat pa 8)
      some (s.homeWrite (if det then .det false else .outside) pa (leBytes (f old).toNat 8))
  | _ => none

end Sys2Proof.Machine
end

