-- ==== Sys2Proof/Machine/Formats.lean ====
section
/-!
DEFINITION. What each word's entry says of its fields: the class of each operand field (R30), the values of M that it defines
(R33, R46), whether it is lane-class (R35), takes a guard, is variable-latency (the * of R50), is a control transfer (the +
of R50, R41) and returns a future. The reserved-bit check of R44, the register check of R32 and the register reads of R85
are all read off this one table.
-/
namespace Sys2Proof

/-! ### Subfields of M (R33, R34, R214, R345, R346, R352) -/

/-- Bits `lo + n - 1` down to `lo` of M. -/
def OpF.field (o : OpF) (lo n : Nat) : Nat := (o.m.toNat >>> lo) % 2 ^ n
def OpF.bit (o : OpF) (i : Nat) : Bool := o.m.getLsbD i
/-- M[14:11], the type code (R33). -/
def OpF.ty (o : OpF) : Nat := OpF.field o 11 4
/-- M[10:7], the second type code (R33). -/
def OpF.ty2 (o : OpF) : Nat := OpF.field o 7 4
/-- M[1:0]: the rounding mode (R34), or a form. -/
def OpF.low2 (o : OpF) : Nat := OpF.field o 0 2
/-- M[4:2]: condition code, predicate depth or shift (R214); the ordering variant of a load or store (R346). -/
def OpF.cond (o : OpF) : Nat := OpF.field o 2 3
/-- M[6:5]: element position (R214), index scale (R345), policy (R264). -/
def OpF.pos (o : OpF) : Nat := OpF.field o 5 2
/-- M[9:8]: the space code of a memory operand (R305). -/
def OpF.space (o : OpF) : Nat := OpF.field o 8 2
/-- M[10:7] of an atomic: the operation (R352). -/
def OpF.opn (o : OpF) : Nat := OpF.field o 7 4
/-- The type is one of those listed. -/
def OpF.tyIn (o : OpF) (l : List Nat) : Bool := l.contains (OpF.ty o)
def OpF.ty2In (o : OpF) (l : List Nat) : Bool := l.contains (OpF.ty2 o)
/-- M has no bit set outside `mask` (R46). -/
def OpF.only (o : OpF) (mask : BitVec 15) : Bool := (o.m &&& ~~~mask) == 0

/-- The type codes of width 64 (R33). -/
def tyWide (t : Nat) : Bool := t == 2 || t == 3 || t == 11
def OpF.wide (o : OpF) : Bool := tyWide (OpF.ty o)
/-- A load or store converts between binary32 and the memory type (R346 CV). -/
def OpF.cv (o : OpF) : Bool := OpF.bit o 10
/-- The data register of a load or store is a 64-bit pair (R346). -/
def OpF.memWide (o : OpF) : Bool := OpF.wide o && !OpF.cv o
/-- R346, R348, R350: the values of M that LD, LDU, ST and STU define, apart from RM and IX. -/
def OpF.memOk (o : OpF) : Bool :=
  decide (OpF.ty o ≤ 12) && (!OpF.cv o || OpF.tyIn o [9, 10, 12]) && decide (OpF.space o ≤ 2) &&
    decide (OpF.cond o ≤ 4) && (decide (OpF.cond o ≠ 1) || decide (OpF.space o = 0))

/-! ### Field classes (R30) -/

/-- The class of an operand field. The argument of `vs` and `vd` says whether the operand is 64 bits wide (R31). -/
inductive FC where
  | zero                 -- unused: any other value is ILLEGAL
  | free                 -- a literal: every value is defined
  | lit (ok : Bool)      -- a literal, defined where `ok`
  | vs (wide : Bool)     -- vector source
  | vd (wide : Bool)     -- vector destination
  | xs | xd              -- interval source, destination
  | us | ud              -- uniform source, destination
  | udPair               -- uniform destination pair, even
  | udCas (reads : Bool) -- uniform destination that a cas also reads
  | usPair               -- uniform source pair, even
  | usQuad               -- coordinate block: four registers, a multiple of 4 (R374)
  | fut                  -- a future that FTEST, FMOV or FCANCEL inspects: not counted by R85
  | futw                 -- a future that FWAIT or FSTAT inspects: counted by R85, never FUTURE_FAULT (R370)
  deriving DecidableEq, Repr

/-- What an entry says of its word. -/
structure Fmt where
  d     : FC := .zero
  a     : FC := .zero
  b     : FC := .zero
  c     : FC := .zero
  m     : Bool := true
  lane  : Bool := true
  guard : Bool := true
  var   : Bool := false
  ctl   : Bool := false
  cmd   : Bool := false
  hint  : Bool := false
  deriving DecidableEq, Repr

/-- The value `n` of a field is one its class admits (R30, R31). -/
def FC.ok : FC → Nat → Bool
  | .zero, n => n == 0
  | .free, _ => true
  | .lit p, _ => p
  | .vs w, n => !w || decide (128 ≤ n) || n % 2 == 0
  | .vd w, n => decide (n < 128) && (!w || n % 2 == 0)
  | .xs, n => decide (n < 32)
  | .xd, n => decide (n < 32)
  | .us, _ => true
  | .ud, _ => true
  | .udPair, n => n % 2 == 0
  | .udCas _, _ => true
  | .usPair, n => n % 2 == 0
  | .usQuad, n => n % 4 == 0
  | .fut, _ => true
  | .futw, _ => true

/-- The V registers that a field names (R32). -/
def FC.vregs : FC → Nat → List Nat
  | .vs w, n => if 128 ≤ n then [] else if w then [n, n + 1] else [n]
  | .vd w, n => if w then [n, n + 1] else [n]
  | _, _ => []

/-- The X registers that a field names (R32). -/
def FC.xregs : FC → Nat → List Nat
  | .xs, n => [n]
  | .xd, n => [n]
  | _, _ => []

/-- The S registers that a field reads in the sense of R85. -/
def FC.sreads : FC → Nat → List Nat
  | .vs _, n => if 128 ≤ n then [n - 128] else []
  | .us, n => [n]
  | .udCas r, n => if r then [n] else []
  | .usPair, n => [n, n + 1]
  | .usQuad, n => [n, n + 1, n + 2, n + 3]
  | .futw, n => [n]
  | _, _ => []

/-- The S registers that a field writes. -/
def FC.swrites : FC → Nat → List Nat
  | .ud, n => [n]
  | .udPair, n => [n, n + 1]
  | .udCas _, n => [n]
  | _, _ => []

/-- The S registers that a field names (R95): read, inspected or written. -/
def FC.snames : FC → Nat → List Nat
  | .fut, n => [n]
  | c, n => FC.sreads c n ++ FC.swrites c n

/-- The S registers whose failed tag faults the word (R370): those of R85 but for the inspecting words. -/
def FC.sfaults : FC → Nat → List Nat
  | .futw, _ => []
  | c, n => FC.sreads c n

/-- An index field, present where bit `i` of M is set (R268, R345, R352). -/
def OpF.idx (o : OpF) (i : Nat) : FC := if OpF.bit o i then .vs false else .zero
/-- An interval operand, whose kind bit `i` chooses an X register or a vector source (R266). -/
def OpF.operand (o : OpF) (i : Nat) : FC := if OpF.bit o i then .vs false else .xs

/-! ### Shared shapes -/

def binI (o : OpF) : Fmt :=
  { d := .vd (OpF.wide o), a := .vs (OpF.wide o), b := .vs (OpF.wide o),
    m := OpF.tyIn o [0, 1, 2, 3] && OpF.only o 0x7800 }
def unI (o : OpF) : Fmt := { binI o with b := .zero }
def uniB (o : OpF) : Fmt :=
  { d := .ud, a := .us, b := .us, m := OpF.tyIn o [2, 3] && OpF.only o 0x7800, lane := false, guard := false }
def fpB (o : OpF) : Fmt :=
  { d := .vd false, a := .vs false, b := .vs false, m := OpF.tyIn o [8] && OpF.only o 0x7803 }
def dpB (o : OpF) : Fmt :=
  { d := .vd true, a := .vs true, b := .vs true, m := OpF.tyIn o [11] && OpF.only o 0x7803 }
def xB (o : OpF) : Fmt :=
  { d := .xd, a := OpF.operand o 12, b := OpF.operand o 11, m := OpF.only o 0x1800 }
def grp : Fmt := { lane := false, guard := false }
/-- A hint's fields are not checked (R44, R49). -/
def hintFmt : Fmt := { d := .free, a := .free, b := .free, c := .free, lane := false, hint := true }
def pairedFmt : Fmt := { d := .free, a := .free, b := .free, c := .free, guard := false }

/-- REDUX: operation, type and rounding (R171). -/
def reduxOk (o : OpF) : Bool :=
  match OpF.field o 3 4 with
  | 0 => OpF.tyIn o [0, 1, 2, 3] && OpF.low2 o == 0
  | 1 => OpF.tyIn o [0, 1, 2, 3] && OpF.low2 o == 0
  | 2 => OpF.tyIn o [0, 1, 2, 3] && OpF.low2 o == 0
  | 3 => OpF.tyIn o [1, 3] && OpF.low2 o == 0
  | 4 => OpF.tyIn o [1, 3] && OpF.low2 o == 0
  | 5 => OpF.tyIn o [1, 3] && OpF.low2 o == 0
  | 6 => OpF.tyIn o [8]
  | 7 => OpF.tyIn o [8] && OpF.low2 o == 0
  | 8 => OpF.tyIn o [8] && OpF.low2 o == 0
  | 9 => OpF.tyIn o [9] && OpF.low2 o == 0
  | _ => false

/-- SCAN: operations 0 to 5 with their types (R173). -/
def scanOk (o : OpF) : Bool :=
  match OpF.field o 3 4 with
  | 0 => OpF.tyIn o [0, 1, 2, 3]
  | 1 => OpF.tyIn o [0, 1, 2, 3]
  | 2 => OpF.tyIn o [0, 1, 2, 3]
  | 3 => OpF.tyIn o [1, 3]
  | 4 => OpF.tyIn o [1, 3]
  | 5 => OpF.tyIn o [1, 3]
  | _ => false

/-- The atomics: operation and type (R353), scope, .det, space and rounding (R352). -/
def atomOk (o : OpF) : Bool :=
  (match OpF.opn o with
   | 8 => OpF.tyIn o [8]
   | 9 => OpF.tyIn o [8] && OpF.low2 o == 0
   | 10 => OpF.tyIn o [8] && OpF.low2 o == 0
   | 11 => OpF.tyIn o [9] && OpF.low2 o == 0
   | n => decide (n ≤ 7) && OpF.tyIn o [0, 1, 2, 3] && OpF.low2 o == 0) &&
  decide (OpF.pos o ≤ 2) && (!OpF.bit o 3 || (OpF.pos o == 0 && !OpF.bit o 4))

/-- COLL: type, operation, reduction and rounding (R384). -/
def collOk (o : OpF) : Bool :=
  OpF.tyIn o [0, 1, 2, 3, 8, 10, 12] && OpF.field o 2 3 == 0 &&
    (if 2 ≤ OpF.field o 9 2 then OpF.field o 7 2 == 0 else decide (OpF.field o 7 2 ≤ 2)) &&
    (OpF.low2 o == 0 || (OpF.tyIn o [8, 10, 12] && decide (OpF.field o 9 2 ≤ 1) && OpF.field o 7 2 == 0))

/-- BFDRAIN: its three forms (R294). -/
def drainFmt (o : OpF) : Fmt :=
  let m := OpF.tyIn o [8, 10] && !OpF.bit o 6 && !OpF.bit o 2
  match OpF.field o 9 2 with
  | 0 => { grp with d := .ud, a := .us, b := .us, m := m && OpF.field o 7 2 == 0, var := true, cmd := true }
  | 1 => { grp with d := .ud, a := .us, b := .us, c := .us, m := m && decide (OpF.field o 7 2 ≤ 2), var := true, cmd := true }
  | 2 => { grp with d := .vd true, a := .us, b := .ud, m := m && OpF.field o 7 2 == 0, var := true }
  | _ => { grp with m := false }

/-- The numbers of the control registers (R445). -/
def csrAssigned (n : Nat) : Bool :=
  decide (n ≤ 6) || n == 8 || n == 9 || (decide (0x10 ≤ n) && decide (n ≤ 0x15)) || n == 0x20
/-- The banked control registers (R445). -/
def csrBanked (n : Nat) : Bool := decide (1 ≤ n) && decide (n ≤ 6)
/-- R458: an unassigned number, a bank on an unbanked register and bank 3 are ILLEGAL. -/
def csrOk (o : OpF) : Bool :=
  !OpF.bit o 14 && csrAssigned (OpF.field o 0 12) && decide (OpF.field o 12 2 ≠ 3) &&
    (OpF.field o 12 2 == 0 || csrBanked (OpF.field o 0 12))

/-! ### The paired form (R37 to R39) -/

/-- The operations of the paired map that take an imm8 in B. -/
def pairImm (op : Nat) : Bool := decide (0x10 ≤ op) && decide (op ≤ 0x17)
/-- The paired compares: D is unused. -/
def pairCmp (op : Nat) : Bool := decide (0x28 ≤ op) && decide (op ≤ 0x30)

/-- The classes of D, A and B of a paired slot (R39), none where OP7 is not in the table. -/
def slotFmt (s : Slot) : Option Fmt :=
  let op := s.op.toNat
  if op = 0 then some {}
  else if op ≤ 0x0E then some { d := .vd false, a := .vs false, b := .vs false }
  else if op = 0x0F then some { d := .vd false, a := .vs false }
  else if op = 0x11 then some { d := .vd false, b := .free }
  else if op ≤ 0x14 then some { d := .vd false, a := .vs false, b := .free }
  else if op ≤ 0x17 then some { d := .vd false, a := .vs false, b := .lit (decide (s.b.toNat ≤ 31)) }
  else if 0x20 ≤ op ∧ op ≤ 0x24 then some { d := .vd false, a := .vs false, b := .vs false }
  else if pairCmp op then some { a := .vs false, b := .vs false }
  else none

def Slot.ok (s : Slot) : Bool :=
  match slotFmt s with
  | none => false
  | some f => f.d.ok s.d.toNat && f.a.ok s.a.toNat && f.b.ok s.b.toNat

/-- The bank of the V register that a field names, if it names one (R38). -/
def bankOf (c : FC) (n : Nat) : Option Nat := (FC.vregs c n).head?.map (· % 4)

/-- Two fields that both name V registers name different banks (R38). -/
def banksDiffer (c0 : FC) (n0 : Nat) (c1 : FC) (n1 : Nat) : Bool :=
  match bankOf c0 n0, bankOf c1 n1 with
  | some x, some y => decide (x ≠ y)
  | _, _ => true

/-- A valid paired word (R36 to R39). -/
def pairedOk (o : OpP) : Bool :=
  Slot.ok o.s0 && Slot.ok o.s1 &&
  match slotFmt o.s0, slotFmt o.s1 with
  | some f, some g =>
    banksDiffer f.a o.s0.a.toNat g.a o.s1.a.toNat && banksDiffer f.b o.s0.b.toNat g.b o.s1.b.toNat &&
      banksDiffer f.d o.s0.d.toNat g.d o.s1.d.toNat
  | _, _ => false

/-! ### The table -/

/-- The entry of each word; the events of the table have none. -/
def fmt : Instr → Option Fmt
  | .add o => some (binI o)
  | .sub o => some (binI o)
  | .addc o => some ({ d := .vd false, a := .vs false, b := .vs false, m := o.tyIn [1] && o.only 0x7800 })
  | .mul o => some (binI o)
  | .mulh o => some (binI o)
  | .mad o => some ({ binI o with c := .vs o.wide })
  | .madw o => some ({ d := .vd true, a := .vs false, b := .vs false, c := .vs true, m := o.tyIn [0, 1] && o.only 0x7800 })
  | .div o => some ({ binI o with var := true })
  | .rem o => some ({ binI o with var := true })
  | .neg o => some ({ unI o with m := o.tyIn [0, 2] && o.only 0x7800 })
  | .abs o => some ({ unI o with m := o.tyIn [0, 2] && o.only 0x7800 })
  | .min o => some (binI o)
  | .max o => some (binI o)
  | .and o => some (binI o)
  | .or o => some (binI o)
  | .xor o => some (binI o)
  | .not o => some (unI o)
  | .andn o => some (binI o)
  | .shl o => some ({ binI o with b := .vs false })
  | .shr o => some ({ binI o with b := .vs false })
  | .sar o => some ({ binI o with b := .vs false })
  | .rotl o => some ({ binI o with b := .vs false })
  | .fshl o => some ({ d := .vd false, a := .vs false, b := .vs false, c := .vs false, m := o.tyIn [0, 1] && o.only 0x7800 })
  | .popc o => some ({ unI o with d := .vd false })
  | .clz o => some ({ unI o with d := .vd false })
  | .ctz o => some ({ unI o with d := .vd false })
  | .brev o => some (unI o)
  | .bfx o => some ({ d := .vd false, a := .vs false, b := .vs false, c := .vs false, m := o.tyIn [0, 1] && o.only 0x7800 })
  | .bfi o => some ({ d := .vd false, a := .vs false, b := .vs false, c := .vs false, m := o.tyIn [0, 1] && o.only 0x7800 })
  | .sel o => some ({ binI o with m := o.tyIn [0, 1, 2, 3] && o.only 0x781C })
  | .cmp o => some ({ binI o with d := .zero, m := o.tyIn [0, 1, 2, 3] && o.only 0x791C && decide (o.cond ≤ 5) })
  | .mov o => some (unI o)
  | .movw _ => some ({ d := .vd false })
  | .lea o => some ({ d := .vd true, a := .vs true, b := .vs false, m := o.tyIn [0, 1] && o.only 0x780C })
  | .addImm _ => some ({ d := .vd false, a := .vs false })
  | .mulImm _ => some ({ d := .vd false, a := .vs false })
  | .andImm _ => some ({ d := .vd false, a := .vs false })
  | .orImm _ => some ({ d := .vd false, a := .vs false })
  | .xorImm _ => some ({ d := .vd false, a := .vs false })
  | .shlImm o => some ({ d := .vd false, a := .vs false, m := decide (o.imm.toNat ≤ 31) })
  | .shrImm o => some ({ d := .vd false, a := .vs false, m := decide (o.imm.toNat ≤ 31) })
  | .sarImm o => some ({ d := .vd false, a := .vs false, m := decide (o.imm.toNat ≤ 31) })
  | .rotlImm o => some ({ d := .vd false, a := .vs false, m := decide (o.imm.toNat ≤ 31) })
  | .uadd o => some (uniB o)
  | .usub o => some (uniB o)
  | .umul o => some (uniB o)
  | .umulh o => some (uniB o)
  | .uand o => some (uniB o)
  | .uor o => some (uniB o)
  | .uxor o => some (uniB o)
  | .ushl o => some (uniB o)
  | .ushr o => some (uniB o)
  | .usar o => some (uniB o)
  | .umin o => some (uniB o)
  | .umax o => some (uniB o)
  | .ucmp o => some ({ uniB o with m := o.tyIn [2, 3] && o.only 0x781C && decide (o.cond ≤ 5) })
  | .umov o => some ({ uniB o with b := .zero })
  | .umovw _ => some ({ grp with d := .ud })
  | .ulea o => some ({ uniB o with m := o.tyIn [2, 3] && o.only 0x781C })
  | .udiv o => some ({ uniB o with m := o.tyIn [2, 3] && o.only 0x7820, var := true })
  | .urdv o => some ({ d := .ud, a := .vs o.wide, b := .us, m := o.tyIn [0, 1, 2, 3] && o.only 0x7800, lane := false, guard := false, var := true })
  | .uaddImm _ => some ({ grp with d := .ud, a := .us })
  | .umulImm _ => some ({ grp with d := .ud, a := .us })
  | .uandImm _ => some ({ grp with d := .ud, a := .us })
  | .uorImm _ => some ({ grp with d := .ud, a := .us })
  | .uxorImm _ => some ({ grp with d := .ud, a := .us })
  | .ushlImm o => some ({ grp with d := .ud, a := .us, m := decide (o.imm.toNat ≤ 63) })
  | .ushrImm o => some ({ grp with d := .ud, a := .us, m := decide (o.imm.toNat ≤ 63) })
  | .usarImm o => some ({ grp with d := .ud, a := .us, m := decide (o.imm.toNat ≤ 63) })
  | .fadd o => some (fpB o)
  | .fsub o => some (fpB o)
  | .fmul o => some (fpB o)
  | .ffma o => some ({ fpB o with c := .vs false })
  | .fdiv o => some ({ fpB o with var := true })
  | .fsqrt o => some ({ fpB o with b := .zero, var := true })
  | .frcp o => some ({ fpB o with b := .zero, var := true })
  | .frsq o => some ({ fpB o with b := .zero, var := true })
  | .fexp2 o => some ({ fpB o with b := .zero, var := true })
  | .flog2 o => some ({ fpB o with b := .zero, var := true })
  | .fmin o => some ({ fpB o with m := o.tyIn [8] && o.only 0x7800 })
  | .fmax o => some ({ fpB o with m := o.tyIn [8] && o.only 0x7800 })
  | .fcmp o => some ({ fpB o with d := .zero, m := o.tyIn [8] && o.only 0x791C })
  | .fclass o => some ({ fpB o with b := .zero, m := o.tyIn [8] && o.only 0x7800 })
  | .frnd o => some ({ fpB o with b := .zero })
  | .fscl o => some (fpB o)
  | .hadd2 o => some ({ fpB o with m := o.tyIn [9, 10] && o.only 0x7803 })
  | .hmul2 o => some ({ fpB o with m := o.tyIn [9, 10] && o.only 0x7803 })
  | .hfma2 o => some ({ fpB o with c := .vs false, m := o.tyIn [9, 10] && o.only 0x7803 })
  | .fsel o => some ({ fpB o with c := .vs false, m := o.tyIn [8] && o.only 0x7800 })
  | .dadd o => some (dpB o)
  | .dmul o => some (dpB o)
  | .dfma o => some ({ dpB o with c := .vs true })
  | .ddiv o => some ({ dpB o with var := true })
  | .dsqrt o => some ({ dpB o with b := .zero, var := true })
  | .dcmp o => some ({ dpB o with d := .zero, m := o.tyIn [11] && o.only 0x791C })
  | .cvt o => some ({ d := .vd (tyWide o.ty), a := .vs (tyWide o.ty2), m := decide (o.ty ≤ 12) && decide (o.ty2 ≤ 12) && o.only 0x7F83 })
  | .pack o => some ({ d := .vd false, a := .vs false, b := .vs false, m := o.ty2In [0, 1, 8] && o.only 0x7FE3 && ((o.tyIn [4, 5, 9, 10] && decide (o.pos = 0)) || (o.tyIn [6, 7, 12] && decide (o.pos ≤ 1))) })
  | .unpack o => some ({ d := .vd false, a := .vs false, m := o.tyIn [0, 1, 8] && o.only 0x7FE3 && (o.ty2In [6, 7, 12] || (o.ty2In [4, 5, 9, 10] && decide (o.pos ≤ 1))) })
  | .qblk o => some ({ d := .vd false, a := .vs false, c := .ud, m := o.tyIn [12] && o.only 0x7803, var := true })
  | .xld o => some ({ d := .xd, a := .us, b := o.idx 7, c := .free, m := o.only 0x07E0 && decide (o.space ≤ 2), var := true })
  | .xmovv o => some ({ d := .xd, a := .vs false, m := o.only 0 })
  | .xpin o => some ({ d := .xd, a := .xs, b := .vs false, m := o.only 0 })
  | .xmov o => some ({ d := .xd, a := .xs, m := o.only 0 })
  | .xadd o => some (xB o)
  | .xsub o => some (xB o)
  | .xmul o => some (xB o)
  | .xfma o => some ({ xB o with c := o.operand 10, m := o.only 0x1C00 })
  | .xdiv o => some ({ xB o with var := true })
  | .xneg o => some ({ xB o with b := .zero, m := o.only 0x1000 })
  | .xabs o => some ({ xB o with b := .zero, m := o.only 0x1000 })
  | .xmin o => some (xB o)
  | .xmax o => some (xB o)
  | .xcmp o => some ({ xB o with d := .zero, m := o.only 0x197C && decide (o.cond ≤ 5) && decide (o.pos ≤ 2), var := true })
  | .xsgn o => some ({ d := .vd false, a := .xs, m := o.only 0x0060 && decide (o.pos ≤ 2), var := true })
  | .xlo o => some ({ d := .vd false, a := .xs, m := o.only 0 })
  | .xhi o => some ({ d := .vd false, a := .xs, m := o.only 0 })
  | .xsever o => some ({ d := .xd, a := .xs, m := o.only 0 })
  | .xref o => some ({ d := .xd, a := .xs, m := o.only 3, var := true })
  | .xst o => some ({ d := .xs, a := .us, b := o.idx 7, c := .free, m := o.only 0x03E0 && decide (o.space ≤ 2) })
  | .xstg o => some ({ d := .vd false, m := o.only 0 })
  | .xlogq o => some ({ d := .ud, m := o.only 3, lane := false, guard := false })
  | .pset o => some ({ a := if 2 ≤ o.low2 then .vs false else .zero, m := o.only 0x017F && (decide (o.low2 = 3) || o.only 0x0103) })
  | .pnot o => some ({ m := o.only 0x0107 })
  | .pand o => some ({ m := o.only 0x01FF })
  | .por o => some ({ m := o.only 0x01FF })
  | .pxor o => some ({ m := o.only 0x01FF })
  | .ppop o => some ({ m := o.only 7 })
  | .pdup o => some ({ m := o.only 0x0107 })
  | .pmask o => some ({ d := if o.bit 0 then .zero else .vd false, a := if o.bit 0 then .vs false else .zero, m := o.only 1 })
  | .bra _ => some ({ ctl := true })
  | .bru o => some ({ grp with d := .lit (decide (o.d.toNat ≤ 2)), a := if o.d = 0 then .zero else .us, ctl := true })
  | .brx o => some ({ a := .vs true, m := o.only 0, ctl := true })
  | .call _ => some ({ d := .vd true, ctl := true })
  | .ret o => some ({ a := .vs true, m := o.only 0, ctl := true })
  | .exit o => some ({ m := o.only 0, ctl := true })
  | .nop o => some ({ m := o.only 0, lane := false, guard := false })
  | .pause _ => some ({ lane := false, guard := false })
  | .shfl o => some ({ d := .vd false, a := .vs false, b := .vs false, m := o.only 0x001F, var := true })
  | .vote o => some ({ m := o.only 0x001F, var := true })
  | .ballot o => some ({ d := .udPair, m := o.only 0x001C, var := true })
  | .matchLanes o => some ({ d := .vd false, a := .vs o.wide, m := o.tyIn [0, 1, 2, 3] && o.only 0x7800, var := true })
  | .compact o => some ({ d := .vd false, a := .vs false, m := o.only 0x001C, var := true })
  | .redux o => some ({ d := .ud, a := .vs o.wide, m := o.only 0x787B && reduxOk o, var := true })
  | .scan o => some ({ d := .vd o.wide, a := .vs o.wide, m := o.only 0x78F8 && scanOk o, var := true })
  | .elect o => some ({ d := if o.bit 0 then .ud else .zero, m := o.only 3 })
  | .isect o => some ({ d := .vd false, a := .vs false, b := .vs false, c := .vd false, m := o.only 0, var := true })
  | .merge o => some ({ d := .vd true, a := .vs false, b := .vs false, c := .vd false, m := o.only 0, var := true })
  | .ld o => some ({ d := .vd o.memWide, a := .us, b := o.idx 7, c := .free, m := o.memOk && decide (o.low2 = 0), var := true })
  | .st o => some ({ d := .vs o.memWide, a := .us, b := o.idx 7, c := .free, m := o.memOk && (o.bit 10 || decide (o.low2 = 0)) })
  | .ldu o => some ({ d := .ud, a := .us, c := .free, m := o.memOk && !o.bit 7 && decide (o.low2 = 0), lane := false, guard := false, var := true })
  | .stu o => some ({ d := .us, a := .us, c := .free, m := o.memOk && !o.bit 7 && (o.bit 10 || decide (o.low2 = 0)), lane := false, guard := false })
  | .pref o => some ({ a := .us, b := o.idx 7, c := .free, m := o.only 0x00E1 })
  | .taint o => some ({ a := match o.low2 with | 0 => .vs false | 1 => .vs true | 2 => .xs | _ => .zero, m := o.only 0x0103 })
  | .atom o => some ({ d := .vd o.wide, a := .us, b := o.idx 2, c := .vs o.wide, m := atomOk o, var := true })
  | .red o => some ({ a := .us, b := o.idx 2, c := .vs o.wide, m := atomOk o && decide (o.opn ≠ 7), var := true })
  | .atomu o => some ({ d := .udCas (decide (o.opn = 7)), a := .us, c := .us, m := atomOk o && !o.bit 2, lane := false, guard := false, var := true })
  | .phase o => some ({ grp with m := o.only 3 && decide (o.low2 ≤ 2), var := true })
  | .fence o => some ({ grp with m := o.only 3 && decide (o.low2 ≤ 2), var := true })
  | .cfence o => some ({ grp with m := o.only 0xFF && decide (o.field 4 4 ≤ 8) && decide (o.field 0 4 ≤ 8), var := true })
  | .bar o => some ({ m := o.only 0xF && decide (o.low2 ≤ 2) && (decide (o.low2 = 1) || o.only 3), var := true })
  | .ordw o => some ({ m := o.only 3, var := true })
  | .ordd o => some ({ grp with m := o.only 3, var := true })
  | .cntwait o => some ({ a := .us, b := .us, m := o.only 0, var := true })
  | .tfence o => some ({ grp with m := o.only 0, var := true })
  | .copy o => some ({ grp with d := .ud, a := .usPair, b := .usPair, c := .usQuad, var := true, cmd := true, m := o.only 0x0F03 && decide (o.field 10 2 ≤ 2) && decide (o.field 8 2 ≤ 2) })
  | .gather o => some ({ grp with d := .ud, a := .usPair, b := .usPair, c := .usQuad, var := true, cmd := true, m := o.only 0x0F03 && decide (o.field 10 2 ≤ 1) && decide (o.field 8 2 ≤ 1) })
  | .coll o => some ({ grp with d := .ud, a := .usPair, b := .usPair, c := .usPair, m := collOk o, var := true, cmd := true })
  | .launch o => some ({ grp with d := .ud, a := .us, b := .us, c := .us, m := o.only 0, var := true, cmd := true })
  | .ftest o => some ({ grp with a := .fut, m := o.only 0 })
  | .fwait o => some ({ a := .futw, m := o.only 0, var := true })
  | .fcancel o => some ({ grp with a := .fut, m := o.only 0 })
  | .fmov o => some ({ grp with d := .ud, a := .fut, m := o.only 0 })
  | .fstat o => some ({ grp with d := .ud, a := .futw, m := o.only 0, var := true })
  | .bfacq o => some ({ grp with m := o.only 0, var := true })
  | .bfrel o => some ({ grp with m := o.only 0 })
  | .osclaim o => some ({ grp with d := .ud, m := o.only 3, var := true })
  | .osrel o => some ({ grp with m := o.only 0x7F })
  | .osfill o => some ({ grp with d := .ud, a := .us, b := .us, c := .usPair, var := true, cmd := true, m := o.tyIn [8, 10, 12, 13] && o.only 0x7BF8 && decide (o.space ≤ 2) })
  | .ossave o => some ({ grp with d := .ud, a := .us, b := .us, c := .usPair, var := true, cmd := true, m := o.tyIn [8, 10, 12, 13] && o.only 0x7BF8 && decide (o.space ≤ 2) })
  | .bstset o => some ({ grp with a := .us, m := o.only 7 })
  | .bfstage o => some ({ grp with d := .ud, a := .us, b := if o.bit 11 then .us else .zero, m := o.only 0xFFF, var := true, cmd := true })
  | .bfchain o => some ({ grp with d := .ud, a := .us, b := if o.bit 11 then .us else .zero, m := o.only 0xFFF, var := true, cmd := true })
  | .bfzero o => some ({ grp with d := .ud, a := .us, m := o.only 0x38, var := true, cmd := true })
  | .bfdrain o => some (drainFmt o)
  | .bfscale o => some ({ grp with d := .ud, a := if o.bit 5 then .zero else .us, m := o.only 0x3F, var := true })
  | .gangset o => some ({ grp with a := .us, m := o.only 0 })
  | .swbind o => some ({ grp with d := if o.bit 0 then .zero else .ud, a := .us, m := o.only 1, var := true })
  | .swrun o => some ({ grp with d := .ud, a := .us, b := .us, c := .us, m := o.only 0, var := true, cmd := true })
  | .swwake o => some ({ a := .us, b := .vs false, m := o.only 0, var := true })
  | .swpoke o => some ({ a := .us, b := .vs false, c := .vs false, m := o.only 1, var := true })
  | .swstat o => some ({ grp with d := .ud, a := .us, m := o.only 3, var := true })
  | .trap _ => some ({ ctl := true })
  | .tret o => some ({ grp with m := o.only 1, ctl := true })
  | .csrr o => some ({ grp with d := .ud, m := csrOk o })
  | .csrw o => some ({ grp with a := .us, m := csrOk o })
  | .kill o => some ({ grp with m := o.only 0, ctl := true })
  | .flagr o => some ({ d := if 2 ≤ o.low2 then .zero else .vd false, a := if o.low2 = 2 then .vs false else .zero, m := o.only 3 && decide (o.low2 ≤ 2) })
  | .clock o => some ({ grp with d := .ud, m := o.only 1 })
  | .brkpt _ => some ({ ctl := true })
  | .digest o => some (if o.bit 0 then { grp with d := .ud, m := o.only 1 } else { d := .vd true, m := o.only 1 })
  | .tlbq o => some ({ grp with d := .ud, a := .us, m := o.only 0, var := true })
  | .href _ => some (hintFmt)
  | .hpf _ => some (hintFmt)
  | .hsch _ => some (hintFmt)
  | .hintNop _ => some hintFmt
  | .pairedWord _ => some pairedFmt
  | .issueSlotSelect .. | .groupPromotion .. | .pauseExpiry .. | .regLineFill .. | .regLineWriteback ..
  | .runCommit .. | .deferredWrite .. | .teamScratchRelease .. | .detUpdateHold .. | .atomicPerform ..
  | .viewAdvance .. | .linePresent .. | .windowAccessArrive .. | .cntwaitRecheck .. | .pageWalk ..
  | .zbRecheck .. | .pageZeroed .. | .referralDecide .. | .copyLineWrite .. | .copyComplete ..
  | .gatherComplete .. | .collComplete .. | .collAbort .. | .launchEnqueue .. | .bfCommandPerform ..
  | .bfStagePass .. | .swrunStart .. | .sweep .. | .headExamine .. | .depCounterRecheck .. | .gridStart ..
  | .teamPlace .. | .placementTimeout .. | .swapTrigger .. | .teamSwapOut .. | .teamResume ..
  | .killComplete .. | .qwriteWrite .. | .qctlDisable .. | .qctlEnable .. | .qctlReconfigure ..
  | .qbaseWrite .. | .ctxsync .. | .syncDone .. | .invalRange .. | .invalAsid .. | .invalAll ..
  | .invalidationDone .. | .replay .. | .gridkill .. | .attreq .. | .attestationDone .. | .fwctlVerify ..
  | .fwctlRestart .. | .verifyDone .. | .firmwareWindowWrite .. | .registerWrite .. | .hostMemoryWrite ..
  | .hostMemoryRead .. | .vfApertureAccess .. | .atsInvalidation .. | .hostLinkDown .. | .peerAccess ..
  | .portLoss .. | .powerOn .. | .budgetPeriodStart .. | .throttleStep .. | .thermalTrip ..
  | .softErrorCorrected .. | .uncorrectableError .. | .dieError .. | .hostLinkUp .. | .vernalLinkPortUp ..
  | .bfTransferComplete .. => none

/-! ### The checks of R44 -/

/-- GE, GN and GD (R35): with GE = 0 the others are 0; a guard on a word that takes none is ILLEGAL. -/
def guardOk (f : Fmt) (ge gn : Bool) (gd : BitVec 3) : Bool :=
  f.hint || (if ge then f.guard else !gn && gd == 0)

def okF (f : Fmt) (o : OpF) : Bool :=
  guardOk f o.ge o.gn o.gd && f.m && f.d.ok o.d.toNat && f.a.ok o.a.toNat && f.b.ok o.b.toNat && f.c.ok o.c.toNat
def okI (f : Fmt) (o : OpI) : Bool :=
  guardOk f o.ge o.gn o.gd && f.m && f.d.ok o.d.toNat && f.a.ok o.a.toNat
def okW (f : Fmt) (o : OpW) : Bool := guardOk f o.ge o.gn o.gd && f.d.ok o.d.toNat

/-- What a word carries besides its opcode. -/
inductive Payload where
  | f (o : OpF) | i (o : OpI) | w (o : OpW) | p (o : OpP) | h (o : OpH) | event
  deriving DecidableEq, Repr

/-- The payload of an instruction. -/
def payload : Instr → Payload
  | .add o | .sub o | .addc o | .mul o | .mulh o | .mad o | .madw o | .div o | .rem o | .neg o | .abs o
  | .min o | .max o | .and o | .or o | .xor o | .not o | .andn o | .shl o | .shr o | .sar o | .rotl o | .fshl o
  | .popc o | .clz o | .ctz o | .brev o | .bfx o | .bfi o | .sel o | .cmp o | .mov o | .lea o | .uadd o
  | .usub o | .umul o | .umulh o | .uand o | .uor o | .uxor o | .ushl o | .ushr o | .usar o | .umin o | .umax o
  | .ucmp o | .umov o | .ulea o | .udiv o | .urdv o | .fadd o | .fsub o | .fmul o | .ffma o | .fdiv o
  | .fsqrt o | .frcp o | .frsq o | .fexp2 o | .flog2 o | .fmin o | .fmax o | .fcmp o | .fclass o | .frnd o
  | .fscl o | .hadd2 o | .hmul2 o | .hfma2 o | .fsel o | .dadd o | .dmul o | .dfma o | .ddiv o | .dsqrt o
  | .dcmp o | .cvt o | .pack o | .unpack o | .qblk o | .xld o | .xmovv o | .xpin o | .xmov o | .xadd o
  | .xsub o | .xmul o | .xfma o | .xdiv o | .xneg o | .xabs o | .xmin o | .xmax o | .xcmp o | .xsgn o | .xlo o
  | .xhi o | .xsever o | .xref o | .xst o | .xstg o | .xlogq o | .pset o | .pnot o | .pand o | .por o | .pxor o
  | .ppop o | .pdup o | .pmask o | .brx o | .ret o | .exit o | .nop o | .pause o | .shfl o | .vote o
  | .ballot o | .matchLanes o | .compact o | .redux o | .scan o | .elect o | .isect o | .merge o | .ld o
  | .st o | .ldu o | .stu o | .pref o | .taint o | .atom o | .red o | .atomu o | .phase o | .fence o
  | .cfence o | .bar o | .ordw o | .ordd o | .cntwait o | .tfence o | .copy o | .gather o | .coll o | .launch o
  | .ftest o | .fwait o | .fcancel o | .fmov o | .fstat o | .bfacq o | .bfrel o | .osclaim o | .osrel o
  | .osfill o | .ossave o | .bstset o | .bfstage o | .bfchain o | .bfzero o | .bfdrain o | .bfscale o
  | .gangset o | .swbind o | .swrun o | .swwake o | .swpoke o | .swstat o | .trap o | .tret o | .csrr o
  | .csrw o | .kill o | .flagr o | .clock o | .brkpt o | .digest o | .tlbq o | .href o | .hpf o | .hsch o => .f o
  | .addImm o | .mulImm o | .andImm o | .orImm o | .xorImm o | .shlImm o | .shrImm o | .sarImm o | .rotlImm o
  | .uaddImm o | .umulImm o | .uandImm o | .uorImm o | .uxorImm o | .ushlImm o | .ushrImm o | .usarImm o
  | .bra o | .bru o | .call o => .i o
  | .movw o | .umovw o => .w o
  | .pairedWord o => .p o
  | .hintNop o => .h o
  | .issueSlotSelect .. | .groupPromotion .. | .pauseExpiry .. | .regLineFill .. | .regLineWriteback ..
  | .runCommit .. | .deferredWrite .. | .teamScratchRelease .. | .detUpdateHold .. | .atomicPerform ..
  | .viewAdvance .. | .linePresent .. | .windowAccessArrive .. | .cntwaitRecheck .. | .pageWalk ..
  | .zbRecheck .. | .pageZeroed .. | .referralDecide .. | .copyLineWrite .. | .copyComplete ..
  | .gatherComplete .. | .collComplete .. | .collAbort .. | .launchEnqueue .. | .bfCommandPerform ..
  | .bfStagePass .. | .swrunStart .. | .sweep .. | .headExamine .. | .depCounterRecheck .. | .gridStart ..
  | .teamPlace .. | .placementTimeout .. | .swapTrigger .. | .teamSwapOut .. | .teamResume ..
  | .killComplete .. | .qwriteWrite .. | .qctlDisable .. | .qctlEnable .. | .qctlReconfigure ..
  | .qbaseWrite .. | .ctxsync .. | .syncDone .. | .invalRange .. | .invalAsid .. | .invalAll ..
  | .invalidationDone .. | .replay .. | .gridkill .. | .attreq .. | .attestationDone .. | .fwctlVerify ..
  | .fwctlRestart .. | .verifyDone .. | .firmwareWindowWrite .. | .registerWrite .. | .hostMemoryWrite ..
  | .hostMemoryRead .. | .vfApertureAccess .. | .atsInvalidation .. | .hostLinkDown .. | .peerAccess ..
  | .portLoss .. | .powerOn .. | .budgetPeriodStart .. | .throttleStep .. | .thermalTrip ..
  | .softErrorCorrected .. | .uncorrectableError .. | .dieError .. | .hostLinkUp .. | .vernalLinkPortUp ..
  | .bfTransferComplete .. => .event

/-- No reserved bit of the word is set (R29 to R39, R46). -/
def fieldsOk (i : Instr) : Bool :=
  match fmt i, payload i with
  | some f, .f o => okF f o
  | some f, .i o => okI f o
  | some f, .w o => okW f o
  | some _, .p o => pairedOk o
  | some _, .h o => decide (3 ≤ o.idx.toNat)
  | _, _ => false

/-- The run-boundary bit of a word (R28). -/
def rbOf (i : Instr) : Bool :=
  match payload i with
  | .f o => o.rb
  | .i o => o.rb
  | .w o => o.rb
  | .p o => o.rb
  | .h o => o.rb
  | .event => false

/-- The control transfers (R41). -/
def isControl (i : Instr) : Bool := ((fmt i).map (·.ctl)).getD false
/-- The words that return a future (R369). -/
def isCommand (i : Instr) : Bool := ((fmt i).map (·.cmd)).getD false
/-- The hints (R48). -/
def isHint (i : Instr) : Bool := ((fmt i).map (·.hint)).getD false
/-- The lane-class words (R35). -/
def isLane (i : Instr) : Bool := ((fmt i).map (·.lane)).getD false
/-- The words of the instruction set, as against the events. -/
def isWord (i : Instr) : Bool := (fmt i).isSome

/-- A list gathered over the fields of a word. -/
def overFields (g : FC → Nat → List Nat) (i : Instr) : List Nat :=
  match fmt i, payload i with
  | some f, .f o => g f.d o.d.toNat ++ g f.a o.a.toNat ++ g f.b o.b.toNat ++ g f.c o.c.toNat
  | some f, .i o => g f.d o.d.toNat ++ g f.a o.a.toNat
  | some f, .w o => g f.d o.d.toNat
  | some _, .p o =>
    let one (s : Slot) : List Nat := match slotFmt s with
      | some f => g f.d s.d.toNat ++ g f.a s.a.toNat ++ g f.b s.b.toNat
      | none => []
    one o.s0 ++ one o.s1
  | _, _ => []

/-- The V registers a word names (R32). -/
def vregsOf (i : Instr) : List Nat := overFields FC.vregs i
/-- The X registers a word names (R32). -/
def xregsOf (i : Instr) : List Nat := overFields FC.xregs i
/-- STU names the register it stores in D, a uniform source; every other read follows the classes (R85). -/
def sreadsOf (i : Instr) : List Nat := overFields FC.sreads i
def sfaultsOf (i : Instr) : List Nat := overFields FC.sfaults i

end Sys2Proof
end

