-- ==== Sys2Proof/WellFormed.lean ====
section
/-!
DEFINITION. Which instructions are well formed: a word whose every field has a value that its entry defines (R46), with RB = 1 on
a control transfer (R41). An event is always well formed: its parameters name a moment's choice, and an event that is not
enabled changes nothing.
-/
namespace Sys2Proof

/-- The run-boundary rule of control transfers (R41). -/
def rbOk (i : Instr) : Bool := !isControl i || rbOf i

/-- A well-formed instruction. -/
def wellFormed (i : Instr) : Bool := !isWord i || (fieldsOk i && rbOk i)

end Sys2Proof
end

