-- ==== Sys2Proof/Machine/Ops.lean ====
section
/-!
DEFINITION. The named operations over the machine: packets and records, groups, threads and runs, the retiring of a word, taking an
exception and returning from one, futures, fault records and the killing of a grid.
-/
namespace Sys2Proof.Machine
open Sys2Proof

/-! ### Launch packets (R68, R104) -/

abbrev Packet := BitVec 1024
def pkCode (p : Packet) : Word64 := bits64 p 0 57
def pkGx (p : Packet) : Nat := bits p 64 21
def pkGy (p : Packet) : Nat := bits p 85 21
def pkGz (p : Packet) : Nat := bits p 106 21
def pkGroups (p : Packet) : Nat := bits p 128 8
def pkThreads (p : Packet) : Nat := if bits p 136 13 = 0 then 128 * pkGroups p else bits p 136 13
def pkRoles (p : Packet) : Nat := bits p 149 3
def pkPrio (p : Packet) : Nat := bits p 152 2
def pkClass (p : Packet) : Nat := bits p 154 2
def pkAff (p : Packet) : Nat := bits p 156 2
def pkTrapEn (p : Packet) : BitVec 6 := BitVec.ofNat 6 (bits p 158 6)
def pkDet (p : Packet) : Bool := p.getLsbD 164
def pkSerial (p : Packet) : Bool := p.getLsbD 165
def pkDepN (p : Packet) : Nat := bits p 166 3
def pkStep (p : Packet) : Bool := p.getLsbD 169
def pkScratch (p : Packet) : Nat := bits p 192 23
def pkLogScr (p : Packet) : Nat := bits p 215 16
def pkFrames (p : Packet) : Nat := bits p 231 16
def pkLogSpill (p : Packet) : Nat := bits p 256 32
def pkTa (p : Packet) : Nat := bits p 288 5
def pkTb (p : Packet) : Nat := bits p 293 5
/-- The role-table entry of a role: group count, vector and interval register counts (R68). -/
def pkRole (p : Packet) (r : Nat) : Nat :=
  bits p (if r = 0 then 320 else if r = 1 then 344 else if r = 2 then 384 else 408) 24
def pkRoleGroups (p : Packet) (r : Nat) : Nat := pkRole p r % 256
def pkVregs (p : Packet) (r : Nat) : Nat := pkRole p r / 256 % 256
def pkXregs (p : Packet) (r : Nat) : Nat := pkRole p r / 65536
def pkAffTable (p : Packet) : Word64 := bits64 p 448 64
def pkArgs (p : Packet) : Word64 := bits64 p 512 64
def pkImage (p : Packet) : Word64 := bits64 p 576 64
def pkCcnt (p : Packet) : Word64 := bits64 p 640 64
def pkWmExp (p : Packet) : Word64 := bits64 p 704 64
def pkWmOut (p : Packet) : Word64 := bits64 p 768 64
def pkDepBase (p : Packet) : Word64 := bits64 p 832 57
def pkDep (p : Packet) (k : Nat) : Nat := bits p (896 + 32 * k) 32
/-- Teams of the grid (R105). -/
def pkTeams (p : Packet) : Nat := (pkGx p + 1) * (pkGy p + 1) * (pkGz p + 1)
/-- The role of a group index (R76). -/
def pkRoleOf (p : Packet) (g : Nat) : Nat :=
  if g < pkRoleGroups p 0 then 0
  else if g < pkRoleGroups p 0 + pkRoleGroups p 1 then 1
  else if g < pkRoleGroups p 0 + pkRoleGroups p 1 + pkRoleGroups p 2 then 2 else 3
/-- The first group index of a role. -/
def pkRoleBase (p : Packet) (r : Nat) : Nat :=
  (List.range r).foldl (fun n k => n + pkRoleGroups p k) 0
/-- `n` rounded up to a multiple of `k`. -/
def roundUpTo (n k : Nat) : Nat := (n + k - 1) / k * k
/-- Lines of the context image of a role (R92). -/
def imageLines (v x : Nat) : Nat := 32 + 4 * v + 12 * x + (v + x) / 8
/-- Bytes of the image of a group, rounded to 4 KiB (R94). -/
def pkImageBytes (p : Packet) (g : Nat) : Nat :=
  roundUpTo (128 * imageLines (pkVregs p (pkRoleOf p g)) (pkXregs p (pkRoleOf p g))) 4096
/-- Bytes of a frame (R94). -/
def pkFrameBytes (p : Packet) : Nat := (List.range (pkGroups p)).foldl (fun n g => n + pkImageBytes p g) 0
/-- Frames of the image pool (R112). -/
def pkFrameCount (p : Packet) : Nat := if pkFrames p = 0 then pkTeams p else pkFrames p
/-- Scratchpad and log bytes of a team (R112). -/
def pkRangeBytes (p : Packet) : Nat := pkScratch p + 16 * pkLogScr p
/-- A quad team (R114). -/
def pkQuad (p : Packet) : Bool := decide (scratchBytes < pkRangeBytes p)

/-! ### Finding and replacing -/

def State.group? (s : State) (g : GRef) : Option Group := s.groups.find? fun x => decide (x.ref = g)
def State.team? (s : State) (t : TRef) : Option Team := s.teams.find? fun x => decide (x.ref = t)
def State.grid? (s : State) (g : Nat) : Option Grid := s.grids.find? fun x => decide (x.id.toNat = g)
def State.setGroup (s : State) (g : Group) : State :=
  { s with groups := s.groups.map fun x => if x.ref = g.ref then g else x }
def State.setTeam (s : State) (t : Team) : State :=
  { s with teams := s.teams.map fun x => if x.ref = t.ref then t else x }
def State.setGrid (s : State) (g : Grid) : State :=
  { s with grids := s.grids.map fun x => if x.id = g.id then g else x }
def State.teamGroups (s : State) (t : TRef) : List Group := s.groups.filter fun x => decide (x.ref.tref = t)
def State.gridGroups (s : State) (g : Nat) : List Group := s.groups.filter fun x => decide (x.ref.grid = g)
def State.gridTeams (s : State) (g : Nat) : List Team := s.teams.filter fun x => decide (x.ref.grid = g)
def State.bfOf (s : State) (core : Nat) : BfEngine := Table.get {} s.bf core
def State.setBf (s : State) (core : Nat) (e : BfEngine) : State := { s with bf := Table.put s.bf core e }
/-- The arithmetic cycles since reset (R4, R436). -/
def State.cycle (s : State) : Nat := s.dev.mcycles / 1000
/-- A fresh number for the next free value (log 1). -/
def State.bump (s : State) : State := { s with tick := s.tick + 1 }
/-- A grid's packet; a grid that is gone has the empty packet. -/
def State.pkt (s : State) (g : Nat) : Packet := ((s.grid? g).map (·.pkt)).getD 0
def State.det (s : State) (g : Nat) : Bool := pkDet (s.pkt g)
def State.gridCtx? (s : State) (g : Nat) : Option Context := (s.grid? g).bind fun x => s.ctx? x.asid

/-! ### Budgets (R427, R428) -/

/-- The counter of an entry in a budget class. -/
def budgetKey (cls entry : Nat) : Nat := 32 * cls + entry
/-- An engine step of a context is admitted: its counter is below the budget. -/
def State.admitted (s : State) (asid cls entry : Nat) : Bool :=
  match s.ctx? asid with
  | none => true
  | some c =>
    let b := (c.budget[budgetKey cls entry]?).getD 0xFFFFFFFF
    b == 0xFFFFFFFF || decide (Table.get 0 c.spent (budgetKey cls entry) < b.toNat)
/-- A charge. -/
def State.charge (s : State) (asid cls entry n : Nat) : State :=
  let k := budgetKey cls entry
  { s with ctxs := s.ctxs.map fun c =>
      if c.asid = asid then { c with spent := Table.set 0 c.spent k (Table.get 0 c.spent k + n) } else c }
/-- The budget entry of the stack that serves an HBM line (R307, R427). -/
def stackEntry (pa : Nat) : Nat := 3 * (pa / 2 ^ 39) + pa % 2 ^ 39 / 4096 % 3
/-- An access to memory may go on: each of its lines is none of HBM, has budget left at its stack, or is in a cache (R321, R428; log 9). -/
def State.linesOpen (s : State) (asid cls : Nat) (pas : List Nat) : Bool :=
  pas.all fun pa => decide (2 ^ 51 ≤ pa) || s.admitted asid cls (stackEntry pa) || !Config.hbmCharged s.tick
/-- An HBM line moved at its stack for a path, where it was in no cache (R307, R428; log 9). -/
def State.chargeLine (s : State) (asid cls pa : Nat) : State :=
  { s with ctxs := if decide (2 ^ 51 ≤ pa) || !Config.hbmCharged s.tick then s.ctxs else (s.charge asid cls (stackEntry pa) 1).ctxs }
/-- The lines of an access. -/
def State.chargeLines (s : State) (asid cls : Nat) (pas : List Nat) : State := pas.foldl (fun s pa => s.chargeLine asid cls pa) s
/-- The class that a walk for a context's new page counts in: that of the first of its groups (log 9). -/
def State.walkClass (s : State) (asid : Nat) : Nat :=
  ((s.groups.find? fun g => ((s.grid? g.ref.grid).map fun x => x.asid == asid).getD false).map fun g => pkClass (s.pkt g.ref.grid)).getD 0
/-- A walk that met Z = 1 is entered once (R422), its reads counted at the stacks that serve them; it waits while the budget of one is
spent (R428). -/
def State.startZero (s : State) (c : Context) (va : Word64) : State :=
  match (s.walk c va).bind s.zeroLeaf with
  | none => s
  | some l =>
    if s.zwalks.any fun w => decide (w.asid = c.asid) && decide (w.pteAt = l.at_) then s
    else if !s.linesOpen c.asid (s.walkClass c.asid) (s.walkReads c va) then s.bump
    else
      let w : ZWalk := { n := s.serials, asid := c.asid, va := va, pteAt := l.at_, pte := l.pte, size := l.size, owner := !pteZB l.pte }
      let s := s.chargeLines c.asid (s.walkClass c.asid) (s.walkReads c va)
      let s := { s with serials := s.serials + 1, zwalks := s.zwalks ++ [w] }
      if pteZB l.pte then s else s.homeWrite .outside l.at_ (leBytes ((l.pte ||| 0x20#64).toNat) 8)

/-- The first of some bytes whose page is still to be zeroed. -/
def State.awaitsZero (s : State) (unit : Nat) (c : Context) (need : Need) (va : Word64) (n : Nat) : Option Word64 :=
  (List.range n).findSome? fun i =>
    let a := va + BitVec.ofNat 64 i
    if s.access unit c need a = .zero then some a else none
/-- An access waits for the zeros of its pages (R422): the walk that zeroes them is entered. None where nothing waits. -/
def State.waitZero (s : State) (unit : Nat) (c : Context) (need : Need) (va : Word64) (n : Nat) : Option State :=
  (s.awaitsZero unit c need va n).map (s.startZero c)

/-- The lines that an access at `pa` moves through HBM: those of the walk that translated it, where its unit walked for it, and its own
(R424, R428). -/
def State.pathLines (s : State) (unit : Nat) (c : Context) (va : Word64) (pa : Nat) : List Nat := s.xlatReads unit c va ++ [pa]
/-- The lines that an access moves through HBM: those of its walk, and, where it translates, its own. -/
def State.vaLines (s : State) (unit : Nat) (c : Context) (need : Need) (va : Word64) : List Nat :=
  match s.access unit c need va with
  | .ok pa => s.pathLines unit c va pa
  | _ => s.xlatReads unit c va
/-- The lines of an access, with its walk, are counted. -/
def State.chargeVa (s : State) (unit : Nat) (c : Context) (cls : Nat) (va : Word64) : State :=
  s.chargeLines c.asid cls (s.vaLines unit c .read va)
/-- An access within a line waits: its page is still to be zeroed (R422), or the budget of its stack, or of one that serves its walk, is spent
(R428). None where it does not. -/
def State.vaWaits (s : State) (unit : Nat) (c : Context) (cls : Nat) (need : Need) (va : Word64) (n : Nat) : Option State :=
  (s.waitZero unit c need va n).or (if s.linesOpen c.asid cls (s.vaLines unit c need va) then none else some s.bump)
/-- The add at the counter of a command or a grid waits (R422, R428). Address 0 names no counter. -/
def State.counterWaits (s : State) (asid unit cls : Nat) (ctr : Word64) : Option State :=
  if ctr = 0 then none else (s.ctx? asid).bind fun c => s.vaWaits unit c cls .both ctr 8
/-- A context has its turn at a shared queue (R429): of those with admitted work there, it is the first after the one served last. -/
def State.turnOf (s : State) (q asid : Nat) (ready : List Nat) : Bool :=
  let dist (a : Nat) : Nat := (a + 4095 - Table.get 0 s.rota q) % 4096
  ready.all fun a => decide (dist asid ≤ dist a)
/-- A context has been served at a shared queue, or has found its work held up there, and the turn passes on. -/
def State.served (s : State) (q asid : Nat) : State := { s with rota := Table.set 0 s.rota q asid }
/-- The queue of a path at a core. -/
def queueAt (core path : Nat) : Nat := 16 * core + path
/-- An engine step of unstated length (log 9). -/
def State.chargeStep (s : State) (asid cls entry : Nat) : State := (s.charge asid cls entry (Config.busyCycles s.tick)).bump
def State.classOf (s : State) (grid : Nat) : Nat := pkClass (s.pkt grid)
/-- The budget class of the work of a context on a core's units: that of its first group there (log 9). -/
def State.unitClass (s : State) (unit asid : Nat) : Nat :=
  ((s.groups.find? fun g => decide (g.core = unit) && ((s.grid? g.ref.grid).map fun x => x.asid == asid).getD false).map
    fun g => s.classOf g.ref.grid).getD 0

/-! ### Threads and lanes -/

def Group.lane (g : Group) (t : Nat) : Thread := (g.lanes[t]?).getD {}
def Group.mapLanes (g : Group) (f : Nat → Thread → Thread) : Group :=
  { g with lanes := (List.range g.lanes.length).map fun t => f t (g.lane t) }
def Thread.live (t : Thread) : Bool := t.st == .live
def Thread.vreg (t : Thread) (n : Nat) : VCell := Table.get {} t.v n
def Thread.xreg (t : Thread) (n : Nat) : XCell := Table.get {} t.x n
/-- The lanes of a mask, ascending (R8). -/
def maskLanes (m : LaneMask) : List Nat := (List.range 128).filter fun t => m.getLsbD t
/-- The mask of a list of lanes. -/
def lanesMask (l : List Nat) : LaneMask := l.foldl (fun m t => m ||| (1#128 <<< t)) 0

/-- A predicate operation on a predicate register (R156). -/
def predOp (p : BitVec 8) : PredOp → BitVec 8
  | .keep => p
  | .push b => (p <<< 1) ||| (if b then 1 else 0)
  | .rep b => (p &&& 0xFE) ||| (if b then 1 else 0)
  | .all q => q

/-! ### Blocked threads (R78, R157) -/

/-- A thread waits at a synchronising word. -/
def Thread.blocked (t : Thread) : Bool := !t.waits.isEmpty
/-- A wait ends with a push, or is a push that waits for one (R157, R185, R391). -/
def Wait.pushes : Wait → Bool
  | .cnt .. | .fut _ | .pred _ => true
  | .bar .. | .ordw _ | .det .. => false
/-- The predicate operations of a thread's waits that stand behind no wait with a push are made. -/
def flushPreds (p : BitVec 8) : List (Nat × Wait) → BitVec 8 × List (Nat × Wait)
  | [] => (p, [])
  | (_, .pred op) :: rest => flushPreds (predOp p op) rest
  | x :: rest => if x.2.pushes then (p, x :: rest) else
    let r := flushPreds p rest
    (r.1, x :: r.2)
def Thread.resume (t : Thread) : Thread :=
  let r := flushPreds t.pred t.waits
  { t with pred := r.1, waits := r.2 }
/-- A wait takes its place in program order. -/
def Thread.addWait (pos : Nat) (w : Wait) (t : Thread) : Thread :=
  { t with waits := t.waits.takeWhile (fun x => decide (x.1 ≤ pos)) ++ (pos, w) :: t.waits.dropWhile fun x => decide (x.1 ≤ pos) }
/-- The waits that a property picks end, each with its push where it has one. -/
def Thread.endWaits (p : Wait → Bool) (op : Option PredOp) (t : Thread) : Thread :=
  let one (x : Nat × Wait) : Option (Nat × Wait) := if p x.2 then op.map fun o => (x.1, .pred o) else some x
  { t with waits := t.waits.filterMap one }.resume
/-- A predicate operation of a deferred write: behind the pushes that earlier words of its run still wait for (R157, R185). -/
def Thread.predAt (pos : Nat) (t : Thread) (op : PredOp) : Thread :=
  if op = .keep then t
  else if t.waits.any (fun x => decide (x.1 < pos) && x.2.pushes) then t.addWait pos (.pred op)
  else { t with pred := predOp t.pred op }

/-- What a word does to one thread. -/
def Thread.apply (t : Thread) (w : LaneWrite) : Thread :=
  { t with
    v := w.v.foldl (fun v p => Table.set {} v p.1 p.2) t.v
    x := w.x.foldl (fun x p => Table.set {} x p.1 p.2) t.x
    pred := w.preds.foldl predOp t.pred
    flags := (w.flags.getD t.flags) ||| w.raise
    ct := t.ct || w.ct
    dcode := w.dcode.getD t.dcode }

/-- What a word does to the threads of a group. -/
def Group.applyAll (g : Group) (l : List LaneWrite) : Group :=
  { g with lanes := l.foldl (fun ls w => ls.modify w.lane fun t => t.apply w) g.lanes }

/-- What the deferred write of a word at a place of its run does to one thread. -/
def Thread.applyAt (pos : Nat) (t : Thread) (w : LaneWrite) : Thread :=
  w.preds.foldl (Thread.predAt pos) (t.apply { w with preds := [] })
/-- What the deferred write of a word does to the threads of a group. -/
def Group.applyAllAt (pos : Nat) (g : Group) (l : List LaneWrite) : Group :=
  { g with lanes := l.foldl (fun ls w => ls.modify w.lane fun t => t.applyAt pos w) g.lanes }

/-! ### The image pool (R94, R112, R250) -/

/-- Where the image of a group begins (R94). -/
def imageVa (p : Packet) (frame group : Nat) : Word64 :=
  pkImage p + BitVec.ofNat 64 (frame * pkFrameBytes p + (List.range group).foldl (fun n k => n + pkImageBytes p k) 0)
/-- The swap slot of a frame (R112). -/
def swapVa (p : Packet) (frame : Nat) : Word64 :=
  pkImage p + BitVec.ofNat 64 (pkFrameCount p * pkFrameBytes p + frame * roundUpTo (pkRangeBytes p) 4096)

/-- The address of a spill node. -/
def spillVa (p : Packet) (frame scr i : Nat) : Word64 :=
  let sw := roundUpTo (pkRangeBytes p) 4096
  let sp := roundUpTo (16 * pkLogSpill p) 4096
  pkImage p + BitVec.ofNat 64 (pkFrameCount p * (pkFrameBytes p + sw) + frame * sp + 16 * (i - scr))

/-- The team with its spill nodes as the image pool holds them: those of the segment that translate, through the REFINE path of a core
(R250, R320). -/
def State.liveTeam (s : State) (core : Nat) (c : Context) (tm : Team) : Team :=
  let p := s.pkt tm.ref.grid
  let live (x : Nat × BitVec 128) : Nat × BitVec 128 :=
    if decide (x.1 < pkLogScr p) then x else
    match s.accessImage core c .both (spillVa p tm.frame (pkLogScr p) x.1) with
    | .ok pa => (x.1, BitVec.ofNat 128 (s.home.nat pa 16))
    | _ => x
  { tm with log := { tm.log with nodes := tm.log.nodes.map live } }

/-! ### The word in execution -/

/-- What a word sees: the machine, its group, round, run and stream, the packet of its grid, its team and its context, and the expression
log as it stood before the word. -/
structure Env where
  s    : State
  g    : Group
  rd   : Round
  r    : Run
  b    : Stream
  pkt  : Packet
  team : Team
  ctx  : Context
  log0 : ExprLog
  deriving DecidableEq, Repr

def Round.run? (r : Round) : Stream → Option Run
  | .a => r.a
  | .b => r.b
def Round.setRun (r : Round) (b : Stream) (x : Run) : Round :=
  match b with
  | .a => { r with a := some x }
  | .b => { r with b := some x }

/-- The run whose word is being executed, with all that the word can name. -/
def env? (s : State) : Option Env :=
  s.cur.bind fun c =>
  (s.group? c.1).bind fun g =>
  g.round.bind fun rd =>
  (rd.run? c.2).map fun r =>
    let ctx := (s.gridCtx? g.ref.grid).getD { asid := 0, desc := 0 }
    let team := s.liveTeam g.core ctx ((s.team? g.ref.tref).getD { ref := g.ref.tref })
    { s := s, g := g, rd := rd, r := r, b := c.2, pkt := s.pkt g.ref.grid, team := team, ctx := ctx, log0 := team.log }

/-- What a word changes besides the memory and logs it has already changed in its environment. -/
structure Delta where
  lanes  : List LaneWrite := []
  sregs  : List (Nat × SCell) := []
  defer  : List DForm := []
  effs   : List Effect := []
  ctl    : List CtlWrite := []
  pcs    : Option (List (Nat × Word64)) := none
  exit   : Option (List Nat) := none
  pause  : Option Nat := none
  tfence : Bool := false
  deriving DecidableEq, Repr, Inhabited

/-- How a word ends: it retires; it takes a precise fault or a trap (R86, R439); or it waits for a page that is zeroing (R422) and is
tried again. -/
inductive WordOut where
  | retire (e : Env) (d : Delta)
  | fault (e : Env) (cause : Nat) (addr : Word64) (lanes : LaneMask) (detail : Nat) (d : Delta)
  | stall (s : State)

def Env.det (e : Env) : Bool := pkDet e.pkt
def Env.pc (e : Env) : Word64 := e.r.at_
/-- The active lanes, ascending (R79). -/
def Env.active (e : Env) : List Nat := maskLanes e.r.active
/-- The executing set E of a guard, ascending (R35). -/
def Env.exec (e : Env) (ge gn : Bool) (gd : BitVec 3) : List Nat :=
  if ge then e.active.filter fun t => (e.g.lane t).pred.getLsbD gd.toNat != gn else e.active
/-- E of a layout-F word. -/
def Env.setE (e : Env) (o : OpF) : List Nat := e.exec o.ge o.gn o.gd

/-- The environment's group, round and run, written back into the machine. -/
def Env.close (e : Env) : State := e.s.setGroup { e.g with round := some (e.rd.setRun e.b e.r) }

/-- The lanes in which a word raised a flag that the packet enables, at level 0 (R450). -/
def raisedBy (trapEn : BitVec 6) (level : BitVec 2) (b : Stream) (pos : Nat) (pc : Word64) (l : List LaneWrite) : List Raised :=
  if level ≠ 0 then [] else
  (l.filter fun w => w.raise &&& trapEn != 0).map fun w => { b := b, pos := pos, pc := pc, lane := w.lane }

/-- The PCs of the active lanes after a word: the next word, or where a control transfer sends them (R159). -/
def movePcs (g : Group) (active : LaneMask) (next : Word64) (pcs : Option (List (Nat × Word64))) : Group :=
  g.mapLanes fun t th =>
    if active.getLsbD t then
      let dest := ((pcs.getD []).find? fun p => decide (p.1 = t)).map (·.2)
      { th with pc := dest.getD next }
    else th

/-- A store reaches its target through a window of another owner: not memory, not the team's own scratchpad (R314). -/
def StoreReq.far (tm : TRef) (q : StoreReq) : Bool :=
  match q.at_ with
  | .mem _ => false
  | .scratch u _ => decide (u ≠ tm)
  | _ => true
/-- The run holds a store whose target is checked again as the run commits (R316). -/
def Run.farStores (tm : TRef) (r : Run) : Bool :=
  r.effects.any fun f => match f with
    | .stores l _ => l.any (StoreReq.far tm)
    | _ => false
/-- The state of a run before its next word (R440), with the log where the word has changed it behind a store that may still be refused
(R256). -/
def Env.preImage (e : Env) : Pre :=
  { at_ := e.r.at_, last := e.r.last, lanes := e.g.lanes, s := e.r.s, written := e.r.written, effects := e.r.effects
    deferred := e.r.deferred, ctl := e.r.ctl, pause := e.r.pause
    log := if e.r.farStores e.g.ref.tref && e.team.log != e.log0 then some e.log0 else none }
/-- A run holds a pre-image of the expression log of its team, and may still be taken back (R256, R440). -/
def Run.holdsLog (r : Run) : Bool := !r.committed && r.pre.any fun p => p.log.isSome
/-- A run of a team's group, other than one, that holds a pre-image of the team's log. -/
def State.logHolder (s : State) (tm : TRef) (me : Option (GRef × Stream)) : Option (Group × Round × Stream × Run) :=
  s.groups.findSome? fun g => if g.ref.tref ≠ tm then none else g.round.bind fun rd =>
    [Stream.a, .b].findSome? fun b => if me = some (g.ref, b) then none else
      (rd.run? b).bind fun r => if r.holdsLog then some (g, rd, b, r) else none

/-- A run as it stood before its word `i`, whose pre-image is given (R440). -/
def Run.rewind (r : Run) (i : Nat) (p : Pre) : Run :=
  { r with
    at_ := p.at_, last := p.last, pos := i, s := p.s, written := p.written, effects := p.effects, deferred := p.deferred, ctl := p.ctl
    pause := p.pause, pre := r.pre.take i, exit := none, tret := none, probe := none
    tfence := r.tfence.filter fun x => decide (x.2 ≤ i) }
/-- A group whose run is taken back to before its word `i`, with what is left of the run. -/
def Group.takeBack (g : Group) (rd : Round) (b : Stream) (r : Run) (i : Nat) (p : Pre) (left : Run) : Group :=
  let g := g.mapLanes fun t th => if r.active.getLsbD t then (p.lanes[t]?).getD {} else th
  { g with raised := g.raised.filter fun x => !(x.b == b && decide (i < x.pos)), round := some (rd.setRun b left) }
/-- The key of the answers that a deferred decision of an interval word waits for, with its lanes. -/
def Deferred.decision? (d : Deferred) : Option (Nat × List Nat) :=
  match d.form with
  | .xcmp _ _ _ key l => some (key, l)
  | .xsgn _ _ key l => some (key, l)
  | .xref _ key l => some (key, (l.filter fun x => !x.2.h.getLsbD 31).map (·.1))
  | _ => none
/-- The words of a run from that of a pre-image on are withdrawn: their lanes are no longer referred (R260, R440). -/
def State.takeBack (s : State) (g : Group) (r : Run) (p : Pre) : State :=
  let keys := (r.deferred.drop p.deferred.length).filterMap fun d => d.decision?.map (·.1)
  { s with referrals := s.referrals.filter fun x => !(x.g == g.ref && keys.contains x.key) }

/-- A word retires: its in-run writes are made (R82), its deferred writes and boundary effects noted (R83), and its run goes on or
ends (R40, R41, R43). -/
def retire (rb : Bool) (e : Env) (d : Delta) : State :=
  let pos := e.r.pos + 1
  let g := e.g.applyAll d.lanes
  let g := { g with raised := g.raised ++ raisedBy (pkTrapEn e.pkt) g.level e.b pos e.r.at_ d.lanes }
  let g := movePcs g e.r.active (e.r.at_ + 8) d.pcs
  let r := { e.r with
    at_ := e.r.at_ + 8
    pos := pos
    last := e.r.at_
    ended := rb || e.r.step
    s := d.sregs.foldl (fun s p => Table.set {} s p.1 p.2) e.r.s
    written := e.r.written ++ d.sregs.map (·.1)
    deferred := e.r.deferred ++ d.defer.map fun f => { pc := e.r.at_, pos := pos, b := e.b, begun := e.rd.begun, form := f }
    effects := e.r.effects ++ d.effs
    ctl := e.r.ctl ++ d.ctl
    lastAt := e.s.cycle
    probe := none
    pre := e.r.pre ++ [e.preImage]
    pause := d.pause.or e.r.pause
    exit := d.exit.map fun l => (e.r.at_, pos, l)
    tfence := e.r.tfence.or (if d.tfence then some (e.r.at_, pos) else none) }
  { e with g := g, r := r }.close

/-- A word faults or traps: the run ends before it (R86); a trap may still move the lanes it does not take. -/
def faultWord (e : Env) (cause : Nat) (addr : Word64) (lanes : LaneMask) (detail : Nat) (d : Delta) : State :=
  let g := match d.pcs with
    | none => e.g
    | some _ => movePcs e.g (e.r.active &&& ~~~lanes) (e.r.at_ + 8) none
  let f : FaultInfo := { cause := cause, pc := e.r.at_, addr := addr, lanes := lanes, detail := detail, pos := e.r.pos + 1,
                         stream := decide (e.b = .b), flags := (d.lanes.head?.map (·.raise)).getD 0 }
  { e with g := g, r := { e.r with ended := true, fault := some f } }.close

/-- The meaning of a word of the instruction set, over the run in execution. -/
def word (rb : Bool) (s : State) (f : Env → WordOut) : Host.Outcome State Fault Refusal :=
  match env? s with
  | none => .fault .noRun
  | some e =>
    match f e with
    | .retire e d => .next (retire rb e d)
    | .fault e c a l k d => .next (faultWord e c a l k d)
    | .stall s => .next s

/-- The meaning of an event: where it is not enabled it changes nothing (log 1). -/
def event (s : State) (o : Option State) : Host.Outcome State Fault Refusal := .next (o.getD s)

/-- Lines that a prefetch names are brought near, and count at HBM; one that would fail, or that no budget is left for, is dropped (R49,
R351). -/
def Env.prefetch (e : Env) (l : List Word64) : Env :=
  let one (s : State) (va : Word64) : State :=
    match s.access e.g.core e.ctx .read va with
    | .ok pa =>
      let l := s.pathLines e.g.core e.ctx va pa
      if s.poisoned pa 1 || !s.linesOpen e.ctx.asid (pkClass e.pkt) l then s
      else (s.chargeLines e.ctx.asid (pkClass e.pkt) l).bump
    | _ =>
      let l := s.xlatReads e.g.core e.ctx va
      if s.linesOpen e.ctx.asid (pkClass e.pkt) l then (s.chargeLines e.ctx.asid (pkClass e.pkt) l).bump else s
  { e with s := l.foldl one e.s }

/-! ### Fault records (R418, R452) -/

/-- The 64 bytes of a fault record. -/
def recBytes (r : FaultRec) (asid : Nat) (ns seq : Nat) : List Byte :=
  leBytes (1 + r.cause1.toNat * 2 ^ 8 + r.cause2.toNat * 2 ^ 16 + r.final * 2 ^ 24 + r.kind * 2 ^ 40 + asid * 2 ^ 44) 8 ++
  leBytes r.level.toNat 8 ++
  leBytes (r.detail.toNat * 2 ^ 8 + r.group.toNat * 2 ^ 16 + r.lane.toNat * 2 ^ 24 + r.grid.toNat * 2 ^ 32) 8 ++
  leBytes r.team.toNat 8 ++ leBytes r.pc.toNat 8 ++ leBytes r.addr.toNat 8 ++ leBytes seq 8 ++ leBytes ns 8

/-- An MSI-X message (R418). -/
def State.sendMsi (s : State) (fn vec : Nat) : State := { s with dev := { s.dev with msix := s.dev.msix ++ [(fn, vec)] } }

/-- Where the descriptor of a context stands (R415). -/
def State.descAt (s : State) (asid : Nat) : Nat := s.dev.ctxBase.toNat + 128 * asid

/-- A fault record goes to the ring of its context, or is dropped where the ring is full; the message is sent either way (R418). -/
def State.record (s : State) (asid : Nat) (r : FaultRec) : State :=
  match s.ctx? asid with
  | none => s
  | some c =>
    let read := s.home.nat (s.descAt asid + 24) 4
    let seq := c.recs.toNat
    let used := (c.frwrite.toNat + 2 ^ 32 - read) % 2 ^ 32
    let s :=
      if used < 2 ^ c.frlog then
        let at_ := c.frbase + 64 * (c.frwrite.toNat % 2 ^ c.frlog)
        let s := s.homeWrite .outside at_ (recBytes r asid s.dev.ns seq)
        let s := s.homeWrite .outside (s.descAt asid + 28) (leBytes (c.frwrite + 1).toNat 4)
        s.setCtx { c with frwrite := c.frwrite + 1, recs := c.recs + 1 }
      else
        let drops := if c.drops = 0xFFFFFFFF then c.drops else c.drops + 1
        let s := s.homeWrite .outside (s.descAt asid + 72) (leBytes drops.toNat 4)
        s.setCtx { c with drops := drops, recs := c.recs + 1 }
    s.sendMsi c.vf c.msix

/-! ### Futures (R367, R368, R370, R372) -/

/-- The handle of a future. -/
def mkHandle (gidx eng slot : Nat) (gen : BitVec 33) : Word64 :=
  BitVec.ofNat 64 (2 ^ 63 + gidx * 2 ^ 42 + eng * 2 ^ 39 + gen.toNat * 2 ^ 6 + slot)

/-- A handle taken apart: group index, engine, generation, slot; none where the value is no handle (R367). -/
def handleOf (groups : Nat) (h : Word64) : Option (Nat × Nat × BitVec 33 × Nat) :=
  let gidx := bits h 42 6
  let eng := bits h 39 3
  if h.getLsbD 63 && decide (bits h 48 15 = 0) && decide (1 ≤ eng) && decide (eng ≤ 6) && decide (gidx < groups)
  then some (gidx, eng, BitVec.ofNat 33 (bits h 6 33), bits h 0 6) else none

def Group.future (g : Group) (k : Nat) : Future := Table.get {} g.futures k
/-- Futures not completed. -/
def Group.incomplete (g : Group) : Nat := (g.futures.filter fun p => !p.2.isDone).length

/-- The S registers of a group hold a handle with a tag. -/
def Group.holds (g : Group) (h : Word64) : Bool := g.s.any fun p => p.2.w == h && p.2.tag != .none
def Group.slotHandle (g : Group) (k : Nat) : Word64 := mkHandle g.ref.group (g.future k).eng k (g.future k).gen

/-- The element of a list with the least key. -/
def argMin {α : Type} (key : α → Nat) : List α → Option α
  | [] => none
  | x :: rest => match argMin key rest with
    | none => some x
    | some y => if key x ≤ key y then some x else some y

/-- The future slot that a command takes (R368). Of several that have held no future it takes the lowest. DESIGN CHOICE: the spec only puts
these first (log 91). -/
def Group.pickSlot (g : Group) : Option Nat :=
  let all := List.range 64
  (all.find? fun k => !(g.future k).used).or
    ((argMin (fun k => (g.future k).order) (all.filter fun k => (g.future k).isDone && !g.holds (g.slotHandle k))).or
      (argMin (fun k => (g.future k).order) (all.filter fun k => (g.future k).isDone)))

/-- A handle names a future of a group: the slot and the generation decide, whatever its ENG field (R367). -/
def namesFuture (groups gidx slot : Nat) (gen : BitVec 33) (h : Word64) : Bool :=
  match handleOf groups h with
  | some (g, _, n, k) => decide (g = gidx) && decide (n = gen) && decide (k = slot)
  | none => false
/-- A wait for a future that a property picks. -/
def waitsFuture (p : Word64 → Bool) : Wait → Bool
  | .fut h => p h
  | _ => false
/-- Threads that wait for a future take their push, and go on (R391). -/
def wakeFuture (p : Word64 → Bool) (ok : Bool) (x : Group) : Group :=
  { x with lanes := x.lanes.map (Thread.endWaits (waitsFuture p) (some (.push ok))) }

/-- A command takes a future slot: the group, the slot and its generation. -/
def Group.takeSlot (g : Group) (eng : Nat) : Option (Group × Nat × BitVec 33) :=
  g.pickSlot.map fun k =>
    let f : Future := { g.future k with gen := (g.future k).gen + 1, used := true, isDone := false, word := 0, eng := eng }
    ({ g with futures := Table.set {} g.futures k f }, k, f.gen)

/-- What a completion does to a tagged register that holds the handle (R370). -/
def settleTag (h : Word64) (fail : Bool) (c : SCell) : SCell :=
  if c.w = h ∧ c.tag ≠ .none then { c with tag := if fail then .failed else .none } else c
def settleTable (h : Word64) (fail : Bool) (t : Table SCell) : Table SCell := t.map fun p => (p.1, settleTag h fail p.2)
def Run.settle (h : Word64) (fail : Bool) (r : Run) : Run :=
  { r with s := settleTable h fail r.s, pre := r.pre.map fun p => { p with s := settleTable h fail p.s } }

/-- The status word of R372. FLAGS there run from bit 12 down IV, DZ, OF, UF, NX. -/
def statusWord (status eng : Nat) (flags : BitVec 6) (cause info : Nat) : Word64 :=
  let b (i w : Nat) : Nat := if flags.getLsbD i then 2 ^ w else 0
  BitVec.ofNat 64 (status + eng * 8 + b 0 12 + b 1 11 + b 2 10 + b 3 9 + b 4 8 + cause * 2 ^ 24 + info * 2 ^ 32)

/-- A future completes with its status word, and the tags change (R370, R371). Status 1 DONE, 2 CANCELLED, 3 FAULT, 4 ABORTED. -/
def State.completeFuture (s : State) (gr : GRef) (slot : Nat) (gen : BitVec 33) (w : Word64) : State :=
  match s.group? gr with
  | none => s
  | some g =>
    let f := g.future slot
    if f.gen ≠ gen ∨ f.isDone then s
    else
      let h := mkHandle gr.group f.eng slot gen
      let fail := decide (3 ≤ bits w 0 3)
      let g := { g with
        futures := Table.set {} g.futures slot { f with isDone := true, word := w, order := s.serials }
        s := settleTable h fail g.s
        round := g.round.map fun r => { r with a := r.a.map (Run.settle h fail), b := r.b.map (Run.settle h fail),
                                               startS := settleTable h fail r.startS }
        pend := g.pend.map fun d => match d.form with
          | .uniform n k .pending t => if g.answers.any (fun a => a.key == k && a.w == h) then
              { d with form := .uniform n k (if fail then .failed else .none) t } else d
          | _ => d }
      let s := { s.setGroup g with serials := s.serials + 1 }
      let named := namesFuture (pkGroups (s.pkt gr.grid)) gr.group slot gen
      { s with groups := s.groups.map fun x => if x.ref.tref = gr.tref then wakeFuture named (decide (bits w 0 3 = 1)) x else x }

/-- A status word with the ENG of a handle (R372). -/
def withEng (w : Word64) (eng : Nat) : Word64 := (w &&& ~~~0x38#64) ||| BitVec.ofNat 64 (eng * 8)
/-- The state of the future a handle names in a team: none where it is no handle; a status of 0 while pending, 5 retired (R372, R394). -/
def State.futureStatus (s : State) (t : TRef) (groups : Nat) (h : Word64) : Option Word64 :=
  (handleOf groups h).map fun (gidx, eng, gen, slot) =>
    match s.group? { grid := t.grid, team := t.team, group := gidx } with
    | none => 5
    | some g =>
      let f := g.future slot
      if f.gen ≠ gen ∨ !f.used then 5
      else if f.isDone then withEng f.word eng else BitVec.ofNat 64 (eng * 8)

/-- The completion counter of a command takes its add; a failing one leaves a record (R371). -/
def State.bumpCounter (s : State) (asid unit : Nat) (grid : Nat) (ctr : Word64) : State :=
  if ctr = 0 then s else
  match s.ctx? asid with
  | none => s
  | some c =>
    match s.addCounter unit c ctr (· + 1) (s.det grid) with
    | some t => t.chargeVa unit c (s.classOf grid) ctr
    | none => (s.chargeVa unit c (s.classOf grid) ctr).record asid { kind := 1, final := 36, grid := BitVec.ofNat 32 grid, addr := ctr }

/-- An answer reaches a group. -/
def State.answer (s : State) (g : GRef) (a : Answer) : State :=
  match s.group? g with
  | none => s
  | some x => s.setGroup { x with answers := x.answers ++ [a] }

/-! ### Taking an exception and returning from one (R441 to R446) -/

def Group.bank (g : Group) (n : Nat) : Bank := if n = 2 then g.bank2 else g.bank1
def Group.setBank (g : Group) (n : Nat) (b : Bank) : Group :=
  if n = 2 then { g with bank2 := b } else { g with bank1 := b }

/-- TCAUSE (R446). -/
def mkTcause (f : FaultInfo) : BitVec 20 := BitVec.ofNat 20 (f.cause + (if f.cause = 11 then f.detail * 2 ^ 8 else 0) + (if f.cause = 16 then f.flags.toNat * 2 ^ 14 else 0))
/-- TSTATE (R446). -/
def mkTstate (f : FaultInfo) : BitVec 8 :=
  BitVec.ofNat 8 ((if f.after then 0 else f.pos) + (if f.stream then 64 else 0) + (if f.after then 128 else 0))

/-- Trap entry (R441): at level 0 or 1 with a handler, bank L + 1 is written, the lanes of TLANES stand at TRAPPC and the level rises;
none where the grid dies (level 3, or TRAPPC 0). -/
def trapEntry (trapPc : Word64) (g : Group) (f : FaultInfo) : Option Group :=
  if trapPc = 0 ∨ 2 ≤ g.level.toNat then none
  else
    let n := g.level.toNat + 1
    let b : Bank := { tpc := f.pc, taddr := f.addr, tcause := mkTcause f, tstate := mkTstate f, tlanes := f.lanes }
    let g := (g.setBank n b).mapLanes fun t th => if f.lanes.getLsbD t then { th with pc := trapPc } else th
    some { g with level := g.level + 1 }

/-- A control write as the group takes it. -/
def CtlWrite.apply (g : Group) : CtlWrite → Group
  | .tpc n v => g.setBank n { g.bank n with tpc := v }
  | .taddr n v => g.setBank n { g.bank n with taddr := v }
  | .debug ss be => { g with ss := ss, be := be }
  | .prio v => { g with prio := v }
  | .mark v => { g with mark := v }
/-- The group with the control writes of a run. -/
def Group.withCtl (g : Group) (l : List CtlWrite) : Group := l.foldl CtlWrite.apply g
/-- The write that undoes a control write of a group. -/
def CtlWrite.back (g : Group) : CtlWrite → CtlWrite
  | .tpc n _ => .tpc n (g.bank n).tpc
  | .taddr n _ => .taddr n (g.bank n).taddr
  | .debug .. => .debug g.ss g.be
  | .prio _ => .prio g.prio
  | .mark _ => .mark g.mark
/-- The control state of the group as a run sees it: without the writes of the other run of its round (R89). -/
def Round.ctl (rd : Round) (b : Stream) (g : Group) : Group := if b = .b then g.withCtl rd.ctlBack else g
/-- The control state of the group as the word in execution sees it: its run's own writes over what the group held as the round began
(R89). -/
def Env.ctl (e : Env) : Group := (e.rd.ctl e.b e.g).withCtl e.r.ctl

/-- The resume PC of a return from the level (R444). -/
def resumePc (g : Group) (skip : Bool) : Word64 :=
  let b := g.bank g.level.toNat
  if b.tstate.getLsbD 7 then b.taddr else if skip then b.tpc + 8 else b.tpc

/-- The return from an exception (R444): every thread of TLANES takes the resume PC, which TRET has checked, the level falls, and a return
from ARITH to level 0 clears the flag record (R450). -/
def trapReturn (g : Group) (pc : Word64) : Group :=
  let b := g.bank g.level.toNat
  let g' := g.mapLanes fun t th => if b.tlanes.getLsbD t && th.live then { th with pc := pc } else th
  let clear := decide (g.level = 1) && decide (bits b.tcause 0 8 = 16)
  { g' with level := g.level - 1
            flagV := if clear then false else g.flagV
            flagPc := if clear then 0 else g.flagPc
            flagLane := if clear then 0 else g.flagLane
            flagAt := if clear then 0 else g.flagAt }

/-- DETAIL of a fault record (R452). -/
def recDetail (f : FaultInfo) : BitVec 8 :=
  if f.cause = 16 then f.flags.zeroExtend 8 else if f.cause = 11 then BitVec.ofNat 8 (f.detail % 64) else 0

/-- The record of a grid that a fault of a group ends (R452). -/
def killRec (g : Group) (f : FaultInfo) : FaultRec :=
  { kind := 0, final := f.cause, grid := BitVec.ofNat 32 g.ref.grid, addr := f.addr, pc := f.pc,
    team := BitVec.ofNat 64 g.ref.team, group := BitVec.ofNat 8 g.ref.group,
    lane := match (maskLanes f.lanes).head? with
      | some t => BitVec.ofNat 8 t
      | none => 0xFF
    detail := recDetail f, level := g.level,
    cause1 := if 1 ≤ g.level.toNat then BitVec.ofNat 8 (bits g.bank1.tcause 0 8) else 0,
    cause2 := if 2 ≤ g.level.toNat then BitVec.ofNat 8 (bits g.bank2.tcause 0 8) else 0 }

/-! ### Grid kill (R451) -/

/-- A butterfly command of a killed grid completes CANCELLED (R303): each of its futures, behind its counter. -/
def cancelBf (core : Nat) (s : State) (c : BfCmd) : State :=
  let one (s : State) (g : GRef) (fut : Option (Nat × BitVec 33)) (ctr : Word64) : State :=
    match fut with
    | none => s
    | some (slot, gen) =>
      let s := s.bumpCounter c.asid core g.grid ctr
      s.completeFuture g slot gen (statusWord 2 5 0 0 0)
  let s := one s c.g c.fut c.ctr
  c.peers.foldl (fun s p => one s p.g (some (p.slot, p.gen)) p.ctr) s

/-- The pass that a begun stage, chain or gang makes next is admitted (R428): its first was, when it began, and so was one in progress at a
kill. -/
def State.passOpen (s : State) (c : BfCmd) : Bool :=
  c.stop || decide (c.stage = 0 ∧ c.pass = 0 ∧ c.part = 0) || s.admitted c.asid (s.classOf c.g.grid) 24
/-- A command is in progress: a transfer that has begun, or a stage whose pass is admitted (R303, R428). -/
def State.inProgress (s : State) (c : BfCmd) : Bool :=
  c.begun && (match c.kind with
    | .inl (.stage ..) => s.passOpen c
    | _ => true)
/-- The engine of a core at a kill of the holding grid (R276, R303): no further command begins, and the holding ends. Every command and
every participant of the latch is marked to stop: what is in progress ends its pass or transfer, the rest completes CANCELLED. -/
def killBf (s : State) (grid core : Nat) : State :=
  let e := s.bfOf core
  match e.holder with
  | none => s
  | some t =>
    if t.grid ≠ grid then s
    else
      let latched := match e.latch with
        | none => []
        | some l => l.parts
      let queue := (e.queue ++ latched).map fun c => { c with stop := true, hold := none, begun := s.inProgress c }
      s.setBf core (if queue.isEmpty then {} else { e with queue := queue, latch := none, leaving := true })

/-- The runs of a round have committed, or there is no round. -/
def Group.settled (x : Group) : Bool :=
  match x.round with
  | none => true
  | some rd => (rd.a.toList ++ rd.b.toList).all (·.committed) && rd.waitB.isNone

/-- The lanes of the runs of a round that have not committed stand as the round found them (R440, R451). -/
def Group.withdrawn (g : Group) (rd : Round) : List Thread :=
  let open_ (t : Nat) (r : Option Run) : Bool := (r.map fun r => !r.committed && r.active.getLsbD t).getD false
  (List.range g.lanes.length).map fun t => if open_ t rd.a || open_ t rd.b then (rd.start[t]?).getD {} else g.lane t

/-- A group of a killed grid stops at once, a run in progress is withdrawn, and its waits end; the effects and the deferred writes of runs
already committed stand (R451). -/
def killGroup (grid : Nat) (x : Group) : Group :=
  if x.ref.grid = grid then
    let lanes := match x.round with
      | some rd => x.withdrawn rd
      | none => x.lanes
    { x with round := none, detPend := [], raised := [], afters := [], replay := none,
             lanes := lanes.map fun t => { t with st := if t.st = .live then .exited else t.st, waits := [] } }
  else x

/-- A copy, gather or launch of a killed grid is cancelled, a collective aborted (R395). -/
def killCommand (grid : Nat) (c : Command) : Command :=
  if c.g.grid = grid then { c with cancel := true, stop := none, abort := c.abort || c.eng == 3 } else c

/-- The runs of a sheet of a killed grid end at their next boundary (R451). -/
def killSheet (grid : Nat) (x : Sheet) : Sheet :=
  if x.team.grid = grid then
    { x with releasing := true, runs := x.runs.map fun y => { y with cancel := true, stop := none } } else x

/-- The kill of a grid (R451): its groups stop, undispatched teams are never dispatched, stores are posted, engines cancel, held batches
and referrals are discarded, waits end. What is left for KILL_COMPLETE is marked by `kill`. -/
def State.killGrid (s : State) (grid : Nat) (r : FaultRec) : State :=
  match s.grid? grid with
  | none => s
  | some g =>
    if g.kill.isSome || g.ended then s
    else
      let s := s.setGrid { g with kill := some r }
      let s := { s with groups := s.groups.map (killGroup grid) }
      let s := s.postGrid grid
      let s := { s with
        referrals := s.referrals.filter fun x => decide (x.g.grid ≠ grid)
        holds := s.holds.filter fun x => decide (x.grid ≠ grid)
        early := s.early.filter fun x => decide (x.g.grid ≠ grid)
        cmds := s.cmds.map (killCommand grid)
        sheets := s.sheets.map (killSheet grid)
        orphans := s.orphans.map fun o => if o.run.g.grid = grid then { o with run := { o.run with stop := none } } else o }
      (List.range numCores).foldl (fun s c => killBf s grid c) s

/-- A fault or trap of a group is taken (R441, R451): the handler is entered, or the grid is killed. -/
def State.takeTrap (s : State) (g : Group) (f : FaultInfo) : State :=
  match trapEntry (((s.gridCtx? g.ref.grid).map Context.trapPc).getD 0) g f with
  | some g => s.setGroup g
  | none => (s.setGroup g).killGrid g.ref.grid (killRec g f)

/-- A grid-fatal event at a group (R97, R251, R356): the record names its team, group, level and causes (R452). -/
def State.killAt (s : State) (g : Group) (cause : Nat) : State :=
  s.killGrid g.ref.grid (killRec g { cause := cause, pc := 0, addr := 0, lanes := 0, pos := 0 })

/-- A grid-fatal event at a team (R124): no group is named. -/
def State.killTeamAt (s : State) (tm : TRef) (cause : Nat) : State :=
  s.killGrid tm.grid { kind := 0, final := cause, grid := BitVec.ofNat 32 tm.grid, team := BitVec.ofNat 64 tm.team }

/-- The events that kill a grid without a handler (R437). -/
def State.killCause (s : State) (grid cause : Nat) : State :=
  s.killGrid grid { kind := 0, final := cause, grid := BitVec.ofNat 32 grid }

end Sys2Proof.Machine
end

