-- ==== Sys2Proof/Machine/Operands.lean ====
section
/-!
DEFINITION. Every operand form of a word: how a lane reads its vector and uniform sources and writes its destinations (R30, R31), with
the taint each read and write carries (R400); and the shapes that families of words share.
-/
namespace Sys2Proof.Machine
open Sys2Proof

/-- A value read, with the taint of its source. -/
structure Val (n : Nat) where
  w : BitVec n
  t : Bool := false
  deriving DecidableEq, Repr

/-! ### Reads -/

/-- An S register as the run sees it (R89). -/
def Env.scell (e : Env) (n : Nat) : SCell := Table.get {} e.r.s n
/-- A uniform source (R30). -/
def Env.us (e : Env) (n : BitVec 8) : Val 64 :=
  let c := e.scell n.toNat
  { w := c.w, t := decide (c.t ≠ 0) }
/-- A thread of the group. -/
def Env.th (e : Env) (t : Nat) : Thread := e.g.lane t
/-- A 32-bit vector source: a V register, or bits 31:0 of a broadcast S register (R31). -/
def Env.v32 (e : Env) (t : Nat) (n : BitVec 8) : Val 32 :=
  if n.toNat < 128 then
    let c := (e.th t).vreg n.toNat
    { w := c.w, t := c.t }
  else
    let c := e.scell (n.toNat - 128)
    { w := c.w.extractLsb' 0 32, t := c.t.getLsbD 0 }
/-- A 64-bit vector source: an even pair, or all of a broadcast S register (R31). -/
def Env.v64 (e : Env) (t : Nat) (n : BitVec 8) : Val 64 :=
  if n.toNat < 128 then
    let lo := (e.th t).vreg n.toNat
    let hi := (e.th t).vreg (n.toNat + 1)
    { w := hi.w ++ lo.w, t := lo.t || hi.t }
  else
    let c := e.scell (n.toNat - 128)
    { w := c.w, t := decide (c.t ≠ 0) }
/-- A vector source of the width of a type, zero-extended to 64 bits. -/
def Env.vsrc (e : Env) (t : Nat) (wide : Bool) (n : BitVec 8) : Val 64 :=
  if wide then e.v64 t n else { w := (e.v32 t n).w.zeroExtend 64, t := (e.v32 t n).t }
/-- Predicate depth `k` of a lane (R156). -/
def Env.p (e : Env) (t k : Nat) : Bool := (e.th t).pred.getLsbD k
/-- CT of some lane of the active set (R400). -/
def Env.anyCt (e : Env) : Bool := e.active.any fun t => (e.th t).ct

/-! ### Writes -/

/-- The taint of a lane's destination (R400): none outside a deterministic grid (R396). -/
def Env.dt (e : Env) (t : Nat) (src : Bool) : Bool := e.det && (src || (e.th t).ct)
/-- The taint of a group-class word's destination (R400). -/
def Env.ut (e : Env) (src : Bool) : Bool := e.det && (src || e.anyCt)

def Env.put32 (e : Env) (t : Nat) (d : BitVec 8) (x : Val 32) : LaneWrite :=
  { lane := t, v := [(d.toNat, { w := x.w, t := e.dt t x.t })] }
def Env.put64 (e : Env) (t : Nat) (d : BitVec 8) (x : Val 64) : LaneWrite :=
  { lane := t, v := [(d.toNat, { w := x.w.extractLsb' 0 32, t := e.dt t x.t }),
                     (d.toNat + 1, { w := x.w.extractLsb' 32 32, t := e.dt t x.t })] }
/-- A push, or with .rep a replacement of p0 (R156, R158); a tainted source sets CT (R400). -/
def Env.pushP (e : Env) (t : Nat) (rep b src : Bool) : LaneWrite :=
  { lane := t, preds := [if rep then .rep b else .push b], ct := e.det && src }
/-- An S register written whole; the tag goes (R370). -/
def mkS (w : Word64) (t : Bool) (tag : Tag := .none) : SCell := { w := w, tag := tag, t := if t then 3 else 0 }
def Env.putS (e : Env) (d : BitVec 8) (x : Val 64) : List (Nat × SCell) := [(d.toNat, mkS x.w (e.ut x.t))]

/-! ### Shapes -/

/-- A fixed-latency lane-class word: what it does in each lane of E, before the next word (R82). -/
def laneFixed (o : OpF) (f : Env → Nat → LaneWrite) (s : State) : Host.Outcome State Fault Refusal :=
  word o.rb s fun e => .retire e { lanes := (e.setE o).map (f e) }

/-- A variable-latency lane-class word: read now, written at the boundary (R83, R213). -/
def laneVariable (o : OpF) (f : Env → Nat → LaneWrite) (s : State) : Host.Outcome State Fault Refusal :=
  word o.rb s fun e => .retire e { defer := [.ready ((e.setE o).map (f e)) []] }

/-- One operand of the type's width. -/
def lane1 (o : OpF) (f : (w : Nat) → BitVec w → BitVec w) (e : Env) (t : Nat) : LaneWrite :=
  if o.wide then
    let x := e.v64 t o.a
    e.put64 t o.d { w := f 64 x.w, t := x.t }
  else
    let x := e.v32 t o.a
    e.put32 t o.d { w := f 32 x.w, t := x.t }

/-- Two operands of the type's width. -/
def lane2 (o : OpF) (f : (w : Nat) → BitVec w → BitVec w → BitVec w) (e : Env) (t : Nat) : LaneWrite :=
  if o.wide then
    let x := e.v64 t o.a
    let y := e.v64 t o.b
    e.put64 t o.d { w := f 64 x.w y.w, t := x.t || y.t }
  else
    let x := e.v32 t o.a
    let y := e.v32 t o.b
    e.put32 t o.d { w := f 32 x.w y.w, t := x.t || y.t }

/-- An operand of the type's width and a 32-bit count (R219). -/
def laneShift (o : OpF) (f : (w : Nat) → BitVec w → Nat → BitVec w) (e : Env) (t : Nat) : LaneWrite :=
  let c := e.v32 t o.b
  if o.wide then
    let x := e.v64 t o.a
    e.put64 t o.d { w := f 64 x.w c.w.toNat, t := x.t || c.t }
  else
    let x := e.v32 t o.a
    e.put32 t o.d { w := f 32 x.w c.w.toNat, t := x.t || c.t }

/-- A count of the bits of an operand of the type's width, in one register (R220). -/
def laneCount (o : OpF) (f : (w : Nat) → BitVec w → Nat) (e : Env) (t : Nat) : LaneWrite :=
  if o.wide then
    let x := e.v64 t o.a
    e.put32 t o.d { w := BitVec.ofNat 32 (f 64 x.w), t := x.t }
  else
    let x := e.v32 t o.a
    e.put32 t o.d { w := BitVec.ofNat 32 (f 32 x.w), t := x.t }

/-- The sign-extended imm31 of layout I (R29). -/
def immOf (o : OpI) : Word64 := o.imm.signExtend 64

/-- An immediate form on 32 bits (R225). -/
def laneImm (o : OpI) (f : Word32 → Word32 → Word32) (s : State) : Host.Outcome State Fault Refusal :=
  word o.rb s fun e =>
    let one (t : Nat) : LaneWrite :=
      let x := e.v32 t o.a
      e.put32 t o.d { w := f x.w (o.imm.signExtend 32), t := x.t }
    .retire e { lanes := (e.exec o.ge o.gn o.gd).map one }

/-- A fixed-latency uniform word (R226). -/
def uniFixed (o : OpF) (f : Word64 → Word64 → Word64) (s : State) : Host.Outcome State Fault Refusal :=
  word o.rb s fun e =>
    let x := e.us o.a
    let y := e.us o.b
    .retire e { sregs := e.putS o.d { w := f x.w y.w, t := x.t || y.t } }

/-- An immediate uniform word (R229). -/
def uniImm (o : OpI) (f : Word64 → Word64 → Word64) (s : State) : Host.Outcome State Fault Refusal :=
  word o.rb s fun e =>
    let x := e.us o.a
    .retire e { sregs := e.putS o.d { w := f x.w (immOf o), t := x.t } }

end Sys2Proof.Machine
end

