-- ==== Sys2Proof/Machine/Flags.lean ====
section
/-!
DEFINITION. Conditions and flags: the integer conditions of R223, the flags of integer division (R188), and the floating results
with their flags, lane by lane (R196, R197).
-/
namespace Sys2Proof.Machine
open Sys2Proof

/-- The type's order (R33): signed for the even codes. -/
def signedTy (ty : Nat) : Bool := ty % 2 == 0

def intLt {w : Nat} (signed : Bool) (a b : BitVec w) : Bool := if signed then a.slt b else a.ult b

/-- The conditions of R223 on integers. -/
def condI {w : Nat} (c : Nat) (signed : Bool) (a b : BitVec w) : Bool :=
  match c with
  | 0 => a == b
  | 1 => a != b
  | 2 => intLt signed a b
  | 3 => !intLt signed b a
  | 4 => intLt signed b a
  | _ => !intLt signed a b

/-- Quotient, remainder and flag of a division (R188, R218). -/
def divRem {w : Nat} (signed : Bool) (a b : BitVec w) : BitVec w × BitVec w × Flags :=
  if b = 0 then (BitVec.allOnes w, a, fDZ)
  else if signed then (BitVec.sdiv a b, BitVec.srem a b, 0)
  else (a / b, a % b, 0)

/-- The sign of d decides a condition (R271): −1, 0 or +1. -/
def condSign (c : Nat) (d : Int) : Bool :=
  match c with
  | 0 => d == 0
  | 1 => d != 0
  | 2 => decide (d < 0)
  | 3 => decide (d ≤ 0)
  | 4 => decide (0 < d)
  | _ => decide (0 ≤ d)

/-- A 32-bit floating result with its flags in a lane (R231). -/
def Env.putF (e : Env) (t : Nat) (d : BitVec 8) (r : Nat × Flags) (src : Bool) : LaneWrite :=
  { e.put32 t d { w := BitVec.ofNat 32 r.1, t := src } with raise := r.2 }
/-- A 64-bit floating result with its flags in a lane (R239). -/
def Env.putD (e : Env) (t : Nat) (d : BitVec 8) (r : Nat × Flags) (src : Bool) : LaneWrite :=
  { e.put64 t d { w := BitVec.ofNat 64 r.1, t := src } with raise := r.2 }

/-- Floating words on one, two and three binary32 operands. -/
def f32op1 (o : OpF) (f : Nat → Nat × Flags) (e : Env) (t : Nat) : LaneWrite :=
  let x := e.v32 t o.a
  e.putF t o.d (f x.w.toNat) x.t
def f32op2 (o : OpF) (f : Nat → Nat → Nat × Flags) (e : Env) (t : Nat) : LaneWrite :=
  let x := e.v32 t o.a
  let y := e.v32 t o.b
  e.putF t o.d (f x.w.toNat y.w.toNat) (x.t || y.t)
def f32op3 (o : OpF) (f : Nat → Nat → Nat → Nat × Flags) (e : Env) (t : Nat) : LaneWrite :=
  let x := e.v32 t o.a
  let y := e.v32 t o.b
  let z := e.v32 t o.c
  e.putF t o.d (f x.w.toNat y.w.toNat z.w.toNat) (x.t || y.t || z.t)

/-- Floating words on binary64 operands (R239). -/
def f64op1 (o : OpF) (f : Nat → Nat × Flags) (e : Env) (t : Nat) : LaneWrite :=
  let x := e.v64 t o.a
  e.putD t o.d (f x.w.toNat) x.t
def f64op2 (o : OpF) (f : Nat → Nat → Nat × Flags) (e : Env) (t : Nat) : LaneWrite :=
  let x := e.v64 t o.a
  let y := e.v64 t o.b
  e.putD t o.d (f x.w.toNat y.w.toNat) (x.t || y.t)
def f64op3 (o : OpF) (f : Nat → Nat → Nat → Nat × Flags) (e : Env) (t : Nat) : LaneWrite :=
  let x := e.v64 t o.a
  let y := e.v64 t o.b
  let z := e.v64 t o.c
  e.putD t o.d (f x.w.toNat y.w.toNat z.w.toNat) (x.t || y.t || z.t)

end Sys2Proof.Machine
end

