-- ==== Sys2Proof/Machine/Integer.lean ====
section
/-!
DEFINITION. Integer vector instructions, opcode group 0 (09_arithmetic_instructions.md R216 to R225), and what they share with the
uniform ones (R226).
-/
namespace Sys2Proof.Machine
open Sys2Proof

/-! ### Operations -/

def mulHigh (signed : Bool) (w : Nat) (a b : BitVec w) : BitVec w :=
  if signed then BitVec.ofInt w (a.toInt * b.toInt / 2 ^ w) else BitVec.ofNat w (a.toNat * b.toNat / 2 ^ w)
def minI (signed : Bool) (w : Nat) (a b : BitVec w) : BitVec w := if intLt signed b a then b else a
def maxI (signed : Bool) (w : Nat) (a b : BitVec w) : BitVec w := if intLt signed a b then b else a
def absI (w : Nat) (a : BitVec w) : BitVec w := if a.msb then -a else a
/-- The shifts of R219 with any count. -/
def shlOp (w : Nat) (a : BitVec w) (c : Nat) : BitVec w := if w ≤ c then 0 else a <<< c
def shrOp (w : Nat) (a : BitVec w) (c : Nat) : BitVec w := if w ≤ c then 0 else a >>> c
def sarOp (w : Nat) (a : BitVec w) (c : Nat) : BitVec w := a.sshiftRight (min c w)
def rotlOp (w : Nat) (a : BitVec w) (c : Nat) : BitVec w := a.rotateLeft (c % w)
def popcOp (w : Nat) (a : BitVec w) : Nat := (List.range w).foldl (fun n i => if a.getLsbD i then n + 1 else n) 0
def clzOp (w : Nat) (a : BitVec w) : Nat := if a = 0 then w else w - 1 - a.toNat.log2
def ctzOp (w : Nat) (a : BitVec w) : Nat := ((List.range w).find? fun i => a.getLsbD i).getD w
def brevOp (w : Nat) (a : BitVec w) : BitVec w :=
  (List.range w).foldl (fun r i => if a.getLsbD i then r ||| (1 <<< (w - 1 - i)) else r) 0
def fshlOp (a b c : Word32) : Word32 := ((a ++ b) <<< (c.toNat % 32)).extractLsb' 32 32
/-- The position and length of BFX and BFI (R221). -/
def fieldOf (b c : Word32) : Nat × Nat :=
  let p := min b.toNat 32
  (p, min c.toNat (32 - p))
def bfxOp (signed : Bool) (a b c : Word32) : Word32 :=
  let (p, l) := fieldOf b c
  let f := (a.toNat >>> p) % 2 ^ l
  if l = 0 then 0
  else if signed && decide (2 ^ (l - 1) ≤ f) then BitVec.ofInt 32 ((f : Int) - 2 ^ l) else BitVec.ofNat 32 f
def bfiOp (d a b c : Word32) : Word32 :=
  let (p, l) := fieldOf b c
  let mask : Word32 := BitVec.ofNat 32 ((2 ^ l - 1) <<< p)
  (d &&& ~~~mask) ||| ((a <<< p) &&& mask)

/-! ### Instructions -/

def execAdd (o : OpF) (s : State) := laneFixed o (lane2 o fun _ a b => a + b) s
def execSub (o : OpF) (s : State) := laneFixed o (lane2 o fun _ a b => a - b) s
def execMul (o : OpF) (s : State) := laneFixed o (lane2 o fun _ a b => a * b) s
def execMulh (o : OpF) (s : State) := laneFixed o (lane2 o (mulHigh (signedTy o.ty))) s
def execAnd (o : OpF) (s : State) := laneFixed o (lane2 o fun _ a b => a &&& b) s
def execOr (o : OpF) (s : State) := laneFixed o (lane2 o fun _ a b => a ||| b) s
def execXor (o : OpF) (s : State) := laneFixed o (lane2 o fun _ a b => a ^^^ b) s
def execAndn (o : OpF) (s : State) := laneFixed o (lane2 o fun _ a b => a &&& ~~~b) s
def execNot (o : OpF) (s : State) := laneFixed o (lane1 o fun _ a => ~~~a) s
def execNeg (o : OpF) (s : State) := laneFixed o (lane1 o fun _ a => -a) s
def execAbs (o : OpF) (s : State) := laneFixed o (lane1 o absI) s
def execMin (o : OpF) (s : State) := laneFixed o (lane2 o (minI (signedTy o.ty))) s
def execMax (o : OpF) (s : State) := laneFixed o (lane2 o (maxI (signedTy o.ty))) s
def execShl (o : OpF) (s : State) := laneFixed o (laneShift o shlOp) s
def execShr (o : OpF) (s : State) := laneFixed o (laneShift o shrOp) s
def execSar (o : OpF) (s : State) := laneFixed o (laneShift o sarOp) s
def execRotl (o : OpF) (s : State) := laneFixed o (laneShift o rotlOp) s
def execPopc (o : OpF) (s : State) := laneFixed o (laneCount o popcOp) s
def execClz (o : OpF) (s : State) := laneFixed o (laneCount o clzOp) s
def execCtz (o : OpF) (s : State) := laneFixed o (laneCount o ctzOp) s
def execBrev (o : OpF) (s : State) := laneFixed o (lane1 o brevOp) s

/-- ADDC (R217): carry in and out through p0. -/
def execAddc (o : OpF) (s : State) := laneFixed o (fun e t =>
  let x := e.v32 t o.a
  let y := e.v32 t o.b
  let n := x.w.toNat + y.w.toNat + (if e.p t 0 then 1 else 0)
  { e.put32 t o.d { w := BitVec.ofNat 32 n, t := x.t || y.t } with
    preds := [.rep (decide (2 ^ 32 ≤ n))], ct := e.det && (x.t || y.t) }) s

def execMad (o : OpF) (s : State) := laneFixed o (fun e t =>
  if o.wide then
    let x := e.v64 t o.a
    let y := e.v64 t o.b
    let z := e.v64 t o.c
    e.put64 t o.d { w := x.w * y.w + z.w, t := x.t || y.t || z.t }
  else
    let x := e.v32 t o.a
    let y := e.v32 t o.b
    let z := e.v32 t o.c
    e.put32 t o.d { w := x.w * y.w + z.w, t := x.t || y.t || z.t }) s

/-- ext_t of R216. -/
def extT (ty : Nat) (x : Word32) : Word64 := if signedTy ty then x.signExtend 64 else x.zeroExtend 64

def execMadw (o : OpF) (s : State) := laneFixed o (fun e t =>
  let x := e.v32 t o.a
  let y := e.v32 t o.b
  let z := e.v64 t o.c
  e.put64 t o.d { w := extT o.ty x.w * extT o.ty y.w + z.w, t := x.t || y.t || z.t }) s

/-- DIV and REM (R218) in one lane. -/
def divLane (rem : Bool) (o : OpF) (e : Env) (t : Nat) : LaneWrite :=
  if o.wide then
    let x := e.v64 t o.a
    let y := e.v64 t o.b
    let (q, r, fl) := divRem (signedTy o.ty) x.w y.w
    { e.put64 t o.d { w := if rem then r else q, t := x.t || y.t } with raise := fl }
  else
    let x := e.v32 t o.a
    let y := e.v32 t o.b
    let (q, r, fl) := divRem (signedTy o.ty) x.w y.w
    { e.put32 t o.d { w := if rem then r else q, t := x.t || y.t } with raise := fl }
def execDiv (o : OpF) (s : State) := laneVariable o (divLane false o) s
def execRem (o : OpF) (s : State) := laneVariable o (divLane true o) s

def execFshl (o : OpF) (s : State) := laneFixed o (fun e t =>
  let x := e.v32 t o.a
  let y := e.v32 t o.b
  let z := e.v32 t o.c
  e.put32 t o.d { w := fshlOp x.w y.w z.w, t := x.t || y.t || z.t }) s
def execBfx (o : OpF) (s : State) := laneFixed o (fun e t =>
  let x := e.v32 t o.a
  let y := e.v32 t o.b
  let z := e.v32 t o.c
  e.put32 t o.d { w := bfxOp (signedTy o.ty) x.w y.w z.w, t := x.t || y.t || z.t }) s
def execBfi (o : OpF) (s : State) := laneFixed o (fun e t =>
  let x := e.v32 t o.a
  let y := e.v32 t o.b
  let z := e.v32 t o.c
  let d := e.v32 t o.d
  e.put32 t o.d { w := bfiOp d.w x.w y.w z.w, t := x.t || y.t || z.t || d.t }) s

/-- SEL (R222). -/
def execSel (o : OpF) (s : State) := laneFixed o (fun e t =>
  lane2 o (fun _ a b => if e.p t o.cond then a else b) e t) s
def execMov (o : OpF) (s : State) := laneFixed o (lane1 o fun _ a => a) s
def execMovw (o : OpW) (s : State) : Host.Outcome State Fault Refusal :=
  word o.rb s fun e => .retire e { lanes := (e.exec o.ge o.gn o.gd).map fun t => e.put32 t o.d { w := o.imm } }
def execLea (o : OpF) (s : State) := laneFixed o (fun e t =>
  let x := e.v64 t o.a
  let y := e.v32 t o.b
  e.put64 t o.d { w := x.w + (extT o.ty y.w <<< (o.field 2 2)), t := x.t || y.t }) s

/-- CMP (R224). -/
def execCmp (o : OpF) (s : State) := laneFixed o (fun e t =>
  if o.wide then
    let x := e.v64 t o.a
    let y := e.v64 t o.b
    e.pushP t (o.bit 8) (condI o.cond (signedTy o.ty) x.w y.w) (x.t || y.t)
  else
    let x := e.v32 t o.a
    let y := e.v32 t o.b
    e.pushP t (o.bit 8) (condI o.cond (signedTy o.ty) x.w y.w) (x.t || y.t)) s

/-! ### Immediate forms (R225) -/

def execAddImm (o : OpI) (s : State) := laneImm o (fun a x => a + x) s
def execMulImm (o : OpI) (s : State) := laneImm o (fun a x => a * x) s
def execAndImm (o : OpI) (s : State) := laneImm o (fun a x => a &&& x) s
def execOrImm (o : OpI) (s : State) := laneImm o (fun a x => a ||| x) s
def execXorImm (o : OpI) (s : State) := laneImm o (fun a x => a ^^^ x) s
def execShlImm (o : OpI) (s : State) := laneImm o (fun a x => shlOp 32 a x.toNat) s
def execShrImm (o : OpI) (s : State) := laneImm o (fun a x => shrOp 32 a x.toNat) s
def execSarImm (o : OpI) (s : State) := laneImm o (fun a x => sarOp 32 a x.toNat) s
def execRotlImm (o : OpI) (s : State) := laneImm o (fun a x => rotlOp 32 a x.toNat) s

end Sys2Proof.Machine
end

