-- ==== Sys2Proof/Machine/Uniform.lean ====
section
/-!
DEFINITION. Integer uniform instructions, opcode group 1 (09_arithmetic_instructions.md R226 to R229).
-/
namespace Sys2Proof.Machine
open Sys2Proof

def execUadd (o : OpF) (s : State) := uniFixed o (fun a b => a + b) s
def execUsub (o : OpF) (s : State) := uniFixed o (fun a b => a - b) s
def execUmul (o : OpF) (s : State) := uniFixed o (fun a b => a * b) s
def execUmulh (o : OpF) (s : State) := uniFixed o (mulHigh (signedTy o.ty) 64) s
def execUand (o : OpF) (s : State) := uniFixed o (fun a b => a &&& b) s
def execUor (o : OpF) (s : State) := uniFixed o (fun a b => a ||| b) s
def execUxor (o : OpF) (s : State) := uniFixed o (fun a b => a ^^^ b) s
def execUshl (o : OpF) (s : State) := uniFixed o (fun a b => shlOp 64 a b.toNat) s
def execUshr (o : OpF) (s : State) := uniFixed o (fun a b => shrOp 64 a b.toNat) s
def execUsar (o : OpF) (s : State) := uniFixed o (fun a b => sarOp 64 a b.toNat) s
def execUmin (o : OpF) (s : State) := uniFixed o (minI (signedTy o.ty) 64) s
def execUmax (o : OpF) (s : State) := uniFixed o (maxI (signedTy o.ty) 64) s
def execUcmp (o : OpF) (s : State) := uniFixed o (fun a b => if condI o.cond (signedTy o.ty) a b then 1 else 0) s
def execUlea (o : OpF) (s : State) := uniFixed o (fun a b => a + (b <<< o.cond)) s

def execUmov (o : OpF) (s : State) : Host.Outcome State Fault Refusal :=
  word o.rb s fun e => .retire e { sregs := e.putS o.d (e.us o.a) }
def execUmovw (o : OpW) (s : State) : Host.Outcome State Fault Refusal :=
  word o.rb s fun e => .retire e { sregs := e.putS o.d { w := o.imm.zeroExtend 64 } }

/-- UDIV (R227): a divisor of 0 sets DZ in every active lane at the boundary. -/
def execUdiv (o : OpF) (s : State) : Host.Outcome State Fault Refusal :=
  word o.rb s fun e =>
    let x := e.us o.a
    let y := e.us o.b
    let (q, r, fl) := divRem (signedTy o.ty) x.w y.w
    let v : Val 64 := { w := if o.bit 5 then r else q, t := x.t || y.t }
    .retire e { defer := [.ready (e.active.map fun t => { lane := t, raise := fl }) (e.putS o.d v)] }

/-- What lane `u` supplies as a source (R166): its register now in the active set, at the round's start outside it, 0 where it is not
live. An S register as the source is no register of a lane, and a live lane outside the active set supplies it as the word sees it, with
the run's own writes. DESIGN CHOICE (log 75). -/
def Env.supply32 (e : Env) (u : Nat) (a : BitVec 8) : Val 32 :=
  if e.r.active.getLsbD u then e.v32 u a
  else if !(e.th u).live then { w := 0 }
  else if a.toNat < 128 then
    let c := ((e.rd.start[u]?).getD {}).vreg a.toNat
    { w := c.w, t := c.t }
  else e.v32 u a
def Env.supply64 (e : Env) (u : Nat) (a : BitVec 8) : Val 64 :=
  if e.r.active.getLsbD u then e.v64 u a
  else if !(e.th u).live then { w := 0 }
  else if a.toNat < 128 then
    let th := (e.rd.start[u]?).getD {}
    { w := (th.vreg (a.toNat + 1)).w ++ (th.vreg a.toNat).w, t := (th.vreg a.toNat).t || (th.vreg (a.toNat + 1)).t }
  else e.v64 u a

/-- URDV (R228). -/
def urdvVal (o : OpF) (e : Env) : Val 64 :=
  let j := (e.us o.b).w.toNat
  let ext (x : Word32) : Word64 := if signedTy o.ty then x.signExtend 64 else x.zeroExtend 64
  if 128 ≤ o.a.toNat then
    if o.wide then e.v64 0 o.a else { w := ext (e.v32 0 o.a).w, t := (e.v32 0 o.a).t }
  else if 127 < j then { w := 0 }
  else if o.wide then e.supply64 j o.a
  else { w := ext (e.supply32 j o.a).w, t := (e.supply32 j o.a).t }
def execUrdv (o : OpF) (s : State) : Host.Outcome State Fault Refusal :=
  word o.rb s fun e =>
    let v := urdvVal o e
    .retire e { defer := [.ready [] (e.putS o.d { v with t := v.t || (e.us o.b).t })] }

def execUaddImm (o : OpI) (s : State) := uniImm o (fun a x => a + x) s
def execUmulImm (o : OpI) (s : State) := uniImm o (fun a x => a * x) s
def execUandImm (o : OpI) (s : State) := uniImm o (fun a x => a &&& x) s
def execUorImm (o : OpI) (s : State) := uniImm o (fun a x => a ||| x) s
def execUxorImm (o : OpI) (s : State) := uniImm o (fun a x => a ^^^ x) s
def execUshlImm (o : OpI) (s : State) := uniImm o (fun a x => shlOp 64 a x.toNat) s
def execUshrImm (o : OpI) (s : State) := uniImm o (fun a x => shrOp 64 a x.toNat) s
def execUsarImm (o : OpI) (s : State) := uniImm o (fun a x => sarOp 64 a x.toNat) s

end Sys2Proof.Machine
end

