-- ==== Sys2Proof/Machine/Float.lean ====
section
/-!
DEFINITION. Binary32, packed 16-bit and binary64 instructions and conversions, opcode groups 2 and 3
(09_arithmetic_instructions.md R230 to R244, 08_number_formats.md R192 to R203).
-/
namespace Sys2Proof.Machine
open Sys2Proof

def u32 (n : Nat) : FVal := unpackF f32 n
def u64 (n : Nat) : FVal := unpackF f64 n
/-- The rounding mode of a word (R34). -/
def rmOf (o : OpF) : Nat := o.low2

/-! ### Binary32 (R231 to R238) -/

def execFadd (o : OpF) (s : State) := laneFixed o (f32op2 o fun a b => fAdd f32 (rmOf o) (u32 a) (u32 b)) s
/-- FSUB (R231): A + (−B), so two zeros take the sign that R194 gives to that sum, and +0 − −0 is the sum of two zeros of one sign. DESIGN
CHOICE: R194 speaks of the operands' signs, and of zeros of one sign only in a sum (log 76). -/
def execFsub (o : OpF) (s : State) := laneFixed o (f32op2 o fun a b => fAdd f32 (rmOf o) (u32 a) (u32 b).neg) s
def execFmul (o : OpF) (s : State) := laneFixed o (f32op2 o fun a b => fMul f32 (rmOf o) (u32 a) (u32 b)) s
def execFfma (o : OpF) (s : State) := laneFixed o (f32op3 o fun a b c => fFma f32 (rmOf o) (u32 a) (u32 b) (u32 c)) s
def execFdiv (o : OpF) (s : State) := laneVariable o (f32op2 o fun a b => fDiv f32 (rmOf o) (u32 a) (u32 b)) s
def execFsqrt (o : OpF) (s : State) := laneVariable o (f32op1 o fun a => fSqrt f32 (rmOf o) (u32 a)) s
def execFrcp (o : OpF) (s : State) := laneVariable o (f32op1 o fun a => fDiv f32 (rmOf o) (.fin false 1 0) (u32 a)) s
def execFrsq (o : OpF) (s : State) := laneVariable o (f32op1 o fun a => fRsqrt f32 (rmOf o) (u32 a)) s
def execFexp2 (o : OpF) (s : State) := laneVariable o (f32op1 o fun a => fExp2 f32 (rmOf o) (u32 a)) s
def execFlog2 (o : OpF) (s : State) := laneVariable o (f32op1 o fun a => fLog2 f32 (rmOf o) (u32 a)) s
def execFmin (o : OpF) (s : State) := laneFixed o (f32op2 o (fMinMax f32 false)) s
def execFmax (o : OpF) (s : State) := laneFixed o (f32op2 o (fMinMax f32 true)) s
def execFclass (o : OpF) (s : State) := laneFixed o (f32op1 o fun a => (fClass f32 a, 0)) s
def execFrnd (o : OpF) (s : State) := laneFixed o (f32op1 o (fRnd f32 (rmOf o))) s
def execFscl (o : OpF) (s : State) :=
  laneFixed o (f32op2 o fun a b => fScl f32 (rmOf o) a (BitVec.ofNat 32 b).toInt) s

/-- FCMP (R234). -/
def execFcmp (o : OpF) (s : State) := laneFixed o (fun e t =>
  let x := e.v32 t o.a
  let y := e.v32 t o.b
  { e.pushP t (o.bit 8) (condF o.cond (u32 x.w.toNat) (u32 y.w.toNat)) (x.t || y.t) with
    raise := snanFlag [u32 x.w.toNat, u32 y.w.toNat] }) s

/-- FSEL (R238): bit 31 of C. -/
def execFsel (o : OpF) (s : State) := laneFixed o (fun e t =>
  let x := e.v32 t o.a
  let y := e.v32 t o.b
  let z := e.v32 t o.c
  e.put32 t o.d { w := if z.w.msb then y.w else x.w, t := x.t || y.t || z.t }) s

/-! ### Packed 16-bit (R237) -/

def halfFmt (o : OpF) : FloatFmt := if o.ty = 9 then f16 else bf16
/-- Two halves computed apart. -/
def halves (f : Nat → Nat × Flags) : Nat × Flags :=
  ((f 0).1 + 65536 * (f 1).1, (f 0).2 ||| (f 1).2)
/-- Half `h` of a register. -/
def half (x h : Nat) : Nat := x / 2 ^ (16 * h) % 65536

def execHadd2 (o : OpF) (s : State) := laneFixed o (f32op2 o fun a b => halves fun h =>
  let f := halfFmt o
  fAdd f (rmOf o) (unpackF f (half a h)) (unpackF f (half b h))) s
def execHmul2 (o : OpF) (s : State) := laneFixed o (f32op2 o fun a b => halves fun h =>
  let f := halfFmt o
  fMul f (rmOf o) (unpackF f (half a h)) (unpackF f (half b h))) s
def execHfma2 (o : OpF) (s : State) := laneFixed o (f32op3 o fun a b c => halves fun h =>
  let f := halfFmt o
  fFma f (rmOf o) (unpackF f (half a h)) (unpackF f (half b h)) (unpackF f (half c h))) s

/-! ### Binary64 (R239) -/

def execDadd (o : OpF) (s : State) := laneFixed o (f64op2 o fun a b => fAdd f64 (rmOf o) (u64 a) (u64 b)) s
def execDmul (o : OpF) (s : State) := laneFixed o (f64op2 o fun a b => fMul f64 (rmOf o) (u64 a) (u64 b)) s
def execDfma (o : OpF) (s : State) := laneFixed o (f64op3 o fun a b c => fFma f64 (rmOf o) (u64 a) (u64 b) (u64 c)) s
def execDdiv (o : OpF) (s : State) := laneVariable o (f64op2 o fun a b => fDiv f64 (rmOf o) (u64 a) (u64 b)) s
def execDsqrt (o : OpF) (s : State) := laneVariable o (f64op1 o fun a => fSqrt f64 (rmOf o) (u64 a)) s
def execDcmp (o : OpF) (s : State) := laneFixed o (fun e t =>
  let x := e.v64 t o.a
  let y := e.v64 t o.b
  { e.pushP t (o.bit 8) (condF o.cond (u64 x.w.toNat) (u64 y.w.toNat)) (x.t || y.t) with
    raise := snanFlag [u64 x.w.toNat, u64 y.w.toNat] }) s

/-! ### Conversions (R198, R240, R241) -/

/-- The width of a type in bits (R33). -/
def tyBits (ty : Nat) : Nat :=
  match ty with
  | 0 | 1 | 8 => 32
  | 2 | 3 | 11 => 64
  | 4 | 5 | 9 | 10 => 16
  | _ => 8
/-- The binary format of a floating type. -/
def tyFmt (ty : Nat) : FloatFmt := if ty = 9 then f16 else if ty = 10 then bf16 else if ty = 11 then f64 else f32
def isIntTy (ty : Nat) : Bool := decide (ty ≤ 7)
/-- A value of an integer type, from its low bits. -/
def intOf (ty bits : Nat) : Int :=
  let w := tyBits ty
  let n := bits % 2 ^ w
  if signedTy ty ∧ 2 ^ (w - 1) ≤ n then (n : Int) - 2 ^ w else n
/-- The register form of low bits of a type (R240): narrow signed integers sign-extended to 32 bits, all else zero-extended. -/
def regForm (ty bits : Nat) : Nat :=
  let w := tyBits ty
  if ty = 12 then bits % 64
  else if isIntTy ty && signedTy ty && decide (w < 32) then (BitVec.ofInt 32 (intOf ty bits)).toNat
  else bits % 2 ^ w
/-- A floating or LNS6 value of a type. -/
def fvalOf (ty bits : Nat) : FVal := if ty = 12 then lnsVal bits else unpackF (tyFmt ty) (bits % 2 ^ tyBits ty)

/-- A value of any type converted to a type, as low bits of that type, with its flags (R198). -/
def convert (dst src rm bits : Nat) : Nat × Flags :=
  if isIntTy src then
    let i := intOf src bits
    if isIntTy dst then ((BitVec.ofInt (tyBits dst) i).toNat, 0)
    else if dst = 12 then toLns rm (intVal i)
    else roundVal (tyFmt dst) rm (intVal i)
  else
    let x := fvalOf src bits
    if isIntTy dst then
      let (i, fl) := fToInt (tyBits dst) (signedTy dst) rm x
      ((BitVec.ofInt (tyBits dst) i).toNat, fl)
    else if dst = 12 then
      if src = 12 then (bits % 64, 0) else toLns rm x
    else if x.isNaN then nanOut (tyFmt dst) x.isSNaN
    else if dst = src then (bits % 2 ^ tyBits src, 0)
    else roundVal (tyFmt dst) rm x

/-- A converted value in register form. -/
def convertReg (dst src rm bits : Nat) : Nat × Flags :=
  let r := convert dst src rm bits
  (regForm dst r.1, r.2)

/-- CVT (R241). -/
def execCvt (o : OpF) (s : State) := laneFixed o (fun e t =>
  let x := e.vsrc t (tyWide o.ty2) o.a
  let r := convertReg o.ty o.ty2 (rmOf o) x.w.toNat
  if o.wide then e.putD t o.d r x.t else e.putF t o.d r x.t) s

/-- PACK (R242). -/
def execPack (o : OpF) (s : State) := laneFixed o (fun e t =>
  let x := e.v32 t o.a
  let y := e.v32 t o.b
  let p := convert o.ty o.ty2 (rmOf o) x.w.toNat
  let q := convert o.ty o.ty2 (rmOf o) y.w.toNat
  if tyBits o.ty = 16 then e.putF t o.d (p.1 + 65536 * q.1, p.2 ||| q.2) (x.t || y.t)
  else
    let old := e.v32 t o.d
    let w16 := p.1 % 256 + 256 * (q.1 % 256)
    let w := if o.bit 5 then half old.w.toNat 0 + 65536 * w16 else w16 + 65536 * half old.w.toNat 1
    e.putF t o.d (w, p.2 ||| q.2) (x.t || y.t || old.t)) s

/-- UNPACK (R243). -/
def execUnpack (o : OpF) (s : State) := laneFixed o (fun e t =>
  let x := e.v32 t o.a
  e.putF t o.d (convertReg o.ty o.ty2 (rmOf o) (x.w.toNat >>> (tyBits o.ty2 * o.pos))) x.t) s

/-! ### QBLK (R244) -/

/-- One quire: its scale byte and what it does in its lanes of E. The code of a lane depends on the scale of its quire, and so on every lane
of E there: each takes the taint and the CT of them all. DESIGN CHOICE (log 85: R400 says no more of this word). -/
def qblkQuire (o : OpF) (e : Env) (l : List Nat) : Nat × List LaneWrite :=
  let vals := l.map fun t => u32 (e.v32 t o.a).w.toNat
  let tt := l.any fun t => (e.v32 t o.a).t || (e.th t).ct
  let put (t : Nat) (r : Nat × Flags) : LaneWrite := e.putF t o.d r tt
  if l.isEmpty then (0x7F, [])
  else if vals.any fun x => x.isNaN || (match x with | .inf _ => true | _ => false) then
    (0xFF, l.map fun t =>
      let x := u32 (e.v32 t o.a).w.toNat
      put t (0x20, snanFlag [x] ||| flagIf (match x with | .inf _ => true | _ => false) fOF))
  else if vals.all FVal.isZero then (0x7F, l.map fun t => put t (0x20, 0))
  else
    let m := ((vals.filter FVal.isFinNZ).map FVal.expo).foldl max (-1000)
    let ex := (min (max (m - 2 + 127) 0) 254).toNat
    (ex, l.map fun t =>
      match u32 (e.v32 t o.a).w.toNat with
      | .fin n k q => put t (toLns (rmOf o) (.fin n k (q + 127 - ex)))
      | _ => put t (0x20, 0))

/-- QBLK (R244). S[C] takes the taint of every lane of E, and CT of any active lane, as a uniform destination does. DESIGN CHOICE (log 85). -/
def execQblk (o : OpF) (s : State) : Host.Outcome State Fault Refusal :=
  word o.rb s fun e =>
    let es := e.setE o
    let q (k : Nat) := qblkQuire o e (es.filter fun t => t / 32 == k)
    let scale := (q 0).1 + 256 * (q 1).1 + 65536 * (q 2).1 + 16777216 * (q 3).1
    let tt := es.any fun t => (e.v32 t o.a).t
    .retire e { defer := [.ready ((q 0).2 ++ (q 1).2 ++ (q 2).2 ++ (q 3).2)
      (e.putS o.c { w := BitVec.ofNat 64 scale, t := tt })] }

end Sys2Proof.Machine
end

