-- ==== Sys2Proof/Machine/Control.lean ====
section
/-!
DEFINITION. Predicate instructions, branches, calls, EXIT, NOP, PAUSE, the hints and the paired form
(07_control_instructions.md R156 to R164; 02_instruction_words.md R36 to R39, R48, R49).
-/
namespace Sys2Proof.Machine
open Sys2Proof

/-! ### Predicates (R158) -/

/-- A word that pushes or replaces p0 from predicates alone. -/
def predFixed (o : OpF) (f : Env → Nat → Bool) (s : State) : Host.Outcome State Fault Refusal :=
  laneFixed o (fun e t => e.pushP t (o.bit 8) (f e t) false) s

def execPset (o : OpF) (s : State) := laneFixed o (fun e t =>
  match o.low2 with
  | 0 => e.pushP t (o.bit 8) false false
  | 1 => e.pushP t (o.bit 8) true false
  | 2 => e.pushP t (o.bit 8) ((e.v32 t o.a).w != 0) (e.v32 t o.a).t
  | _ => e.pushP t (o.bit 8) ((e.v32 t o.a).w.getLsbD (o.field 2 5)) (e.v32 t o.a).t) s
def execPnot (o : OpF) (s : State) := predFixed o (fun e t => !e.p t (o.field 0 3)) s
/-- The operands of PAND, POR and PXOR, each negated by its bit. -/
def predJ (o : OpF) (e : Env) (t : Nat) : Bool := e.p t (o.field 0 3) != o.bit 6
def predK (o : OpF) (e : Env) (t : Nat) : Bool := e.p t (o.field 3 3) != o.bit 7
def execPand (o : OpF) (s : State) := predFixed o (fun e t => predJ o e t && predK o e t) s
def execPor (o : OpF) (s : State) := predFixed o (fun e t => predJ o e t || predK o e t) s
def execPxor (o : OpF) (s : State) := predFixed o (fun e t => predJ o e t != predK o e t) s
def execPdup (o : OpF) (s : State) := predFixed o (fun e t => e.p t (o.field 0 3)) s
def execPpop (o : OpF) (s : State) := laneFixed o (fun e t =>
  { lane := t, preds := [.all ((e.th t).pred >>> (o.field 0 3 + 1))] }) s
def execPmask (o : OpF) (s : State) := laneFixed o (fun e t =>
  if o.bit 0 then
    { lane := t, preds := [.all ((e.v32 t o.a).w.extractLsb' 0 8)], ct := e.det && (e.v32 t o.a).t }
  else e.put32 t o.d { w := (e.th t).pred.zeroExtend 32 }) s

/-! ### Control transfers (R159 to R162) -/

/-- A valid target (R161). -/
def targetOk (a : Word64) : Bool := decide (bits a 57 7 = 0) && decide (bits a 0 3 = 0)
/-- The cause of an invalid target (R161, R444). -/
def targetCause (a : Word64) : Nat := if bits a 0 3 ≠ 0 then 3 else 4

/-- Each lane of E goes to its target and the other active lanes to PC + 8; invalid targets are a precise fault. -/
def goTo (e : Env) (es : List Nat) (target : Nat → Word64) (d : Delta) : WordOut :=
  let bad := es.filter fun t => !targetOk (target t)
  match bad with
  | [] => .retire e { d with pcs := some (es.map fun t => (t, target t)) }
  | t :: _ => .fault e (targetCause (target t)) (target t) (lanesMask bad) 0 {}

/-- PC + 8 × imm31 (R29). -/
def branchTarget (e : Env) (o : OpI) : Word64 := e.pc + 8 * immOf o

def execBra (o : OpI) (s : State) : Host.Outcome State Fault Refusal :=
  word o.rb s fun e => goTo e (e.exec o.ge o.gn o.gd) (fun _ => branchTarget e o) {}

/-- The condition of BRU (R159). -/
def bruTaken (o : OpI) (e : Env) : Bool :=
  let x := (e.us o.a).w
  if o.d = 0 then true else if o.d = 1 then x != 0 else x == 0
def execBru (o : OpI) (s : State) : Host.Outcome State Fault Refusal :=
  word o.rb s fun e =>
    let target := if bruTaken o e then branchTarget e o else e.pc + 8
    let ct := e.det && decide (o.d ≠ 0) && (e.us o.a).t
    goTo e e.active (fun _ => target) { lanes := e.active.map fun t => { lane := t, ct := ct } }

/-- BRX, and RET, which has its effect (R160). -/
def indirect (o : OpF) (s : State) : Host.Outcome State Fault Refusal :=
  word o.rb s fun e =>
    goTo e (e.setE o) (fun t => (e.v64 t o.a).w)
      { lanes := (e.setE o).map fun t => { lane := t, ct := e.det && (e.v64 t o.a).t } }
def execBrx (o : OpF) (s : State) := indirect o s
def execRet (o : OpF) (s : State) := indirect o s

def execCall (o : OpI) (s : State) : Host.Outcome State Fault Refusal :=
  word o.rb s fun e =>
    let es := e.exec o.ge o.gn o.gd
    goTo e es (fun _ => branchTarget e o) { lanes := es.map fun t => e.put64 t o.d { w := e.pc + 8 } }

/-- EXIT (R162): ILLEGAL in a handler (R442); else its check and the exits follow the deferred writes of the run. -/
def execExit (o : OpF) (s : State) : Host.Outcome State Fault Refusal :=
  word o.rb s fun e =>
    if e.g.level ≠ 0 then .fault e 1 0 e.r.active 0 {}
    else .retire e { pcs := some (e.active.map fun t => (t, e.pc)), exit := some (e.setE o) }

def execNop (o : OpF) (s : State) : Host.Outcome State Fault Refusal := word o.rb s fun e => .retire e {}
/-- PAUSE (R164): the last one of a run sets the count. -/
def execPause (o : OpF) (s : State) : Host.Outcome State Fault Refusal :=
  word o.rb s fun e => .retire e { pause := some (o.m.toNat + 1) }

/-! ### Hints (R48, R49) -/

/-- HREF: the group's refinement priority. -/
def execHref (o : OpF) (s : State) : Host.Outcome State Fault Refusal :=
  word o.rb s fun e => .retire e { ctl := [.prio (o.m.extractLsb' 0 2)] }
/-- The lines that HPF names: from that of S[A] on, up to the end of its 4 KiB page. -/
def hpfLines (o : OpF) (a : Word64) : List Word64 :=
  (List.range (min (o.c.toNat + 1) (64 - a.toNat % 4096 / 64))).map fun i => (a &&& ~~~63#64) + BitVec.ofNat 64 (64 * i)
/-- HPF moves lines between caches, which changes no value (R309, R310): the lines count against the budget, and the PC moves. -/
def execHpf (o : OpF) (s : State) : Host.Outcome State Fault Refusal :=
  word o.rb s fun e => .retire (e.prefetch (hpfLines o (e.us o.a).w)) {}
/-- HSCH: the scheduling mark; the value 3 is normal. -/
def execHsch (o : OpF) (s : State) : Host.Outcome State Fault Refusal :=
  word o.rb s fun e =>
    .retire e { ctl := [.mark (if o.low2 = 3 then 0 else o.m.extractLsb' 0 2)] }
/-- Every other hint does nothing (R25). -/
def execHintNop (o : OpH) (s : State) : Host.Outcome State Fault Refusal := word o.rb s fun e => .retire e {}

/-! ### The paired form (R36 to R39) -/

/-- The imm8 of a slot. -/
def slotImm (x : Slot) : Word32 := x.b.signExtend 32

/-- What a slot does in a lane: its full-form equivalent with RNE (R39). -/
def slotLane (x : Slot) (e : Env) (t : Nat) : LaneWrite :=
  let a := e.v32 t x.a
  let b := e.v32 t x.b
  let two (f : Word32 → Word32 → Word32) : LaneWrite := e.put32 t x.d { w := f a.w b.w, t := a.t || b.t }
  let imm (f : Word32 → Word32) : LaneWrite := e.put32 t x.d { w := f a.w, t := a.t }
  let fp (f : Nat → Nat → Nat × Flags) : LaneWrite := e.putF t x.d (f a.w.toNat b.w.toNat) (a.t || b.t)
  let cmp (c : Bool) : LaneWrite := e.pushP t false c (a.t || b.t)
  let fcmp (c : Nat) : LaneWrite := { e.pushP t false (condF c (u32 a.w.toNat) (u32 b.w.toNat)) (a.t || b.t) with
                                      raise := snanFlag [u32 a.w.toNat, u32 b.w.toNat] }
  match x.op.toNat with
  | 0x01 => two (· + ·)
  | 0x02 => two (· - ·)
  | 0x03 => two (· * ·)
  | 0x04 => two (minI true 32)
  | 0x05 => two (maxI true 32)
  | 0x06 => two (minI false 32)
  | 0x07 => two (maxI false 32)
  | 0x08 => two (· &&& ·)
  | 0x09 => two (· ||| ·)
  | 0x0A => two (· ^^^ ·)
  | 0x0B => two fun a b => a &&& ~~~b
  | 0x0C => two fun a b => shlOp 32 a b.toNat
  | 0x0D => two fun a b => shrOp 32 a b.toNat
  | 0x0E => two fun a b => sarOp 32 a b.toNat
  | 0x0F => imm id
  | 0x10 => imm (· + slotImm x)
  | 0x11 => e.put32 t x.d { w := slotImm x }
  | 0x12 => imm (· &&& slotImm x)
  | 0x13 => imm (· ||| slotImm x)
  | 0x14 => imm (· ^^^ slotImm x)
  | 0x15 => imm fun a => shlOp 32 a x.b.toNat
  | 0x16 => imm fun a => shrOp 32 a x.b.toNat
  | 0x17 => imm fun a => sarOp 32 a x.b.toNat
  | 0x20 => fp fun a b => fAdd f32 0 (u32 a) (u32 b)
  | 0x21 => fp fun a b => fAdd f32 0 (u32 a) (u32 b).neg
  | 0x22 => fp fun a b => fMul f32 0 (u32 a) (u32 b)
  | 0x23 => fp (fMinMax f32 false)
  | 0x24 => fp (fMinMax f32 true)
  | 0x28 => cmp (a.w == b.w)
  | 0x29 => cmp (a.w != b.w)
  | 0x2A => cmp (condI 2 true a.w b.w)
  | 0x2B => cmp (condI 3 true a.w b.w)
  | 0x2C => cmp (condI 2 false a.w b.w)
  | 0x2D => cmp (condI 3 false a.w b.w)
  | 0x2E => fcmp 2
  | 0x2F => fcmp 3
  | 0x30 => fcmp 0
  | _ => { lane := t }

/-- Both slots in one lane: both read before either writes; slot 0 pushes first (R37). -/
def pairLane (o : OpP) (e : Env) (t : Nat) : LaneWrite :=
  let x := slotLane o.s0 e t
  let y := slotLane o.s1 e t
  { lane := t, v := x.v ++ y.v, preds := x.preds ++ y.preds, raise := x.raise ||| y.raise, ct := x.ct || y.ct }

def execPairedWord (o : OpP) (s : State) : Host.Outcome State Fault Refusal :=
  word o.rb s fun e => .retire e { lanes := e.active.map (pairLane o e) }

end Sys2Proof.Machine
end

