-- ==== Sys2Proof/Decode.lean ====
section
/-!
DEFINITION. From the bits of a word to an instruction or a named refusal (R44 to R46), and back. Every word that R44 makes ILLEGAL
by its encoding alone is refused here; the checks that need the group (the 24th word, RB of a control transfer under
single-step, declared registers) are the step's. The encoder after it is written from the same layouts.
-/
namespace Sys2Proof

/-- Why a word is no instruction (R44, R45). Each is ILLEGAL at the word. -/
inductive DecodeError where
  /-- PF = 1 and R36 to R39 do not hold. -/
  | pairedInvalid
  /-- An opcode that the map does not assign, 0x000 and group 14 among them (R45). -/
  | unassigned
  /-- An opcode of the element subset, which no core executes (R47). -/
  | elementSubset
  /-- A reserved bit, a reserved code or a field outside its class (R29 to R35, R46). -/
  | reservedBits
  deriving DecidableEq, Repr

/-! ### Fields (R28, R29, R36) -/

def fieldsF (w : Word64) : OpF :=
  { rb := w.getLsbD 63, ge := w.getLsbD 51, gn := w.getLsbD 50, gd := w.extractLsb' 47 3,
    d := w.extractLsb' 39 8, a := w.extractLsb' 31 8, b := w.extractLsb' 23 8, c := w.extractLsb' 15 8,
    m := w.extractLsb' 0 15 }

def fieldsI (w : Word64) : OpI :=
  { rb := w.getLsbD 63, ge := w.getLsbD 51, gn := w.getLsbD 50, gd := w.extractLsb' 47 3,
    d := w.extractLsb' 39 8, a := w.extractLsb' 31 8, imm := w.extractLsb' 0 31 }

def fieldsW (w : Word64) : OpW :=
  { rb := w.getLsbD 63, ge := w.getLsbD 51, gn := w.getLsbD 50, gd := w.extractLsb' 47 3,
    d := w.extractLsb' 39 8, imm := w.extractLsb' 0 32 }

def fieldsP (w : Word64) : OpP :=
  { rb := w.getLsbD 63,
    s0 := { op := w.extractLsb' 55 7, d := w.extractLsb' 47 8, a := w.extractLsb' 39 8, b := w.extractLsb' 31 8 },
    s1 := { op := w.extractLsb' 24 7, d := w.extractLsb' 16 8, a := w.extractLsb' 8 8, b := w.extractLsb' 0 8 } }

def fieldsH (w : Word64) : OpH :=
  { rb := w.getLsbD 63, idx := w.extractLsb' 52 6, rest := w.extractLsb' 0 52 }

/-! ### The opcode map (R50) -/

/-- Layout-F opcodes of group 0 by index (R50). -/
def ctorF0 (o : OpF) : Nat → Option Instr
  | 0x01 => some (.add o)
  | 0x02 => some (.sub o)
  | 0x03 => some (.addc o)
  | 0x04 => some (.mul o)
  | 0x05 => some (.mulh o)
  | 0x06 => some (.mad o)
  | 0x07 => some (.madw o)
  | 0x08 => some (.div o)
  | 0x09 => some (.rem o)
  | 0x0A => some (.neg o)
  | 0x0B => some (.abs o)
  | 0x0C => some (.min o)
  | 0x0D => some (.max o)
  | 0x0E => some (.and o)
  | 0x0F => some (.or o)
  | 0x10 => some (.xor o)
  | 0x11 => some (.not o)
  | 0x12 => some (.andn o)
  | 0x13 => some (.shl o)
  | 0x14 => some (.shr o)
  | 0x15 => some (.sar o)
  | 0x16 => some (.rotl o)
  | 0x17 => some (.fshl o)
  | 0x18 => some (.popc o)
  | 0x19 => some (.clz o)
  | 0x1A => some (.ctz o)
  | 0x1B => some (.brev o)
  | 0x1C => some (.bfx o)
  | 0x1D => some (.bfi o)
  | 0x1E => some (.sel o)
  | 0x1F => some (.cmp o)
  | 0x20 => some (.mov o)
  | 0x22 => some (.lea o)
  | _ => none

/-- Layout-F opcodes of group 1 by index (R50). -/
def ctorF1 (o : OpF) : Nat → Option Instr
  | 0x00 => some (.uadd o)
  | 0x01 => some (.usub o)
  | 0x02 => some (.umul o)
  | 0x03 => some (.umulh o)
  | 0x04 => some (.uand o)
  | 0x05 => some (.uor o)
  | 0x06 => some (.uxor o)
  | 0x07 => some (.ushl o)
  | 0x08 => some (.ushr o)
  | 0x09 => some (.usar o)
  | 0x0A => some (.umin o)
  | 0x0B => some (.umax o)
  | 0x0C => some (.ucmp o)
  | 0x0D => some (.umov o)
  | 0x0F => some (.ulea o)
  | 0x10 => some (.udiv o)
  | 0x11 => some (.urdv o)
  | _ => none

/-- Layout-F opcodes of group 2 by index (R50). -/
def ctorF2 (o : OpF) : Nat → Option Instr
  | 0x00 => some (.fadd o)
  | 0x01 => some (.fsub o)
  | 0x02 => some (.fmul o)
  | 0x03 => some (.ffma o)
  | 0x04 => some (.fdiv o)
  | 0x05 => some (.fsqrt o)
  | 0x06 => some (.frcp o)
  | 0x07 => some (.frsq o)
  | 0x08 => some (.fexp2 o)
  | 0x09 => some (.flog2 o)
  | 0x0A => some (.fmin o)
  | 0x0B => some (.fmax o)
  | 0x0C => some (.fcmp o)
  | 0x0D => some (.fclass o)
  | 0x0E => some (.frnd o)
  | 0x0F => some (.fscl o)
  | 0x10 => some (.hadd2 o)
  | 0x11 => some (.hmul2 o)
  | 0x12 => some (.hfma2 o)
  | 0x13 => some (.fsel o)
  | _ => none

/-- Layout-F opcodes of group 3 by index (R50). -/
def ctorF3 (o : OpF) : Nat → Option Instr
  | 0x00 => some (.dadd o)
  | 0x01 => some (.dmul o)
  | 0x02 => some (.dfma o)
  | 0x03 => some (.ddiv o)
  | 0x04 => some (.dsqrt o)
  | 0x05 => some (.dcmp o)
  | 0x06 => some (.cvt o)
  | 0x07 => some (.pack o)
  | 0x08 => some (.unpack o)
  | 0x09 => some (.qblk o)
  | _ => none

/-- Layout-F opcodes of group 4 by index (R50). -/
def ctorF4 (o : OpF) : Nat → Option Instr
  | 0x00 => some (.xld o)
  | 0x01 => some (.xmovv o)
  | 0x02 => some (.xpin o)
  | 0x03 => some (.xmov o)
  | 0x04 => some (.xadd o)
  | 0x05 => some (.xsub o)
  | 0x06 => some (.xmul o)
  | 0x07 => some (.xfma o)
  | 0x08 => some (.xdiv o)
  | 0x09 => some (.xneg o)
  | 0x0A => some (.xabs o)
  | 0x0B => some (.xmin o)
  | 0x0C => some (.xmax o)
  | 0x0D => some (.xcmp o)
  | 0x0E => some (.xsgn o)
  | 0x0F => some (.xlo o)
  | 0x10 => some (.xhi o)
  | 0x11 => some (.xsever o)
  | 0x12 => some (.xref o)
  | 0x13 => some (.xst o)
  | 0x14 => some (.xstg o)
  | 0x15 => some (.xlogq o)
  | _ => none

/-- Layout-F opcodes of group 5 by index (R50). -/
def ctorF5 (o : OpF) : Nat → Option Instr
  | 0x00 => some (.pset o)
  | 0x01 => some (.pnot o)
  | 0x02 => some (.pand o)
  | 0x03 => some (.por o)
  | 0x04 => some (.pxor o)
  | 0x05 => some (.ppop o)
  | 0x06 => some (.pdup o)
  | 0x07 => some (.pmask o)
  | 0x0A => some (.brx o)
  | 0x0C => some (.ret o)
  | 0x0D => some (.exit o)
  | 0x0E => some (.nop o)
  | 0x0F => some (.pause o)
  | _ => none

/-- Layout-F opcodes of group 6 by index (R50). -/
def ctorF6 (o : OpF) : Nat → Option Instr
  | 0x00 => some (.shfl o)
  | 0x01 => some (.vote o)
  | 0x02 => some (.ballot o)
  | 0x03 => some (.matchLanes o)
  | 0x04 => some (.compact o)
  | 0x05 => some (.redux o)
  | 0x06 => some (.scan o)
  | 0x07 => some (.elect o)
  | 0x08 => some (.isect o)
  | 0x09 => some (.merge o)
  | _ => none

/-- Layout-F opcodes of group 7 by index (R50). -/
def ctorF7 (o : OpF) : Nat → Option Instr
  | 0x00 => some (.ld o)
  | 0x01 => some (.st o)
  | 0x02 => some (.ldu o)
  | 0x03 => some (.stu o)
  | 0x04 => some (.pref o)
  | 0x05 => some (.taint o)
  | _ => none

/-- Layout-F opcodes of group 8 by index (R50). -/
def ctorF8 (o : OpF) : Nat → Option Instr
  | 0x00 => some (.atom o)
  | 0x01 => some (.red o)
  | 0x02 => some (.atomu o)
  | _ => none

/-- Layout-F opcodes of group 9 by index (R50). -/
def ctorF9 (o : OpF) : Nat → Option Instr
  | 0x00 => some (.phase o)
  | 0x01 => some (.fence o)
  | 0x02 => some (.cfence o)
  | 0x03 => some (.bar o)
  | 0x04 => some (.ordw o)
  | 0x05 => some (.ordd o)
  | 0x06 => some (.cntwait o)
  | 0x07 => some (.tfence o)
  | _ => none

/-- Layout-F opcodes of group 10 by index (R50). -/
def ctorF10 (o : OpF) : Nat → Option Instr
  | 0x00 => some (.copy o)
  | 0x01 => some (.gather o)
  | 0x02 => some (.coll o)
  | 0x03 => some (.launch o)
  | 0x04 => some (.ftest o)
  | 0x05 => some (.fwait o)
  | 0x06 => some (.fcancel o)
  | 0x07 => some (.fmov o)
  | 0x08 => some (.fstat o)
  | _ => none

/-- Layout-F opcodes of group 11 by index (R50). -/
def ctorF11 (o : OpF) : Nat → Option Instr
  | 0x00 => some (.bfacq o)
  | 0x01 => some (.bfrel o)
  | 0x02 => some (.osclaim o)
  | 0x03 => some (.osrel o)
  | 0x04 => some (.osfill o)
  | 0x05 => some (.ossave o)
  | 0x06 => some (.bstset o)
  | 0x07 => some (.bfstage o)
  | 0x08 => some (.bfchain o)
  | 0x09 => some (.bfzero o)
  | 0x0A => some (.bfdrain o)
  | 0x0B => some (.bfscale o)
  | 0x0C => some (.gangset o)
  | _ => none

/-- Layout-F opcodes of group 12 by index (R50). -/
def ctorF12 (o : OpF) : Nat → Option Instr
  | 0x00 => some (.swbind o)
  | 0x01 => some (.swrun o)
  | 0x02 => some (.swwake o)
  | 0x03 => some (.swpoke o)
  | 0x04 => some (.swstat o)
  | _ => none

/-- Layout-F opcodes of group 13 by index (R50). -/
def ctorF13 (o : OpF) : Nat → Option Instr
  | 0x00 => some (.trap o)
  | 0x01 => some (.tret o)
  | 0x02 => some (.csrr o)
  | 0x03 => some (.csrw o)
  | 0x04 => some (.kill o)
  | 0x05 => some (.flagr o)
  | 0x06 => some (.clock o)
  | 0x07 => some (.brkpt o)
  | 0x08 => some (.digest o)
  | 0x09 => some (.tlbq o)
  | _ => none

/-- Layout-F opcodes of group 15 by index (R50). -/
def ctorF15 (o : OpF) : Nat → Option Instr
  | 0x00 => some (.href o)
  | 0x01 => some (.hpf o)
  | 0x02 => some (.hsch o)
  | _ => none

/-- The layout-F instruction of an opcode: its group and its index (R28, R50). -/
def ctorF (o : OpF) (group idx : Nat) : Option Instr :=
  match group with
  | 0 => ctorF0 o idx
  | 1 => ctorF1 o idx
  | 2 => ctorF2 o idx
  | 3 => ctorF3 o idx
  | 4 => ctorF4 o idx
  | 5 => ctorF5 o idx
  | 6 => ctorF6 o idx
  | 7 => ctorF7 o idx
  | 8 => ctorF8 o idx
  | 9 => ctorF9 o idx
  | 10 => ctorF10 o idx
  | 11 => ctorF11 o idx
  | 12 => ctorF12 o idx
  | 13 => ctorF13 o idx
  | 15 => ctorF15 o idx
  | _ => none

/-- The layout-I instruction of an opcode (R29, R50). -/
def ctorI (o : OpI) : Nat → Option Instr
  | 0x030 => some (.addImm o)
  | 0x031 => some (.mulImm o)
  | 0x032 => some (.andImm o)
  | 0x033 => some (.orImm o)
  | 0x034 => some (.xorImm o)
  | 0x035 => some (.shlImm o)
  | 0x036 => some (.shrImm o)
  | 0x037 => some (.sarImm o)
  | 0x038 => some (.rotlImm o)
  | 0x070 => some (.uaddImm o)
  | 0x071 => some (.umulImm o)
  | 0x072 => some (.uandImm o)
  | 0x073 => some (.uorImm o)
  | 0x074 => some (.uxorImm o)
  | 0x075 => some (.ushlImm o)
  | 0x076 => some (.ushrImm o)
  | 0x077 => some (.usarImm o)
  | 0x148 => some (.bra o)
  | 0x149 => some (.bru o)
  | 0x14B => some (.call o)
  | _ => none

/-- The layout-W instruction of an opcode (R29, R50). -/
def ctorW (o : OpW) : Nat → Option Instr
  | 0x021 => some (.movw o)
  | 0x04E => some (.umovw o)
  | _ => none

/-- The opcodes of the element subset (R47). -/
def elementOpcode (op : Nat) : Bool := decide (0x305 ≤ op) && decide (op ≤ 0x309)

/-- The assigned instruction of a full-form word, before its fields are checked. -/
def fullForm (w : Word64) : Option Instr :=
  let op := (w.extractLsb' 52 10).toNat
  (ctorF (fieldsF w) (op / 64) (op % 64)).or ((ctorI (fieldsI w) op).or
    (if w.extractLsb' 32 7 = 0#7 then ctorW (fieldsW w) op else none))

/-- The hint of an opcode of group 15: every value of its fields is a hint (R25, R44, R48). -/
def hintForm (w : Word64) : Instr :=
  match (w.extractLsb' 52 6).toNat with
  | 0 => .href (fieldsF w)
  | 1 => .hpf (fieldsF w)
  | 2 => .hsch (fieldsF w)
  | _ => .hintNop (fieldsH w)

/-- Bits 38:32 of a layout-W word are nonzero (R29). -/
def wideReserved (w : Word64) : Bool :=
  (ctorW (fieldsW w) (w.extractLsb' 52 10).toNat).isSome && decide (w.extractLsb' 32 7 ≠ 0#7)

/-- The decoder: total on every word (R44). -/
def decode (w : Word64) : Except DecodeError Instr :=
  if w.getLsbD 62 then
    if pairedOk (fieldsP w) then .ok (.pairedWord (fieldsP w)) else .error .pairedInvalid
  else
    let op := (w.extractLsb' 52 10).toNat
    if op / 64 = 15 then .ok (hintForm w)
    else if elementOpcode op then .error .elementSubset
    else if wideReserved w then .error .reservedBits
    else match fullForm w with
      | none => .error .unassigned
      | some i => if fieldsOk i then .ok i else .error .reservedBits

/-! ### The encoder -/

/-- The opcode of a full-form instruction (R50); the paired word and the events have none. -/
def opcodeOf : Instr → Nat
  | .add _ => 0x001
  | .sub _ => 0x002
  | .addc _ => 0x003
  | .mul _ => 0x004
  | .mulh _ => 0x005
  | .mad _ => 0x006
  | .madw _ => 0x007
  | .div _ => 0x008
  | .rem _ => 0x009
  | .neg _ => 0x00A
  | .abs _ => 0x00B
  | .min _ => 0x00C
  | .max _ => 0x00D
  | .and _ => 0x00E
  | .or _ => 0x00F
  | .xor _ => 0x010
  | .not _ => 0x011
  | .andn _ => 0x012
  | .shl _ => 0x013
  | .shr _ => 0x014
  | .sar _ => 0x015
  | .rotl _ => 0x016
  | .fshl _ => 0x017
  | .popc _ => 0x018
  | .clz _ => 0x019
  | .ctz _ => 0x01A
  | .brev _ => 0x01B
  | .bfx _ => 0x01C
  | .bfi _ => 0x01D
  | .sel _ => 0x01E
  | .cmp _ => 0x01F
  | .mov _ => 0x020
  | .movw _ => 0x021
  | .lea _ => 0x022
  | .addImm _ => 0x030
  | .mulImm _ => 0x031
  | .andImm _ => 0x032
  | .orImm _ => 0x033
  | .xorImm _ => 0x034
  | .shlImm _ => 0x035
  | .shrImm _ => 0x036
  | .sarImm _ => 0x037
  | .rotlImm _ => 0x038
  | .uadd _ => 0x040
  | .usub _ => 0x041
  | .umul _ => 0x042
  | .umulh _ => 0x043
  | .uand _ => 0x044
  | .uor _ => 0x045
  | .uxor _ => 0x046
  | .ushl _ => 0x047
  | .ushr _ => 0x048
  | .usar _ => 0x049
  | .umin _ => 0x04A
  | .umax _ => 0x04B
  | .ucmp _ => 0x04C
  | .umov _ => 0x04D
  | .umovw _ => 0x04E
  | .ulea _ => 0x04F
  | .udiv _ => 0x050
  | .urdv _ => 0x051
  | .uaddImm _ => 0x070
  | .umulImm _ => 0x071
  | .uandImm _ => 0x072
  | .uorImm _ => 0x073
  | .uxorImm _ => 0x074
  | .ushlImm _ => 0x075
  | .ushrImm _ => 0x076
  | .usarImm _ => 0x077
  | .fadd _ => 0x080
  | .fsub _ => 0x081
  | .fmul _ => 0x082
  | .ffma _ => 0x083
  | .fdiv _ => 0x084
  | .fsqrt _ => 0x085
  | .frcp _ => 0x086
  | .frsq _ => 0x087
  | .fexp2 _ => 0x088
  | .flog2 _ => 0x089
  | .fmin _ => 0x08A
  | .fmax _ => 0x08B
  | .fcmp _ => 0x08C
  | .fclass _ => 0x08D
  | .frnd _ => 0x08E
  | .fscl _ => 0x08F
  | .hadd2 _ => 0x090
  | .hmul2 _ => 0x091
  | .hfma2 _ => 0x092
  | .fsel _ => 0x093
  | .dadd _ => 0x0C0
  | .dmul _ => 0x0C1
  | .dfma _ => 0x0C2
  | .ddiv _ => 0x0C3
  | .dsqrt _ => 0x0C4
  | .dcmp _ => 0x0C5
  | .cvt _ => 0x0C6
  | .pack _ => 0x0C7
  | .unpack _ => 0x0C8
  | .qblk _ => 0x0C9
  | .xld _ => 0x100
  | .xmovv _ => 0x101
  | .xpin _ => 0x102
  | .xmov _ => 0x103
  | .xadd _ => 0x104
  | .xsub _ => 0x105
  | .xmul _ => 0x106
  | .xfma _ => 0x107
  | .xdiv _ => 0x108
  | .xneg _ => 0x109
  | .xabs _ => 0x10A
  | .xmin _ => 0x10B
  | .xmax _ => 0x10C
  | .xcmp _ => 0x10D
  | .xsgn _ => 0x10E
  | .xlo _ => 0x10F
  | .xhi _ => 0x110
  | .xsever _ => 0x111
  | .xref _ => 0x112
  | .xst _ => 0x113
  | .xstg _ => 0x114
  | .xlogq _ => 0x115
  | .pset _ => 0x140
  | .pnot _ => 0x141
  | .pand _ => 0x142
  | .por _ => 0x143
  | .pxor _ => 0x144
  | .ppop _ => 0x145
  | .pdup _ => 0x146
  | .pmask _ => 0x147
  | .bra _ => 0x148
  | .bru _ => 0x149
  | .brx _ => 0x14A
  | .call _ => 0x14B
  | .ret _ => 0x14C
  | .exit _ => 0x14D
  | .nop _ => 0x14E
  | .pause _ => 0x14F
  | .shfl _ => 0x180
  | .vote _ => 0x181
  | .ballot _ => 0x182
  | .matchLanes _ => 0x183
  | .compact _ => 0x184
  | .redux _ => 0x185
  | .scan _ => 0x186
  | .elect _ => 0x187
  | .isect _ => 0x188
  | .merge _ => 0x189
  | .ld _ => 0x1C0
  | .st _ => 0x1C1
  | .ldu _ => 0x1C2
  | .stu _ => 0x1C3
  | .pref _ => 0x1C4
  | .taint _ => 0x1C5
  | .atom _ => 0x200
  | .red _ => 0x201
  | .atomu _ => 0x202
  | .phase _ => 0x240
  | .fence _ => 0x241
  | .cfence _ => 0x242
  | .bar _ => 0x243
  | .ordw _ => 0x244
  | .ordd _ => 0x245
  | .cntwait _ => 0x246
  | .tfence _ => 0x247
  | .copy _ => 0x280
  | .gather _ => 0x281
  | .coll _ => 0x282
  | .launch _ => 0x283
  | .ftest _ => 0x284
  | .fwait _ => 0x285
  | .fcancel _ => 0x286
  | .fmov _ => 0x287
  | .fstat _ => 0x288
  | .bfacq _ => 0x2C0
  | .bfrel _ => 0x2C1
  | .osclaim _ => 0x2C2
  | .osrel _ => 0x2C3
  | .osfill _ => 0x2C4
  | .ossave _ => 0x2C5
  | .bstset _ => 0x2C6
  | .bfstage _ => 0x2C7
  | .bfchain _ => 0x2C8
  | .bfzero _ => 0x2C9
  | .bfdrain _ => 0x2CA
  | .bfscale _ => 0x2CB
  | .gangset _ => 0x2CC
  | .swbind _ => 0x300
  | .swrun _ => 0x301
  | .swwake _ => 0x302
  | .swpoke _ => 0x303
  | .swstat _ => 0x304
  | .trap _ => 0x340
  | .tret _ => 0x341
  | .csrr _ => 0x342
  | .csrw _ => 0x343
  | .kill _ => 0x344
  | .flagr _ => 0x345
  | .clock _ => 0x346
  | .brkpt _ => 0x347
  | .digest _ => 0x348
  | .tlbq _ => 0x349
  | .href _ => 0x3C0
  | .hpf _ => 0x3C1
  | .hsch _ => 0x3C2
  | .hintNop o => 0x3C0 + o.idx.toNat
  | .pairedWord _ => 0
  | .issueSlotSelect .. | .groupPromotion .. | .pauseExpiry .. | .regLineFill .. | .regLineWriteback .. | .runCommit ..
  | .deferredWrite .. | .teamScratchRelease .. | .detUpdateHold .. | .atomicPerform .. | .viewAdvance .. | .linePresent ..
  | .windowAccessArrive .. | .cntwaitRecheck .. | .pageWalk .. | .zbRecheck .. | .pageZeroed .. | .referralDecide ..
  | .copyLineWrite .. | .copyComplete .. | .gatherComplete .. | .collComplete .. | .collAbort .. | .launchEnqueue ..
  | .bfCommandPerform .. | .bfStagePass .. | .swrunStart .. | .sweep .. | .headExamine .. | .depCounterRecheck ..
  | .gridStart .. | .teamPlace .. | .placementTimeout .. | .swapTrigger .. | .teamSwapOut .. | .teamResume .. | .killComplete ..
  | .qwriteWrite .. | .qctlDisable .. | .qctlEnable .. | .qctlReconfigure .. | .qbaseWrite .. | .ctxsync .. | .syncDone ..
  | .invalRange .. | .invalAsid .. | .invalAll .. | .invalidationDone .. | .replay .. | .gridkill .. | .attreq ..
  | .attestationDone .. | .fwctlVerify .. | .fwctlRestart .. | .verifyDone .. | .firmwareWindowWrite .. | .registerWrite ..
  | .hostMemoryWrite .. | .hostMemoryRead .. | .vfApertureAccess .. | .atsInvalidation .. | .hostLinkDown .. | .peerAccess ..
  | .portLoss .. | .powerOn .. | .budgetPeriodStart .. | .throttleStep .. | .thermalTrip .. | .softErrorCorrected ..
  | .uncorrectableError .. | .dieError .. | .hostLinkUp .. | .vernalLinkPortUp .. | .bfTransferComplete .. => 0

def encodeF (op : Nat) (o : OpF) : Word64 :=
  BitVec.ofBool o.rb ++ 0#1 ++ BitVec.ofNat 10 op ++ BitVec.ofBool o.ge ++ BitVec.ofBool o.gn ++ o.gd ++
    o.d ++ o.a ++ o.b ++ o.c ++ o.m

def encodeI (op : Nat) (o : OpI) : Word64 :=
  BitVec.ofBool o.rb ++ 0#1 ++ BitVec.ofNat 10 op ++ BitVec.ofBool o.ge ++ BitVec.ofBool o.gn ++ o.gd ++
    o.d ++ o.a ++ o.imm

def encodeW (op : Nat) (o : OpW) : Word64 :=
  BitVec.ofBool o.rb ++ 0#1 ++ BitVec.ofNat 10 op ++ BitVec.ofBool o.ge ++ BitVec.ofBool o.gn ++ o.gd ++
    o.d ++ 0#7 ++ o.imm

def encodeP (o : OpP) : Word64 :=
  BitVec.ofBool o.rb ++ 1#1 ++ o.s0.op ++ o.s0.d ++ o.s0.a ++ o.s0.b ++ o.s1.op ++ o.s1.d ++ o.s1.a ++ o.s1.b

def encodeH (o : OpH) : Word64 :=
  BitVec.ofBool o.rb ++ 0#1 ++ 15#4 ++ o.idx ++ o.rest

/-- The word of a well-formed instruction (R28, R29, R36, R48); none for an event. -/
def encode (i : Instr) : Option Word64 :=
  match payload i with
  | .f o => some (encodeF (opcodeOf i) o)
  | .i o => some (encodeI (opcodeOf i) o)
  | .w o => some (encodeW (opcodeOf i) o)
  | .p o => some (encodeP o)
  | .h o => some (encodeH o)
  | .event => none

/-! ### Words as bytes (R2, R27) -/

/-- The `n` bytes of a value, lowest address first. -/
def bytesOf (v : Nat) : Nat → List Byte
  | 0 => []
  | n + 1 => BitVec.ofNat 8 v :: bytesOf (v / 256) n

/-- The value of bytes, lowest address first. -/
def natOfBytes : List Byte → Nat
  | [] => 0
  | b :: rest => b.toNat + 256 * natOfBytes rest

/-- The decoder on the bytes of memory: eight make a word (R27). -/
def decodeBytes (bs : List Byte) : Option Instr :=
  if bs.length = 8 then
    match decode (BitVec.ofNat 64 (natOfBytes bs)) with
    | .ok i => some i
    | .error _ => none
  else none

/-- The instruction whose bits are `w`, numbered from the least significant bit of its one 64-bit word. -/
def decodeTableWord (nbits w : Nat) : Option Instr :=
  if nbits ≤ 64 ∧ w < 2 ^ 64 then decodeBytes (bytesOf w 8) else none

end Sys2Proof
end

