-- ==== Sys2Proof/Machine/Exact.lean ====
section
/-!
DEFINITION. Exact numbers, intervals over them, and the stages of the refinement engine (10_interval_filters.md R249, R257, R261):
every operation is exact on the bounds, and rounded outward once.
-/
namespace Sys2Proof.Machine
open Sys2Proof

/-! ### Exact numbers -/

/-- The number `num / den · 2^e`; `den` is positive. -/
structure Exact where
  num : Int
  den : Nat
  e   : Int
  deriving DecidableEq, Repr, Inhabited

def Exact.zero : Exact := { num := 0, den := 1, e := 0 }
/-- The numerators of two numbers over one denominator and one power of two. -/
def Exact.align (a b : Exact) : Int × Int × Nat × Int :=
  let e := min a.e b.e
  (a.num * (2 ^ (a.e - e).toNat : Nat) * b.den, b.num * (2 ^ (b.e - e).toNat : Nat) * a.den, a.den * b.den, e)
def Exact.add (a b : Exact) : Exact :=
  let (x, y, d, e) := a.align b
  { num := x + y, den := d, e := e }
def Exact.mul (a b : Exact) : Exact := { num := a.num * b.num, den := a.den * b.den, e := a.e + b.e }
def Exact.neg (a : Exact) : Exact := { a with num := -a.num }
/-- The reciprocal of a number that is not zero. -/
def Exact.recip (a : Exact) : Exact :=
  { num := if a.num < 0 then -(a.den : Int) else a.den, den := a.num.natAbs, e := -a.e }
def Exact.lt (a b : Exact) : Bool :=
  let (x, y, _, _) := a.align b
  decide (x < y)

/-- The floor of log2 of a positive quotient. -/
def quotLog (n d : Nat) : Int :=
  let l : Int := (n.log2 : Int) - d.log2
  if (if 0 ≤ l then decide (n < d <<< l.toNat) else decide (n <<< (-l).toNat < d)) then l - 1 else l

/-- A number rounded to `p` significant bits, with an unbounded exponent: down, or up. -/
def Exact.round (p : Nat) (up : Bool) (a : Exact) : Exact :=
  let n := a.num.natAbs
  if n = 0 then Exact.zero else
  let sh : Int := (p : Int) - 1 - quotLog n a.den
  let x := if 0 ≤ sh then n <<< sh.toNat else n
  let y := if 0 ≤ sh then a.den else a.den <<< (-sh).toNat
  let neg := decide (a.num < 0)
  let q := x / y + (if up != neg && decide (x % y ≠ 0) then 1 else 0)
  { num := if neg then -(q : Int) else q, den := 1, e := a.e - sh }

/-- A number as a fraction in lowest terms. -/
def Exact.reduce (a : Exact) : Exact :=
  let n := if 0 ≤ a.e then a.num * (2 ^ a.e.toNat : Nat) else a.num
  let d := if 0 ≤ a.e then a.den else a.den * 2 ^ (-a.e).toNat
  let g := Nat.gcd n.natAbs d
  { num := n / (g : Int), den := d / g, e := 0 }

/-- A number rounded to binary32, down or up, with no flag (R257). -/
def Exact.bits32 (up : Bool) (a : Exact) : Word32 :=
  let r := a.round 64 up
  BitVec.ofNat 32 (roundTo f32 (if up then 3 else 2) (decide (r.num < 0)) r.num.natAbs r.e false).1

/-! ### Extended numbers and intervals -/

/-- An end of an interval: unbounded below, a number, unbounded above. -/
inductive End where
  | ninf | num (q : Exact) | pinf
  deriving DecidableEq, Repr, Inhabited

def endOf : FVal → End
  | .inf n => if n then .ninf else .pinf
  | .fin n m e => .num { num := if n then -(m : Int) else m, den := 1, e := e }
  | .nan _ => .num Exact.zero
def End.isZero : End → Bool
  | .num q => q.num == 0
  | _ => false
def End.lt : End → End → Bool
  | .ninf, .ninf => false
  | .ninf, _ => true
  | .num a, .num b => a.lt b
  | .num _, .pinf => true
  | _, _ => false
def End.min (a b : End) : End := if b.lt a then b else a
def End.max (a b : End) : End := if a.lt b then b else a
def End.neg : End → End
  | .ninf => .pinf
  | .num q => .num q.neg
  | .pinf => .ninf
/-- The sum of two lower ends, or of two upper ends. -/
def End.add : End → End → End
  | .num a, .num b => .num (a.add b)
  | .num _, y => y
  | x, _ => x
def End.negative (a : End) : Bool := a.lt (.num Exact.zero)
/-- The product of two ends; zero times an unbounded end is zero, since the values are finite. -/
def End.mul (a b : End) : End :=
  match a, b with
  | .num x, .num y => .num (x.mul y)
  | _, _ => if a.isZero || b.isZero then .num Exact.zero else if a.negative == b.negative then .pinf else .ninf
/-- The reciprocal of an end of an interval without zero. -/
def End.recip : End → End
  | .num q => .num q.recip
  | _ => .num Exact.zero

/-- An interval. -/
structure Iv where
  lo : End
  hi : End
  deriving DecidableEq, Repr, Inhabited

def Iv.all : Iv := { lo := .ninf, hi := .pinf }
def Iv.point (x : End) : Iv := { lo := x, hi := x }
def Iv.holdsZero (a : Iv) : Bool := !(End.num Exact.zero).lt a.lo && !a.hi.lt (.num Exact.zero)
def Iv.isZero (a : Iv) : Bool := a.lo.isZero && a.hi.isZero
def Iv.neg (a : Iv) : Iv := { lo := a.hi.neg, hi := a.lo.neg }
def Iv.add (a b : Iv) : Iv := { lo := a.lo.add b.lo, hi := a.hi.add b.hi }
def Iv.mul (a b : Iv) : Iv :=
  let p := a.lo.mul b.lo
  let q := a.lo.mul b.hi
  let r := a.hi.mul b.lo
  let t := a.hi.mul b.hi
  { lo := (p.min q).min (r.min t), hi := (p.max q).max (r.max t) }
def Iv.abs (a : Iv) : Iv :=
  if !a.lo.negative then a
  else if !(End.num Exact.zero).lt a.hi then a.neg
  else { lo := .num Exact.zero, hi := a.lo.neg.max a.hi }

/-- The codes of R249. -/
def opADD : Nat := 1
def opSUB : Nat := 2
def opMUL : Nat := 3
def opFMA : Nat := 4
def opDIV : Nat := 5
def opNEG : Nat := 6
def opABS : Nat := 7
def opMIN : Nat := 8
def opMAX : Nat := 9
def opLEAF : Nat := 10

/-- The exact interval of an operation over the intervals of its operands (R257); none where a divisor holds 0. -/
def Iv.op (op : Nat) (a b c : Iv) : Option Iv :=
  match op with
  | 1 => some (a.add b)
  | 2 => some (a.add b.neg)
  | 3 => some (a.mul b)
  | 4 => some ((a.mul b).add c)
  | 5 => if b.holdsZero then none else some (a.mul { lo := b.hi.recip, hi := b.lo.recip })
  | 6 => some a.neg
  | 7 => some a.abs
  | 8 => some { lo := a.lo.min b.lo, hi := a.hi.min b.hi }
  | 9 => some { lo := a.lo.max b.lo, hi := a.hi.max b.hi }
  | _ => some Iv.all

/-- An end as a binary32 bound. -/
def End.bits32 (up : Bool) : End → Word32
  | .ninf => 0xFF800000
  | .pinf => 0x7F800000
  | .num q => q.bits32 up

/-- The sign that an interval decides (R259). -/
def Iv.sign (a : Iv) : Option Int :=
  if (End.num Exact.zero).lt a.lo then some 1
  else if a.hi.negative then some (-1)
  else if a.isZero then some 0 else none

/-! ### The stages (R261) -/

/-- How a stage stops without an interval: an exact zero divisor at a node, or a limit. -/
inductive StageStop where
  | zero (node : Nat)
  | limit
  deriving DecidableEq, Repr, Inhabited

/-- The significand of a stage; none is exact. -/
def stageBits (k : Nat) : Option Nat :=
  match k with
  | 1 => some 48
  | 2 => some 96
  | 3 => some 192
  | _ => none

/-- An end rounded outward in a stage; at stage 4 in lowest terms, within 16,384 bits. R261 does not say on which numbers the limit is tested:
the model tests the reduced ends of each node's result, and none inside a node, such as the product of an FMA. DESIGN CHOICE (log 97). -/
def roundEnd (p : Option Nat) (up : Bool) : End → Except StageStop End
  | .num q =>
    match p with
    | some p => .ok (.num (q.round p up))
    | none =>
      let r := q.reduce
      if r.num.natAbs < 2 ^ 16384 ∧ r.den < 2 ^ 16384 then .ok (.num r) else .error .limit
  | x => .ok x
def roundIv (p : Option Nat) (a : Iv) : Except StageStop Iv :=
  (roundEnd p false a.lo).bind fun lo => (roundEnd p true a.hi).map fun hi => { lo := lo, hi := hi }

/-- A node of 16 bytes (R249). -/
abbrev Node := BitVec 128
def nodeOp (n : Node) : Nat := n.toNat / 2 ^ 26 % 64
def nodeInl (n : Node) (k : Nat) : Bool := n.getLsbD (22 + k)
def nodeCnt (n : Node) : Nat := n.toNat / 2 ^ 10 % 2 ^ 13
def nodeInvalid (n : Node) : Bool := n.getLsbD 1
/-- Operand word `k`, 1 to 3. -/
def nodeWord (n : Node) (k : Nat) : Word32 := n.extractLsb' (32 * k) 32
/-- Operand words of an operation. -/
def opArity (op : Nat) : Nat := if op = opFMA then 3 else if op = opNEG ∨ op = opABS then 1 else if op = opLEAF ∨ op = 0 then 0 else 2
/-- The nodes that a node names, in word order (R254). -/
def nodeRefs (n : Node) : List Nat :=
  ([1, 2, 3].filter fun k => decide (k ≤ opArity (nodeOp n)) && !nodeInl n k).map fun k => (nodeWord n k).toNat
def end32 (w : Word32) : End := endOf (unpackF f32 w.toNat)

/-- The interval of a node whose operands are known (R261). -/
def evalOne (p : Option Nat) (i : Nat) (n : Node) (memo : Table Iv) : Except StageStop Iv :=
  let arg (k : Nat) : Iv :=
    if nodeInl n k then Iv.point (end32 (nodeWord n k)) else Table.get Iv.all memo (nodeWord n k).toNat
  if nodeOp n = opLEAF then .ok { lo := end32 (nodeWord n 1), hi := end32 (nodeWord n 2) }
  else
    match Iv.op (nodeOp n) (arg 1) (arg 2) (arg 3) with
    | some r => roundIv p r
    | none => if p.isNone && (arg 2).isZero then .error (.zero i) else .ok Iv.all

/-- The graph below a node, operands first, each node once; the fuel bounds its depth. Where several nodes of a graph stop a stage, by an exact
zero divisor or a value past its limit, the one met first gives the outcome and the INVALID mark: depth first, operands in word order, and
A before B in `evalStage`. The spec fixes no order among them (R261, R262): DESIGN CHOICE (log 80). -/
def evalNode (p : Option Nat) (nodes : Table Node) : Nat → Table Iv → Nat → Except StageStop (Table Iv)
  | 0, memo, _ => .ok memo
  | fuel + 1, memo, i =>
    if memo.any fun x => x.1 == i then .ok memo
    else
      let n := Table.get 0 nodes i
      ((nodeRefs n).foldlM (fun m j => evalNode p nodes fuel m j) memo).bind fun memo =>
      (evalOne p i n memo).map fun r => Table.put memo i r

/-- The interval of an operand: a value or a node. -/
def evalArg (p : Option Nat) (nodes : Table Node) (x : Word32 ⊕ Nat) : Except StageStop Iv :=
  match x with
  | .inl w => .ok (Iv.point (end32 w))
  | .inr i => (evalNode p nodes (nodes.length + 1) [] i).map fun m => Table.get Iv.all m i

/-- d = A − B, or A alone, at a stage. -/
def evalStage (k : Nat) (nodes : Table Node) (a : Word32 ⊕ Nat) (b : Option (Word32 ⊕ Nat)) : Except StageStop Iv :=
  (evalArg (stageBits k) nodes a).bind fun x =>
    match b with
    | none => .ok x
    | some b => (evalArg (stageBits k) nodes b).bind fun y => roundIv (stageBits k) (x.add y.neg)

/-- The outcome of a decision: a sign with the stage that found it, or the cause of R263. -/
inductive Decision where
  | decided (stage : Nat) (sign : Int)
  | undecided (cause : Nat)
  deriving DecidableEq, Repr, Inhabited

/-- The stages in turn (R261), with the node to be marked INVALID. -/
def decideFrom (nodes : Table Node) (a : Word32 ⊕ Nat) (b : Option (Word32 ⊕ Nat)) : List Nat → Decision × Option Nat
  | [] => (.undecided 1, none)
  | k :: rest =>
    match evalStage k nodes a b with
    | .error (.zero i) => (.undecided 3, some i)
    | .error .limit => (.undecided 2, none)
    | .ok d =>
      match d.sign with
      | some x => (.decided k x, none)
      | none => decideFrom nodes a b rest
def decideStages (nodes : Table Node) (a : Word32 ⊕ Nat) (b : Option (Word32 ⊕ Nat)) : Decision × Option Nat :=
  decideFrom nodes a b [1, 2, 3, 4]

/-- The decision code (R263). -/
def Decision.code : Decision → Nat
  | .decided k _ => k
  | .undecided c => c * 16 + 7
/-- The sign as a word; 0 where undecided. -/
def Decision.word : Decision → Word64
  | .decided _ x => (BitVec.ofInt 32 x).zeroExtend 64
  | .undecided _ => 0

end Sys2Proof.Machine
end

