-- ==== Sys2Proof/Machine/Log.lean ====
section
/-!
DEFINITION. The team's expression log: its nodes, its free lists, the spill segment, and how words of a run that is taken back leave it
(10_interval_filters.md R249 to R256, 18_traps_and_preemption.md R440).
-/
namespace Sys2Proof.Machine
open Sys2Proof

/-! ### Nodes and the log (R249 to R254) -/

def pointH : Word32 := 0x80000000
def nan32 : Word32 := 0x7FC00000
def XCell.isPoint (c : XCell) : Bool := c.h.getLsbD 31
/-- The end of a free list. -/
def noNode : Nat := 0x7FFFFFFF
/-- Usable spill capacity (R250). -/
def spillCap (p : Packet) : Nat := min (pkLogSpill p) (noNode - pkLogScr p)

/-- A node with a count (R249). -/
def mkNode (op inl cnt : Nat) (spilled : Bool) (w1 w2 w3 : Word32) : Node :=
  BitVec.ofNat 128 (op * 2 ^ 26 + inl * 2 ^ 23 + cnt * 2 ^ 10 + (if spilled then 4 else 0) + (if op = opLEAF then 1 else 0) +
    w1.toNat * 2 ^ 32 + w2.toNat * 2 ^ 64 + w3.toNat * 2 ^ 96)
def setCnt (n : Node) (c : Nat) : Node := (n &&& ~~~(0x7FFC00#128)) ||| BitVec.ofNat 128 (c * 2 ^ 10)

def ExprLog.node (l : ExprLog) (i : Nat) : Node := Table.get 0 l.nodes i
def ExprLog.put (l : ExprLog) (i : Nat) (n : Node) : ExprLog := { l with nodes := Table.set 0 l.nodes i n }

/-- One node is taken (R252): none where no source can supply it. -/
def ExprLog.take (scr cap : Nat) (l : ExprLog) : Option (Nat × ExprLog) :=
  if l.scrHead ≠ noNode then
    some (l.scrHead, { l with scrHead := (nodeWord (l.node l.scrHead) 1).toNat, scrUsed := l.scrUsed + 1 })
  else if l.scrBump < scr then some (l.scrBump, { l with scrBump := l.scrBump + 1, scrUsed := l.scrUsed + 1 })
  else if l.spillHead ≠ noNode then
    some (l.spillHead, { l with spillHead := (nodeWord (l.node l.spillHead) 1).toNat, spillUsed := l.spillUsed + 1 })
  else if l.spillBump < cap then
    some (scr + l.spillBump, { l with spillBump := l.spillBump + 1, spillUsed := l.spillUsed + 1 })
  else none

/-- All `n` nodes are taken, or none (R253). -/
def ExprLog.reserve (scr cap : Nat) : Nat → ExprLog → Option (List Nat × ExprLog)
  | 0, l => some ([], l)
  | n + 1, l => (l.take scr cap).bind fun (i, l) => (ExprLog.reserve scr cap n l).map fun (r, l) => (i :: r, l)

/-- A node goes to the head of its segment's free list (R252, R254). -/
def ExprLog.free (scr : Nat) (l : ExprLog) (i : Nat) : ExprLog :=
  let spill := decide (scr ≤ i)
  let head := if spill then l.spillHead else l.scrHead
  let l := l.put i (mkNode 0 0 0 spill (BitVec.ofNat 32 head) 0 0)
  if spill then { l with spillHead := i, spillUsed := l.spillUsed - 1 } else { l with scrHead := i, scrUsed := l.scrUsed - 1 }

/-- A count rises, and saturates (R254). -/
def ExprLog.raise (l : ExprLog) (i : Nat) : ExprLog :=
  let c := nodeCnt (l.node i)
  if c < 8191 then l.put i (setCnt (l.node i) (c + 1)) else l

/-- Handles are dropped, the first one with all that it frees before the second (R254); the fuel bounds the handles there are. -/
def ExprLog.release (scr : Nat) : Nat → List Nat → ExprLog → ExprLog
  | 0, _, l => l
  | _, [], l => l
  | fuel + 1, i :: rest, l =>
    let n := l.node i
    let c := nodeCnt n
    if c = 8191 then ExprLog.release scr fuel rest l
    else if 1 < c then ExprLog.release scr fuel rest (l.put i (setCnt n (c - 1)))
    else ExprLog.release scr fuel (nodeRefs n ++ rest) (l.free scr i)
/-- A register drops its old handle (R255 step 3). -/
def ExprLog.drop (scr : Nat) (l : ExprLog) (c : XCell) : ExprLog :=
  if c.isPoint then l else ExprLog.release scr (3 * l.nodes.length + 2) [c.h.toNat] l

/-- The nodes that a drop reads: those whose counts it lowers, in its order. -/
def ExprLog.released (scr : Nat) : Nat → List Nat → ExprLog → List Nat
  | 0, _, _ => []
  | _, [], _ => []
  | fuel + 1, i :: rest, l =>
    let n := l.node i
    let c := nodeCnt n
    i :: (if c = 8191 then ExprLog.released scr fuel rest l
      else if 1 < c then ExprLog.released scr fuel rest (l.put i (setCnt n (c - 1)))
      else ExprLog.released scr fuel (nodeRefs n ++ rest) (l.free scr i))
def ExprLog.dropReads (scr : Nat) (l : ExprLog) (c : XCell) : List Nat :=
  if c.isPoint then [] else ExprLog.released scr (3 * l.nodes.length + 2) [c.h.toNat] l

/-- A new node is written, and the count of every handle it holds rises (R255 step 1). -/
def ExprLog.write (l : ExprLog) (i : Nat) (n : Node) : ExprLog :=
  (nodeRefs n).foldl ExprLog.raise { l.put i n with poison := l.poison.filter fun j => j != i }

/-! ### The spill segment through the REFINE path (R112, R251) -/

/-- The nodes that two logs hold otherwise. -/
def changedNodes (a b : ExprLog) : List Nat :=
  ((a.nodes.map (·.1)) ++ (b.nodes.map (·.1))).dedup.filter fun i => decide (a.node i ≠ b.node i)

/-- What reaching spill nodes comes to: it succeeds; a node it reads is poisoned; it kills the grid; it waits, for a page that is zeroing or a
budget. -/
inductive Spill where
  | ok
  | poison
  | dead (s : State)
  | wait (s : State)

/-- The accesses of a group to nodes of its team's spill segment, through the REFINE path of its core; those of `reads` are read. -/
def reachSpill (s : State) (g : Group) (c : Context) (tm : Team) (l reads : List Nat) : Spill :=
  let p := s.pkt tm.ref.grid
  let scr := pkLogScr p
  (l.filter fun i => decide (scr ≤ i)).foldl (fun r i =>
    match r with
    | .ok =>
      match s.accessImage g.core c .both (spillVa p tm.frame scr i) with
      | .ok pa =>
        if !s.linesOpen c.asid (pkClass p) (s.pathLines g.core c (spillVa p tm.frame scr i) pa) then .wait s.bump
        else if reads.contains i && s.poisoned pa 16 then .poison else .ok
      | .zero => .wait (s.startZero c (spillVa p tm.frame scr i))
      | _ => .dead ((s.chargeLines c.asid (pkClass p) (s.xlatReads g.core c (spillVa p tm.frame scr i))).killAt g 32)
    | r => r) .ok
/-- Spill nodes that are read count at their stacks, with their walks (R428). -/
def State.chargeSpill (s : State) (core : Nat) (c : Context) (tm : Team) (l : List Nat) : State :=
  let p := s.pkt tm.ref.grid
  let scr := pkLogScr p
  (l.filter fun i => decide (scr ≤ i)).foldl (fun s i =>
    s.chargeLines c.asid (pkClass p) (match s.accessImage core c .both (spillVa p tm.frame scr i) with
      | .ok pa => s.pathLines core c (spillVa p tm.frame scr i) pa
      | _ => s.xlatReads core c (spillVa p tm.frame scr i))) s

/-- Changed spill nodes go to their segment in the image pool (R250). -/
def State.putSpill (s : State) (core : Nat) (c : Context) (tm : Team) (l : List Nat) : State :=
  let p := s.pkt tm.ref.grid
  let scr := pkLogScr p
  (l.filter fun i => decide (scr ≤ i)).foldl (fun s i =>
    match s.accessImage core c .both (spillVa p tm.frame scr i) with
    | .ok pa => (s.homeWrite .outside pa (leBytes (tm.log.node i).toNat 16)).chargeLines c.asid (pkClass p)
        (s.pathLines core c (spillVa p tm.frame scr i) pa)
    | _ => s) s

/-- A team takes a new log. -/
def State.setLog (s : State) (core : Nat) (c : Context) (tm : Team) (l : ExprLog) : State :=
  (s.setTeam { tm with log := l }).putSpill core c { tm with log := l } (changedNodes tm.log l)
/-- The environment after a word has changed the log. -/
def Env.withTeamLog (e : Env) (l : ExprLog) : Env :=
  { e with team := { e.team with log := l }, s := e.s.setLog e.g.core e.ctx e.team l }


/-! ### Nodes given back, and a run that may be taken back (R256, R268, R440) -/

/-- A node that a word has taken and does not use goes back to where it came from: above the bump pointer `b` of its segment, as it stood
before the word took its nodes, to the bump pointer, else to the free list. -/
def ExprLog.untake (scr : Nat) (b : Nat × Nat) (l : ExprLog) (i : Nat) : ExprLog :=
  if i < scr ∧ b.1 ≤ i ∧ i + 1 = l.scrBump then { l with scrBump := i, scrUsed := l.scrUsed - 1 }
  else if scr ≤ i ∧ b.2 ≤ i - scr ∧ i + 1 = scr + l.spillBump then { l with spillBump := l.spillBump - 1, spillUsed := l.spillUsed - 1 }
  else l.free scr i
/-- A log with the nodes that a waiting XLD holds given back, the last one first (R268). -/
def Probe.untaken (scr : Nat) (p : Probe) (l : ExprLog) : ExprLog := (p.nodes.getD []).reverse.foldl (ExprLog.untake scr p.bumps) l
/-- The nodes that the waiting word of a run holds go back, as it faults (R256). -/
def State.giveNodes (s : State) (g : Group) (r : Run) : State :=
  match r.probe, s.team? g.ref.tref, s.gridCtx? g.ref.grid with
  | some p, some t, some c =>
    let tm := s.liveTeam g.core c t
    if p.nodes.isNone then s else s.setLog g.core c tm (p.untaken (pkLogScr (s.pkt g.ref.grid)) tm.log)
  | _, _, _ => s

/-- The team's expression log stands again as it stood before a word. -/
def State.restoreLog (s : State) (g : Group) (l : Option ExprLog) : State :=
  match l, s.team? g.ref.tref, s.gridCtx? g.ref.grid with
  | some l, some t, some c => s.setLog g.core c (s.liveTeam g.core c t) l
  | _, _, _ => s
/-- A change of a team's log waits while a run of the team has changed it behind a window store and may still be taken back, log and all
(R256, R440). A run that itself waits at a target goes back meanwhile to before its first such change, and executes those words again: a
wait of one group never stands on the wait of another (R99; log 99). None where nothing is in the way. -/
def State.logWaits (s : State) (tm : TRef) (me : Option (GRef × Stream)) : Option State :=
  (s.logHolder tm me).map fun x =>
    let (g, rd, b, r) := x
    match r.probe, r.pre.zipIdx.find? fun y => y.1.log.isSome with
    | some _, some (p, i) => ((s.takeBack g r p).setGroup (g.takeBack rd b r i p { r.rewind i p with ended := false })).restoreLog g p.log
    | _, _ => s

end Sys2Proof.Machine
end

