-- ==== Sys2Proof/Machine/Fetch.lean ====
section
/-!
DEFINITION. Instruction fetch through the CODE path (R27, R341), the words a run will execute, the S registers it reads (R85), the
image lines it needs (R92, R95), and the checks a word meets before it executes (R44, R97, R370).
-/
namespace Sys2Proof.Machine
open Sys2Proof

/-! ### The instruction cache (R341) -/

/-- The moment of the phase order at which a fetch on a core takes the line of `pa`: the moment the cache took it, or, where the bytes
have changed since with no invalidation, that moment or any later one (log 4). -/
def State.codeMoment (s : State) (core pa : Nat) : Nat :=
  match s.ilines.find? fun l => decide (l.core = core) && decide (l.pa = pa / 64) with
  | none => s.home.seq
  | some l =>
    if s.home.readAt l.seq pa 8 = s.home.read pa 8 then l.seq
    else l.seq + Config.choice s.tick % (s.home.seq - l.seq + 1)

/-- The cache of a core holds the line of `pa` as of a moment. -/
def State.codeHold (s : State) (core pa n : Nat) : State :=
  { s with ilines := { core := core, pa := pa / 64, seq := n } ::
      s.ilines.filter fun l => !(decide (l.core = core) && decide (l.pa = pa / 64)) }

/-- The instruction cache of a core is invalidated. -/
def State.codeInvalidate (s : State) (core : Nat) : State := { s with ilines := s.ilines.filter fun l => decide (l.core ≠ core) }

/-- A fetch: the word and where it lies, a fault with its cause (R27), or a wait for a page that is zeroing (R422). -/
inductive Fetched where
  | word (w : Word64) (pa : Nat)
  | fault (cause : Nat)
  | zero
  deriving DecidableEq, Repr, Inhabited

/-- The word at an address, through a core's CODE path. -/
def State.fetch (s : State) (core : Nat) (c : Context) (pc : Word64) : Fetched :=
  match s.access core c .exec pc with
  | .fault k => .fault k
  | .zero => .zero
  | .peer .. => .fault 5
  | .ok pa =>
    if s.poisoned pa 8 then .fault 8
    else .word (BitVec.ofNat 64 (leNat (s.home.readAt (s.codeMoment core pa) pa 8))) pa

/-- The words that a run from an address would execute, as far as they decode: to the first with RB = 1, at most 24 (R81); one under
single-step (R43). -/
def State.runWords (s : State) (core : Nat) (c : Context) (step : Bool) : Nat → Word64 → List Instr
  | 0, _ => []
  | n + 1, pc =>
    match s.fetch core c pc with
    | .word w _ =>
      match decode w with
      | .ok i => if rbOf i || step then [i] else i :: s.runWords core c step n (pc + 8)
      | .error _ => []
    | _ => []

/-! ### What a run waits for (R85, R369) -/

/-- Single-step applies: level 0 with SS (R457). -/
def Group.stepping (g : Group) : Bool := g.ss && decide (g.level = 0)

/-- The words of the run that a group would begin at an address. -/
def State.wordsAt (s : State) (g : Group) (pc : Word64) : List Instr :=
  match s.gridCtx? g.ref.grid with
  | none => []
  | some c => s.runWords g.core c g.stepping 24 pc

/-- A run that reads a pending register does not begin (R85). -/
def pendingRead (g : Group) (l : List Instr) : Bool :=
  l.any fun i => (sreadsOf i).any fun n => (Table.get {} g.s n).tag == .pending

/-- The engine commands of a run (R369). -/
def commandsIn (l : List Instr) : Nat := (l.filter fun i => isCommand i).length

/-! ### Image lines (R92, R95) -/

/-- The image line of an S register. -/
def sLine (n : Nat) : Nat := n / 16
/-- The group's own lines: control and trap state. -/
def groupLines : List Nat := [16, 17]
/-- The thread lines of a quire. -/
def threadLines (k : Nat) : List Nat := [18 + 3 * k, 19 + 3 * k, 20 + 3 * k]
def vLine (n k : Nat) : Nat := 32 + 4 * n + k
def xLines (v n k : Nat) : List Nat := (List.range 3).map fun j => 32 + 4 * v + 12 * n + 3 * k + j
/-- The quires with an active thread. -/
def quires (active : LaneMask) : List Nat := (List.range 4).filter fun k => (active >>> (32 * k)).extractLsb' 0 32 != 0
/-- The S registers a word names: read, inspected as a future, or written. -/
def snames (i : Instr) : List Nat := overFields FC.snames i
/-- The register lines that a word names for the quires of an active set. -/
def wordLines (v : Nat) (active : LaneMask) (i : Instr) : List Nat :=
  (snames i).map sLine ++
    (quires active).flatMap fun k => (vregsOf i).map (fun n => vLine n k) ++ (xregsOf i).flatMap (fun n => xLines v n k)
/-- The lines a run needs. -/
def runLines (v : Nat) (active : LaneMask) (l : List Instr) : List Nat :=
  (groupLines ++ (quires active).flatMap threadLines ++ l.flatMap (wordLines v active)).dedup

/-- Where a line of a group's image stands. -/
def State.lineVa (s : State) (g : Group) (line : Nat) : Word64 :=
  imageVa (s.pkt g.ref.grid) (((s.team? g.ref.tref).map (·.frame)).getD 0) g.ref.group + BitVec.ofNat 64 (128 * line)
/-- A failing access of the REG path kills the grid (R97), its walk counted once the budgets have room (R424, R428). -/
def State.lineFails (s : State) (c : Context) (g : Group) (line : Nat) : State :=
  let walk := s.xlatReads g.core c (s.lineVa g line)
  let cls := s.classOf g.ref.grid
  if s.linesOpen c.asid cls walk then (s.chargeLines c.asid cls walk).killAt g 32 else s.bump
/-- What a read of image lines outside the quires of a run comes to: the values can be taken; a line is poisoned; the read waits, for a page
that is zeroing or a budget, or kills the grid. -/
inductive Outer where
  | ok (s : State)
  | poison (s : State)
  | wait (s : State)
/-- A word takes values from an image line that its run does not hold: from the file, or through the REG path (R95, R97, R165). -/
def State.outerLine (s : State) (g : Group) (c : Context) (line : Nat) : Outer :=
  let va := s.lineVa g line
  let cls := pkClass (s.pkt g.ref.grid)
  if g.poison.contains line then .poison s
  else if g.linesIn.contains line then .ok s
  else match s.accessImage g.core c .read va with
    | .zero => .wait (s.startZero c va)
    | .ok pa =>
      let lines := s.pathLines g.core c va pa ++ [pa + 64]
      if !s.linesOpen c.asid cls lines then .wait s.bump
      else
        let t := s.chargeLines c.asid cls lines
        if s.poisoned pa 128 then .poison t else .ok t
    | _ => .wait (s.lineFails c g line)
def State.outerLines (s : State) (g : Group) (c : Context) (l : List Nat) : Outer :=
  l.foldl (fun r line => match r with
    | .ok s => s.outerLine g c line
    | r => r) (.ok s)

/-! ### The checks before a word executes (R44, R97, R370) -/

/-- The first S register with a failed tag that the word reads. -/
def failedRead (r : Run) (i : Instr) : Option SCell :=
  ((sfaultsOf i).map fun n => Table.get {} r.s n).find? fun c => c.tag == .failed

/-- TCAUSE.DETAIL of a FUTURE_FAULT: the engine's cause, 0 where the future has retired (R368, R446). -/
def futureDetail (s : State) (g : Group) (h : Word64) : Nat :=
  match s.futureStatus g.ref.tref (pkGroups (s.pkt g.ref.grid)) h with
  | some w => bits w 24 8 % 64
  | none => 0

/-- The word names a register beyond its role's count (R32). -/
def undeclared (p : Packet) (role : Nat) (i : Instr) : Bool :=
  (vregsOf i).any (fun n => decide (pkVregs p role ≤ n)) || (xregsOf i).any fun n => decide (pkXregs p role ≤ n)

/-- How a fetched word ends its checks. -/
inductive Admit where
  | run (i : Instr)
  | fault (cause : Nat) (addr : Word64) (detail : Nat)
  deriving DecidableEq, Repr, Inhabited

/-- The checks of R44 in their order, then poison of the image lines the word names (R97) and failed tags (R370). -/
def checkWord (s : State) (g : Group) (r : Run) (w : Word64) : Admit :=
  let p := s.pkt g.ref.grid
  if decide (r.pos + 1 = 24) && !w.getLsbD 63 && !r.step then .fault 1 0 0
  else
    match decode w with
    | .error _ => .fault 1 0 0
    | .ok i =>
      if isControl i && !rbOf i && !r.step then .fault 1 0 0
      else if undeclared p g.role i then .fault 2 0 0
      else if g.poison.any fun l => (wordLines (pkVregs p g.role) r.active i).contains l || (decide (r.pos = 0) &&
          (runLines (pkVregs p g.role) r.active []).contains l) then .fault 8 0 0
      else
        match failedRead r i with
        | some c => .fault 11 c.w (futureDetail s g c.w)
        | none => .run i

/-- A word that does not pass its checks ends its run with a precise fault (R86); one that waited gives back the nodes it held (R256). -/
def refuseWord (s : State) (g : Group) (rd : Round) (r : Run) (b : Stream) (cause : Nat) (addr : Word64) (detail : Nat) : State :=
  let f : FaultInfo := { cause := cause, pc := r.at_, addr := addr, lanes := r.active, detail := detail, pos := r.pos + 1,
                         stream := decide (b = .b) }
  (s.giveNodes g r).setGroup { g with round := some (rd.setRun b { r with ended := true, fault := some f, probe := none }) }

/-- What the issue of the next word of a run comes to. -/
inductive Issue where
  | exec (i : Instr) (s : State)
  | done (s : State)
  deriving Repr

/-- A run of stream B executes once that of stream A has committed: its events follow those of stream A in the group's order (R322). -/
def Round.mayIssue (rd : Round) : Stream → Bool
  | .a => true
  | .b => (rd.a.map fun r => r.ended && r.committed).getD true

/-- The next word of a run is fetched and checked. Where the run is not in progress, its turn has not come (R322), or its lines are not all
in the file (R95), nothing happens; a page that is zeroing is waited for (R422). -/
def issue (s : State) (gr : GRef) (b : Stream) : Issue :=
  match s.group? gr with
  | none => .done s
  | some g =>
    match g.round with
    | none => .done s
    | some rd =>
      match rd.run? b with
      | none => .done s
      | some r =>
        if r.ended || !rd.mayIssue b || !r.missing.isEmpty then .done s
        else
          let c := (s.gridCtx? gr.grid).getD { asid := 0, desc := 0 }
          match s.fetch g.core c r.at_ with
          | .fault k =>
            let cls := pkClass (s.pkt gr.grid)
            let lines := s.xlatReads g.core c r.at_
            if !s.linesOpen c.asid cls lines then .done s.bump
            else .done (refuseWord (s.chargeLines c.asid cls lines) g rd r b k r.at_ (if k = 4 then 1 else 0))
          | .zero => .done (s.startZero c r.at_)
          | .word w pa =>
            let cached := s.ilines.any fun l => decide (l.core = g.core) && decide (l.pa = pa / 64)
            let cls := pkClass (s.pkt gr.grid)
            let lines := s.xlatReads g.core c r.at_ ++ (if cached then [] else [pa])
            if !s.linesOpen c.asid cls lines then .done s.bump
            else
            let s := s.chargeLines c.asid cls lines
            let s := (s.codeHold g.core pa (s.codeMoment g.core pa)).bump
            match checkWord s g r w with
            | .fault k a d => .done (refuseWord s g rd r b k a d)
            | .run i => .exec i { s with cur := some (gr, b) }

/-! ### Turns, and a program placed from outside (log 1, log 7) -/

/-- The next turn: the head of the schedule, or a free value where it lists none (log 1). -/
def State.nextTurn (s : State) : Turn × State :=
  match s.turns with
  | t :: rest => (t, { s with turns := rest })
  | [] => (Config.turn s.tick, s.bump)

/-- The group whose next word `placeWord` supplies: the only group of the only team of grid 2³² − 1. -/
def loadRef : GRef := { grid := 0xFFFFFFFF, team := 0, group := 0 }
/-- The address of the placed word. -/
def loadPc : Word64 := 0x1000
/-- One group of 128 threads, 128 vector and 32 interval registers, all of the scratchpad. -/
def loadPacket : Packet :=
  BitVec.ofNat 1024 (loadPc.toNat + 1 * 2 ^ 128 + 1 * 2 ^ 149 + 0x40000 * 2 ^ 192 + (1 + 128 * 2 ^ 8 + 32 * 2 ^ 16) * 2 ^ 320)
/-- A group with every thread live at the placed word, its run begun there. -/
def loadGroup (s : State) : Group :=
  let lanes : List Thread := (List.range 128).map fun t =>
    { st := .live, pc := loadPc, v := Table.set {} [] 0 { w := BitVec.ofNat 32 t } }
  let r : Run := { begun := loadPc, at_ := loadPc, active := BitVec.allOnes 128, s := [], last := loadPc }
  { ref := loadRef, role := 0, lanes := lanes,
    round := some { startS := [], start := lanes, begun := s.tick, a := some r, b := none } }

/-- A word placed at the address that the next turn fetches, with the grid, team, group, context and translation that its fetch needs
(log 7). -/
def State.placeWord (s : State) (w : Nat) : State :=
  { s with
    home := { s.home with mem := setBytes s.home.mem loadPc.toNat (leBytes w 8) }
    ctxs := { asid := 4095, desc := 1 } :: s.ctxs
    tlb := { unit := 0, asid := 4095, vpn := 1, size := 0, pte := 0x101F#64 } :: s.tlb
    ilines := s.ilines.filter fun l => decide (l.core ≠ 0)
    grids := { id := 0xFFFFFFFF, slot := 255, asid := 4095, pkt := loadPacket, nextTeam := 1 } :: s.grids
    teams := { ref := loadRef.tref, size := 0x40000 } :: s.teams
    groups := loadGroup s :: s.groups
    turns := .word loadRef .a :: s.turns }

end Sys2Proof.Machine
end

