-- ==== Sys2Proof/Machine/CrossLane.lean ====
section
/-!
DEFINITION. Cross-lane operations and the intersect array, opcode group 6 (07_control_instructions.md R165 to R177), and the FMAXI key
order (14_memory_instructions.md R357).
-/
namespace Sys2Proof.Machine
open Sys2Proof

/-! ### SHFL (R166, R167) -/

/-- The lane that SHFL reads in a lane; none is the lane's own value. -/
def shflSource (mode w t : Nat) (b : Word32) : Option Nat :=
  let base := t / w * w
  let r := b.toNat
  match mode with
  | 0 => if r < w then some (base + r) else none
  | 1 => some (base + (((t : Int) - base + b.toInt) % w).toNat)
  | 2 =>
    let j := (t : Int) + b.toInt
    if j < base ∨ base + w ≤ j then none else some j.toNat
  | _ => if r < w then some (t ^^^ r) else none

/-- The lanes that the lanes of E read from. -/
def shflSources (o : OpF) (e : Env) : List Nat :=
  (e.setE o).filterMap fun t => shflSource o.low2 (128 / 2 ^ o.cond) t (e.v32 t o.b).w
/-- The image lines that SHFL reads outside the quires of its run's active set (R165). -/
def shflLines (o : OpF) (e : Env) : List Nat :=
  (((shflSources o e).map (· / 32)).dedup.filter fun k => !(quires e.r.active).contains k).map (vLine o.a.toNat)
/-- What SHFL writes in a lane (R166). -/
def shflLane (o : OpF) (e : Env) (t : Nat) : LaneWrite :=
  let b := e.v32 t o.b
  match shflSource o.low2 (128 / 2 ^ o.cond) t b.w with
  | none =>
    let x := e.v32 t o.a
    e.put32 t o.d { x with t := x.t || b.t }
  | some j =>
    let x := e.supply32 j o.a
    e.put32 t o.d { x with t := x.t || b.t }
/-- SHFL. A value from a lane outside the active set comes from the group's image line (R165): a poisoned one is a precise fault, and a REG
path that fails kills the grid (R97). -/
def execShfl (o : OpF) (s : State) : Host.Outcome State Fault Refusal :=
  word o.rb s fun e =>
    match e.s.outerLines e.g e.ctx (shflLines o e) with
    | .wait s => .stall s
    | .poison s => .fault { e with s := s } 8 0 e.r.active 0 {}
    | .ok s => .retire { e with s := s } { defer := [.ready ((e.setE o).map (shflLane o e)) []] }

/-! ### VOTE, BALLOT, MATCH, COMPACT, ELECT (R168 to R170, R174) -/

/-- CT of some lane of a list (R400). -/
def Env.ctIn (e : Env) (l : List Nat) : Bool := e.det && l.any fun t => (e.th t).ct

def voteResult (form : Nat) (ps : List Bool) : Bool :=
  match form with
  | 0 => ps.all id
  | 1 => ps.any id
  | 2 => ps.all id || ps.all (! ·)
  | _ => (ps.filter id).length % 2 == 1

def execVote (o : OpF) (s : State) : Host.Outcome State Fault Refusal :=
  word o.rb s fun e =>
    let es := e.setE o
    let x := voteResult o.low2 (es.map fun t => e.p t o.cond)
    .retire e { defer := [.ready (es.map fun t => { lane := t, preds := [.push x], ct := e.ctIn es }) []] }

/-- The bits of the lanes of E from lane `base` on whose predicate is set. -/
def ballotHalf (e : Env) (es : List Nat) (k base : Nat) : Word64 :=
  (es.filter fun t => t / 64 * 64 == base && e.p t k).foldl (fun w t => w ||| (1#64 <<< (t - base))) 0
def execBallot (o : OpF) (s : State) : Host.Outcome State Fault Refusal :=
  word o.rb s fun e =>
    let es := e.setE o
    .retire e { defer := [.ready [] [(o.d.toNat, mkS (ballotHalf e es o.cond 0) (e.ctIn es)),
                                     (o.d.toNat + 1, mkS (ballotHalf e es o.cond 64) (e.ctIn es))]] }

def execMatchLanes (o : OpF) (s : State) : Host.Outcome State Fault Refusal :=
  word o.rb s fun e =>
    let es := e.setE o
    let val (t : Nat) : Val 64 := e.vsrc t o.wide o.a
    let tt := es.any fun t => (val t).t || (e.th t).ct
    let one (t : Nat) : LaneWrite :=
      let u := (es.find? fun u => (val u).w == (val t).w).getD t
      { e.put32 t o.d { w := BitVec.ofNat 32 u, t := tt } with preds := [.push (u == t)], ct := e.det && tt }
    .retire e { defer := [.ready (es.map one) []] }

def execCompact (o : OpF) (s : State) : Host.Outcome State Fault Refusal :=
  word o.rb s fun e =>
    let es := e.setE o
    let src := es.filter fun t => e.p t o.cond
    let one (i t : Nat) : LaneWrite :=
      match src[i]? with
      | some u =>
        let x := e.v32 u o.a
        { e.put32 t o.d { x with t := x.t || e.ctIn es } with preds := [.push true], ct := e.ctIn es }
      | none => { lane := t, preds := [.push false], ct := e.ctIn es }
    .retire e { defer := [.ready ((List.range es.length).map fun i => one i (es.getD i 0)) []] }

/-- ELECT (R174). It is lane-class (R165) and its inputs include every lane of E: a lane of E with CT taints S[D], and sets CT in each lane that
receives a push (R400). -/
def execElect (o : OpF) (s : State) : Host.Outcome State Fault Refusal :=
  word o.rb s fun e =>
    let es := e.setE o
    let pick := if o.bit 1 then es.getLast? else es.head?
    let w : Word64 := match pick with
      | some t => BitVec.ofNat 64 t
      | none => BitVec.allOnes 64
    .retire e { lanes := es.map fun t => e.pushP t false (pick == some t) (e.ctIn es)
                sregs := if o.bit 0 then [(o.d.toNat, mkS w (e.ctIn es))] else [] }

/-! ### FMAXI (R357), REDUX, SCAN (R171 to R173) -/

/-- The winner of two FMAXI keys. -/
def fmaxiWinner (p q : Nat) : Nat :=
  let x := unpackF f16 (p % 65536)
  let y := unpackF f16 (q % 65536)
  let byIndex := if p / 65536 < q / 65536 then p else if q / 65536 < p / 65536 then q else min p q
  if x.isNaN && y.isNaN then byIndex
  else if x.isNaN then q
  else if y.isNaN then p
  else match cmpVal x y with
    | .gt => p
    | .lt => q
    | .eq => if x.sign == y.sign then byIndex else if x.sign then q else p

/-- Operations 0 to 5 on two values of a width (R171). -/
def reduxOp (op : Nat) (signed : Bool) (w : Nat) (a b : BitVec w) : BitVec w :=
  match op with
  | 0 => a + b
  | 1 => minI signed w a b
  | 2 => maxI signed w a b
  | 3 => a &&& b
  | 4 => a ||| b
  | _ => a ^^^ b

/-- The identity of an exclusive scan (R173). -/
def scanUnit (op : Nat) (signed : Bool) (w : Nat) : BitVec w :=
  match op with
  | 1 => if signed then BitVec.intMax w else BitVec.allOnes w
  | 2 => if signed then BitVec.intMin w else 0
  | 3 => BitVec.allOnes w
  | _ => 0

/-- The exact sum of finite values. -/
def exactSum (l : List FVal) : Int × Int :=
  let e := (l.map fun x => match x with | .fin _ _ e => e | _ => 0).foldl min 0
  (l.foldl (fun n x => match x with
    | .fin neg m k => n + (if neg then -1 else 1) * ((m : Int) * 2 ^ (k - e).toNat)
    | _ => n) 0, e)

/-- REDUX.fadd (R172). -/
def reduxFadd (rm : Nat) (l : List FVal) : Nat × Flags :=
  let pinf := l.contains (.inf false)
  let ninf := l.contains (.inf true)
  let iv := flagIf (l.any FVal.isSNaN || (pinf && ninf)) fIV
  if l.any FVal.isNaN || (pinf && ninf) then (f32.canonNaN, iv)
  else if pinf then (f32.infBits false, 0)
  else if ninf then (f32.infBits true, 0)
  else
    let (n, e) := exactSum l
    if n = 0 then
      (f32.signBit (l.all (fun x => x.isZero && x.sign) || (rm == 2)), 0)
    else roundTo f32 rm (decide (n < 0)) n.natAbs e false

/-- REDUX over a nonempty list of operands: result bits and flags. -/
def reduxVal (o : OpF) (l : List Word64) : Nat × Flags :=
  match o.field 3 4 with
  | 6 => reduxFadd o.low2 (l.map fun x => u32 x.toNat)
  | 7 => (l.drop 1).foldl (fun r x => let q := fMinMax f32 false r.1 x.toNat; (q.1, r.2 ||| q.2)) (((l.head?).getD 0).toNat, 0)
  | 8 => (l.drop 1).foldl (fun r x => let q := fMinMax f32 true r.1 x.toNat; (q.1, r.2 ||| q.2)) (((l.head?).getD 0).toNat, 0)
  | 9 => ((l.drop 1).foldl (fun r x => fmaxiWinner r x.toNat) ((l.head?).getD 0).toNat, 0)
  | op =>
    if o.wide then (((l.drop 1).foldl (reduxOp op (signedTy o.ty) 64) ((l.head?).getD 0)).toNat, 0)
    else (((l.drop 1).foldl (fun a x => reduxOp op (signedTy o.ty) 32 a (x.extractLsb' 0 32))
      (((l.head?).getD 0).extractLsb' 0 32)).toNat, 0)

/-- A single operand of fmin or fmax that is a NaN gives the canonical NaN, and IV when it signals (R193). -/
def reduxOne (o : OpF) (l : List Word64) (r : Nat × Flags) : Nat × Flags :=
  if o.field 3 4 = 7 ∨ o.field 3 4 = 8 then
    let vs := l.map fun x => u32 x.toNat
    (if vs.all FVal.isNaN then f32.canonNaN else r.1, snanFlag vs)
  else r

def execRedux (o : OpF) (s : State) : Host.Outcome State Fault Refusal :=
  word o.rb s fun e =>
    let es := e.setE o
    let l := es.map fun t => (e.vsrc t o.wide o.a).w
    let tt := es.any fun t => (e.vsrc t o.wide o.a).t || (e.th t).ct
    let r := if es.isEmpty then (0, 0) else reduxOne o l (reduxVal o l)
    let w : Word64 := if o.wide then BitVec.ofNat 64 r.1
      else if o.ty = 0 then (BitVec.ofNat 32 r.1).signExtend 64 else BitVec.ofNat 64 r.1
    .retire e { defer := [.ready (es.map fun t => { lane := t, raise := r.2 }) [(o.d.toNat, mkS w (e.det && tt))]] }

/-- The running values of a scan: each lane's operand combined with those before it. -/
def scanFrom {w : Nat} (f : BitVec w → BitVec w → BitVec w) (excl : Bool) : BitVec w → List (BitVec w) → List (BitVec w)
  | _, [] => []
  | acc, x :: rest => (if excl then acc else f acc x) :: scanFrom f excl (f acc x) rest

def execScan (o : OpF) (s : State) : Host.Outcome State Fault Refusal :=
  word o.rb s fun e =>
    let es := e.setE o
    let op := o.field 3 4
    let sg := signedTy o.ty
    let taintTo (i : Nat) : Bool := (es.take (i + 1)).any fun t => (e.vsrc t o.wide o.a).t || (e.th t).ct
    let l : List LaneWrite :=
      if o.wide then
        let r := scanFrom (reduxOp op sg 64) (o.bit 7) (scanUnit op sg 64) (es.map fun t => (e.v64 t o.a).w)
        (List.range es.length).map fun i => e.put64 (es.getD i 0) o.d { w := r.getD i 0, t := taintTo i }
      else
        let r := scanFrom (reduxOp op sg 32) (o.bit 7) (scanUnit op sg 32) (es.map fun t => (e.v32 t o.a).w)
        (List.range es.length).map fun i => e.put32 (es.getD i 0) o.d { w := r.getD i 0, t := taintTo i }
    .retire e { defer := [.ready l []] }

/-! ### The intersect array (R175 to R177) -/

/-- The keys of a segment: a lane outside E contributes 0xFFFFFFFF. -/
def segKeys (e : Env) (es : List Nat) (seg : Nat) (a : BitVec 8) : List Nat :=
  (List.range 16).map fun i => if es.contains (16 * seg + i) then (e.v32 (16 * seg + i) a).w.toNat else 0xFFFFFFFF
/-- The advance word (R175). -/
def advance (adva advb : Nat) : Word32 := BitVec.ofNat 32 (adva + 256 * advb)
def segTaint (o : OpF) (e : Env) (es : List Nat) (seg : Nat) : Bool :=
  es.any fun t => t / 16 == seg && ((e.v32 t o.a).t || (e.v32 t o.b).t || (e.th t).ct)

/-- Inserts a key into a list ordered by key, after its equals. -/
def insertKey (x : Nat × Bool) : List (Nat × Bool) → List (Nat × Bool)
  | [] => [x]
  | y :: rest => if x.1 < y.1 then x :: y :: rest else y :: insertKey x rest
/-- The 32 keys of a segment in the order of MERGE: by key, list a first on ties, lower lanes first. -/
def mergeOrder (a b : List Nat) : List (Nat × Bool) :=
  (a.map (·, true) ++ b.map (·, false)).foldl (fun l x => insertKey x l) []

/-- What a segment writes in a lane of E. -/
def isectLane (o : OpF) (e : Env) (es : List Nat) (t : Nat) : LaneWrite :=
  let seg := t / 16
  let a := segKeys e es seg o.a
  let b := segKeys e es seg o.b
  let m := min (a.foldl max 0) (b.foldl max 0)
  let tt := segTaint o e es seg
  let j := b.findIdx? fun x => x == a.getD (t % 16) 0
  let w : Word32 := match j with
    | some j => BitVec.ofNat 32 j
    | none => 0xFFFFFFFF
  let adv := advance ((a.filter fun x => decide (x ≤ m)).length) ((b.filter fun x => decide (x ≤ m)).length)
  { lane := t, v := (e.put32 t o.d { w := w, t := tt }).v ++ (e.put32 t o.c { w := adv, t := tt }).v }
def mergeLane (o : OpF) (e : Env) (es : List Nat) (t : Nat) : LaneWrite :=
  let seg := t / 16
  let r := mergeOrder (segKeys e es seg o.a) (segKeys e es seg o.b)
  let tt := segTaint o e es seg
  let adva := ((r.take 16).filter (·.2)).length
  let lo := (r.getD (t % 16) (0, false)).1
  let hi := (r.getD (16 + t % 16) (0, false)).1
  { lane := t, v := (e.put64 t o.d { w := BitVec.ofNat 64 (lo + 2 ^ 32 * hi), t := tt }).v ++
                    (e.put32 t o.c { w := advance adva (16 - adva), t := tt }).v }
def execIsect (o : OpF) (s : State) : Host.Outcome State Fault Refusal :=
  word o.rb s fun e => .retire e { defer := [.ready ((e.setE o).map (isectLane o e (e.setE o))) []] }
def execMerge (o : OpF) (s : State) : Host.Outcome State Fault Refusal :=
  word o.rb s fun e => .retire e { defer := [.ready ((e.setE o).map (mergeLane o e (e.setE o))) []] }

end Sys2Proof.Machine
end

