-- ==== Sys2Proof/Machine/Spaces.lean ====
section
/-!
DEFINITION. The three spaces (12_memory_spaces.md): scratchpads and their presence bits, the on-chip map, and the bytes of context
images, operand slots and accumulators as windows reach them (R92, R93, R305 to R319, R447).
-/
namespace Sys2Proof.Machine
open Sys2Proof

/-! ### Targets -/

/-- The byte `n` further on. -/
def Target.shift (n : Nat) : Target → Target
  | .mem pa => .mem (pa + n)
  | .scratch tm a => .scratch tm (a + n)
  | .image g off => .image g (off + n)
  | .slot c k sd off => .slot c k sd (off + n)
  | .acc c k off => .acc c k (off + n)

/-- The distance from one target to another where they lie in one object and the second is not lower. -/
def Target.dist : Target → Target → Option Nat
  | .mem a, .mem b => if a ≤ b then some (b - a) else none
  | .scratch t a, .scratch u b => if t = u ∧ a ≤ b then some (b - a) else none
  | .image t a, .image u b => if t = u ∧ a ≤ b then some (b - a) else none
  | .slot c k s a, .slot d l r b => if c = d ∧ k = l ∧ s = r ∧ a ≤ b then some (b - a) else none
  | .acc c k a, .acc d l b => if c = d ∧ k = l ∧ a ≤ b then some (b - a) else none
  | _, _ => none

/-! ### Scratchpads (R311 to R313) -/

/-- A byte of a scratchpad; one that nothing has written since dispatch is a free value (log 5). -/
def Team.spByte (t : Team) (a : Nat) : Byte := (Table.get none t.scratch a).getD (Config.scratchByte t.serial a)
def Team.spRead (t : Team) (a n : Nat) : List Byte := (List.range n).map fun i => t.spByte (a + i)
def Team.spTainted (t : Team) (a n : Nat) : Bool := (sectorsOf a n).any fun k => Table.get false t.spTaint k
def Team.spPoisoned (t : Team) (a n : Nat) : Bool := (linesOf a n).any fun l => t.spPoison.contains l

/-- Bytes stored in a table of written bytes. -/
def putSome (m : Table (Option Byte)) (a : Nat) : List Byte → Table (Option Byte)
  | [] => m
  | b :: rest => putSome (Table.set none m a (some b)) (a + 1) rest

/-- A write to a scratchpad: bytes, sector taint (R400), and the poison of a line that one write covers whole (R455). -/
def Team.spWrite (t : Team) (a : Nat) (bs : List Byte) (taint : Bool) : Team :=
  { t with
    scratch := putSome t.scratch a bs
    spTaint := writeTaint (.det taint) a bs.length t.spTaint
    spPoison := t.spPoison.filter fun l => !(decide (a ≤ 64 * l) && decide (64 * l + 64 ≤ a + bs.length)) }

/-- The lanes of one store word that together cover a poisoned line clear its poison (R455). -/
def Team.spCovered (t : Team) (g : GRef) (word a n : Nat) : Team :=
  let c := coverLines g word a n t.spPoison t.spCover
  { t with spPoison := c.1, spCover := c.2 }

/-- A command still has bytes to land in a scratchpad line (R312). -/
def State.landing (s : State) (tm : TRef) (line : Nat) : Bool :=
  s.cmds.any (fun c => c.lines.contains (some tm, line)) ||
    s.bf.any fun p => p.2.queue.any (fun c => c.lines.contains (tm, line))
/-- Every held store of the device with its scratchpad, the oldest first. -/
def State.heldStores (s : State) : List (TRef × Held) :=
  (s.teams.flatMap fun t => t.held.map fun h => (t.ref, h)).insertionSort fun x y => x.2.n ≤ y.2.n
/-- The held stores that no command's bytes to land keep waiting, each group's in its order: LINE_PRESENT makes them (R313, R336). -/
def State.heldDue (s : State) : List (TRef × Held) :=
  (s.heldStores.foldl (fun (acc : List (TRef × Held) × List GRef) x =>
    if acc.2.contains x.2.g || (linesOf x.2.addr x.2.bytes.length).any (s.landing x.1) then (acc.1, x.2.g :: acc.2)
    else (acc.1 ++ [x], acc.2)) ([], [])).1
/-- Stores held at a line are to be applied to it now. -/
def State.dueAt (s : State) (tm : TRef) (line : Nat) : Bool :=
  s.teams.any (fun t => !t.held.isEmpty) && s.heldDue.any fun x => x.1 == tm && (linesOf x.2.addr x.2.bytes.length).contains line
/-- A line is not present for an access: a command has bytes to land in it, or all have landed and the stores held at it have still to be
applied on top of them (R312, R313). -/
def State.unready (s : State) (tm : TRef) (line : Nat) : Bool := s.landing tm line || s.dueAt tm line

/-- A command of a queue stands before another of it: the engine performs it first, in acceptance order (R284). -/
def BfEngine.ahead (e : BfEngine) (c : BfCmd) (own : List Nat) : Bool :=
  e.queue.all (fun x => !own.contains x.serial) || (e.queue.takeWhile fun x => !own.contains x.serial).any fun x => x.serial == c.serial
/-- A line makes a reading command wait: a command other than its own, `own`, has bytes to land in it, or stores held at it have still to be
applied (R282, R313, R379). A save or drain behind the command in its own engine's queue keeps it waiting for nothing: the engine's
results are those of acceptance order (R284). -/
def State.absentTo (s : State) (own : List Nat) (tm : TRef) (line : Nat) : Bool :=
  s.cmds.any (fun c => !own.contains c.serial && c.lines.contains (some tm, line)) ||
    s.bf.any (fun p => p.2.queue.any fun c => !own.contains c.serial && c.lines.contains (tm, line) && p.2.ahead c own) ||
    s.dueAt tm line
/-- A line makes a save or drain wait: a command of the copy, gather or collective engine, or a save or drain accepted before it, has bytes to
land in it, or stores held at it have still to be applied (R282, R312). Of two saves or drains of different engines to one absent line the one
accepted first goes on. DESIGN CHOICE: by the words of R282 each would wait for the other (log 94). -/
def State.absentSave (s : State) (serial : Nat) (tm : TRef) (line : Nat) : Bool :=
  s.cmds.any (fun c => c.lines.contains (some tm, line)) ||
    s.bf.any (fun p => p.2.queue.any fun c => decide (c.serial < serial) && c.lines.contains (tm, line)) || s.dueAt tm line

/-- A group has a store that is held at a scratchpad (R313). -/
def State.heldBy (s : State) (g : GRef) : Bool := s.teams.any fun t => t.held.any fun h => decide (h.g = g)

/-- Where bytes of a swapped-out team's scratchpad or images are addressed in their swap slot or frame: the core whose path reaches them, the
context, and the address (R112, R319). -/
def State.savedAt (s : State) (t : Target) : Option (Nat × Context × Word64) :=
  let place (tm : TRef) (va : Packet → Team → Word64) : Option (Nat × Context × Word64) :=
    (s.team? tm).bind fun x =>
    (s.gridCtx? tm.grid).bind fun c =>
      if x.resident || x.exited then none else some (x.core, c, va (s.pkt tm.grid) x)
  match t with
  | .scratch tm a => place tm fun p x => swapVa p x.frame + BitVec.ofNat 64 a
  | .image g off => place g.tref fun p x => imageVa p x.frame g.group + BitVec.ofNat 64 off
  | _ => none
/-- Where they stand. -/
def State.savedPa (s : State) (t : Target) : Option Nat :=
  (s.savedAt t).bind fun x => match s.accessImage x.1 x.2.1 .both x.2.2 with
    | .ok pa => some pa
    | _ => none
/-- Bytes written to a swapped-out team enter its swap slot or frame too (R319). -/
def State.toSaved (s : State) (t : Target) (bs : List Byte) : State :=
  match s.savedPa t with
  | some pa => s.homeWrite .outside pa bs
  | none => s
/-- The lines that accesses to some targets move at HBM where they are in no cache: those of memory, and those of the saved copies of
swapped-out teams, with the walks to these (R319, R321, R424). -/
def State.hbmLines (s : State) (l : List Target) : List Nat :=
  (l.flatMap fun t => match t with
    | .mem pa => [64 * (pa / 64)]
    | t => match s.savedAt t, s.savedPa t with
      | some x, some pa => (s.xlatReads x.1 x.2.1 x.2.2 ++ [pa]).map fun a => 64 * (a / 64)
      | _, _ => []).dedup

/-! ### Context images (R92, R93, R447) -/

/-- A number whose bit `i` is `f i`, for `i < n`. -/
def bitNat (n : Nat) (f : Nat → Bool) : Nat := (List.range n).foldl (fun m i => if f i then m + 2 ^ i else m) 0

/-- The decision code of a thread as line 17 holds it (R447). -/
def dcode3 (d : BitVec 6) : Nat :=
  if d = 0x17 then 5 else if d = 0x27 then 6 else if d = 0x37 then 7 else d.toNat % 8
def statusNum : Status → Nat
  | .never => 0
  | .live => 1
  | .exited => 2

/-- The PC word of a thread (R93). -/
def pcWord (t : Thread) : Nat := statusNum t.st * 2 ^ 62 + t.pc.toNat % 2 ^ 57
/-- The status word of a thread (R93). -/
def threadWord (t : Thread) (blocked : Bool) : Nat :=
  t.pred.toNat * 2 ^ 24 + t.flags.toNat * 2 ^ 18 + (if blocked then 2 ^ 17 else 0) + t.age.toNat

/-- The lanes of a group as they stood at the latest end of a run (R96): those of a run that has not committed stand as the round found
them, with its S registers and control state. -/
def Group.settledLane (g : Group) (t : Nat) : Thread :=
  match g.round with
  | none => g.lane t
  | some rd =>
    let busy (r : Option Run) : Bool := match r with
      | some r => !r.committed && r.active.getLsbD t
      | none => false
    if busy rd.a || busy rd.b then (rd.start[t]?).getD {} else g.lane t

/-- The bank of trap state in line 17. -/
def bankNat (b : Bank) : Nat :=
  b.tpc.toNat + b.taddr.toNat * 2 ^ 64 + b.tlanes.toNat * 2 ^ 128 + (b.tcause.toNat + b.tstate.toNat * 2 ^ 20) * 2 ^ 256

/-- Line 16: the group control line. -/
def controlLine (g : Group) : List Byte :=
  let s (n : Nat) : SCell := Table.get {} g.s n
  leBytes (bitNat 256 fun n => (s n).tag != .none) 32 ++ leBytes (g.prio.toNat * 4 + g.mark.toNat) 8 ++
    leBytes (bitNat 512 fun n => (s (n / 2)).t.getLsbD (n % 2)) 64 ++ leBytes 0 24
/-- Line 17: trap state and decision codes. -/
def trapLine (g : Group) : List Byte :=
  let word := g.level.toNat + (if g.flagV then 4 else 0) + g.flagLane.toNat * 8 + (g.flagPc.toNat % 2 ^ 57 / 8) * 2 ^ 10
  let codes := (List.range 128).foldl (fun m t => m + dcode3 (g.settledLane t).dcode * 2 ^ (3 * t)) 0
  leBytes (bankNat g.bank1 + bankNat g.bank2 * 2 ^ 288 + word * 2 ^ 576 + codes * 2 ^ 640) 128

/-- A line of a group's context image, with `v` vector and `x` interval registers (R92). -/
def imageLine (v x : Nat) (blocked : Nat → Bool) (g : Group) (line : Nat) : List Byte :=
  let lane := g.settledLane
  let perLane (k : Nat) (f : Thread → Nat) : List Byte := (List.range 32).flatMap fun i => leBytes (f (lane (32 * k + i))) 4
  if line < 16 then (List.range 16).flatMap fun i => leBytes (Table.get {} g.s (16 * line + i)).w.toNat 8
  else if line = 16 then controlLine g
  else if line = 17 then trapLine g
  else if line < 30 then
    let k := (line - 18) / 3
    let j := (line - 18) % 3
    if j = 2 then (List.range 32).flatMap fun i => leBytes (threadWord (lane (32 * k + i)) (blocked (32 * k + i))) 4
    else (List.range 16).flatMap fun i => leBytes (pcWord (lane (32 * k + 16 * j + i))) 8
  else if line < 32 then List.replicate 128 0
  else if line < 32 + 4 * v then perLane ((line - 32) % 4) fun t => (t.vreg ((line - 32) / 4)).w.toNat
  else if line < 32 + 4 * v + 12 * x then
    let m := line - 32 - 4 * v
    perLane (m % 12 / 3) fun t =>
      let c := t.xreg (m / 12)
      (if m % 3 = 0 then c.lo else if m % 3 = 1 then c.hi else c.h).toNat
  else
    let m := line - 32 - 4 * v - 12 * x
    (List.range 8).flatMap fun i =>
      let n := 8 * m + i
      leBytes (bitNat 128 fun t => if n < v then ((lane t).vreg n).t else ((lane t).xreg (n - v)).t) 16

/-- Bytes of an image. -/
def imageRead (v x : Nat) (blocked : Nat → Bool) (g : Group) (off n : Nat) : List Byte :=
  (List.range n).map fun i => ((imageLine v x blocked g ((off + i) / 128))[(off + i) % 128]?).getD 0

/-- The taint of the registers that bytes of an image hold. -/
def imageTaint (v x : Nat) (g : Group) (off n : Nat) : Bool :=
  (List.range n).any fun i =>
    let at_ := off + i
    let line := at_ / 128
    let lane (k : Nat) : Thread := g.settledLane (32 * k + at_ % 128 / 4)
    if line < 16 then (Table.get {} g.s (at_ / 8)).t.getLsbD (at_ % 8 / 4)
    else if line < 32 then false
    else if line < 32 + 4 * v then ((lane ((line - 32) % 4)).vreg ((line - 32) / 4)).t
    else if line < 32 + 4 * v + 12 * x then
      let m := line - 32 - 4 * v
      ((lane (m % 12 / 3)).xreg (m / 12)).t
    else false

/-- A word with byte `i` replaced. -/
def setByteOf (w i : Nat) (b : Byte) : Nat := w - (w / 256 ^ i % 256) * 256 ^ i + b.toNat * 256 ^ i

/-- One byte of a window write to an image (R317): S registers but for those with a pending tag, V registers; X lines discard. `whole` says
that the write covers the 32 bits that hold the byte. -/
def imageSetByte (v : Nat) (taint whole : Bool) (g : Group) (off : Nat) (b : Byte) : Group :=
  let line := off / 128
  if line < 16 then
    let n := off / 8
    let c := Table.get {} g.s n
    if c.tag = .pending then g
    else
      let h := if off % 8 < 4 then 1#2 else 2#2
      let t := if taint then c.t ||| h else if whole then c.t &&& ~~~h else c.t
      { g with s := Table.set {} g.s n { w := BitVec.ofNat 64 (setByteOf c.w.toNat (off % 8) b), tag := .none, t := t } }
  else if line < 32 ∨ 32 + 4 * v ≤ line then g
  else
    let n := (line - 32) / 4
    let put (th : Thread) : Thread :=
      let c := th.vreg n
      { th with v := Table.set {} th.v n { w := BitVec.ofNat 32 (setByteOf c.w.toNat (off % 4) b), t := taint || (c.t && !whole) } }
    { g with lanes := g.lanes.modify (32 * ((line - 32) % 4) + off % 128 / 4) put }

/-- One write to an image of scattered bytes, each with its offset; it clears the taint of the words that it covers where it is clean (R377,
R400). -/
def imageScatter (v : Nat) (taint : Bool) (g : Group) (l : List (Nat × Byte)) : Group :=
  let whole (off : Nat) : Bool := (List.range 4).all fun i => l.any fun x => x.1 == 4 * (off / 4) + i
  l.foldl (fun g x => imageSetByte v taint (whole x.1) g x.1 x.2) g
/-- Bytes with their places from an offset on. -/
def placed (off : Nat) (bs : List Byte) : List (Nat × Byte) := bs.zipIdx.map fun x => (off + x.2, x.1)
/-- A window write to an image. -/
def imageWrite (v : Nat) (taint : Bool) (g : Group) (off : Nat) (bs : List Byte) : Group := imageScatter v taint g (placed off bs)

/-- A group as windows read its image: its lanes as they stood at the latest end of a run, under the window stores that wait for the end of its
round (R317, R338). -/
def Group.shown (v : Nat) (g : Group) : Group :=
  if g.own.isEmpty then g
  else g.own.foldl (fun x w => imageWrite v w.2.2 x w.1 w.2.1)
    { g with lanes := (List.range g.lanes.length).map g.settledLane, round := none }

/-! ### Operand slots and accumulators (R279, R283, R315, R318) -/

def BfEngine.slot (e : BfEngine) (k : Nat) : BfSlot := Table.get {} e.slots k
def BfEngine.acc (e : BfEngine) (k : Nat) : BfAcc := Table.get {} e.accs k
def BfEngine.setSlot (e : BfEngine) (k : Nat) (x : BfSlot) : BfEngine := { e with slots := Table.put e.slots k x }
def BfEngine.setAcc (e : BfEngine) (k : Nat) (x : BfAcc) : BfEngine := { e with accs := Table.put e.accs k x }
def BfSlot.read (x : BfSlot) (side : Bool) (off n : Nat) : List Byte :=
  (List.range n).map fun i => Table.get 0 (if side then x.side else x.data) (off + i)
def BfSlot.write (x : BfSlot) (side : Bool) (off : Nat) (bs : List Byte) (taint : Bool) : BfSlot :=
  let x := { x with t := x.t || taint }
  if side then { x with side := setBytes x.side off bs } else { x with data := setBytes x.data off bs }

/-- The window of an accumulator (R315). -/
def BfAcc.byte (x : BfAcc) (off : Nat) : Byte :=
  if off < 0x20000 then BitVec.ofNat 8 ((Table.get 0 x.elems (off / 8)).toNat / 256 ^ (off % 8))
  else if off < 0x20002 then BitVec.ofNat 8 ((BitVec.ofInt 16 x.g).toNat / 256 ^ (off - 0x20000))
  else if off < 0x20004 then
    BitVec.ofNat 8 ((x.rows + (if x.tset then 256 else 0) + (if x.dirty then 512 else 0)) / 256 ^ (off - 0x20002))
  else if off < 0x20008 then 0
  else if off < 0x20011 then BitVec.ofNat 8 (x.T.toNat / 256 ^ (off - 0x20008))
  else 0
/-- A write to element words of the window sets DIRTY (R318). -/
def BfAcc.write (x : BfAcc) (off : Nat) (bs : List Byte) (taint : Bool) : BfAcc :=
  let put (m : Table (BitVec 50)) (i : Nat) : Table (BitVec 50) :=
    let k := (off + i) / 8
    Table.set 0 m k (BitVec.ofNat 50 (setByteOf (Table.get 0 m k).toNat ((off + i) % 8) ((bs[i]?).getD 0)))
  { x with elems := (List.range bs.length).foldl put x.elems, dirty := true, t := x.t || taint }

/-- A gang command (R297). -/
def BfCmd.gangs (c : BfCmd) : Bool :=
  match c.kind with
  | .inl (.stage _ _ _ _ gang _) => gang
  | _ => false
/-- The end of a holding, by BFREL or at the exit of the team (R276). -/
def BfCmd.ends (c : BfCmd) : Bool :=
  match c.kind with
  | .inr .release => true
  | _ => false
/-- The command that the engine works at: the one begun, else the first whose group does not wait in the latch (R284, R297), a gang
command of one that does, which arrives there a second time, or the end of the holding (R298). -/
def BfEngine.next (e : BfEngine) : Option BfCmd :=
  (e.queue.find? (·.begun)).or (e.queue.find? fun c => c.gangs || c.ends || !(match e.latch with
    | some l => l.parts.any fun p => p.g == c.g
    | none => false))
/-- The window accesses of a command take place at the engine of a core now (R285, R318): nothing stands before them there, or the place they
were accepted at has come, or they belong to the work in progress of that same engine. -/
def BfEngine.admits (e : BfEngine) (own : List Nat) : Bool :=
  e.queue.isEmpty || (match e.next with
    | some c => (match c.kind with
      | .inr (.winMark n) => own.contains n
      | _ => c.begun && own.contains c.serial)
    | none => false)
/-- A window access of an engine command arrives at an engine and takes its place in acceptance order (R318). -/
def State.markTurn (s : State) (core serial asid : Nat) (g : GRef) : State :=
  let e := s.bfOf core
  let mine (c : BfCmd) : Bool := match c.kind with
    | .inr (.winMark n) => n == serial
    | _ => false
  if e.queue.any mine then s
  else
    let c : BfCmd := { g := g, team := g.tref, asid := asid, serial := s.serials, fut := none, ctr := 0, kind := .inr (.winMark serial) }
    { s.setBf core { e with queue := e.queue ++ [c] } with serials := s.serials + 1 }
/-- A window access of a command holds a place in the order of an engine. -/
def BfEngine.marked (e : BfEngine) (own : List Nat) : Bool :=
  e.queue.any fun c => match c.kind with
    | .inr (.winMark n) => own.contains n
    | _ => false
/-- Where a window access that has been accepted, and waits, meets its bytes: the exit of its target turns it away no more (R319). One to an
engine stands as long as its place there. -/
def State.acceptedAt (s : State) (own : List Nat) (va : Word64) : Option Target :=
  ((s.arrived.find? fun a => own.contains a.serial && a.va == va).map (·.at_)).filter fun t => match t with
    | .slot c .. | .acc c .. => (s.bfOf c).marked own
    | _ => true
/-- The places that a command's window accesses hold are given up, once they have been made. -/
def State.unmark (s : State) (serial : Nat) : State :=
  let keep (c : BfCmd) : Bool := match c.kind with
    | .inr (.winMark n) => n != serial
    | _ => true
  let cut (e : BfEngine) : BfEngine :=
    if e.queue.all keep then e
    else if e.leaving && !e.queue.any keep then {} else { e with queue := e.queue.filter keep }
  { s with bf := s.bf.map fun p => (p.1, cut p.2) }

/-! ### Windows (R314 to R316) -/

/-- A team holds the engine of a core (R276). -/
def State.holdsBf (s : State) (core : Nat) (tm : TRef) : Bool :=
  let e := s.bfOf core
  e.holder == some tm && !e.leaving

/-- The checks of R316 on an access of `n` bytes at a window address by a grid: the target, or the cause of the first failing check. -/
def State.window (s : State) (grid : Nat) (va : Word64) (n : Nat) (write : Bool) : Except Nat Target :=
  let p := s.pkt grid
  let kind := bits va 61 3
  let tm : TRef := { grid := grid, team := bits va 29 32 }
  let off := bits va 0 29
  let group := bits va 23 6
  let qcore := bits va 27 2
  let lim : Nat :=
    match kind with
    | 1 => 128 * imageLines (pkVregs p (pkRoleOf p group)) (pkXregs p (pkRoleOf p group))
    | 2 => if va.getLsbD 26 then 512 else 32768
    | _ => 0x20020
  let low := if kind = 1 then bits va 0 23 else if kind = 2 then bits va 0 15 else bits va 0 21
  let reserved := (decide (kind = 2) && decide (bits va 20 6 ≠ 0)) || (decide (kind = 3) && decide (bits va 24 3 ≠ 0))
  if 4 ≤ kind ∨ reserved ∨ pkTeams p ≤ tm.team ∨ ((kind = 2 ∨ kind = 3) ∧ qcore ≠ 0 ∧ !pkQuad p) ∨
      (kind = 1 ∧ pkGroups p ≤ group) ∨ (kind ≠ 0 ∧ lim ≤ low) then .error 4
  else if kind ≠ 0 ∧ lim < low + n then .error 4
  else
    match s.team? tm with
    | none => .error 12
    | some t =>
      if t.exited then .error 12
      else if kind = 0 then
        let log := pkScratch p + 16 * pkLogScr p
        if off + n ≤ pkScratch p then .ok (.scratch tm off)
        else if max off (pkScratch p) < log then .error 5
        else .error 6
      else if kind = 1 then
        let line := low / 128
        let v := pkVregs p (pkRoleOf p group)
        let x := pkXregs p (pkRoleOf p group)
        if write && ((decide (16 ≤ line) && decide (line < 32)) || decide (32 + 4 * v + 12 * x ≤ line)) then .error 5
        else .ok (.image { grid := grid, team := tm.team, group := group } low)
      else
        let core := t.core + qcore
        if !s.holdsBf core tm then .error 5
        else if kind = 2 then
          if ((s.bfOf core).slot (bits va 15 5)).claimed then .ok (.slot core (bits va 15 5) (va.getLsbD 26) low) else .error 5
        else if write && decide (0x20000 ≤ low) then .error 5
        else .ok (.acc core (bits va 21 3) low)

/-! ### Bytes at a target -/

/-- A thread was blocked at the latest end of a run: it waits at a word, or its next run reads a pending future (R78, R317). -/
def State.blockedLane (s : State) (g : Group) (t : Nat) : Bool :=
  let th := g.settledLane t
  th.blocked || (th.live && pendingRead g (s.wordsAt g th.pc))

/-- What a read of `n` bytes at a target gives now, and its taint; memory is read at its home. -/
def State.readAt (s : State) (t : Target) (n : Nat) : List Byte × Bool :=
  match t with
  | .mem pa => (s.home.read pa n, s.home.tainted pa n)
  | .scratch tm a => ((s.team? tm).map fun x => (x.spRead a n, x.spTainted a n)).getD (List.replicate n 0, false)
  | .image g off =>
    match s.group? g with
    | none => (List.replicate n 0, false)
    | some x =>
      let p := s.pkt g.grid
      let shown := x.shown (pkVregs p x.role)
      (imageRead (pkVregs p x.role) (pkXregs p x.role) (s.blockedLane x) shown off n,
       imageTaint (pkVregs p x.role) (pkXregs p x.role) shown off n)
  | .slot c k sd off => (((s.bfOf c).slot k).read sd off n, ((s.bfOf c).slot k).t)
  | .acc c k off => ((List.range n).map fun i => ((s.bfOf c).acc k).byte (off + i), ((s.bfOf c).acc k).t)

/-- The bytes at a target are poisoned (R455). -/
def State.poisonAt (s : State) (t : Target) (n : Nat) : Bool :=
  match t with
  | .mem pa => s.poisoned pa n
  | .scratch tm a => ((s.team? tm).map fun x => x.spPoisoned a n).getD false
  | .image g off => ((s.group? g).map fun x => x.poison.contains (off / 128)).getD false
  | .slot c k _ _ => ((s.bfOf c).slot k).poison
  | .acc c k _ => ((s.bfOf c).acc k).poison

/-- The bytes of a write to an image that its registers take, with their offsets: those of S and V lines, but for an S register with a
pending tag (R248, R317). -/
def imageKeeps (v : Nat) (g : Group) (l : List (Nat × Byte)) : List (Nat × Byte) :=
  l.filter fun x =>
    let line := x.1 / 128
    if line < 16 then (Table.get {} g.s (x.1 / 8)).tag != .pending else decide (32 ≤ line) && decide (line < 32 + 4 * v)
/-- The register that holds a byte of an image is tainted. -/
def imageMark (g : Group) (off : Nat) : Group :=
  let line := off / 128
  if line < 16 then
    let c := Table.get {} g.s (off / 8)
    { g with s := Table.set {} g.s (off / 8) { c with t := c.t ||| (if off % 8 < 4 then 1#2 else 2#2) } }
  else
    let n := (line - 32) / 4
    { g with lanes := g.lanes.modify (32 * ((line - 32) % 4) + off % 128 / 4) fun th =>
        { th with v := Table.set {} th.v n { th.vreg n with t := true } } }
/-! ### Stores that run B does not see (R89, R322) -/

/-- A store word, by its number in its group, is one of run A of a round whose run B has still to execute. -/
def Round.hides (rd : Round) (word : Nat) : Bool :=
  (rd.b.isSome || rd.waitB.isSome) && decide (word / 64 = rd.begun) && decide (1 ≤ word % 64) && decide (word % 64 ≤ 32)
/-- What is left of a veil once another write of `n` bytes at a target has been made: none of the bytes that it covers; in the sector of a
scratchpad, or in the object, its taint is seen (R399). -/
def Veil.under (t : Target) (n : Nat) (taint : Bool) (v : Veil) : Option Veil :=
  let near : Bool := match t, v.at_ with
    | .scratch u a, .scratch w b => u == w && (sectorsOf a n).contains (b / 32)
    | .slot c k .., .slot d l .. => c == d && k == l
    | .acc c k _, .acc d l _ => c == d && k == l
    | _, _ => false
  if ((t.dist v.at_).map fun d => decide (d < n)).getD false then none
  else some { v with t := v.t || (near && taint) }
/-- A byte that run A has stored is veiled: what run B reads there is what stood before. -/
def Veil.add (l : List Veil) (v : Veil) : List Veil :=
  if l.any fun x => x.at_ == v.at_ then l.map fun x => if x.at_ = v.at_ then { x with put := v.put } else x else l ++ [v]
/-- A store of a word of a group is about to be made at a target: a store of run A is veiled for its run B, any other write is seen. -/
def State.veilFor (s : State) (g : GRef) (word : Nat) (t : Target) (bs : List Byte) (taint : Bool) : State :=
  let olds : List Veil := (bs.zipIdx).map fun x =>
    { at_ := t.shift x.2, put := x.1, old := ((s.readAt (t.shift x.2) 1).1.head?).getD 0, t := (s.readAt (t.shift x.2) 1).2 }
  let one (x : Group) (rd : Round) : List Veil :=
    if x.ref = g ∧ rd.hides word then olds.foldl Veil.add rd.veil else rd.veil.filterMap (Veil.under t bs.length taint)
  { s with groups := s.groups.map fun x => { x with round := x.round.map fun rd => { rd with veil := one x rd } } }

/-! ### Stores and writes at a target (R313, R317, R318, R336) -/

/-- A store to a scratchpad: applied, or held at an absent line (R313), or behind an earlier store of its group that is held (R336). -/
def State.spStore (s : State) (g : GRef) (tm : TRef) (a : Nat) (bs : List Byte) (taint : Bool) (word : Nat) : State :=
  match s.team? tm with
  | none => s
  | some t =>
    if s.heldBy g || (linesOf a bs.length).any (s.unready tm) then
      { s.setTeam { t with held := t.held ++ [{ n := s.serials, g := g, addr := a, bytes := bs, t := taint, word := word }] } with
        serials := s.serials + 1 }
    else ((s.veilFor g word (.scratch tm a) bs taint).setTeam ((t.spWrite a bs taint).spCovered g word a bs.length)).toSaved (.scratch tm a) bs

/-- A held store is made. -/
def State.makeHeld (s : State) (tm : TRef) (h : Held) : State :=
  match s.team? tm with
  | none => s
  | some t =>
    let t := (t.spWrite h.addr h.bytes h.t).spCovered h.g h.word h.addr h.bytes.length
    ((s.veilFor h.g h.word (.scratch tm h.addr) h.bytes h.t).setTeam { t with held := t.held.filter fun x => decide (x.n ≠ h.n) }).toSaved (.scratch tm h.addr) h.bytes
/-- The held stores whose lines have come are made, each group's in its order (R313, R336). -/
def State.applyHeld (s : State) : State := s.heldDue.foldl (fun s x => s.makeHeld x.1 x.2) s

/-- The number under which a write of an engine stands where store words are numbered: that of no word. -/
def State.engineWord (s : State) : Nat := 64 * s.serials
/-- One write by a group to scattered bytes of an image. -/
def State.putImage (s : State) (from_ : GRef) (word : Nat) (g : GRef) (l : List (Nat × Byte)) (taint : Bool) : State :=
  let s := l.foldl (fun s x => s.veilFor from_ word (.image g x.1) [x.2] taint) s
  match s.group? g with
  | none => s
  | some x =>
    let v := pkVregs (s.pkt g.grid) x.role
    (imageKeeps v x l).foldl (fun s b => s.toSaved (.image g b.1) [b.2]) (s.setGroup (imageScatter v taint x l))
/-- A write by a group to a target that is no memory, as it takes place there; `word` numbers its word. -/
def State.writeAt (s : State) (from_ : GRef) (word : Nat) (t : Target) (bs : List Byte) (taint : Bool) : State :=
  match t with
  | .mem _ => s
  | .scratch tm a => s.spStore from_ tm a bs taint word
  | .image g off => s.putImage from_ word g (placed off bs) taint
  | .slot c k sd off =>
    let s := s.veilFor from_ word t bs taint
    s.setBf c ((s.bfOf c).setSlot k (((s.bfOf c).slot k).write sd off bs taint))
  | .acc c k off =>
    let s := s.veilFor from_ word t bs taint
    s.setBf c ((s.bfOf c).setAcc k (((s.bfOf c).acc k).write off bs taint))
/-- A window store of run A to its group's own image is performed while run B has still to run: its registers take it as the round ends
(R317, R338). -/
def State.storeOwn (s : State) (g : GRef) (word off : Nat) (bs : List Byte) (taint : Bool) : State :=
  let s := s.veilFor g word (.image g off) bs taint
  match s.group? g with
  | none => s
  | some x => s.setGroup { x with own := x.own ++ [(off, bs, taint)] }
/-- The registers of a group whose runs have committed take those stores. -/
def State.takeOwn (s : State) (g : GRef) : State :=
  match s.group? g with
  | none => s
  | some x =>
    if x.own.isEmpty || !x.settled then s
    else x.own.foldl (fun s w => s.writeAt g 0 (.image g w.1) w.2.1 w.2.2) (s.setGroup { x with own := [] })

/-- The groups of a target take window writes between their runs (R317). -/
def State.betweenRuns (s : State) (g : GRef) : Bool :=
  ((s.group? g).map Group.settled).getD true

end Sys2Proof.Machine
end

