-- ==== Sys2Proof/Machine/LoadStore.lean ====
section
/-!
DEFINITION. Loads, stores, prefetch and atomics, opcode groups 7 and 8 (14_memory_instructions.md R345 to R362), the values that loads
return (13_phase_consistency.md R329 to R334), and TAINT (16_determinism.md R403).
-/
namespace Sys2Proof.Machine
open Sys2Proof

/-! ### The memory operand (R345, R346) -/

/-- The access size of a memory type. -/
def memSize (ty : Nat) : Nat := if ty = 12 then 1 else tyBits ty / 8

/-- The address of a lane, with the taint of the registers that form it. -/
def memAddr (o : OpF) (e : Env) (t z : Nat) (ix : Bool) (scale : Nat) : Val 64 :=
  let base := e.us o.a
  let i := e.v32 t o.b
  let index : Word64 := if ix then (i.w.signExtend 64) * BitVec.ofNat 64 scale else 0
  { w := base.w + index + BitVec.ofNat 64 z * o.c.signExtend 64, t := base.t || (ix && i.t) }
def loadAddr (o : OpF) (e : Env) (t z : Nat) : Val 64 := memAddr o e t z (o.bit 7) (2 ^ o.pos)

/-! ### The checks of an access (R347) -/

/-- How the checks of a lane end. -/
inductive Check where
  | ok (t : Target)
  /-- A load that cannot be performed at its target yet: whether its bytes are poisoned is not known (R347). -/
  | wait (t : Target)
  | fault (cause : Nat)
  | zero
  deriving DecidableEq, Repr, Inhabited
/-- The cause of a lane that fails. -/
def Check.cause? : Check → Option Nat
  | .fault k => some k
  | _ => none
/-- The target of a lane that has passed its checks so far. -/
def Check.target? : Check → Option Target
  | .ok t | .wait t => some t
  | _ => none

/-- The answer of an engine to a window read of the word in a lane, where one has come (R285). -/
def Env.probeAns (e : Env) (lane : Nat) : Option Answer :=
  e.r.probe.bind fun p => p.key.bind fun k => e.g.answers.find? fun a => a.key == k && a.lane == lane
/-- The word already waits at a target in a lane: the access has arrived there and its checks are made (R313, R319). -/
def Env.arrived (e : Env) (lane : Nat) (va : Word64) : Option Target :=
  e.r.probe.bind fun p => (p.lanes.find? fun x => x.1 == lane && x.2.1 == va).map (·.2.2)

/-- Boundary effects of a committed run A of the round have still to leave (R322). -/
def Group.runALeaves (g : Group) : Bool := (g.outbox.head?.map fun x => x.1 == .a).getD false
/-- The word is one of run B, and follows boundary effects of run A that have still to leave. -/
def Env.behindA (e : Env) : Bool := decide (e.b = .b) && e.g.runALeaves
/-- A load of `z` bytes can be performed at its target now: memory always, a scratchpad once no command has bytes to land in its lines, an
engine in the order in which it has accepted the access, and all but memory behind the group's held stores (R285, R313, R336). A load of
run B follows the boundary effects of run A of its round (R322). -/
def Env.ready (e : Env) (lane : Nat) (t : Target) (z : Nat) : Bool :=
  !e.behindA &&
  match t with
  | .mem _ => true
  | .scratch tm a => !e.s.heldBy e.g.ref && !(linesOf a z).any (e.s.unready tm)
  | .image .. => !e.s.heldBy e.g.ref
  | .slot c .. | .acc c .. =>
    !e.s.heldBy e.g.ref && (if (e.r.probe.bind (·.key)).isSome then (e.probeAns lane).isSome else (e.s.bfOf c).queue.isEmpty)

/-- What the bytes of a load that can be performed say: poison (R347), or the cause with which an engine answers it. -/
def Env.loadCause (e : Env) (lane : Nat) (t : Target) (z : Nat) : Nat :=
  match e.probeAns lane with
  | some a => a.code
  | none => if e.s.poisonAt t z then 8 else 0
/-- The last check of a lane's access: for a load that of its bytes. -/
def Env.checkBytes (e : Env) (need : Need) (lane : Nat) (t : Target) (z : Nat) : Check :=
  if need ≠ .read then .ok t
  else if !e.ready lane t z then .wait t
  else if e.loadCause lane t z ≠ 0 then .fault (e.loadCause lane t z) else .ok t

/-- Alignment, then the space, then translation, permission and, for a load, poison (R347). -/
def Env.check (e : Env) (space : Nat) (need : Need) (z : Nat) (lane : Nat) (va : Word64) : Check :=
  if va.toNat % z ≠ 0 then .fault 3
  else
    let load (t : Target) : Check := e.checkBytes need lane t z
    match space with
    | 0 =>
      match e.s.access e.g.core e.ctx need va with
      | .ok pa => load (.mem pa)
      | .fault c => .fault c
      | .peer .. => .fault 5
      | .zero => .zero
    | 1 => if va.toNat + z ≤ pkScratch e.pkt then load (.scratch e.g.ref.tref va.toNat) else .fault 6
    | _ =>
      match e.arrived lane va, e.s.window e.g.ref.grid va z (need ≠ .read) with
      | some t, _ => load t
      | none, .ok t => load t
      | none, .error c => .fault c

/-- The checks of every lane of an access: the lanes with their targets; a fault of the class of the lowest failing lane, whose lanes
are those that fail, with the table entries that the walks of the lanes read; or a wait, for pages that are zeroing, at a target, or for the
budget of a stack. -/
inductive Checked where
  | ok (l : List (Nat × Word64 × Target))
  | fault (cause : Nat) (addr : Word64) (lanes : LaneMask) (walks : List Nat)
  | stall (s : State)

/-- A window read of a slot or an accumulator enters its engine's queue (R285, R318). -/
def queueRead (n key : Nat) (e : Env) (l : Nat × Word64 × Target) : Env :=
  let enter (core : Nat) : Env :=
    let bf := e.s.bfOf core
    let c : BfCmd := { g := e.g.ref, team := e.g.ref.tref, asid := e.ctx.asid, serial := e.s.serials, fut := none, ctr := 0,
                       kind := .inr (.winRead l.2.2 n l.1 key) }
    { e with s := { e.s.setBf core { bf with queue := bf.queue ++ [c] } with serials := e.s.serials + 1 } }
  match l.2.2 with
  | .slot c .. | .acc c .. => enter c
  | _ => e

/-- A load waits at its targets or for a budget: the word is tried again, and its run gives up its issue slot meanwhile (R84, R313, R428;
log 66). Its reads of engine windows enter the engines' queues once, where a command stands before one of them. -/
def Env.waitAt (e : Env) (n : Nat) (l : List (Nat × Word64 × Target)) : State :=
  let p := e.r.probe.getD { key := none, lanes := [] }
  let key := p.key
  let busy := l.any fun x => match x.2.2 with
    | .slot c .. | .acc c .. => !(e.s.bfOf c).queue.isEmpty
    | _ => false
  if key.isNone && busy && !e.s.heldBy e.g.ref then
    let e' := l.foldl (queueRead n e.g.keys) e
    { e' with g := { e.g with keys := e.g.keys + 1 }, r := { e.r with probe := some { p with key := some e.g.keys, lanes := l } } }.close
  else { e with r := { e.r with probe := some { p with lanes := l } } }.close

/-- The outcome of an access of `z` bytes from the checks of its lanes, whose walks read the entries `walks`. Where some lane fails, the others
are decided first: a load that waits may still find poison at a lower lane (R347). -/
def Env.gather (e : Env) (z : Nat) (walks : List Nat) (r : List (Nat × Word64 × Check)) : Checked :=
  let waits := r.filter fun (_, _, c) => c == .zero
  let bad := r.filterMap fun (t, va, c) => c.cause?.map fun k => (t, va, k)
  let ats := r.filterMap fun (t, va, c) => c.target?.map fun x => (t, va, x)
  let late := r.any fun (_, _, c) => match c with
    | .wait _ => true
    | _ => false
  match waits, bad with
  | _ :: _, _ => .stall (waits.foldl (fun s (_, va, _) => s.startZero e.ctx va) e.s)
  | [], (_, va, k) :: _ =>
    if late then .stall (e.waitAt z ats)
    else if !e.s.linesOpen e.ctx.asid (pkClass e.pkt) walks then .stall e.s.bump
    else .fault k va (lanesMask (bad.map (·.1))) walks
  | [], [] => .ok ats
/-- The entries that the walks of an access read (R424): those of `.g` addresses that its core holds no translation for. -/
def Env.walksOf (e : Env) (space : Nat) (l : List (Nat × Word64)) : List Nat :=
  if space = 0 then (l.flatMap fun x => e.s.xlatReads e.g.core e.ctx x.2).dedup else []
/-- An environment whose walks have been counted (R428). -/
def Env.walked (e : Env) (walks : List Nat) : Env := { e with s := e.s.chargeLines e.ctx.asid (pkClass e.pkt) walks }
def Env.checkAll (e : Env) (space : Nat) (need : Need) (z : Nat) (l : List (Nat × Word64)) : Checked :=
  e.gather z (e.walksOf space l) (l.map fun (t, va) => (t, va, e.check space need z t va))

/-- The lines that a load moves at HBM where they are in no cache, with those of the walks that translate its addresses (R424, R428). -/
def Env.loadLines (e : Env) (l : List (Nat × Word64 × Target)) : List Nat :=
  (l.flatMap fun x => match x.2.2 with
    | .mem _ => e.s.xlatReads e.g.core e.ctx x.2.1
    | _ => []) ++ e.s.hbmLines (l.map (·.2.2))
/-- The wait of a load that has passed its checks: at its targets, and for the budgets of the stacks (R313, R321, R428). -/
def Env.loadWait (e : Env) (z : Nat) (r : List (Nat × Word64 × Target)) : Option State :=
  if !r.all fun x => e.ready x.1 x.2.2 z then some (e.waitAt z r)
  else if e.s.linesOpen e.ctx.asid (pkClass e.pkt) (e.loadLines r) then none else some (e.waitAt z r).bump
/-- The checks of a load: those of R347, and then its wait. -/
def Env.checkLoad (e : Env) (space z : Nat) (l : List (Nat × Word64)) : Checked :=
  match e.checkAll space .read z l with
  | .ok r => match e.loadWait z r with
    | none => .ok r
    | some s => .stall s
  | c => c

/-- A lane-class access: its outcome where the checks fail. -/
def lanesOr (e : Env) (c : Checked) (f : List (Nat × Word64 × Target) → WordOut) : WordOut :=
  match c with
  | .ok l => f l
  | .fault k a m w => .fault (e.walked w) k a m (if k = 4 then 1 else 0) {}
  | .stall s => .stall s
/-- A group-class access: TLANES is the active set. -/
def groupOr (e : Env) (c : Checked) (f : List (Nat × Word64 × Target) → WordOut) : WordOut :=
  match c with
  | .ok l => f l
  | .fault k a _ w => .fault (e.walked w) k a e.r.active (if k = 4 then 1 else 0) {}
  | .stall s => .stall s

/-! ### Scopes (R331, R332) -/

/-- A group is a member of the scope of a group: 1 TEAM, 2 CORE. -/
def inScope (sc : Nat) (of_ : GRef) (core : Nat) (g : GRef) (gcore : Nat) : Bool :=
  match sc with
  | 1 => of_.tref == g.tref
  | 2 => core == gcore
  | _ => false
/-- A release and an acquire on one core are linked (R331, R332, R334). -/
def linked (st : GStore) (acq : Nat) (h : GRef) (hcore : Nat) : Bool :=
  st.core == hcore && inScope st.rel st.g st.core h hcore && inScope acq h hcore st.g st.core

/-- A release that a linked acquire returned publishes the releasing group's stores up to it, and those published to that group (R332). -/
def State.publish (s : State) (st : GStore) (h : GRef) : State :=
  { s with stores := s.stores.map fun x =>
      if ((x.g == st.g && decide (x.sid ≤ st.sid)) || x.pubs.contains st.g) && !x.pubs.contains h
      then { x with pubs := x.pubs ++ [h] } else x }

/-! ### The value of a load (R329, R330, R332, R334, R336) -/

/-- A store covers a byte. -/
def GStore.covers (x : GStore) (pa : Nat) : Bool := decide (x.pa ≤ pa) && decide (pa < x.pa + x.bytes.length)
def GStore.at (x : GStore) (pa : Nat) : Byte := (x.bytes[pa - x.pa]?).getD 0

/-- The scope of a FENCE of more than its group. -/
def fenceScope : Instr → Option Nat
  | .fence o => if o.low2 = 0 then none else some o.low2
  | _ => none
/-- The scopes of the FENCEs that follow the word on its straight path, up to the next control transfer, at most `n` words on. -/
def State.fencesFrom (s : State) (core : Nat) (c : Context) : Nat → Word64 → List Nat
  | 0, _ => []
  | n + 1, pc =>
    match s.fetch core c pc with
    | .word w _ =>
      match decode w with
      | .ok i => if isControl i then [] else (fenceScope i).toList ++ s.fencesFrom core c n (pc + 8)
      | .error _ => []
    | _ => []
/-- Where a lane may go on behind a word at `pc`: none where it may be anywhere. -/
def nextPcs (pc : Word64) (i : Instr) : Option (List Word64) :=
  let jump (o : OpI) (stays : Bool) : Option (List Word64) := some ((pc + 8 * immOf o) :: if stays then [pc + 8] else [])
  match i with
  | .bra o => jump o o.ge
  | .bru o => jump o (decide (o.d ≠ 0))
  | .call o => jump o o.ge
  | .exit o => some (if o.ge then [pc + 8] else [])
  | i => if isControl i then none else some [pc + 8]
/-- The scopes of the FENCEs that some lanes may come to by any path, of at most `n` words in all; beyond that bound, and behind an indirect
transfer, any may stand. -/
def State.fencesAhead (s : State) (core : Nat) (c : Context) : Nat → List Word64 → List Word64 → List Nat
  | _, [], _ => []
  | 0, _ :: _, _ => [1, 2]
  | n + 1, pc :: rest, seen =>
    if seen.contains pc then s.fencesAhead core c n rest seen
    else match s.fetch core c pc with
      | .word w _ =>
        match decode w with
        | .ok i => match nextPcs pc i with
          | none => [1, 2]
          | some l => (fenceScope i).toList ++ s.fencesAhead core c n (l ++ rest) (pc :: seen)
        | .error _ => s.fencesAhead core c n rest (pc :: seen)
      | _ => s.fencesAhead core c n rest (pc :: seen)
/-- The scopes at which a load takes the unposted releases of other groups: its own as an acquire, and those of the FENCEs that its group goes
on to (R332, R333): the FENCEs of its straight path, and of those that the group may come to behind a control transfer, any, for which
of them it will come to nothing says yet: a free choice (log 20). -/
def lookScopes (e : Env) (acq : Nat) : List Nat :=
  if e.s.stores.any fun x => x.seq.isNone && decide (0 < x.rel) && x.g != e.g.ref then
    let ahead := e.s.fencesAhead e.g.core e.ctx 64 ((e.r.at_ + 8) :: (e.g.lanes.filter Thread.live).map (·.pc)) []
    acq :: (e.s.fencesFrom e.g.core e.ctx 64 (e.r.at_ + 8) ++ ahead.dedup.filter fun k => decide (Config.choice (e.s.tick + k) % 2 = 0))
  else [acq]
/-- A store of run A of the round in which a run B executes: its loads do not see it (R89, R322). -/
def Env.hidden (e : Env) (x : GStore) : Bool := decide (e.b = .b) && x.g == e.g.ref && decide (e.rd.sids ≤ x.sid)
/-- An unposted store that a load may return (R329, R332); `scopes` are those at which it acquires. -/
def visible (e : Env) (scopes : List Nat) (x : GStore) : Bool :=
  x.seq.isNone && !e.hidden x &&
    (x.g == e.g.ref || x.pubs.contains e.g.ref || (decide (0 < x.rel) && x.core == e.g.core &&
      scopes.any fun k => linked x k e.g.ref e.g.core))
/-- The unposted candidates of R329 for a byte. -/
def candidate (e : Env) (scopes : List Nat) (pa : Nat) (x : GStore) : Bool := x.covers pa && visible e scopes x
/-- The latest in issue order. -/
def latest (l : List GStore) : Option GStore := l.getLast?

/-- A byte of a load: its value, and the store it comes from where that is one of those issued. -/
structure Got where
  byte : Byte
  from_ : Option GStore
  last : Nat
  deriving DecidableEq, Repr, Inhabited

/-- The posted stores of the group, or published to it, that bound a prefix from below (R329). -/
def floorWhere (e : Env) (touches : GStore → Bool) : Nat :=
  e.s.stores.foldl (fun m x => match x.seq with
    | some n => if touches x && !e.hidden x && (x.g == e.g.ref || x.pubs.contains e.g.ref) then max m n else m
    | none => m) 0
/-- The bound for a byte. -/
def floorOf (e : Env) (pa : Nat) : Nat := floorWhere e (·.covers pa)
/-- A store touches the sector of a byte. -/
def GStore.inSector (pa : Nat) (x : GStore) : Bool := (sectorsOf x.pa x.bytes.length).contains (pa / 32)

/-- The prefix of the home order that a plain load of a line sees: its view, or, where writes stand beyond it, any prefix not shorter
(log 4). -/
def prefixOf (e : Env) (pa : Nat) : Nat :=
  let v := e.s.viewOf e.g.core (pa / 64)
  if e.s.home.lineLast (pa / 64) ≤ v then e.s.home.seq
  else v + Config.choice e.s.tick % (e.s.home.seq - v + 1)

/-- The stores that the run's own words hold for the boundary, in program order (R82). -/
def Env.buffered (e : Env) : List StoreReq := e.r.effects.flatMap fun f => match f with
  | .stores l _ => l
  | _ => []
/-- A byte as the run's own buffered stores leave it, where one covers it (R82). -/
def ownByte (e : Env) (t : Target) : Option Byte :=
  (e.buffered.filterMap fun q => (q.at_.dist t).bind fun d => q.bytes[d]?).getLast?

/-- The prefix of the home order of some bytes that a load of run B sees, where run A of its round has posted to one of them: without the
writes at its end that are run A's (R89, R322; log 20). -/
def Env.cutWhere (e : Env) (of_ : Nat → Bool) (n : Nat) : Nat :=
  (e.s.home.past.reverse.foldl (fun (r : Nat × Bool) p =>
    if !r.2 || !of_ p.pa || decide (r.1 < p.seq) then r
    else if e.s.stores.any fun x => x.seq == some p.seq && e.hidden x then (p.seq - 1, true)
    else (r.1, false)) (n, decide (e.b = .b))).1
/-- The prefix for one byte. -/
def Env.cutTo (e : Env) (n pa : Nat) : Nat := e.cutWhere (fun a => a == pa) n
/-- One byte under R329, with the prefix `n`. -/
def getByte (e : Env) (scopes : List Nat) (n pa : Nat) : Got :=
  match ownByte e (.mem pa) with
  | some b => { byte := b, from_ := none, last := 0 }
  | none =>
    match latest (e.s.stores.filter (candidate e scopes pa)) with
    | some x => { byte := x.at pa, from_ := some x, last := 0 }
    | none =>
      let n := e.cutTo n pa
      let w := e.s.home.lastWrite n pa
      { byte := e.s.home.byteAt n pa, last := w
        from_ := e.s.stores.find? fun x => x.seq == some w && x.covers pa }

/-- The bit of a sector once some stores, each an address, a length and a taint, are on top of it (R400). -/
def storesTaint (k : Nat) (b : Bool) (l : List (Nat × Nat × Bool)) : Bool :=
  l.foldl (fun b x =>
    if x.1 + x.2.1 ≤ 32 * k ∨ 32 * k + 32 ≤ x.1 then b
    else if x.2.2 then true
    else if x.1 ≤ 32 * k ∧ 32 * k + 32 ≤ x.1 + x.2.1 then false else b) b
/-- The taint that a load of `.g` finds: that of the sectors it reads, with the unposted stores it may return and the run's own on top of
what the prefix of each sector holds, which takes in the group's own posted stores to any byte of it (R349, R399, R400). -/
def loadTaint (e : Env) (scopes : List Nat) (k pa n : Nat) : Bool :=
  let issued := (e.s.stores.filter (visible e scopes)).map fun x => (x.pa, x.bytes.length, x.t)
  let own := e.buffered.filterMap fun q => match q.at_ with
    | .mem a => some (a, q.bytes.length, q.t)
    | _ => none
  (sectorsOf pa n).any fun j =>
    let upTo := e.cutWhere (fun a => a / 32 == j) (max k (floorWhere e (GStore.inSector (32 * j))))
    storesTaint j (e.s.home.taintedAt upTo (32 * j)) (issued ++ own)

/-- A read of `n` bytes of `.g` by a lane: plain (acq 0), an acquire at a scope, or a read at the home; `scopes` are those at which it takes
unposted releases. -/
def readMem (e : Env) (acq : Nat) (scopes : List Nat) (home : Bool) (pa n : Nat) : Env × List Byte × Bool :=
  let e := if home then { e with s := e.s.postLine e.g.ref (pa / 64) } else e
  let bytes := (List.range n).map (pa + ·)
  let k := if home then e.s.home.seq else prefixOf e pa
  let got := bytes.map fun b => getByte e scopes (max k (floorOf e b)) b
  let s := got.foldl (fun s x => s.growView e.g.core (pa / 64) x.last) e.s
  let s := if home then s.growView e.g.core (pa / 64) (s.home.lineLast (pa / 64)) else s
  let froms := got.filterMap (·.from_)
  let s := froms.foldl (fun s x => if linked x acq e.g.ref e.g.core then s.publish x e.g.ref else s) s
  let seen := (froms.filter fun x => decide (0 < x.rel)).map (·.sid)
  let s := s.chargeLine e.ctx.asid (pkClass e.pkt) pa
  ({ e with s := s.bump, g := { e.g with seen := (e.g.seen ++ seen).dedup } }, got.map (·.byte), loadTaint e scopes k pa n)

/-- What a target that is no memory gives to a load: run B does not see what run A of its round has stored there (R89, R322). `r` is what stands
there, with its taint. -/
def Env.unveiled (e : Env) (t : Target) (r : List Byte × Bool) : List Byte × Bool :=
  let lifted (i : Nat) (b : Byte) : Option Veil := if e.b = .b then e.rd.veil.find? fun v => v.at_ == t.shift i && v.put == b else none
  if r.1.zipIdx.all fun x => (lifted x.2 x.1).isNone then r
  else (r.1.zipIdx.map fun x => ((lifted x.2 x.1).map (·.old)).getD x.1,
        r.1.zipIdx.any fun x => ((lifted x.2 x.1).map (·.t)).getD r.2)
/-- The run's own bytes over those a target gives. -/
def overlay (e : Env) (t : Target) (l : List Byte) : List Byte :=
  (List.range l.length).map fun i => (ownByte e (t.shift i)).getD ((l[i]?).getD 0)
/-- The taint of `n` bytes at a target, of which `b` is what the target gives, with the run's own stores on top: sector by sector in a
scratchpad (R399), else as a whole. -/
def overlayTaint (e : Env) (t : Target) (n : Nat) (b : Bool) : Bool :=
  match t with
  | .scratch tm a =>
    let own := e.buffered.filterMap fun q => match q.at_ with
      | .scratch u c => if u = tm then some (c, q.bytes.length, q.t) else none
      | _ => none
    let veiled (k : Nat) : Option Veil := if e.b = .b then e.rd.veil.find? fun v => match v.at_ with
      | .scratch u c => u == tm && decide (c / 32 = k)
      | _ => false else none
    (sectorsOf a n).any fun k =>
      storesTaint k (((veiled k).map (·.t)).getD (((e.s.team? tm).map fun x => Table.get false x.spTaint k).getD false)) own
  | t => b || (List.range n).any fun i => e.buffered.any fun q => q.t && (((q.at_.dist (t.shift i)).map fun d => decide (d < q.bytes.length)).getD false)

/-- The load of one lane, whose target is ready: from memory, from the engine's answer, or from the target as it stands. -/
def loadLane (acq : Nat) (scopes : List Nat) (home : Bool) (n : Nat) (acc : Env × List LoadLane) (l : Nat × Word64 × Target) : Env × List LoadLane :=
  let (e, done) := acc
  let give (e : Env) (bs : List Byte) (t : Bool) : Env × List LoadLane :=
    (e, done ++ [{ lane := l.1, w := BitVec.ofNat 64 (leNat bs), t := t, ct := false }])
  match l.2.2 with
  | .mem pa =>
    let e := { e with s := e.s.chargeLines e.ctx.asid (pkClass e.pkt) (e.s.xlatReads e.g.core e.ctx l.2.1) }
    let r := readMem e acq scopes home pa n
    give r.1 r.2.1 r.2.2
  | at_ =>
    let r := match e.probeAns l.1 with
      | some a => (leBytes a.w.toNat n, a.t)
      | none => e.s.readAt at_ n
    let r := e.unveiled at_ r
    let e := { e with s := e.s.chargeLines e.ctx.asid (pkClass e.pkt) (e.s.hbmLines [at_]) }
    give e (overlay e at_ r.1) (overlayTaint e at_ n r.2)

/-- The lanes of a load, performed in ascending order when the word executes (R322), with the taint of their registers. -/
def loadAll (e : Env) (acq : Nat) (home : Bool) (n : Nat) (ats : Nat → Bool) (l : List (Nat × Word64 × Target)) : Env × List LoadLane :=
  let r := l.foldl (loadLane acq (lookScopes e acq) home n) (e, [])
  (r.1, r.2.map fun x => { x with ct := e.det && (ats x.lane || (e.th x.lane).ct || home) })

/-! ### LD and LDU (R348, R349) -/

/-- The acquire scope of an ordering variant: TEAM in a quad team also acts on one core (R334). -/
def acqOf (ord : Nat) : Nat := if ord = 3 then 1 else if ord = 4 then 2 else 0
/-- The variants that read at the home: .fresh, and .acq.team in a quad team (R334). -/
def atHome (e : Env) (ord : Nat) : Bool := ord == 1 || (ord == 3 && e.team.quad)

/-- A quad team's LD.ACQ.team renews the core before the group's next load (R334). -/
def renewIf (b : Bool) (e : Env) : Env := if b then { e with s := e.s.renew e.g.core } else e

def execLd (o : OpF) (s : State) : Host.Outcome State Fault Refusal :=
  word o.rb s fun e =>
    let z := memSize o.ty
    lanesOr e (e.checkLoad o.space z ((e.setE o).map fun t => (t, (loadAddr o e t z).w))) fun l =>
      let home := o.space == 0 && atHome e o.cond
      let (e', ls) := loadAll e (if o.space = 0 then acqOf o.cond else 0) home z (fun t => (loadAddr o e t z).t) l
      .retire (renewIf (home && o.cond == 3) e') { defer := [.load o.d.toNat o.ty o.cv ls] }

def execLdu (o : OpF) (s : State) : Host.Outcome State Fault Refusal :=
  word o.rb s fun e =>
    let z := memSize o.ty
    let t := (e.active.head?).getD 0
    let a := memAddr o e t z false 1
    groupOr e (e.checkLoad o.space z [(t, a.w)]) fun l =>
      let home := o.space == 0 && atHome e o.cond
      let (e', ls) := loadAll e (if o.space = 0 then acqOf o.cond else 0) home z (fun _ => a.t || e.anyCt) l
      .retire (renewIf (home && o.cond == 3) e')
        { defer := ls.map fun x => .loadu o.d.toNat o.ty o.cv x e.active }

/-! ### ST and STU (R350) -/

/-- The bytes a store puts, with the flags of its conversion. -/
def storeBytes (o : OpF) (v : Word64) : List Byte × Flags :=
  let z := memSize o.ty
  if o.cv then
    let r := convert o.ty 8 (rmOf o) (v.toNat % 2 ^ 32)
    (leBytes r.1 z, r.2)
  else if o.ty = 12 then (leBytes (v.toNat % 64) z, 0)
  else (leBytes v.toNat z, 0)

/-- The number of the word within its group: its round, run and place. -/
def Env.wordNo (e : Env) : Nat := 64 * e.rd.begun + (if e.b = .b then 32 else 0) + e.r.pos + 1
/-- The variant that a store carries where it has an effect (R350). -/
def ordOf (o : OpF) : Nat := if o.space = 0 ∧ o.cond ≠ 2 then o.cond else 0

def execSt (o : OpF) (s : State) : Host.Outcome State Fault Refusal :=
  word o.rb s fun e =>
    let z := memSize o.ty
    lanesOr e (e.checkAll o.space .write z ((e.setE o).map fun t => (t, (loadAddr o e t z).w))) fun l =>
      let reqs := l.map fun (t, va, at_) =>
        let v := e.vsrc t o.memWide o.d
        ({ lane := t, at_ := at_, va := va, bytes := (storeBytes o v.w).1, ord := ordOf o, t := e.dt t v.t, word := e.wordNo } : StoreReq)
      let flags := l.map fun (t, _, _) => ({ lane := t, raise := (storeBytes o (e.vsrc t o.memWide o.d).w).2 } : LaneWrite)
      .retire e { lanes := flags, effs := [.stores reqs false] }

def execStu (o : OpF) (s : State) : Host.Outcome State Fault Refusal :=
  word o.rb s fun e =>
    let z := memSize o.ty
    let t := (e.active.head?).getD 0
    groupOr e (e.checkAll o.space .write z [(t, (memAddr o e t z false 1).w)]) fun l =>
      let v := e.us o.d
      let b := storeBytes o v.w
      let reqs := l.map fun (t, va, at_) =>
        ({ lane := t, at_ := at_, va := va, bytes := b.1, ord := ordOf o, t := e.ut v.t, word := e.wordNo } : StoreReq)
      .retire e { lanes := e.active.map fun t => { lane := t, raise := b.2 }, effs := [.stores reqs true] }

/-! ### PREF and TAINT (R351, R403) -/

/-- PREF moves lines between caches, which changes no value (R309, R351): the lines count against the budget, and the PC moves. -/
def execPref (o : OpF) (s : State) : Host.Outcome State Fault Refusal :=
  word o.rb s fun e => .retire (e.prefetch ((e.setE o).map fun t => (loadAddr o e t 64).w)) {}

/-- What TAINT tests in a lane. -/
def taintOf (o : OpF) (e : Env) (t : Nat) : Bool :=
  match o.low2 with
  | 0 => (e.v32 t o.a).t
  | 1 => (e.v64 t o.a).t
  | 2 => ((e.th t).xreg o.a.toNat).t
  | _ => (e.th t).ct
def execTaint (o : OpF) (s : State) : Host.Outcome State Fault Refusal :=
  laneFixed o (fun e t => e.pushP t (o.bit 8) (e.det && taintOf o e t) false) s

/-! ### Atomics (R352 to R356, R361) -/

/-- The access size of an atomic. -/
def atomSize (o : OpF) : Nat := if o.opn = 11 then 4 else tyBits o.ty / 8
/-- R354: what a system-scope atomic on system memory accepts. -/
def pcieAtomic (o : OpF) : Bool := decide (o.opn = 0) || decide (o.opn = 6) || decide (o.opn = 7)

/-- The checks of an atomic in a lane: those of R347, and the permission fault of R354. -/
def Env.atomCheck (e : Env) (o : OpF) (t : Nat) (va : Word64) : Check :=
  match e.check (if o.bit 3 then 1 else 0) .both (atomSize o) t va with
  | .ok (.mem pa) => if isSystem pa && decide (o.pos = 2) && !pcieAtomic o then .fault 5 else .ok (.mem pa)
  | c => c
def Env.checkAtom (e : Env) (o : OpF) (l : List (Nat × Word64)) : Checked :=
  e.gather (atomSize o) (e.walksOf (if o.bit 3 then 1 else 0) l) (l.map fun (t, va) => (t, va, e.atomCheck o t va))

/-- The request of one lane. -/
def atomReq (o : OpF) (e : Env) (key : Option Nat) (v cmp : Val 64) (tt : Bool) (l : Nat × Word64 × Target) : AtomReq :=
  { g := e.g.ref, lane := l.1, core := e.g.core, key := key, at_ := l.2.2, va := l.2.1, size := atomSize o, op := o.opn, ty := o.ty,
    rm := rmOf o, scope := o.pos, det := e.det && o.bit 4, v := v.w, cmp := cmp.w, t := tt }

/-- The address of an atomic's lane (R352). -/
def atomAddr (o : OpF) (e : Env) (t : Nat) : Val 64 :=
  let base := e.us o.a
  let i := e.v32 t o.b
  let z := atomSize o
  { w := base.w + (if o.bit 2 then (i.w.signExtend 64) * BitVec.ofNat 64 z else 0), t := base.t || (o.bit 2 && i.t) }

/-- ATOM and RED: the requests of the lanes of E. -/
def laneAtom (o : OpF) (returns : Bool) (s : State) : Host.Outcome State Fault Refusal :=
  word o.rb s fun e =>
    lanesOr e (e.checkAtom o ((e.setE o).map fun t => (t, (atomAddr o e t).w))) fun l =>
      let key := e.g.keys
      let req (x : Nat × Word64 × Target) : AtomReq :=
        let v := e.vsrc x.1 o.wide o.c
        let c : Val 64 := if returns ∧ o.opn = 7 then e.vsrc x.1 o.wide o.d else { w := 0 }
        atomReq o e (if returns then some key else none) v c (e.dt x.1 (v.t || c.t)) x
      let e' := { e with g := { e.g with keys := key + 1 } }
      let lanes := l.map fun x => (x.1, e.dt x.1 (atomAddr o e x.1).t)
      let blk : List Effect := if returns && e.det && o.bit 4 then [.block (e.r.pos + 1) (.det key e.pc) (l.map (·.1))] else []
      .retire e' { defer := if returns then [.atom o.d.toNat (if o.opn = 11 then 1 else o.ty) key lanes] else []
                   effs := .atoms (l.map req) false :: blk }
def execAtom (o : OpF) (s : State) := laneAtom o true s
def execRed (o : OpF) (s : State) := laneAtom o false s

def execAtomu (o : OpF) (s : State) : Host.Outcome State Fault Refusal :=
  word o.rb s fun e =>
    let t := (e.active.head?).getD 0
    groupOr e (e.checkAtom o [(t, (e.us o.a).w)]) fun l =>
      let key := e.g.keys
      let cut (x : Val 64) : Val 64 := if o.wide then x else { x with w := x.w &&& 0xFFFFFFFF#64 }
      let v := cut (e.us o.c)
      let c : Val 64 := if o.opn = 7 then cut (e.us o.d) else { w := 0 }
      let req := l.map (atomReq o e (some key) v c (e.ut (v.t || c.t)))
      let blk : List Effect := if e.det && o.bit 4 then [.block (e.r.pos + 1) (.det key e.pc) e.active] else []
      .retire { e with g := { e.g with keys := key + 1 } }
        { defer := [.atomu o.d.toNat (if o.opn = 11 then 1 else o.ty) key t (e.ut (e.us o.a).t) e.active], effs := .atoms req true :: blk }

end Sys2Proof.Machine
end

