-- ==== Sys2Proof/Machine/Atomics.lean ====
section
/-!
DEFINITION. What a press unit does with an atomic (R353 to R357), and the deterministic holding buffers (R358 to R362, R411).
-/
namespace Sys2Proof.Machine
open Sys2Proof

/-- The result of an operation and its flags (R353). -/
def atomResult (op ty rm old v cmp : Nat) : Nat × Flags :=
  let w := if op = 11 then 32 else tyBits ty
  let a := BitVec.ofNat w old
  let b := BitVec.ofNat w v
  match op with
  | 0 => ((a + b).toNat, 0)
  | 1 => ((minI (signedTy ty) w a b).toNat, 0)
  | 2 => ((maxI (signedTy ty) w a b).toNat, 0)
  | 3 => ((a &&& b).toNat, 0)
  | 4 => ((a ||| b).toNat, 0)
  | 5 => ((a ^^^ b).toNat, 0)
  | 6 => (b.toNat, 0)
  | 7 => (if a.toNat = cmp then b.toNat else a.toNat, 0)
  | 8 => fAdd f32 rm (u32 a.toNat) (u32 b.toNat)
  | 9 => fMinMax f32 false a.toNat b.toNat
  | 10 => fMinMax f32 true a.toNat b.toNat
  | _ => (fmaxiWinner a.toNat b.toNat, 0)

/-- The entry that an access folds into a digest (R406): address word and data word. -/
def digestEntry (va : Word64) (size : Nat) (atomic : Bool) (data : Nat) : List Word64 :=
  [BitVec.ofNat 64 (va.toNat % 2 ^ 57 + (if atomic then 2 ^ 60 else 0) + size.log2 * 2 ^ 61), BitVec.ofNat 64 data]

/-- A thread's digest takes an entry, in a deterministic grid (R396, R406). -/
def Group.fold (g : Group) (det : Bool) (lane : Nat) (l : List Word64) (t : Bool) : Group :=
  if !det then g else
  { g with lanes := g.lanes.modify lane fun th => { th with digest := crcWords th.digest l, digT := th.digT || t || th.ct } }

def State.foldDigest (s : State) (gr : GRef) (lane : Nat) (l : List Word64) (t : Bool) : State :=
  match s.group? gr with
  | none => s
  | some g => s.setGroup (g.fold (s.det gr.grid) lane l t)

/-- The old value at an atomic's target, and its taint. -/
def AtomReq.old (q : AtomReq) (s : State) : Nat × Bool :=
  let r := s.readAt q.at_ q.size
  (leNat r.1, r.2)

/-- The taint mode of an atomic's write (R356, R400, R402). -/
def AtomReq.mode (q : AtomReq) (s : State) (early : Bool) : TaintMode :=
  if s.det q.g.grid then .det (q.t || early || !q.det) else .outside

/-- The context of a group's grid, and the lines that an access of the group to memory moves: those of its walk and its own (R424, R428). -/
def State.memPath (s : State) (g : GRef) (va : Word64) (pa : Nat) : Context × List Nat :=
  let c := (s.gridCtx? g.grid).getD { asid := 0, desc := 0 }
  (c, s.pathLines (((s.group? g).map (·.core)).getD 0) c va pa)
/-- An access of a group's grid to memory is admitted at the stacks of its lines (R428). -/
def State.memOpen (s : State) (g : GRef) (va : Word64) (pa : Nat) : Bool :=
  s.linesOpen (s.memPath g va pa).1.asid (s.classOf g.grid) (s.memPath g va pa).2
/-- The lines of such an access are moved. -/
def State.memCharge (s : State) (g : GRef) (va : Word64) (pa : Nat) : State :=
  s.chargeLines (s.memPath g va pa).1.asid (s.classOf g.grid) (s.memPath g va pa).2

/-- An atomic is performed: its write is made at the home or the scratchpad, and a returning one is answered; none where its line is
poisoned (R356). -/
def performAtom (s : State) (q : AtomReq) (early : Bool) : Option (State × Option Answer) :=
  if s.poisonAt q.at_ q.size then none
  else
    let (o, ot) := q.old s
    let (n, fl) := atomResult q.op q.ty q.rm o q.v.toNat q.cmp.toNat
    let t := s.det q.g.grid && (ot || q.t || early || !q.det)
    let bs := leBytes n q.size
    let s1 := match q.at_ with
      | .mem pa =>
        let s := if q.key.isSome then s.growView q.core (pa / 64) (s.home.lineLast (pa / 64)) else s
        (s.memCharge q.g q.va pa).homeWrite (q.mode s early) pa bs
      | at_ => s.writeAt q.g 0 at_ bs (s.det q.g.grid)
    some (s1, q.key.map fun k => { key := k, lane := q.lane, w := BitVec.ofNat 64 o, raise := fl, t := t })

/-- The kill of a grid whose atomic met poison (R356), recorded at the group that issued it (R452). -/
def State.killPoison (s : State) (g : GRef) : State :=
  match s.group? g with
  | some x => s.killAt x 8
  | none => s.killTeamAt g.tref 8

/-! ### Deterministic batches (R358 to R361) -/

/-- The slice that is the home of an address (R307). System memory counts as one slice more, at the host link's port, with as many address
entries and as much sort area: the spec gives the port neither. DESIGN CHOICE (R308, R358, R411; log 78). -/
def sliceOf (pa : Nat) : Nat := if isSystem pa then 192 else pa / 2 ^ 39 * 24 + pa % 2 ^ 39 / 4096 % 24

/-- Updates in the order of their issuers, those of one lane in group order. -/
def sortUpdates : List HeldUpd → List HeldUpd
  | [] => []
  | u :: rest =>
    let rec insert (u : HeldUpd) : List HeldUpd → List HeldUpd
      | [] => [u]
      | x :: l => if u.issuer ≤ x.issuer then u :: x :: l else x :: insert u l
    insert u (sortUpdates rest)

/-- The stores of the update's group to its line that were issued before it are posted (R325, R355). -/
def State.postBefore (s : State) (u : HeldUpd) : State :=
  match u.req.at_ with
  | .mem pa => s.postWhere fun st => decide (st.g = u.req.g) && decide (st.pa / 64 = pa / 64) && decide (st.sid < u.before)
  | _ => s

/-- A batch is applied one update at a time; a poisoned line kills the grid (R362). -/
def applyUpdates (early : Bool) (s : State) : List HeldUpd → State × List (GRef × Answer)
  | [] => (s, [])
  | u :: rest =>
    match performAtom (s.postBefore u) u.req early with
    | none => (s.killPoison u.req.g, [])
    | some (s, a) =>
      let (s, l) := applyUpdates early s rest
      (s, (a.map fun a => (u.req.g, a)).toList ++ l)

/-- A batch applied before its barrier: its sectors are tainted, and its answers wait for the release (R360, R361). -/
def applyEarly (s : State) (l : List HeldUpd) : State :=
  let (s, as) := applyUpdates true s (sortUpdates l)
  { s with early := s.early ++ as.map fun (g, a) => { g := g, ans := a } }

/-- The held batches of a grid, one after another, with their answers; those left once a poisoned line has killed the grid are discarded
(R356, R362). -/
def applyHolds (grid : Nat) (s : State) : List Hold → State × List (GRef × Answer)
  | [] => (s, [])
  | h :: rest =>
    if ((s.grid? grid).map (·.kill.isSome)).getD false then (s, [])
    else
      let (s, l) := applyUpdates false s (sortUpdates (h.sorted ++ h.ups))
      let (s, r) := applyHolds grid s rest
      (s, l ++ r)

/-- The stacks of the lines that the held updates of a grid change have budget left (R428). -/
def State.batchesOpen (s : State) (grid : Nat) : Bool :=
  (s.holds.filter fun h => decide (h.grid = grid)).all fun h => (h.sorted ++ h.ups).all fun u => s.memOpen u.req.g u.req.va h.pa
/-- Every held batch of a grid is applied, and every answer due is given (R359, R361). -/
def State.applyBatches (s : State) (grid : Nat) : State :=
  let due := s.holds.filter fun h => decide (h.grid = grid)
  let (s, as) := applyHolds grid { s with holds := s.holds.filter fun h => decide (h.grid ≠ grid) } due
  let early := s.early.filter fun x => decide (x.g.grid = grid)
  let s := { s with early := s.early.filter fun x => decide (x.g.grid ≠ grid) }
  let s := early.foldl (fun s x => s.answer x.g x.ans) s
  as.foldl (fun s x => s.answer x.1 x.2) s

/-- The entries of a slice's sort area in use (R411). -/
def sortUsed (s : State) (slice : Nat) : Nat :=
  s.holds.foldl (fun n h => if sliceOf h.pa = slice then n + h.sorted.length else n) 0
/-- The address entries of a slice in use (R358). -/
def entriesUsed (s : State) (slice : Nat) : Nat :=
  (s.holds.filter fun h => h.entry && decide (sliceOf h.pa = slice)).length

/-- The issuer index of a lane (R74). -/
def issuerOf (s : State) (g : GRef) (lane : Nat) : Nat := (g.team * pkGroups (s.pkt g.grid) + g.group) * 128 + lane

/-- An update reaches its press unit and is held (R358); where its buffer or the address entries are full, R360 or R411 says what
becomes of it. -/
def State.holdUpdate (s : State) (q : AtomReq) (pa : Nat) : State :=
  let grid := q.g.grid
  let u : HeldUpd := { issuer := issuerOf s q.g q.lane, req := q, before := s.sids }
  let serial := pkSerial (s.pkt grid)
  let room (n : Nat) : Bool := serial && decide (sortUsed s (sliceOf pa) + n ≤ 65536)
  match s.holds.find? fun h => decide (h.grid = grid) && decide (h.pa = pa) with
  | some h =>
    let put (h : Hold) : State :=
      { s with holds := s.holds.map fun x => if x.grid = grid ∧ x.pa = pa then h else x }
    if !h.entry then
      if room 1 then put { h with sorted := h.sorted ++ [u] } else applyEarly s [u]
    else if h.ups.length < 16 then put { h with ups := h.ups ++ [u] }
    else if room 17 then put { h with ups := [], sorted := h.sorted ++ h.ups ++ [u] }
    else applyEarly (put { h with ups := [u] }) h.ups
  | none =>
    if entriesUsed s (sliceOf pa) < 256 then { s with holds := s.holds ++ [{ grid := grid, pa := pa, ups := [u] }] }
    else if room 1 then { s with holds := s.holds ++ [{ grid := grid, pa := pa, ups := [], sorted := [u], entry := false }] }
    else applyEarly s [u]

end Sys2Proof.Machine
end

