-- ==== Sys2Proof/Machine/Engines.lean ====
section
/-!
DEFINITION. The copy, gather, collective and launch engines (15_async_engines.md R373 to R388): shape records, what a command reads and
writes line by line, how it completes, budgets (R428), replay of engine accesses (R426) and command digests (R407).
-/
namespace Sys2Proof.Machine
open Sys2Proof

/-! ### Shape records (R373) -/

def recFill (r : BitVec 512) : Nat := bits r 480 32
def recBmode (r : BitVec 512) : Nat := bits r 470 2
def recRank (r : BitVec 512) : Nat := bits r 467 3
def recFmt (r : BitVec 512) : Nat := bits r 463 4
/-- The stride of a dimension. -/
def recStride (r : BitVec 512) (d : Nat) : Int := (BitVec.ofNat 48 (bits r (208 + 48 * d) 48)).toInt
/-- The extent of a dimension; 1 at or above RANK. -/
def recExt (r : BitVec 512) (d : Nat) : Nat := if d < recRank r then bits r (32 * d) 32 else 1
def recSize (r : BitVec 512) : Nat := memSize (recFmt r)
/-- Elements of the box. -/
def recCount (r : BitVec 512) : Nat := (List.range 5).foldl (fun n d => n * recExt r d) 1

def recValid (r : BitVec 512) : Bool :=
  decide (bits r 472 8 = 0) && decide (bits r 448 15 = 0) && decide (bits r 160 48 = 0) && decide (recBmode r ≤ 1) &&
    decide (1 ≤ recRank r) && decide (recRank r ≤ 5) && decide (recFmt r ≤ 12) &&
    ((List.range 5).all fun d =>
      if d < recRank r then
        decide (1 ≤ bits r (32 * d) 32) && decide (bits r (32 * d) 32 ≤ 2 ^ 31) && decide (recStride r d % (recSize r : Int) = 0)
      else decide (bits r (32 * d) 32 = 0) && decide (bits r (208 + 48 * d) 48 = 0)) &&
    decide (recCount r ≤ 2 ^ 32)

/-- The coordinates of a box index. -/
def boxCoord (r : BitVec 512) (k d : Nat) : Nat :=
  k / (List.range d).foldl (fun n i => n * recExt r i) 1 % recExt r d

/-- An address: a base and the sum of coordinates times strides, modulo 2⁶⁴. -/
def strided (r : BitVec 512) (base : Word64) (coord : Nat → Int) : Word64 :=
  base + BitVec.ofInt 64 ((List.range 5).foldl (fun a d => a + coord d * recStride r d) 0)

/-! ### Engine accesses (R313, R316, R320, R339, R378) -/

/-- How an engine meets an address. -/
inductive EngAt where
  | at_ (t : Target)
  | peer (dev pa : Nat)
  | fail (cause : Nat)
  | wait
  /-- The access has to take its place in the order of the butterfly engine of a core (R318). -/
  | turn (core : Nat)
  | zero
  deriving DecidableEq, Repr, Inhabited

/-- The engine causes of R378 for the causes of R438. -/
def engCause (c : Nat) : Nat :=
  match c with
  | 4 => 3
  | 5 => 4
  | 8 => 5
  | 6 => 6
  | 12 => 7
  | _ => 3

/-- Who makes an engine access: the unit whose translations it uses, its context, its team, the commands whose own bytes to land keep no
access of theirs waiting and whose places in engine order it may use, and whether peer pages are reached (R380, R423). -/
structure EngPath where
  unit  : Nat
  ctx   : Context
  tm    : TRef
  own   : List Nat := []
  peers : Bool := false
  deriving DecidableEq, Repr

/-- The target of a window access of an engine: that which has accepted it already, else what the checks of R316 give now (R319). -/
def State.engWindow (s : State) (x : EngPath) (va : Word64) (n : Nat) (write : Bool) : Except Nat Target :=
  match s.acceptedAt x.own va with
  | some t => .ok t
  | none => s.window x.tm.grid va n write
/-- Window accesses of a command that wait at their targets have been accepted there: space, whether each writes, address, bytes. -/
def State.arrive (s : State) (x : EngPath) (l : List (Nat × Bool × Word64 × Nat)) : State :=
  l.foldl (fun s a =>
    match x.own.head?, s.engWindow x a.2.2.1 a.2.2.2 a.2.1 with
    | some n, .ok t =>
      if a.1 < 2 || s.arrived.any fun y => y.serial == n && y.va == a.2.2.1 then s
      else { s with arrived := s.arrived ++ [{ serial := n, va := a.2.2.1, at_ := t }] }
    | _, _ => s) s
/-- A command has ended: nothing of it waits any more. -/
def State.forget (s : State) (serial : Nat) : State :=
  if s.arrived.any fun a => a.serial == serial then { s with arrived := s.arrived.filter fun a => a.serial != serial } else s
/-- Where an engine access of `n` bytes meets them. `landing` says that the command's own bytes land at absent lines. -/
def State.engTarget (s : State) (x : EngPath) (space : Nat) (write landing : Bool) (va : Word64) (n : Nat) : EngAt :=
  let absent (u : TRef) (a : Nat) : Bool := (linesOf a n).any fun l => s.absentTo x.own u l
  match space with
  | 0 =>
    match s.accessPeer x.unit x.ctx (if write then .write else .read) va with
    | .ok pa => .at_ (.mem pa)
    | .peer d pa => if x.peers then .peer d pa else .fail 4
    | .fault k => .fail (engCause k)
    | .zero => .zero
  | 1 =>
    if pkScratch (s.pkt x.tm.grid) < va.toNat + n then .fail 6
    else if !landing && absent x.tm va.toNat then .wait
    else .at_ (.scratch x.tm va.toNat)
  | _ =>
    match s.engWindow x va n write with
    | .error k => .fail (engCause k)
    | .ok t =>
      match t with
      | .scratch u a => if absent u a then .wait else .at_ t
      | .image g _ => if write && !s.betweenRuns g then .wait else .at_ t
      | .slot k _ _ _ | .acc k _ _ => if (s.bfOf k).admits x.own then .at_ t else .turn k
      | _ => .at_ t
/-- The same, with the poison that a read meets (R378, R455). -/
def State.engAt (s : State) (x : EngPath) (space : Nat) (write landing : Bool) (va : Word64) (n : Nat) : EngAt :=
  match s.engTarget x space write landing va n with
  | .at_ t => if !write && s.poisonAt t n then .fail 5 else .at_ t
  | r => r

/-- A peer device answers over Vernal Link (R432): none where it is reached and grants the access, else the cause. -/
def peerFails (s : State) (dev : Nat) : Option Nat :=
  if s.dev.ports = 0 || !Config.peerReached s.dev.ports dev then some 12
  else if !Config.peerGranted s.tick then some 4 else none

/-- The outcome of reading an element: a value with its taint, a failure, or a wait. -/
inductive EngRead where
  | val (v : Nat) (t : Bool)
  | fail (cause : Nat)
  | wait
  | turn (core : Nat)
  | zero
  deriving DecidableEq, Repr, Inhabited

/-- The line of memory or of a peer page that an access meets, numbered. -/
def EngAt.line? : EngAt → Option Nat
  | .at_ (.mem pa) => some (pa / 64)
  | .peer d pa => some (2 ^ 52 * (d + 1) + pa / 64)
  | _ => none
/-- The line as it stands now (R339). One of a peer device is taken as untainted. DESIGN CHOICE: the spec gives Vernal Link no carrier for taint
(R380, R432; log 95). -/
def State.lineNow (s : State) (x : EngAt) : Option GotLine :=
  x.line?.map fun k =>
    match x with
    | .at_ (.mem pa) =>
      let at_ := 64 * (pa / 64)
      { key := k, bytes := s.home.read at_ 64, t0 := s.home.tainted at_ 1, t1 := s.home.tainted (at_ + 32) 1 }
    | .peer _ pa => { key := k, bytes := (List.range 64).map fun i => Config.peerByte s.tick (64 * (pa / 64) + i), t0 := false, t1 := false }
    | _ => { key := k, bytes := [], t0 := false, t1 := false }
/-- `n` bytes of a line at an offset, with their taint. -/
def GotLine.value (l : GotLine) (off n : Nat) : EngRead :=
  .val (leNat ((l.bytes.drop off).take n)) (if off + n ≤ 32 then l.t0 else if 32 ≤ off then l.t1 else l.t0 || l.t1)

/-- A read of `n` bytes by an engine. A line that the command has taken already gives what it gave then (R339); `got` are those. -/
def State.engRead (s : State) (x : EngPath) (got : List GotLine) (space : Nat) (va : Word64) (n : Nat) : EngRead :=
  let at_ := s.engTarget x space false false va n
  match at_.line?.bind fun k => got.find? fun l => l.key == k with
  | some l => l.value (va.toNat % 64) n
  | none =>
    match at_ with
    | .at_ t => if s.poisonAt t n then .fail 5 else .val (leNat (s.readAt t n).1) (s.readAt t n).2
    | .peer d _ =>
      match peerFails s d, s.lineNow at_ with
      | some k, _ => .fail k
      | none, some l => l.value (va.toNat % 64) n
      | none, none => .wait
    | .fail k => .fail k
    | .wait => .wait
    | .turn k => .turn k
    | .zero => .zero

/-! ### COPY and GATHER, element by element (R379, R382) -/

/-- Where an element comes from: an address, the fill value, or an index list entry that cannot be read. -/
inductive ElemSrc where
  | addr (va : Word64)
  | fill
  | read (r : EngRead)
  deriving DecidableEq, Repr, Inhabited

/-- What a command moves: its element count, and for each element its destination and its source. -/
structure Box where
  count  : Nat
  dst    : BitVec 512
  src    : BitVec 512
  sspace : Nat
  dspace : Nat
  rm     : Nat
  deriving DecidableEq, Repr, Inhabited

/-- The destination address of an element. -/
def elemDst (k : CmdKind) (i : Nat) : Word64 :=
  match k with
  | .copy _ dst _ dbase .. => strided dst dbase fun d => boxCoord dst i d
  | .gather _ dst _ dbase .. =>
    strided dst dbase fun d => if d = 0 then (i % recExt dst 0 : Nat) else if d = 1 then (i / recExt dst 0 : Nat) else 0
  | _ => 0

/-- The address of the index list entry of an element (R382). -/
def elemIndex : CmdKind → Nat → Option (Nat × Word64)
  | .gather _ dst _ _ list _ ispace _ _, i => some (ispace, list + BitVec.ofNat 64 (4 * (i / recExt dst 0)))
  | _, _ => none

/-- The source of an element. -/
def elemSrc (s : State) (x : EngPath) (got : List GotLine) (k : CmdKind) (i : Nat) : ElemSrc :=
  match k with
  | .copy src dst sbase _ coord .. =>
    let j (d : Nat) : Int := (coord[d]?).getD 0 + boxCoord dst i d
    if (List.range 5).any fun d => decide (j d < 0) || decide ((recExt src d : Int) ≤ j d) then .fill
    else .addr (strided src sbase j)
  | .gather src dst sbase _ list _ ispace _ _ =>
    match s.engRead x got ispace (list + BitVec.ofNat 64 (4 * (i / recExt dst 0))) 4 with
    | .val n _ =>
      if recExt src 1 ≤ n then .fill
      else .addr (strided src sbase fun d => if d = 0 then (i % recExt dst 0 : Nat) else if d = 1 then (n : Nat) else 0)
    | r => .read r
  | _ => .fill

/-- The taint of an index list entry (R380, R400). -/
def elemIndexTaint (s : State) (x : EngPath) (got : List GotLine) (k : CmdKind) (i : Nat) : Bool :=
  match elemIndex k i with
  | some (sp, va) =>
    match s.engRead x got sp va 4 with
    | .val _ t => t
    | _ => false
  | none => false

def boxOf : CmdKind → Option Box
  | .copy src dst _ _ _ ss ds rm => some { count := recCount dst, dst := dst, src := src, sspace := ss, dspace := ds, rm := rm }
  | .gather src dst _ _ _ n _ ds rm => some { count := recExt dst 0 * n, dst := dst, src := src, sspace := 0, dspace := ds, rm := rm }
  | _ => none

/-- The failures found before anything moves (R378, R382): the cause. -/
def boxBad : CmdKind → Bool
  | .copy src dst sbase dbase .. =>
    !recValid src || !recValid dst || decide (sbase.toNat % recSize src ≠ 0) || decide (dbase.toNat % recSize dst ≠ 0)
  | .gather src dst _ dbase _ n _ _ _ =>
    if n = 0 then false else
    !recValid src || !recValid dst || decide (recRank src < 2) || decide (dbase.toNat % recSize dst ≠ 0) ||
      decide (recExt dst 1 < n) || decide (recExt dst 0 ≠ recExt src 0)
  | _ => false

/-- The lines that a command may write: those of its own scratchpad clear presence (R312). -/
def cmdLines (tm : TRef) (k : CmdKind) : List (Option TRef × Nat) :=
  match boxOf k with
  | none => []
  | some b =>
    if boxBad k then []
    else ((List.range b.count).map fun i =>
      ((if b.dspace = 1 then some tm else none : Option TRef), (elemDst k i).toNat / 64)).dedup

/-- An element as it is to be stored. A failure names the address that failed. -/
inductive Elem where
  | put (va : Word64) (v : Nat) (fl : Flags) (t : Bool)
  | fail (cause : Nat) (va : Word64)
  | wait
  | turn (core : Nat)
  | zero (va : Word64)
  deriving DecidableEq, Repr, Inhabited

/-- An element read, or filled, and converted (R379). -/
def elemValue (s : State) (x : EngPath) (got : List GotLine) (k : CmdKind) (b : Box) (i : Nat) : Elem :=
  let conv (v : Nat) (t : Bool) : Elem :=
    let r := convert (recFmt b.dst) (recFmt b.src) b.rm v
    .put (elemDst k i) r.1 r.2 (t || elemIndexTaint s x got k i)
  let from_ (va : Word64) (r : EngRead) : Elem := match r with
    | .val v t => conv v t
    | .fail c => .fail c va
    | .wait => .wait
    | .turn c => .turn c
    | .zero => .zero va
  match elemSrc s x got k i with
  | .fill => if recBmode b.src = 1 then .fail 2 (elemDst k i) else conv (recFill b.src % 2 ^ (8 * recSize b.src)) false
  | .addr va => from_ va (s.engRead x got b.sspace va (recSize b.src))
  | .read r => from_ (((elemIndex k i).map (·.2)).getD 0) r

/-! ### Commands -/

def State.cmd? (s : State) (n : Nat) : Option Command := s.cmds.find? fun c => decide (c.serial = n)
def State.setCmd (s : State) (c : Command) : State := { s with cmds := s.cmds.map fun x => if x.serial = c.serial then c else x }

/-- The commands that a CFENCE of the group set before its later commands on a path (R340). -/
def Group.before (g : Group) (path : Nat) : List Nat := (g.cfences.filter fun p => p.1 == path).flatMap (·.2)
/-- A command stands in a butterfly engine: in its queue, as a participant of a gang, or in its latch. -/
def BfEngine.stands (e : BfEngine) (n : Nat) : Bool :=
  e.queue.any (fun c => decide (c.serial = n) || c.peers.any fun q => decide (q.serial = n)) ||
    (e.latch.map fun l => l.parts.any fun c => decide (c.serial = n)).getD false
/-- A command still stands: in an engine of the device, or in one that is saved with a swapped-out team. -/
def State.standing (s : State) (n : Nat) : Bool :=
  s.cmds.any (fun c => decide (c.serial = n)) || s.sheets.any (fun x => x.runs.any fun r => decide (r.serial = n)) ||
    s.orphans.any (fun o => decide (o.run.serial = n)) || s.bf.any (fun p => p.2.stands n) ||
    s.teams.any fun t => t.savedBf.any fun p => p.2.stands n

/-- A command stopped by REPLAY waits for a REPLAY write made after its record (R426). -/
def State.replayed (s : State) (asid : Nat) (stop : Option Nat) : Bool :=
  match stop with
  | none => true
  | some n => ((s.ctx? asid).map fun c => decide (n < c.replays)).getD true

/-- A step of a command may be made: the commands a CFENCE set before it have completed (R340), and REPLAY does not hold it. -/
def State.free (s : State) (asid : Nat) (after : List Nat) (stop : Option Nat) : Bool :=
  !after.any (fun n => s.standing n) && s.replayed asid stop

/-- A translation failure stops a command in a REPLAY context (R426): the stop, or none where the failure takes its course. -/
def State.stopFor (s : State) (asid cause : Nat) : Option Nat :=
  match s.ctx? asid with
  | some c => if c.replayMode && decide (cause = 3) then some c.replays else none
  | none => none
def State.replayRecord (s : State) (asid grid : Nat) (va : Word64) : State :=
  s.record asid { kind := 1, final := 37, grid := BitVec.ofNat 32 grid, addr := va }

/-- Sector taint and poison of a scratchpad under the bytes of one line that a command writes as one write (R400, R455). -/
def State.cleanSectors (s : State) (tm : TRef) (l : List (Nat × Byte)) (t : Bool) : State :=
  match s.team? tm with
  | none => s
  | some x => s.setTeam { x with spTaint := scatterTaint (.det t) l x.spTaint, spPoison := x.spPoison.filter fun k => !scatterFull l k }
/-- The scratchpads among the targets of a line, with the bytes that each takes. -/
def scratchParts (l : List (Target × List Byte)) : List (TRef × List (Nat × Byte)) :=
  let parts := l.filterMap fun (at_, bs) => match at_ with
    | .scratch tm a => some (tm, bs.zipIdx.map fun b => (a + b.2, b.1))
    | _ => none
  ((parts.map (·.1)).dedup).map fun tm => (tm, (parts.filter fun p => p.1 == tm).flatMap (·.2))
/-- The images among the targets of a line, with the bytes that each takes. -/
def imageParts (l : List (Target × List Byte)) : List (GRef × List (Nat × Byte)) :=
  let parts := l.filterMap fun (at_, bs) => match at_ with
    | .image g off => some (g, placed off bs)
    | _ => none
  ((parts.map (·.1)).dedup).map fun g => (g, (parts.filter fun p => p.1 == g).flatMap (·.2))
/-- A line of memory takes bytes at one place of its home order; a scratchpad or a window takes them at its target, each scratchpad and each
image as one write (R377, R380). -/
def State.putLine (s : State) (from_ : GRef) (mode : TaintMode) (l : List (Target × List Byte)) (t : Bool) : State :=
  let mem := l.flatMap fun (at_, bs) => match at_ with
    | .mem pa => (List.range bs.length).map fun i => (pa + i, (bs[i]?).getD 0)
    | _ => []
  let s := if mem.isEmpty then s else s.homeScatter mode mem
  let s := l.foldl (fun s (at_, bs) => match at_ with
    | .mem _ => s
    | .scratch tm a =>
      match s.team? tm with
      | none => s
      | some x => ((s.veilFor from_ s.engineWord at_ bs t).setTeam (x.spWrite a bs t)).toSaved at_ bs
    | .image .. => s
    | at_ => s.writeAt from_ s.engineWord at_ bs t) s
  let s := (imageParts l).foldl (fun s p => s.putImage from_ s.engineWord p.1 p.2 t) s
  (scratchParts l).foldl (fun s p => s.cleanSectors p.1 p.2 t) s

/-- Two elements of a line that land on one address: either value stands (R379); a pick for each address. -/
def pickOne (n : Nat) (l : List (Word64 × Nat × Bool)) : List (Word64 × Nat × Bool) :=
  ((l.map (·.1)).dedup).filterMap fun va =>
    let c := (l.filter fun p => p.1 == va)
    (c.drop (n % c.length)).head?

/-- Two elements of a box land on one address (R401). -/
def boxTwice (k : CmdKind) : Bool :=
  match boxOf k with
  | some b => !(((List.range b.count).map (elemDst k)).Nodup : Bool)
  | none => false

/-- The path of a command of the copy or gather engine: its own lines keep nothing of it waiting. -/
def Command.path (c : Command) (ctx : Context) : EngPath :=
  { unit := dieUnit (dieOf c.core), ctx := ctx, tm := c.g.tref, own := [c.serial], peers := decide (c.eng = 1) }

/-- The lines that the walks of some accesses by an engine read at their homes (R424). -/
def State.walkLines (s : State) (x : EngPath) (space : Nat) (l : List Word64) : List Nat :=
  if space ≠ 0 then [] else (l.flatMap fun va => (s.xlatReads x.unit x.ctx va).map fun a => 64 * (a / 64)).dedup
/-- The reads of some elements of a box, and of their index list entries: space, address and bytes of each. -/
def boxAddrs (s : State) (x : EngPath) (got : List GotLine) (k : CmdKind) (b : Box) (idx : List Nat) : List (Nat × Word64 × Nat) :=
  idx.flatMap fun i =>
    ((elemIndex k i).toList.map fun e => (e.1, e.2, 4)) ++
      (match elemSrc s x got k i with
       | .addr va => [(b.sspace, va, recSize b.src)]
       | _ => [])
/-- The lines among some reads that a command takes now, having none of them yet (R339). -/
def takeLines (s : State) (got : List GotLine) (l : List EngAt) : List GotLine :=
  l.foldl (fun (new : List GotLine) r => match s.lineNow r with
    | some x => if got.any (·.key == x.key) || new.any (·.key == x.key) then new else new ++ [x]
    | none => new) []
def EngAt.target? : EngAt → Option Target
  | .at_ t => some t
  | _ => none
def EngAt.far : EngAt → Bool
  | .peer .. => true
  | _ => false
/-- The cause with which an access fails. -/
def EngAt.cause? (s : State) : EngAt → Option Nat
  | .fail k => some k
  | .peer dev _ => peerFails s dev
  | _ => none

/-- The outcome of trying to write one line of a COPY or GATHER. -/
inductive LineOut where
  | done (s : State) (c : Command)
  | fail (s : State) (c : Command)
  | stop (s : State) (c : Command)
  | busy (s : State)

/-- What the elements of one line of a COPY or GATHER meet: their values, and where they go. -/
structure LineView where
  idx   : List Nat
  els   : List (Nat × Elem)
  dests : List (Nat × EngAt)
  reads : List EngAt
  walks : List Nat
  deriving DecidableEq, Repr

def lineView (s : State) (c : Command) (x : EngPath) (b : Box) (ln : Option TRef × Nat) : LineView :=
  let idx := (List.range b.count).filter fun i => decide ((elemDst c.kind i).toNat / 64 = ln.2)
  let addrs := boxAddrs s x c.got c.kind b idx
  let at_ (a : Nat × Word64 × Nat) : EngAt := s.engTarget x a.1 false false a.2.1 a.2.2
  let fresh := addrs.filter fun a => !(((at_ a).line?.map fun k => c.got.any (·.key == k)).getD false)
  { idx := idx, els := idx.map fun i => (i, elemValue s x c.got c.kind b i)
    dests := idx.map fun i => (i, s.engAt x b.dspace true (b.dspace == 1) (elemDst c.kind i) (recSize b.dst))
    reads := addrs.map at_
    walks := fresh.flatMap (fun a => s.walkLines x a.1 [a.2.1]) ++ s.walkLines x b.dspace (idx.map (elemDst c.kind)) }

/-- Pages still to be zeroed on the way of a line. -/
def LineView.zeros (v : LineView) (k : CmdKind) : List Word64 :=
  (v.els.filterMap fun e => match e.2 with
    | .zero va => some va
    | _ => none) ++ v.dests.filterMap fun d => if d.2 = .zero then some (elemDst k d.1) else none
def LineView.waits (v : LineView) : Bool := v.els.any (fun e => e.2 == .wait) || v.dests.any fun d => d.2 == .wait
/-- Engines in whose order an access of the line has to take its place. -/
def LineView.turns (v : LineView) : List Nat :=
  ((v.els.filterMap fun e => match e.2 with
    | .turn k => some k
    | _ => none) ++ v.dests.filterMap fun d => match d.2 with
    | .turn k => some k
    | _ => none).dedup
/-- The elements of the line that fail: index, cause, and the address that failed. -/
def LineView.bads (v : LineView) (s : State) (k : CmdKind) : List (Nat × Nat × Word64) :=
  (v.els.filterMap fun e => match e.2 with
    | .fail c va => some (e.1, c, va)
    | _ => none) ++ v.dests.filterMap fun d => (d.2.cause? s).map fun c => (d.1, c, elemDst k d.1)
/-- The line is sent over Vernal Link (R428). -/
def LineView.far (v : LineView) : Bool := v.dests.any fun d => d.2.far
/-- The values that the elements of a line put, with their flags and taint. -/
def LineView.vals (v : LineView) : List (Word64 × Nat × Flags × Bool) :=
  v.els.filterMap fun e => match e.2 with
    | .put va n f t => some (va, n, f, t)
    | _ => none

/-- One line of a COPY or GATHER (R377, R379, R380). It takes the taint of the source sectors that enter it. -/
def putBoxLine (s : State) (c : Command) (x : EngPath) (b : Box) (ln : Option TRef × Nat) (v : LineView) : State × Command :=
  let z := recSize b.dst
  let cls := s.classOf c.g.grid
  let one := pickOne (Config.choice s.tick) (v.vals.map fun y => (y.1, y.2.1, y.2.2.2))
  let t := c.det && (v.vals.any (·.2.2.2) || boxTwice c.kind)
  let puts := one.filterMap fun y => (s.engAt x b.dspace true (b.dspace == 1) y.1 z).target?.map fun u => (u, leBytes y.2.1 z)
  let new := takeLines s c.got v.reads
  let lines := (v.reads.filterMap fun r => r.target?.filter fun _ => (r.line?.map fun k => new.any (·.key == k)).getD true) ++ puts.map (·.1)
  let s := s.chargeLines c.asid cls (v.walks.dedup ++ s.hbmLines lines)
  let s := s.putLine c.g (if c.det then .det t else .outside) puts t
  let wrote := if b.dspace = 0 then
      one.foldl (fun w y => Table.put w y.1.toNat (BitVec.ofNat 3 z.log2, BitVec.ofNat 64 y.2.1)) c.wrote
    else c.wrote
  let s := if v.far then s.charge c.asid cls 29 1 else s
  ((s.unmark c.serial).bump,
   { c with flags := v.vals.foldl (fun f y => f ||| y.2.2.1) c.flags, t := c.t || t, wrote := wrote, got := c.got ++ new
            lines := c.lines.filter fun y => y != ln })

/-- The window accesses of a line: those that reach a target now. -/
def lineWindows (s : State) (c : Command) (x : EngPath) (b : Box) (v : LineView) : List (Nat × Bool × Word64 × Nat) :=
  ((boxAddrs s x c.got c.kind b v.idx).map fun a => (a.1, false, a.2.1, a.2.2)) ++
    v.idx.map fun i => (b.dspace, true, elemDst c.kind i, recSize b.dst)
/-- The attempt at one line: it waits, fails, is stopped for a replay (R426), or is written. -/
def copyLine (s : State) (c : Command) (ctx : Context) (b : Box) (ln : Option TRef × Nat) : LineOut :=
  let x := c.path ctx
  let v := lineView s c x b ln
  let cls := s.classOf c.g.grid
  let lines := v.walks ++ s.hbmLines (v.reads.filterMap EngAt.target? ++ (v.dests.map (·.2)).filterMap EngAt.target?)
  if !(v.zeros c.kind).isEmpty then .busy ((v.zeros c.kind).foldl (fun s va => s.startZero ctx va) s)
  else if v.far && !s.admitted c.asid cls 29 then .busy s
  else if v.waits || !v.turns.isEmpty then
    .busy (v.turns.foldl (fun s k => s.markTurn k c.serial c.asid c.g) (s.arrive x (lineWindows s c x b v)))
  else if !s.linesOpen c.asid cls lines then .busy s.bump
  else
    match argMin (fun p => p.1) (v.bads s c.kind) with
    | some (i, k, va) =>
      let s := s.chargeLines c.asid cls v.walks.dedup
      match s.stopFor c.asid k with
      | some n => .stop ((s.unmark c.serial).replayRecord c.asid c.g.grid va) { c with stop := some n }
      | none => .fail s { c with failed := some (k, i) }
    | none =>
      let r := putBoxLine s c x b ln v
      .done r.1 r.2

/-! ### Completion (R371, R407) -/

/-- A command digest takes its turn, and every one ready behind it (R407); the taint of a digest enters as it folds (R409). -/
def foldTurns (e : Word64) (t : Bool) : List DigestTurn → Word64 × Bool × List DigestTurn
  | [] => (e, t, [])
  | d :: rest => match d.value with
    | some c => foldTurns (crcWords e [c]) (t || d.t) rest
    | none => (e, t, d :: rest)

/-- A command digest is known (R407), with the taint of the entries that it folds (R409). -/
def State.giveDigest (s : State) (gr : GRef) (serial : Nat) (c : Word64) (t : Bool) : State :=
  match s.group? gr with
  | none => s
  | some g =>
    let l := g.digests.map fun d => if d.serial = serial ∧ d.value.isNone then { d with value := some c, t := t } else d
    let r := foldTurns g.engDig g.engDigT l
    s.setGroup { g with engDig := r.1, engDigT := r.2.1, digests := r.2.2 }

/-- The digest of the elements that a command left written, in ascending address order. -/
def wroteDigest (w : Table (BitVec 3 × Word64)) : Word64 :=
  w.foldl (fun d p => crcWords d (digestEntry (BitVec.ofNat 64 p.1) (2 ^ p.2.1.toNat) false p.2.2.toNat)) 0

/-- The digest of a command that ends with a status (R407). -/
def cmdDigest (status : Nat) (base : Word64) (w : Table (BitVec 3 × Word64)) : Word64 :=
  if status = 1 then wroteDigest w else crcWords 0 [base, BitVec.ofNat 64 status]

/-! ### Launch queues (R100) -/

def Queue.mode (q : Queue) : Bool := q.qctl.getLsbD 19
def Queue.en (q : Queue) : Bool := q.qctl.getLsbD 18
def Queue.logn (q : Queue) : Nat := bits q.qctl 12 6
def Queue.asid (q : Queue) : Nat := bits q.qctl 0 12
def State.queue (s : State) (n : Nat) : Queue := Table.get {} s.queues n
def State.setQueue (s : State) (n : Nat) (q : Queue) : State := { s with queues := Table.set {} s.queues n q }
/-- The address of ring slot `i` (R100). -/
def Queue.slot (q : Queue) (i : Nat) : Word64 := q.qbase + BitVec.ofNat 64 (128 * (i % 2 ^ q.logn))

/-- The destination base of a command (R407). -/
def kindBase (s : State) : CmdKind → Word64
  | .copy _ _ _ d .. => d
  | .gather _ _ _ d .. => d
  | .coll _ _ _ d .. => d
  | .launch _ q => (s.queue q).slot (s.queue q).write.toNat
  | .lost _ d => d
  | _ => 0

/-- A command digest folds something: an entry, or the status of a command that did not end DONE (R407). -/
def foldsAny (status : Nat) (w : Table (BitVec 3 × Word64)) : Bool := status ≠ 1 || !w.isEmpty

/-- A command of ENG 1 to 4 completes: writes first, then the counter, then the future (R371); it counts for no line any more. -/
def State.finishCmd (s : State) (c : Command) (status cause info : Nat) : State :=
  let s := { (s.unmark c.serial).forget c.serial with cmds := s.cmds.filter fun x => decide (x.serial ≠ c.serial) }
  let s := if c.det then
      s.giveDigest c.g c.serial (cmdDigest status (kindBase s c.kind) c.wrote) (c.t && foldsAny status c.wrote) else s
  let s := s.bumpCounter c.asid (dieUnit (dieOf c.core)) c.g.grid c.ctr
  s.completeFuture c.g c.slot c.gen (statusWord status c.eng c.flags cause info)
/-- The completion of a command waits for the add at its counter (R422, R428). -/
def State.ctrWaits (s : State) (c : Command) : Option State := s.counterWaits c.asid (dieUnit (dieOf c.core)) (s.classOf c.g.grid) c.ctr

/-- Where an engine's write would go, whatever it would wait for there. -/
def State.engPlace (s : State) (x : EngPath) (space : Nat) (va : Word64) (n : Nat) : Option Target :=
  match space with
  | 0 => match s.accessPeer x.unit x.ctx .write va with
    | .ok pa => some (.mem pa)
    | _ => none
  | 1 => if pkScratch (s.pkt x.tm.grid) < va.toNat + n then none else some (.scratch x.tm va.toNat)
  | _ => (s.window x.tm.grid va n true).toOption
/-- The sectors of some bytes, or the registers, slot or accumulator that hold them, are tainted where they stand. -/
def State.taintAt (s : State) (t : Target) (n : Nat) : State :=
  match t with
  | .mem pa => { s with home := { s.home with taint := (sectorsOf pa n).foldl (fun m k => Table.set false m k true) s.home.taint } }
  | .scratch tm a =>
    match s.team? tm with
    | some x => s.setTeam { x with spTaint := (sectorsOf a n).foldl (fun m k => Table.set false m k true) x.spTaint }
    | none => s
  | .image g off =>
    match s.group? g with
    | some x => s.setGroup ((imageKeeps (pkVregs (s.pkt g.grid) x.role) x (placed off (List.replicate n 0))).foldl (fun x b => imageMark x b.1) x)
    | none => s
  | .slot c k _ _ => s.setBf c ((s.bfOf c).setSlot k { (s.bfOf c).slot k with t := true })
  | .acc c k _ => s.setBf c ((s.bfOf c).setAcc k { (s.bfOf c).acc k with t := true })
/-- The destination sectors of some elements are tainted (R401). -/
def State.taintAll (s : State) (x : EngPath) (space n : Nat) (l : List Word64) : State :=
  l.foldl (fun s va => ((s.engPlace x space va n).map fun t => s.taintAt t n).getD s) s
/-- Some of them lie on a page that is still to be zeroed, and so wait for it (R422). -/
def State.taintWaits (s : State) (x : EngPath) (space : Nat) (l : List Word64) : Option State :=
  if space ≠ 0 then none else
  (l.find? fun va => s.accessPeer x.unit x.ctx .write va == .zero).map fun va => s.startZero x.ctx va
/-- The destinations of a COPY or GATHER of a deterministic grid: path, space, element size, addresses. -/
def boxDests (s : State) (c : Command) : Option (EngPath × Nat × Nat × List Word64) :=
  match c.det, s.ctx? c.asid, boxOf c.kind with
  | true, some ctx, some b => some (c.path ctx, b.dspace, recSize b.dst, (List.range b.count).map (elemDst c.kind))
  | _, _, _ => none
/-- Every destination sector that a COPY or GATHER could have written is tainted, in a deterministic grid (R401). -/
def State.taintDest (s : State) (c : Command) : State :=
  match boxDests s c with
  | some (x, sp, n, l) => s.taintAll x sp n l
  | none => s
/-- The command ends with its destinations tainted: cancelled, or failed with elements that land on one address (R401). -/
def endsTainted (c : Command) : Bool := if c.failed.isSome then boxTwice c.kind && !boxBad c.kind else c.cancel

/-- How a COPY or GATHER that may write no more ends: a failure, with the box index of the causes that have one (R378), a cancellation, or
DONE once every line is written. A command that failed as it was accepted completes once the commands that a CFENCE has set before it have
(R340). -/
def copyOutcome (s : State) (c : Command) : Option State :=
  match c.failed with
  | some (k, i) => if !s.free c.asid c.after none then none else some ((if endsTainted c then s.taintDest c else s).finishCmd c 3 k (if 2 ≤ k ∧ k ≤ 7 then i else 0))
  | none =>
    if c.cancel then some ((s.taintDest c).finishCmd { c with t := c.t || c.det } 2 0 0)
    else if c.lines.isEmpty then some (s.finishCmd c 1 0 0) else none
/-- What its completion waits for: a page of its destinations that is to be tainted, or its counter (R422, R428). -/
def copyWaits (s : State) (c : Command) : Option State :=
  ((if endsTainted c then boxDests s c else none).bind fun (x, sp, _, l) => s.taintWaits x sp l).or (s.ctrWaits c)
def copyEnd (s : State) (c : Command) : Option State := (copyOutcome s c).map fun t => (copyWaits s c).getD t

/-- A command may make a step: it goes on, nothing holds it, and its engine class has budget left (R426, R428). -/
def Command.going (s : State) (c : Command) (entry : Nat) : Bool :=
  !(c.cancel || c.failed.isSome) && s.free c.asid c.after c.stop && s.admitted c.asid (s.classOf c.g.grid) entry
/-- A LAUNCH whose queue takes its packet now (R101, R388). -/
def launchFits (s : State) (c : Command) : Bool :=
  match c.kind with
  | .launch _ qn =>
    let q := s.queue qn
    q.en && q.mode && decide (q.asid = c.asid) && decide (q.write.toNat - q.read.toNat < 2 ^ q.logn)
  | _ => true
/-- The transfer in progress of a butterfly engine, where it may move a line (R282, R426, R428). -/
def State.xferGoing (s : State) (core : Nat) : Option BfCmd :=
  (s.bfOf core).next.filter fun c => c.begun && (match c.kind with
    | .inl (.osfill ..) | .inl (.ossave ..) | .inl (.drainMem ..) => true
    | _ => false) && s.replayed c.asid c.hold && s.admitted c.asid (s.classOf c.g.grid) 27
/-- The contexts with admitted work at the copy engine of a core: it serves COPY, GATHER, LAUNCH and the transfers of the butterfly engine
(R427, R429). -/
def State.copyReady (s : State) (core : Nat) : List Nat :=
  ((s.cmds.filter fun c => decide (c.core = core) && (decide (c.eng = 1) || decide (c.eng = 2) || decide (c.eng = 4)) && c.going s 27 &&
      launchFits s c).map (·.asid)) ++ (s.xferGoing core).toList.map (·.asid)
/-- A context has its turn at the copy engine of a core (R429). -/
def State.copyTurn (s : State) (core asid : Nat) : Bool := s.turnOf (queueAt core 1) asid (s.copyReady core)

def copyStep (s : State) (n line : Nat) : Option State :=
  (s.cmd? n).bind fun c =>
  (boxOf c.kind).bind fun b =>
  (s.ctx? c.asid).bind fun ctx =>
  (c.lines.find? fun l => decide (l.2 = line)).bind fun ln =>
    if !c.going s 27 || !s.copyTurn c.core c.asid then none
    else
      let s := s.served (queueAt c.core 1) c.asid
      match copyLine s { c with stop := none } ctx b ln with
      | .done s c => some ((s.setCmd c).chargeStep c.asid (s.classOf c.g.grid) 27)
      | .fail s c => some (s.setCmd c)
      | .stop s c => some (s.setCmd c)
      | .busy s => some s

def execCopyLineWrite (n line : Nat) (s : State) : Host.Outcome State Fault Refusal := event s (copyStep s n line)
def execCopyComplete (n : Nat) (s : State) : Host.Outcome State Fault Refusal :=
  event s ((s.cmd? n).bind fun c => if c.eng = 1 then copyEnd s c else none)
def execGatherComplete (n : Nat) (s : State) : Host.Outcome State Fault Refusal :=
  event s ((s.cmd? n).bind fun c => if c.eng = 2 then copyEnd s c else none)

end Sys2Proof.Machine
end

