-- ==== Sys2Proof/Machine/Collective.lean ====
section
/-!
DEFINITION. The collective engine: communicators, the reductions of R385 with the sums of R211 and R212, completion and abort (R383 to
R387); and the launch engine (R388).
-/
namespace Sys2Proof.Machine
open Sys2Proof

/-! ### Communicators (R383) -/

def commRoot (r : BitVec 512) : Nat := bits r 128 16
def commMine (r : BitVec 512) : Nat := bits r 112 16
def commRanks (r : BitVec 512) : Nat := bits r 96 16 + 1
def commId (r : BitVec 512) : Nat := bits r 64 32
def commTable (r : BitVec 512) : Word64 := bits64 r 0 64
def commValid (r : BitVec 512) : Bool := decide (bits r 144 368 = 0) && decide (bits r 0 3 = 0)

/-- What a COLL command asks for. -/
structure CollReq where
  comm : BitVec 512
  seq  : Nat
  src  : Word64
  dst  : Word64
  n    : Nat
  ty   : Nat
  op   : Nat
  red  : Nat
  sspace : Nat
  dspace : Nat
  rm   : Nat
  deriving DecidableEq, Repr, Inhabited

def collReq : CmdKind → Option CollReq
  | .coll comm seq src dst n ty op red ss ds rm =>
    some { comm := comm, seq := seq, src := src, dst := dst, n := n, ty := ty, op := op, red := red, sspace := ss, dspace := ds, rm := rm }
  | _ => none

def CollReq.z (q : CollReq) : Nat := memSize q.ty
/-- Destination elements of a rank. -/
def CollReq.outs (q : CollReq) : Nat := if q.op = 2 then commRanks q.comm * q.n else q.n

/-- The scratchpad lines that a COLL clears at acceptance (R312). -/
def collLines (tm : TRef) (q : CollReq) : List (Option TRef × Nat) :=
  if q.dspace = 1 then ((List.range q.outs).map fun i => (some tm, (q.dst.toNat + q.z * i) / 64)).dedup else []

/-- A COLL joins an instance that has not completed and that its rank has not issued into (R386; log 12): the number of such an
instance is not yet retired. -/
def collJoins (s : State) (q : CollReq) : Bool :=
  let open_ := s.cmds.filterMap fun c => (collReq c.kind).bind fun r =>
    if c.eng = 3 ∧ c.failed.isNone ∧ commId r.comm = commId q.comm ∧ r.seq = q.seq then some (commMine r.comm) else none
  !open_.isEmpty && !open_.contains (commMine q.comm)

/-- A sequence number is stale (R386): it does not exceed the last one that the engine of the die has accepted, and joins no instance, or
its instance has completed and the number is retired. -/
def collStale (s : State) (core : Nat) (q : CollReq) : Bool :=
  s.collDone.contains (commId q.comm, q.seq) ||
    (match s.collSeq.find? fun x => x.1 == dieOf core && x.2.1 == commId q.comm with
     | some x => decide (q.seq < x.2.2) || (decide (q.seq = x.2.2) && !collJoins s q)
     | none => false)
/-- The checks of R386 that acceptance makes: the cause of the first that fails. That of the rank table follows as the command is worked
at (`collRank`). -/
def collBad (s : State) (ctx : Context) (core : Nat) (q : CollReq) : Option Nat :=
  if !commValid q.comm then some 1
  else if commId q.comm < ctx.commBase ∨ ctx.commBase + ctx.commCnt ≤ commId q.comm ∨ commRanks q.comm ≤ commMine q.comm ∨
      commRanks q.comm ≤ commRoot q.comm then some 10
  else if collStale s core q then some 9 else none

/-- The engine of a die has accepted a sequence number. -/
def State.noteSeq (s : State) (core id seq : Nat) : State :=
  { s with collSeq := (dieOf core, id, seq) :: s.collSeq.filter fun x => !(x.1 == dieOf core && x.2.1 == id) }

/-- The sequence number of a completed instance is retired (R386). -/
def State.retireSeq (s : State) (q : CollReq) : State :=
  { s with collDone := if s.collDone.contains (commId q.comm, q.seq) then s.collDone else (commId q.comm, q.seq) :: s.collDone }

/-! ### The result of one element (R385, R211, R212) -/

/-- Min or max of two LNS6 codes by arithmetic value. -/
def lnsMinMax (mx : Bool) (a b : Nat) : Nat :=
  match cmpVal (lnsVal a) (lnsVal b) with
  | .lt => if mx then b else a
  | .gt => if mx then a else b
  | .eq => a

/-- The values that the ranks contribute to the 32 positions of a block: rank by rank. -/
abbrev Block := List (List Nat)

/-- E of a block (R211): none where no rank contributes a finite nonzero value. -/
def blockExp (ty : Nat) (b : Block) : Option Int :=
  (b.flatMap fun l => (l.map (fvalOf ty)).filter FVal.isFinNZ).foldl (fun m x =>
    some (match m with
      | some e => max e x.expo
      | none => x.expo)) none

def isInf : FVal → Bool
  | .inf _ => true
  | _ => false

/-- Phase 2 of R211 on one contribution: a finite element becomes an integer at the grid exponent, and whether that is inexact. -/
def unitOf (h : Int) : FVal → Int × Bool
  | .fin n m k => gridUnits n m k h
  | _ => (0, false)
/-- The floating sum at a position (R211, R212), given E of its block; a signalling NaN raises IV (R192), and a sum of nonzero contributions
that is exactly zero takes its sign by R194. NX comes from the conversions of its finite elements, whatever stands beside them. -/
def sumAt (ty rm : Nat) (e : Option Int) (l : List Nat) : Nat × Flags :=
  let vs := l.map (fvalOf ty)
  let f := tyFmt ty
  let out (x : FVal) : Nat × Flags := if ty = 12 then toLns rm x else roundVal f rm x
  let pos := vs.any fun x => isInf x && !x.sign
  let neg := vs.any fun x => isInf x && x.sign
  let us := match e with
    | none => []
    | some e => vs.map (unitOf (e - 46))
  let nx := flagIf (us.any (·.2)) fNX
  if vs.any FVal.isNaN then (f.canonNaN, snanFlag vs ||| flagIf (pos && neg) fIV ||| nx)
  else if pos && neg then (f.canonNaN, fIV ||| nx)
  else if pos || neg then ((out (.inf neg)).1, (out (.inf neg)).2 ||| nx)
  else if vs.all FVal.isZero then out (.fin (vs.all FVal.sign) 0 0)
  else
    match e with
    | none => out (.fin false 0 0)
    | some e =>
      let sum : Int := us.foldl (fun a u => a + u.1) 0
      let r := out (.fin (decide (sum < 0) || (decide (sum = 0) && rm == 2)) sum.natAbs (e - 46))
      (r.1, r.2 ||| nx)

/-- A reduction over the ranks at a position. -/
def reduceAt (ty red rm : Nat) (e : Option Int) (l : List Nat) : Nat × Flags :=
  let one := (l.head?).getD 0
  if isIntTy ty then
    let w := tyBits ty
    ((l.drop 1).foldl (fun a x =>
      (match red with
       | 0 => BitVec.ofNat w a + BitVec.ofNat w x
       | 1 => minI (signedTy ty) w (BitVec.ofNat w a) (BitVec.ofNat w x)
       | _ => maxI (signedTy ty) w (BitVec.ofNat w a) (BitVec.ofNat w x)).toNat) one, 0)
  else if red = 0 then sumAt ty rm e l
  else if ty = 12 then ((l.drop 1).foldl (lnsMinMax (red == 2)) one % 64, 0)
  else
    let vs := l.map (fvalOf ty)
    let r := (l.drop 1).foldl (fun a x => (fMinMax (tyFmt ty) (red == 2) a x).1) one
    (if vs.all FVal.isNaN then (tyFmt ty).canonNaN else r, snanFlag vs)

/-! ### An instance (R386) -/

/-- The commands of this device that belong to an instance, by rank. -/
abbrev Ranks := List (Nat × Command × CollReq)
def instanceOf (s : State) (q : CollReq) : Ranks :=
  s.cmds.filterMap fun c => (collReq c.kind).bind fun r =>
    if c.eng = 3 ∧ c.failed.isNone ∧ commId r.comm = commId q.comm ∧ r.seq = q.seq then some (commMine r.comm, c, r) else none

def State.cmdCtx (s : State) (c : Command) : Context := (s.ctx? c.asid).getD { asid := c.asid, desc := 0 }
/-- The path of a rank's accesses: lines that the ranks of its instance have still to write keep none of them waiting. -/
def rankPath (s : State) (cmds : Ranks) (c : Command) : EngPath :=
  { unit := dieUnit (dieOf c.core), ctx := s.cmdCtx c, tm := c.g.tref, own := cmds.map (·.2.1.serial), peers := true }

/-- An element as it is read: the engine ignores bits 7:6 of an LNS6 byte (R199). -/
def CollReq.clean (q : CollReq) : EngRead → EngRead
  | .val v t => .val (if q.ty = 12 then v % 64 else v) t
  | r => r
/-- Source element `i` of rank `p`: read by a command of this device, or supplied by a peer (log 6). The contribution of a peer is taken as
untainted. DESIGN CHOICE: the spec gives Vernal Link no carrier for taint (R385, R432; log 95). -/
def rankRead (s : State) (cmds : Ranks) (q : CollReq) (p i : Nat) : EngRead :=
  q.clean (match cmds.find? fun x => decide (x.1 = p) with
    | some (_, c, r) => s.engRead (rankPath s cmds c) [] r.sspace (r.src + BitVec.ofNat 64 (q.z * i)) q.z
    | none => .val (leNat ((List.range q.z).map fun j => Config.peerByte s.tick (p * 2 ^ 40 + q.z * i + j))) false)

/-- An entry of the rank table: device and core. -/
def rankEntry (s : State) (c : Command) (q : CollReq) (p : Nat) : EngRead :=
  s.engRead (rankPath s [] c) [] 0 (commTable q.comm + BitVec.ofNat 64 (8 * p)) 8
/-- The lines that the reads of entries of the rank table move at HBM, with their walks (R321, R424, R428). -/
def tableLines (s : State) (c : Command) (q : CollReq) (l : List Nat) : List Nat :=
  let x := rankPath s [] c
  let vas := l.map fun p => commTable q.comm + BitVec.ofNat 64 (8 * p)
  (s.walkLines x 0 vas ++ s.hbmLines (vas.filterMap fun va => (s.engTarget x 0 false false va 8).target?)).dedup
/-- The whole rank table, as a rank reads it. -/
def wholeTable (s : State) (x : Nat × Command × CollReq) : List Nat := tableLines s x.2.1 x.2.2 (List.range (commRanks x.2.2.comm))
/-- An entry of the rank table names another device, or another core, than that of a rank. Its bits 63:17 are ignored. DESIGN CHOICE: the spec
gives no response to a nonzero one (R383; log 96). -/
def wrongEntry (s : State) (c : Command) (v : Nat) : Bool :=
  decide (v % 256 ≠ s.dev.domIdx.toNat) || decide (v / 256 % 512 ≠ c.core)

/-- The first rank whose entry of the rank table is not read, and why. -/
def tableMiss (s : State) (c : Command) (q : CollReq) : Option (Nat × EngRead) :=
  (List.range (commRanks q.comm)).findSome? fun p => match rankEntry s c q p with
    | .val .. => none
    | r => some (p, r)

/-- Two ranks agree (R386). -/
def collAgree (a b : CollReq) : Bool :=
  a.op == b.op && a.red == b.red && a.ty == b.ty && a.n == b.n && commRanks a.comm == commRanks b.comm &&
    commRoot a.comm == commRoot b.comm

def EngRead.num : EngRead → Nat
  | .val v _ => v
  | _ => 0
def EngRead.taint : EngRead → Bool
  | .val _ t => t
  | _ => false
def EngRead.isVal : EngRead → Bool
  | .val .. => true
  | _ => false

/-- The value of destination element `i` of rank `me`, with its flags and taint. -/
def collElem (s : State) (cmds : Ranks) (q : CollReq) (me i : Nat) : EngRead × Flags :=
  let ranks := List.range (commRanks q.comm)
  let at_ (k : Nat) : Nat := if q.op = 1 then me * q.n + k else k
  if q.op = 2 then (rankRead s cmds q (i / q.n) (i % q.n), 0)
  else if q.op = 3 then (rankRead s cmds q (commRoot q.comm) i, 0)
  else
    let first := i / 32 * 32
    let block := ranks.map fun p => ((List.range 32).filter fun j => decide (first + j < q.n)).map fun j => rankRead s cmds q p (at_ (first + j))
    let mine := ranks.map fun p => rankRead s cmds q p (at_ i)
    match mine.find? fun r => !r.isVal with
    | some r => (r, 0)
    | none =>
      let e := blockExp q.ty (block.map fun l => l.map EngRead.num)
      let r := reduceAt q.ty q.red q.rm e (mine.map EngRead.num)
      (.val r.1 (mine.any EngRead.taint), r.2)

/-- Source elements of a rank that are read (R385). -/
def CollReq.ins (q : CollReq) : Nat :=
  if q.op = 1 then commRanks q.comm * q.n else if q.op = 3 ∧ commMine q.comm ≠ commRoot q.comm then 0 else q.n
def CollReq.srcs (q : CollReq) : List Word64 := (List.range q.ins).map fun i => q.src + BitVec.ofNat 64 (q.z * i)
def CollReq.dsts (q : CollReq) : List Word64 := (List.range q.outs).map fun i => q.dst + BitVec.ofNat 64 (q.z * i)
/-- How a rank's own accesses meet their addresses. -/
def rankMeets (s : State) (cmds : Ranks) (x : Nat × Command × CollReq) : List (Word64 × EngAt) :=
  let path := rankPath s cmds x.2.1
  (x.2.2.srcs.map fun va => (va, s.engAt path x.2.2.sspace false false va x.2.2.z)) ++
    x.2.2.dsts.map fun va => (va, s.engAt path x.2.2.dspace true (x.2.2.dspace == 1) va x.2.2.z)

/-- The window accesses of a rank that reach a target now are accepted there, and those to an engine take their places in its order (R318,
R319). -/
def arriveRank (s0 : State) (cmds : Ranks) (s : State) (x : Nat × Command × CollReq) : State :=
  let q := x.2.2
  let path := { rankPath s0 cmds x.2.1 with own := [x.2.1.serial] }
  let s := s.arrive path ((q.srcs.map fun va => (q.sspace, false, va, q.z)) ++ q.dsts.map fun va => (q.dspace, true, va, q.z))
  (rankMeets s0 cmds x).foldl (fun s m => match m.2 with
    | .turn k => s.markTurn k x.2.1.serial x.2.1.asid x.2.1.g
    | _ => s) s
/-- The ranks of an instance on this device wait: for a line of a scratchpad or their place in the order of an engine, or for pages that are
zeroing, whose walks start (R313, R318, R422). -/
def collStalls (s : State) (cmds : Ranks) : Option State :=
  let zeros := cmds.flatMap fun x => (rankMeets s cmds x).filterMap fun m => if m.2 = .zero then some (s.cmdCtx x.2.1, m.1) else none
  let stays (a : EngAt) : Bool := match a with
    | .wait | .turn _ => true
    | _ => false
  if !zeros.isEmpty then some (zeros.foldl (fun s z => s.startZero z.1 z.2) s)
  else if cmds.any fun x => (rankMeets s cmds x).any fun m => stays m.2 then some (cmds.foldl (arriveRank s cmds) s) else none
/-- The ranks whose own access fails (R376, R378): the command, the cause, the address. -/
def collFails (s : State) (cmds : Ranks) : List (Command × Nat × Word64) :=
  cmds.filterMap fun x => (rankMeets s cmds x).findSome? fun m => (m.2.cause? s).map fun k => (x.2.1, k, m.1)
/-- The lines that the walks for a rank's elements read. -/
def rankWalks (s : State) (cmds : Ranks) (x : Nat × Command × CollReq) : List Nat :=
  let path := rankPath s cmds x.2.1
  s.walkLines path x.2.2.sspace x.2.2.srcs ++ s.walkLines path x.2.2.dspace x.2.2.dsts
/-- The lines that a rank's accesses to its elements move at HBM, with their walks. -/
def rankLines (s : State) (cmds : Ranks) (x : Nat × Command × CollReq) : List Nat :=
  (rankWalks s cmds x ++
    s.hbmLines ((rankMeets s cmds x).filterMap fun m => m.2.target?)).dedup
/-- Some lines of each rank are charged to its context. -/
def chargeRanks (s : State) (cmds : Ranks) (lines : Nat × Command × CollReq → List Nat) : State :=
  cmds.foldl (fun t x => t.chargeLines x.2.1.asid (s.classOf x.2.1.g.grid) (lines x)) s
/-- The budget of a stack holds back some line of a rank (R428). -/
def ranksHeld (s : State) (cmds : Ranks) (lines : Nat × Command × CollReq → List Nat) : Bool :=
  cmds.any fun x => !s.linesOpen x.2.1.asid (s.classOf x.2.1.g.grid) (lines x)

/-- The destination of a rank is written, line by line, in the lines that `pick` takes and whose elements can be formed and reached. An
element takes the taint of the contributions to it (R385). -/
def writeRank (s0 s : State) (cmds : Ranks) (c : Command) (q : CollReq) (pick : Nat → Bool) : State × Command :=
  let x := rankPath s0 cmds c
  let els := (List.range q.outs).map fun i =>
    let va := q.dst + BitVec.ofNat 64 (q.z * i)
    (va, collElem s0 cmds q (commMine q.comm) i, s0.engTarget x q.dspace true (q.dspace == 1) va q.z)
  let good (e : Word64 × (EngRead × Flags) × EngAt) : Bool := e.2.1.1.isVal && (e.2.2.target?.isSome || e.2.2.far)
  let lines := ((els.map fun e => e.1.toNat / 64).dedup).filter fun ln =>
    pick ln && els.all fun e => decide (e.1.toNat / 64 ≠ ln) || good e
  lines.foldl (fun (s, c) ln =>
    let mine := els.filter fun e => decide (e.1.toNat / 64 = ln)
    let puts := mine.filterMap fun e => e.2.2.target?.map fun u => (u, leBytes e.2.1.1.num q.z)
    let s := s.putLine c.g (if c.det then .det false else .outside) puts false
    let hot := mine.filter fun e => c.det && e.2.1.1.taint
    let s := hot.foldl (fun s e => (e.2.2.target?.map fun u => s.taintAt u q.z).getD s) s
    let wrote := if q.dspace = 0 then
        mine.foldl (fun w e => Table.put w e.1.toNat (BitVec.ofNat 3 q.z.log2, BitVec.ofNat 64 e.2.1.1.num)) c.wrote
      else c.wrote
    (s, { c with t := c.t || !hot.isEmpty, wrote := wrote, flags := mine.foldl (fun f e => f ||| e.2.1.2) c.flags })) (s, c)

/-- Every rank of an instance on this device but some completes with a status. -/
def endOthers (s : State) (cmds : Ranks) (but : List Nat) (status cause : Nat) : State :=
  (cmds.filter fun x => !but.contains x.2.1.serial).foldl (fun s x => s.finishCmd x.2.1 status cause 0) s
/-- Every destination sector of a COLL is tainted, in a deterministic grid (R401). -/
def State.taintRank (s : State) (c : Command) : State :=
  match collReq c.kind with
  | some q => if c.det then s.taintAll (rankPath s [] c) q.dspace q.z q.dsts else s
  | none => s
/-- Ranks that a failing rank aborts (R387): their destinations are tainted and they complete ABORTED. -/
def abortOthers (s : State) (cmds : Ranks) (but : List Nat) : State :=
  endOthers ((cmds.filter fun x => !but.contains x.2.1.serial).foldl (fun s x => s.taintRank x.2.1) s) cmds but 4 0

/-- Pages of the destinations that the ranks of an instance are to taint are still to be zeroed (R401, R422). -/
def taintStalls (s : State) (cmds : Ranks) : Option State :=
  cmds.findSome? fun x => if x.2.1.det then s.taintWaits (rankPath s [] x.2.1) x.2.2.dspace x.2.2.dsts else none

/-- The ranks of the instance on this device, as the rank table names them: none where an entry cannot be read. -/
def localRanks (s : State) (c : Command) (q : CollReq) : Option (List Nat) :=
  let one (p : Nat) : Option (Nat × Bool) :=
    match rankEntry s c q p with
    | .val v _ => some (p, v % 256 == s.dev.domIdx.toNat)
    | _ => none
  ((List.range (commRanks q.comm)).mapM one).map fun l => (l.filter fun p => p.2).map fun p => p.1

/-- The peer devices of an instance. -/
def remoteDevs (s : State) (c : Command) (q : CollReq) : List Nat :=
  (List.range (commRanks q.comm)).filterMap fun p =>
    match rankEntry s c q p with
    | .val v _ => if v % 256 = s.dev.domIdx.toNat then none else some (v % 256)
    | _ => none

/-- Every rank of the instance on this device has issued, and none of them is held back (R340, R386, R426). -/
def collIssued (s : State) (c : Command) (q : CollReq) : Bool :=
  ((localRanks s c q).map fun here => here.all fun p => (instanceOf s q).any fun x => x.1 == p).getD false &&
    (instanceOf s q).all fun x => s.free x.2.1.asid x.2.1.after x.2.1.stop

/-- The first command of an instance whose rank the rank table gives to another core or device (R386), and whether an entry is not read
yet. -/
def wrongRank (s : State) (cmds : Ranks) : Option Command × Bool :=
  cmds.foldl (fun a x =>
    match rankEntry s x.2.1 x.2.2 x.1 with
    | .val v _ => if a.1.isNone && wrongEntry s x.2.1 v then (some x.2.1, a.2) else a
    | _ => (a.1, true)) (none, false)

/-- A COLL that failed at its acceptance or under the rank table completes (R386). The check of the rank table precedes that of the sequence
number; a rank that fails the first check aborts the others. -/
def collRefused (s : State) (c : Command) (q : CollReq) (k i : Nat) : State :=
  let bad := k = 9 && (match rankEntry s c q (commMine q.comm) with
    | .val v _ => wrongEntry s c v
    | _ => false)
  let k := if bad then 10 else k
  let cmds := instanceOf s q
  let s := if k = 10 && cmds.any (fun x => x.2.1.serial != c.serial) then (abortOthers s cmds [c.serial]).retireSeq q else s
  s.finishCmd c 3 k i

/-- The ranks of an instance that have all issued are performed (R385): every destination is written, and every rank completes. -/
def collPerform (s : State) (cmds : Ranks) : State :=
  let out := cmds.foldl (fun (a : State × List Command) x =>
    let r := writeRank s a.1 cmds x.2.1 x.2.2 (fun _ => true)
    (r.1, a.2 ++ [r.2])) (chargeRanks s cmds fun x => wholeTable s x ++ rankLines s cmds x, [])
  out.2.foldl (fun t x => t.finishCmd x 1 0 0) out.1

/-- An instance whose ranks have all issued comes to its outcome: MISMATCH, a failing access, a stop for a replay, a wait, or DONE. A rank
whose own access or table read fails ends FAULT, the others ABORTED, and the number is retired: the spec says what the failing rank gets,
and nothing of the others: DESIGN CHOICE (log 79). -/
def collOutcome (s0 : State) (c : Command) (q : CollReq) (cmds : Ranks) : Option State :=
  let far := remoteDevs s0 c q
  let cls := s0.classOf c.g.grid
  let tables (s : State) : State := chargeRanks s cmds (wholeTable s0)
  if ranksHeld s0 cmds (wholeTable s0) then some s0.bump else
  let s := s0
  if far.any fun d => s.dev.ports = 0 || !Config.peerReached s.dev.ports d then
    (taintStalls s cmds).or (some (((abortOthers (tables s) cmds [c.serial]).finishCmd c 3 12 0).retireSeq q))
  else if !far.isEmpty && !s.admitted c.asid cls 29 then some s
  else if (cmds.any fun x => !collAgree q x.2.2) || (!far.isEmpty && Config.choice s.tick % 2 == 1) then
    some (((endOthers (tables s) cmds [] 3 11).retireSeq q).bump)
  else
    match collStalls s cmds with
    | some s => some s
    | none =>
      let fails := collFails s cmds
      let hard := fails.filter fun f => (s.stopFor f.1.asid f.2.1).isNone
      if !fails.isEmpty && ranksHeld s cmds (rankWalks s cmds) then some s.bump
      else if !hard.isEmpty then
        (taintStalls s cmds).or <|
        let s := abortOthers (chargeRanks (tables s) cmds (rankWalks s0 cmds)) cmds (hard.map (·.1.serial))
        some ((hard.foldl (fun s f => s.finishCmd f.1 3 f.2.1 0) s).retireSeq q)
      else if !fails.isEmpty then
        some (fails.foldl (fun s f => (s.replayRecord f.1.asid f.1.g.grid f.2.2).setCmd { f.1 with stop := s.stopFor f.1.asid f.2.1 }) s)
      else if ranksHeld s cmds (rankLines s cmds) then some s.bump
      else
        let t := ((collPerform s cmds).retireSeq q).chargeStep c.asid cls 28
        some (if far.isEmpty then t else t.chargeStep c.asid cls 29)

/-- The contexts with admitted work at the collective engine of a die (R429). -/
def collReady (s : State) (die : Nat) : List Nat :=
  (s.cmds.filter fun c => decide (dieOf c.core = die) && decide (c.eng = 3) && c.going s 28 &&
    ((collReq c.kind).map fun q => collIssued s c q).getD false).map (·.asid)
/-- Pages still to be zeroed keep an instance waiting: those of its ranks' counters (R422). -/
def collWaits (s : State) (c : Command) (q : CollReq) : Option State :=
  (c :: (instanceOf s q).map (·.2.1)).findSome? s.ctrWaits

/-- A failed COLL completes (R386); one whose number was found stale reads its own entry of the rank table first, and one that aborts the others
waits for the pages that they taint. One that failed as it was accepted completes once the commands that a CFENCE has set before it have
(R340). -/
def collFailed (s : State) (c : Command) (q : CollReq) (k i : Nat) : Option State :=
  let own := if k = 9 then tableLines s c q [commMine q.comm] else []
  let cls := s.classOf c.g.grid
  if !s.linesOpen c.asid cls own then some s.bump
  else ((taintStalls s (instanceOf s q)).or (collWaits s c q)).or (some (collRefused (s.chargeLines c.asid cls own) c q k i))

/-- COLL_COMPLETE: a failed command ends; an instance whose ranks have all issued is performed (R385, R386). -/
def collStep (s : State) (n : Nat) : Option State :=
  (s.cmd? n).bind fun c =>
    if c.eng ≠ 3 || (c.failed.isSome && !s.free c.asid c.after none) then none
    else
    match collReq c.kind, c.failed with
    | none, none => none
    | none, some (k, i) => (s.ctrWaits c).or (some (s.finishCmd c 3 k i))
    | some q, some (k, i) => collFailed s c q k i
    | some q, none =>
      if !c.going s 28 then none
      else
        let cmds := instanceOf s q
        let entryVa (p : Nat) : Word64 := commTable q.comm + BitVec.ofNat 64 (8 * p)
        match tableMiss s c q with
        | some (p, .fail k) =>
          match s.stopFor c.asid k with
          | some m => some ((s.replayRecord c.asid c.g.grid (entryVa p)).setCmd { c with stop := some m })
          | none => ((taintStalls s cmds).or (collWaits s c q)).or (some (((abortOthers s cmds [c.serial]).finishCmd c 3 k 0).retireSeq q))
        | some (p, .zero) => some (s.startZero (s.cmdCtx c) (entryVa p))
        | some _ => none
        | none =>
          match wrongRank s cmds with
          | (some x, _) =>
            if ranksHeld s cmds (wholeTable s) then some s.bump
            else some ((chargeRanks s cmds (wholeTable s)).setCmd { x with failed := some (10, 0) })
          | (none, true) => none
          | (none, false) =>
            if !collIssued s c q || !s.turnOf (queueAt (40 * dieOf c.core) 3) c.asid (collReady s (dieOf c.core)) then none
            else
              let s := s.served (queueAt (40 * dieOf c.core) 3) c.asid
              (collWaits s c q).or (collOutcome s c q cmds)

/-- COLL_ABORT: an instance ends early (R387): by FCANCEL, a kill or a swap-out of this rank's, or, where a rank is on a peer device, by
that rank. Each line of the destinations keeps its contents or takes the final ones (log 4), and is tainted (R401). The lines of its ranks
count at their stacks, and wait for them (R428; log 9). -/
def collAbortStep (s : State) (n : Nat) : Option State :=
  (s.cmd? n).bind fun c =>
  (collReq c.kind).bind fun q =>
    if c.eng ≠ 3 || c.failed.isSome || !(c.cancel || c.abort || !(remoteDevs s c q).isEmpty) then none
    else
      let cmds := instanceOf s q
      let ready := ((localRanks s c q).map fun here => here.all fun p => cmds.any fun x => x.1 == p).getD false &&
        cmds.all fun x => collAgree q x.2.2
      let lines (x : Nat × Command × CollReq) : List Nat := wholeTable s x ++ (if ready then rankLines s cmds x else [])
      if ranksHeld s cmds lines then some s.bump else
      let out := cmds.foldl (fun (a : State × List Command) x =>
        if !ready then (a.1, a.2 ++ [x.2.1])
        else
          let r := writeRank s a.1 cmds x.2.1 x.2.2 (fun ln => Config.choice (s.tick + ln) % 2 == 1)
          (r.1, a.2 ++ [r.2])) (chargeRanks s cmds lines, [])
      let last (s : State) (x : Command) : State :=
        let s := s.taintRank x
        let x := { x with t := x.t || x.det }
        if x.serial = n && x.abort then { s with cmds := s.cmds.filter fun y => decide (y.serial ≠ n) }
        else if x.serial = n && x.cancel then s.finishCmd x 2 0 0
        else s.finishCmd x 4 0 0
      ((taintStalls s cmds).or (collWaits s c q)).or (some (((out.2.foldl last out.1).retireSeq q).bump))

def execCollComplete (n : Nat) (s : State) : Host.Outcome State Fault Refusal := event s (collStep s n)
def execCollAbort (n : Nat) (s : State) : Host.Outcome State Fault Refusal := event s (collAbortStep s n)

/-! ### LAUNCH (R101, R388) -/

/-- The physical addresses of the two lines of a ring slot; the cause where one cannot be written. A caller waits first for a page that is
still to be zeroed. -/
def packetPlaces (s : State) (unit : Nat) (ctx : Context) (va : Word64) : Except Nat (List Nat) :=
  [0, 64].mapM fun o =>
    match s.access unit ctx .write (va + BitVec.ofNat 64 o) with
    | .ok pa => .ok pa
    | .fault k => .error (engCause k)
    | _ => .error 4

/-- The packet is written into its slot and WRITE advances, as one step (R101), and the command is DONE. -/
def launchPut (s : State) (c : Command) (p : BitVec 1024) (qn : Nat) (pas : List Nat) (lines : List Nat) : State :=
  let q := s.queue qn
  let bs := leBytes p.toNat 128
  let mode : TaintMode := if c.det then .det c.t else .outside
  let s := s.chargeLines c.asid (s.classOf c.g.grid) lines
  let s := (pas.zip [0, 64]).foldl (fun s x => s.homeWrite mode x.1 ((bs.drop x.2).take 64)) s
  let wrote : Table (BitVec 3 × Word64) := (List.range 16).map fun i =>
    ((q.slot q.write.toNat).toNat + 8 * i, (3, BitVec.ofNat 64 (p.toNat / 2 ^ (64 * i))))
  (s.setQueue qn { q with write := q.write + 1 }).finishCmd { c with wrote := wrote } 1 0 0

/-- The sectors of the slot that a cancelled LAUNCH could have written are tainted, in a deterministic grid (R401). -/
def State.taintSlot (s : State) (c : Command) (unit : Nat) (ctx : Context) (va : Word64) : State :=
  match c.det, packetPlaces s unit ctx va with
  | true, .ok pas => pas.foldl (fun s pa => s.taintAt (.mem pa) 64) s
  | _, _ => s

/-- LAUNCH_ENQUEUE: the packet is written and WRITE advances as one step, or the command ends without (R388). The step takes its turn at the copy
engine and counts for its channels (R427 to R429). -/
def launchStep (s : State) (n : Nat) : Option State :=
  (s.cmd? n).bind fun c =>
  (s.ctx? c.asid).bind fun ctx =>
    match c.kind with
    | .launch p qn =>
      let q := s.queue qn
      let unit := dieUnit (dieOf c.core)
      let va := q.slot q.write.toNat
      let vas := [va, va + 64]
      if c.cancel then ((if c.det then s.waitZero unit ctx .write va 128 else none).or (s.ctrWaits c)).or (some ((s.taintSlot c unit ctx va).finishCmd { c with t := c.t || c.det } 2 0 0))
      else if !s.free c.asid c.after c.stop then none
      else if !q.en || !q.mode || decide (q.asid ≠ c.asid) then (s.ctrWaits c).or (some (s.finishCmd c 3 8 0))
      else if !launchFits s c || !c.going s 27 || !s.copyTurn c.core c.asid then none
      else
        let s := s.served (queueAt c.core 1) c.asid
        let cls := s.classOf c.g.grid
        ((s.waitZero unit ctx .write va 128).or (s.ctrWaits c)).or <|
        match packetPlaces s unit ctx va with
        | .error k =>
          match s.stopFor c.asid k with
          | some m => some ((s.replayRecord c.asid c.g.grid va).setCmd { c with stop := some m })
          | none =>
            let walks := vas.flatMap (s.xlatReads unit ctx)
            some (if s.linesOpen c.asid cls walks then (s.chargeLines c.asid cls walks).finishCmd c 3 k 0 else s.bump)
        | .ok pas =>
          let lines := (vas.flatMap (s.xlatReads unit ctx)) ++ pas
          some (if s.linesOpen c.asid cls lines then (launchPut s c p qn pas lines).chargeStep c.asid cls 27 else s.bump)
    | _ => none

def execLaunchEnqueue (n : Nat) (s : State) : Host.Outcome State Fault Refusal := event s (launchStep s n)

end Sys2Proof.Machine
end

