-- ==== Sys2Proof/Machine/Commands.lean ====
section
/-!
DEFINITION. The words that issue copy, gather, collective and launch commands, and the future words, opcode group 10
(15_async_engines.md R374 to R376, R389 to R394).
-/
namespace Sys2Proof.Machine
open Sys2Proof

/-- A record read at its word through an engine path (R376). -/
inductive RecRead where
  | ok (lines : List Nat) (v : Nat) (t : Bool)
  | fault (cause : Nat)
  /-- It stands on a peer device that no path reaches. -/
  | lost
  | zero
  deriving DecidableEq, Repr, Inhabited

/-- The entries that the walk of a record's address reads (R424). -/
def Env.recWalk (e : Env) (va : Word64) : List Nat := e.s.xlatReads (dieUnit (dieOf e.g.core)) e.ctx va
/-- The lines of a record count at HBM, with those of its walk (R321, R424). -/
def Env.recLines (e : Env) (va : Word64) (pa n : Nat) : List Nat := e.recWalk va ++ (linesOf pa n).map (64 * ·)
/-- A record of COPY or COLL may stand on a peer page, `peers` (R423); the peer answers as it answers a COPY (R432). -/
def Env.readRec (e : Env) (peers : Bool) (va : Word64) (n : Nat) : RecRead :=
  match e.s.accessPeer (dieUnit (dieOf e.g.core)) e.ctx .read va with
  | .ok pa => if e.s.poisoned pa n then .fault 8 else .ok (e.recLines va pa n) (e.s.home.nat pa n) (e.s.home.tainted pa n)
  | .fault k => .fault k
  | .peer d pa =>
    if !peers then .fault 5
    else match peerFails e.s d with
      | none => .ok (e.recWalk va) (leNat ((List.range n).map fun i => Config.peerByte e.s.tick (pa + i))) false
      | some k => if k = 12 then .lost else .fault 5
  | .zero => .zero

/-- A precise fault of a group-class word, with an address (R489). -/
def groupFault (e : Env) (cause : Nat) (addr : Word64) : WordOut := .fault e cause addr e.r.active 0 {}

/-- The first misaligned address of a list of addresses with their multiples is a precise alignment fault (R376). -/
def aligned (e : Env) (l : List (Word64 × Nat)) (k : WordOut) : WordOut :=
  match l.find? fun p => decide (p.1.toNat % p.2 ≠ 0) with
  | some (a, _) => groupFault e 3 a
  | none => k

/-- What a word does with the records that its command names: read in order, each counted at HBM with its walk, which counts where the read
fails too (R321, R424, R428), behind the effects of run A of the round (R324). `lost` is what it does where one stands on a peer that no path reaches; none where it is no word of COPY or COLL. -/
def withRecs (e : Env) (n : Nat) (lost : Option (Env → WordOut)) : List Word64 → (Env → List Nat → Bool → WordOut) → WordOut
  | [], k => k e [] false
  | va :: rest, k =>
    if e.behindA then .stall (e.waitAt n [])
    else
    let failing (k : Env → WordOut) : WordOut :=
      if e.s.linesOpen e.ctx.asid (pkClass e.pkt) (e.recWalk va) then k (e.walked (e.recWalk va)) else .stall (e.waitAt n []).bump
    match e.readRec lost.isSome va n with
    | .fault c => failing fun e => groupFault e c va
    | .zero => .stall (e.s.startZero e.ctx va)
    | .lost => failing fun e => (lost.map fun f => f { e with s := e.s.bump }).getD (groupFault e 5 va)
    | .ok lines v t =>
      if !e.s.linesOpen e.ctx.asid (pkClass e.pkt) lines then .stall (e.waitAt n []).bump
      else withRecs { e with s := (e.s.chargeLines e.ctx.asid (pkClass e.pkt) lines).bump } n lost rest fun e l u => k e (v :: l) (t || u)

/-- A command leaves at the boundary, and its handle is written with a pending tag (R84, R375). -/
def issueCommand (e : Env) (d : BitVec 8) (k : CmdKind) (ctr : Word64) (t : Bool) : WordOut :=
  let key := e.g.keys
  .retire { e with g := { e.g with keys := key + 1 } }
    { defer := [.uniform d.toNat key .pending (e.ut t)], effs := [.command k d.toNat ctr key (e.ut t)] }

/-- S registers `n` to `n + k − 1` of a field, with their taint. -/
def Env.block (e : Env) (n : BitVec 8) (k : Nat) : List Word64 := (List.range k).map fun i => (e.scell (n.toNat + i)).w
def Env.blockT (e : Env) (n : BitVec 8) (k : Nat) : Bool := (List.range k).any fun i => decide ((e.scell (n.toNat + i)).t ≠ 0)
/-- Register `i` past a field. -/
def Env.uAt (e : Env) (n : BitVec 8) (i : Nat) : Word64 := (e.scell (n.toNat + i)).w

/-- The coordinates of a block (R374). -/
def coordsOf (e : Env) (n : BitVec 8) : List Int :=
  let half (w : Word64) (h : Nat) : Int := (w.extractLsb' (32 * h) 32).toInt
  [half (e.uAt n 0) 0, half (e.uAt n 0) 1, half (e.uAt n 1) 0, half (e.uAt n 1) 1, half (e.uAt n 2) 0]

def execCopy (o : OpF) (s : State) : Host.Outcome State Fault Refusal :=
  word o.rb s fun e =>
    aligned e [(e.uAt o.a 0, 64), (e.uAt o.b 0, 64), (e.uAt o.c 3, 8)] <|
    let t0 := e.blockT o.a 2 || e.blockT o.b 2 || e.blockT o.c 4
    withRecs e 64 (some fun e => issueCommand e o.d (.lost 1 (e.uAt o.b 1)) (e.uAt o.c 3) t0) [e.uAt o.a 0, e.uAt o.b 0] fun e l t =>
      let r (i : Nat) : BitVec 512 := BitVec.ofNat 512 ((l[i]?).getD 0)
      issueCommand e o.d (.copy (r 0) (r 1) (e.uAt o.a 1) (e.uAt o.b 1) (coordsOf e o.c) (o.field 10 2) (o.field 8 2) (rmOf o))
        (e.uAt o.c 3) (t || t0)

def execGather (o : OpF) (s : State) : Host.Outcome State Fault Refusal :=
  word o.rb s fun e =>
    aligned e [(e.uAt o.a 0, 64), (e.uAt o.b 0, 64), (e.uAt o.c 3, 8), (e.uAt o.c 0, 4)] <|
    withRecs e 64 none [e.uAt o.a 0, e.uAt o.b 0] fun e l t =>
      let r (i : Nat) : BitVec 512 := BitVec.ofNat 512 ((l[i]?).getD 0)
      aligned e [(e.uAt o.a 1, recSize (r 0))] <|
      issueCommand e o.d (.gather (r 0) (r 1) (e.uAt o.a 1) (e.uAt o.b 1) (e.uAt o.c 0) (bits (e.uAt o.c 1) 0 32)
          (o.field 10 2) (o.field 8 2) (rmOf o))
        (e.uAt o.c 3) (t || e.blockT o.a 2 || e.blockT o.b 2 || e.blockT o.c 4)

def execColl (o : OpF) (s : State) : Host.Outcome State Fault Refusal :=
  word o.rb s fun e =>
    aligned e [(e.uAt o.a 0, 64), (e.uAt o.b 0, memSize o.ty), (e.uAt o.b 1, memSize o.ty), (e.uAt o.c 1, 8)] <|
    let t0 := e.blockT o.a 2 || e.blockT o.b 2 || e.blockT o.c 2
    withRecs e 64 (some fun e => issueCommand e o.d (.lost 3 (e.uAt o.b 1)) (e.uAt o.c 1) t0) [e.uAt o.a 0] fun e l t =>
      issueCommand e o.d (.coll (BitVec.ofNat 512 ((l[0]?).getD 0)) (bits (e.uAt o.a 1) 0 32) (e.uAt o.b 0) (e.uAt o.b 1)
          (bits (e.uAt o.c 0) 0 32) o.ty (o.field 9 2) (o.field 7 2) (o.field 6 1) (o.field 5 1) (rmOf o))
        (e.uAt o.c 1) (t || t0)

def execLaunch (o : OpF) (s : State) : Host.Outcome State Fault Refusal :=
  word o.rb s fun e =>
    aligned e [((e.us o.a).w, 128), ((e.us o.c).w, 8)] <|
    withRecs e 128 none [(e.us o.a).w] fun e l t =>
      issueCommand e o.d (.launch (BitVec.ofNat 1024 ((l[0]?).getD 0)) (bits (e.us o.b).w 0 6)) (e.us o.c).w
        (t || (e.us o.a).t || (e.us o.b).t || (e.us o.c).t)

/-! ### Future words (R389 to R394) -/

/-- The status of the future that a word names (R372). -/
def Env.statusOf (e : Env) (h : Word64) : Word64 := (e.s.futureStatus e.g.ref.tref (pkGroups e.pkt) h).getD 6

/-- FTEST (R390). Its push is timing-dependent (R401). -/
def execFtest (o : OpF) (s : State) : Host.Outcome State Fault Refusal :=
  word o.rb s fun e =>
    let b := decide (bits (e.statusOf (e.us o.a).w) 0 3 ≠ 0)
    .retire e { lanes := e.active.map fun t => e.pushP t false b true }

/-- FWAIT (R391). -/
def execFwait (o : OpF) (s : State) : Host.Outcome State Fault Refusal :=
  word o.rb s fun e =>
    let h := e.us o.a
    .retire e { defer := [.wait (.fut h.w) ((e.setE o).map fun t => (t, e.det && h.t))] }

/-- FCANCEL (R392). -/
def execFcancel (o : OpF) (s : State) : Host.Outcome State Fault Refusal :=
  word o.rb s fun e => .retire e { effs := [.cancel (e.us o.a).w] }

/-- FMOV (R393): word, tag and taint; with D = A nothing. -/
def execFmov (o : OpF) (s : State) : Host.Outcome State Fault Refusal :=
  word o.rb s fun e =>
    let c := e.scell o.a.toNat
    .retire e { sregs := if o.d = o.a then [] else [(o.d.toNat, { mkS c.w (e.ut (decide (c.t ≠ 0))) with tag := c.tag })] }

/-- FSTAT (R394). -/
def execFstat (o : OpF) (s : State) : Host.Outcome State Fault Refusal :=
  word o.rb s fun e =>
    let h := e.us o.a
    .retire e { defer := [.fstat o.d.toNat h.w (if e.ut h.t then 3 else 0)] }

end Sys2Proof.Machine
end

