-- ==== Sys2Proof/Machine/Order.lean ====
section
/-!
DEFINITION. Ordering and synchronization words, opcode group 9: PHASE, FENCE and CFENCE (14_memory_instructions.md R363 to R366), BAR,
ORDW, ORDD and CNTWAIT (07_control_instructions.md R178 to R187), TFENCE (18_traps_and_preemption.md R449). Each leaves its run as a
boundary effect (R82) or a deferred write (R83).
-/
namespace Sys2Proof.Machine
open Sys2Proof

/-- A word that is one boundary effect. -/
def effectWord (o : OpF) (f : Effect) (s : State) : Host.Outcome State Fault Refusal :=
  word o.rb s fun e => .retire e { effs := [f] }

def execPhase (o : OpF) (s : State) := effectWord o (.phase o.low2) s
def execFence (o : OpF) (s : State) := effectWord o (.fence o.low2) s
def execCfence (o : OpF) (s : State) := effectWord o (.cfence (o.field 4 4) (o.field 0 4)) s
/-- ORDD (R183). -/
def execOrdd (o : OpF) (s : State) := effectWord o (.ordd o.low2) s

/-- Lanes of E block at the boundary; an empty E arrives nowhere. -/
def blockWord (e : Env) (o : OpF) (w : Wait) : WordOut :=
  .retire e { effs := if (e.setE o).isEmpty then [] else [.block (e.r.pos + 1) w (e.setE o)] }

/-- The barrier that a BAR names (R178). -/
def barrierOf (o : OpF) : Barrier :=
  match o.low2 with
  | 0 => .team
  | 1 => .role (o.field 2 2)
  | _ => .grid
/-- BAR (R178, R179). -/
def execBar (o : OpF) (s : State) : Host.Outcome State Fault Refusal :=
  word o.rb s fun e =>
    if o.low2 = 1 ∧ pkRoles e.pkt ≤ o.field 2 2 then .fault e 1 0 e.r.active 0 {}
    else blockWord e o (.bar (barrierOf o) e.pc)
/-- ORDW (R183). -/
def execOrdw (o : OpF) (s : State) : Host.Outcome State Fault Refusal :=
  word o.rb s fun e => blockWord e o (.ordw o.low2)

/-- How a read of the counter of a CNTWAIT ends (R185, R186): its value, a precise fault, or a wait for a page that is zeroing. -/
inductive CntRead where
  | val (w : Word64)
  | fault (cause : Nat)
  | zero
  deriving DecidableEq, Repr, Inhabited

/-- The counter, read at its home through a core's LSU path. -/
def State.readCounter (s : State) (core : Nat) (c : Context) (va : Word64) : CntRead :=
  match s.access core c .read va with
  | .ok pa => if s.poisoned pa 8 then .fault 8 else .val (BitVec.ofNat 64 (s.home.nat pa 8))
  | .fault k => .fault k
  | .peer .. => .fault 5
  | .zero => .zero

/-- A counter value ends the wait for a threshold (R185). -/
def cntDone (v thr : Word64) : Bool := v.getLsbD 63 || decide (bits thr 0 63 ≤ bits v 0 63)

/-- CNTWAIT (R185, R186): its first read is made at the word, behind the effects of run A of its round (R322, R324). -/
def execCntwait (o : OpF) (s : State) : Host.Outcome State Fault Refusal :=
  word o.rb s fun e =>
    let a := (e.us o.a).w
    let es := e.setE o
    if es.isEmpty then .retire e {}
    else if a.toNat % 8 ≠ 0 then .fault e 3 a (lanesMask es) 0 {}
    else if e.behindA then .stall (e.waitAt 8 [])
    else
      match e.s.readCounter e.g.core e.ctx a with
      | .fault k => .fault e k a (lanesMask es) (if k = 4 then 1 else 0) {}
      | .zero => .stall (e.s.startZero e.ctx a)
      | .val _ =>
        match e.s.vaWaits e.g.core e.ctx (pkClass e.pkt) .read a 8 with
        | some t => .stall ({ e with s := t }.waitAt 8 [])
        | none => .retire { e with s := e.s.chargeVa e.g.core e.ctx (pkClass e.pkt) a }
            { defer := [.wait (.cnt a (e.us o.b).w e.pc) (es.map fun t => (t, false))] }

/-- TFENCE (R449): its check follows the deferred writes of its run. -/
def execTfence (o : OpF) (s : State) : Host.Outcome State Fault Refusal :=
  word o.rb s fun e => .retire e { tfence := true }

end Sys2Proof.Machine
end

