-- ==== Sys2Proof/Machine/Stage.lean ====
section
/-!
DEFINITION. The arithmetic of the butterfly engine: tensor factors and accumulators (08_number_formats.md R203 to R208), operand slots
as element arrays (11_butterfly_engine.md R280), the stage with its grid rule (R286 to R291), the chain intermediate (R292) and what a
drain delivers (R206, R294).
-/
namespace Sys2Proof.Machine
open Sys2Proof

/-! ### Tensor factors (R205, R290) -/

/-- A tensor factor: class (0 finite nonzero, 1 zero, 2 infinite, 3 NaN), sign, and `sig · 2^exp`. -/
structure TFac where
  cls : Nat
  neg : Bool
  sig : Nat
  exp : Int
  deriving DecidableEq, Repr, Inhabited

/-- A binary32 scale as a factor. -/
def scaleFac (w : Word32) : TFac :=
  let ex := bits w 23 8
  let fr := bits w 0 23
  { cls := if ex = 255 then (if fr = 0 then 2 else 3) else if ex = 0 ∧ fr = 0 then 1 else 0
    neg := w.getLsbD 31
    sig := if ex = 0 then fr else fr + 2 ^ 23
    exp := (max ex 1 : Nat) - 150 }
def TFac.mul (a b : TFac) : TFac :=
  { cls := if a.cls = 3 ∨ b.cls = 3 ∨ (a.cls = 2 ∧ b.cls = 1) ∨ (a.cls = 1 ∧ b.cls = 2) then 3
           else if a.cls = 2 ∨ b.cls = 2 then 2 else if a.cls = 1 ∨ b.cls = 1 then 1 else 0
    neg := a.neg != b.neg
    sig := a.sig * b.sig
    exp := a.exp + b.exp }
def oneScale : Word32 := 0x3F800000
def TFac.one : TFac := (scaleFac oneScale).mul (scaleFac oneScale)
/-- Equal value of two factors (R290). -/
def TFac.same (a b : TFac) : Bool :=
  if a.cls ≠ b.cls then false
  else if a.cls = 3 then true
  else if a.cls ≠ 0 then a.neg == b.neg
  else a.neg == b.neg && cmpMag a.sig a.exp b.sig b.exp == .eq
/-- The 72 bits that hold a factor of two scales. -/
def TFac.enc (a : TFac) : BitVec 72 :=
  BitVec.ofNat 72 (a.sig % 2 ^ 48 + (BitVec.ofInt 16 a.exp).toNat * 2 ^ 48 + (if a.neg then 2 ^ 69 else 0) + a.cls * 2 ^ 70)
def TFac.dec (b : BitVec 72) : TFac :=
  { cls := bits b 70 2, neg := b.getLsbD 69, sig := bits b 0 48, exp := (BitVec.ofNat 16 (bits b 48 16)).toInt }
/-- The factor of an accumulator: 1.0 until a stage fixes it (R283). -/
def BfAcc.fac (a : BfAcc) : TFac := if a.tset then TFac.dec a.T else TFac.one

/-! ### Elements (R203, R280) -/

/-- An element as a product takes it: its value with its block scale, its LNS6 code where it has one, its block exponent. -/
structure BfElem where
  v    : FVal
  code : Option Nat
  bx   : Int
  deriving DecidableEq, Repr, Inhabited

def tagBytes (tag : Nat) : Nat := if tag = 8 then 4 else if tag = 10 then 2 else 1
/-- Elements of a slot (R280). -/
def tagCap (tag : Nat) : Nat := if tag = 8 then 8192 else if tag = 12 then 32768 else 16384
def isLnsTag (tag : Nat) : Bool := tag == 12 || tag == 13
/-- Slots that hold `n` elements. -/
def slotsFor (tag n : Nat) : Nat := (n + tagCap tag - 1) / tagCap tag

/-- Element `q` of a slot. -/
def BfSlot.elem (x : BfSlot) (tag q : Nat) : BfElem :=
  let b := leNat (x.read false (q * tagBytes tag) (tagBytes tag))
  if tag = 8 then { v := unpackF f32 b, code := none, bx := 0 }
  else if tag = 10 then { v := unpackF bf16 b, code := none, bx := 0 }
  else if tag = 12 then { v := lnsVal (b % 64), code := some (b % 64), bx := 0 }
  else
    let sc := (Table.get 0 x.side (q / 32)).toNat
    { v := e8Scale (lnsVal (b % 64)) sc, code := if sc = 255 then none else some (b % 64), bx := (sc : Int) - 127 }
/-- Element `i` of the run at a slot (R280). -/
def BfEngine.elem (e : BfEngine) (f tag i : Nat) : BfElem := (e.slot (f + i / tagCap tag)).elem tag (i % tagCap tag)
/-- An element of a chain intermediate, in FP32 or BF16 (R292). -/
def midElem (half : Bool) (t : Table Word32) (i : Nat) : BfElem :=
  { v := unpackF (if half then bf16 else f32) (Table.get 0 t i).toNat, code := none, bx := 0 }

/-- The exact product of R207. -/
def BfElem.mul (a b : BfElem) : FVal :=
  match a.code, b.code with
  | some x, some y =>
    match lnsMul x y with
    | .fin n m e => .fin n m (e + a.bx + b.bx)
    | v => v
  | _, _ => mulVal a.v b.v

/-! ### Stride registers (R286) -/

abbrev Stride := BitVec 32
def stEn (r : Stride) : Bool := r.getLsbD 19
def stHalf (r : Stride) : Bool := bits r 17 2 == 1
def stXt (r : Stride) : Bool := r.getLsbD 16
def stAdd (r : Stride) : Bool := r.getLsbD 15
def stWcnt (r : Stride) : Nat := bits r 13 2 + 1
def stWslot (r : Stride) : Nat := bits r 8 5
def stB (r : Stride) : Nat := 2 ^ bits r 4 3
def stS (r : Stride) : Nat := 2 ^ bits r 0 4
def stValid (r : Stride) : Bool :=
  decide (bits r 20 12 = 0) && !r.getLsbD 7 && decide (bits r 17 2 ≤ 1) &&
    decide (bits r 0 4 + bits r 4 3 ≤ if stXt r then 8 else 7) && decide (bits r 8 5 + bits r 13 2 ≤ 31)
/-- Weights that a stage uses (R288). -/
def stNeed (r : Stride) : Nat := (if stXt r then 1024 else 512) * stB r
def stWidth (r : Stride) : Nat := if stXt r then 512 else 256

/-! ### The stage (R289, R290) -/

/-- The operands of a stage: rows, activation and weight elements, the tensor factor of the two scales. -/
structure StageIn where
  rows : Nat
  r    : Stride
  x    : Nat → Nat → BfElem
  w    : Nat → BfElem
  T    : TFac

/-- The products of an output, in the order of R289. -/
def StageIn.products (q : StageIn) (row col : Nat) : List (BfElem × BfElem) :=
  let b := stB q.r
  let s := stS q.r
  let kk := col / b
  let i := col % b
  let k := if kk / s % 2 = 1 then kk - s else kk
  let k2 := k + s
  let base := 4 * b * b * (k / (2 * s) * s + k % s)
  let off := if kk / s % 2 = 1 then 2 * b * b else 0
  (List.range b).flatMap fun j =>
    [(q.w (base + off + b * i + j), q.x row (b * k + j)), (q.w (base + off + b * b + b * i + j), q.x row (b * k2 + j))]

/-- The greatest exponent of finite nonzero elements. -/
def maxExp (l : List BfElem) : Option Int :=
  l.foldl (fun m x => if x.v.isFinNZ then some (match m with
    | some e => max e x.v.expo
    | none => x.v.expo) else m) none

/-- The columns whose elements enter the outputs of a half (R291): all where every pair spans both tiles. -/
def ownCols (r : Stride) (half : Nat) : List Nat :=
  if stXt r && decide (stB r * stS r < 256) then (List.range 256).map (· + 256 * half) else List.range (stWidth r)
def StageIn.ex (q : StageIn) (half : Nat) : Option Int :=
  maxExp ((List.range q.rows).flatMap fun row => (ownCols q.r half).map (q.x row))
def StageIn.ew (q : StageIn) : Option Int := maxExp ((List.range (stNeed q.r)).map q.w)

/-- The parts of an accumulator element (R204). -/
def elMant (x : BitVec 50) : Int := (x.extractLsb' 0 48).toInt
def elSt (x : BitVec 50) : Nat := bits x 48 2
def mkEl (st : Nat) (m : Int) : BitVec 50 := BitVec.ofNat 50 (st * 2 ^ 48 + (BitVec.ofInt 48 m).toNat)

/-- The grid exponent at which every mantissa stays below 2⁴⁶ (R290); a mantissa of 48 bits needs at most two more steps. -/
def fitGrid (top : Nat) (g : Int) : Nat → Int → Int
  | 0, g2 => g2
  | n + 1, g2 => if 2 ^ 46 ≤ (shiftRNE top (g2 - g).toNat).1 then fitGrid top g n (g2 + 1) else g2

/-- The steps of R290 before the products: the set, the grid, the shift, the factor. -/
def gridStep (a : BfAcc) (add : Bool) (rows : Nat) (T : TFac) (ex ew : Option Int) : BfAcc × Flags :=
  let a := if add then a else { a with elems := [], g := -32768, tset := false, poison := false }
  let g1 := match ex, ew with
    | some x, some w => max a.g (x + w + 2 - 38)
    | _, _ => a.g
  let top := a.elems.foldl (fun n x => max n (elMant x.2).natAbs) 0
  let g2 := fitGrid top a.g 4 g1
  let sh := (g2 - a.g).toNat
  let out := a.elems.foldl (fun (t : Table (BitVec 50) × Bool) x =>
    let r := shiftRNE (elMant x.2) sh
    (Table.set 0 t.1 x.1 (mkEl (elSt x.2) r.1), t.2 || r.2)) ([], false)
  ({ a with elems := out.1, g := g2, T := T.enc, tset := true, dirty := true, rows := if add then max a.rows rows else rows },
   flagIf out.2 fNX)

/-- One product enters an element (R204, R208); a signalling NaN among its operands raises IV (R192). -/
def addProduct (g : Int) (x : Nat × Int × Flags) (p : BfElem × BfElem) : Nat × Int × Flags :=
  let (st, m, fl) := x
  let iv := flagIf (zeroTimesInf p.1.v p.2.v) fIV ||| snanFlag [p.1.v, p.2.v]
  match p.1.mul p.2 with
  | .nan _ => (3, m, fl ||| iv)
  | .inf n =>
    let k := if n then 2 else 1
    if st = 0 ∨ st = k then (k, m, fl) else if st = 3 then (3, m, fl) else (3, m, fl ||| fIV)
  | .fin n k e =>
    let r := gridUnits n k e g
    (st, m + r.1, fl ||| flagIf r.2 fNX)

/-- The products of some rows enter an accumulator that receives the columns of a half. -/
def addRows (q : StageIn) (half : Nat) (rows : List Nat) (a : BfAcc) : BfAcc × Flags :=
  (rows.flatMap fun row => (List.range 256).map fun c => (row, c)).foldl (fun (x : BfAcc × Flags) rc =>
    let i := 256 * rc.1 + rc.2
    let old := Table.get 0 x.1.elems i
    let r := (q.products rc.1 (256 * half + rc.2)).foldl (addProduct a.g) (elSt old, elMant old, 0)
    ({ x.1 with elems := Table.set 0 x.1.elems i (mkEl r.1 r.2.1) }, x.2 ||| r.2.2)) (a, 0)

/-! ### What an accumulator delivers (R206, R292, R294) -/

/-- An element in a format, with its flags. -/
def deliver (f : FloatFmt) (rm : Nat) (el : BitVec 50) (g : Int) (T : TFac) : Nat × Flags :=
  let m := elMant el
  let neg := decide (m < 0) != T.neg
  match elSt el with
  | 0 =>
    if T.cls = 3 then (f.canonNaN, 0)
    else if m = 0 then if T.cls = 2 then (f.canonNaN, fIV) else (0, 0)
    else if T.cls = 2 then (f.infBits neg, 0)
    else if T.cls = 1 then (f.signBit neg, 0)
    else roundVal f rm (.fin neg (m.natAbs * T.sig) (g + T.exp))
  | 3 => (f.canonNaN, 0)
  | k =>
    if T.cls = 3 then (f.canonNaN, 0)
    else if T.cls = 1 then (f.canonNaN, fIV)
    else (f.infBits (decide (k = 2) != T.neg), 0)
def BfAcc.deliver (a : BfAcc) (f : FloatFmt) (rm : Nat) (T : TFac) (i : Nat) : Nat × Flags :=
  Machine.deliver f rm (Table.get 0 a.elems i) a.g T

/-- The intermediate after a stage (R292): the rows of its accumulators rounded once, with flags. -/
def intermediate (rows : Nat) (half : Bool) (T : TFac) (accs : List BfAcc) : List (Table Word32) × Flags :=
  let f := if half then bf16 else f32
  let one (a : BfAcc) : Table Word32 × Flags :=
    (List.range (256 * rows)).foldl (fun (x : Table Word32 × Flags) i =>
      let r := a.deliver f 0 T i
      (Table.set 0 x.1 i (BitVec.ofNat 32 r.1), x.2 ||| r.2)) ([], 0)
  (accs.map fun a => (one a).1, accs.foldl (fun fl a => fl ||| (one a).2) 0)

/-- Engine cycles of a stage (R299). -/
def stageCycles (rows : Nat) (r : Stride) (xtag wtag : Nat) : Nat :=
  let n := rows * stWidth r * 2 * stB r
  let t := if isLnsTag xtag && isLnsTag wtag then (n + 32767) / 32768
    else if xtag = 8 ∨ wtag = 8 then (4 * n + 8191) / 8192
    else (n + 8191) / 8192
  max 16 t

end Sys2Proof.Machine
end

