-- ==== Sys2Proof/Machine/Butterfly.lean ====
section
/-!
DEFINITION. The butterfly engine of a core: acquisition, the order of commands, transfers, stages, chains and gangs, and the words of
opcode group 11 (11_butterfly_engine.md R274 to R304).
-/
namespace Sys2Proof.Machine
open Sys2Proof

/-! ### Completion (R276, R278, R298) -/

/-- A command that writes memory has a command digest (R407). -/
def bfDigests (k : CmdKind) : Bool :=
  match k with
  | .ossave .. => true
  | .drainMem .. => true
  | _ => false
/-- The destination base of a command. -/
def bfBase (k : CmdKind) : Word64 :=
  match k with
  | .ossave _ _ _ a .. => a
  | .drainMem _ _ _ _ a _ => a
  | _ => 0

/-- A butterfly future completes: its digest, then its counter, then the future (R278, R407). -/
def bfDone (s : State) (core asid : Nat) (p : BfPart) (status cause : Nat) (wrote : Table (BitVec 3 × Word64)) (t : Bool) : State :=
  let s := if s.det p.g.grid && bfDigests p.kind then
      s.giveDigest p.g p.serial (cmdDigest status (bfBase p.kind) wrote) (t && foldsAny status wrote) else s
  let s := s.bumpCounter asid core p.g.grid p.ctr
  s.completeFuture p.g p.slot p.gen (statusWord status 5 p.flags cause 0)

/-- The participants of a command: those of a gang, or itself where it returns a future. -/
def BfCmd.parts (c : BfCmd) : List BfPart :=
  match c.peers, c.kind, c.fut with
  | [], .inl k, some (slot, gen) => [{ g := c.g, serial := c.serial, slot := slot, gen := gen, ctr := c.ctr, kind := k, flags := c.flags }]
  | l, _, _ => l

/-- Every participant of a command completes with a status. -/
def bfDoneAll (s : State) (core : Nat) (c : BfCmd) (status cause : Nat) : State :=
  c.parts.foldl (fun s p => bfDone s core c.asid p status cause c.wrote c.t) s

/-- An open latch fails (R298): every waiting participant, and the arrival that caused it, completes GANG_BROKEN. -/
def failLatch (s : State) (core : Nat) (extra : List BfCmd) : State :=
  let e := s.bfOf core
  let parts := (match e.latch with
    | some l => l.parts
    | none => []) ++ extra
  parts.foldl (fun s c => bfDoneAll s core c 3 6) (s.setBf core { e with latch := none })

/-- The team and the quad core that a window address of an engine names (R315). -/
def windowTeam (grid : Nat) (va : Word64) : TRef := { grid := grid, team := bits va 29 32 }
def StoreReq.engine? (q : StoreReq) : Option Nat :=
  match q.at_ with
  | .slot c .. | .acc c .. => some c
  | _ => none
/-- The engine at which a committed window store lands: the one that its team holds, also while that engine is still to be freed (R276,
R318). -/
def State.storeEngine (s : State) (grid : Nat) (q : StoreReq) : Option Nat :=
  q.engine?.bind fun c =>
    let tm := windowTeam grid q.va
    let mine (p : Nat × BfEngine) : Bool := p.2.holder == some tm && (!pkQuad (s.pkt grid) || decide (p.1 % 4 = bits q.va 27 2))
    if (s.bfOf c).holder = some tm then some c else (s.bf.find? mine).map (·.1)
/-- Committed window stores are still on their way to the engine of a core (R439). -/
def State.storesTo (s : State) (core : Nat) : Bool :=
  s.groups.any fun g => g.outbox.any fun x => match x.2 with
    | .stores l _ => l.any fun q => s.storeEngine g.ref.grid q == some core
    | _ => false

/-- A released engine whose commands have all completed becomes free (R276); a latch that nothing can join any more fails. -/
def bfTidy (s : State) (core : Nat) : State :=
  let e := s.bfOf core
  if e.leaving && e.queue.isEmpty && !s.storesTo core then (failLatch s core []).setBf core {} else s

/-- A command leaves the queue, and nothing of it waits any more. -/
def bfDrop (s : State) (core serial : Nat) : State :=
  let s := s.forget serial
  let e := s.bfOf core
  s.setBf core { e with queue := e.queue.filter fun c => decide (c.serial ≠ serial) }
/-- A command leaves the queue and completes. -/
def bfFinish (s : State) (core : Nat) (c : BfCmd) (status cause : Nat) : State :=
  bfTidy (bfDoneAll (bfDrop s core c.serial) core c status cause) core
/-- A command in progress is kept with its progress. -/
def bfKeep (s : State) (core : Nat) (c : BfCmd) : State :=
  let e := s.bfOf core
  s.setBf core { e with queue := e.queue.map fun x => if x.serial = c.serial then c else x }

/-! ### Acquisition and release (R274 to R276) -/

/-- BFACQ at its boundary: whether the team holds the engine afterwards. -/
def bfAcquire (s : State) (core : Nat) (tm : TRef) : State × Bool :=
  let e := s.bfOf core
  match e.holder with
  | none => if e.queue.isEmpty then (s.setBf core { holder := some tm }, true) else (s, false)
  | some u => (s, u == tm && !e.leaving)

/-- A command enters the engine's queue; `held` notes whether its team holds the engine then (R276). -/
def bfEnqueue (s : State) (core : Nat) (c : BfCmd) : State :=
  let e := s.bfOf core
  s.setBf core { e with queue := e.queue ++ [{ c with held := e.holder == some c.team && !e.leaving }] }
/-- A word without a future enters it, behind the commands that a CFENCE has set before it (R340); or a window access. -/
def bfEnqueueOp (s : State) (core asid : Nat) (g : GRef) (after : List Nat) (op : BfOp) : State :=
  let c : BfCmd := { g := g, team := g.tref, asid := asid, serial := s.serials, fut := none, ctr := 0, kind := .inr op, after := after }
  { bfEnqueue s core c with serials := s.serials + 1 }
/-- A team stops holding the engine, by BFREL or at its exit: at once as its words see it, while what the engine has accepted still
executes, and an open latch fails behind it (R276, R298). -/
def bfRelease (s : State) (core asid : Nat) (g : GRef) : State :=
  let e := s.bfOf core
  if e.holder = some g.tref ∧ !e.leaving then
    let s := bfEnqueueOp s core asid g [] .release
    s.setBf core { s.bfOf core with leaving := true }
  else s

/-! ### Acceptance (R284, R312) -/

/-- The scratchpad lines that a save or drain may write: its rows of 256 elements, and the scale bytes. -/
def rowLines (tm : TRef) (scratch z rows pitch : Nat) (addr : Nat) (scale : Option Nat) : List (TRef × Nat) :=
  let spans := ((List.range rows).map fun r => (addr + r * pitch, 256 * z)) ++ (scale.map fun a => (a, 8 * rows)).toList
  (((spans.flatMap fun x => linesOf x.1 x.2).dedup).filter fun l => decide (64 * l + 64 ≤ scratch)).map fun l => (tm, l)

def descRows (d : Word64) : Nat := bits d 32 8 + 1
def descPitch (d : Word64) : Nat := bits d 0 32
/-- A descriptor that R282 or R294 admits. -/
def descOk (d : Word64) (z : Nat) : Bool :=
  decide (bits d 40 24 = 0) && decide (descPitch d % 64 = 0) && decide (256 * z ≤ descPitch d)

def bfLines (s : State) (tm : TRef) (k : CmdKind) : List (TRef × Nat) :=
  let sc := pkScratch (s.pkt tm.grid)
  match k with
  | .ossave ty 1 _ addr desc scale =>
    if descOk desc (tagBytes ty) then
      rowLines tm sc (tagBytes ty) (descRows desc) (descPitch desc) addr.toNat (if ty = 13 then some scale.toNat else none)
    else []
  | .drainMem ty _ _ 1 addr desc =>
    if descOk desc (tagBytes ty) then rowLines tm sc (tagBytes ty) 64 (descPitch desc) addr.toNat none else []
  | _ => []

/-- The command of a future slot of a group, or the gang command that it has become a participant of. -/
def BfCmd.names (c : BfCmd) (g : GRef) (slot : Nat) : Bool := c.parts.any fun p => p.g == g && p.slot == slot
/-- A future's command waits in the latch of an engine. -/
def BfEngine.latched (e : BfEngine) (g : GRef) (slot : Nat) : Bool := (e.latch.map fun l => l.parts.any fun c => c.names g slot).getD false
/-- The adds at the counters of some commands, and of the participants that wait in the latch, have nothing to wait for; else what they
wait for is entered (R422, R428). -/
def bfHeldUp (s : State) (core : Nat) (l : List BfCmd) : Option State :=
  (l ++ ((s.bfOf core).latch.map (·.parts)).getD []).findSome? fun c => c.parts.findSome? fun p => s.counterWaits c.asid core (s.classOf p.g.grid) p.ctr
/-- FCANCEL of a butterfly future (R298, R301): a waiting participant breaks its gang; a command that has not begun is to complete
CANCELLED. So is the one command of a gang whose groups have all arrived: that every participant's future completes CANCELLED then is a
DESIGN CHOICE (log 93). -/
def bfCancel (s : State) (core : Nat) (g : GRef) (slot : Nat) : State :=
  let e := s.bfOf core
  if e.latched g slot then bfTidy (failLatch s core []) core
  else s.setBf core { e with queue := e.queue.map fun c => if c.names g slot && !c.begun then { c with stop := true } else c }

/-! ### Slots (R281) -/

def freshSlot : BfSlot := { claimed := true }
/-- The lowest run of `n` unclaimed slots. -/
def findRun (e : BfEngine) (n : Nat) : Option Nat :=
  (List.range (33 - n)).find? fun f => (List.range n).all fun i => !(e.slot (f + i)).claimed
def claimRun (e : BfEngine) (f n : Nat) : BfEngine := (List.range n).foldl (fun e i => e.setSlot (f + i) freshSlot) e
def releaseRun (e : BfEngine) (f n : Nat) : BfEngine :=
  (List.range n).foldl (fun e i => if f + i ≤ 31 then e.setSlot (f + i) {} else e) e
/-- Slots `f` to `f + n − 1` exist and are claimed. -/
def runClaimed (e : BfEngine) (f n : Nat) : Bool :=
  decide (f + n ≤ 32) && (List.range n).all fun i => (e.slot (f + i)).claimed
def runTags (e : BfEngine) (f n : Nat) : List Nat := (List.range n).map fun i => (e.slot (f + i)).tag

/-! ### Checks of a stage or chain (R286 to R292, R300) -/

/-- What a stage or chain will use: its registers, rows, tags, slots and factors. -/
structure StagePlan where
  regs  : List Stride
  rows  : Nat
  xtag  : Nat
  f     : Nat
  slots : List Nat
  deriving DecidableEq, Repr, Inhabited

def enabledRegs (e : BfEngine) (chain : Bool) (k : Nat) : List Stride :=
  if chain then ((List.range (k + 1)).map fun i => Table.get 0 e.bst i).filter stEn else [Table.get 0 e.bst k]

/-- The first slot of the second tile (R288). -/
def secondTile (f tag : Nat) : Nat := if tag = 8 then f + 2 else f + 1

/-- The causes that a run of `n` slots raises where each must hold a tag. -/
def runCauses (e : BfEngine) (f n tag : Nat) : List Nat :=
  if !runClaimed e f n then [2] else if (runTags e f n).all (· == tag) then [] else [3]

/-- The causes found in the weights of a register: the run it names, and the slots of it that the stage reads (R288, R300). -/
def weightCauses (e : BfEngine) (r : Stride) : List Nat :=
  if !stValid r then [1]
  else
    let sl := e.slot (stWslot r)
    if !sl.claimed then [2]
    else (if runClaimed e (stWslot r) (stWcnt r) then [] else [2]) ++
      (if sl.tag = 0 then [3]
       else if stWcnt r * tagCap sl.tag < stNeed r then [1]
       else runCauses e (stWslot r) (slotsFor sl.tag (stNeed r)) sl.tag)

def tileFac (e : BfEngine) (f : Nat) (r : Stride) : TFac := (scaleFac (e.slot f).scale).mul (scaleFac (e.slot (stWslot r)).scale)

/-- The checks before a stage or chain changes anything: the lowest cause, or the plan. -/
def planStage (e : BfEngine) (chain : Bool) (k f n : Nat) : Except Nat StagePlan :=
  let regs := enabledRegs e chain k
  let xt := (regs.head?.map stXt).getD false
  let sl := e.slot f
  let tiles := if xt then [f, secondTile f sl.tag] else [f]
  let rowsOk := decide (1 ≤ sl.rows) && decide (sl.rows ≤ 64)
  let causes :=
    (if regs.isEmpty || regs.any (fun r => !stValid r) || regs.any (fun r => stXt r != xt) || !rowsOk || (xt && n % 2 == 1) then [1]
     else []) ++
    (if !sl.claimed then [2] else if sl.tag = 0 then [3]
     else if rowsOk then tiles.flatMap fun t => runCauses e t (slotsFor sl.tag (256 * sl.rows)) sl.tag else []) ++
    regs.flatMap (weightCauses e)
  match argMin id causes with
  | some c => .error c
  | none =>
    let last := (regs.getLast?).getD 0
    let fac := if regs.length = 1 then tileFac e f last else TFac.one
    let accs := if xt then [n, n + 1] else [n]
    if stAdd last && accs.any fun a => (e.acc a).tset && !(e.acc a).fac.same fac then .error 4
    else
      let used := tiles.flatMap (fun t => (List.range (slotsFor sl.tag (256 * sl.rows))).map (t + ·)) ++
        regs.flatMap fun r => (List.range (slotsFor (e.slot (stWslot r)).tag (stNeed r))).map (stWslot r + ·)
      if used.any (fun i => (e.slot i).poison) || (stAdd last && accs.any fun a => (e.acc a).poison) then .error 5
      else .ok { regs := regs, rows := sl.rows, xtag := sl.tag, f := f, slots := used }

/-! ### One pass of a stage (R290 to R292, R299) -/

/-- The operands of stage `i` of a plan. -/
def stageIn (e : BfEngine) (p : StagePlan) (mid : List (Table Word32)) (i : Nat) : StageIn :=
  let r := (p.regs[i]?).getD 0
  let wtag := (e.slot (stWslot r)).tag
  let w (k : Nat) : BfElem := e.elem (stWslot r) wtag k
  if i = 0 then
    { rows := p.rows, r := r, w := w, T := tileFac e p.f r
      x := fun row col => if col < 256 then e.elem p.f p.xtag (256 * row + col)
        else e.elem (secondTile p.f p.xtag) p.xtag (256 * row + col - 256) }
  else
    let half := stHalf ((p.regs[i - 1]?).getD 0)
    { rows := p.rows, r := r, w := w, T := TFac.one
      x := fun row col => midElem half ((mid[col / 256]?).getD []) (256 * row + col % 256) }

/-- Cycles of stage `i`. -/
def planCycles (e : BfEngine) (p : StagePlan) (i : Nat) : Nat :=
  let r := (p.regs[i]?).getD 0
  let xtag := if i = 0 then p.xtag else if stHalf ((p.regs[i - 1]?).getD 0) then 10 else 8
  stageCycles p.rows r xtag (e.slot (stWslot r)).tag

/-- The stage writes accumulators: the grid, then the products of some rows. -/
def runStage (q : StageIn) (accs : List BfAcc) (add first : Bool) (rows : List Nat) : List BfAcc × Flags :=
  let one (h : Nat) (a : BfAcc) : BfAcc × Flags :=
    let g := if first then gridStep a add q.rows q.T (q.ex h) q.ew else (a, 0)
    let r := addRows q h rows g.1
    (r.1, g.2 ||| r.2)
  let out := (accs.zip [0, 1]).map fun x => one x.2 x.1
  (out.map (·.1), out.foldl (fun f x => f ||| x.2) 0)

/-- What a pass leaves: the engine, the intermediate, the flags raised, and whether the part is done. -/
structure PassOut where
  e     : BfEngine
  mid   : List (Table Word32)
  flags : Flags
  stage : Nat
  pass  : Nat
  done  : Bool
  deriving DecidableEq, Repr

/-- One pass of a part. A stage of more than 2,048 cycles takes two (R299). -/
def runPass (e : BfEngine) (p : StagePlan) (n : Nat) (mid : List (Table Word32)) (i pass : Nat) : PassOut :=
  let q := stageIn e p mid i
  let two := decide (2048 < planCycles e p i)
  let last := decide (i + 1 = p.regs.length)
  let xt := stXt q.r
  let split := (p.rows + 1) / 2
  let rows := if !two then List.range p.rows else if pass = 0 then List.range split else (List.range p.rows).drop split
  if last then
    let ns := if xt then [n, n + 1] else [n]
    let (out, fl) := runStage q (ns.map e.acc) (stAdd q.r) (decide (pass = 0)) rows
    let taint (a : BfAcc) (old : BfAcc) : BfAcc :=
      if pass = 0 then { a with t := p.slots.any (fun s => (e.slot s).t) || (stAdd q.r && old.t) } else a
    let e' := ((ns.zip out).foldl (fun x na => x.setAcc na.1 (taint na.2 (e.acc na.1))) e)
    { e := e', mid := mid, flags := fl, stage := i, pass := pass + 1, done := !two || pass = 1 }
  else if two && pass = 0 then { e := e, mid := mid, flags := 0, stage := i, pass := 1, done := false }
  else
    let fresh : List BfAcc := if xt then [{}, {}] else [{}]
    let (out, fl) := runStage q fresh false true (List.range p.rows)
    let next := (p.regs[i + 1]?).getD 0
    let (m, fl2) := intermediate p.rows (stHalf q.r) (q.T.mul (scaleFac (e.slot (stWslot next)).scale)) out
    { e := e, mid := m, flags := fl ||| fl2, stage := i + 1, pass := 0, done := false }

/-! ### Gangs (R296 to R298) -/

def gangMembers (v : BitVec 39) : List Nat := (List.range (bits v 0 3)).map fun i => bits v (3 + 6 * i) 6
def gangValid (v : BitVec 39) (groups : Nat) : Bool :=
  decide (2 ≤ bits v 0 3) && decide (bits v 0 3 ≤ 6) && (gangMembers v).all (fun g => decide (g < groups)) &&
    decide (gangMembers v).Nodup

/-- The fields of a stage or chain command: chain, register, slot, accumulator, gang, tag. -/
def stageOf (c : CmdKind ⊕ BfOp) : Option (Bool × Nat × Nat × Nat × Bool × Nat) :=
  match c with
  | .inl (.stage ch k f n g t) => some (ch, k, f, n, g, t)
  | _ => none

/-- The accumulators that a gang command names. -/
def gangAccs (e : BfEngine) (c : CmdKind ⊕ BfOp) : List Nat :=
  match stageOf c with
  | some (ch, k, _, n, _, _) => if (((enabledRegs e ch k).head?).map stXt).getD false then [n, n + 1] else [n]
  | none => []

/-- A group has exited (R98). -/
def State.groupExited (s : State) (g : GRef) : Bool :=
  match s.group? g with
  | none => true
  | some x => x.lanes.all (fun t => !t.live) && x.round.isNone && x.pend.isEmpty && x.outbox.isEmpty && x.detPend.isEmpty

/-- A listed group has exited without having arrived; one whose gang command stands accepted in the queue arrives (R284). -/
def latchGone (s : State) (e : BfEngine) (tm : TRef) (l : Latch) : Bool :=
  (gangMembers e.gang).any fun m =>
    !(l.parts.any fun p => p.g.group == m) && !(e.queue.any fun c => c.gangs && c.g == { grid := tm.grid, team := tm.team, group := m }) &&
      s.groupExited { grid := tm.grid, team := tm.team, group := m }

/-- Participants in ascending group index. -/
def sortParts : List BfCmd → List BfCmd
  | [] => []
  | c :: rest =>
    let rec insert (c : BfCmd) : List BfCmd → List BfCmd
      | [] => [c]
      | x :: l => if c.g.group ≤ x.g.group then c :: x :: l else x :: insert c l
    insert c (sortParts rest)

/-- The command that a full latch becomes; it begins when its first part is admitted (R297, R428). -/
def gangCommand (l : List BfCmd) : Option BfCmd :=
  l.head?.map fun c => { c with fut := none, peers := l.flatMap BfCmd.parts }

/-- A gang command arrives at the latch (R297, R298). -/
def gangArrive (s : State) (core : Nat) (c : BfCmd) (chain : Bool) (k tag : Nat) : State :=
  let e := s.bfOf core
  if !gangValid e.gang (pkGroups (s.pkt c.g.grid)) || !(gangMembers e.gang).contains c.g.group then bfFinish s core c 3 1
  else
    let s := bfDrop s core c.serial
    let e := s.bfOf core
    let l := e.latch.getD { chain := chain, k := k, tag := tag, parts := [] }
    let clash := l.chain != chain || l.k != k || l.tag != tag || l.parts.any (fun p => p.g == c.g) ||
      l.parts.any fun p => (gangAccs e p.kind).any fun a => (gangAccs e c.kind).contains a
    if clash then bfTidy (failLatch s core [c]) core
    else
      let l := { l with parts := sortParts (c :: l.parts) }
      let s := s.setBf core { e with latch := some l }
      if latchGone s e c.team l then bfTidy (failLatch s core []) core
      else if l.parts.length < (gangMembers e.gang).length then bfTidy s core
      else s.setBf core { e with latch := none, queue := (gangCommand l.parts).toList ++ e.queue }

/-! ### Commands that a step performs whole (R281, R287, R293 to R296, R318) -/

/-- The value of BFDRAIN.v in a lane: the elements at its column and 128 columns on; +0 at or above ROWS (R294). -/
def drainLane (a : BfAcc) (ty rm : Nat) (row : Word64) (key t : Nat) : Answer :=
  if a.rows ≤ row.toNat then { key := key, lane := t, w := 0, t := a.t }
  else
    let x := a.deliver (tyFmt ty) rm a.fac (256 * row.toNat + t)
    let y := a.deliver (tyFmt ty) rm a.fac (256 * row.toNat + 128 + t)
    { key := key, lane := t, w := BitVec.ofNat 32 y.1 ++ BitVec.ofNat 32 x.1, raise := x.2 ||| y.2, t := a.t }

/-- The slot of a window access is no longer claimed (R316). -/
def State.winGone (s : State) : Target → Bool
  | .slot c k _ _ => !((s.bfOf c).slot k).claimed
  | _ => false
/-- A word that returns no future, or a window access, in engine order. -/
def bfOpStep (s : State) (core : Nat) (c : BfCmd) (op : BfOp) : State :=
  let e := s.bfOf core
  let held := c.held
  let det := s.det c.g.grid
  match op with
  | .release => failLatch s core []
  | .winMark _ => s
  | .claim n key =>
    match (if held then findRun e n else none) with
    | some f => (s.setBf core (claimRun e f n)).answer c.g { key := key, lane := 0, w := BitVec.ofNat 64 f, t := det }
    | none => s.answer c.g { key := key, lane := 0, w := BitVec.allOnes 64, t := det }
  | .unclaim f n => if held then s.setBf core (releaseRun e f n) else s
  | .setStride k v => if held then s.setBf core { e with bst := Table.set 0 e.bst k v } else s
  | .setGang v => if held then bfTidy (failLatch (s.setBf core { e with gang := v }) core []) core else s
  | .scale write f v t key =>
    let sl := e.slot f
    if !held || !sl.claimed then s.answer c.g { key := key, lane := 0, w := BitVec.allOnes 64, t := t }
    else
      let sl' := if write then { sl with scale := v, t := sl.t || t } else sl
      (s.setBf core (e.setSlot f sl')).answer c.g { key := key, lane := 0, w := sl.scale.zeroExtend 64, t := det && sl'.t }
  | .drainV ty n rm row key =>
    let a := if held then e.acc n else {}
    let lane (t : Nat) : Answer :=
      if a.poison then
        { key := key, lane := t, w := Config.poisonData s.tick t &&& (if ty = 10 then 0x0000FFFF0000FFFF else BitVec.allOnes 64),
          raise := BitVec.ofNat 6 (Config.choice (s.tick + t) % 32), t := a.t }
      else drainLane a ty rm row key t
    (if a.poison then s.bump else s) |> (List.range 128).foldl (fun s t => s.answer c.g (lane t))
  | .winWrite at_ bs t word => if s.winGone at_ then s else s.writeAt c.g word at_ bs t
  | .winRead at_ n lane key =>
    let r := s.readAt at_ n
    s.answer c.g { key := key, lane := lane, w := BitVec.ofNat 64 (leNat r.1), t := r.2
                   code := if s.winGone at_ then 5 else if s.poisonAt at_ n then 8 else 0 }

/-- The rows of an accumulator enter a slot run (R294): the engine and the flags. -/
def drainToSlot (e : BfEngine) (ty n rm f : Nat) : BfEngine × Flags :=
  let a := e.acc n
  let z := tagBytes ty
  let out := (List.range (256 * a.rows)).foldl (fun (x : BfEngine × Flags) i =>
    let r := a.deliver (tyFmt ty) rm a.fac i
    let k := f + i / tagCap ty
    (x.1.setSlot k ((x.1.slot k).write false (i % tagCap ty * z) (leBytes r.1 z) false), x.2 ||| r.2)) (e, 0)
  let run := if ty = 8 then [f, f + 1] else [f]
  let e := run.foldl (fun e k => e.setSlot k { e.slot k with tag := ty, rows := 0, t := a.t }) out.1
  (e.setSlot f { e.slot f with rows := a.rows, scale := oneScale }, out.2)

/-! ### Transfers (R282, R294) -/

/-- A transfer: its type, space, first slot or accumulator, address, pitch, scale address, rows to move. -/
structure Xfer where
  fill  : Bool
  drain : Option (Nat × Nat)
  ty    : Nat
  space : Nat
  f     : Nat
  addr  : Word64
  pitch : Nat
  scale : Word64
  rows  : Nat
  deriving DecidableEq, Repr, Inhabited

/-- The checks of a transfer, the lowest cause first (R300). -/
def planXfer (e : BfEngine) (held : Bool) (k : CmdKind) : Except Nat Xfer :=
  match k with
  | .osfill ty space f addr desc scale =>
    let n := slotsFor ty (256 * descRows desc)
    if !held || !runClaimed e f n then .error 2
    else if !descOk desc (tagBytes ty) || 128 < descRows desc then .error 7
    else .ok { fill := true, drain := none, ty := ty, space := space, f := f, addr := addr, pitch := descPitch desc, scale := scale,
               rows := descRows desc }
  | .ossave ty space f addr desc scale =>
    let n := slotsFor ty (256 * descRows desc)
    let tags := runTags e f n
    if !held || !runClaimed e f n then .error 2
    else if tags.any fun t => t == 0 || t != (tags.head?).getD 0 then .error 3
    else if !descOk desc (tagBytes ty) || 128 < descRows desc || tags.any (· != ty) then .error 7
    else if (List.range n).any fun i => (e.slot (f + i)).poison then .error 5
    else .ok { fill := false, drain := none, ty := ty, space := space, f := f, addr := addr, pitch := descPitch desc, scale := scale,
               rows := min (descRows desc) (e.slot f).rows }
  | .drainMem ty n rm space addr desc =>
    if !held then .error 2
    else if !descOk desc (tagBytes ty) then .error 7
    else if (e.acc n).poison then .error 5
    else .ok { fill := false, drain := some (n, rm), ty := ty, space := space, f := 0, addr := addr, pitch := descPitch desc, scale := 0,
               rows := (e.acc n).rows }
  | _ => .error 1

/-- Lines of 64 bytes in a row. -/
def Xfer.perRow (x : Xfer) : Nat := 4 * tagBytes x.ty
/-- The lines of the scale bytes: address and length of each. -/
def Xfer.scaleSpans (x : Xfer) : List (Word64 × Nat) :=
  if x.ty ≠ 13 ∨ x.drain.isSome then []
  else (linesOf x.scale.toNat (8 * x.rows)).map fun l =>
    let lo := max (64 * l) x.scale.toNat
    (BitVec.ofNat 64 lo, min (64 * l + 64) (x.scale.toNat + 8 * x.rows) - lo)
/-- The 64-byte line of an address. -/
def lineOf (va : Word64) : Nat := va.toNat / 64
/-- The address of line `i` of the rows. -/
def Xfer.rowLine (x : Xfer) (i : Nat) : Word64 := x.addr + BitVec.ofNat 64 (i / x.perRow * x.pitch + i % x.perRow * 64)
/-- The scale bytes of a fill that lie in a line of its rows: they come with that line, which a fill reads once (R285). -/
def Xfer.shared (x : Xfer) (va : Word64) : List (Word64 × Nat) := if x.fill then x.scaleSpans.filter fun s => lineOf s.1 == lineOf va else []
/-- The lines of scale bytes that are moved as lines of their own. -/
def Xfer.ownSpans (x : Xfer) : List (Word64 × Nat) :=
  if x.fill then
    x.scaleSpans.filter fun s => (List.range (x.rows * x.perRow)).all fun i => lineOf (x.rowLine i) != lineOf s.1
  else x.scaleSpans
/-- Where scale bytes stand in the side-store of the run. -/
def Xfer.sideAt (x : Xfer) (s : Word64 × Nat) : Nat := (s.1 - x.scale).toNat
/-- Line `i` of the transfer: address, length, and where it stands in the run: side-store or elements, and the byte offset. -/
def Xfer.span (x : Xfer) (i : Nat) : Option (Word64 × Nat × Bool × Nat) :=
  let data := x.rows * x.perRow
  if i < data then some (x.rowLine i, 64, false, i / x.perRow * (256 * tagBytes x.ty) + i % x.perRow * 64)
  else (x.ownSpans[i - data]?).map fun s => (s.1, s.2, true, x.sideAt s)

/-- The slot and the offset of a byte of a run: 32 KiB a slot, 16 KiB in .l6e8; 512 bytes of side-store. -/
def Xfer.place (x : Xfer) (side : Bool) (off : Nat) : Nat × Nat :=
  let n := if side then 512 else tagCap x.ty * tagBytes x.ty
  (x.f + off / n, off % n)

/-- The bytes of a line of a save or drain, with flags; bits 7:6 of an LNS6 byte are written as 0 (R199). -/
def Xfer.bytes (x : Xfer) (e : BfEngine) (side : Bool) (off n : Nat) : List Byte × Flags :=
  match x.drain with
  | some (a, rm) =>
    let z := tagBytes x.ty
    let els := (List.range (n / z)).map fun i => (e.acc a).deliver (tyFmt x.ty) rm (e.acc a).fac (off / z + i)
    (els.flatMap fun r => leBytes r.1 z, els.foldl (fun f r => f ||| r.2) 0)
  | none => ((List.range n).map fun i =>
      let p := x.place side (off + i)
      let b := (((e.slot p.1).read side p.2 1).head?).getD 0
      if isLnsTag x.ty && !side then b &&& 0x3F else b, 0)
/-- The taint of what a save or drain writes (R304). -/
def Xfer.taint (x : Xfer) (e : BfEngine) : Bool :=
  match x.drain with
  | some (a, _) => (e.acc a).t
  | none => (List.range (slotsFor x.ty (256 * x.rows))).any fun i => (e.slot (x.f + i)).t

/-- Bytes of a fill enter the slots, of an LNS6 byte its bits 5:0 (R199, R280), and taint the slots of the run where they are tainted (R304). -/
def fillBytes (x : Xfer) (e : BfEngine) (side : Bool) (off : Nat) (bs : List Byte) (t : Bool) : BfEngine :=
  let e := (List.range bs.length).foldl (fun e i =>
    let p := x.place side (off + i)
    let b := (bs[i]?).getD 0
    e.setSlot p.1 ((e.slot p.1).write side p.2 [if isLnsTag x.ty && !side then b &&& 0x3F else b] false)) e
  if !t then e else (List.range (slotsFor x.ty (256 * x.rows))).foldl (fun e i => e.setSlot (x.f + i) { e.slot (x.f + i) with t := true }) e
/-- A fill has moved everything (R282, R304). -/
def fillEnd (x : Xfer) (e : BfEngine) (t : Bool) : BfEngine :=
  let e := (List.range (slotsFor x.ty (256 * x.rows))).foldl (fun e i =>
    e.setSlot (x.f + i) { e.slot (x.f + i) with tag := x.ty, rows := 0, t := t }) e
  e.setSlot x.f { e.slot x.f with rows := x.rows }

/-- A line of a save or drain waits at a line of a scratchpad that is absent for another engine's command, or for an earlier one of the
butterfly engines (R282). -/
def State.lineWaits (s : State) (c : BfCmd) (t : Target) (n : Nat) : Bool :=
  match t with
  | .scratch tm a => (linesOf a n).any fun l => s.absentSave c.serial tm l
  | _ => false

/-- A transfer cannot reach an address: it is stopped for a replay (R426), or it ends with BF_MEMORY, which is its own end in a killed grid
too (R303). -/
def xferFails (s : State) (core : Nat) (c : BfCmd) (va : Word64) (cause : Nat) : State :=
  match if c.stop then none else s.stopFor c.asid cause with
  | some m => bfKeep ((s.unmark c.serial).replayRecord c.asid c.g.grid va) core { c with hold := some m }
  | none => bfFinish (s.unmark c.serial) core c 3 5

/-- A line of a fill enters the slots, a line of the rows with the scale bytes that it holds. -/
def fillLine (s : State) (core : Nat) (c : BfCmd) (x : Xfer) (va : Word64) (t : Target) (n : Nat) (side : Bool) (off : Nat) : State :=
  let r := s.readAt t n
  let tt := s.det c.g.grid && r.2
  let e := fillBytes x (s.bfOf core) side off r.1 tt
  let e := if side then e else
    (x.shared va).foldl (fun e p => fillBytes x e true (x.sideAt p) ((r.1.drop (p.1 - va).toNat).take p.2) tt) e
  bfKeep (s.setBf core e) core
    { c with stage := c.stage + 1, hold := none, readT := c.readT || tt, t := c.t || tt }
/-- A line of a save or drain is written. -/
def saveLine (s : State) (core : Nat) (c : BfCmd) (x : Xfer) (va : Word64) (t : Target) (n : Nat) (side : Bool) (off : Nat) : State :=
  let det := s.det c.g.grid
  let (bs, fl) := x.bytes (s.bfOf core) side off n
  let tt := det && x.taint (s.bfOf core)
  let s := s.putLine c.g (if det then .det tt else .outside) [(t, bs)] tt
  let z := if side then 8 else tagBytes x.ty
  let wrote := if det && x.space == 0 then
      (List.range (n / z)).foldl (fun w i => Table.put w (va.toNat + z * i)
        (BitVec.ofNat 3 z.log2, BitVec.ofNat 64 (leNat ((bs.drop (z * i)).take z)))) c.wrote
    else c.wrote
  let lines := match t with
    | .scratch tm a => c.lines.filter fun l => !(l.1 == tm && (linesOf a n).contains l.2)
    | _ => c.lines
  bfKeep s core { c with stage := c.stage + 1, hold := none, flags := c.flags ||| fl, wrote := wrote, lines := lines, t := c.t || tt }

/-- One line of a transfer, or its wait. It counts for the copy channels, and at HBM with its walk (R299, R321, R424). -/
def xferLine (s : State) (core : Nat) (c : BfCmd) (ctx : Context) (x : Xfer) (va : Word64) (n : Nat) (side : Bool) (off : Nat) :
    State :=
  let cls := s.classOf c.g.grid
  let path : EngPath := { unit := core, ctx := ctx, tm := c.team, own := [c.serial] }
  let arrived := s.arrive path [(x.space, !x.fill, va, n)]
  let walk := s.walkLines path x.space [va]
  let fails (k : Nat) : State :=
    if !s.linesOpen c.asid cls walk then s.bump else xferFails (s.chargeLines c.asid cls walk) core c va k
  match s.engAt path x.space (!x.fill) (x.space == 1 && !x.fill) va n with
  | .wait => arrived
  | .turn k => arrived.markTurn k c.serial c.asid c.g
  | .zero => s.startZero ctx va
  | .fail k => fails k
  | .peer .. => fails 4
  | .at_ t =>
    let lines := walk ++ s.hbmLines [t]
    if !s.linesOpen c.asid cls lines then s.bump
    else if !x.fill && s.lineWaits c t n then s
    else
      let s := (s.chargeLines c.asid cls lines).unmark c.serial
      (if x.fill then fillLine s core c x va t n side off else saveLine s core c x va t n side off).chargeStep c.asid cls 27

/-- The most that a save or drain may write, by its operands alone: every row of its descriptor, or the 64 of an accumulator. -/
def fullXfer (k : CmdKind) : Option Xfer :=
  match k with
  | .ossave ty space f addr desc scale =>
    if descOk desc (tagBytes ty) && decide (descRows desc ≤ 128) then
      some { fill := false, drain := none, ty := ty, space := space, f := f, addr := addr, pitch := descPitch desc, scale := scale, rows := descRows desc }
    else none
  | .drainMem ty n rm space addr desc =>
    if descOk desc (tagBytes ty) then
      some { fill := false, drain := some (n, rm), ty := ty, space := space, f := 0, addr := addr, pitch := descPitch desc, scale := 0, rows := 64 }
    else none
  | _ => none
/-- The destinations of a save or drain of a deterministic grid: path, space, and the first and last byte of each of its lines. -/
def xferDests (s : State) (core : Nat) (c : BfCmd) : Option (EngPath × Nat × List Word64) :=
  match s.det c.g.grid, s.ctx? c.asid, c.kind with
  | true, some ctx, .inl k => (fullXfer k).map fun x =>
    let spans := (List.range (x.rows * x.perRow + x.ownSpans.length)).filterMap x.span
    ({ unit := core, ctx := ctx, tm := c.team, own := [c.serial] }, x.space,
      spans.flatMap fun p => [p.1, p.1 + BitVec.ofNat 64 (p.2.1 - 1)])
  | _, _, _ => none
/-- Every destination sector that a save or drain could have written is tainted, in a deterministic grid (R401). -/
def State.taintXfer (s : State) (core : Nat) (c : BfCmd) : State :=
  match xferDests s core c with
  | some (x, sp, l) => s.taintAll x sp 1 l
  | none => s
/-- A command that has not begun completes CANCELLED, and has no effect (R301, R303). -/
def bfCancelled (s : State) (core : Nat) (c : BfCmd) : State :=
  match c.kind with
  | .inr _ => bfTidy (bfDrop s core c.serial) core
  | .inl _ => bfFinish (s.taintXfer core c) core { c with t := c.t || s.det c.g.grid } 2 0
/-- A page that it taints is still to be zeroed (R422). -/
def bfCancelWaits (s : State) (core : Nat) (c : BfCmd) : Option State :=
  (xferDests s core c).bind fun x => s.taintWaits x.1 x.2.1 x.2.2

/-- BF_TRANSFER_COMPLETE (R282, R294): the transfer in progress moves its next line, and completes after its last. -/
def bfTransferStep (s : State) (core : Nat) : Option State :=
  let e := s.bfOf core
  (s.xferGoing core).bind fun c =>
  (s.ctx? c.asid).bind fun ctx =>
    match c.kind with
    | .inl k =>
      if !s.copyTurn core c.asid then none
      else
        let s := s.served (queueAt core 1) c.asid
        (bfHeldUp s core [c]).or <| some <|
        match planXfer e true k with
        | .error cause => bfFinish (s.unmark c.serial) core c 3 cause
        | .ok x =>
          match x.span c.stage with
          | some (va, n, side, off) => xferLine s core c ctx x va n side off
          | none =>
            let s := if x.fill then s.setBf core (fillEnd x e c.readT) else s
            bfFinish s core c 1 0
    | .inr _ => none
def execBfTransferComplete (core : Nat) (s : State) : Host.Outcome State Fault Refusal := event s (bfTransferStep s core)

/-! ### BF_COMMAND_PERFORM and BF_STAGE_PASS -/

/-- A command of the engine is performed, or its checks are made and it begins. A word that was issued while its team held the engine and is
accepted behind the team's own BFREL finds it no longer held (R276 says only what a word issued later does): the model completes a
command BAD_SLOT, gives all ones for BFSCALE and OSCLAIM and zeros for BFDRAIN.v, and lets the other words do nothing: DESIGN CHOICE (logs 81,
88). -/
def bfBegin (s : State) (core : Nat) (c : BfCmd) : State :=
  let e := s.bfOf core
  match c.kind with
  | .inr op => bfTidy (bfOpStep (bfDrop s core c.serial) core c op) core
  | .inl (.stage chain k f n gang tag) =>
    if !c.held then bfFinish s core c 3 2
    else if !c.peers.isEmpty then bfKeep s core { c with begun := true }
    else if gang then gangArrive s core c chain k tag
    else
      match planStage e chain k f n with
      | .error cause => bfFinish s core c 3 cause
      | .ok _ => bfKeep s core { c with begun := true }
  | .inl (.zero n) =>
    if !c.held then bfFinish s core c 3 2
    else bfFinish (s.setBf core (e.setAcc n {})) core c 1 0
  | .inl (.drainSlot ty n rm f) =>
    if !c.held || !runClaimed e f (if ty = 8 then 2 else 1) then bfFinish s core c 3 2
    else if (e.acc n).poison then bfFinish s core c 3 5
    else
      let r := drainToSlot e ty n rm f
      bfFinish (s.setBf core r.1) core { c with flags := r.2 } 1 0
  | .inl k =>
    match planXfer e c.held k with
    | .error cause => bfFinish s core c 3 cause
    | .ok _ => bfKeep s core { c with begun := true }

/-- The budget entry whose budget a command waits for before it begins: stages and parts take engine time, transfers the copy channels
(R299, R428). The checks of a command are part of its first step. -/
def BfCmd.entry? (c : BfCmd) : Option Nat :=
  match c.kind with
  | .inl (.stage _ _ _ _ gang _) => if gang && c.peers.isEmpty then none else some 24
  | .inl (.osfill ..) => some 27
  | .inl (.ossave ..) => some 27
  | .inl (.drainMem ..) => some 27
  | _ => none
/-- The next command of an engine may begin: nothing holds it, and its first step is admitted (R284, R428). -/
def State.mayBegin (s : State) (c : BfCmd) : Bool :=
  !c.begun && s.free c.asid c.after c.hold && ((c.entry?.map fun n => s.admitted c.asid (s.classOf c.g.grid) n).getD true)
/-- The latch waits for a group that has exited (R298). -/
def latchBroken (s : State) (core : Nat) : Bool :=
  match (s.bfOf core).latch, (s.bfOf core).holder with
  | some l, some tm => latchGone s (s.bfOf core) tm l
  | _, _ => false

/-- BF_COMMAND_PERFORM (R284): a cancelled command that has not begun completes, a latch that can no longer fill fails, or the next command in
acceptance order is performed, or begins. -/
def bfPerformStep (s : State) (core : Nat) : Option State :=
  let e := s.bfOf core
  match e.queue.find? fun c => c.stop && !c.begun with
  | some c => ((bfCancelWaits s core c).or (bfHeldUp s core [c])).or (some (bfCancelled s core c))
  | none =>
    if latchBroken s core then (bfHeldUp s core []).or (some (bfTidy (failLatch s core []) core))
    else
      e.next.bind fun c =>
        if !s.mayBegin c then none
        else (bfHeldUp s core [c]).or (some (bfBegin s core c))
def execBfCommandPerform (core : Nat) (s : State) : Host.Outcome State Fault Refusal := event s (bfPerformStep s core)

/-- A gang's part ends with its flags or its cause; the next part follows, or the command completes, each future with its own status: a part
that fails its checks keeps none of the others from being performed, which R297 leaves open (DESIGN CHOICE, log 93). In a killed grid the
parts that remain are not performed, and every future is CANCELLED (R303). -/
def partEnd (s : State) (core : Nat) (c : BfCmd) (flags : Flags) (cause : Nat) : State :=
  match c.peers with
  | [] => bfFinish s core { c with flags := flags } (if cause = 0 then 1 else 3) cause
  | ps =>
    let ps := (List.range ps.length).filterMap fun i => (ps[i]?).map fun p =>
      if i = c.part then { p with flags := flags, cause := cause } else p
    if c.part + 1 < ps.length then
      if c.stop then bfFinish s core { c with peers := ps } 2 0
      else bfKeep s core { c with peers := ps, part := c.part + 1, stage := 0, pass := 0, mid := [], flags := 0 }
    else
      let s := ps.foldl (fun s p => bfDone s core c.asid p (if p.cause = 0 then 1 else 3) p.cause [] c.t) (bfDrop s core c.serial)
      bfTidy s core

/-- The accumulators that a stage adds to while it is in progress. -/
def StagePlan.accs (p : StagePlan) (n : Nat) : List Nat := if ((p.regs.head?).map stXt).getD false then [n, n + 1] else [n]

/-- One pass of the part in progress: its checks are those of its beginning; one that has begun meets only poison (R292, R300, R455). In a
killed grid what remains after it is not performed (R303). -/
def bfPass (s : State) (core : Nat) (c : BfCmd) (chain : Bool) (k f n : Nat) : State :=
  let e := s.bfOf core
  let first := decide (c.stage = 0 ∧ c.pass = 0)
  match planStage e chain k f n with
  | .error cause => partEnd s core c (if first then 0 else c.flags) (if first then cause else 5)
  | .ok p =>
    if c.pass ≠ 0 ∧ (p.accs n).any fun a => (e.acc a).poison then partEnd s core c c.flags 5
    else
      let two := decide (2048 < planCycles e p c.stage)
      let cost := if two then (planCycles e p c.stage + 1) / 2 else planCycles e p c.stage
      let r := runPass e p n c.mid c.stage c.pass
      let s := (s.setBf core r.e).charge c.asid (s.classOf c.g.grid) 24 cost
      let fl := c.flags ||| r.flags
      if r.done then partEnd s core c fl 0
      else if c.stop then bfFinish s core { c with flags := fl } 2 0
      else bfKeep s core { c with flags := fl, mid := r.mid, stage := r.stage, pass := r.pass }

/-- BF_STAGE_PASS (R289, R299): one pass of the stage, chain or gang in progress. -/
def bfPassStep (s : State) (core : Nat) : Option State :=
  (s.bfOf core).next.bind fun c =>
    if !c.begun then none
    else
      let kind := match c.peers[c.part]? with
        | some p => Sum.inl p.kind
        | none => c.kind
      (stageOf kind).bind fun (chain, k, f, n, _, _) =>
        if !s.passOpen c then none
        else (bfHeldUp s core [c]).or (some (bfPass s core c chain k f n))
def execBfStagePass (core : Nat) (s : State) : Host.Outcome State Fault Refusal := event s (bfPassStep s core)

/-! ### The words (R277 to R296) -/

/-- A word of group 11 whose team must hold the engine of the group's core (R277). -/
def bfWord (o : OpF) (f : Env → WordOut) (s : State) : Host.Outcome State Fault Refusal :=
  word o.rb s fun e => if e.s.holdsBf e.g.core e.g.ref.tref then f e else groupFault e 10 0

/-- A word that returns no future. -/
def bfEffect (o : OpF) (f : Env → BfOp) (s : State) : Host.Outcome State Fault Refusal :=
  bfWord o (fun e => .retire e { effs := [.bf (f e)] }) s

/-- A word whose uniform destination takes the engine's answer. -/
def bfAnswer (o : OpF) (f : Env → Nat → BfOp) (s : State) : Host.Outcome State Fault Refusal :=
  bfWord o (fun e =>
    let key := e.g.keys
    .retire { e with g := { e.g with keys := key + 1 } }
      { defer := [.uniform o.d.toNat key .none (e.ut false)], effs := [.bf (f e key)] }) s

/-- A word that returns a future; its addresses are checked first (R278, R282). -/
def bfCommand (o : OpF) (al : Env → List (Word64 × Nat)) (k : Env → CmdKind) (ctr : Env → Word64) (t : Env → Bool) (s : State) :
    Host.Outcome State Fault Refusal :=
  bfWord o (fun e => aligned e (al e ++ [(ctr e, 8)]) <| issueCommand e o.d (k e) (ctr e) (t e)) s

def execBfacq (o : OpF) (s : State) : Host.Outcome State Fault Refusal :=
  word o.rb s fun e =>
    let key := e.g.keys
    .retire { e with g := { e.g with keys := key + 1 } } { defer := [.push key e.active e.det], effs := [.bfacq key] }
def execBfrel (o : OpF) (s : State) : Host.Outcome State Fault Refusal :=
  word o.rb s fun e => .retire e { effs := [.bf .release] }
def execOsclaim (o : OpF) (s : State) := bfAnswer o (fun _ key => .claim (o.low2 + 1) key) s
def execOsrel (o : OpF) (s : State) := bfEffect o (fun _ => .unclaim (o.field 0 5) (o.field 5 2 + 1)) s
def execBstset (o : OpF) (s : State) := bfEffect o (fun e => .setStride (o.field 0 3) ((e.us o.a).w.extractLsb' 0 32)) s
def execGangset (o : OpF) (s : State) := bfEffect o (fun e => .setGang ((e.us o.a).w.extractLsb' 0 39)) s
def execBfscale (o : OpF) (s : State) :=
  bfAnswer o (fun e key =>
    .scale (!o.bit 5) (o.field 0 5) ((e.us o.a).w.extractLsb' 0 32) (e.ut (!o.bit 5 && (e.us o.a).t)) key) s

/-- The slot of OSFILL and OSSAVE stands in M[7:3]. -/
def xferAligned (o : OpF) (e : Env) : List (Word64 × Nat) :=
  ((e.us o.a).w, 64) :: (if o.ty = 13 then [(e.uAt o.c 1, 8)] else [])
def xferTaint (o : OpF) (e : Env) : Bool := (e.us o.a).t || (e.us o.b).t || e.blockT o.c 2
def execOsfill (o : OpF) (s : State) :=
  bfCommand o (xferAligned o) (fun e => .osfill o.ty o.space (o.field 3 5) (e.us o.a).w (e.uAt o.c 0) (e.uAt o.c 1))
    (fun e => (e.us o.b).w) (xferTaint o) s
def execOssave (o : OpF) (s : State) :=
  bfCommand o (xferAligned o) (fun e => .ossave o.ty o.space (o.field 3 5) (e.us o.a).w (e.uAt o.c 0) (e.uAt o.c 1))
    (fun e => (e.us o.b).w) (xferTaint o) s

/-- BFSTAGE and BFCHAIN. -/
def stageWord (chain : Bool) (o : OpF) (s : State) : Host.Outcome State Fault Refusal :=
  bfCommand o (fun _ => []) (fun e => .stage chain (o.field 0 3) (o.field 6 5) (o.field 3 3) (o.bit 11)
      (if o.bit 11 then bits (e.us o.b).w 0 16 else 0))
    (fun e => (e.us o.a).w) (fun e => (e.us o.a).t || (o.bit 11 && (e.us o.b).t)) s
def execBfstage (o : OpF) (s : State) := stageWord false o s
def execBfchain (o : OpF) (s : State) := stageWord true o s
def execBfzero (o : OpF) (s : State) :=
  bfCommand o (fun _ => []) (fun _ => .zero (o.field 3 3)) (fun e => (e.us o.a).w) (fun e => (e.us o.a).t) s

/-- BFDRAIN (R294), by its form. -/
def execBfdrain (o : OpF) (s : State) : Host.Outcome State Fault Refusal :=
  let n := o.field 3 3
  match o.field 9 2 with
  | 0 => bfCommand o (fun _ => []) (fun e => .drainSlot o.ty n (rmOf o) (bits (e.us o.a).w 0 5)) (fun e => (e.us o.b).w)
      (fun e => (e.us o.a).t || (e.us o.b).t) s
  | 1 => bfCommand o (fun e => [((e.us o.a).w, 64)]) (fun e => .drainMem o.ty n (rmOf o) (o.field 7 2) (e.us o.a).w (e.us o.c).w)
      (fun e => (e.us o.b).w) (fun e => (e.us o.a).t || (e.us o.b).t || (e.us o.c).t) s
  | _ => bfWord o (fun e =>
      let key := e.g.keys
      .retire { e with g := { e.g with keys := key + 1 } }
        { defer := [.drainV o.d.toNat o.b.toNat key e.active (e.ut (e.us o.a).t)], effs := [.bf (.drainV o.ty n (rmOf o) (e.us o.a).w key)] }) s

end Sys2Proof.Machine
end

