-- ==== Sys2Proof/Machine/Interval.lean ====
section
/-!
DEFINITION. Interval registers, the team's expression log, the filter and the refinement engine, opcode group 4
(10_interval_filters.md R245 to R273; 08_number_formats.md R209, R210).
-/
namespace Sys2Proof.Machine
open Sys2Proof

/-! ### A word changes the log (R251, R255, R256) -/

/-- The nodes that a change of the log reads, with those a word names: all but the new ones. -/
def logReads (old l : ExprLog) (reads fresh : List Nat) : List Nat :=
  reads ++ (changedNodes old l).filter fun i => !fresh.contains i

/-- What a word that is to change the log waits for (`State.logWaits`). -/
def Env.logWaits (e : Env) : Option State := e.s.logWaits e.team.ref (some (e.g.ref, e.b))
/-- A word changes the log: poison of a node it reads is a precise fault, a failure of the REFINE path kills the grid (R251). -/
def withLog (e : Env) (l : ExprLog) (reads fresh : List Nat) (k : Env → WordOut) : WordOut :=
  let rs := logReads e.team.log l reads fresh
  match if l != e.team.log then e.logWaits else none with
  | some s => .stall s
  | none =>
    if e.team.log.poison.any rs.contains then .fault e 8 0 e.r.active 0 {}
    else
      match reachSpill e.s e.g e.ctx e.team (changedNodes e.team.log l ++ reads) rs with
      | .dead s => .stall s
      | .wait s => .stall s
      | .poison => .fault e 8 0 e.r.active 0 {}
      | .ok => k ({ e with s := e.s.chargeSpill e.g.core e.ctx e.team reads }.withTeamLog l)

/-! ### Operands and bounds (R257) -/

/-- An interval operand: a register, or a vector source as a binary32 point (R266). -/
def Env.xop (e : Env) (t : Nat) (kind : Bool) (n : BitVec 8) : XCell :=
  if kind then
    let v := e.v32 t n
    { lo := v.w, hi := v.w, h := pointH, t := v.t }
  else (e.th t).xreg n.toNat

def XCell.iv (c : XCell) : Iv := { lo := end32 c.lo, hi := end32 c.hi }
def XCell.isNaN (c : XCell) : Bool := (u32 c.lo.toNat).isNaN
def XCell.isInfPoint (c : XCell) : Bool :=
  c.isPoint && (match u32 c.lo.toNat with
    | .inf _ => true
    | _ => false)
def pointCell (w : Word32) (t : Bool) : XCell := { lo := w, hi := w, h := pointH, t := t }
/-- A point of a value; a NaN gives the canonical NaN (R210). -/
def pointOf (w : Word32) (t : Bool) : XCell := pointCell (if (u32 w.toNat).isNaN then nan32 else w) t

/-- The exact result on points, rounded under RNE, with its flags (R257). -/
def pointOp (op : Nat) (a b c : Word32) : Nat × Flags :=
  let x := u32 a.toNat
  let y := u32 b.toNat
  match op with
  | 1 => fAdd f32 0 x y
  | 2 => fAdd f32 0 x y.neg
  | 3 => fMul f32 0 x y
  | 4 => fFma f32 0 x y (u32 c.toNat)
  | 5 => if y.isZero then nanOut f32 true else fDiv f32 0 x y
  | 6 => ((a ^^^ 0x80000000).toNat, 0)
  | 7 => ((a &&& 0x7FFFFFFF).toNat, 0)
  | 8 => fMinMax f32 false a.toNat b.toNat
  | _ => fMinMax f32 true a.toNat b.toNat

/-- The bits of a lower bound: a zero is +0 unless RDN makes the sum of the operands' lower bounds −0 (R194, R210). -/
def lowBits (op : Nat) (a b c : XCell) (lo : End) : Word32 :=
  if !lo.isZero then lo.bits32 false
  else
    let sum (x y : FVal) : Word32 := BitVec.ofNat 32 (fAdd f32 2 x y).1
    match op with
    | 1 => sum (u32 a.lo.toNat) (u32 b.lo.toNat)
    | 2 => sum (u32 a.lo.toNat) (u32 b.hi.toNat).neg
    | 4 => if (a.iv.mul b.iv).lo.isZero then sum (.fin false 0 0) (u32 c.lo.toNat) else 0x80000000
    | _ => 0
/-- The bits of an upper bound: a zero is +0. -/
def highBits (hi : End) : Word32 := if hi.bits32 true = 0x80000000 then 0 else hi.bits32 true

/-- What an interval word writes in a lane: a cell that needs no node, or a new node with its bounds. -/
inductive XOut where
  | cell (c : XCell)
  | fresh (c : XCell) (op inl : Nat) (w1 w2 w3 : Word32)
  deriving DecidableEq, Repr, Inhabited

def XOut.isFresh : XOut → Bool
  | .fresh .. => true
  | .cell _ => false

/-- A new LEAF (R249). -/
def leafOf (lo hi : Word32) (t : Bool) : XOut := .fresh { lo := lo, hi := hi, h := 0, t := t } opLEAF 3 lo hi 0

/-- The result of an arithmetic word (R247, R257). `xs` holds as many operands as the operation has. -/
def xResult (op : Nat) (xs : List XCell) (t : Bool) : XOut :=
  let a := (xs[0]?).getD {}
  let b := (xs[1]?).getD {}
  let c := (xs[2]?).getD {}
  let points := xs.all XCell.isPoint
  let r := pointOp op a.lo b.lo c.lo
  if xs.any (fun x => x.isPoint && x.isNaN) || (!points && xs.any XCell.isInfPoint) then .cell (pointCell nan32 t)
  else if points && (u32 r.1).isNaN then .cell (pointCell nan32 t)
  else if points && r.2 &&& fNX = 0 then .cell (pointCell (BitVec.ofNat 32 r.1) t)
  else
    let word (x : XCell) : Word32 := if x.isPoint then x.lo else x.h
    let inl := (List.range xs.length).foldl (fun n k => if ((xs[k]?).getD {}).isPoint then n + 2 ^ k else n) 0
    let bounds : Word32 × Word32 := match Iv.op op a.iv b.iv c.iv with
      | some v => (lowBits op a b c v.lo, highBits v.hi)
      | none => (0xFF800000, 0x7F800000)
    let w (k : Nat) : Word32 := ((xs[k]?).map word).getD 0
    .fresh { lo := bounds.1, hi := bounds.2, h := 0, t := t } op inl (w 0) (w 1) (w 2)

/-! ### Writing X registers (R253, R255) -/

/-- The result cell, with the node it is to be written to where it needs one. -/
def placeOut (scr : Nat) (x : XOut) (i : Nat) : XCell × Option (Nat × Node) :=
  match x with
  | .cell c => (c, none)
  | .fresh c op inl w1 w2 w3 => ({ c with h := BitVec.ofNat 32 i }, some (i, mkNode op inl 1 (decide (scr ≤ i)) w1 w2 w3))

/-- The nodes reserved, given to the lanes that need one, in order. -/
def placeAll (scr : Nat) : List (Nat × XOut) → List Nat → List (Nat × XCell × Option (Nat × Node))
  | [], _ => []
  | (t, x) :: rest, is =>
    if x.isFresh then (t, placeOut scr x ((is.head?).getD 0)) :: placeAll scr rest (is.drop 1)
    else (t, placeOut scr x 0) :: placeAll scr rest is

/-- Steps 1 and 2 of R255 for one lane: the new node, or the handle written where it names an existing node. -/
def holdOut (l : ExprLog) (x : XCell × Option (Nat × Node)) : ExprLog :=
  match x.2 with
  | some (i, n) => l.write i n
  | none => if x.1.isPoint || nodeOp (l.node x.1.h.toNat) == 0 then l else l.raise x.1.h.toNat

/-- Steps 1 to 3 of R255 in the lanes of a word, with the nodes they read; `old` gives the register that a lane overwrites. -/
def holdAll (scr : Nat) (old : Nat → XCell) (l : ExprLog) (placed : List (Nat × XCell × Option (Nat × Node))) : ExprLog × List Nat :=
  placed.foldl (fun a x =>
    let l := holdOut a.1 x.2
    (l.drop scr (old x.1), a.2 ++ l.dropReads scr (old x.1))) (l, [])

/-- The heads of free lists among the nodes taken from a log: they are read as they are taken (R252). -/
def headsOf (scr : Nat) (l : ExprLog) (is : List Nat) : List Nat :=
  is.filter fun i => if i < scr then decide (i < l.scrBump) else decide (i - scr < l.spillBump)

/-- The handles that a result reads in the log. -/
def outReads (x : XOut) : List Nat :=
  match x with
  | .cell c => if c.isPoint then [] else [c.h.toNat]
  | .fresh _ op inl w1 w2 w3 => nodeRefs (mkNode op inl 1 false w1 w2 w3)

/-- A fixed-latency word writes X registers: all reservations, then in each lane the node, the counts and the releases (R255). -/
def writeX (e : Env) (d : BitVec 8) (outs : List (Nat × XOut)) (raise : Nat → Flags) : WordOut :=
  let scr := pkLogScr e.pkt
  let n := (outs.filter fun x => x.2.isFresh).length
  match ExprLog.reserve scr (spillCap e.pkt) n e.team.log with
  | none => .fault e 7 (BitVec.ofNat 64 n) e.r.active 0 {}
  | some (is, l) =>
    let placed := placeAll scr outs is
    let h := holdAll scr (fun t => (e.th t).xreg d.toNat) l placed
    withLog e h.1 ((outs.flatMap fun x => outReads x.2) ++ headsOf scr e.team.log is ++ h.2.filter fun i => !is.contains i) is fun e =>
      .retire e { lanes := placed.map fun x => { lane := x.1, x := [(d.toNat, x.2.1)], raise := raise x.1 } }

/-- A fixed-latency interval word. -/
def xFixed (o : OpF) (f : Env → Nat → XOut) (s : State) : Host.Outcome State Fault Refusal :=
  word o.rb s fun e => writeX e o.d ((e.setE o).map fun t => (t, f e t)) (fun _ => 0)

/-- The operands of an arithmetic word (R266, R267). -/
def xArgs (o : OpF) (n : Nat) (e : Env) (t : Nat) : List XCell :=
  ([e.xop t (o.bit 12) o.a, e.xop t (o.bit 11) o.b, e.xop t (o.bit 10) o.c]).take n
/-- The taint of a result of operands. -/
def xTaint (e : Env) (t : Nat) (xs : List XCell) : Bool := e.dt t (xs.any (·.t))
def xArith (op : Nat) (o : OpF) (s : State) : Host.Outcome State Fault Refusal :=
  xFixed o (fun e t => xResult op (xArgs o (opArity op) e t) (xTaint e t (xArgs o (opArity op) e t))) s

def execXadd (o : OpF) (s : State) := xArith opADD o s
def execXsub (o : OpF) (s : State) := xArith opSUB o s
def execXmul (o : OpF) (s : State) := xArith opMUL o s
def execXfma (o : OpF) (s : State) := xArith opFMA o s
def execXneg (o : OpF) (s : State) := xArith opNEG o s
def execXabs (o : OpF) (s : State) := xArith opABS o s
def execXmin (o : OpF) (s : State) := xArith opMIN o s
def execXmax (o : OpF) (s : State) := xArith opMAX o s

/-- XDIV (R255, R267): reserved at the word, written at the boundary. The nodes that the boundary will read are checked for poison now, so that
the fault is precise (R251, R439; log 26). -/
def execXdiv (o : OpF) (s : State) : Host.Outcome State Fault Refusal :=
  word o.rb s fun e =>
    let scr := pkLogScr e.pkt
    let outs := (e.setE o).map fun t => (t, xResult opDIV (xArgs o 2 e t) (xTaint e t (xArgs o 2 e t)))
    let n := (outs.filter fun x => x.2.isFresh).length
    match ExprLog.reserve scr (spillCap e.pkt) n e.team.log with
    | none => .fault e 7 (BitVec.ofNat 64 n) e.r.active 0 {}
    | some (is, l) =>
      let placed := placeAll scr outs is
      let h := holdAll scr (fun t => (e.th t).xreg o.d.toNat) l placed
      withLog e l ((outs.flatMap fun x => outReads x.2) ++ headsOf scr e.team.log is ++ h.2.filter fun i => !is.contains i) is fun e =>
        .retire e { defer := [.xdiv o.d.toNat placed] }

/-! ### Moves (R269, R270) -/

def execXmovv (o : OpF) (s : State) := xFixed o (fun e t => .cell (pointOf (e.v32 t o.a).w (e.dt t (e.v32 t o.a).t))) s
/-- A copy of an interval register in a lane. -/
def xCopy (o : OpF) (e : Env) (t : Nat) : XCell :=
  let c := e.xop t false o.a
  { c with t := e.dt t c.t }
def execXmov (o : OpF) (s : State) := xFixed o (fun e t => .cell (xCopy o e t)) s
def execXsever (o : OpF) (s : State) := xFixed o (fun e t =>
  let c := xCopy o e t
  if c.isPoint then .cell c else leafOf c.lo c.hi c.t) s

/-- A value pins an interval register (R270). -/
def pins (c : XCell) (v : Word32) : Bool :=
  let x := u32 v.toNat
  let a := u32 c.lo.toNat
  if x.isNaN || a.isNaN then false
  else if c.isPoint then cmpVal x a == .eq
  else match x with
    | .inf _ => false
    | _ => cmpVal a x != .gt && cmpVal x (u32 c.hi.toNat) != .gt
def execXpin (o : OpF) (s : State) : Host.Outcome State Fault Refusal :=
  word o.rb s fun e =>
    let ok (t : Nat) : Bool := pins (e.xop t false o.a) (e.v32 t o.b).w
    let out (t : Nat) : XOut :=
      let tt := e.dt t ((e.xop t false o.a).t || (e.v32 t o.b).t)
      .cell (pointCell (if ok t then (e.v32 t o.b).w else nan32) tt)
    writeX e o.d ((e.setE o).map fun t => (t, out t)) fun t => flagIf (!ok t) fIV

def execXlo (o : OpF) (s : State) := laneFixed o (fun e t =>
  e.put32 t o.d { w := (e.xop t false o.a).lo, t := (e.xop t false o.a).t }) s
def execXhi (o : OpF) (s : State) := laneFixed o (fun e t =>
  e.put32 t o.d { w := (e.xop t false o.a).hi, t := (e.xop t false o.a).t }) s

/-! ### XLD and XST (R268) -/

def xldAddr (o : OpF) (e : Env) (t : Nat) : Val 64 := memAddr o e t 4 (o.bit 7) (2 ^ o.pos)
/-- A log with the nodes that the word holds given back. -/
def Env.untaken (e : Env) (l : ExprLog) : ExprLog := (e.r.probe.map fun p => p.untaken (pkLogScr e.pkt) l).getD l
/-- A word that faults has taken nothing. -/
def Env.giveBack (e : Env) : Env := if (e.r.probe.bind (·.nodes)).isNone then e else e.withTeamLog (e.untaken e.team.log)
def WordOut.giveBack : WordOut → WordOut
  | .fault e c a m k d => .fault e.giveBack c a m k d
  | r => r
/-- An XLD that has taken its nodes waits for its bytes, holding the nodes, or loads. -/
def xldLoad (o : OpF) (is : List Nat) (bumps : Nat × Nat) (l : List (Nat × Word64 × Target)) (e : Env) : WordOut :=
  let z := if o.bit 10 then 8 else 4
  let held := { e with r := { e.r with probe := some { key := e.r.probe.bind (·.key), lanes := l, nodes := some is, bumps := bumps } } }
  match held.loadWait z l with
  | some s => .stall s
  | none =>
    let (e', ls) := loadAll e 0 false z (fun t => (xldAddr o e t).t) l
    .retire e' { defer := [.xload o.d.toNat (o.bit 10) is ls] }
/-- An XLD checks its addresses, takes its nodes, then waits for its bytes (R253, R268, R347). An access fault comes before LOG_FULL where both
apply. DESIGN CHOICE: no rule orders the two (log 92). -/
def execXld (o : OpF) (s : State) : Host.Outcome State Fault Refusal :=
  word o.rb s fun e =>
    let lh := o.bit 10
    let z := if lh then 8 else 4
    match e.checkAll o.space .read z ((e.setE o).map fun t => (t, (xldAddr o e t).w)) with
    | .stall s => .stall s
    | .fault k a m w => .fault (e.giveBack.walked w) k a m (if k = 4 then 1 else 0) {}
    | .ok l =>
      let scr := pkLogScr e.pkt
      let n := if lh then l.length else 0
      let drops (lg : ExprLog) : List Nat := (e.setE o).flatMap fun t => lg.dropReads scr ((e.th t).xreg o.d.toNat)
      match e.r.probe.bind (·.nodes) with
      | some is =>
        match e.logWaits with
        | some s => .stall s
        | none =>
          let bumps := ((e.r.probe.map (·.bumps)).getD (0, 0))
          (withLog { e with log0 := e.untaken e.log0 } e.team.log (drops e.team.log) [] (xldLoad o is bumps l)).giveBack
      | none =>
        match ExprLog.reserve scr (spillCap e.pkt) n e.team.log with
        | none => .fault e 7 (BitVec.ofNat 64 n) e.r.active 0 {}
        | some (is, lg) => withLog e lg (headsOf scr e.team.log is ++ drops lg) is
            (xldLoad o is (e.team.log.scrBump, e.team.log.spillBump) l)

def execXst (o : OpF) (s : State) : Host.Outcome State Fault Refusal :=
  word o.rb s fun e =>
    lanesOr e (e.checkAll o.space .write 8 ((e.setE o).map fun t => (t, (xldAddr o e t).w))) fun l =>
      let reqs := l.map fun (t, va, at_) =>
        let c := e.xop t false o.d
        ({ lane := t, at_ := at_, va := va, bytes := leBytes c.lo.toNat 4 ++ leBytes c.hi.toNat 4, ord := 0, t := e.dt t c.t,
           word := e.wordNo } : StoreReq)
      .retire e { effs := [.stores reqs false] }

/-- What XLD writes in a lane from the bytes it loaded: a cell, or the bounds of a LEAF. -/
def xldOut (lh : Bool) (w : Word64) (t : Bool) : XOut :=
  let lo : Word32 := w.extractLsb' 0 32
  let hi : Word32 := w.extractLsb' 32 32
  if !lh then .cell (pointOf lo t)
  else if (u32 lo.toNat).isNaN || (u32 hi.toNat).isNaN then .cell (pointCell nan32 t)
  else match cmpVal (u32 lo.toNat) (u32 hi.toNat) with
    | .gt => .cell (pointCell nan32 t)
    | .eq => .cell (pointCell lo t)
    | .lt => leafOf lo hi t

/-! ### The writes at the boundary (R255, R268, R272) -/

/-- XDIV's deferred write: the nodes, the counts they raise, the releases. -/
def xdivWrite (scr : Nat) (g : Group) (d : Nat) (placed : List (Nat × XCell × Option (Nat × Node))) (l : ExprLog) : ExprLog :=
  (holdAll scr (fun t => (g.lane t).xreg d) l placed).1

/-- XLD's deferred write: nodes of points go back in lane order, then the leaves and the releases. -/
def xldWrite (scr : Nat) (g : Group) (d : Nat) (outs : List (Nat × XOut)) (nodes : List Nat) (l : ExprLog) :
    ExprLog × List (Nat × XCell × Option (Nat × Node)) :=
  let pairs := outs.zip nodes
  let l := pairs.foldl (fun l x => if x.1.2.isFresh then l else l.free scr x.2) l
  let placed := if nodes.isEmpty then outs.map fun x => (x.1, placeOut scr x.2 0)
    else pairs.map fun x => (x.1.1, placeOut scr x.1.2 x.2)
  ((holdAll scr (fun t => (g.lane t).xreg d) l placed).1, placed)

/-- XREF's deferred write: the counts of the handles written, and the releases. -/
def xrefWrite (scr : Nat) (g : Group) (d : Nat) (cells : List (Nat × XCell)) (l : ExprLog) : ExprLog :=
  (holdAll scr (fun t => (g.lane t).xreg d) l (cells.map fun x => (x.1, x.2, none))).1

/-! ### Decisions (R259 to R264, R271) -/

/-- The filter on two operands (R259): none refers the lane. -/
def filterCmp (nodes : Table Node) (a b : XCell) : Option Decision :=
  let x := u32 a.lo.toNat
  let y := u32 b.lo.toNat
  let cmp : Decision := .decided 0 (match cmpVal x y with
    | .lt => -1
    | .eq => 0
    | .gt => 1)
  let invalid (c : XCell) : Bool := !c.isPoint && nodeInvalid (Table.get 0 nodes c.h.toNat)
  if (a.isPoint && a.isNaN) || (b.isPoint && b.isNaN) || (a.isInfPoint && b.isInfPoint && x.sign == y.sign) || invalid a then
    some (.undecided 3)
  else if a.isPoint && b.isPoint then some cmp
  else if a.isInfPoint then some (.decided 0 (if x.sign then -1 else 1))
  else if b.isInfPoint then some (.decided 0 (if y.sign then 1 else -1))
  else
    let d := a.iv.add b.iv.neg
    let d32 : Iv := { lo := end32 (lowBits opSUB a b {} d.lo), hi := end32 (highBits d.hi) }
    d32.sign.map fun s => .decided 0 s
/-- The filter on one operand. -/
def filterSgn (nodes : Table Node) (a : XCell) : Option Decision :=
  if a.isPoint then
    if a.isNaN then some (.undecided 3)
    else some (.decided 0 (match cmpVal (u32 a.lo.toNat) (.fin false 0 0) with
      | .lt => -1
      | .eq => 0
      | .gt => 1))
  else if nodeInvalid (Table.get 0 nodes a.h.toNat) then some (.undecided 3)
  else a.iv.sign.map fun s => .decided 0 s

def refArg (c : XCell) : Word32 ⊕ Nat := if c.isPoint then .inl c.lo else .inr c.h.toNat

/-- The nodes below some nodes; the fuel bounds them. -/
def reachable (nodes : Table Node) : Nat → List Nat → List Nat → List Nat
  | 0, _, seen => seen
  | _, [], seen => seen
  | fuel + 1, i :: rest, seen =>
    if seen.contains i then reachable nodes fuel rest seen
    else reachable nodes fuel (nodeRefs (Table.get 0 nodes i) ++ rest) (i :: seen)
def reachFrom (nodes : Table Node) (l : List (Word32 ⊕ Nat)) : List Nat :=
  reachable nodes (4 * nodes.length + l.length + 1) (l.filterMap fun x => match x with
    | .inr i => some i
    | .inl _ => none) []

/-- The answer of a decision. -/
def decisionAnswer (key lane : Nat) (d : Decision) (det t : Bool) : Answer :=
  { key := key, lane := lane, w := d.word, code := d.code, t := t || (det && d == .undecided 2) }

/-- The lanes of a word are decided by the filter, or referred (R259, R260). A poisoned node faults the word: that of A, whose INVALID bit the
filter reads, or one below a referred node (R251). -/
def decideWord (e : Env) (form : Nat → DForm) (stage : Option Nat)
    (l : List (Nat × Option Decision × XCell × Option XCell × Bool)) : WordOut :=
  let key := e.g.keys
  let nodes := e.team.log.nodes
  let refs := l.filterMap fun (t, d, a, b, tt) => if d.isSome then none else
    some ({ g := e.g.ref, core := e.g.core, key := key, lane := t, prio := e.ctl.prio.toNat, a := refArg a, b := b.map refArg,
            stage := stage, nodes := nodes, t := tt } : Referral)
  let answers := l.filterMap fun (t, d, _, _, tt) => d.map fun d => decisionAnswer key t d e.det tt
  let marked := l.filterMap fun (_, _, a, _, _) => if a.isPoint then none else some a.h.toNat
  let reads := (marked ++ refs.flatMap fun r => reachFrom nodes (r.a :: r.b.toList)).dedup
  withLog e e.team.log reads [] fun e =>
    .retire { e with s := { e.s with referrals := e.s.referrals ++ refs }
                     g := { e.g with keys := key + 1, answers := e.g.answers ++ answers } } { defer := [form key] }

def execXcmp (o : OpF) (s : State) : Host.Outcome State Fault Refusal :=
  word o.rb s fun e =>
    let es := e.setE o
    decideWord e (fun key => .xcmp o.cond o.pos (o.bit 8) key es) none (es.map fun t =>
      let a := e.xop t (o.bit 12) o.a
      let b := e.xop t (o.bit 11) o.b
      (t, filterCmp e.team.log.nodes a b, a, some b, e.dt t (a.t || b.t)))

def execXsgn (o : OpF) (s : State) : Host.Outcome State Fault Refusal :=
  word o.rb s fun e =>
    let es := e.setE o
    decideWord e (fun key => .xsgn o.d.toNat o.pos key es) none (es.map fun t =>
      let a := e.xop t false o.a
      (t, filterSgn e.team.log.nodes a, a, none, e.dt t a.t))

/-- XREF (R272): the engine evaluates at one stage; a point needs no engine. What the boundary will drop is checked for poison now. -/
def execXref (o : OpF) (s : State) : Host.Outcome State Fault Refusal :=
  word o.rb s fun e =>
    let lanes := (e.setE o).map fun t => (t, xCopy o e t)
    let drops := (e.setE o).flatMap fun t => e.team.log.dropReads (pkLogScr e.pkt) ((e.th t).xreg o.d.toNat)
    withLog e e.team.log drops [] fun e =>
      decideWord e (fun key => .xref o.d.toNat key lanes) (some (o.low2 + 1)) ((lanes.filter fun x => !x.2.isPoint).map fun x =>
        (x.1, none, x.2, none, x.2.t))

/-- The bounds after XREF, from the engine's answer: its ends, unless it found a zero divisor or a limit. -/
def xrefCell (c : XCell) (a : Option Answer) : XCell :=
  match a with
  | none => c
  | some a =>
    let lo : Word32 := a.w.extractLsb' 0 32
    let hi : Word32 := a.w.extractLsb' 32 32
    let t := c.t || a.t
    if a.code ≠ 0 then { c with t := t }
    else { lo := if (end32 c.lo).lt (end32 lo) then lo else c.lo, hi := if (end32 hi).lt (end32 c.hi) then hi else c.hi, h := c.h, t := t }

/-! ### The refinement engine (R260, R261) -/

/-- The mark of a node waits while a run of its team may still be taken back with the log (R256, R440). -/
def markWaits (s : State) (r : Referral) (bad : Option Nat) : Option State := if bad.isSome then s.logWaits r.g.tref none else none
/-- A node found to divide by zero is marked, where the log still holds it. -/
def markInvalid (s : State) (core : Nat) (c : Context) (r : Referral) (i : Nat) : State :=
  match s.team? r.g.tref with
  | none => s
  | some tm =>
    let tm := s.liveTeam core c tm
    let n := tm.log.node i
    let old := Table.get 0 r.nodes i
    if nodeOp n = nodeOp old ∧ n.extractLsb' 32 96 = old.extractLsb' 32 96 then s.setLog core c tm (tm.log.put i (n ||| 2))
    else s

/-- The answer of the engine to a referral, with the node to mark. -/
def referralAnswer (det : Bool) (r : Referral) : Answer × Option Nat :=
  match r.stage with
  | none =>
    let d := decideStages r.nodes r.a r.b
    (decisionAnswer r.key r.lane d.1 det r.t, d.2)
  | some k =>
    let out (w : Word64) (code : Nat) (t : Bool) : Answer := { key := r.key, lane := r.lane, w := w, code := code, t := t }
    match evalStage k r.nodes r.a none with
    | .ok v => (out (highBits v.hi ++ v.lo.bits32 false) 0 r.t, none)
    | .error (.zero i) => (out 0 1 r.t, some i)
    | .error .limit => (out 0 2 (r.t || det), none)

/-- The run that referred a lane has committed, so that its word stands (R439, R440). -/
def State.stands (s : State) (r : Referral) : Bool :=
  ((s.group? r.g).map fun g => g.pend.any fun d => (d.decision?.map fun x => x.1 == r.key).getD false).getD false
/-- The referrals at the engine of a core whose runs have committed and whose contexts have budget left (R428), in order of arrival. -/
def referralsAt (s : State) (core : Nat) : List (Nat × Referral) :=
  s.referrals.filterMap fun r =>
    if r.core ≠ core ∨ !((s.team? r.g.tref).map (·.resident)).getD false ∨ !s.stands r then none
    else (s.gridCtx? r.g.grid).bind fun c => if s.admitted c.asid (s.classOf r.g.grid) 26 then some (c.asid, r) else none
/-- The referral that the engine of a core serves next: of the context whose turn it is (R429), the highest priority, then the first to
arrive (R49, R260). -/
def nextReferral (s : State) (core : Nat) : Option Referral :=
  let here := referralsAt s core
  (argMin (fun x => 3 - x.2.prio) (here.filter fun x => s.turnOf (queueAt core 5) x.1 (here.map (·.1)))).map (·.2)

/-- REFERRAL_DECIDE (R260 to R262): one referral is decided. -/
def referralStep (s : State) (core : Nat) : Option State :=
  (nextReferral s core).bind fun r =>
  (s.team? r.g.tref).bind fun tm =>
  (s.group? r.g).bind fun g =>
  (s.gridCtx? r.g.grid).map fun c =>
    let cls := s.classOf r.g.grid
    let s := s.served (queueAt core 5) c.asid
    let reads := reachFrom r.nodes (r.a :: r.b.toList)
    match reachSpill s g c tm reads [] with
    | .dead s => s
    | .wait s => s
    | _ =>
      let (a, bad) := referralAnswer (s.det r.g.grid) r
      match markWaits s r bad with
      | some s => s.bump
      | none =>
      let s := { s.chargeSpill core c tm reads with referrals := s.referrals.erase r }
      let s := match bad with
        | some i => markInvalid s core c r i
        | none => s
      (s.answer r.g a).chargeStep c.asid cls 26
def execReferralDecide (core : Nat) (s : State) : Host.Outcome State Fault Refusal := event s (referralStep s core)

/-! ### XSTG and XLOGQ (R263, R273) -/

def execXstg (o : OpF) (s : State) := laneFixed o (fun e t => e.put32 t o.d { w := (e.th t).dcode.zeroExtend 32 }) s
/-- XLOGQ's value is timing-dependent (R401). -/
def execXlogq (o : OpF) (s : State) : Host.Outcome State Fault Refusal :=
  word o.rb s fun e =>
    let l := e.team.log
    let v := match o.low2 with
      | 0 => l.scrUsed
      | 1 => l.spillUsed
      | 2 => pkLogScr e.pkt
      | _ => spillCap e.pkt
    .retire e { sregs := e.putS o.d { w := BitVec.ofNat 64 v, t := true } }

end Sys2Proof.Machine
end

