-- ==== Sys2Proof/Machine/Sheet.lean ====
section
/-!
DEFINITION. Sheets: the sheet record, elements and context words, step code, and one sweep of a sheet (06_sheets_and_sweeps.md R128 to
R146, R155). A sweep is a pure function of the element words it reads.
-/
namespace Sys2Proof.Machine
open Sys2Proof

/-! ### The sheet record (R128, R145) -/

abbrev SheetRec := BitVec 512
def shSlabs (r : SheetRec) : Nat := bits r 454 4 + 1
def shSeq (r : SheetRec) : Bool := r.getLsbD 453
def shNbh (r : SheetRec) : Nat := bits r 450 3
def shRank (r : SheetRec) : Nat := bits r 448 2
def shNx (r : SheetRec) : Nat := bits r 384 20 + 1
def shNy (r : SheetRec) : Nat := bits r 404 20 + 1
def shNz (r : SheetRec) : Nat := bits r 424 20 + 1
def shLimit (r : SheetRec) : Nat := bits r 320 32
/-- The word that a neighbour outside the sheet reads as: BCTX and BVAL. -/
def shOut (r : SheetRec) : Word64 := bits64 r 256 64
def shPlist (r : SheetRec) : Word64 := bits64 r 192 64
def shDeckle (r : SheetRec) : Word64 := bits64 r 128 64
def shStept (r : SheetRec) : Word64 := bits64 r 64 64
def shElem (r : SheetRec) : Word64 := bits64 r 0 64
/-- The element count. -/
def shCount (r : SheetRec) : Nat := shNx r * shNy r * shNz r
/-- The extent of the slowest dimension. -/
def shPlanes (r : SheetRec) : Nat := if shRank r = 1 then shNx r else if shRank r = 2 then shNy r else shNz r
/-- Planes of a slab (R145). -/
def shQ (r : SheetRec) : Nat := (shPlanes r + shSlabs r - 1) / shSlabs r
/-- Deckle segments. -/
def shSegs (r : SheetRec) : Nat := (shCount r + 63) / 64

/-- An address field with no reserved bit, and its multiple. -/
def addrOk (a : Word64) (n : Nat) : Bool := decide (bits a 57 7 = 0) && decide (a.toNat % n = 0)

/-- The record is valid (R128, R145); where SLABS = 0, PLIST is ignored (R129). -/
def shValid (r : SheetRec) : Bool :=
  decide (bits r 458 54 = 0) && decide (bits r 444 4 = 0) && decide (bits r 352 32 = 0) &&
    decide (1 ≤ shRank r) &&
    (match shNbh r with
     | 0 => shRank r == 1
     | 1 | 2 => shRank r == 2
     | 3 | 4 => shRank r == 3
     | _ => false) &&
    (decide (shRank r = 3) || decide (shNz r = 1)) && (decide (shRank r ≠ 1) || decide (shNy r = 1)) &&
    decide (1 ≤ shLimit r) && decide (shCount r ≤ 2 ^ 32) &&
    addrOk (shDeckle r) 64 && addrOk (shStept r) 64 && addrOk (shElem r) 64 &&
    (decide (shSlabs r = 1) || (addrOk (shPlist r) 2 && decide ((shSlabs r - 1) * shQ r < shPlanes r)))

/-! ### Geometry -/

def elX (r : SheetRec) (i : Nat) : Nat := i % shNx r
def elY (r : SheetRec) (i : Nat) : Nat := i / shNx r % shNy r
def elZ (r : SheetRec) (i : Nat) : Nat := i / shNx r / shNy r
/-- The slab of an element (R145). -/
def slabOf (r : SheetRec) (i : Nat) : Nat := (if shRank r = 1 then elX r i else if shRank r = 2 then elY r i else elZ r i) / shQ r
/-- The directions of a neighbourhood (R155). -/
def nbhDirs (n : Nat) : List Nat :=
  match n with
  | 0 => [12, 14]
  | 1 => [10, 12, 14, 16]
  | 2 => [9, 10, 11, 12, 14, 15, 16, 17]
  | 3 => [4, 10, 12, 14, 16, 22]
  | _ => (List.range 27).filter (· != 13)
/-- The element in a direction; none outside the sheet. -/
def neighbour (r : SheetRec) (i dir : Nat) : Option Nat :=
  let x : Int := (elX r i : Int) + ((dir % 3 : Nat) : Int) - 1
  let y : Int := (elY r i : Int) + ((dir / 3 % 3 : Nat) : Int) - 1
  let z : Int := (elZ r i : Int) + ((dir / 9 : Nat) : Int) - 1
  if 0 ≤ x ∧ x < shNx r ∧ 0 ≤ y ∧ y < shNy r ∧ 0 ≤ z ∧ z < shNz r then
    some (x.toNat + shNx r * (y.toNat + shNy r * z.toNat)) else none
def neighbours (r : SheetRec) (i : Nat) : List Nat := (nbhDirs (shNbh r)).filterMap (neighbour r i)

/-! ### Context words (R130, R132) -/

def ctxOf (w : Word64) : Word32 := w.extractLsb' 32 32
def valOf (w : Word64) : Word32 := w.extractLsb' 0 32
def mkElem (c v : Word32) : Word64 := c ++ v
def cStep (c : Word32) : Nat := bits c 26 6
def cWait (c : Word32) : Nat := bits c 23 3
def cWarg (c : Word32) : Nat := bits c 16 7
def setWaitOf (c : Word32) (wait warg : Nat) : Word32 := (c &&& 0xFC00FFFF#32) ||| BitVec.ofNat 32 (wait * 2 ^ 23 + warg * 2 ^ 16)
/-- RUN, SLEEP or a reserved wait (R136). -/
def waitLive (n : Nat) : Bool := n == 0 || n == 2 || decide (5 ≤ n)
/-- A near trigger on an element. -/
def nearHit (w : Word64) : Word64 := if cWait (ctxOf w) = 1 then mkElem (setWaitOf (ctxOf w) 0 0) (valOf w) else w
/-- A wake of an element. -/
def wakeHit (w : Word64) : Word64 :=
  if 1 ≤ cWait (ctxOf w) ∧ cWait (ctxOf w) ≤ 3 then mkElem (setWaitOf (ctxOf w) 0 0) (valOf w) else w
/-- The adjustment of a sleeping element at the start of a sweep (R138). -/
def sleepHit (w : Word64) : Word64 :=
  if cWait (ctxOf w) ≠ 2 then w
  else if cWarg (ctxOf w) = 0 then mkElem (setWaitOf (ctxOf w) 0 0) (valOf w)
  else mkElem (setWaitOf (ctxOf w) 2 (cWarg (ctxOf w) - 1)) (valOf w)

/-! ### Element words read and held -/

/-- Why the engine stops: a sheet fault with its FCAUSE, element and word (R146, R490); a page that is zeroing (R422); a translation
failure under REPLAY (R426). -/
inductive SwErr where
  | fault (cause elem word : Nat)
  | zero (va : Word64)
  | replay (va : Word64)
  deriving DecidableEq, Repr, Inhabited

/-- How the engine meets the element array: it reads a word with its taint, and checks that it may write one. -/
structure SheetIo where
  read : Nat → Except SwErr (Word64 × Bool)
  chk  : Nat → Except SwErr Unit

/-- Element words that differ from memory, with the taint of their last write. -/
abbrev Elems := Table (Word64 × Bool)

def getEl (io : SheetIo) (w : Elems) (i : Nat) : Except SwErr (Word64 × Bool) :=
  match w.find? fun p => p.1 == i with
  | some p => .ok p.2
  | none => io.read i
/-- A word is changed by a function; one that stays as it is is not written. -/
def updEl (io : SheetIo) (w : Elems) (i : Nat) (f : Word64 → Word64) (t : Bool) : Except SwErr Elems :=
  (getEl io w i).bind fun x =>
    if f x.1 = x.1 then .ok w else (io.chk i).map fun _ => Table.put w i (f x.1, x.2 || t)
/-- Near triggers at the neighbours of an element. -/
def nearAll (io : SheetIo) (r : SheetRec) (w : Elems) (l : List Nat) (i : Nat) (t : Bool) : Except SwErr Elems :=
  ((neighbours r i).filter l.contains).foldlM (fun w j => updEl io w j nearHit t) w

/-! ### Step code (R133, R134, R155) -/

/-- An element that runs: its registers, predicates, flags, its new context word, the directions it wakes, the taint it has read. -/
structure StepTh where
  v     : Table VCell
  pred  : BitVec 8 := 0
  flags : BitVec 6 := 0
  c     : Word32
  wakes : List Nat := []
  t     : Bool
  deriving DecidableEq, Repr, Inhabited

/-- The meaning of a word of the element subset that a core has too. -/
def subsetWord (i : Instr) : Option (State → Host.Outcome State Fault Refusal) :=
  match i with
  | .add o => some (execAdd o)
  | .sub o => some (execSub o)
  | .mul o => some (execMul o)
  | .mulh o => some (execMulh o)
  | .and o => some (execAnd o)
  | .or o => some (execOr o)
  | .xor o => some (execXor o)
  | .andn o => some (execAndn o)
  | .not o => some (execNot o)
  | .neg o => some (execNeg o)
  | .abs o => some (execAbs o)
  | .min o => some (execMin o)
  | .max o => some (execMax o)
  | .shl o => some (execShl o)
  | .shr o => some (execShr o)
  | .sar o => some (execSar o)
  | .rotl o => some (execRotl o)
  | .popc o => some (execPopc o)
  | .clz o => some (execClz o)
  | .ctz o => some (execCtz o)
  | .brev o => some (execBrev o)
  | .addc o => some (execAddc o)
  | .mad o => some (execMad o)
  | .madw o => some (execMadw o)
  | .fshl o => some (execFshl o)
  | .bfx o => some (execBfx o)
  | .bfi o => some (execBfi o)
  | .sel o => some (execSel o)
  | .mov o => some (execMov o)
  | .movw o => some (execMovw o)
  | .lea o => some (execLea o)
  | .cmp o => some (execCmp o)
  | .addImm o => some (execAddImm o)
  | .mulImm o => some (execMulImm o)
  | .andImm o => some (execAndImm o)
  | .orImm o => some (execOrImm o)
  | .xorImm o => some (execXorImm o)
  | .shlImm o => some (execShlImm o)
  | .shrImm o => some (execShrImm o)
  | .sarImm o => some (execSarImm o)
  | .rotlImm o => some (execRotlImm o)
  | .fadd o => some (execFadd o)
  | .fsub o => some (execFsub o)
  | .fmul o => some (execFmul o)
  | .ffma o => some (execFfma o)
  | .fmin o => some (execFmin o)
  | .fmax o => some (execFmax o)
  | .fcmp o => some (execFcmp o)
  | .fclass o => some (execFclass o)
  | .frnd o => some (execFrnd o)
  | .fscl o => some (execFscl o)
  | .fsel o => some (execFsel o)
  | .pset o => some (execPset o)
  | .pnot o => some (execPnot o)
  | .pand o => some (execPand o)
  | .por o => some (execPor o)
  | .pxor o => some (execPxor o)
  | .ppop o => some (execPpop o)
  | .pdup o => some (execPdup o)
  | _ => none

/-- A machine of one thread, on which a subset word has the effect it has on a core. -/
def stepMachine (th : StepTh) : State :=
  let t : Thread := { st := .live, v := th.v, pred := th.pred, flags := th.flags }
  let run : Run := { begun := 0, at_ := 0, active := 1, s := [], last := 0 }
  { groups := [{ ref := loadRef, role := 0, lanes := [t], round := some { startS := [], start := [t], begun := 0, a := some run, b := none } }]
    cur := some (loadRef, .a) }
/-- The thread after the word. -/
def stepAfter (th : StepTh) (s : State) : StepTh :=
  let t := ((s.groups.head?).map fun g => g.lane 0).getD {}
  { th with v := t.v, pred := t.pred, flags := t.flags }

/-- What the words of the element subset see of the sheet: the record, the element, its stored word, and the word of another element. -/
structure StepEnv where
  r    : SheetRec
  i    : Nat
  own  : Word64 × Bool
  peer : Nat → Except SwErr (Word64 × Bool)

def StepEnv.illegal (q : StepEnv) (k : Nat) : SwErr := .fault 1 q.i k
def StepEnv.dirOk (q : StepEnv) (d : Nat) : Bool := (nbhDirs (shNbh q.r)).contains d

/-- A destination V register of step code is written. -/
def StepTh.put (th : StepTh) (d : BitVec 8) (x : Word32) : StepTh := { th with v := Table.set {} th.v d.toNat { w := x } }
def StepTh.get (th : StepTh) (a : BitVec 8) : Word32 := (Table.get {} th.v a.toNat).w

/-- NBLD: value or context word in a direction. -/
def stepNbld (q : StepEnv) (k : Nat) (o : OpF) (on : Bool) (th : StepTh) : Except SwErr StepTh :=
  let dir := o.field 0 5
  if 16 ≤ o.d.toNat ∨ o.a ≠ 0 ∨ o.b ≠ 0 ∨ o.c ≠ 0 ∨ !o.only 0x3F ∨ (dir ≠ 13 ∧ !q.dirOk dir) then .error (q.illegal k)
  else if !on then .ok th
  else
    let give (x : Word64 × Bool) : StepTh :=
      { th.put o.d (if o.bit 5 then ctxOf x.1 else valOf x.1) with t := th.t || x.2 }
    if dir = 13 then .ok (give q.own)
    else match neighbour q.r q.i dir with
      | some j => (q.peer j).map give
      | none => .ok (give (shOut q.r, false))

/-- SELF. -/
def stepSelf (q : StepEnv) (k : Nat) (o : OpF) (on : Bool) (th : StepTh) : Except SwErr StepTh :=
  if 16 ≤ o.d.toNat ∨ o.a ≠ 0 ∨ o.b ≠ 0 ∨ o.c ≠ 0 ∨ !o.only 3 then .error (q.illegal k)
  else if !on then .ok th
  else
    let n := match o.low2 with
      | 0 => elX q.r q.i
      | 1 => elY q.r q.i
      | 2 => elZ q.r q.i
      | _ => q.i
    .ok (th.put o.d (BitVec.ofNat 32 n))

/-- CTXW: the wait of the element, or a wake of a neighbour. -/
def stepCtxw (q : StepEnv) (k : Nat) (o : OpF) (on : Bool) (th : StepTh) : Except SwErr StepTh :=
  let code := o.field 0 3
  let n := o.field 3 7
  if o.d ≠ 0 ∨ o.b ≠ 0 ∨ o.c ≠ 0 then .error (q.illegal k)
  else if o.bit 14 then
    if o.bit 13 ∨ o.field 0 8 ≠ 0 ∨ o.a ≠ 0 ∨ !q.dirOk (o.field 8 5) then .error (q.illegal k)
    else if on then .ok { th with wakes := th.wakes ++ [o.field 8 5] } else .ok th
  else if 5 ≤ code ∨ o.field 10 3 ≠ 0 ∨ (code ≠ 2 ∧ (n ≠ 0 ∨ o.bit 13)) ∨ (o.bit 13 ∧ n ≠ 0) ∨ (!o.bit 13 ∧ o.a ≠ 0) ∨
      16 ≤ o.a.toNat then .error (q.illegal k)
  else if on then
    .ok { th with c := setWaitOf th.c code (if o.bit 13 then min (th.get o.a).toNat 127 else n) }
  else .ok th

/-- CTXS: the step that the element runs next. -/
def stepCtxs (q : StepEnv) (k : Nat) (o : OpF) (on : Bool) (th : StepTh) : Except SwErr StepTh :=
  if o.d ≠ 0 ∨ o.b ≠ 0 ∨ o.c ≠ 0 ∨ !o.only 0x7F ∨ (o.bit 6 ∧ o.field 0 6 ≠ 0) ∨ (!o.bit 6 ∧ o.a ≠ 0) ∨ 16 ≤ o.a.toNat then
    .error (q.illegal k)
  else if on then
    let n := if o.bit 6 then (th.get o.a).toNat % 64 else o.field 0 6
    .ok { th with c := (th.c &&& 0x03FFFFFF#32) ||| BitVec.ofNat 32 (n * 2 ^ 26) }
  else .ok th

/-- CTXL: the element's local bits. -/
def stepCtxl (q : StepEnv) (k : Nat) (o : OpF) (on : Bool) (th : StepTh) : Except SwErr StepTh :=
  if o.b ≠ 0 ∨ o.c ≠ 0 ∨ !o.only 1 ∨ 16 ≤ o.a.toNat ∨ 16 ≤ o.d.toNat ∨ (o.bit 0 ∧ o.d ≠ 0) ∨ (!o.bit 0 ∧ o.a ≠ 0) then
    .error (q.illegal k)
  else if !on then .ok th
  else if o.bit 0 then .ok { th with c := (th.c &&& 0xFFFF0000#32) ||| (th.get o.a &&& 0xFFFF#32) }
  else .ok (th.put o.d (th.c &&& 0xFFFF#32))

/-- A word of step code (R133): one of the element subset, or ILLEGAL_STEP. RB is ignored (R47). -/
def stepWord (q : StepEnv) (k : Nat) (w : Word64) (th : StepTh) : Except SwErr StepTh :=
  let o := fieldsF w
  let on := if o.ge then th.pred.getLsbD o.gd.toNat != o.gn else true
  if w.getLsbD 62 then .error (q.illegal k)
  else if elementOpcode (w.extractLsb' 52 10).toNat then
    if !guardOk { lane := true, guard := true } o.ge o.gn o.gd then .error (q.illegal k)
    else
      match (w.extractLsb' 52 10).toNat with
      | 0x305 => stepNbld q k o on th
      | 0x306 => stepSelf q k o on th
      | 0x307 => stepCtxw q k o on th
      | 0x308 => stepCtxs q k o on th
      | _ => stepCtxl q k o on th
  else
    match decode w with
    | .error _ => .error (q.illegal k)
    | .ok i =>
      if (vregsOf i).any (fun n => decide (16 ≤ n)) || !(sreadsOf i).isEmpty then .error (q.illegal k)
      else match subsetWord i with
        | none => .error (q.illegal k)
        | some f =>
          match f (stepMachine th) with
          | .next s => .ok (stepAfter th s)
          | _ => .error (q.illegal k)

/-- A step-table entry that a step may use: its code address and length (R131, R146). -/
def entryOk (ent : Word64) : Bool := decide (bits ent 0 57 ≠ 0) && decide (bits ent 57 3 = 0) && decide (bits ent 0 3 = 0)
def entryLen (ent : Word64) : Nat := bits ent 60 4 + 1

/-- The words of a step, each seeing the one before. -/
def stepWords (q : StepEnv) : Nat → List Word64 → StepTh → Except SwErr StepTh
  | _, [], th => .ok th
  | k, w :: rest, th => (stepWord q k w th).bind fun th => stepWords q (k + 1) rest th

/-- An element runs (R134). -/
def runElem (q : StepEnv) (table : List Word64) (code : List (List Word64)) : Except SwErr StepTh :=
  let k := cStep (ctxOf q.own.1)
  if !entryOk ((table[k]?).getD 0) then .error (q.illegal 0)
  else
    stepWords q 0 ((code[k]?).getD []) { v := Table.set {} [] 0 { w := valOf q.own.1 }, c := setWaitOf (ctxOf q.own.1) 0 0, t := q.own.2 }

/-! ### One sweep (R135, R138 to R140, R145, R146) -/

/-- A slab's sweep: the words it has written, the effects that wait for the boundary (elements that changed, elements woken), the flags,
and the fault that stopped it. -/
structure SlabOut where
  w       : Elems := []
  changed : List (Nat × Bool) := []
  wakes   : List (Nat × Bool) := []
  flags   : BitVec 6 := 0
  fault   : Option SwErr := none
  deriving DecidableEq, Repr, Inhabited

/-- The engine visits an element: its segment's bit is set, or a trigger of this sweep has set it (R136). -/
def visits (deckle : Table Bool) (w : Elems) (i : Nat) : Bool :=
  Table.get false deckle (i / 64) || w.any fun p => p.1 / 64 == i / 64

/-- A failure that an element meets at another one is its own (R146). -/
def SwErr.at_ (i : Nat) : SwErr → SwErr
  | .fault _ _ _ => .fault 3 i 0
  | e => e
def atElem {α : Type} (i : Nat) (x : Except SwErr α) : Except SwErr α := x.mapError (·.at_ i)

/-- One element of a slab is reached. `start` holds the words as the sweep found them, after R138. A memory failure that its step meets, at
itself, at a neighbour it reads, triggers or wakes, is the fault of the element that executes, as is a SLEEP word that cannot be written
(R146; log 69). The flags that the step raised before a fault are dropped: the spec is silent on them. DESIGN CHOICE (R134; log 69). -/
def reachElem (io : SheetIo) (r : SheetRec) (table : List Word64) (code : List (List Word64)) (deckle : Table Bool) (start : Elems)
    (mine : List Nat) (o : SlabOut) (i : Nat) : Except SwErr SlabOut :=
  if !visits deckle o.w i then .ok o
  else
    (getEl io o.w i).bind fun own =>
      if 5 ≤ cWait (ctxOf own.1) then .error (.fault 2 i 0)
      else if cWait (ctxOf own.1) = 2 then (io.chk i).map fun _ => o
      else if cWait (ctxOf own.1) ≠ 0 then .ok o
      else
        let peer (j : Nat) : Except SwErr (Word64 × Bool) := atElem i (getEl io (if shSeq r && mine.contains j then o.w else start) j)
        let own := if shSeq r then own else ((getEl io start i).toOption).getD own
        (runElem { r := r, i := i, own := own, peer := peer } table code).bind fun th =>
        (io.chk i).bind fun _ =>
          let v := (Table.get {} th.v 0).w
          let ch := v != valOf own.1
          let targets := th.wakes.filterMap (neighbour r i)
          let o' := { o with w := Table.put o.w i (mkElem th.c v, th.t), flags := o.flags ||| th.flags }
          if shSeq r then
            (if ch then atElem i (nearAll io r o'.w mine i th.t) else .ok o'.w).bind fun w =>
            (atElem i ((targets.filter mine.contains).foldlM (fun w j => updEl io w j wakeHit th.t) w)).map fun w =>
              { o' with w := w
                        changed := if ch then o.changed ++ [(i, th.t)] else o.changed
                        wakes := o.wakes ++ (targets.filter fun j => !mine.contains j).map fun j => (j, th.t) }
          else
            .ok { o' with changed := if ch then o.changed ++ [(i, th.t)] else o.changed
                          wakes := o.wakes ++ targets.map fun j => (j, th.t) }

/-- The elements of a slab in storage order, to the first that faults: it and the later ones keep their state (R146). -/
def sweepSlab (io : SheetIo) (r : SheetRec) (table : List Word64) (code : List (List Word64)) (deckle : Table Bool) (start : Elems)
    (mine : List Nat) : SlabOut → List Nat → SlabOut
  | o, [] => o
  | o, i :: rest =>
    match reachElem io r table code deckle start mine o i with
    | .ok o => sweepSlab io r table code deckle start mine o rest
    | .error e => { o with w := o.w.filter fun p => decide (p.1 < i), fault := some e }

/-- The sleepers adjusted before a sweep (R138); a word that cannot be read or written stays as it is, for the element to fault when it is
reached (R146). -/
def sleepers (io : SheetIo) (deckle : Table Bool) (l : List Nat) : Elems :=
  l.foldl (fun w i =>
    if !Table.get false deckle (i / 64) then w
    else match io.read i with
      | .ok x => if sleepHit x.1 = x.1 ∨ (io.chk i).toBool = false then w else Table.put w i (sleepHit x.1, x.2)
      | .error _ => w) []

/-- One sweep of every slab. -/
def sweepAll (io : SheetIo) (r : SheetRec) (table : List Word64) (code : List (List Word64)) (deckle : Table Bool) : List SlabOut :=
  let all := List.range (shCount r)
  let start := sleepers io deckle all
  (List.range (shSlabs r)).map fun k =>
    let mine := all.filter fun i => slabOf r i == k
    sweepSlab io r table code deckle start mine { w := start.filter fun p => slabOf r p.1 == k } mine

/-- The effects that take place at the boundary (R139, R145) once every commit stands: near triggers of what changed, then wakes. Under
SEQ only those that cross a face are left. -/
def boundaryEffects (r : SheetRec) (outs : List SlabOut) : List Poke :=
  let far (i j : Nat) : Bool := !shSeq r || slabOf r i != slabOf r j
  (outs.flatMap fun o => o.changed.flatMap fun c => ((neighbours r c.1).filter (far c.1)).map fun j =>
    { issuer := 0, elem := j, kind := .near, t := c.2 }) ++
  outs.flatMap fun o => o.wakes.map fun x => { issuer := 0, elem := x.1, kind := .wake, t := x.2 }

/-! ### Pokes (R141 step 3, R153) -/

/-- Entries in ascending issuer index, those of one lane in program order. -/
def sortPokes : List Poke → List Poke
  | [] => []
  | p :: rest =>
    let rec insert (p : Poke) : List Poke → List Poke
      | [] => [p]
      | x :: l => if p.issuer ≤ x.issuer then p :: x :: l else x :: insert p l
    insert p (sortPokes rest)

/-- One entry is applied; an index outside the sheet is dropped (R153). A value poke that changes the value sends near triggers (R132),
each an entry of its own. -/
def pokeOne (io : SheetIo) (r : SheetRec) (w : Elems) (p : Poke) : Except SwErr (Elems × List Poke) :=
  if shCount r ≤ p.elem then .ok (w, [])
  else
    match p.kind with
    | .wake => (updEl io w p.elem wakeHit p.t).map fun w => (w, [])
    | .near => (updEl io w p.elem nearHit p.t).map fun w => (w, [])
    | .ctx c =>
      (getEl io w p.elem).bind fun x => (io.chk p.elem).map fun _ => (Table.put w p.elem (mkElem c (valOf x.1), p.t || x.2), [])
    | .val v =>
      (getEl io w p.elem).bind fun x => (io.chk p.elem).map fun _ =>
        (Table.put w p.elem (mkElem (ctxOf x.1) v, p.t || x.2),
          if v = valOf x.1 then [] else (neighbours r p.elem).map fun j => { p with elem := j, kind := .near })

/-- Entries applied in their order to the first failure: the words, the entries left, the failure. -/
structure PokeOut where
  w    : Elems
  left : List Poke
  fail : Option SwErr
  deriving DecidableEq, Repr, Inhabited

def applyTriggers (io : SheetIo) (r : SheetRec) : Elems → List Poke → PokeOut
  | w, [] => { w := w, left := [], fail := none }
  | w, p :: rest =>
    match pokeOne io r w p with
    | .ok x => applyTriggers io r x.1 rest
    | .error e => { w := w, left := p :: rest, fail := some e }
def applyEntries (io : SheetIo) (r : SheetRec) : Elems → List Poke → PokeOut
  | w, [] => { w := w, left := [], fail := none }
  | w, p :: rest =>
    match pokeOne io r w p with
    | .error e => { w := w, left := p :: rest, fail := some e }
    | .ok x =>
      let o := applyTriggers io r x.1 x.2
      if o.fail.isSome then { o with left := o.left ++ rest } else applyEntries io r o.w rest

/-- One entry of a batch on a stopped sheet: a write that fails, or one behind a pending write of its element, is kept (R490). A page that is
still to be zeroed is no failure: the batch waits for it (R422), whatever fails beside it. -/
def keepOne (io : SheetIo) (r : SheetRec) (o : PokeOut) (p : Poke) : PokeOut × List Poke :=
  if o.left.any fun q => q.elem == p.elem then ({ o with left := o.left ++ [p] }, [])
  else
    match pokeOne io r o.w p with
    | .ok x => ({ o with w := x.1 }, x.2)
    | .error (.zero va) => ({ o with left := o.left ++ [p], fail := o.fail.or (some (.zero va)) }, [])
    | .error _ => ({ o with left := o.left ++ [p] }, [])
/-- A batch applied at acceptance (R143), over the pending writes. -/
def applyBatch (io : SheetIo) (r : SheetRec) (pend : List Poke) (l : List Poke) : PokeOut :=
  (sortPokes l).foldl (fun o p => let x := keepOne io r o p
                                  x.2.foldl (fun o q => (keepOne io r o q).1) x.1) { w := [], left := pend, fail := none }

/-! ### Counts (R136, R141, R147) -/

/-- The waits of all elements, or why an element cannot be read: the check of termination reads every context, those of segments whose bit
is clear too. DESIGN CHOICE: the spec does not say which it reads (R141; log 69). -/
def allWaits (io : SheetIo) (r : SheetRec) (w : Elems) : Except SwErr (List Nat) :=
  (List.range (shCount r)).mapM fun i => (getEl io w i).map fun x => cWait (ctxOf x.1)
/-- Elements in RUN or SLEEP. -/
def countRunnable (l : List Nat) : Nat := (l.filter fun n => n == 0 || n == 2).length
/-- The deckle map of the waits. -/
def deckleOf (l : List Nat) : Table Bool :=
  (List.range l.length).foldl (fun t i => if waitLive ((l[i]?).getD 4) then Table.set false t (i / 64) true else t) []
/-- The bits that changed words set. -/
def deckleSet (t : Table Bool) (w : Elems) : Table Bool :=
  w.foldl (fun t p => if waitLive (cWait (ctxOf p.2.1)) then Table.set false t (p.1 / 64) true else t) t
/-- The status that stops a sheet (R141 step 5): 0 DONE, 1 QUIET. -/
def waitsStop (l : List Nat) : Option Nat :=
  if l.all (· == 4) then some 0 else if l.any waitLive then none else some 1

end Sys2Proof.Machine
end

