-- ==== Sys2Proof/Machine/Sweep.lean ====
section
/-!
DEFINITION. The sweep engine: bindings, pokes, runs and their completion (06_sheets_and_sweeps.md R128, R129, R141 to R154, R490), the
events SWRUN_START and SWEEP, and the words of group 12 that a core executes.
-/
namespace Sys2Proof.Machine
open Sys2Proof

/-! ### Bindings (R149, R150) -/

/-- A sheet handle (R149). -/
def mkSheetHandle (core slot : Nat) (serial : BitVec 32) : Word64 :=
  BitVec.ofNat 64 (core * 2 ^ 48 + slot * 2 ^ 46 + serial.toNat)
/-- A failed handle: 1 BAD_RECORD, 2 NO_SLOT, 3 SHEET_MEMORY. -/
def badSheetHandle (cause : Nat) : Word64 := BitVec.ofNat 64 (2 ^ 63 + cause)
def Sheet.handle (x : Sheet) : Word64 := mkSheetHandle x.core x.slot x.serial

def State.sheetAt? (s : State) (core slot : Nat) : Option Sheet :=
  s.sheets.find? fun x => decide (x.core = core) && decide (x.slot = slot)
/-- The sheet of a binding that still stands. -/
def State.bound? (s : State) (core slot serial : Nat) : Option Sheet :=
  (s.sheetAt? core slot).filter fun x => decide (x.serial.toNat = serial)
def State.setSheet (s : State) (x : Sheet) : State :=
  { s with sheets := s.sheets.map fun y => if y.core = x.core ∧ y.slot = x.slot then x else y }
/-- A released sheet is gone once it has no run left (R150). -/
def State.reapSheet (s : State) (x : Sheet) : State :=
  { s with sheets := s.sheets.filter fun y => !(decide (y.core = x.core) && decide (y.slot = x.slot) && y.releasing && y.runs.isEmpty) }

/-- The sheet that a word names by its handle; none is SHEET_HANDLE (R151). -/
def Env.sheet? (e : Env) (h : Word64) : Option Sheet :=
  e.s.sheets.find? fun x => x.handle == h && decide (x.team = e.g.ref.tref) && !x.releasing

/-! ### The element array in memory (R130, R144) -/

/-- The unit of the engine that runs an element's slab. -/
def Sheet.unit (x : Sheet) (i : Nat) : Nat := dieUnit (dieOf ((x.cores[slabOf x.record i]?).getD (x.core, 0)).1)
def Sheet.elemVa (x : Sheet) (i : Nat) : Word64 := shElem x.record + BitVec.ofNat 64 (8 * i)

/-- An access of the engine for an element: its address, or why it fails. -/
def State.sheetAccess (s : State) (c : Context) (unit : Nat) (need : Need) (va : Word64) (n i : Nat) : Except SwErr Nat :=
  match s.access unit c need va with
  | .ok pa => if need ≠ .write ∧ s.poisoned pa n then .error (.fault 3 i 0) else .ok pa
  | .zero => .error (.zero va)
  | .fault k => if c.replayMode && decide (k = 4) then .error (.replay va) else .error (.fault 3 i 0)
  | .peer .. => .error (.fault 3 i 0)

/-- The engine at the element array. -/
def State.sheetIo (s : State) (x : Sheet) (c : Context) : SheetIo where
  read i := (s.sheetAccess c (x.unit i) .read (x.elemVa i) 8 i).map fun pa =>
    (BitVec.ofNat 64 (s.home.nat pa 8), s.det x.team.grid && s.home.tainted pa 8)
  chk i := (s.sheetAccess c (x.unit i) .write (x.elemVa i) 8 i).map fun _ => ()

/-- Element words are written, those of one sector together. -/
def State.flushElems (s : State) (x : Sheet) (c : Context) (w : Elems) : State :=
  let det := s.det x.team.grid
  ((w.map fun p => p.1 / 4).dedup).foldl (fun s k =>
    let l := w.filter fun p => decide (p.1 / 4 = k)
    let bs := l.flatMap fun p => match s.sheetAccess c (x.unit p.1) .write (x.elemVa p.1) 8 p.1 with
      | .ok pa => (leBytes p.2.1.toNat 8).zipIdx.map fun b => (pa + b.2, b.1)
      | .error _ => []
    s.homeScatter (if det then .det (l.any fun p => p.2.2) else .outside) bs) s

/-- The lines that some accesses of a unit move at HBM, with their walks (R424, R428). -/
def State.unitLines (s : State) (unit : Nat) (c : Context) (need : Need) (l : List Word64) : List Nat :=
  (l.flatMap fun va => match s.access unit c need va with
    | .ok pa => (s.pathLines unit c va pa).map fun a => 64 * (a / 64)
    | _ => []).dedup
/-- The lines of the element array that hold some elements. -/
def State.elemLines (s : State) (x : Sheet) (c : Context) (l : List Nat) : List Nat :=
  (l.flatMap fun i => s.unitLines (x.unit i) c .read [x.elemVa i]).dedup
/-- The lines that written element words move. -/
def State.wordLines (s : State) (x : Sheet) (c : Context) (w : Elems) : List Nat := s.elemLines x c (w.map (·.1))
/-- The budgets of the stacks have room for some lines of a sheet's engine (R428). -/
def State.sheetOpen (s : State) (x : Sheet) (l : List Nat) : Bool := s.linesOpen x.asid (s.classOf x.team.grid) l
def State.chargeSheet (s : State) (x : Sheet) (l : List Nat) : State := s.chargeLines x.asid (s.classOf x.team.grid) l

/-- Every sector of the element array that can be written is tainted (R401). -/
def State.taintElems (s : State) (x : Sheet) (c : Context) : State :=
  (List.range (shCount x.record)).foldl (fun s i => match s.sheetAccess c (x.unit i) .write (x.elemVa i) 8 i with
    | .ok pa => s.taintAt (.mem pa) 8
    | .error _ => s) s
/-- An element on a page that is still to be zeroed. -/
def State.zeroElem (s : State) (x : Sheet) (c : Context) : Option Word64 :=
  (List.range (shCount x.record)).findSome? fun i => match s.sheetAccess c (x.unit i) .write (x.elemVa i) 8 i with
    | .error (.zero va) => some va
    | _ => none

/-- The words of a run that it has changed, for its digest (R407): the word each element first held and the last it took, with its taint. -/
def noteChanged (io : SheetIo) (ch : Table (Word64 × Word64 × Bool)) (w : Elems) : Table (Word64 × Word64 × Bool) :=
  w.foldl (fun ch p =>
    let old := match ch.find? fun q => q.1 == p.1 with
      | some q => q.2.1
      | none => match io.read p.1 with
        | .ok y => y.1
        | .error _ => 0
    Table.put ch p.1 (old, p.2.1, p.2.2)) ch

/-! ### The end of a run (R136, R147, R152, R490) -/

/-- What an act of the engine comes to: done, or it waits for a page or the budget of a stack, or stops for REPLAY (R422, R426, R428). -/
inductive SwOut where
  | next (s : State)
  | zero (va : Word64)
  | replay (va : Word64)
  | held

/-- The fault of a run: FELEM, FCAUSE, FWORD. -/
abbrev SwFault := Nat × Nat × Nat

/-- The map as it stands in memory: a byte for eight segments. -/
def deckleByte (t : Table Bool) (b : Nat) : Byte :=
  BitVec.ofNat 8 ((List.range 8).foldl (fun n i => if Table.get false t (8 * b + i) then n + 2 ^ i else n) 0)

/-- The addresses of the map. -/
def deckleVas (x : Sheet) : List Word64 := (List.range ((shSegs x.record + 7) / 8)).map fun b => shDeckle x.record + BitVec.ofNat 64 b
/-- An error of the engine that is no failure: a page to wait for, or a stop. -/
def SwErr.waits : SwErr → Bool
  | .fault .. => false
  | _ => true
/-- The deckle map is written back whole, but for the bytes whose write fails: the state, and the first failure with its FELEM (R490). Where a
byte has to wait, nothing is written yet. -/
def State.writeDeckle (s : State) (x : Sheet) (c : Context) : State × Option SwErr :=
  let ats := (deckleVas x).zipIdx.map fun v => (v.2, s.sheetAccess c (dieUnit (dieOf x.core)) .write v.1 1 (512 * v.2))
  let errs := ats.filterMap fun a => match a.2 with
    | .error e => some e
    | .ok _ => none
  match errs.find? SwErr.waits with
  | some e => (s, some e)
  | none =>
    (ats.foldl (fun s a => match a.2 with
      | .ok pa => s.homeWrite (if s.det x.team.grid then .det false else .outside) pa [deckleByte x.deckle a.1]
      | .error _ => s) s, errs.head?)

/-- The slab of a fault (R147). -/
def swSlab (x : Sheet) (f : SwFault) : Nat := if f.2.1 = 0 ∨ f.1 = 0 then 0 else slabOf x.record f.1
/-- The 32 bytes of a completion record (R147). A count of 2³² runnable elements, which only a sheet of 2³² can reach, does not fit its
field and is recorded modulo 2³²: the spec does not say. DESIGN CHOICE (log 69). -/
def swRecord (x : Sheet) (r : SwRun) (status runnable : Nat) (f : SwFault) (slab : Nat) : List Byte :=
  leBytes (status + r.sweeps * 2 ^ 32 + x.sweepNo.toNat * 2 ^ 64 + runnable % 2 ^ 32 * 2 ^ 96 + (r.flags &&& 0x1F#6).toNat * 2 ^ 128 +
    slab * 2 ^ 208 + f.2.2 * 2 ^ 212 + f.2.1 * 2 ^ 216 + f.1 * 2 ^ 224) 32

/-- A record is written at its address; where that fails the context takes a fault record instead (R490). -/
def State.writeSwRecord (s : State) (x : Sheet) (c : Context) (at_ : Word64) (bs : List Byte) : State :=
  if at_ = 0 then s
  else
    match s.access (dieUnit (dieOf x.core)) c .write at_ with
    | .ok pa => s.homeWrite (if s.det x.team.grid then .det false else .outside) pa bs
    | _ => s.record x.asid { kind := 1, final := 36, grid := BitVec.ofNat 32 x.team.grid, addr := at_ }

/-- What a run changed (R407). -/
def SwRun.changes (r : SwRun) : Table (Word64 × Word64 × Bool) := r.changed.filter fun p => p.2.1 != p.2.2.1
/-- The command digest of a run (R407). -/
def swDigest (x : Sheet) (r : SwRun) (status : Nat) : Word64 :=
  if status ≤ 2 then r.changes.foldl (fun d p => crcWords d (digestEntry (x.elemVa p.1) 8 false p.2.2.1.toNat)) 0
  else crcWords 0 [shElem x.record, if status = 3 then 3 else 2]
/-- Its taint: that of the entries it folds, and that of its word where it folds one; a FAULT takes that of all the run wrote, a cancellation is
timing (R401, R409). -/
def swDigestTaint (r : SwRun) (status : Nat) : Bool :=
  if status ≤ 2 then r.changes.any fun p => r.t || p.2.2.2 else r.t || r.wroteT || decide (status = 4)

/-- Elements in RUN or SLEEP as memory holds them. -/
def State.countNow (s : State) (x : Sheet) (c : Context) : Nat :=
  let io := s.sheetIo x c
  countRunnable ((List.range (shCount x.record)).filterMap fun i => ((io.read i).toOption).map fun w => cWait (ctxOf w.1))

/-- The end of a run waits for pages of its record and its counter that are still to be zeroed, for those that a cancelled run is to taint, and
for the budgets of the stacks, and stops where the record does not translate in a REPLAY context (R422, R426, R428); `lines` are those
that it moves besides. -/
def State.swEndWaits (s : State) (x : Sheet) (r : SwRun) (c : Context) (status : Nat) (lines : List Nat) : Option SwOut :=
  let u := dieUnit (dieOf x.core)
  let at_ : Option SwOut := if r.recAt = 0 then none else
    match s.access u c .write r.recAt with
    | .zero => some (.zero r.recAt)
    | .fault k => if c.replayMode && decide (k = 4) then some (.replay r.recAt) else none
    | _ => none
  let ctr : Option SwOut := if r.ctr = 0 then none else (s.awaitsZero u c .both r.ctr 8).map .zero
  let taints : Option SwOut := if s.det x.team.grid && decide (status = 4) then (s.zeroElem x c).map .zero else none
  let own := (if r.recAt = 0 then [] else s.unitLines u c .write [r.recAt]) ++ if r.ctr = 0 then [] else s.unitLines u c .both [r.ctr]
  at_.or (ctr.or (taints.or (if s.sheetOpen x (lines ++ own) then none else some .held)))

/-- A run of a sheet has ended with a STATUS of R147: the record, the digest, the counter and the future, in that order. A cancelled run of a
deterministic grid taints what it could have written (R401). -/
def State.swEnd (s : State) (x : Sheet) (r : SwRun) (c : Context) (status : Nat) (f : SwFault) (slab : Nat) : State :=
  let det := s.det x.team.grid
  let lines := if r.recAt = 0 then [] else s.unitLines (dieUnit (dieOf x.core)) c .write [r.recAt]
  let s := (s.chargeSheet x lines).writeSwRecord x c r.recAt (swRecord x r status (s.countNow x c) f slab)
  let s := if det && decide (status = 4) then s.taintElems x c else s
  let s := if det then s.giveDigest r.g r.serial (swDigest x r status) (swDigestTaint r status) else s
  let s := s.bumpCounter x.asid (dieUnit (dieOf x.core)) r.g.grid r.ctr
  s.completeFuture r.g r.slot r.gen
    (statusWord (if status ≤ 2 then 1 else if status = 3 then 3 else 2) 6 r.flags (if status = 3 then f.2.1 else 0)
      (if status = 3 then f.1 else 0))

/-- A run of a bound sheet ends: the map is written back, and its completion follows (R136, R152, R490). -/
def State.swFinish (s : State) (x : Sheet) (r : SwRun) (c : Context) (status : Nat) (f : SwFault) : SwOut :=
  let m := s.writeDeckle x c
  let lines := s.unitLines (dieUnit (dieOf x.core)) c .write (deckleVas x)
  let fin (status : Nat) (f : SwFault) (slab : Nat) : SwOut :=
    let x := { x with runs := x.runs.filter fun y => decide (y.serial ≠ r.serial) }
    .next ((((m.1.chargeSheet x lines).setSheet x).swEnd x r c status f slab).reapSheet x)
  match s.swEndWaits x r c status lines with
  | some o => o
  | none =>
    match m.2 with
    | none => fin status f (swSlab x f)
    | some (.zero va) => .zero va
    | some (.replay va) => .replay va
    | some (.fault _ i _) => if status = 3 then fin status f (swSlab x f) else fin 3 (i, 3, 0) 0

/-- What a wait or a stop of the engine leaves (R422, R426). -/
def SwOut.settle (o : SwOut) (s : State) (x : Sheet) (r : SwRun) (c : Context) : State :=
  match o with
  | .next s => s
  | .held => s.bump
  | .zero va => s.startZero c va
  | .replay va =>
    (s.replayRecord x.asid x.team.grid va).setSheet
      { x with runs := x.runs.map fun y => if y.serial = r.serial then { y with stop := some c.replays } else y }

/-- A run that has not started is cancelled at once, SWEEPS 0 (R152); where it must wait, it is marked. -/
def State.cancelUnstarted (s : State) (x : Sheet) (r : SwRun) : State :=
  match s.ctx? x.asid with
  | none => s
  | some c =>
    let r := { r with cancel := true }
    let x := { x with runs := x.runs.map fun y => if y.serial = r.serial then r else y }
    (s.swFinish x r c 4 (0, 0, 0)).settle (s.setSheet x) x r c

/-- FCANCEL of a run (R152). -/
def State.cancelSwRun (s : State) (x : Sheet) (r : SwRun) : State :=
  if r.started then
    s.setSheet { x with runs := x.runs.map fun y => if y.serial = r.serial then { y with cancel := true, stop := none } else y }
  else s.cancelUnstarted x r

/-- Every run of a sheet is cancelled, in acceptance order. -/
def State.cancelSwRuns (s : State) (x : Sheet) : State :=
  x.runs.foldl (fun s r => match s.sheetAt? x.core x.slot with
    | some x => s.cancelSwRun x r
    | none => s) s

/-- swbind.rel accepted, or the exit of the team (R150): no new work, the runs cancelled, pending writes discarded. -/
def State.releaseSheet (s : State) (x : Sheet) (cancel : Bool) : State :=
  let x := { x with releasing := true, pendW := if cancel then [] else x.pendW }
  let s := s.setSheet x
  (if cancel then s.cancelSwRuns x else s).reapSheet x

/-- Pre-emption of a team (R453): a running SWRUN ends at its next boundary; one not started ends there too, or at once where none is
in progress. -/
def State.preemptSheet (s : State) (x : Sheet) : State :=
  if x.runs.any (·.started) then s.setSheet { x with runs := x.runs.map fun y => { y with cancel := true, stop := none } }
  else s.cancelSwRuns x

/-! ### Binding (R128, R129, R150) -/

/-- The core list of a record: the cores, BAD_RECORD, or a page that is zeroing. -/
def State.coreList (s : State) (c : Context) (core : Nat) (r : SheetRec) : Except SwErr (List Nat) :=
  if shSlabs r = 1 then .ok [core]
  else
    let rd (k : Nat) : Except SwErr Nat :=
      let va := shPlist r + BitVec.ofNat 64 (2 * k)
      match s.access (dieUnit (dieOf core)) c .read va with
      | .ok pa => if s.poisoned pa 2 then .error (.fault 1 0 0) else .ok (s.home.nat pa 2)
      | .zero => .error (.zero va)
      | _ => .error (.fault 1 0 0)
    ((List.range (shSlabs r)).mapM rd).bind fun l =>
    if l.all (fun k => decide (k < numCores)) && l.dedup.length == l.length then .ok l else .error (.fault 1 0 0)

/-- The lowest free bind slot of a core. -/
def State.freeBind (s : State) (core : Nat) : Option Nat :=
  let used := s.sheets.flatMap fun x => (x.cores.filter fun p => p.1 == core).map (·.2)
  (List.range 4).find? fun k => !used.contains k

/-- How SWBIND ends: the machine and the handle, or a wait for a page or for the budget of a stack. -/
inductive BindOut where
  | done (s : State) (h : Word64)
  | zero (va : Word64)
  | held

/-- The lines that the core list of a record moves at HBM. -/
def State.coreLines (s : State) (c : Context) (core : Nat) (r : SheetRec) : List Nat :=
  if shSlabs r = 1 then [] else
  s.unitLines (dieUnit (dieOf core)) c .read ((List.range (shSlabs r)).map fun k => shPlist r + BitVec.ofNat 64 (2 * k))

/-- SWBIND (R150). The lines of the core list and of the elements that it reads count at HBM (R428). -/
def State.bindSheet (s : State) (c : Context) (team : TRef) (core : Nat) (r : SheetRec) : BindOut :=
  let cls := s.classOf team.grid
  let list := s.coreLines c core r
  if !shValid r then .done s (badSheetHandle 1)
  else if !s.linesOpen c.asid cls list then .held
  else
    match s.coreList c core r with
    | .error (.zero va) => .zero va
    | .error _ => .done (s.chargeLines c.asid cls list) (badSheetHandle 1)
    | .ok l =>
      match l.mapM fun k => (s.freeBind k).map fun n => (k, n) with
      | none => .done (s.chargeLines c.asid cls list) (badSheetHandle 2)
      | some cs =>
        let x : Sheet := { core := (cs.headD (core, 0)).1, slot := (cs.headD (core, 0)).2, cores := cs,
                           serial := BitVec.ofNat 32 s.serials, team := team, asid := c.asid, record := r }
        let lines := list ++ s.elemLines x c (List.range (shCount r))
        if !s.linesOpen c.asid cls lines then .held else
        match allWaits (s.sheetIo x c) r [] with
        | .error (.zero va) => .zero va
        | .error _ => .done (s.chargeLines c.asid cls lines) (badSheetHandle 3)
        | .ok ws =>
          let x := { x with deckle := deckleOf ws, runnable := countRunnable ws }
          let s := s.chargeLines c.asid cls lines
          .done { s with serials := s.serials + 1, sheets := s.sheets ++ [x] } x.handle

/-! ### Pokes (R143, R153) -/

/-- A poke, not a wake or a trigger. -/
def Poke.writes (p : Poke) : Bool :=
  match p.kind with
  | .val _ | .ctx _ => true
  | _ => false
/-- The digest of a batch of pokes takes its turn: it folds every element that the batch leaves written (R407). -/
def State.pokeDigest (s : State) (g : GRef) (x : Sheet) (w : Elems) : State :=
  match s.group? g with
  | none => s
  | some y =>
    let d := w.foldl (fun d p => crcWords d (digestEntry (x.elemVa p.1) 8 false p.2.1.toNat)) 0
    let s' := s.setGroup { y with digests := y.digests ++ [{ serial := s.serials, value := none }] }
    { s' with serials := s.serials + 1 }.giveDigest g s.serials d (w.any fun p => p.2.2)

/-- Entries accepted for a sheet: queued while it runs, up to 4,096; else applied as one batch, whose digest takes its turn where it is one
of SWPOKE (R407). The flag says that they are accepted; else they do not fit yet, or a page is zeroing. A batch on a stopped sheet is
applied ahead of entries that a faulted run left in the queue: the spec gives no order between them. Entries whose sheet has gone between
their word and its boundary are dropped: the spec does not say. DESIGN CHOICE (R143, R153; log 69). -/
def State.acceptPokes (s : State) (g : GRef) (core slot serial : Nat) (l : List Poke) : State × Bool :=
  match s.bound? core slot serial with
  | none => (s, true)
  | some x =>
    if l.isEmpty then (s, true)
    else if !x.runs.isEmpty then
      if x.queue.length + l.length ≤ 4096 then (s.setSheet { x with queue := x.queue ++ l }, true) else (s, false)
    else
      match s.ctx? x.asid with
      | none => (s, true)
      | some c =>
        let o := applyBatch (s.sheetIo x c) x.record x.pendW l
        match o.fail with
        | some (.zero va) => (s.startZero c va, false)
        | _ =>
          let lines := s.elemLines x c ((l ++ x.pendW).map (·.elem)) ++ s.wordLines x c o.w
          if !s.sheetOpen x lines then (s.bump, false) else
          let s' := (s.chargeSheet x lines).flushElems x c o.w
          let x := { x with sweepNo := x.sweepNo + 1, pendW := o.left, deckle := deckleSet x.deckle o.w }
          let s' := s'.setSheet { x with runnable := s'.countNow x c }
          (if s.det x.team.grid && l.any Poke.writes then s'.pokeDigest g x o.w else s', true)

/-! ### Runs (R141, R144) -/

/-- The lines that the step table and the code of its used entries move at HBM. -/
def State.codeLines (s : State) (x : Sheet) (c : Context) (tab : List Word64) : List Nat :=
  let u := dieUnit (dieOf x.core)
  (s.unitLines u c .read ((List.range 64).map fun k => shStept x.record + BitVec.ofNat 64 (8 * k)) ++
    s.unitLines u c .exec (tab.flatMap fun ent => if !entryOk ent then [] else
      (List.range (entryLen ent)).map fun j => bits64 ent 0 57 + BitVec.ofNat 64 (8 * j))).dedup
/-- The step table and the code of its used entries (R131, R144). -/
def State.stepCode (s : State) (x : Sheet) (c : Context) : Except SwErr (List Word64 × List (List Word64)) :=
  let u := dieUnit (dieOf x.core)
  let rd (need : Need) (va : Word64) : Except SwErr Word64 :=
    (s.sheetAccess c u need va 8 0).map fun pa => BitVec.ofNat 64 (s.home.nat pa 8)
  ((List.range 64).mapM fun k => rd .read (shStept x.record + BitVec.ofNat 64 (8 * k))).bind fun tab =>
  (tab.mapM fun ent =>
    if !entryOk ent then .ok []
    else (List.range (entryLen ent)).mapM fun j => rd .exec (bits64 ent 0 57 + BitVec.ofNat 64 (8 * j))).map fun code => (tab, code)

/-- Runs at the head that were cancelled before they started end (R152, R453). -/
def State.endCancelled (core slot : Nat) : Nat → State → State
  | 0, s => s
  | n + 1, s =>
    match s.sheetAt? core slot with
    | none => s
    | some x =>
      match x.runs with
      | [] => s
      | r :: _ =>
        if r.started || !r.cancel then s
        else
          let s' := s.cancelUnstarted x r
          match s'.sheetAt? core slot with
          | none => s'
          | some y => if y.runs.length < x.runs.length then endCancelled core slot n s' else s'

/-- The run at the head ends; those behind it that were cancelled before they started end with it. -/
def State.swStop (s : State) (x : Sheet) (r : SwRun) (c : Context) (status : Nat) (f : SwFault) : SwOut :=
  match (s.setSheet x).swFinish x r c status f with
  | .next s => .next (s.endCancelled x.core x.slot x.runs.length)
  | o => o

/-- Queued entries applied (R141 step 3): the sheet, the words, the first failure. The entry that fails, the near triggers that it has still to
send, and the entries behind it stay queued and count in SWSTAT.queue: the spec keeps the queue only where the step table or the code
cannot be read, and is silent here. DESIGN CHOICE (R490; log 69). -/
def Sheet.drainQueue (x : Sheet) (io : SheetIo) (w : Elems) : Sheet × Elems × Option SwErr :=
  let p := applyEntries io x.record w (x.pendW)
  if p.fail.isSome then ({ x with pendW := p.left }, p.w, p.fail)
  else
    let q := applyEntries io x.record p.w (sortPokes x.queue)
    ({ x with pendW := [], queue := q.left }, q.w, q.fail)

/-- A run with its progress put into its sheet. -/
def Sheet.putRun (x : Sheet) (r : SwRun) : Sheet := { x with runs := x.runs.map fun y => if y.serial = r.serial then r else y }

/-- The element words reach memory, and the run notes them; or, where the budget of a stack is spent, the act waits (R428). -/
def State.commitElems (s : State) (x : Sheet) (r : SwRun) (c : Context) (w : Elems) (k : State → SwRun → SwOut) : SwOut :=
  let lines := s.wordLines x c w
  if !s.sheetOpen x lines then .held
  else k ((s.chargeSheet x lines).flushElems x c w)
    { r with changed := noteChanged (s.sheetIo x c) r.changed w, wroteT := r.wroteT || w.any fun p => p.2.2 }

/-- SWRUN_START (R141, R144, R490). The sweep number rises where the queue of entries was not empty; pending writes performed here with an
empty queue do not raise it. DESIGN CHOICE (R137; log 69). -/
def State.startRun (s : State) (x : Sheet) (r : SwRun) (c : Context) : SwOut :=
  let code := s.stepCode x c
  let lines := s.codeLines x c ((code.toOption.map (·.1)).getD [])
  if !s.sheetOpen x lines then .held else
  let s := s.chargeSheet x lines
  match code with
  | .error (.zero va) => .zero va
  | .error (.replay va) => .replay va
  | .error (.fault ..) => s.swStop x r c 3 (0, 3, 0)
  | .ok tc =>
    let io := s.sheetIo x c
    let pend := !x.queue.isEmpty
    let d := x.drainQueue io []
    match d.2.2 with
    | some (.zero va) => .zero va
    | some (.replay va) => .replay va
    | some (.fault k i n) => s.commitElems x r c d.2.1 fun s r =>
      s.swStop ({ d.1.putRun r with deckle := deckleSet x.deckle d.2.1 }) r c 3 (i, k, n)
    | none =>
      match allWaits io x.record d.2.1 with
      | .error (.zero va) => .zero va
      | .error (.replay va) => .replay va
      | .error (.fault k i n) => s.commitElems x r c d.2.1 fun s r =>
        s.swStop ({ d.1.putRun r with deckle := deckleSet x.deckle d.2.1 }) r c 3 (i, k, n)
      | .ok ws => s.commitElems x r c d.2.1 fun s r =>
        let r := { r with started := true, table := tc.1, code := tc.2, stop := none }
        let x := { d.1.putRun r with deckle := deckleOf ws }
        let x := if pend then { x with sweepNo := x.sweepNo + 1, runnable := countRunnable ws } else x
        match waitsStop ws with
        | some st => s.swStop x r c st (0, 0, 0)
        | none => .next (s.setSheet x)

/-- The boundary after a sweep whose slabs all reached it (R141): the effects, the queue, the number, and whether the sheet stops. Two failures
of memory have no row in R490, and are treated as its second: one while step 2 applies the triggers and wakes, where FELEM is the element
they go to and the effects already applied stand (R139); and a context that step 5 cannot read, where the run stops with the number of
step 4 not raised. DESIGN CHOICE (R139, R141; log 69). -/
def State.sweepBoundary (s : State) (x : Sheet) (r : SwRun) (c : Context) (outs : List SlabOut) (w : Elems) : SwOut :=
  let io := s.sheetIo x c
  let stopAt (x : Sheet) (w : Elems) (e : SwErr) : SwOut :=
    match e with
    | .zero va => .zero va
    | .replay va => .replay va
    | .fault k i n => s.commitElems x r c w fun s r =>
      s.swStop ({ x.putRun r with deckle := deckleSet x.deckle w }) r c 3 (i, k, n)
  let b := applyEntries io x.record w (boundaryEffects x.record outs)
  match b.fail with
  | some e => stopAt x b.w e
  | none =>
    let d := x.drainQueue io b.w
    match d.2.2 with
    | some e => stopAt d.1 d.2.1 e
    | none =>
      match allWaits io x.record d.2.1 with
      | .error e => stopAt d.1 d.2.1 e
      | .ok ws => s.commitElems x r c d.2.1 fun s r =>
        let x := { d.1.putRun r with deckle := deckleOf ws, sweepNo := x.sweepNo + 1, runnable := countRunnable ws }
        match waitsStop ws with
        | some st => s.swStop x r c st (0, 0, 0)
        | none =>
          if shLimit x.record ≤ r.sweeps then s.swStop x r c 2 (0, 0, 0)
          else if r.cancel then s.swStop x r c 4 (0, 0, 0)
          else .next (s.setSheet x)

/-- SWEEP (R135, R145, R146). -/
def State.sweepOnce (s : State) (x : Sheet) (r : SwRun) (c : Context) : SwOut :=
  let io := s.sheetIo x c
  let outs : List SlabOut := sweepAll io x.record r.table r.code x.deckle
  let w : Elems := outs.foldl (fun w o => o.w.foldl (fun w p => Table.put w p.1 p.2) w) []
  let r := { r with sweeps := r.sweeps + 1, flags := outs.foldl (fun f (o : SlabOut) => f ||| o.flags) r.flags, stop := none }
  let errs := outs.filterMap (·.fault)
  match errs.find? fun (e : SwErr) => match e with
      | .fault .. => false
      | _ => true with
  | some (.zero va) => .zero va
  | some (.replay va) => .replay va
  | _ =>
    match errs.head? with
    | some (.fault k i n) => s.commitElems x r c w fun s r =>
      s.swStop ({ x.putRun r with deckle := deckleSet x.deckle w }) r c 3 (i, k, n)
    | _ => s.sweepBoundary x r c outs w

/-- The run at the head of a sheet may move (R340, R426, R428). -/
def State.headRun (s : State) (core slot : Nat) : Option (Sheet × SwRun × Context) :=
  (s.sheetAt? core slot).bind fun x =>
  (x.runs.head?).bind fun r =>
  (s.ctx? x.asid).bind fun c => if s.free x.asid r.after r.stop then some (x, r, c) else none

/-- The contexts with admitted work at the sweep queue of a core (R429): the sheets whose first slab it runs. -/
def State.sweepReady (s : State) (core : Nat) : List Nat :=
  (s.sheets.filter fun x => decide (x.core = core) && match s.headRun x.core x.slot with
    | some (_, r, _) => !r.started || s.admitted x.asid (s.classOf x.team.grid) 25
    | none => false).map (·.asid)
/-- A sheet has its turn at the sweep queue of its core. -/
def State.sweepTurn (s : State) (x : Sheet) : Bool := s.turnOf (queueAt x.core 4) x.asid (s.sweepReady x.core)

/-- A step of the engine that reads some elements, charged at the stacks: it waits where their budget is spent (R428). -/
def State.sweepLines (s : State) (x : Sheet) (r : SwRun) (c : Context) (l : List Nat) (f : State → SwOut) : State :=
  let s := s.served (queueAt x.core 4) x.asid
  let cls := s.classOf x.team.grid
  let lines := s.elemLines x c l
  if !s.linesOpen x.asid cls lines then s.bump
  else (f (s.chargeLines x.asid cls lines)).settle s x r c

/-- The first SWRUN accepted at a core and slot whose sheet had gone completes CANCELLED there, with its record, as a run that has not started
(R152, R426, R490). No sheet holds its sweep number any more, and its record gives SWEEPNO 0; RUNNABLE is counted in memory as for any other
run, through the record that the word named: the spec does not say. DESIGN CHOICE (log 33). -/
def State.orphanStep (s : State) (core slot : Nat) : Option State :=
  (s.orphans.find? fun o => decide (o.sheet.core = core) && decide (o.sheet.slot = slot)).bind fun o =>
  (s.ctx? o.sheet.asid).bind fun c =>
    if !s.free o.sheet.asid o.run.after o.run.stop then none
    else
      let set (s : State) (l : List Orphan) : State :=
        { s with orphans := (s.orphans.filter fun y => decide (y.run.serial ≠ o.run.serial)) ++ l }
      some <| match s.swEndWaits o.sheet o.run c 4 [] with
        | none => set (s.swEnd o.sheet o.run c 4 (0, 0, 0) 0) []
        | some (.replay va) => set (s.replayRecord o.sheet.asid o.run.g.grid va) [{ o with run := { o.run with stop := some c.replays } }]
        | some w => w.settle s o.sheet o.run c

def swStartStep (s : State) (core slot : Nat) : Option State :=
  (s.orphanStep core slot).or <|
  (s.headRun core slot).bind fun (x, r, c) =>
    if r.started then none
    else if r.cancel then some (s.endCancelled core slot x.runs.length)
    else if !s.sweepTurn x then none
    else some (s.sweepLines x r c (List.range (shCount x.record)) fun s => s.startRun x r c)
def sweepStep (s : State) (core slot : Nat) : Option State :=
  (s.headRun core slot).bind fun (x, r, c) =>
    let cls := s.classOf x.team.grid
    if !r.started || !s.admitted x.asid cls 25 || !s.sweepTurn x then none
    else
      let l := (List.range (shCount x.record)).filter fun i => Table.get false x.deckle (i / 64)
      some (s.sweepLines x r c l fun s =>
        match s.sweepOnce x r c with
        | .next s => .next (s.chargeStep x.asid cls 25)
        | o => o)
def execSwrunStart (core slot : Nat) (s : State) : Host.Outcome State Fault Refusal := event s (swStartStep s core slot)
def execSweep (core slot : Nat) (s : State) : Host.Outcome State Fault Refusal := event s (sweepStep s core slot)

/-! ### The words (R148 to R154) -/

/-- The sheet of a handle, or the fault SHEET_HANDLE (R151). -/
def withSheet (e : Env) (h : Word64) (f : Sheet → WordOut) : WordOut :=
  match e.sheet? h with
  | none => groupFault e 9 0
  | some x => f x

/-- SWBIND (R150). -/
def execSwbind (o : OpF) (s : State) : Host.Outcome State Fault Refusal :=
  word o.rb s fun e =>
    let a := e.us o.a
    if o.bit 0 then withSheet e a.w fun x => .retire e { effs := [.bindRel x.core x.slot x.serial.toNat] }
    else
      aligned e [(a.w, 64)] <|
      withRecs e 64 none [a.w] fun e l t =>
        let key := e.g.keys
        let t := e.ut (t || a.t)
        .retire { e with g := { e.g with keys := key + 1 } }
          { defer := [.uniform o.d.toNat key .none t], effs := [.bind (BitVec.ofNat 512 ((l[0]?).getD 0)) key t] }

/-- SWRUN (R152). -/
def execSwrun (o : OpF) (s : State) : Host.Outcome State Fault Refusal :=
  word o.rb s fun e =>
    withSheet e (e.us o.a).w fun x =>
      aligned e [((e.us o.b).w, 32), ((e.us o.c).w, 8)] <|
      issueCommand e o.d (.swrun x.core x.slot x.serial.toNat x.record (e.us o.b).w) (e.us o.c).w
        ((e.us o.a).t || (e.us o.b).t || (e.us o.c).t)

/-- The entries of a poking word: one for each lane of E (R153). -/
def pokeWord (o : OpF) (k : Env → Nat → PokeKind × Bool) (s : State) : Host.Outcome State Fault Refusal :=
  word o.rb s fun e =>
    withSheet e (e.us o.a).w fun x =>
      let one (t : Nat) : Poke :=
        let i := e.v32 t o.b
        { issuer := issuerOf e.s e.g.ref t, elem := i.w.toNat, kind := (k e t).1,
          t := e.dt t ((e.us o.a).t || i.t || (k e t).2) }
      .retire e { effs := [.pokes x.core x.slot x.serial.toNat ((e.setE o).map one)] }
def execSwwake (o : OpF) (s : State) : Host.Outcome State Fault Refusal := pokeWord o (fun _ _ => (.wake, false)) s
def execSwpoke (o : OpF) (s : State) : Host.Outcome State Fault Refusal :=
  pokeWord o (fun e t =>
    let v := e.v32 t o.c
    (if o.bit 0 then .ctx v.w else .val v.w, v.t)) s

/-- SWSTAT (R154). It reads the binding at the word, before SWRUN, SWPOKE and SWWAKE words earlier in its own run are accepted at the boundary
and change it: the spec does not say at which moment of the run the value is taken. DESIGN CHOICE (log 89). -/
def execSwstat (o : OpF) (s : State) : Host.Outcome State Fault Refusal :=
  word o.rb s fun e =>
    withSheet e (e.us o.a).w fun x =>
      let v : Word64 := match o.low2 with
        | 0 => BitVec.ofNat 64 x.sweepNo.toNat
        | 1 => if x.runs.isEmpty then 0 else 1
        | 2 => BitVec.ofNat 64 (x.queue.length + x.pendW.length)
        | _ => BitVec.ofNat 64 x.runnable
      let t := (e.us o.a).t || decide (o.low2 = 1) || decide (o.low2 = 2)
      .retire e { defer := [.ready [] [(o.d.toNat, mkS v (e.ut t))]] }

end Sys2Proof.Machine
end

