-- ==== Sys2Proof/Machine/System.lean ====
section
/-!
DEFINITION. System words, opcode group 13: traps, TRET, control registers, KILL, FLAGR, CLOCK, TLBQ (18_traps_and_preemption.md R444 to
R448, R454, R458, R459), and DIGEST (16_determinism.md R409).
-/
namespace Sys2Proof.Machine
open Sys2Proof

/-! ### Traps (R458) -/

/-- The lanes of E trap with the operand in TADDR; the other active lanes go on; an empty E traps none. -/
def trapWord (e : Env) (o : OpF) (cause : Nat) : WordOut :=
  if (e.setE o).isEmpty then .retire e {}
  else .fault e cause (o.m.zeroExtend 64) (lanesMask (e.setE o)) 0 { pcs := some [] }

def execTrap (o : OpF) (s : State) : Host.Outcome State Fault Refusal := word o.rb s fun e => trapWord e o 18
def execBrkpt (o : OpF) (s : State) : Host.Outcome State Fault Refusal :=
  word o.rb s fun e => if e.r.be then trapWord e o 20 else .retire e {}

/-- TRET (R444): its target is checked at the word; the level falls at the end of the round. -/
def execTret (o : OpF) (s : State) : Host.Outcome State Fault Refusal :=
  word o.rb s fun e =>
    if e.g.level = 0 then .fault e 1 0 e.r.active 0 {}
    else
      let pc := resumePc e.ctl (o.bit 0)
      if !targetOk pc then .fault e (targetCause pc) pc e.r.active 0 {}
      else .retire { e with r := { e.r with tret := some pc } } { pcs := some (e.active.map fun t => (t, pc)) }

/-! ### Control registers (R445) -/

/-- CR.PLACE (R118). -/
def crPlace (g : Group) (tm : Team) : Word64 :=
  BitVec.ofNat 64 ((if tm.quad then 2 ^ 33 else 0) + g.part * 2 ^ 30 + g.core * 2 ^ 21 + dieOf g.core * 2 ^ 18 +
    tm.prefSlice * 2 ^ 13 + tm.prefDie * 2 ^ 10)
/-- CR.SAVEAREA (R448). -/
def crSaveArea (c : Context) (slot frame group : Nat) : Word64 :=
  c.save + BitVec.ofNat 64 (2 ^ 32 * slot + 49152 * frame + 1024 * group)
/-- The butterfly save area of a core of a team (R454). -/
def crBfSave (c : Context) (slot frame core : Nat) : Word64 :=
  c.save + BitVec.ofNat 64 (2 ^ 48 + 2 ^ 40 * slot + 2 ^ 24 * frame + 2 ^ 22 * core)
/-- CR.FLAGLANE (R450). -/
def crFlagLane (g : Group) : Word64 := (if g.flagV then 0x80 else 0) + g.flagLane.zeroExtend 64

/-- The bank that a bank field names (R445); none at level 0 with no bank named. -/
def crBank (g : Group) (bank : Nat) : Bank :=
  let n := if bank = 0 then g.level.toNat else bank
  if n = 0 then {} else g.bank n

/-- A control register read (R445). -/
def Env.csr (e : Env) (n bank : Nat) : Word64 :=
  let b := crBank e.ctl bank
  let grid := (e.s.grid? e.g.ref.grid).getD { id := 0, slot := 0, asid := 0, pkt := 0 }
  match n with
  | 0x000 => e.g.level.zeroExtend 64
  | 0x001 => b.tpc
  | 0x002 => b.taddr
  | 0x003 => b.tcause.zeroExtend 64
  | 0x004 => b.tstate.zeroExtend 64
  | 0x005 => b.tlanes.extractLsb' 0 64
  | 0x006 => b.tlanes.extractLsb' 64 64
  | 0x008 => e.g.flagPc
  | 0x009 => crFlagLane e.g
  | 0x010 => crPlace e.g e.team
  | 0x011 => e.ctx.capVa
  | 0x012 => crSaveArea e.ctx grid.slot e.team.frame e.g.ref.group
  | 0x013 => crBfSave e.ctx grid.slot e.team.frame (if e.team.quad then e.g.core % 4 else 0)
  | 0x014 => BitVec.ofNat 64 (grid.id.toNat + grid.slot * 2 ^ 32 + grid.asid * 2 ^ 40)
  | 0x015 => bits64 e.pkt 152 18
  | _ => (if e.ctl.ss then 1 else 0) + (if e.ctl.be then 2 else 0)
/-- A register marked T (R445). -/
def csrTimed (n : Nat) : Bool := n == 0x010 || n == 0x012 || n == 0x013 || n == 0x014

def execCsrr (o : OpF) (s : State) : Host.Outcome State Fault Refusal :=
  word o.rb s fun e =>
    .retire e { sregs := e.putS o.d { w := e.csr (o.field 0 12) (o.field 12 2), t := csrTimed (o.field 0 12) } }

/-- What a write of a control register does (R445): TPC and TADDR of a bank at or below the level, and CR.DEBUG; nothing else. -/
def csrWrite (level : BitVec 2) (n bank : Nat) (v : Word64) : List CtlWrite :=
  let open_ := decide (bank ≠ 0) && decide (bank ≤ level.toNat)
  match n with
  | 0x001 => if open_ then [.tpc bank (v &&& 0x01FFFFFFFFFFFFF8#64)] else []
  | 0x002 => if open_ then [.taddr bank v] else []
  | 0x020 => [.debug (v.getLsbD 0) (v.getLsbD 1)]
  | _ => []
def execCsrw (o : OpF) (s : State) : Host.Outcome State Fault Refusal :=
  word o.rb s fun e => .retire e { ctl := csrWrite e.g.level (o.field 0 12) (o.field 12 2) (e.us o.a).w }

/-! ### The other system words (R458, R459, R409) -/

/-- KILL: the run commits, and the grid is killed at its boundary. -/
def execKill (o : OpF) (s : State) : Host.Outcome State Fault Refusal :=
  word o.rb s fun e => .retire e { effs := [.kill e.pc] }

/-- FLAGR. -/
def execFlagr (o : OpF) (s : State) : Host.Outcome State Fault Refusal :=
  laneFixed o (fun e t =>
    match o.low2 with
    | 0 => e.put32 t o.d { w := (e.th t).flags.zeroExtend 32 }
    | 1 => { e.put32 t o.d { w := (e.th t).flags.zeroExtend 32 } with flags := some 0 }
    | _ => { lane := t, flags := some ((e.v32 t o.a).w.extractLsb' 0 6) }) s

/-- CLOCK. -/
def execClock (o : OpF) (s : State) : Host.Outcome State Fault Refusal :=
  word o.rb s fun e =>
    let n := if o.bit 0 then e.s.dev.ns else e.s.cycle
    .retire e { sregs := e.putS o.d { w := BitVec.ofNat 64 n, t := true } }

/-- The answer of TLBQ (R459). -/
def tlbqWord (pte : Word64) (pa size : Nat) : Word64 :=
  let b (x : Bool) (n : Nat) : Nat := if x then 2 ^ n else 0
  BitVec.ofNat 64 (2 ^ 63 + b (pteImg pte) 62 + b (ptePeer pte) 61 + b (pteZ pte) 60 + pa / 4096 % 2 ^ 40 * 2 ^ 12 + size * 2 ^ 4 +
    (pte &&& 0xE#64).toNat)
def Env.tlbq (e : Env) (va : Word64) : Word64 :=
  match e.s.leafAt e.g.core e.ctx va with
  | .fault => 0
  | .ok pa pte size => tlbqWord pte pa size
  | .zero =>
    match e.s.walk e.ctx va with
    | none => 0
    | some l => tlbqWord l.pte (ptePa l.pte + bits va 0 (pageBits (if l.size = 1 then 0 else l.size))) l.size
/-- TLBQ. Its walk counts at the stacks that serve it, and waits for their budgets (R424, R428). -/
def execTlbq (o : OpF) (s : State) : Host.Outcome State Fault Refusal :=
  word o.rb s fun e =>
    let a := e.us o.a
    let walk := e.s.xlatReads e.g.core e.ctx a.w
    if !e.s.linesOpen e.ctx.asid (pkClass e.pkt) walk then .stall e.s.bump else
    .retire (e.walked walk) { defer := [.ready [] [(o.d.toNat, mkS (e.tlbq a.w) (e.ut a.t))]] }

/-- DIGEST (R409). -/
def execDigest (o : OpF) (s : State) : Host.Outcome State Fault Refusal :=
  word o.rb s fun e =>
    if o.bit 0 then .retire e { sregs := e.putS o.d { w := e.g.engDig, t := e.g.engDigT } }
    else .retire e { lanes := (e.setE o).map fun t => e.put64 t o.d { w := (e.th t).digest, t := (e.th t).digT } }

end Sys2Proof.Machine
end

