-- ==== Sys2Proof/Machine/Deferred.lean ====
section
/-!
DEFINITION. Deferred writes (04_threads_groups_teams.md R83, R84): what each variable-latency word writes at the boundary of its run, and
whether it can be written yet.
-/
namespace Sys2Proof.Machine
open Sys2Proof

/-- What a deferred write does when it is applied: registers, lanes that block instead, and the trap it asks for. -/
structure DOut where
  lanes  : List LaneWrite := []
  sregs  : List (Nat × SCell) := []
  block  : Option (Wait × List Nat) := none
  after  : Option FaultInfo := none
  log    : Option ExprLog := none
  deriving DecidableEq, Repr, Inhabited

/-- A deferred write is applied, waits, or cannot be made yet for a reason that changes the machine (a page that is zeroing, a kill). -/
inductive DRes where
  | ready (d : DOut)
  | wait
  | retry (s : State)

/-- What a deferred write sees. -/
structure DEnv where
  s    : State
  g    : Group
  pkt  : Packet
  team : Team
  ctx  : Context
  det  : Bool

def denv (s : State) (g : Group) : DEnv :=
  let ctx := (s.gridCtx? g.ref.grid).getD { asid := 0, desc := 0 }
  { s := s, g := g, pkt := s.pkt g.ref.grid, team := s.liveTeam g.core ctx ((s.team? g.ref.tref).getD { ref := g.ref.tref }),
    ctx := ctx, det := s.det g.ref.grid }

/-- The answer to a key in a lane. -/
def Group.answer? (g : Group) (key lane : Nat) : Option Answer := g.answers.find? fun a => a.key == key && a.lane == lane
/-- The answers of every lane of a list; none until all are there. -/
def Group.answersOf (g : Group) (key : Nat) (l : List Nat) : Option (List Answer) := l.mapM fun t => g.answer? key t

/-- A V register or a pair (R30). -/
def vwrite (d : Nat) (wide : Bool) (w : Word64) (t : Bool) : List (Nat × VCell) :=
  if wide then [(d, { w := w.extractLsb' 0 32, t := t }), (d + 1, { w := w.extractLsb' 32 32, t := t })]
  else [(d, { w := w.extractLsb' 0 32, t := t })]

/-- The value that a load writes (R349): converted to binary32, or placed under R240; with its flags. -/
def loadForm (ty : Nat) (cv : Bool) (w : Word64) : Word64 × Flags :=
  if cv then
    let r := convert 8 ty 0 w.toNat
    (BitVec.ofNat 64 r.1, r.2)
  else (BitVec.ofNat 64 (regForm ty w.toNat), 0)
/-- The value that LDU writes: extended to 64 bits. -/
def loaduForm (ty : Nat) (cv : Bool) (w : Word64) : Word64 × Flags :=
  if cv then loadForm ty cv w
  else if isIntTy ty && signedTy ty then (BitVec.ofInt 64 (intOf ty w.toNat), 0)
  else loadForm ty cv w

/-- An undecided outcome under a policy (R264): what the word pushes or writes, and whether UD is set. -/
def undecidedUD (pol : Nat) : Flags := if pol = 0 then 0 else 0x20

/-- The after-run trap of a .trap word that left lanes undecided (R265). -/
def undecidedTrap (d : Deferred) (pol : Nat) (l : List Answer) : Option FaultInfo :=
  let bad := (l.filter fun a => decide (16 ≤ a.code)).map (·.lane)
  if pol ≠ 0 ∨ bad.isEmpty then none
  else some { cause := 17, pc := d.pc, addr := 0, lanes := lanesMask bad, pos := d.pos, stream := decide (d.b = .b), after := true }

/-- XCMP in a lane (R264, R271). -/
def xcmpLane (cond pol : Nat) (rep det : Bool) (a : Answer) : LaneWrite :=
  let bad := decide (16 ≤ a.code)
  let b := if bad then pol == 2 else condSign cond (a.w.extractLsb' 0 32).toInt
  { lane := a.lane, preds := [if rep then .rep b else .push b], raise := if bad then undecidedUD pol else 0,
    ct := det && a.t, dcode := some (BitVec.ofNat 6 a.code) }
/-- XSGN in a lane. -/
def xsgnLane (d pol : Nat) (a : Answer) : LaneWrite :=
  let bad := decide (16 ≤ a.code)
  let w : Word32 := if bad then (if pol = 2 then 2 else 0) else a.w.extractLsb' 0 32
  { lane := a.lane, v := [(d, { w := w, t := a.t })], raise := if bad then undecidedUD pol else 0,
    dcode := some (BitVec.ofNat 6 a.code) }

/-- A write that changes the log waits while a run of the team may still be taken back, log and all (R256, R440), and reaches its spill nodes
first (R251). -/
def DEnv.withLog (e : DEnv) (l : ExprLog) (d : DOut) : DRes :=
  match if l != e.team.log then e.s.logWaits e.team.ref none else none with
  | some s => .retry s
  | none =>
    match reachSpill e.s e.g e.ctx e.team (changedNodes e.team.log l) [] with
    | .dead s => .retry s
    | .wait s => .retry s
    | _ => .ready { d with log := some l }

/-- A wait at its word's boundary (R185, R391): the push, or the block. -/
def waitOut (e : DEnv) (w : Wait) (lanes : List (Nat × Bool)) : DOut :=
  let push (b : Bool) : DOut := { lanes := lanes.map fun x => { lane := x.1, preds := [.push b], ct := x.2 } }
  match w with
  | .cnt addr thr _ =>
    match e.s.readCounter e.g.core e.ctx addr with
    | .val v => if cntDone v thr then push (!v.getLsbD 63) else { block := some (w, lanes.map (·.1)) }
    | _ => { block := some (w, lanes.map (·.1)) }
  | .fut h =>
    let st := (e.s.futureStatus e.g.ref.tref (pkGroups e.pkt) h).getD 6
    if bits st 0 3 = 0 then { block := some (w, lanes.map (·.1)), lanes := lanes.map fun x => { lane := x.1, ct := x.2 } }
    else push (decide (bits st 0 3 = 1))
  | w => { block := some (w, lanes.map (·.1)) }

/-- What a deferred write comes to now. -/
def deferredOut (e : DEnv) (d : Deferred) : DRes :=
  let scr := pkLogScr e.pkt
  match d.form with
  | .ready l s => .ready { lanes := l, sregs := s }
  | .load r ty cv l =>
    .ready { lanes := l.map fun x =>
      let f := loadForm ty cv x.w
      { lane := x.lane, v := vwrite r (!cv && tyBits ty == 64) f.1 (e.det && (x.t || x.ct)), raise := f.2 } }
  | .loadu r ty cv l act =>
    let f := loaduForm ty cv l.w
    .ready { sregs := [(r, mkS f.1 (e.det && (l.t || l.ct)))], lanes := act.map fun t => { lane := t, raise := f.2 } }
  | .xload r lh nodes l =>
    let outs := l.map fun x => (x.lane, xldOut lh x.w (e.det && (x.t || x.ct)))
    let (lg, placed) := xldWrite scr e.g r outs nodes e.team.log
    e.withLog lg { lanes := placed.map fun x => { lane := x.1, x := [(r, x.2.1)] } }
  | .xdiv r placed =>
    e.withLog (xdivWrite scr e.g r placed e.team.log) { lanes := placed.map fun x => { lane := x.1, x := [(r, x.2.1)] } }
  | .atom r ty key lanes =>
    match e.g.answersOf key (lanes.map (·.1)) with
    | none => .wait
    | some as => .ready { lanes := (lanes.zip as).map fun (x, a) =>
        { lane := x.1, v := vwrite r (tyBits ty == 64) (BitVec.ofNat 64 (regForm ty a.w.toNat)) (e.det && (a.t || x.2)), raise := a.raise } }
  | .atomu r ty key lane t act =>
    match e.g.answer? key lane with
    | none => .wait
    | some a => .ready { sregs := [(r, mkS (loaduForm ty false a.w).1 (e.det && (a.t || t)))]
                         lanes := act.map fun t => { lane := t, raise := a.raise } }
  | .xcmp cond pol rep key lanes =>
    match e.g.answersOf key lanes with
    | none => .wait
    | some as => .ready { lanes := as.map (xcmpLane cond pol rep e.det), after := undecidedTrap d pol as }
  | .xsgn r pol key lanes =>
    match e.g.answersOf key lanes with
    | none => .wait
    | some as => .ready { lanes := as.map (xsgnLane r pol), after := undecidedTrap d pol as }
  | .xref r key lanes =>
    match e.g.answersOf key ((lanes.filter fun x => !x.2.isPoint).map (·.1)) with
    | none => .wait
    | some _ =>
      let cells := lanes.map fun x => (x.1, xrefCell x.2 (if x.2.isPoint then none else e.g.answer? key x.1))
      e.withLog (xrefWrite scr e.g r cells e.team.log) { lanes := cells.map fun x => { lane := x.1, x := [(r, x.2)] } }
  | .uniform r key tag t =>
    match e.g.answer? key 0 with
    | none => .wait
    | some a => .ready { sregs := [(r, mkS a.w (e.det && (t || a.t)) tag)] }
  | .push key lanes ct =>
    match e.g.answer? key 0 with
    | none => .wait
    | some a => .ready { lanes := lanes.map fun t => { lane := t, preds := [.push (a.w != 0)], ct := ct } }
  | .drainV r fd key lanes t =>
    match e.g.answersOf key lanes with
    | none => .wait
    | some as =>
      let fl := as.foldl (fun f a => f ||| a.raise) 0
      .ready { lanes := as.map fun a => { lane := a.lane, v := vwrite r true a.w (e.det && (a.t || t)) }
               sregs := [(fd, mkS (fl.zeroExtend 64) (e.det && (t || as.any (·.t))))] }
  | .fstat r h t =>
    let st := (e.s.futureStatus e.g.ref.tref (pkGroups e.pkt) h).getD 6
    .ready { sregs := [(r, { w := st, t := if t ≠ 0 ∨ (e.det ∧ bits st 0 3 = 0) then 3 else 0 })] }
  | .wait w lanes => .ready (waitOut e w lanes)

/-- The S registers that run B of the round has written, over which a write of run A does not prevail (R89); those of a run B that has still
to commit follow it. -/
def prevailing (g : Group) (b : Stream) : List Nat :=
  match b, g.round with
  | .a, some rd => (rd.b.map fun r => if r.committed then r.written else []).getD []
  | _, _ => []

/-- A deferred write is applied to its group (R83). A push whose lane waits at an earlier word of the run is made behind that wait, and a wait
takes its place among those of the run: they end one by one, each with its push, in program order (R157, R185). -/
def DOut.apply (o : DOut) (e : DEnv) (d : Deferred) : State :=
  let later := prevailing e.g d.b
  let g := e.g.applyAllAt d.pos o.lanes
  let g := { g with
    s := (o.sregs.filter fun p => !later.contains p.1).foldl (fun s p => Table.set {} s p.1 p.2) g.s
    raised := g.raised ++ raisedBy (pkTrapEn e.pkt) g.level d.b d.pos d.pc o.lanes
    afters := g.afters ++ o.after.toList }
  let g := match o.block with
    | none => g
    | some (w, l) => { g with lanes := l.foldl (fun ls t => ls.modify t (Thread.addWait d.pos w)) g.lanes }
  let s := e.s.setGroup g
  match o.log with
  | none => s
  | some l => s.setLog e.g.core e.ctx e.team l

end Sys2Proof.Machine
end

