-- ==== Sys2Proof/Machine/Round.lean ====
section
/-!
DEFINITION. The end of a round: flag record, checks, traps, ages (04 R86 to R90, 07 R162, 18 R441 to R450, R457); ordered counters and
barriers (07 R178 to R184); the exit of groups, teams and grids (04 R98, 05 R109, 16 R408 to R411).
-/
namespace Sys2Proof.Machine
open Sys2Proof

/-! ### Ordered counters (R183, R184) -/

/-- A counter passes the teams that have exited. -/
def passTurns (exited : List Nat) : Nat → Nat → Nat
  | 0, c => c
  | n + 1, c => if exited.contains c then passTurns exited n (c + 1) else c
def Grid.advanceAll (g : Grid) : Grid :=
  { g with counters := g.counters.map fun c => BitVec.ofNat 64 (passTurns g.exited g.exited.length c.toNat) }
def Grid.counter (g : Grid) (k : Nat) : Nat := ((g.counters[k]?).getD 0).toNat

/-- A wait for a counter that has reached the team of a group. -/
def ordMet (g : Grid) (x : Group) : Wait → Bool
  | .ordw k => decide (x.ref.team ≤ g.counter k)
  | _ => false
/-- A thread has such a wait. -/
def ordDue (g : Grid) (x : Group) (t : Thread) : Bool := t.waits.any fun w => ordMet g x w.2
/-- Threads whose turn has come are released, and their cores renewed (R183). -/
def State.releaseOrdw (s : State) (grid : Nat) : State :=
  match s.grid? grid with
  | none => s
  | some g =>
    let hit := (s.gridGroups grid).filter fun x => x.lanes.any (ordDue g x)
    let s := { s with groups := s.groups.map fun x =>
      if x.ref.grid = grid then { x with lanes := x.lanes.map (Thread.endWaits (ordMet g x) none) } else x }
    hit.foldl (fun s x => s.renew x.core) s

/-- ORDD at its boundary (R183). -/
def State.ordd (s : State) (g : Group) (k : Nat) : State :=
  let s := s.post g.core
  match s.grid? g.ref.grid with
  | none => s
  | some x =>
    if x.counter k ≠ g.ref.team then s
    else
      let x := { x with counters := x.counters.set k (BitVec.ofNat 64 (g.ref.team + 1)) }
      (s.setGrid x.advanceAll).releaseOrdw g.ref.grid

/-! ### The flag record (R450) -/

/-- The place of a word in the group's issue order: round, run, position. -/
def flagKey (begun : Nat) (b : Stream) (pos : Nat) : Nat := 64 * begun + (if b = .b then 32 else 0) + pos
/-- Of some words that raised an enabled flag, the first is recorded. -/
def Group.noteRaised (g : Group) (begun : Nat) (some_ : Raised → Bool) : Group :=
  let g' := { g with raised := g.raised.filter fun r => !some_ r }
  match argMin (fun (r : Raised) => flagKey 0 r.b r.pos * 128 + r.lane) (g.raised.filter some_) with
  | none => g'
  | some r =>
    let k := flagKey begun r.b r.pos
    if g.flagV && decide (g.flagAt ≤ k) then g'
    else { g' with flagV := true, flagPc := r.pc, flagLane := BitVec.ofNat 7 r.lane, flagAt := k }
def Group.clearFlagRecord (g : Group) : Group := { g with flagV := false, flagPc := 0, flagLane := 0, flagAt := 0 }

/-! ### Barriers (R178 to R182, R361) -/

/-- A wait at a barrier: that of a BAR, or of a deterministic atomic. -/
def Wait.atBar : Wait → Bool
  | .bar _ _ | .det _ _ => true
  | _ => false
/-- The barrier that a thread waits at: of several in one run, the first in program order (log 82). -/
def Thread.bar? (t : Thread) : Option Wait := (t.waits.map (·.2)).find? Wait.atBar
/-- A thread is blocked at a barrier. -/
def waitsAt (b : Barrier) (t : Thread) : Bool :=
  match t.bar? with
  | some (.bar c _) => c == b
  | some (.det _ _) => b == .grid
  | _ => false
/-- The first wait of a list that a property picks is over. -/
def dropFirst (p : Wait → Bool) : List (Nat × Wait) → List (Nat × Wait)
  | [] => []
  | x :: rest => if p x.2 then rest else x :: dropFirst p rest
/-- A thread passes the barrier that it waits at. -/
def Thread.passBar (t : Thread) : Thread := { t with waits := dropFirst Wait.atBar t.waits }.resume
/-- No round, and nothing of the last one left to do. -/
def Group.idle (g : Group) : Bool := g.round.isNone && g.outbox.isEmpty && g.pend.isEmpty
/-- A group has exited (R98). -/
def Group.gone (g : Group) : Bool := g.idle && g.lanes.all fun t => !t.live
/-- A group has arrived; one that has exited counts as arrived. -/
def Group.arrived (b : Barrier) (g : Group) : Bool := g.idle && g.lanes.all fun t => !t.live || waitsAt b t
def Group.blockedAt (b : Barrier) (g : Group) : Bool := g.lanes.any fun t => t.live && waitsAt b t
def Group.unblock (b : Barrier) (g : Group) : Group :=
  { g with lanes := g.lanes.map fun t => if waitsAt b t then t.passBar else t }

/-- The members of a barrier, and whether all of them have been dispatched (R182). -/
def State.members (s : State) (tm : TRef) : Barrier → List Group × Bool
  | .team => (s.teamGroups tm, true)
  | .role r => ((s.teamGroups tm).filter fun x => decide (x.role = r), true)
  | .grid => (s.gridGroups tm.grid, ((s.grid? tm.grid).map fun g => decide (g.nextTeam = pkTeams g.pkt)).getD false)

/-- The stores of a group, and those published to it, are published to another (R332). -/
def State.publishAll (s : State) (from_ to_ : GRef) : State :=
  { s with stores := s.stores.map fun x =>
      if (x.g == from_ || x.pubs.contains from_) && !x.pubs.contains to_ then { x with pubs := x.pubs ++ [to_] } else x }

/-- The arrival of a group (R181, R182): a post of its core at a grid barrier, of its own stores in a quad team. A member that has exited
counts as arrived, and its exit is its release (DEDUCED; log 36). -/
def State.arriveAt (s : State) (g : Group) : State :=
  let any (b : Barrier) : Bool := g.gone || (g.arrived b && g.blockedAt b)
  let quad := ((s.team? g.ref.tref).map (·.quad)).getD false
  let s := if g.arrived .grid && g.blockedAt .grid then s.post g.core else s
  if quad && ([Barrier.team, .role 0, .role 1, .role 2, .role 3].any any) then s.postGroup g.ref else s

/-- The release of a team or role barrier: a TEAM-scope release and acquire among those that meet there (R181, R332, R334). -/
def State.releaseTeam (s : State) (tm : TRef) (b : Barrier) (members : List Group) : State :=
  let hit := (s.teamGroups tm).filter (Group.blockedAt b)
  let from_ := members ++ hit.filter fun h => !members.any fun m => m.ref == h.ref
  let s : State := from_.foldl (fun (s : State) (m : Group) => hit.foldl (fun (s : State) (h : Group) =>
    if m.core = h.core ∧ m.ref ≠ h.ref then s.publishAll m.ref h.ref else s) s) s
  let s : State := { s with groups := s.groups.map fun (x : Group) => if x.ref.tref = tm then x.unblock b else x }
  if ((s.team? tm).map (·.quad)).getD false then hit.foldl (fun (s : State) (h : Group) => s.renew h.core) s else s

/-- The lanes of a write that execute at level 0: those that are not handler lanes. -/
def Group.levelOf (g : Group) (lane : Nat) : BitVec 2 :=
  if g.level ≠ 0 ∧ (g.bank g.level.toNat).tlanes.getLsbD lane then g.level else 0
/-- The old values of a returning deterministic atomic reach its lanes at the barrier's release (R361). -/
def State.deliverOne (s : State) (gr : GRef) (d : Deferred) : State :=
  match s.group? gr with
  | none => s
  | some g =>
    let e := denv s g
    match deferredOut e d with
    | .ready o =>
      match (o.apply e d).group? gr with
      | none => s
      | some x =>
        let r := raisedBy (pkTrapEn e.pkt) 0 d.b d.pos d.pc (o.lanes.filter fun w => g.levelOf w.lane == 0)
        (o.apply e d).setGroup ({ x with raised := r }.noteRaised d.begun fun _ => true)
    | _ => s
def State.deliverDet (s : State) (g : Group) : State :=
  let s := g.detPend.foldl (fun s d => s.deliverOne g.ref d) s
  match s.group? g.ref with
  | none => s
  | some x => s.setGroup { x with detPend := [], answers := [] }

/-- The release of a grid barrier (R182, R359, R361): batches, answers, then the threads, whose cores are renewed. -/
def State.releaseGrid (s : State) (grid : Nat) : State :=
  let s := s.applyBatches grid
  if ((s.grid? grid).map (·.kill.isSome)).getD true then s
  else
    let hit := (s.gridGroups grid).filter fun x => x.blockedAt .grid || !x.detPend.isEmpty
    let s := hit.foldl State.deliverDet s
    let s := { s with groups := s.groups.map fun x => if x.ref.grid = grid then x.unblock .grid else x }
    hit.foldl (fun s h => s.renew h.core) s

/-- A generation of a barrier completes once every member has arrived (R179); that of a team or role barrier once the stores too that its members
have held at scratchpads are made (R181), that of a grid barrier once the stacks of its batches have budget (R182, R428). -/
def State.barrierDue (s : State) (tm : TRef) (b : Barrier) : Bool :=
  let m := s.members tm b
  let at_ := if b = .grid then s.gridGroups tm.grid else s.teamGroups tm
  m.2 && m.1.all (Group.arrived b) && at_.any (Group.blockedAt b) &&
    (if b = .grid then s.batchesOpen tm.grid else !m.1.any fun g => s.heldBy g.ref)
def State.tryBarrier (s : State) (tm : TRef) (b : Barrier) : State :=
  if !s.barrierDue tm b then s
  else if b = .grid then s.releaseGrid tm.grid else s.releaseTeam tm b (s.members tm b).1
/-- The barrier at which a thread is blocked, with the address of its BAR where it is at one. -/
def barWait (t : Thread) : Option (Barrier × Option Word64) :=
  match t.bar? with
  | some (.bar b pc) => some (b, some pc)
  | some (.det _ _) => some (.grid, none)
  | _ => none

/-- The lanes of a group blocked at more than one barrier, where every live one is (R180). -/
def mismatch (g : Group) : Option (List (Nat × Option Word64)) :=
  let live := (List.range g.lanes.length).filter fun t => (g.lane t).live
  match live.mapM fun t => (barWait (g.lane t)).map fun b => (t, b) with
  | none => none
  | some l =>
    match l with
    | [] => none
    | (_, b) :: _ => if l.all fun x => x.2.1 == b.1 then none else some (l.map fun x => (x.1, x.2.2))

/-- A thread that BAR_MISMATCH returns: its waits at barriers end, and it stands at its first BAR. -/
def Thread.backToBar (pc : Option Word64) (t : Thread) : Thread :=
  { t.endWaits Wait.atBar none with pc := pc.getD t.pc }
/-- BAR_MISMATCH (R180, R489): the lanes return to their BAR words. -/
def State.barMismatch (s : State) (g : Group) : State :=
  match mismatch g with
  | none => s
  | some l =>
    let f : FaultInfo := { cause := 13, pc := (l.findSome? (·.2)).getD 0, addr := 0, lanes := lanesMask (l.map (·.1)), pos := 0 }
    let back (t : Nat) (th : Thread) : Thread :=
      match l.find? fun x => x.1 == t with
      | some (_, pc) => th.backToBar pc
      | none => th
    s.takeTrap (g.mapLanes back) f

def allBarriers : List Barrier := [.team, .role 0, .role 1, .role 2, .role 3, .grid]
/-- The groups that a release sets going. -/
def State.blockedGroups (s : State) (tm : TRef) (b : Barrier) : List GRef :=
  ((if b = .grid then s.gridGroups tm.grid else s.teamGroups tm).filter (Group.blockedAt b)).map (·.ref)
/-- A group that a release has set going may wait at a further BAR of its run: it arrives there, or takes BAR_MISMATCH (R179, R180). -/
def State.nextBar (s : State) (gr : GRef) : State :=
  match s.group? gr with
  | none => s
  | some g =>
    let s := s.barMismatch g
    match s.group? gr with
    | none => s
    | some g => s.arriveAt g
/-- The barriers of some teams that are due are released one by one; each release ends a wait, and the fuel is their number. -/
def State.releaseDue : Nat → List TRef → State → State
  | 0, _, s => s
  | n + 1, teams, s =>
    match (teams.flatMap fun tm => allBarriers.map fun b => (tm, b)).find? fun x => s.barrierDue x.1 x.2 with
    | none => s
    | some (tm, b) =>
      let s := (s.blockedGroups tm b).foldl State.nextBar (s.tryBarrier tm b)
      releaseDue n ((s.gridTeams tm.grid).map (·.ref)) s
/-- The waits at barriers in a grid. -/
def State.barCount (s : State) (grid : Nat) : Nat :=
  (s.gridGroups grid).foldl (fun n g => g.lanes.foldl (fun n t => n + (t.waits.filter fun w => w.2.atBar).length) n) 0
def State.tryBarriers (s : State) (tm : TRef) : State := State.releaseDue (s.barCount tm.grid) [tm] s

/-! ### The exit of a team and the end of a grid -/

/-- The digest of a team (R408). -/
def State.teamDigest (s : State) (t : TRef) (p : Packet) : Word64 :=
  (List.range (pkGroups p)).foldl (fun w k =>
    match s.group? { grid := t.grid, team := t.team, group := k } with
    | none => w
    | some g => crcWords w ((List.range 128).map (fun t => (g.lane t).digest) ++ [g.engDig])) 0
/-- The taint of what a team's digest folds (R409). -/
def State.teamDigestT (s : State) (t : TRef) : Bool :=
  (s.teamGroups t).any fun g => g.engDigT || g.lanes.any (·.digT)

/-- The digest of an exited team is known once every command digest has had its turn (R407, R408). -/
def State.noteDigest (s : State) (tm : TRef) : State :=
  match s.grid? tm.grid, s.team? tm with
  | some g, some t =>
    if pkDet g.pkt && t.exited && !(g.digests.any fun p => p.1 == tm.team) && (s.teamGroups tm).all (·.digests.isEmpty) then
      s.setGrid { g with digests := Table.put g.digests tm.team (s.teamDigest tm g.pkt) }
    else s
  | _, _ => s

/-- The watermark of a grid (R408). -/
def Grid.watermark (g : Grid) : Word64 := g.digests.foldl (fun w p => crcWords w [p.2]) 0

/-- The end of a grid waits for the pages and the stacks of its batches, its watermarks and its counter (R109, R410, R422, R428). -/
def State.endWaits (s : State) (g : Grid) : Option State :=
  let at_ (need : Need) (va : Word64) : Option State :=
    if va = 0 ∨ !pkDet g.pkt then none else (s.ctx? g.asid).bind fun c => s.vaWaits hostUnit c (pkClass g.pkt) need va 8
  (if s.batchesOpen g.id.toNat then none else some s.bump).or <| ((at_ .write (pkWmOut g.pkt)).or (at_ .read (pkWmExp g.pkt))).or (s.counterWaits g.asid hostUnit (pkClass g.pkt) (pkCcnt g.pkt))

/-- WM_OUT is written; false where that fails (R410). -/
def State.writeWatermark (s : State) (c : Context) (g : Grid) : State × Bool :=
  let at_ := pkWmOut g.pkt
  if at_ = 0 then (s, true)
  else
    match s.access hostUnit c .write at_ with
    | .ok pa =>
      if s.home.poison.contains (pa / 64) then (s.chargeLines c.asid (pkClass g.pkt) (s.pathLines hostUnit c at_ pa), false)
      else ((s.homeWrite (.det false) pa (leBytes g.watermark.toNat 8)).chargeLines c.asid (pkClass g.pkt) (s.pathLines hostUnit c at_ pa), true)
    | _ => (s.chargeLines c.asid (pkClass g.pkt) (s.xlatReads hostUnit c at_), false)
/-- The watermark agrees with the expected one: the state, and the address of a difference (R410). -/
def State.checkWatermark (s : State) (c : Context) (g : Grid) : State × Option Word64 :=
  let (s, ok) := s.writeWatermark c g
  if !ok then (s, some (pkWmOut g.pkt))
  else if pkWmExp g.pkt = 0 then (s, none)
  else
    let same : Bool := match s.readVa hostUnit c (pkWmExp g.pkt) 8 with
      | some bs => decide (BitVec.ofNat 64 (leNat bs) = g.watermark)
      | none => false
    (s.chargeVa hostUnit c (pkClass g.pkt) (pkWmExp g.pkt), if same then none else some (pkWmExp g.pkt))

/-- A change of the completion counter of a grid; a failing one leaves a record (R109, R110). -/
def State.gridCounter (s : State) (asid : Nat) (grid : BitVec 32) (ccnt : Word64) (f : Word64 → Word64) : State :=
  if ccnt = 0 then s else
  match s.ctx? asid with
  | none => s
  | some c =>
    match s.addCounter hostUnit c ccnt f (s.det grid.toNat) with
    | some t => t.chargeVa hostUnit c (s.classOf grid.toNat) ccnt
    | none => (s.chargeVa hostUnit c (s.classOf grid.toNat) ccnt).record asid { kind := 1, final := 36, grid := grid, addr := ccnt }
/-- The mark of a failed counter (R109). -/
def failMark (v : Word64) : Word64 := (v + 1) ||| 0x8000000000000000#64

/-- A grid ends (R98, R109, R410): its batches are applied, its stores posted, its watermark written, its counter advanced. -/
def State.endGrid (s : State) (g : Grid) : State :=
  let n := g.id.toNat
  let s := (s.applyBatches n).postGrid n
  if ((s.grid? n).map (·.kill.isSome)).getD true then s
  else
    let s := s.setGrid { g with ended := true }
    match s.ctx? g.asid with
    | none => s
    | some c =>
      let (s, bad) := if pkDet g.pkt then s.checkWatermark c g else (s, none)
      match bad with
      | some a => s.record g.asid { kind := 1, final := 35, grid := g.id, addr := a }
      | none => s.gridCounter g.asid g.id (pkCcnt g.pkt) (· + 1)

/-- Every team of a grid has exited, and the digests of a deterministic one are known. -/
def Grid.complete (g : Grid) : Bool :=
  g.kill.isNone && !g.ended && decide (g.nextTeam = pkTeams g.pkt) && decide (g.exited.length = pkTeams g.pkt) &&
    (!pkDet g.pkt || decide (g.digests.length = pkTeams g.pkt))
def State.tryEnd (s : State) (grid : Nat) : State :=
  match s.grid? grid with
  | none => s
  | some g => if g.complete then (s.endWaits g).getD (s.endGrid g) else s
/-- An ended grid goes with its last team (R98). -/
def State.dropEnded (s : State) : State := { s with grids := s.grids.filter fun g => !(g.ended && (s.gridTeams g.id.toNat).isEmpty) }
/-- The grids whose end waited for a page or a budget are tried again. -/
def State.tryEnds (s : State) : State := (s.grids.foldl (fun s g => s.tryEnd g.id.toNat) s).dropEnded

/-- The cores of a team. -/
def Team.cores (t : Team) : List Nat := if t.quad then (List.range 4).map (t.core + ·) else [t.core]

/-- Swapped-out teams may come back once a team has exited (R125). -/
def State.wakeSwapped (s : State) : State :=
  { s with teams := s.teams.map fun t => if t.resident || t.exited then t else { t with asking := true } }

/-- A team exits (R98, R150, R184, R325, R411). -/
def State.exitTeam (s : State) (t : Team) : State :=
  let s := s.setTeam { t with exited := true }
  let s := (s.postTeam t.ref).wakeSwapped
  let asid := ((s.gridCtx? t.ref.grid).map (·.asid)).getD 0
  let s := t.cores.foldl (fun s c => bfRelease s c asid { grid := t.ref.grid, team := t.ref.team, group := 0 }) s
  let s := (s.sheets.filter fun x => decide (x.team = t.ref)).foldl (fun s x => s.releaseSheet x false) s
  let s := if s.det t.ref.grid && pkSerial (s.pkt t.ref.grid) then s.applyBatches t.ref.grid else s
  match s.grid? t.ref.grid with
  | none => s
  | some g =>
    if g.kill.isSome then s
    else
      let g := { g with exited := t.ref.team :: g.exited }
      (((s.setGrid g.advanceAll).releaseOrdw t.ref.grid).noteDigest t.ref).tryEnd t.ref.grid

/-- The exit of a team of a SERIAL grid waits for the stacks of the batches that it applies (R411, R428). -/
def State.exitOpen (s : State) (grid : Nat) : Bool := !(s.det grid && pkSerial (s.pkt grid)) || s.batchesOpen grid
/-- The last group of a team to exit ends the team (R98). -/
def State.tryExit (s : State) (g : Group) : State :=
  if !(g.gone && g.detPend.isEmpty && s.exitOpen g.ref.grid) then s
  else
    match s.team? g.ref.tref with
    | none => s
    | some t =>
      if t.exited then s
      else
        if (s.teamGroups t.ref).all Group.gone then s.exitTeam t else s

/-! ### The end of a round -/

/-- The lanes of a list whose sticky flags meet the enabled ones, and the union of those (R449). -/
def flagCheck (en : BitVec 6) (g : Group) (l : List Nat) : LaneMask × BitVec 6 :=
  let bad := l.filter fun t => (g.lane t).flags &&& en != 0
  (lanesMask bad, bad.foldl (fun f t => f ||| ((g.lane t).flags &&& en)) 0)

/-- A lane at the end of the run that executes EXIT at `pc`: it exits, or, outside E, goes on behind it. A lane that a BAR or a deterministic
atomic of the same run has blocked stands behind that word (R179, R361). A lane of E that another word of the run has blocked does not exit:
it stands at the EXIT, which it executes once the wait is over. DESIGN CHOICE: the spec does not say which of the two words prevails (R162,
R179; log 70). -/
def exitLane (pc : Word64) (inE active : Bool) (th : Thread) : Thread :=
  if (inE || active) && th.bar?.isSome then th
  else if inE then (if th.blocked then { th with pc := pc } else { th with st := .exited })
  else if active then { th with pc := pc + 8 } else th

/-- EXIT's check and the exits (R162, R449). -/
def exitStep (en : BitVec 6) (g : Group) (b : Stream) (r : Run) : Group × Option FaultInfo :=
  match r.exit, r.fault with
  | some (pc, pos, l), none =>
    let (bad, fl) := flagCheck en g l
    if bad = 0 then
      let g := g.clearFlagRecord
      (g.mapLanes fun t th => exitLane pc (l.contains t) (r.active.getLsbD t) th, none)
    else (g, some { cause := 16, pc := pc, addr := 0, lanes := bad, pos := pos, stream := decide (b = .b), flags := fl })
  | _, f => (g, f)

/-- TFENCE's check (R449): the after-run trap it asks for. -/
def tfenceStep (en : BitVec 6) (g : Group) (b : Stream) (r : Run) : Group × Option FaultInfo :=
  match r.tfence with
  | none => (g, none)
  | some (pc, pos) =>
    let (bad, fl) := flagCheck en g (maskLanes r.active)
    if bad = 0 then (g.clearFlagRecord, none)
    else (g, some { cause := 16, pc := pc, addr := 0, lanes := bad, pos := pos, stream := decide (b = .b), flags := fl, after := true })

/-- Ages after a round (R88). -/
def ageStep (rd : Round) (g : Group) : Group :=
  let active := ((rd.a.map (·.active)).getD 0) ||| ((rd.b.map (·.active)).getD 0)
  g.mapLanes fun t th =>
    if active.getLsbD t then { th with age := 0 }
    else if rd.runnable.getLsbD t && th.age != 255 then { th with age := th.age + 1 } else th

/-- The DEBUG trap of a stepped word (R457). -/
def debugTrap (g : Group) (r : Run) : Option FaultInfo :=
  let l := (maskLanes r.active).filter fun t => (g.lane t).live
  if r.step && !l.isEmpty then
    some { cause := 19, pc := r.last, addr := 0, lanes := lanesMask l, pos := r.pos, after := true }
  else none

/-- An after-run trap with its resume PC: of its lanes that still live, those at the lowest PC enter (R443); none where all have
exited in the run (R78). -/
def afterTrap (g : Group) (f : FaultInfo) : Option FaultInfo :=
  let l := (maskLanes f.lanes).filter fun t => (g.lane t).live
  (argMin id (l.map fun t => (g.lane t).pc.toNat)).map fun p =>
    let here := l.filter fun t => decide ((g.lane t).pc.toNat = p)
    let fl := if f.cause = 16 then here.foldl (fun x t => x ||| (g.lane t).flags) 0 &&& f.flags else f.flags
    { f with addr := BitVec.ofNat 64 p, lanes := lanesMask here, flags := fl, pos := 0, after := true }

/-- The record of a translation fault held for replay (R426). -/
def replayRec (g : Group) (f : FaultInfo) : FaultRec := { killRec g f with kind := 1, final := 37 }

/-- A precise fault of a round: held for a REPLAY write, or taken (R426, R441). -/
def State.preciseFault (s : State) (g : Group) (f : FaultInfo) : State :=
  match s.gridCtx? g.ref.grid with
  | none => s.takeTrap g f
  | some c =>
    if c.replayMode && f.cause == 4 && f.detail == 1 then
      (s.setGroup { g with replay := some c.replays }).record c.asid (replayRec g f)
    else s.takeTrap g f

/-- What is left of a round once its checks are made: the group, a precise fault, an after-run trap. -/
structure RoundEnd where
  g     : Group
  fault : Option FaultInfo
  trap  : Option FaultInfo
  deriving DecidableEq, Repr

/-- What the end of one run of a round does, in the order of its words (R450): the flags raised up to its TFENCE are noted, its TFENCE is
checked, the rest noted, its EXIT checked. The group, the trap of TFENCE, the fault. -/
def endRun (en : BitVec 6) (rd : Round) (b : Stream) (g : Group) : Group × Option FaultInfo × Option FaultInfo :=
  match rd.run? b with
  | none => (g, none, none)
  | some r =>
    let upTo (n : Nat) (x : Raised) : Bool := x.b == b && decide (x.pos ≤ n)
    let g := match r.tfence with
      | some (_, pos) => g.noteRaised rd.begun (upTo pos)
      | none => g
    let t := tfenceStep en g b r
    let x := exitStep en (t.1.noteRaised rd.begun fun x => x.b == b) b r
    (x.1, t.2, x.2)

/-- The checks at the end of a round, in their order (R90, R162, R443, R444, R449, R450). -/
def endChecks (en : BitVec 6) (g : Group) (rd : Round) : RoundEnd :=
  let a := endRun en rd .a g
  let b := endRun en rd .b a.1
  let g := ageStep rd b.1
  let undecided := argMin (fun (f : FaultInfo) => (if f.stream then 64 else 0) + f.pos) g.afters
  let clean := { g with round := none, raised := [], afters := [], answers := [] }
  let trap := (a.2.1.or b.2.1).or (undecided.or (rd.a.bind (debugTrap clean)))
  match (rd.a.bind (·.tret)).or (rd.b.bind (·.tret)) with
  | some pc => { g := trapReturn clean pc, fault := none, trap := trap }
  | none => { g := clean, fault := a.2.2.or b.2.2, trap := trap }

/-- Whether the last three runs hold PAUSE (R122). -/
def pauseLog (l : List Bool) (rd : Round) : List Bool :=
  ((l ++ (rd.a.toList ++ rd.b.toList).map fun r => r.pause.isSome).reverse.take 3).reverse

/-- A stepped LAUNCH completes its step once it is enqueued (R457). -/
def State.stepHeld (s : State) (g : Group) (rd : Round) : Bool :=
  ((rd.a.map (·.step)).getD false) && s.cmds.any fun c => c.g == g.ref && c.eng == 4

/-- What a round's end takes: a precise fault of its runs, else BAR_MISMATCH, which is one too, else the after-run trap (R180, R443). -/
def State.roundTrap (s : State) (r : RoundEnd) : State :=
  match r.fault, mismatch r.g, r.trap with
  | some f, _, _ => s.preciseFault r.g f
  | none, some _, _ => s.barMismatch r.g
  | none, none, some f => match afterTrap r.g f with
    | some f => s.takeTrap r.g f
    | none => s
  | none, none, none => s
/-- A round whose effects have left and whose deferred writes are made comes to its end, with all that follows: traps, exits, arrivals,
barriers. -/
def State.finishRound (s : State) (gr : GRef) : State :=
  match s.group? gr with
  | none => s
  | some g =>
    match g.round with
    | none => s
    | some rd =>
      if !(g.settled && g.outbox.isEmpty && g.pend.isEmpty) || s.stepHeld g rd then s
      else
        let r := endChecks (pkTrapEn (s.pkt gr.grid)) { g with pauses := pauseLog g.pauses rd } rd
        let s := (s.setGroup r.g).roundTrap r
        match s.group? gr with
        | none => s
        | some g => (((s.arriveAt g).tryExit g).tryBarriers gr.tref)

end Sys2Proof.Machine
end

