-- ==== Sys2Proof/Machine/Commit.lean ====
section
/-!
DEFINITION. The boundary of a run: RUN_COMMIT, the release of boundary effects in program order (04 R82, R89; 13 R325 to R340; 14 R355
to R366; 15 R375; 18 R439), DEFERRED_WRITE, and the events that a boundary effect waits for.
-/
namespace Sys2Proof.Machine
open Sys2Proof

/-! ### Commands leave the core (R84, R368, R375) -/

/-- The engine of a command (R367). -/
def engOf : CmdKind → Nat
  | .copy .. => 1
  | .gather .. => 2
  | .coll .. => 3
  | .launch .. => 4
  | .swrun .. => 6
  | .lost e _ => e
  | _ => 5
/-- The engine that works on a path of R320: COPY 1, GATHER 2, BFLY 3, SWEEP 4, COLL 6. -/
def pathOf : Nat → Nat
  | 1 => 1
  | 2 => 2
  | 3 => 6
  | 4 => 1
  | 5 => 3
  | _ => 4
def enginePath (p : Nat) : Bool := p == 1 || p == 2 || p == 3 || p == 4 || p == 6

/-- The commands of a group that stand on a path. -/
def State.onPath (s : State) (g : GRef) (path : Nat) : List Nat :=
  ((s.cmds.filter fun c => c.g == g && pathOf c.eng == path).map (·.serial)) ++
  (if path = 4 then ((s.sheets.flatMap (·.runs)) ++ s.orphans.map (·.run)).filterMap fun r => if r.g = g then some r.serial else none
   else []) ++
  (if path = 3 then s.bf.flatMap fun p =>
      let l := p.2.queue ++ (match p.2.latch with
        | some l => l.parts
        | none => [])
      (l.filterMap fun c => if c.g = g then some c.serial else none) ++
        l.flatMap fun c => c.peers.filterMap fun q => if q.g = g then some q.serial else none
   else [])

/-- A command with a command digest (R407). -/
def hasDigest (k : CmdKind) : Bool := engOf k ≠ 5 || bfDigests k

/-- The cause with which a command fails at its acceptance: BAD_SHAPE, PEER_DOWN for a record on a peer that is not reached, or what a
collective finds first (R376, R378, R386). -/
def acceptBad (s : State) (c : Context) (core : Nat) (k : CmdKind) : Option Nat :=
  match k, collReq k with
  | .lost .., _ => some 12
  | _, some q => collBad s c core q
  | k, none => if boxBad k then some 1 else none
/-- A command of ENG 1 to 4 as it is accepted (R312, R378, R386). -/
def mkCommand (s : State) (c : Context) (g : Group) (serial slot : Nat) (gen : BitVec 33) (k : CmdKind) (ctr : Word64) (t : Bool) :
    Command :=
  let bad : Option (Nat × Nat) := (acceptBad s c g.core k).map fun n => (n, 0)
  { serial := serial, g := g.ref, asid := c.asid, core := g.core, slot := slot, gen := gen, eng := engOf k, kind := k, ctr := ctr
    lines := if bad.isSome then [] else match collReq k with
      | some q => collLines g.ref.tref q
      | none => cmdLines g.ref.tref k
    after := g.before (pathOf (engOf k)), failed := bad, t := t, det := s.det g.ref.grid }

/-- A grid has been killed, or is gone. -/
def State.gridDead (s : State) (grid : Nat) : Bool := ((s.grid? grid).map (·.kill.isSome)).getD true

/-- A command enters its engine. A SWRUN of a sheet that is being released is cancelled there; that of a sheet that has gone since its word
is kept by itself, to complete CANCELLED (R150, R152; log 33). A collective that fails at its acceptance, with BAD_RANK or another cause, is not
noted as the last sequence number that the engine has accepted for its communicator: R386 does not say. DESIGN CHOICE (log 96). -/
def State.enqueue (s : State) (c : Context) (g : Group) (serial slot : Nat) (gen : BitVec 33) (k : CmdKind) (ctr : Word64) (t : Bool) :
    State :=
  let dead := s.gridDead g.ref.grid
  match k with
  | .swrun core sl ser record recAt =>
    let r : SwRun := { serial := serial, g := g.ref, slot := slot, gen := gen, recAt := recAt, ctr := ctr,
                       after := g.before 4, t := t }
    match s.bound? core sl ser with
    | some x => s.setSheet { x with runs := x.runs ++ [{ r with cancel := x.releasing }] }
    | none =>
      let x : Sheet := { core := core, slot := sl, cores := [(core, 0)], serial := BitVec.ofNat 32 ser, team := g.ref.tref, asid := c.asid,
                         record := record }
      { s with orphans := s.orphans ++ [{ sheet := x, run := { r with cancel := true } }] }
  | k =>
    if engOf k ≠ 5 then
      let x := mkCommand s c g serial slot gen k ctr t
      let s := match collReq k, x.failed with
        | some q, none => s.noteSeq g.core (commId q.comm) q.seq
        | _, _ => s
      { s with cmds := s.cmds ++ [if dead then killCommand g.ref.grid x else x] }
    else
      let x : BfCmd := { g := g.ref, team := g.ref.tref, asid := c.asid, serial := serial, fut := some (slot, gen), ctr := ctr,
                         kind := .inl k, after := g.before 3, lines := bfLines s g.ref.tref k, t := t }
      if dead then cancelBf g.core s x else bfEnqueue s g.core x

/-- A command leaves at the boundary: it takes a future slot, its word its handle, and its engine the command (R84, R368, R375). -/
def State.acceptCommand (s : State) (g : Group) (k : CmdKind) (ctr : Word64) (key : Nat) (t : Bool) : State :=
  match g.takeSlot (engOf k), s.gridCtx? g.ref.grid with
  | some (g', slot, gen), some c =>
    let serial := s.serials
    let det := s.det g.ref.grid
    let h := mkHandle g.ref.group (engOf k) slot gen
    let g' := { g' with
      answers := g'.answers ++ [{ key := key, lane := 0, w := h }]
      digests := if det && hasDigest k then g'.digests ++ [{ serial := serial, value := none }] else g'.digests }
    { s.setGroup g' with serials := serial + 1 }.enqueue c g' serial slot gen k ctr t
  | _, _ => s

/-- The future that a handle names in a group's team, where it is pending: its group, slot and engine (R367, R392). -/
def State.pendingOf (s : State) (g : Group) (h : Word64) : Option (Group × Nat × Future) :=
  (handleOf (pkGroups (s.pkt g.ref.grid)) h).bind fun (gidx, _, gen, slot) =>
  (s.group? { g.ref with group := gidx }).bind fun x =>
    if (x.future slot).gen ≠ gen ∨ (x.future slot).isDone then none else some (x, slot, x.future slot)
/-- FCANCEL (R392): a pending future's command is cancelled at its engine, which is the one that took it. -/
def State.cancelFuture (s : State) (g : Group) (h : Word64) : State :=
  match s.pendingOf g h with
  | none => s
  | some (x, slot, f) =>
    if f.eng = 5 then bfCancel s x.core x.ref slot
    else if f.eng = 6 then
      match s.sheets.findSome? fun y => (y.runs.find? fun r => r.g == x.ref && r.slot == slot && r.gen == f.gen).map fun r => (y, r) with
      | some (y, r) => s.cancelSwRun y r
      | none => s
    else { s with cmds := s.cmds.map fun c =>
             if c.g = x.ref ∧ c.slot = slot ∧ c.gen = f.gen then { c with cancel := true, stop := none } else c }
/-- FCANCEL of a participant that waits in a latch completes its gang, and waits while a counter of it lies on a page that is still to be
zeroed (R298, R422). -/
def State.cancelWaits (s : State) (g : Group) (h : Word64) : Option State :=
  (s.pendingOf g h).bind fun (x, slot, f) =>
    if f.eng = 5 ∧ (s.bfOf x.core).latched x.ref slot then bfHeldUp s x.core [] else none

/-! ### Ordering words (R333, R334, R340, R364, R365) -/

/-- A window write of a group stands in the queue of an engine. -/
def BfEngine.windowOf (e : BfEngine) (g : GRef) : Bool :=
  e.queue.any fun c => c.g == g && (match c.kind with
    | .inr (.winWrite ..) => true
    | _ => false)
/-- A group still has a store held at an absent line, or a window write in an engine's queue. -/
def State.storesStand (s : State) (g : GRef) : Bool :=
  s.teams.any (fun t => t.held.any (fun h => h.g == g) || t.savedBf.any fun p => p.2.windowOf g) || s.bf.any fun p => p.2.windowOf g

/-- FENCE (R333, R334, R365). -/
def State.fence (s : State) (g : Group) (scope : Nat) : State :=
  let quad := ((s.team? g.ref.tref).map (·.quad)).getD false
  if scope = 0 then s.postGroup g.ref
  else
    let s := s.stores.foldl (fun s st =>
      if g.seen.contains st.sid && linked st scope g.ref g.core then s.publish st g.ref else s) s
    let s := s.setGroup { g with fenceRel := max g.fenceRel scope }
    if quad && scope == 1 then (s.postGroup g.ref).renew g.core else s

/-- CFENCE (R340); none while the group's stores still stand at the scratchpads. -/
def State.cfence (s : State) (g : Group) (a b : Nat) : Option State :=
  if a = 0 then
    if b = 0 then some (s.postGroup g.ref)
    else if b ≠ 7 && !enginePath b then some s
    else if s.storesStand g.ref then none
    else
      let s := s.postGroup g.ref
      some (if b = 7 then s.codeInvalidate g.core else s)
  else if !enginePath a then some s
  else if b = 0 then some (s.renew g.core)
  else if b = 7 then some (s.codeInvalidate g.core)
  else if enginePath b then some (s.setGroup { g with cfences := (b, s.onPath g.ref a) :: g.cfences })
  else some s

/-! ### Stores (R82, R322, R325, R336) -/

/-- A `.g` store is issued, and folds into its thread's digest. -/
def State.issueStore (s : State) (g : Group) (q : StoreReq) (pa : Nat) : State :=
  let rel := max (if q.ord = 3 then 1 else if q.ord = 4 then 2 else 0) g.fenceRel
  let st : GStore := { sid := s.sids, g := g.ref, core := g.core, va := q.va, pa := pa, bytes := q.bytes, rel := rel, t := q.t,
                       det := s.det g.ref.grid, word := q.word }
  let s := s.memCharge g.ref q.va pa
  { s with stores := s.stores ++ [st], sids := s.sids + 1 }.foldDigest g.ref q.lane
    (digestEntry q.va q.bytes.length false (leNat q.bytes)) q.t

/-- The leading stores that meet their bytes at once; the rest wait for a window, or for the budget of a stack (R428). -/
def State.localStores (s : State) (gr : GRef) : List StoreReq → State × List StoreReq
  | [] => (s, [])
  | q :: rest =>
    match s.group? gr, q.at_ with
    | some g, .mem pa => if s.memOpen gr q.va pa then (s.issueStore g q pa).localStores gr rest else (s, q :: rest)
    | some _, .scratch tm a =>
      if tm = gr.tref then (s.spStore gr tm a q.bytes q.t q.word).localStores gr rest else (s, q :: rest)
    | _, _ => (s, q :: rest)

/-- The ordering that a store word asks for after its stores: ST.POST, and ST.REL.team of a quad team (R325, R334). -/
def State.postsAfter (s : State) (gr : GRef) (ord : Nat) : State :=
  let quad := ((s.team? gr.tref).map (·.quad)).getD false
  if ord = 1 ∨ (ord = 3 ∧ quad) then s.postGroup gr else s

/-! ### Waits (R178, R183) -/

/-- A thread blocks at the word of a place of its run: at a BAR or a deterministic atomic it stands at the word behind it (R179, R361). -/
def Thread.block (pos : Nat) (w : Wait) (t : Thread) : Thread :=
  match w with
  | .bar _ pc | .det _ pc => { t.addWait pos w with pc := pc + 8 }
  | _ => t.addWait pos w
/-- Lanes block, or pass an ORDW whose turn has come. -/
def State.blockLanes (s : State) (g : Group) (pos : Nat) (w : Wait) (lanes : List Nat) : State :=
  let set (s : State) : State :=
    s.setGroup { g with lanes := lanes.foldl (fun ls t => ls.modify t (Thread.block pos w)) g.lanes }
  match w with
  | .ordw k =>
    if ((s.grid? g.ref.grid).map fun x => decide (g.ref.team ≤ x.counter k)).getD false then s.renew g.core else set s
  | _ => set s

/-! ### Boundary effects in order (R82, R439) -/

/-- What an effect comes to: it is made, or it waits, as what is left of it. -/
inductive Left where
  | done (s : State)
  | wait (s : State) (e : Effect)

/-- What a command that leaves waits for: a future slot, or the add at its counter (R368, R422, R428). -/
def State.commandWaits (s : State) (g : Group) (k : CmdKind) (ctr : Word64) : Option State :=
  if (g.takeSlot (engOf k)).isNone then some s
  else s.counterWaits (((s.gridCtx? g.ref.grid).map (·.asid)).getD 0) (dieUnit (dieOf g.core)) (s.classOf g.ref.grid) ctr

/-- One boundary effect. The effects of runs committed before a kill stand (R451): their stores are posted at once, and an engine that the
kill has closed to the grid takes none of its words. -/
def effectStep (s : State) (g : Group) (e : Effect) : Left :=
  let dead := s.gridDead g.ref.grid
  let asid := ((s.gridCtx? g.ref.grid).map (·.asid)).getD 0
  match e with
  | .stores l unif =>
    let r := s.localStores g.ref l
    let s := if dead then r.1.postGroup g.ref else r.1
    if r.2.isEmpty then .done (s.postsAfter g.ref ((l.head?.map (·.ord)).getD 0)) else .wait s (.stores r.2 unif)
  | .atoms [] _ => .done s
  | .atoms l unif => .wait s (.atoms l unif)
  | .phase form =>
    let s := if form = 2 then s else s.post g.core
    .done (if form = 1 then s else s.renew g.core)
  | .fence scope => .done (s.fence g scope)
  | .cfence a b =>
    match s.cfence g a b with
    | some s => .done s
    | none => .wait s (.cfence a b)
  | .block pos w lanes => .done (if dead then s else s.blockLanes g pos w lanes)
  | .ordd k => .done (s.ordd g k)
  | .command k d ctr key t =>
    match s.commandWaits g k ctr with
    | some s => .wait s (.command k d ctr key t)
    | none => .done (s.acceptCommand g k ctr key t)
  | .cancel h =>
    match s.cancelWaits g h with
    | some s => .wait s (.cancel h)
    | none => .done (s.cancelFuture g h)
  | .bfacq key =>
    let r := if dead then (s, false) else bfAcquire s g.core g.ref.tref
    .done (r.1.answer g.ref { key := key, lane := 0, w := if r.2 then 1 else 0 })
  | .bf .release => .done (bfRelease s g.core asid g.ref)
  | .bf op => .done (if dead then s else bfEnqueueOp s g.core asid g.ref (g.before 3) op)
  | .bind record key t =>
    match s.gridCtx? g.ref.grid, dead with
    | some c, false =>
      match s.bindSheet c g.ref.tref g.core record with
      | .done s h => .done (s.answer g.ref { key := key, lane := 0, w := h, t := t })
      | .zero va => .wait (s.startZero c va) (.bind record key t)
      | .held => .wait s.bump (.bind record key t)
    | _, _ => .done (s.answer g.ref { key := key, lane := 0, w := badSheetHandle 2, t := t })
  | .pokes core slot serial l =>
    let r := s.acceptPokes g.ref core slot serial l
    if r.2 then .done r.1 else .wait r.1 (.pokes core slot serial l)
  | .bindRel core slot serial => .done (match s.bound? core slot serial with
    | some x => s.releaseSheet x true
    | none => s)
  | .kill pc => .done (s.killGrid g.ref.grid (killRec g { cause := 42, pc := pc, addr := 0, lanes := 0, pos := 0 }))

/-- The effects of a group leave in order, as far as they can. -/
def drain : Nat → State → GRef → State
  | 0, s, _ => s
  | n + 1, s, gr =>
    match s.group? gr with
    | none => s
    | some g =>
      match g.outbox with
      | [] => s
      | (b, e) :: rest =>
        let g := { g with outbox := rest }
        match effectStep (s.setGroup g) g e with
        | .done s => drain n s gr
        | .wait s e =>
          match s.group? gr with
          | none => s
          | some g => s.setGroup { g with outbox := (b, e) :: g.outbox }

/-- The effects leave, and the round ends where nothing of it is left. The group's registers first take the window stores of run A to its own
image, once no run of the round is left to commit (R317). -/
def State.settleGroup (s : State) (gr : GRef) : State :=
  (drain ((((s.group? gr).map (·.outbox.length)).getD 0) + 1) (s.takeOwn gr) gr).finishRound gr

/-! ### RUN_COMMIT (R82, R83, R89, R439) -/

/-- The registers that a run wrote, at their final values. -/
def commitRegs (s : Table SCell) (r : Run) : Table SCell :=
  r.written.foldl (fun s n => Table.set {} s n (Table.get {} r.s n)) s

/-- The keys of the returning deterministic atomics of a run: their old values come at the barrier's release (R361). -/
def detKeys (l : List Effect) : List Nat :=
  l.filterMap fun e => match e with
    | .block _ (.det k _) (_ :: _) => some k
    | _ => none
def Deferred.key? (d : Deferred) : Option Nat :=
  match d.form with
  | .atom _ _ k _ => some k
  | .atomu _ _ k _ _ _ => some k
  | _ => none
def Deferred.late (keys : List Nat) (d : Deferred) : Bool := (d.key?.map fun k => keys.contains k).getD false

/-- A PAUSE of a run, counted from the run's end (R164). -/
def Run.pauseEnd (r : Run) : Option Nat := r.pause.map (r.lastAt + ·)

/-- A run of a round commits (R82, R83, R439): its registers and control state become the group's, its effects and deferred writes follow those
already there. A PAUSE of it starts a new count (R164). Run A commits first, then run B, whose registers
prevail (R89). R89 gives that order for registers and effects; the model takes it for control state too: DEDUCED (log 86). What undoes the
control writes of run A is kept, for run B to read past them. -/
def commitRun (g : Group) (rd : Round) (b : Stream) (r : Run) : Group :=
  let keys := detKeys r.effects
  let rd := if b = .a then { rd with ctlBack := r.ctl.map (CtlWrite.back g) } else rd
  { g.withCtl r.ctl with
    s := commitRegs g.s r
    outbox := g.outbox ++ r.effects.map fun e => (b, e)
    pend := g.pend ++ r.deferred.filter fun d => !d.late keys
    detPend := g.detPend ++ r.deferred.filter (Deferred.late keys)
    pauseTo := r.pauseEnd.or g.pauseTo
    round := some (rd.setRun b { r with committed := true, effects := [], deferred := [], ctl := [], pre := [] }) }

/-- A window store of a group's own run that its target does not take as it arrives there, at the commit of the run (R316, R319, R439): the
lane, its address and the cause. -/
def State.storeRefused (s : State) (gr : GRef) (q : StoreReq) : Option (Nat × Word64 × Nat) :=
  if !q.far gr.tref then none
  else match s.window gr.grid q.va q.bytes.length true with
    | .error k => some (q.lane, q.va, k)
    | .ok _ => none
/-- The first effect of a run with a refused window store: its number, the refused lanes, and whether it is uniform. -/
def State.refusedEffect (s : State) (gr : GRef) (r : Run) : Option (Nat × List (Nat × Word64 × Nat) × Bool) :=
  r.effects.zipIdx.findSome? fun x =>
    match x.1 with
    | .stores l unif =>
      let bad := l.filterMap (s.storeRefused gr)
      if bad.isEmpty then none else some (x.2, bad, unif)
    | _ => none

/-- What the check of the window stores of a run as it commits leaves: the machine, the group and the round. -/
structure Rechecked where
  s  : State
  g  : Group
  rd : Round
  deriving DecidableEq, Repr
/-- The check of the window stores of a run as it commits (R316, R319, R439): where one is refused, the words from its own on are withdrawn,
with the lanes that they referred (R440), and the word faults; the expression log is as the words before it left it (R256). -/
def State.recheckRun (s : State) (g : Group) (rd : Round) (b : Stream) : Rechecked :=
  match rd.run? b with
  | none => { s := s, g := g, rd := rd }
  | some r =>
    match s.refusedEffect g.ref r with
    | none => { s := s, g := g, rd := rd }
    | some (n, bad, unif) =>
      match (r.pre.zipIdx.filter fun x => decide (x.1.effects.length ≤ n)).getLast?, bad with
      | some (p, i), (_, va, k) :: _ =>
        let lanes := if unif then r.active else lanesMask (bad.map (·.1))
        let f : FaultInfo := { cause := k, pc := p.at_, addr := va, lanes := lanes, pos := i + 1, stream := decide (b = .b) }
        let r' := { r.rewind i p with fault := some f, ended := true }
        { s := (s.takeBack g r p).restoreLog g ((r.pre.drop i).findSome? (·.log)), g := g.takeBack rd b r i p r', rd := rd.setRun b r' }
      | _, _ => { s := s, g := g, rd := rd }

/-- The run of a round that commits next: each at its own end, run A before run B (R439). -/
def Round.nextCommit (rd : Round) : Option Stream :=
  let due (r : Run) : Bool := r.ended && !r.committed
  match rd.a with
  | some a => if !a.committed then (if a.ended then some .a else none) else if (rd.b.map due).getD false then some .b else none
  | none => if (rd.b.map due).getD false then some .b else none

def commitStep (s : State) (gr : GRef) : Option State :=
  (s.group? gr).bind fun g =>
  g.round.bind fun rd =>
  rd.nextCommit.bind fun b =>
    let x := s.recheckRun g rd b
    (x.rd.run? b).map fun r => (x.s.setGroup (commitRun x.g x.rd b r)).settleGroup gr
def execRunCommit (g : GRef) (s : State) : Host.Outcome State Fault Refusal := event s (commitStep s g)

/-! ### DEFERRED_WRITE (R83, R84) -/

/-- The next deferred write of the runs of a group that have committed is made; with none left, effects that waited are tried again. -/
def deferredStep (s : State) (gr : GRef) : Option State :=
  (s.group? gr).bind fun g =>
    match g.pend with
    | [] => some (s.settleGroup gr)
    | d :: rest =>
      let e := denv s g
      match deferredOut e d with
      | .wait => some (s.settleGroup gr)
      | .retry s => some s
      | .ready o =>
        match (o.apply e d).group? gr with
        | none => none
        | some x => some (((o.apply e d).setGroup { x with pend := rest }).settleGroup gr)
def execDeferredWrite (g : GRef) (s : State) : Host.Outcome State Fault Refusal := event s (deferredStep s g)

/-! ### Atomics at their press units (R335, R355, R356, R358) -/

/-- The head of a group's effects is an atomic: the request and what is left behind it. -/
def atomHead (g : Group) : Option (AtomReq × Group) :=
  match g.outbox with
  | (b, .atoms (q :: l) unif) :: rest => some (q, { g with outbox := (b, .atoms l unif) :: rest })
  | _ => none
def AtomReq.held (q : AtomReq) : Bool :=
  q.det && (match q.at_ with
    | .mem _ => true
    | _ => false)
/-- An atomic on `.g` folds its operand into its thread's digest (R406). -/
def State.foldAtom (s : State) (q : AtomReq) : State :=
  match q.at_ with
  | .mem _ => s.foldDigest q.g q.lane (digestEntry q.va q.size true q.v.toNat) q.t
  | _ => s

/-- ATOMIC_PERFORM: one lane's atomic, at its home or its scratchpad. -/
def atomicStep (s : State) (gr : GRef) : Option State :=
  (s.group? gr).bind fun g =>
  (atomHead g).bind fun (q, g) =>
    if q.held then none
    else
      let waits := match q.at_ with
        | .scratch tm a => s.heldBy gr || (linesOf a q.size).any (s.unready tm)
        | .mem pa => !s.memOpen gr q.va pa
        | _ => false
      if waits then none
      else
        let s := (s.setGroup g).foldAtom q
        let s := match q.at_ with
          | .mem pa => s.postLine gr (pa / 64)
          | _ => s
        match performAtom s q false with
        | none => some (s.killPoison gr)
        | some (s, a) =>
          let s := match a with
            | some a => s.answer gr a
            | none => s
          some (s.settleGroup gr)
def execAtomicPerform (g : GRef) (s : State) : Host.Outcome State Fault Refusal := event s (atomicStep s g)

/-- DET_UPDATE_HOLD: one lane's deterministic update is held, once its stack has budget for it (R428): it may be applied at once (R360); that
of a killed grid is discarded (R362, R451). -/
def holdStep (s : State) (gr : GRef) : Option State :=
  (s.group? gr).bind fun g =>
  (atomHead g).bind fun (q, g) =>
    match q.held, q.at_ with
    | true, .mem pa =>
      if s.gridDead gr.grid then some ((s.setGroup g).settleGroup gr)
      else if !s.memOpen gr q.va pa then none
      else some ((((s.setGroup g).foldAtom q).holdUpdate q pa).settleGroup gr)
    | _, _ => none
def execDetUpdateHold (g : GRef) (s : State) : Host.Outcome State Fault Refusal := event s (holdStep s g)

/-! ### WINDOW_ACCESS_ARRIVE (R316 to R319, R336, R338) -/

/-- The target of a committed window store in the engine of a core. -/
def Target.onCore (core : Nat) : Target → Target
  | .slot _ k sd off => .slot core k sd off
  | .acc _ k off => .acc core k off
  | t => t
/-- A committed store to a slot or an accumulator reaches its engine, and takes its place in the order of acceptance (R318): the engine that
its team holds, or that is saved with the team (R302, R319). One whose engine was freed, with its contents, by a kill is lost. -/
def State.engineStore (s : State) (g : Group) (q : StoreReq) : State :=
  let asid := ((s.gridCtx? g.ref.grid).map (·.asid)).getD 0
  let at_ (core : Nat) : BfOp := .winWrite (q.at_.onCore core) q.bytes q.t q.word
  match s.storeEngine g.ref.grid q with
  | some core =>
    if (s.bfOf core).queue.isEmpty && !(s.bfOf core).leaving then s.writeAt g.ref q.word (q.at_.onCore core) q.bytes q.t
    else bfEnqueueOp s core asid g.ref [] (at_ core)
  | none =>
    match s.team? (windowTeam g.ref.grid q.va) with
    | none => s
    | some t =>
      let i := bits q.va 27 2
      let c : BfCmd := { g := g.ref, team := g.ref.tref, asid := asid, serial := s.serials, fut := none, ctr := 0, kind := .inr (at_ i) }
      { s.setTeam { t with savedBf := t.savedBf.map fun p => if p.1 = i then (p.1, { p.2 with queue := p.2.queue ++ [c] }) else p } with
        serials := s.serials + 1 }
/-- A window store that has left its run, at its target; none while it has to wait: behind a store of its group that is held (R336), while an
image's group is in a run (R317), for the budget of a swapped-out target's stack (R319). A store of run A to its group's own image does not
wait for run B, which does not see it (R89, R317). -/
def State.windowStore (s : State) (g : Group) (q : StoreReq) : Option State :=
  let asid := ((s.gridCtx? g.ref.grid).map (·.asid)).getD 0
  let cls := s.classOf g.ref.grid
  let lines := s.hbmLines [q.at_]
  match q.at_ with
  | .mem _ => none
  | .scratch tm a =>
    if !s.linesOpen asid cls lines then none
    else some ((s.chargeLines asid cls lines).spStore g.ref tm a q.bytes q.t q.word)
  | .image x off =>
    let own := decide (x = g.ref) && !s.betweenRuns x
    if s.heldBy g.ref || !(own || s.betweenRuns x) || !s.linesOpen asid cls lines then none
    else
      let s := s.chargeLines asid cls lines
      some (if own then s.storeOwn x q.word off q.bytes q.t else s.writeAt g.ref q.word q.at_ q.bytes q.t)
  | .slot .. | .acc .. => if s.heldBy g.ref then none else some (s.engineStore g q)

/-- The head of a group's effects is a window store that has reached its target. -/
def windowStep (s : State) (gr : GRef) : Option State :=
  (s.group? gr).bind fun g =>
    match g.outbox with
    | (b, .stores (q :: l) unif) :: rest =>
      (s.windowStore g q).bind fun s =>
      (s.group? gr).map fun g => (s.setGroup { g with outbox := (b, .stores l unif) :: rest }).settleGroup gr
    | _ => none
def execWindowAccessArrive (g : GRef) (s : State) : Host.Outcome State Fault Refusal := event s (windowStep s g)

/-! ### CNTWAIT_RECHECK (R185, R186) -/

/-- The threads of a group that wait at one counter for one threshold at one word. -/
def cntWaits (g : Group) : List (Word64 × Word64 × Word64) :=
  (g.lanes.flatMap fun t => t.waits.filterMap fun x => match x.2 with
    | .cnt a thr pc => some (a, thr, pc)
    | _ => none).dedup
/-- The wait of such a thread. -/
def cntWait (w : Word64 × Word64 × Word64) : Wait → Bool := (· == .cnt w.1 w.2.1 w.2.2)
def cntLanes (g : Group) (w : Word64 × Word64 × Word64) : List Nat :=
  (List.range g.lanes.length).filter fun t => (g.lane t).waits.any fun x => cntWait w x.2
/-- A thread returns to the word of a wait: the waits of that word and of the later ones of its run end. -/
def Thread.backTo (p : Wait → Bool) (pc : Word64) (t : Thread) : Thread :=
  { { t with waits := t.waits.takeWhile fun x => !p x.2 }.resume with pc := pc }

/-- A failing read returns the lanes to the word; the fault is taken there, where the lanes may run (R186, R442). -/
def State.cntFault (s : State) (g : Group) (w : Word64 × Word64 × Word64) (cause : Nat) : State :=
  let l := cntLanes g w
  let g := { g with lanes := l.foldl (fun ls t => ls.modify t (Thread.backTo (cntWait w) w.2.2)) g.lanes }
  let may := decide (g.level = 0) || l.all fun t => (g.bank g.level.toNat).tlanes.getLsbD t
  if !may then s.setGroup g
  else s.preciseFault g { cause := cause, pc := w.2.2, addr := w.1, lanes := lanesMask l, detail := if cause = 4 then 1 else 0, pos := 0 }

/-- A counter is read again. -/
def State.recheck (s : State) (gr : GRef) (w : Word64 × Word64 × Word64) : State :=
  match s.group? gr, s.gridCtx? gr.grid with
  | some g, some c =>
    match s.readCounter g.core c w.1 with
    | .zero => s.startZero c w.1
    | .fault k => if g.idle then s.cntFault g w k else s
    | .val v =>
      match s.vaWaits g.core c (s.classOf gr.grid) .read w.1 8 with
      | some t => t
      | none =>
        let s := s.chargeVa g.core c (s.classOf gr.grid) w.1
        if !cntDone v w.2.1 then s
        else s.setGroup { g with lanes := g.lanes.map (Thread.endWaits (cntWait w) (some (.push (!v.getLsbD 63)))) }
  | _, _ => s
def execCntwaitRecheck (g : GRef) (s : State) : Host.Outcome State Fault Refusal :=
  event s ((s.group? g).map fun x => (cntWaits x).foldl (fun s w => s.recheck g w) s)

/-! ### VIEW_ADVANCE and LINE_PRESENT (R312, R313, R327) -/

/-- A core's view of a line advances to some prefix of what is posted (log 4). -/
def execViewAdvance (core line : Nat) (s : State) : Host.Outcome State Fault Refusal :=
  event s (some (s.growView core line
    (s.viewOf core line + Config.choice s.tick % (s.home.seq - s.viewOf core line + 1))).bump)

/-- LINE_PRESENT: a line whose bytes have all landed becomes present, and the held stores whose lines have come are made, each group's in
its order (R313, R336). Barriers that waited for such stores are released (R181). -/
def linePresentStep (s : State) (tm : TRef) (line : Nat) : Option State :=
  if s.landing tm line then none
  else
    let s := s.applyHeld
    some ((s.teams.map (·.ref)).foldl State.tryBarriers s)
def execLinePresent (tm : TRef) (line : Nat) (s : State) : Host.Outcome State Fault Refusal := event s (linePresentStep s tm line)

end Sys2Proof.Machine
end

