-- ==== Sys2Proof/Machine/Sched.lean ====
section
/-!
DEFINITION. The issue of runs: eligibility, streams and issue slots (04 R78 to R90; 05 R119 to R122), the register file (04 R92 to R97),
the release of a team's scratchpad (04 R98), and the passing of time (R4, R436).
-/
namespace Sys2Proof.Machine
open Sys2Proof

/-! ### Runnable threads and streams (R78, R87, R442) -/

/-- A thread that is live, not blocked, and not suspended by a handler. -/
def Group.mayRun (g : Group) (t : Nat) : Bool :=
  (g.lane t).live && !(g.lane t).blocked && (g.level == 0 || (g.bank g.level.toNat).tlanes.getLsbD t)
/-- The runnable threads: a thread whose next run reads a pending register is blocked (R85). -/
def State.runnable (s : State) (g : Group) : List Nat :=
  let l := (List.range g.lanes.length).filter g.mayRun
  let pcs := ((l.map fun t => (g.lane t).pc).dedup).filter fun pc => !pendingRead g (s.wordsAt g pc)
  l.filter fun t => pcs.contains (g.lane t).pc

/-- Stream A: the lowest PC. -/
def streamA (g : Group) (l : List Nat) : Option Word64 := (argMin id (l.map fun t => (g.lane t).pc.toNat)).map (BitVec.ofNat 64 ·)
/-- Stream B: among the other PCs, that of the oldest thread, ties to the lower PC. -/
def streamB (g : Group) (l : List Nat) (a : Word64) : Option Word64 :=
  (argMin (fun t => (255 - (g.lane t).age.toNat) * 2 ^ 64 + (g.lane t).pc.toNat) (l.filter fun t => (g.lane t).pc ≠ a)).map
    fun t => (g.lane t).pc
def atPc (g : Group) (l : List Nat) (pc : Word64) : LaneMask := lanesMask (l.filter fun t => (g.lane t).pc = pc)

/-- A word of the group waits for a REPLAY write (R426). -/
def State.replayHeld (s : State) (g : Group) : Bool :=
  match g.replay with
  | none => false
  | some n => ((s.gridCtx? g.ref.grid).map fun c => decide (c.replays ≤ n)).getD false
/-- The team of a group is on a core and stays there. -/
def State.placed (s : State) (tm : TRef) : Bool := ((s.team? tm).map fun t => t.resident && !t.leaving && !t.exited).getD false
/-- R119. -/
def State.eligible (s : State) (g : Group) : Bool :=
  g.idle && !s.replayHeld g && s.placed g.ref.tref && ((s.grid? g.ref.grid).map (·.kill.isNone)).getD false && !(s.runnable g).isEmpty

/-! ### Waiting and time (R119, R122) -/

/-- R122. -/
def State.waitingGroup (s : State) (g : Group) : Bool :=
  !s.replayHeld g &&
    ((g.lanes.all fun t => !t.live || t.blocked) || (decide (g.pauses.length = 3) && g.pauses.all id))
def State.waitingTeam (s : State) (t : Team) : Bool := (s.teamGroups t.ref).all fun g => g.gone || s.waitingGroup g
/-- Every resident team of a grid waits, and there is one. -/
def State.waitingGrid (s : State) (grid : Nat) : Bool :=
  let l := (s.gridTeams grid).filter fun t => t.resident && !t.exited
  !l.isEmpty && l.all s.waitingTeam

/-- The moments since which groups are eligible and grids wait, brought up to date. -/
def State.stamp (s : State) : State :=
  { s with
    groups := s.groups.map fun g =>
      { g with eligible := if s.eligible g then g.eligible.or (some s.cycle) else none }
    grids := s.grids.map fun g => { g with waiting := if s.waitingGrid g.id.toNat then g.waiting.or (some s.cycle) else none } }

/-- Time passes (R4, R436): nanoseconds, and the arithmetic cycles they hold. -/
def State.pass (s : State) (n : Nat) : State :=
  let s := s.stamp
  { s with dev := { s.dev with ns := s.dev.ns + n, mcycles := s.dev.mcycles + n * s.dev.mhz } }

/-! ### Issue slots (R120, R121) -/

/-- The issue slots of a partition (R16). -/
def issueSlots : Nat := 3
/-- The runs of a round that hold issue slots: those in progress, but for one whose load waits at its target, and the one behind it (R84;
log 66). -/
def Round.holding (rd : Round) : List Run :=
  let waits := (rd.a.map fun r => !r.ended && r.probe.isSome).getD false
  let a := rd.a.toList.filter fun r => !r.ended && r.probe.isNone
  let b := rd.b.toList.filter fun r => !r.ended && r.probe.isNone && !waits
  a ++ b
/-- The runs of a partition that hold issue slots. -/
def State.busySlots (s : State) (core part : Nat) : Nat :=
  ((s.groups.filter fun g => decide (g.core = core) && decide (g.part = part)).flatMap fun g =>
    (g.round.map Round.holding).getD []).length

/-- Cycles since a group became eligible. -/
def State.eligibleAge (s : State) (g : Group) : Nat := (g.eligible.map fun c => s.cycle - c).getD 0
def State.paused (s : State) (g : Group) : Bool := (g.pauseTo.map fun c => decide (s.cycle < c)).getD false
def markRank (m : BitVec 2) : Nat := if m = 2 then 0 else if m = 0 then 1 else 2

/-- A group is promoted once its eligible age reaches 4,096, until it is next selected (R120). -/
def State.promotedNow (s : State) (g : Group) : Bool := g.promoted || decide (4096 ≤ s.eligibleAge g)
/-- The order of R120, rules 2 to 6, least first. -/
def State.slotKey (s : State) (g : Group) : Nat :=
  let age := (2 ^ 40 - s.eligibleAge g) * 128 + g.slot
  if s.promotedNow g then age
  else 2 ^ 60 + ((((3 - pkPrio (s.pkt g.ref.grid)) * 2 + (if s.paused g then 1 else 0)) * 3 + markRank g.mark) * 2 ^ 48) + age

/-- The commands that a group holds and that have no future yet: those of a run A that has still to commit, and those that wait to leave. -/
def Group.heldCommands (g : Group) : Nat :=
  ((g.round.bind (·.a)).map fun r => if r.committed then 0 else r.cmds).getD 0 + (g.outbox.filter fun x => match x.2 with
    | .command .. => true
    | _ => false).length
/-- The commands of a run would bring the group's incomplete futures, with the commands that it holds, above 64 (R369). -/
def State.overFull (s : State) (g : Group) (pc : Word64) : Bool :=
  let held := g.heldCommands
  decide (64 < g.incomplete + held + commandsIn (s.wordsAt g pc))

/-- A run as it begins (R79, R81, R95). -/
def State.newRun (s : State) (g : Group) (pc : Word64) (active : LaneMask) (regs : Table SCell) : Run :=
  let need := runLines (pkVregs (s.pkt g.ref.grid) g.role) active (s.wordsAt g pc)
  { begun := pc, at_ := pc, active := active, s := regs, last := pc, step := g.stepping, be := g.be
    cmds := commandsIn (s.wordsAt g pc)
    missing := need.filter fun l => !g.linesIn.contains l }

/-- A round begins: stream A on its slot, stream B waiting for the next; single-step has no stream B (R87, R457). -/
def State.beginRound (s : State) (g : Group) : Option Group :=
  let l := s.runnable g
  (streamA g l).bind fun a =>
    if s.overFull g a then none
    else
      let b := if g.stepping then none else streamB g l a
      some { g with
        eligible := none, promoted := false, replay := none
        round := some { startS := g.s, start := g.lanes, begun := s.tick, sids := s.sids, runnable := lanesMask l
                        a := some (s.newRun g a (atPc g l a) g.s), b := none
                        waitB := b } }

/-- The lanes of run A, whatever address they have come to. -/
def Round.inA (rd : Round) (t : Nat) : Bool := (rd.a.map fun r => r.active.getLsbD t).getD false
/-- The stream B run of a round begins (R89, R120 rule 1): its active set is that of the threads at its address that are runnable then (R79),
and its S registers and control state are those of the start of the round. -/
def State.beginB (s : State) (g : Group) : Option Group :=
  g.round.bind fun rd =>
  rd.waitB.bind fun pc =>
    if s.overFull g pc then none
    else
      let l := (List.range g.lanes.length).filter fun t => !rd.inA t && g.mayRun t
      let run := s.newRun (g.withCtl rd.ctlBack) pc (atPc g l pc) rd.startS
      let start (t : Nat) : Thread := if run.active.getLsbD t then g.lane t else (rd.start[t]?).getD {}
      some { g with round := some { rd with b := some run, waitB := none, start := (List.range g.lanes.length).map start } }

/-- The waiting count of a grid returns to 0 as a group that no longer waits begins a round (R122). -/
def State.stopWaiting (s : State) (g : Group) : State :=
  if s.waitingGroup g then s
  else { s with grids := s.grids.map fun x => if x.id.toNat = g.ref.grid then { x with waiting := none } else x }

/-- ISSUE_SLOT_SELECT (R120). -/
def selectStep (s : State) (core part : Nat) : Option State :=
  if issueSlots ≤ s.busySlots core part then none
  else
    let here := s.groups.filter fun g => decide (g.core = core) && decide (g.part = part)
    let bs := here.filter fun g => (s.beginB g).isSome
    let new := here.filter fun g => s.eligible g && (s.beginRound g).isSome
    let pick := match argMin (fun (g : Group) => ((g.round.map (·.begun)).getD 0)) bs with
      | some g => s.beginB g
      | none => (argMin s.slotKey new).bind s.beginRound
    pick.map fun g => ((s.setGroup g).stopWaiting g).bump
def execIssueSlotSelect (core part : Nat) (s : State) : Host.Outcome State Fault Refusal := event s (selectStep s core part)

/-- GROUP_PROMOTION (R120). -/
def execGroupPromotion (g : GRef) (s : State) : Host.Outcome State Fault Refusal :=
  event s ((s.group? g).map fun x => if 4096 ≤ s.eligibleAge x ∧ s.eligible x then s.setGroup { x with promoted := true } else s)
/-- PAUSE_EXPIRY (R164). -/
def execPauseExpiry (g : GRef) (s : State) : Host.Outcome State Fault Refusal :=
  event s ((s.group? g).map fun x => if s.paused x then s else s.setGroup { x with pauseTo := none })

/-! ### The register file (R94, R95, R97) -/

def registerLines : Nat := 16384
/-- Lines of a core's file in use. -/
def State.linesUsed (s : State) (core : Nat) : Nat :=
  s.groups.foldl (fun n g => if g.core = core then n + g.linesIn.length else n) 0

/-- A line enters the file for a run that waits for it; a failing access kills the grid (R97). The registers themselves stand in the
group (log 11). -/
def fillStep (s : State) (gr : GRef) (line : Nat) : Option State :=
  (s.group? gr).bind fun g =>
  (s.gridCtx? gr.grid).bind fun c =>
  g.round.bind fun rd =>
    let waits (r : Option Run) : Bool := (r.map fun r => r.missing.contains line).getD false
    if !(waits rd.a || waits rd.b) || decide (registerLines ≤ s.linesUsed g.core) then none
    else
      match s.accessImage g.core c .read (s.lineVa g line) with
      | .zero => some (s.startZero c (s.lineVa g line))
      | .ok pa =>
        let cut (r : Run) : Run := { r with missing := r.missing.filter (· ≠ line) }
        let bad := s.poisoned pa 128 && !g.poison.contains line
        let cls := s.classOf gr.grid
        let lines := s.pathLines g.core c (s.lineVa g line) pa ++ [pa + 64]
        if !s.linesOpen c.asid cls lines then some s.bump
        else some ((s.chargeLines c.asid cls lines).setGroup { g with
          linesIn := if g.linesIn.contains line then g.linesIn else line :: g.linesIn
          poison := if bad then line :: g.poison else g.poison
          round := some { rd with a := rd.a.map cut, b := rd.b.map cut } })
      | _ => some (s.lineFails c g line)
def execRegLineFill (g : GRef) (line : Nat) (s : State) : Host.Outcome State Fault Refusal := event s (fillStep s g line)

/-- The bytes of a register line go to its image; a poisoned line stays poisoned there (R455). -/
def State.saveRegLine (s : State) (g : Group) (line : Nat) : State :=
  match (s.gridCtx? g.ref.grid).map fun c => (c, s.accessImage g.core c .write (s.lineVa g line)) with
  | some (c, .ok pa) =>
    let p := s.pkt g.ref.grid
    let bs := imageLine (pkVregs p g.role) (pkXregs p g.role) (s.blockedLane g) g line
    let s := s.chargeLines c.asid (s.classOf g.ref.grid) (s.pathLines g.core c (s.lineVa g line) pa ++ [pa + 64])
    let s := [0, 64].foldl (fun s k => s.homeWrite .outside (pa + k) ((bs.drop k).take 64)) s
    (if g.poison.contains line then s.markPoison pa 128 else s).setGroup { g with linesIn := g.linesIn.filter (· ≠ line) }
  | _ => s
/-- A line leaves the file: its bytes go to the image, once its stack has budget left (R95, R428). -/
def State.writeBack (s : State) (g : Group) (line : Nat) : State :=
  match s.gridCtx? g.ref.grid with
  | none => s
  | some c =>
    match s.accessImage g.core c .write (s.lineVa g line) with
    | .zero => s.startZero c (s.lineVa g line)
    | .ok pa =>
      if !s.linesOpen c.asid (s.classOf g.ref.grid) (s.pathLines g.core c (s.lineVa g line) pa ++ [pa + 64]) then s.bump
      else s.saveRegLine g line
    | _ => s.lineFails c g line
/-- Lines that a run in progress holds. -/
def Group.pinned (s : State) (g : Group) (line : Nat) : Bool :=
  match g.round with
  | none => false
  | some rd => (rd.a.toList ++ rd.b.toList).any fun r => !r.ended &&
      (runLines (pkVregs (s.pkt g.ref.grid) g.role) r.active (s.wordsAt g r.begun)).contains line
def execRegLineWriteback (core : Nat) (g : GRef) (line : Nat) (s : State) : Host.Outcome State Fault Refusal :=
  event s ((s.group? g).map fun x =>
    if x.core = core ∧ x.linesIn.contains line ∧ !x.pinned s line then s.writeBack x line else s)

/-! ### TEAM_SCRATCH_RELEASE (R98) -/

/-- The first and the last byte of each row that a butterfly transfer names. -/
def rowEnds (z rows pitch : Nat) (addr : Word64) : List Word64 :=
  (List.range rows).flatMap fun r =>
    [addr + BitVec.ofNat 64 (r * pitch), addr + BitVec.ofNat 64 (r * pitch + 256 * z - 1)]
/-- The places that a command of a team names: a space and an address for each element, or for each end of a row. -/
def State.placesOf (s : State) (tm : TRef) (k : CmdKind) : List (Nat × Word64) :=
  let x : EngPath := { unit := 0, ctx := { asid := 0, desc := 0 }, tm := tm }
  let rows (ty sp n : Nat) (addr desc : Word64) : List (Nat × Word64) :=
    (rowEnds (tagBytes ty) n (descPitch desc) addr).map fun a => (sp, a)
  match k with
  | .copy src dst _ _ _ ss ds _ =>
    if recValid src && recValid dst then
      (List.range (recCount dst)).flatMap fun i => (ds, elemDst k i) :: (match elemSrc s x [] k i with
        | .addr va => [(ss, va)]
        | _ => [])
    else []
  | .gather _ dst _ _ _ n is ds _ =>
    if recValid dst then
      (List.range (recExt dst 0 * n)).flatMap fun i => (ds, elemDst k i) :: ((elemIndex k i).map fun a => (is, a.2)).toList
    else []
  | .coll .. => match collReq k with
    | some q => (q.srcs.map fun a => (q.sspace, a)) ++ q.dsts.map fun a => (q.dspace, a)
    | none => []
  | .osfill ty sp _ addr desc scale | .ossave ty sp _ addr desc scale =>
    rows ty sp (descRows desc) addr desc ++ (if ty = 13 then [(sp, scale), (sp, scale + BitVec.ofNat 64 (8 * descRows desc - 1))] else [])
  | .drainMem ty _ _ sp addr desc => rows ty sp 64 addr desc
  | _ => []
/-- A place of a command of a team lies in the scratchpad of a team: its own by `.sp`, any of its grid by a window of kind 0 (R314). -/
def inScratch (tm owner : TRef) (x : Nat × Word64) : Bool :=
  (x.1 == 1 && owner == tm) ||
    (x.1 == 2 && decide (owner.grid = tm.grid) && decide (bits x.2 61 3 = 0) && decide (bits x.2 29 32 = tm.team))
def State.kindNames (s : State) (tm owner : TRef) (k : CmdKind) : Bool := (s.placesOf owner k).any (inScratch tm owner)
/-- A load that waits at its target names the scratchpad of a team (R313). -/
def Group.probes (tm : TRef) (g : Group) : Bool :=
  match g.round with
  | none => false
  | some rd => (rd.a.toList ++ rd.b.toList).any fun r => ((r.probe.map (·.lanes)).getD []).any fun l => match l.2.2 with
    | .scratch u _ => u == tm
    | _ => false
/-- An engine operation, or a load that waits, names the scratchpad of a team (R98, R319). -/
def State.namesScratch (s : State) (tm : TRef) : Bool :=
  s.cmds.any (fun c => s.kindNames tm c.g.tref c.kind) ||
    s.bf.any (fun p => (p.2.queue ++ (match p.2.latch with
      | some l => l.parts
      | none => [])).any fun c => match c.kind with
        | .inl k => s.kindNames tm c.team k
        | .inr _ => false) ||
    s.groups.any (Group.probes tm)

/-- The range is released; the team is gone once its digest is known, and an ended grid with its last team. -/
def releaseStep (s : State) (tm : TRef) : Option State :=
  (s.team? tm).bind fun t =>
    if !t.exited || s.namesScratch tm then none
    else
      let s := ((s.setTeam { t with released := true }).noteDigest tm).tryEnd tm.grid
      let known := !s.det tm.grid || ((s.grid? tm.grid).map fun g => g.digests.any fun p => p.1 == tm.team).getD true
      if !known then some s
      else
        let s := { s with teams := s.teams.filter fun x => decide (x.ref ≠ tm)
                          groups := s.groups.filter fun x => decide (x.ref.tref ≠ tm) }
        some s.dropEnded
def execTeamScratchRelease (tm : TRef) (s : State) : Host.Outcome State Fault Refusal := event s (releaseStep s tm)

end Sys2Proof.Machine
end

