-- ==== Sys2Proof/Machine/Distributor.lean ====
section
/-!
DEFINITION. The distributor (05_launch_and_scheduling.md R100 to R126): heads of launch queues, dependences, the start of grids, the
placement of teams, team swap; and the end of a killed grid (18 R451).
-/
namespace Sys2Proof.Machine
open Sys2Proof

/-! ### Heads (R102, R104, R106 to R110) -/

/-- The reserved bits of a packet: first bit and count (R104). -/
def reservedBits : List (Nat × Nat) :=
  [(127, 1), (170, 22), (247, 9), (298, 22), (368, 16), (432, 16), (505, 7), (569, 7), (633, 7), (697, 7), (761, 7), (825, 7), (889, 7)]

/-- The Shape check. -/
def shapeOk (p : Packet) : Bool :=
  decide (1 ≤ pkGroups p) && decide (pkGroups p ≤ 48) && decide (1 ≤ pkRoles p) && decide (pkRoles p ≤ 4) &&
    ((List.range 4).all fun r =>
      if r < pkRoles p then
        decide (pkRoleGroups p r ≠ 0) && decide (8 ≤ pkVregs p r) && decide (pkVregs p r ≤ 128) && decide (pkVregs p r % 8 = 0) &&
          (pkXregs p r == 0 || pkXregs p r == 8 || pkXregs p r == 16 || pkXregs p r == 32)
      else pkRole p r == 0) &&
    decide (pkRoleBase p 4 = pkGroups p) && decide (bits p 136 13 ≤ 128 * pkGroups p)

/-- A completion counter that names one: R104's alignment and reserved bits. -/
def ccntOk (p : Packet) : Bool := decide ((pkCcnt p).toNat % 8 = 0) && decide (bits p 697 7 = 0)

/-- The checks of R106. -/
def packetOk (p : Packet) : Bool :=
  (reservedBits.all fun r => bits p r.1 r.2 == 0) &&
  decide (bits p 57 7 = 3) &&
  decide (pkCode p ≠ 0) && decide ((pkCode p).toNat % 8 = 0) &&
  shapeOk p &&
  decide (pkScratch p % 64 = 0) && decide (pkLogScr p ≤ 49152) && decide (pkLogScr p % 256 = 0) &&
    decide (pkLogSpill p ≤ 2 ^ 31) && decide (pkLogSpill p % 256 = 0) && decide (pkRangeBytes p ≤ 4194304) &&
  decide (pkAff p ≠ 3) && decide (pkTa p ≤ 20) && decide (pkTb p ≤ 20) &&
    !(decide (pkAff p = 2) && (decide (pkAffTable p = 0) || decide ((pkAffTable p).toNat % 2 = 1))) &&
  decide ((pkDepBase p).toNat % 4096 = 0) && decide ((pkWmOut p).toNat % 8 = 0) && decide ((pkWmExp p).toNat % 8 = 0) &&
    decide ((pkCcnt p).toNat % 8 = 0) && decide ((pkImage p).toNat % 4096 = 0) && decide ((pkAffTable p).toNat % 2 = 0) &&
    decide (pkImage p ≠ 0) &&
  decide (pkDepN p ≤ 4) && !(decide (0 < pkDepN p) && decide (pkDepBase p = 0))

/-- A head is consumed. -/
def State.consume (s : State) (qn : Nat) : State :=
  let q := s.queue qn
  s.setQueue qn { q with read := q.read + 1, head := none }

/-- A rejected packet: consumed, a record, the counter marked failed (R106, R108), once the counter's page is zeroed (R422). A CCNT that
breaks its alignment names no counter, whichever check rejected the packet. DESIGN CHOICE: R106 and R109 speak only of the packet that
is rejected for it (log 71). -/
def State.rejectHead (s : State) (qn cause : Nat) (addr : Word64) (p : Packet) : State :=
  let q := s.queue qn
  match if ccntOk p then s.counterWaits q.asid hostUnit (pkClass p) (pkCcnt p) else none with
  | some s => s
  | none =>
    let s := (s.consume qn).record q.asid { kind := 1, final := cause, addr := addr }
    if ccntOk p then s.gridCounter q.asid 0 (pkCcnt p) failMark else s

/-- The address of a dependence counter (R107). -/
def depVa (p : Packet) (k : Nat) : Word64 := pkDepBase p + BitVec.ofNat 64 (8 * (pkDep p k % 512))

/-- The unmet dependences of a head are read, where the budgets of their stacks have room (R107, R108, R110, R428). -/
def State.checkDeps (s : State) (qn : Nat) : State :=
  let q := s.queue qn
  match q.head, s.ctx? q.asid with
  | some h, some c =>
    let left := (List.range (pkDepN h.pkt)).filter fun k => !h.met.contains k
    let reads := left.map fun k => (k, s.readCounter hostUnit c (depVa h.pkt k))
    let lines := (reads.filter fun r => r.2 != .zero).flatMap fun r => s.vaLines hostUnit c .read (depVa h.pkt r.1)
    if !s.linesOpen q.asid (pkClass h.pkt) lines then s.bump else
    let s := s.chargeLines q.asid (pkClass h.pkt) lines
    let bad := reads.find? fun r => match r.2 with
      | .fault _ => true
      | .val v => v.getLsbD 63
      | .zero => false
    match bad with
    | some (k, _) => s.rejectHead qn 34 (depVa h.pkt k) h.pkt
    | none =>
      let zeros := reads.filter fun r => r.2 == .zero
      let s := zeros.foldl (fun s r => s.startZero c (depVa h.pkt r.1)) s
      let met := h.met ++ (reads.filter fun r => match r.2 with
        | .val v => decide (pkDep h.pkt r.1 / 512 ≤ bits v 0 63)
        | _ => false).map (·.1)
      let ready := h.ready.or (if met.length = pkDepN h.pkt then some s.cycle else none)
      s.setQueue qn { s.queue qn with head := some { h with met := met, ready := ready } }
  | _, _ => s

/-- HEAD_EXAMINE (R102, R106, R110). Its two lines count in the class of the packet, and wait for the budgets of their stacks; those of a walk
that fails in the class of the context's walks (R428; log 9). -/
def headStep (s : State) (qn : Nat) : Option State :=
  let q := s.queue qn
  (s.ctx? q.asid).bind fun c =>
    if s.dev.state ≠ 3 || !q.en || q.head.isSome || q.read == q.write then none
    else
      let va := q.slot q.read.toNat
      match s.waitZero hostUnit c .read va 128 with
      | some s => some s
      | none =>
        match s.readVa hostUnit c va 128 with
        | none =>
          let cls := s.walkClass c.asid
          if !s.linesOpen c.asid cls (s.vaLines hostUnit c .read va) then some s.bump
          else some (((s.chargeVa hostUnit c cls va).consume qn).record q.asid { kind := 1, final := 33, addr := va })
        | some bs =>
          let p : Packet := BitVec.ofNat 1024 (leNat bs)
          let lines := s.vaLines hostUnit c .read va ++ s.vaLines hostUnit c .read (va + 64)
          if !s.linesOpen c.asid (pkClass p) lines then some s.bump else
          let s := (s.chargeVa hostUnit c (pkClass p) va).chargeVa hostUnit c (pkClass p) (va + 64)
          if !packetOk p then some (s.rejectHead qn 33 va p)
          else some ((s.setQueue qn { q with head := some { pkt := p, at_ := va } }).checkDeps qn)
def execHeadExamine (q : Nat) (s : State) : Host.Outcome State Fault Refusal := event s (headStep s q)
/-- DEP_COUNTER_RECHECK (R107). -/
def execDepCounterRecheck (q : Nat) (s : State) : Host.Outcome State Fault Refusal :=
  event s (if ((s.queue q).head.map (·.ready.isNone)).getD false then some (s.checkDeps q) else none)

/-! ### The start of a grid (R111, R448) -/

/-- Some budget of a class is exhausted in the current period (R111, R427). -/
def State.exhausted (s : State) (asid cls : Nat) : Bool := (List.range 30).any fun e => !s.admitted asid cls e
/-- The order in which ready heads start, least first. -/
def State.headKey (s : State) (qn : Nat) (h : Head) (ready : Nat) : Nat :=
  (((3 - pkPrio h.pkt) * 2 + (if s.exhausted (s.queue qn).asid (pkClass h.pkt) then 1 else 0)) * 2 ^ 128 + ready) * 64 + qn
/-- The lowest free grid slot. -/
def State.freeGridSlot (s : State) : Option Nat :=
  let used := (s.grids.filter fun g => !g.ended).map (·.slot)
  (List.range 256).find? fun k => !used.contains k

/-- The heads that are ready in a valid context: queue, head, and the moment since which it is ready. -/
def State.readyHeads (s : State) : List (Nat × Head × Nat) :=
  (List.range 64).filterMap fun qn => (s.queue qn).head.bind fun h =>
    if (s.ctx? (s.queue qn).asid).isNone then none else h.ready.map fun r => (qn, h, r)
/-! ### Preferences (R113) -/

def linearPref (T : Nat) : Pref := { die := T % 8, slice := T / 8 % 24 }
/-- The coordinates of a team (R105). -/
def teamXyz (p : Packet) (T : Nat) : Nat × Nat × Nat :=
  (T % (pkGx p + 1), T / (pkGx p + 1) % (pkGy p + 1), T / (pkGx p + 1) / (pkGy p + 1))
/-- R113; or the machine that waits for the page or the stack of a table entry (R422, R428). -/
def State.prefOf (s : State) (c : Context) (p : Packet) (T : Nat) : Except State Pref :=
  match pkAff p with
  | 1 =>
    let u := (teamXyz p T).1 / 2 ^ pkTa p
    let w := (teamXyz p T).2.1 / 2 ^ pkTb p
    .ok { die := 4 * (w % 2) + u % 4, slice := ((u / 4) ^^^ (w / 2)) % 24 }
  | 2 =>
    let va := pkAffTable p + BitVec.ofNat 64 (2 * T)
    match s.vaWaits hostUnit c (pkClass p) .read va 2 with
    | some s => .error s
    | none =>
      match s.readVa hostUnit c va 2 with
      | none => .ok (linearPref T)
      | some bs =>
        let e := leNat bs
        let core := e % 512
        let slice := e / 512 % 32
        .ok (if numCores ≤ core ∨ 24 ≤ slice then linearPref T else { die := dieOf core, slice := slice, core := some core })
  | _ => .ok (linearPref T)
/-- A team takes its preference, and the line of its table entry counts at HBM (R428). -/
def State.chargePref (s : State) (c : Context) (p : Packet) (T : Nat) : State :=
  if pkAff p = 2 then s.chargeVa hostUnit c (pkClass p) (pkAffTable p + BitVec.ofNat 64 (2 * T)) else s
/-- The preference of a grid's next team, fixed as it becomes the next; where its table entry is on a page that is zeroing, that is left to
a later try (R113, R422). -/
def State.fixWish (s : State) (grid : Nat) : State :=
  match s.grid? grid, s.gridCtx? grid with
  | some g, some c =>
    if g.wish.isSome || decide (pkTeams g.pkt ≤ g.nextTeam) then s
    else match s.prefOf c g.pkt g.nextTeam with
      | .ok f => (s.setGrid { g with wish := some { pref := f } }).chargePref c g.pkt g.nextTeam
      | .error s => s
  | _, _ => s

def gridStartStep (s : State) : Option State :=
  if s.dev.state ≠ 3 then none else
  (argMin (fun x => s.headKey x.1 x.2.1 x.2.2) s.readyHeads).bind fun (qn, h, _) =>
  s.freeGridSlot.map fun slot =>
    let g : Grid := { id := s.dev.gridIds, slot := slot, asid := (s.queue qn).asid, pkt := h.pkt }
    let s := s.consume qn
    { s with grids := s.grids ++ [g], dev := { s.dev with gridIds := s.dev.gridIds + 1 } }.fixWish g.id.toNat
def execGridStart (s : State) : Host.Outcome State Fault Refusal := event s (gridStartStep s)

/-! ### Placement (R114 to R117) -/

/-- The groups that hold slots on a core. A group that has exited keeps its slot until its team exits: R116 ends its hold at the exit, R98
releases a team's slots at the exit of the team. DESIGN CHOICE (log 72). -/
def State.groupsOn (s : State) (core : Nat) : List Group :=
  s.groups.filter fun g => decide (g.core = core) && ((s.team? g.ref.tref).map fun t => t.resident && !t.exited).getD false
def State.freeSlots (s : State) (core : Nat) : Nat := 96 - (s.groupsOn core).length
/-- The scratchpad ranges in use on a core. -/
def State.rangesOn (s : State) (core : Nat) : List (Nat × Nat) :=
  s.teams.filterMap fun t =>
    if !t.resident || t.released || t.size = 0 then none
    else (t.cores.zip t.bases).findSome? fun x => if x.1 = core then some (x.2, t.size) else none
/-- The lowest free range of `n` bytes. -/
def freeRange (used : List (Nat × Nat)) (n : Nat) : Option Nat :=
  argMin id ((0 :: used.map fun r => r.1 + r.2).filter fun b =>
    decide (b + n ≤ scratchBytes) && used.all fun r => decide (r.1 + r.2 ≤ b) || decide (b + n ≤ r.1))

/-- Bytes of a team's part on each of its cores (R114, R117). -/
def partBytes (p : Packet) : Nat :=
  if pkQuad p then roundUpTo ((pkRangeBytes p + 3) / 4) 64 else roundUpTo (pkRangeBytes p) 64
/-- Groups of a team on core `i` of its cores. -/
def groupsAt (p : Packet) (i : Nat) : Nat :=
  if pkQuad p then ((List.range (pkGroups p)).filter fun g => decide (g % 4 = i)).length else pkGroups p

/-- Room on the cores from `core` on for a team whose engines are to be free where `bf` names them: the bases of its ranges (R114,
R302). -/
def State.room (s : State) (p : Packet) (bf : List Nat) (core : Nat) : Option (List Nat) :=
  (List.range (if pkQuad p then 4 else 1)).mapM fun i =>
    let c := core + i
    let e := s.bfOf c
    if s.freeSlots c < groupsAt p i ∨ (bf.contains i ∧ (e.holder.isSome ∨ !e.queue.isEmpty)) then none
    else freeRange (s.rangesOn c) (partBytes p)

/-- The lowest free frame of a grid (R94). -/
def State.freeFrame (s : State) (g : Grid) : Option Nat :=
  let used := ((s.gridTeams g.id.toNat).filter fun t => !t.exited).map (·.frame)
  (List.range (min (pkFrameCount g.pkt) (used.length + 1))).find? fun f => !used.contains f

/-- The core of a die that takes a team: most free slots, ties to the lower number; the lowest quad for a quad team (R115). -/
def State.coreOn (s : State) (p : Packet) (bf : List Nat) (die : Nat) : Option Nat :=
  if pkQuad p then ((List.range 10).map fun q => 40 * die + 4 * q).find? fun c => (s.room p bf c).isSome
  else argMin (fun c => (96 - s.freeSlots c) * 512 + c)
    (((List.range 40).map (40 * die + ·)).filter fun c => (s.room p bf c).isSome)

/-- Where a team goes now; `late` says that its wait for its preferred die is over (R115). -/
def State.findPlace (s : State) (p : Packet) (bf : List Nat) (f : Pref) (late : Bool) : Option Nat :=
  let table := f.core.bind fun c => if !pkQuad p && (s.room p bf c).isSome then some c else none
  table.or ((s.coreOn p bf f.die).or
    (if late then
      (argMin (fun d => hops f.die d * 8 + d) ((List.range 8).filter fun d => (s.coreOn p bf d).isSome)).bind (s.coreOn p bf ·)
     else none))

/-- A group takes the partition with the most free slots and its lowest free slot (R116). -/
def State.takePart (s : State) (g : Group) (core : Nat) : Group :=
  let here := s.groupsOn core
  let inPart (p : Nat) : List Group := here.filter fun x => decide (x.part = p)
  let p := (argMin (fun p => (inPart p).length * 8 + p) (List.range partsPerCore)).getD 0
  let slot := ((List.range slotsPerPart).find? fun k => !here.any fun x => decide (x.slot = slotsPerPart * p + k)).getD 0
  { g with core := core, part := p, slot := slotsPerPart * p + slot }
/-- Referrals of a team that a swap-out abandoned are issued again at the engines of the cores it now has (R256). -/
def State.referAgain (s : State) (tm : TRef) : State :=
  let mine := s.referrals.filter fun r => r.g.tref == tm
  { s with referrals := s.referrals.filter (fun r => !(r.g.tref == tm)) ++
      mine.map fun r => { r with core := ((s.group? r.g).map (·.core)).getD r.core } }
/-- The groups of a team take their places in turn. -/
def State.seat (s : State) (t : Team) : State :=
  State.referAgain (tm := t.ref) <| (List.range ((s.teamGroups t.ref).length)).foldl (fun s k =>
    let gr : GRef := { grid := t.ref.grid, team := t.ref.team, group := k }
    match s.group? gr with
    | none => s
    | some g =>
      let others := { s with groups := s.groups.filter fun x => !(decide (x.ref.tref = t.ref) && decide (k ≤ x.ref.group)) }
      s.setGroup (others.takePart g (if t.quad then t.core + k % 4 else t.core))) s

/-- The cores of a team are renewed and their instruction caches invalidated (R328, R341). -/
def State.freshen (s : State) (t : Team) : State := t.cores.foldl (fun s c => (s.renew c).codeInvalidate c) s

/-- A group as its team's dispatch leaves it (R75, R77). -/
def newGroup (p : Packet) (grid T g : Nat) : Group :=
  let role := pkRoleOf p g
  let (tx, ty, tz) := teamXyz p T
  let put (s : Table SCell) (n v : Nat) : Table SCell := Table.set {} s n { w := BitVec.ofNat 64 v }
  let s3 := g + role * 2 ^ 8 + (g - pkRoleBase p role) * 2 ^ 16
  let regs := put (put (put (put (put [] 0 (pkArgs p).toNat) 1 T) 2 (tx + ty * 2 ^ 21 + tz * 2 ^ 42)) 3 s3) 4 ((T * pkGroups p + g) * 128)
  { ref := { grid := grid, team := T, group := g }, role := role, s := regs, ss := pkStep p
    lanes := (List.range 128).map fun t =>
      let st : Status := if 128 * g + t < pkThreads p then .live else .never
      { st := st, pc := pkCode p, v := Table.set {} [] 0 { w := BitVec.ofNat 32 t } } }

/-- A team of no threads has exited as it is dispatched. -/
def State.tryExitAll (s : State) (tm : TRef) : State :=
  match (s.teamGroups tm).head? with
  | some g => if (s.teamGroups tm).all Group.gone then s.tryExit g else s
  | none => s

/-! ### The next team of a grid, and a team that comes back (R115, R123, R125) -/

def State.swappedOut (s : State) (grid : Nat) : List Team := (s.gridTeams grid).filter fun t => !t.resident && !t.exited
def lowestTeam (l : List Team) : Option Team := argMin (fun (t : Team) => t.ref.team) l
def highestTeam (l : List Team) : Option Team :=
  l.foldl (fun m t => match m with
    | none => some t
    | some x => if x.ref.team < t.ref.team then some t else some x) none
/-- The resident teams of a grid. -/
def State.residents (s : State) (grid : Nat) : List Team := (s.gridTeams grid).filter fun t => t.resident && !t.exited
/-- Under SERIAL a resident team keeps every other away (R126). -/
def State.serialBusy (s : State) (g : Grid) : Bool := pkSerial g.pkt && !(s.residents g.id.toNat).isEmpty
/-- The swapped-out team of a grid that comes back next: the lowest of those that have been asked to (R125). -/
def State.comingBack (s : State) (g : Grid) : Option Team :=
  if g.kill.isSome || g.ended || s.serialBusy g then none else lowestTeam ((s.swappedOut g.id.toNat).filter (·.asking))
/-- Where it goes now. -/
def State.backAt (s : State) (g : Grid) (t : Team) : Option Nat :=
  t.wish.bind fun w => s.findPlace g.pkt (t.savedBf.map (·.1)) w.pref w.expired
/-- A grid has a next team to dispatch. -/
def State.hasNext (s : State) (g : Grid) : Bool :=
  !(g.kill.isSome || g.ended || decide (pkTeams g.pkt ≤ g.nextTeam) || (s.swappedOut g.id.toNat).any (·.asking) || s.serialBusy g)
/-- Where its next team goes now, by its wish: a free frame and a core (R114). -/
def State.nextAt (s : State) (g : Grid) (w : Wish) : Option (Nat × Nat) :=
  (s.freeFrame g).bind fun f => (s.findPlace g.pkt [] w.pref w.expired).map fun core => (f, core)
/-- A grid places a team now. -/
def State.placesNow (s : State) (g : Grid) : Bool :=
  ((s.comingBack g).bind (s.backAt g)).isSome || (s.hasNext g && (g.wish.bind (s.nextAt g)).isSome)
/-- The place of a grid in the order of R111, least first; among equals the one started earlier. -/
def State.gridKey (s : State) (g : Grid) : Nat := (3 - pkPrio g.pkt) * 2 + (if s.exhausted g.asid (pkClass g.pkt) then 1 else 0)
/-- A grid before another in that order places a team now (R115). -/
def State.yields (s : State) (g : Grid) : Bool :=
  (s.grids.filter fun x => decide (s.gridKey x < s.gridKey g)).any s.placesNow ||
    ((s.grids.takeWhile fun x => decide (x.id ≠ g.id)).filter fun x => decide (s.gridKey x = s.gridKey g)).any s.placesNow

/-- TEAM_PLACE (R94, R115 to R117, R126): the next team of a grid is placed, or its wait for its preferred die begins: it finds no room
also while its grid has no free frame (R114). -/
def placeStep (s : State) (grid : Nat) : Option State :=
  (s.grid? grid).bind fun g =>
    let p := g.pkt
    let T := g.nextTeam
    if !s.hasNext g then none else
    match g.wish with
    | none => some (s.fixWish grid)
    | some w =>
      match s.nextAt g w with
      | none => some (s.setGrid { g with wish := some { w with since := w.since.or (some s.cycle) } })
      | some (frame, core) =>
        if s.yields g then none
        else
          let (tx, ty, tz) := teamXyz p T
          let t : Team := { ref := { grid := grid, team := T }, tx := tx, ty := ty, tz := tz, frame := frame, core := core
                            quad := pkQuad p, prefDie := w.pref.die, prefSlice := w.pref.slice, bases := (s.room p [] core).getD [0]
                            size := partBytes p, serial := s.serials }
          let s := s.setGrid { g with nextTeam := T + 1, wish := none, waiting := none }
          let s := { s with teams := s.teams ++ [t], groups := s.groups ++ (List.range (pkGroups p)).map (newGroup p grid T)
                            serials := s.serials + 1 }
          let s := ((s.seat t).freshen t).fixWish grid
          some (s.tryExitAll t.ref)
def execTeamPlace (grid : Nat) (s : State) : Host.Outcome State Fault Refusal := event s (placeStep s grid)

/-- A wait for a preferred die is over after 2,048 cycles (R115). -/
def Wish.expire (now : Nat) (w : Wish) : Wish :=
  if ((w.since.map fun c => decide (c + 2048 ≤ now)).getD false) then { w with expired := true } else w
/-- PLACEMENT_TIMEOUT (R115): of the next team of a grid, and of its teams that come back. -/
def execPlacementTimeout (grid : Nat) (s : State) : Host.Outcome State Fault Refusal :=
  event s (some { s with
    grids := s.grids.map fun g => if g.id.toNat = grid then { g with wish := g.wish.map (Wish.expire s.cycle) } else g
    teams := s.teams.map fun t => if t.ref.grid = grid then { t with wish := t.wish.map (Wish.expire s.cycle) } else t })

/-! ### Team swap (R122 to R125) -/

/-- Some core or quad has room for a swapped-out team; under SERIAL none has while a team is resident (R126). -/
def State.roomAnywhere (s : State) (g : Grid) (t : Team) : Bool :=
  !s.serialBusy g && (List.range 8).any fun d => (s.coreOn g.pkt (t.savedBf.map (·.1)) d).isSome

/-- SWAP_TRIGGER (R123): the swapped-out team asked to come back is the lowest of those that were out before this swap (DEDUCED from R125:
the room that a team's own swap-out releases never makes it resume; log 73). -/
def swapTriggerStep (s : State) (grid : Nat) : Option State :=
  (s.grid? grid).bind fun g =>
  g.waiting.bind fun c =>
    let res := s.residents grid
    if g.kill.isSome || decide (s.cycle < c + 65536) || res.any (·.leaving) || !s.waitingGrid grid then none
    else
      let out (s : State) : State := match highestTeam res with
        | some t => s.setTeam { t with leaving := true }
        | none => s
      let s := s.setGrid { g with waiting := none }
      if g.nextTeam < pkTeams g.pkt then
        if (s.freeFrame g).isSome then some (out s) else none
      else
        (lowestTeam (s.swappedOut grid)).map fun t =>
          let s1 := s.setTeam { t with asking := true }
          if s.roomAnywhere g t then s1 else out s1
def execSwapTrigger (grid : Nat) (s : State) : Host.Outcome State Fault Refusal := event s (swapTriggerStep s grid)

/-- Some addresses are reached through the REG path; an error is a page that is zeroing, or none for a failure. -/
def State.reach (s : State) (c : Context) (core : Nat) (need : Need) (l : List Word64) : Except (Option Word64) Unit :=
  l.foldl (fun (r : Except (Option Word64) Unit) a =>
    match r with
    | .error e => .error e
    | .ok _ => match s.accessImage core c need a with
      | .ok _ => .ok ()
      | .zero => .error (some a)
      | _ => .error none) (.ok ())
/-- The pages of `n` bytes from a page on. -/
def pagesOf (va : Word64) (n : Nat) : List Word64 := (List.range ((n + 4095) / 4096)).map fun k => va + BitVec.ofNat 64 (4096 * k)
/-- The lines that a transfer through the REG path moves. -/
def State.regLines (s : State) (c : Context) (core : Nat) (need : Need) (va : Word64) (l : List Nat) : List Nat :=
  ((l.map (· / 64)).dedup).filterMap fun k => match s.accessImage core c need (va + BitVec.ofNat 64 (64 * k)) with
    | .ok pa => some (64 * (pa / 64))
    | _ => none
/-- The same, with the walks of its pages (R424, R428). -/
def State.regCost (s : State) (c : Context) (core : Nat) (need : Need) (va : Word64) (l : List Nat) : List Nat :=
  ((l.map (· / 4096)).dedup).flatMap (fun k => s.xlatReads core c (va + BitVec.ofNat 64 (4096 * k))) ++ s.regLines c core need va l
/-- A read of bytes through the REG path meets poison (R124, R455). -/
def State.regPoison (s : State) (c : Context) (core : Nat) (va : Word64) (l : List Nat) : Bool :=
  (s.regLines c core .read va l).any fun pa => s.poisoned pa 64
/-- Scattered bytes written through the REG path (R124, R320). -/
def State.regWrite (s : State) (c : Context) (core : Nat) (va : Word64) (l : List (Nat × Byte)) : State :=
  ((l.map fun p => p.1 / 64).dedup).foldl (fun s k =>
    s.homeScatter .outside ((l.filter fun p => decide (p.1 / 64 = k)).filterMap fun p =>
      match s.accessImage core c .write (va + BitVec.ofNat 64 p.1) with
      | .ok pa => some (pa, p.2)
      | _ => none)) s
/-- A byte as the REG path reads it. -/
def State.regByte (s : State) (c : Context) (core : Nat) (va : Word64) (k : Nat) : Byte :=
  match s.accessImage core c .read (va + BitVec.ofNat 64 k) with
  | .ok pa => s.home.byte pa
  | _ => 0
/-- A byte of a team's range: its scratchpad, and behind it the log's scratch segment. One that nothing has written holds a free value (log
5). -/
def rangeByte (p : Packet) (t : Team) (i : Nat) : Byte :=
  if i < pkScratch p then t.spByte i
  else match t.log.nodes.find? fun x => decide (x.1 = (i - pkScratch p) / 16) with
    | some x => BitVec.ofNat 8 (x.2.toNat / 256 ^ ((i - pkScratch p) % 16))
    | none => Config.scratchByte t.serial i
/-- The bytes of a range, which a swap-out writes whole (R124). -/
def rangeBytes (p : Packet) (t : Team) : List (Nat × Byte) := (List.range (pkRangeBytes p)).map fun i => (i, rangeByte p t i)
/-- The range of a team holds a poisoned line or node, so that a transfer of it fails (R124, R455). -/
def Team.rangePoison (p : Packet) (t : Team) : Bool :=
  t.spPoison.any (fun l => decide (64 * l < pkScratch p)) || t.log.poison.any fun i => decide (i < pkLogScr p)
/-- A team whose range holds some bytes. -/
def Team.withRange (p : Packet) (rd : Nat → Byte) (t : Team) : Team :=
  let node (x : Nat × BitVec 128) : Nat × BitVec 128 :=
    if x.1 < pkLogScr p then (x.1, BitVec.ofNat 128 (leNat ((List.range 16).map fun i => rd (pkScratch p + 16 * x.1 + i)))) else x
  { t with
    scratch := (List.range (pkScratch p)).foldl (fun m i => if rd i = t.spByte i then m else Table.set none m i (some (rd i))) t.scratch
    log := { t.log with nodes := t.log.nodes.map node } }

/-- A deferred write waits for lanes that the word has referred and that are not decided yet, which the resume refers again (R256, R453). -/
def Deferred.referral (g : Group) (d : Deferred) : Bool := (d.decision?.map fun x => (g.answersOf x.1 x.2).isNone).getD false
/-- A group may leave its core: its round has ended, but for referrals, which it abandons (R453). -/
def Group.mayLeave (g : Group) : Bool :=
  g.settled && g.outbox.isEmpty && (if g.pend.isEmpty then g.round.isNone else g.pend.all (Deferred.referral g))

/-- The engine of a core stands at a point where R302 saves it. -/
def BfEngine.atRest (e : BfEngine) : Bool :=
  e.queue.all fun c => !c.begun || (match c.peers[c.part]? with
    | some p => (stageOf (.inl p.kind)).isSome
    | none => (stageOf c.kind).isSome)
/-- The slots and accumulators that R302 saves. -/
def savedSlots (e : BfEngine) : List Nat := (List.range 32).filter fun k => (e.slot k).claimed && (e.slot k).tag ≠ 0
def savedAccs (e : BfEngine) : List Nat := (List.range 8).filter fun n => (e.acc n).dirty

/-! The butterfly save area (R454). -/

def bfLatchBytes (e : BfEngine) : List Byte :=
  match e.latch with
  | none => leBytes 0 16
  | some l => leBytes (1 + (if l.chain then 2 else 0) + l.k * 4 + l.tag * 32 + (l.parts.foldl (fun n p => n + 2 ^ (p.g.group + 56)) 0)) 16
def accHeader (a : BfAcc) : List Byte := (List.range 32).map fun i => a.byte (0x20000 + i)
/-- The head of the area: bitmaps, slot entries, accumulator headers, stride registers, GANG, latch. -/
def bfHead (e : BfEngine) : List (Nat × Byte) :=
  let put (at_ : Nat) (l : List Byte) : List (Nat × Byte) := l.zipIdx.map fun b => (at_ + b.2, b.1)
  put 0 (leBytes (1 + ((savedSlots e).foldl (fun n k => n + 2 ^ (8 + k)) 0) + (savedAccs e).foldl (fun n k => n + 2 ^ (40 + k)) 0) 8) ++
  ((savedSlots e).flatMap fun k =>
    let x := e.slot k
    put (0x10 + 16 * k) ([BitVec.ofNat 8 ((if x.claimed then 1 else 0) + x.tag * 16), BitVec.ofNat 8 x.rows, 0, 0] ++
      leBytes x.scale.toNat 4)) ++
  ((savedAccs e).flatMap fun n => put (0x210 + 32 * n) (accHeader (e.acc n))) ++
  ((List.range 8).flatMap fun k => put (0x310 + 4 * k) (leBytes (Table.get 0 e.bst k).toNat 4)) ++
  put 0x330 (leBytes e.gang.toNat 8) ++ put 0x338 (bfLatchBytes e)
/-- The element arrays, side-stores and accumulators that are saved, whole; of an accumulator, the rows below ROWS (R283, R302). -/
def bfBody (e : BfEngine) : List (Nat × Byte) :=
  ((savedSlots e).flatMap fun k =>
    ((e.slot k).read false 0 32768).zipIdx.map (fun b => (0x1000 + 32768 * k + b.2, b.1)) ++
      ((e.slot k).read true 0 512).zipIdx.map fun b => (0x101000 + 512 * k + b.2, b.1)) ++
  ((savedAccs e).flatMap fun n =>
    (List.range (2048 * (e.acc n).rows)).map fun i => (0x105000 + 0x20000 * n + i, (e.acc n).byte i))
/-- The queue region: bytes of the engine's own (log 10), with their CRC-64 behind them. -/
def bfQueueBytes (serial : Nat) (e : BfEngine) : List (Nat × Byte) :=
  let n := if e.queue.isEmpty && e.latch.isNone then 0 else 64
  let l := (List.range n).map (Config.bfQueueByte serial)
  let l := l ++ leBytes (crcUpd 0 l).toNat 8
  l.zipIdx.map fun b => (0x205000 + b.2, b.1)

/-- All that is written of an engine. -/
def bfArea (serial : Nat) (e : BfEngine) : List (Nat × Byte) := bfHead e ++ bfBody e ++ bfQueueBytes serial e
/-- The pages that hold some offsets of an area. -/
def areaPages (va : Word64) (l : List Nat) : List Word64 := ((l.map fun n => n / 4096).dedup).map fun k => va + BitVec.ofNat 64 (4096 * k)
/-- The offsets of what a restore reads of an area whose bytes `rd` gives: the slots and accumulators that its bitmaps name, not those that
were saved (R454). -/
def bfReads (rd : Nat → Byte) (serial : Nat) (e : BfEngine) : List Nat :=
  let from_ (at_ n : Nat) : List Nat := (List.range n).map (at_ + ·)
  let named (k : Nat) : Bool := decide (leNat ((List.range 8).map rd) / 2 ^ k % 2 = 1)
  from_ 0 8 ++ from_ 0x310 56 ++
  ((List.range 32).filter fun k => named (8 + k)).flatMap (fun k =>
    from_ (0x10 + 16 * k) 8 ++ from_ (0x1000 + 32768 * k) 32768 ++ from_ (0x101000 + 512 * k) 512) ++
  ((List.range 8).filter fun n => named (40 + n)).flatMap (fun n =>
    from_ (0x210 + 32 * n) 32 ++ from_ (0x105000 + 0x20000 * n) (2048 * min 64 (rd (0x210 + 32 * n + 2)).toNat)) ++
  (bfQueueBytes serial e).map (·.1)

/-- The engines that a team holds: the core of each among the team's cores. -/
def State.heldBf (s : State) (t : Team) : List (Nat × BfEngine) :=
  ((List.range t.cores.length).map fun i => (i, s.bfOf (t.core + i))).filter fun x => x.2.holder == some t.ref && !x.2.leaving
/-- Where an engine of a team is saved: the address and the bytes (R454). -/
def bfPlace (c : Context) (g : Grid) (t : Team) (x : Nat × BfEngine) : Word64 × List (Nat × Byte) :=
  (crBfSave c g.slot t.frame x.1, bfArea t.serial x.2)
/-- What a save writes: for each engine the core, the address of its area, and the offsets. -/
def bfSaved (c : Context) (g : Grid) (t : Team) (l : List (Nat × BfEngine)) : List (Nat × Word64 × List Nat) :=
  l.map fun x => (t.core + x.1, (bfPlace c g t x).1, (bfPlace c g t x).2.map (·.1))
/-- What a restore reads. -/
def State.bfNamed (s : State) (c : Context) (g : Grid) (t : Team) : List (Nat × Word64 × List Nat) :=
  t.savedBf.map fun x =>
    let va := (bfPlace c g t x).1
    (t.core + x.1, va, bfReads (s.regByte c (t.core + x.1) va) t.serial x.2)
/-- The pages of the save areas of engines are reached. -/
def State.bfReach (s : State) (c : Context) (need : Need) (l : List (Nat × Word64 × List Nat)) : Except (Option Word64) Unit :=
  l.foldl (fun (r : Except (Option Word64) Unit) x =>
    match r with
    | .error e => .error e
    | .ok _ => s.reach c x.1 need (areaPages x.2.1 x.2.2)) (.ok ())
/-- The lines that they move, with their walks. -/
def State.bfCost (s : State) (c : Context) (need : Need) (l : List (Nat × Word64 × List Nat)) : List Nat :=
  l.flatMap fun x => s.regCost c x.1 need x.2.1 x.2.2
/-- The engines of a leaving team are saved and freed (R302, R454). -/
def State.saveBf (s : State) (c : Context) (g : Grid) (t : Team) : State × Team :=
  (s.heldBf t).foldl (fun (r : State × Team) x =>
    ((r.1.regWrite c (t.core + x.1) (bfPlace c g t x).1 (bfPlace c g t x).2).setBf (t.core + x.1) {},
     { r.2 with savedBf := r.2.savedBf ++ [x] })) (s, t)

/-- COLLs that name the scratchpad are aborted, sweeps end at their next boundary (R124, R453). -/
def State.beginLeave (s : State) (tm : TRef) : State :=
  let s : State := { s with cmds := s.cmds.map fun (c : Command) => if c.g.tref = tm ∧ c.eng = 3 ∧ s.kindNames tm tm c.kind then { c with cancel := true } else c }
  (s.sheets.filter fun (x : Sheet) => decide (x.team = tm)).foldl (fun (s : State) x => s.preemptSheet x) s

/-- What still stands before a leaving team's swap-out: a group of it that has not stopped, an engine operation or a load that names its
scratchpad, a sheet's run, work in progress of an engine it holds (R124, R302, R453). -/
def State.mayGo (s : State) (tm : TRef) (t : Team) : Bool :=
  (s.teamGroups tm).all Group.mayLeave && !s.namesScratch tm && !(s.sheets.any fun x => decide (x.team = tm) && !x.runs.isEmpty) &&
    t.cores.all fun k => (s.bfOf k).holder ≠ some tm || (s.bfOf k).atRest
/-- The register lines of a team in the file: the core of each, and its address in the image. -/
def State.fileLines (s : State) (tm : TRef) : List (Nat × Word64) :=
  (s.teamGroups tm).flatMap fun x => x.linesIn.map fun l => (x.core, s.lineVa x l)
/-- A swapped-out team's group: what its slot held is dropped (R93). -/
def Group.leave (x : Group) : Group := { x with pauseTo := none, eligible := none, linesIn := [] }

/-- TEAM_SWAP_OUT (R124, R302, R325, R453): every page that it writes is reached, and the budgets of their stacks have room, before anything
is written. -/
def swapOutStep (s : State) (tm : TRef) : Option State :=
  (s.team? tm).bind fun t =>
  (s.grid? tm.grid).bind fun g =>
  (s.ctx? g.asid).bind fun c =>
    if !t.leaving || g.kill.isSome then none
    else
      let s := s.beginLeave tm
      if !s.mayGo tm t then some s
      else
        let cls := pkClass g.pkt
        let files := s.fileLines tm
        let bf := bfSaved c g t (s.heldBf t)
        let va := swapVa g.pkt t.frame
        let n := pkRangeBytes g.pkt
        let reached := files.foldl (fun (r : Except (Option Word64) Unit) x => match r with
          | .error e => .error e
          | .ok _ => s.reach c x.1 .write [x.2]) ((s.reach c t.core .write (pagesOf va n)).bind fun _ => s.bfReach c .write bf)
        match reached with
        | .error (some va) => some (s.startZero c va)
        | .error none => some (s.killTeamAt tm 32)
        | .ok _ =>
          let own := s.regCost c t.core .write va (List.range n) ++ s.bfCost c .write bf
          let lines := files.flatMap (fun x => s.regCost c x.1 .write x.2 [0, 64]) ++ own
          if t.rangePoison g.pkt then some (s.killTeamAt tm 32)
          else if !s.linesOpen c.asid cls lines then some s.bump
          else
            let (s, t) := ((s.postTeam tm).chargeLines c.asid cls own).saveBf c g t
            let s : State := (s.teamGroups tm).foldl (fun (s : State) (x : Group) => x.linesIn.foldl (fun (s : State) l =>
              match s.group? x.ref with
              | some x => s.saveRegLine x l
              | none => s) s) s
            let s := s.regWrite c t.core va (rangeBytes g.pkt t)
            let s := s.setTeam { t with resident := false, leaving := false, asking := false, wish := none }
            some { s with groups := s.groups.map fun x => if x.ref.tref = tm then x.leave else x }
def execTeamSwapOut (tm : TRef) (s : State) : Host.Outcome State Fault Refusal := event s (swapOutStep s tm)

/-- The latch as its 16 bytes hold it, with those of its participants that they name; the others, which the engine has accepted all the
same, stand at the head of the queue (log 10). -/
def latchRestore (v : Nat) (old : List BfCmd) : Option Latch × List BfCmd :=
  if v % 2 = 0 then (none, old)
  else
    let named (p : BfCmd) : Bool := decide (v / 2 ^ (p.g.group + 56) % 2 = 1)
    (some { chain := decide (v / 2 % 2 = 1), k := v / 4 % 8, tag := v / 32 % 65536, parts := old.filter named }, old.filter fun p => !named p)
/-- A window access that stands in the queue of a saved engine goes on at the engine of the core that it is restored to. -/
def BfCmd.onCore (core : Nat) (c : BfCmd) : BfCmd :=
  match c.kind with
  | .inr (.winWrite at_ bs t word) => { c with kind := .inr (.winWrite (at_.onCore core) bs t word) }
  | .inr (.winRead at_ n lane key) => { c with kind := .inr (.winRead (at_.onCore core) n lane key) }
  | _ => c
/-- The participants that wait in the latch of an engine. -/
def BfEngine.waiting (e : BfEngine) : List BfCmd := (e.latch.map (·.parts)).getD []

/-- The engine as the save area holds it (R302, R454), on a core: the bytes that memory now gives, and the queue where its own bytes are as
the engine left them. -/
def bfRestore (rd : Nat → Byte) (queueOk : Bool) (core : Nat) (e : BfEngine) : BfEngine :=
  let word (at_ n : Nat) : Nat := leNat ((List.range n).map fun i => rd (at_ + i))
  let slot (k : Nat) : BfSlot :=
    let b := (rd (0x10 + 16 * k)).toNat
    { claimed := b % 2 == 1, tag := b / 16, rows := (rd (0x10 + 16 * k + 1)).toNat
      scale := BitVec.ofNat 32 (word (0x10 + 16 * k + 4) 4)
      data := setBytes [] 0 ((List.range 32768).map fun i => rd (0x1000 + 32768 * k + i))
      side := setBytes [] 0 ((List.range 512).map fun i => rd (0x101000 + 512 * k + i))
      t := (e.slot k).t, poison := (e.slot k).poison }
  let acc (n : Nat) : BfAcc :=
    let h := word (0x210 + 32 * n) 32
    { elems := (List.range (256 * min 64 (h / 2 ^ 16 % 256))).foldl (fun m i => Table.set 0 m i (BitVec.ofNat 50 (word (0x105000 + 0x20000 * n + 8 * i) 8))) []
      g := (BitVec.ofNat 16 h).toInt, T := BitVec.ofNat 72 (h / 2 ^ 64), rows := h / 2 ^ 16 % 256
      tset := (h / 2 ^ 24) % 2 == 1, dirty := (h / 2 ^ 25) % 2 == 1, t := (e.acc n).t, poison := (e.acc n).poison }
  let latch := latchRestore (word 0x338 16) (if queueOk then e.waiting else [])
  { e with
    slots := (List.range 32).foldl (fun m k => if (word 0 8 / 2 ^ (8 + k)) % 2 = 1 then Table.put m k (slot k) else m) []
    accs := (List.range 8).foldl (fun m n => if (word 0 8 / 2 ^ (40 + n)) % 2 = 1 then Table.put m n (acc n) else m) []
    bst := (List.range 8).foldl (fun m k => Table.set 0 m k (BitVec.ofNat 32 (word (0x310 + 4 * k) 4))) []
    gang := BitVec.ofNat 39 (word 0x330 8)
    latch := latch.1
    queue := latch.2 ++ if queueOk then e.queue.map (BfCmd.onCore core) else [] }

/-- The commands that are restored with a queue whose bytes fail their CRC. -/
def State.lostBf (s : State) (c : Context) (g : Grid) (t : Team) (x : Nat × BfEngine) : List BfCmd :=
  if (bfQueueBytes t.serial x.2).all fun p => s.regByte c (t.core + x.1) (bfPlace c g t x).1 p.1 == p.2 then [] else x.2.queue ++ x.2.waiting
/-- The engines of a resumed team (R302, R454). The commands of a queue that fails its CRC complete BAD_STAGE. -/
def State.restoreBf (s : State) (c : Context) (g : Grid) (t : Team) : State :=
  t.savedBf.foldl (fun s x =>
    let core := t.core + x.1
    let lost := s.lostBf c g t x
    let s := s.setBf core (bfRestore (s.regByte c core (bfPlace c g t x).1) lost.isEmpty core x.2)
    lost.foldl (fun s c => bfDoneAll s core c 3 1) s) s
/-- Their completions wait for the adds at their counters (R422, R428). -/
def State.restoreWaits (s : State) (c : Context) (g : Grid) (t : Team) : Option State :=
  t.savedBf.findSome? fun x => bfHeldUp s (t.core + x.1) (s.lostBf c g t x)

/-- TEAM_RESUME (R113 to R117, R123 to R125, R302, R328, R341): the team that comes back next is placed, in the order of R111 among grids,
or its wait for its preferred die begins. Every page that it reads is reached, and the budgets of their stacks have room, before anything
is restored. -/
def resumeStep (s : State) (tm : TRef) : Option State :=
  (s.grid? tm.grid).bind fun g =>
  (s.ctx? g.asid).bind fun c =>
  ((s.comingBack g).filter fun t => t.ref == tm).bind fun t =>
    match t.wish with
    | none => match s.prefOf c g.pkt tm.team with
      | .ok f => some ((s.setTeam { t with wish := some { pref := f } }).chargePref c g.pkt tm.team)
      | .error s => some s
    | some w =>
      match s.backAt g t with
      | none => some (s.setTeam { t with wish := some { w with since := w.since.or (some s.cycle) } })
      | some core =>
        if s.yields g then none
        else
          let va := swapVa g.pkt t.frame
          let n := pkRangeBytes g.pkt
          let cls := pkClass g.pkt
          let t := { t with core := core }
          let bf := s.bfNamed c g t
          let lost := (s.bfReach c .read bf).bind fun _ => s.reach c core .read (pagesOf va n)
          match lost with
          | .error (some va) => some (s.startZero c va)
          | .error none => some (s.killTeamAt tm 32)
          | .ok _ =>
            let lines := s.regCost c core .read va (List.range n) ++ s.bfCost c .read bf
            let bad := s.regPoison c core va (List.range n) || bf.any fun x => s.regPoison c x.1 x.2.1 x.2.2
            if bad then some (s.killTeamAt tm 32)
            else if !s.linesOpen c.asid cls lines then some s.bump
            else (s.restoreWaits c g t).or <| some <|
              let t := { t.withRange g.pkt (s.regByte c core va) with
                bases := (s.room g.pkt (t.savedBf.map (·.1)) core).getD [0], prefDie := w.pref.die
                prefSlice := w.pref.slice, resident := true, asking := false, wish := none }
              let s := (s.chargeLines c.asid cls lines).restoreBf c g t
              let t := { t with savedBf := [] }
              (((s.setTeam t).setGrid { g with waiting := none }).seat t).freshen t
def execTeamResume (tm : TRef) (s : State) : Host.Outcome State Fault Refusal := event s (resumeStep s tm)

/-! ### KILL_COMPLETE (R109, R303, R451) -/

/-- Work of a killed grid still stands: an engine command, a sheet's run, effects of committed runs, an engine not yet freed. -/
def State.killBusy (s : State) (grid : Nat) : Bool :=
  s.cmds.any (fun c => decide (c.g.grid = grid)) ||
    s.sheets.any (fun x => decide (x.team.grid = grid) && !x.runs.isEmpty) ||
    s.orphans.any (fun o => decide (o.run.g.grid = grid)) ||
    (s.gridGroups grid).any (fun g => !g.outbox.isEmpty) ||
    s.bf.any fun p => (p.2.holder.map fun t => decide (t.grid = grid)).getD false
/-- The first command of a killed grid that is saved with a swapped-out team: its team, its engine and itself. -/
def State.savedCmd (s : State) (grid : Nat) : Option (Team × Nat × BfCmd) :=
  (s.gridTeams grid).findSome? fun t => t.savedBf.findSome? fun x => (x.2.queue ++ x.2.waiting).head?.map fun c => (t, x.1, c)
/-- A saved command leaves its engine. -/
def Team.dropSaved (t : Team) (i serial : Nat) : Team :=
  let keep (l : List BfCmd) : List BfCmd := l.filter fun c => decide (c.serial ≠ serial)
  { t with savedBf := t.savedBf.map fun x =>
      if x.1 = i then (i, { x.2 with queue := keep x.2.queue, latch := x.2.latch.map fun l => { l with parts := keep l.parts } }) else x }
/-- It completes CANCELLED (R303, R451), once its counter and the pages that it taints are reached (R401, R422). -/
def State.cancelSaved (s : State) (t : Team) (i : Nat) (c : BfCmd) : State :=
  let core := t.core + i
  ((bfCancelWaits s core c).or (bfHeldUp s core [c])).getD <|
    match c.kind with
    | .inr _ => s.setTeam (t.dropSaved i c.serial)
    | .inl _ => bfDoneAll ((s.setTeam (t.dropSaved i c.serial)).taintXfer core c) core { c with t := c.t || s.det c.g.grid } 2 0

/-- A GRIDKILL whose kill is not complete (R451). -/
def State.killing (s : State) : DevOp → Bool
  | .gridkill asid grid => s.grids.any fun g => g.asid == asid && decide (g.id.toNat = grid) && !g.ended
  | _ => false
/-- A GRIDKILL written before that of a grid is not complete: those of one register complete in their order (R414). -/
def State.killWaits (s : State) (g : Grid) : Bool :=
  let mine := (· == DevOp.gridkill g.asid g.id.toNat)
  s.dev.ops.any mine && (s.dev.ops.takeWhile fun op => !mine op).any s.killing

/-- KILL_COMPLETE (R109, R414, R451): what a killed grid saved with its swapped-out teams is cancelled, one command a step; then the grid goes. -/
def killCompleteStep (s : State) (grid : Nat) : Option State :=
  (s.grid? grid).bind fun g =>
  g.kill.bind fun r =>
    if g.ended || s.killBusy grid || s.killWaits g then none
    else match s.savedCmd grid with
      | some (t, i, c) => some (s.cancelSaved t i c)
      | none => (s.counterWaits g.asid hostUnit (pkClass g.pkt) (pkCcnt g.pkt)).or <| some <|
        let s := s.postGrid grid
        let s := { s with
          teams := s.teams.filter fun t => decide (t.ref.grid ≠ grid)
          groups := s.groups.filter fun x => decide (x.ref.grid ≠ grid)
          sheets := s.sheets.filter fun x => decide (x.team.grid ≠ grid)
          grids := s.grids.filter fun x => decide (x.id ≠ g.id) }
        (s.gridCounter g.asid g.id (pkCcnt g.pkt) failMark).record g.asid r
def execKillComplete (grid : Nat) (s : State) : Host.Outcome State Fault Refusal := event s (killCompleteStep s grid)

end Sys2Proof.Machine
end

