-- ==== Sys2Proof/Machine/Translation.lean ====
section
/-!
DEFINITION. The events of translation and zeroing (17_contexts_and_host.md R419 to R424, 13_phase_consistency.md R343): a walk fills a
TLB; a page with Z set is zeroed before any access through it.
-/
namespace Sys2Proof.Machine
open Sys2Proof

/-- The entry that a unit holds after a walk through a leaf: the page as that walk found it. A 64 KiB page is held as one only where its
sixteen entries are one page, zeroed (R421, R422). -/
def tlbEntry (s : State) (unit asid : Nat) (va : Word64) (l : Leaf) (pa : Nat) (pte : Word64) : TlbEntry :=
  let size := if l.size = 1 ∧ !s.contigWhole l then 0 else l.size
  { unit := unit, asid := asid, vpn := va.toNat / 2 ^ pageBits size, size := size
    pte := (pte &&& ~~~0x000FFFFFFFFFF000#64) ||| BitVec.ofNat 64 (pa / 2 ^ pageBits size * 2 ^ pageBits size % 2 ^ 52) }

/-- A page of host memory enters the address translation cache (R423). -/
def State.holdHost (s : State) (c : Context) (pa : Nat) : State :=
  let page := (pa - 2 ^ 51) / 4096
  if !isSystem pa then s
  else
    let e : AtcEntry := { pasid := c.pasid, page := page, host := s.hostPage c.pasid page }
    { s with dev := { s.dev with atc := e :: s.dev.atc.filter fun x => !(x.pasid == e.pasid && x.page == page) } }

/-- PAGE_WALK (R419, R422, R424): a unit walks, and holds what it found. Its reads wait for the budgets of the stacks that serve them, and
charge them. -/
def pageWalkStep (s : State) (unit asid : Nat) (va : Word64) : Option State :=
  (s.ctx? asid).bind fun c =>
  (s.walk c va).map fun l =>
    let reads := s.walkReads c va
    let cls := s.unitClass unit asid
    if !s.linesOpen asid cls reads then s.bump
    else
      match s.walkXlat l va with
      | .zero => s.startZero c va
      | .fault => (s.chargeLines asid cls reads).bump
      | .ok pa pte _ =>
        let e := tlbEntry s unit asid va l pa pte
        let s := s.chargeLines asid cls reads
        let s := if ptePeer pte then s else s.holdHost c pa
        { s with tlb := e :: s.tlb.filter fun x => !(x.unit == unit && x.asid == asid && x.vpn == e.vpn && x.size == e.size) }.bump
def execPageWalk (unit asid : Nat) (va : Word64) (s : State) : Host.Outcome State Fault Refusal := event s (pageWalkStep s unit asid va)

def State.zwalk? (s : State) (n : Nat) : Option ZWalk := s.zwalks.find? fun w => decide (w.n = n)
def State.dropZwalk (s : State) (n : Nat) : State := { s with zwalks := s.zwalks.filter fun w => decide (w.n ≠ n) }
def zbBit : Word64 := 0x20
def zBits : Word64 := 0x8000000000000020

/-- ZB_RECHECK (R422): a walk that waits reads its entry again, counted at its stack; where the zeroing is over it ends, where nobody zeroes
it takes it up. An entry that reads as poison maps nothing any more (log 90), and the walk ends. -/
def zbRecheckStep (s : State) (n : Nat) : Option State :=
  (s.zwalk? n).bind fun w =>
    if w.owner then none
    else
      let cls := s.walkClass w.asid
      if !s.linesOpen w.asid cls [w.pteAt] then some s.bump else
      let s := s.chargeLines w.asid cls [w.pteAt]
      let p := s.entry w.pteAt
      if !pteV p || !pteZ p then some (s.dropZwalk n).tryEnds
      else if pteZB p then some s
      else
        let s := s.homeWrite .outside w.pteAt (leBytes (p ||| zbBit).toNat 8)
        some { s with zwalks := s.zwalks.map fun x => if x.n = n then { w with owner := true, pte := p } else x }
def execZbRecheck (n : Nat) (s : State) : Host.Outcome State Fault Refusal := event s (zbRecheckStep s n)

/-- Every line of a page is zeroed in one write, and every core's view passes it (R343). Zeros of a page of host memory are requests of
the PASID whose walk found it (R423). -/
def State.zeroPage (s : State) (asid pa bytes : Nat) : State :=
  (List.range (bytes / 64)).foldl (fun s i =>
    let at_ := ((s.ctx? asid).map fun c => s.hostPa c (pa + 64 * i)).getD (pa + 64 * i)
    let s := s.homeWrite .outside at_ (List.replicate 64 0)
    (List.range numCores).foldl (fun s c => s.growView c (at_ / 64) s.home.seq) s) s

/-- PAGE_ZEROED (R422, R343): the page is zero, and its entry is swapped to Z = 0, ZB = 0 where it still is the one that the walk took up; a
swap that fails starts the walk again. The ends of grids that waited for the page are tried again. -/
def pageZeroedStep (s : State) (n : Nat) : Option State :=
  (s.zwalk? n).bind fun w =>
    if !w.owner then none
    else
      let s := s.zeroPage w.asid (ptePa w.pte) (2 ^ pageBits w.size)
      let p := BitVec.ofNat 64 (s.home.nat w.pteAt 8)
      let s := if p = w.pte ||| zbBit then s.homeWrite .outside w.pteAt (leBytes (p &&& ~~~zBits).toNat 8) else s
      some (s.dropZwalk n).tryEnds
def execPageZeroed (n : Nat) (s : State) : Host.Outcome State Fault Refusal := event s (pageZeroedStep s n)

end Sys2Proof.Machine
end

