-- ==== Sys2Proof/Machine/HostLink.lean ====
section
/-!
DEFINITION. The host and the other agents outside the device (17_contexts_and_host.md R412 to R418, R424 to R436; 05 R100 to R103; 18
R455, R456): device registers and queued operations, contexts, apertures, peers, bring-up, budgets, temperature, soft errors.
-/
namespace Sys2Proof.Machine
open Sys2Proof

/-! ### The capability list (R19 to R26) -/

/-- The records of R24: identifier and data. -/
def capRecords : List (Nat × Word64) :=
  [(1, 0x0F09030008020140), (2, 0x0803206030040800), (3, 0x1860393400600400), (4, 7), (5, 0x0120010410202000),
   (6, 0x0610200300000000), (7, 0x1200C80100000000), (8, 0x1001000100000000), (9, 0x0100000000000000), (10, 0x000F424000002710)]
/-- A record (R21): NEXT is 16 on, 0 in the last. -/
def capBytes (i : Nat) (r : Nat × Word64) : List Byte :=
  leBytes (r.1 + 2 ^ 16 + (if i = 9 then 0 else 16 * (i + 1)) * 2 ^ 48) 8 ++ leBytes r.2.toNat 8
/-- The 4 KiB region once built. -/
def capRegion : List Byte := (capRecords.zipIdx.flatMap fun x => capBytes x.2 x.1) ++ List.replicate 3936 0

/-! ### Registers of a queue (R100, R101, R103) -/

def Device.isReady (d : Device) : Bool := d.state == 3
/-- QCTL without its reserved bits. -/
def qctlMask (v : Word64) : Word64 := v &&& 0xFFFFF
/-- MODE, LOGN or ASID differ. -/
def qctlMoves (a b : Word64) : Bool := (a ^^^ b) &&& 0xBFFFF != 0
/-- LOGN or ASID differ. -/
def ringMoves (a b : Word64) : Bool := (a ^^^ b) &&& 0x3FFFF != 0

/-- A QCTL write (R103). DESIGN CHOICE (log 74): a LOGN outside 4 to 16 is stored as it stands, and the ring has 2^LOGN slots. -/
def Queue.writeQctl (q : Queue) (v : Word64) : Queue :=
  let n := qctlMask v
  if q.en && n.getLsbD 18 then (if qctlMoves q.qctl n then q else { q with qctl := n })
  else if ringMoves q.qctl n then { q with qctl := n, read := 0, write := 0, head := none }
  else { q with qctl := n, head := none }
/-- A QBASE write (R103). -/
def Queue.writeQbase (q : Queue) (v : Word64) : Queue :=
  let n := v &&& 0x01FFFFFFFFFFFFFF
  if q.en || n == q.qbase then q else { q with qbase := n, read := 0, write := 0, head := none }
/-- A QWRITE write (R101). -/
def Queue.writeQwrite (q : Queue) (v : Word64) : Queue :=
  let up := (v - q.write).toNat
  if q.mode || decide (up = 0) || decide (2 ^ q.logn < up) || decide (2 ^ q.logn < (v - q.read).toNat) then q else { q with write := v }

/-- QOWNER of a queue names a virtual function (R413, R431). -/
def State.vfOwns (s : State) (fn q : Nat) : Bool :=
  decide (1 ≤ fn) && decide (fn ≤ 32) && decide (q < 64) && decide ((Table.get 0 s.dev.qowner q).toNat = fn)
/-- A function may write QWRITE of a queue: the PF, and the VF that owns it (R431). -/
def State.mayQwrite (s : State) (fn q : Nat) : Bool := decide (fn = 0) || s.vfOwns fn q

def State.onQueue (s : State) (qn : Nat) (f : Queue → Queue) : State :=
  if s.dev.isReady && decide (qn < 64) then s.setQueue qn (f (s.queue qn)) else s

/-- QWRITE_WRITE, by a function. -/
def execQwriteWrite (q : Nat) (w : BarWrite) (s : State) : Host.Outcome State Fault Refusal :=
  event s (if s.mayQwrite w.fn q then some (s.onQueue q (·.writeQwrite w.v)) else none)
/-- A write of QCTL or QBASE by a function: that of a virtual function is discarded (R431). -/
def pfOnly (fn : Nat) (s : State) (o : Option State) : Host.Outcome State Fault Refusal := event s (if fn = 0 then o else none)
/-- QCTL_DISABLE: EN from 1 to 0. -/
def execQctlDisable (q : Nat) (w : BarWrite) (s : State) : Host.Outcome State Fault Refusal :=
  pfOnly w.fn s (if (s.queue q).en && !w.v.getLsbD 18 then some (s.onQueue q (·.writeQctl w.v)) else none)
/-- QCTL_ENABLE: EN from 0 to 1. -/
def execQctlEnable (q : Nat) (w : BarWrite) (s : State) : Host.Outcome State Fault Refusal :=
  pfOnly w.fn s (if !(s.queue q).en && w.v.getLsbD 18 then some (s.onQueue q (·.writeQctl w.v)) else none)
/-- QCTL_RECONFIGURE: EN unchanged. -/
def execQctlReconfigure (q : Nat) (w : BarWrite) (s : State) : Host.Outcome State Fault Refusal :=
  pfOnly w.fn s (if (s.queue q).en == w.v.getLsbD 18 then some (s.onQueue q (·.writeQctl w.v)) else none)
def execQbaseWrite (q : Nat) (w : BarWrite) (s : State) : Host.Outcome State Fault Refusal :=
  pfOnly w.fn s (some (s.onQueue q (·.writeQbase w.v)))

/-! ### Queued operations (R413, R414, R426) -/

/-- Every grid that a property picks is killed. -/
def State.killWhere (s : State) (p : Grid → Bool) (cause : Nat) : State :=
  (s.grids.filter fun g => p g && !g.ended).foldl (fun s g => s.killCause g.id.toNat cause) s

def DevOp.isSync : DevOp → Bool
  | .sync _ => true
  | _ => false
def DevOp.isInval : DevOp → Bool
  | .inval .. => true
  | _ => false
def DevOp.isAttest : DevOp → Bool
  | .attest => true
  | _ => false
/-- The first operation that a property picks, where no operation before it is a GRIDKILL that is not complete. -/
def nextOp (killing p : DevOp → Bool) : List DevOp → Option DevOp
  | [] => none
  | op :: rest => if killing op then none else if p op then some op else nextOp killing p rest
/-- The first operation of a kind that has not completed: those of one register complete in their order, and a GRIDKILL completes before
any later operation of another kind begins (R414). -/
def State.firstOp (s : State) (p : DevOp → Bool) : Option DevOp := nextOp s.killing p s.dev.ops
/-- A write that starts an operation. -/
def State.queueOp (s : State) (op : DevOp) : State :=
  if s.dev.isReady then { s with dev := { s.dev with ops := s.dev.ops ++ [op] } } else s
/-- A GRIDKILL whose kill is complete, or whose grid was not there. -/
def State.killOver (s : State) : DevOp → Bool
  | .gridkill asid grid => !s.killing (.gridkill asid grid)
  | _ => false
/-- An operation has completed; so have the GRIDKILLs whose grids are gone. -/
def State.popOp (s : State) (op : DevOp) : State :=
  { s with dev := { s.dev with ops := (s.dev.ops.erase op).filter fun x => !s.killOver x } }

def asidOf (v : Word64) : Nat := bits v 0 12
/-- REPLAY completes at once: what its context parked or stopped before it tries again (R426). -/
def State.replayNow (s : State) (asid : Nat) : State :=
  match s.ctx? asid with
  | some c => s.setCtx { c with replays := c.replays + 1 }
  | none => s
def invalOp (s : State) (v : Word64) : DevOp := .inval (bits v 62 2) (bits v 16 16 + 1) (asidOf v) s.dev.invAddr
def execCtxsync (w : BarWrite) (s : State) : Host.Outcome State Fault Refusal := pfOnly w.fn s (some (s.queueOp (.sync (asidOf w.v))))
def execReplay (w : BarWrite) (s : State) : Host.Outcome State Fault Refusal :=
  pfOnly w.fn s (if s.dev.isReady then some (s.replayNow (asidOf w.v)) else none)
/-- GRIDKILL: the kill of its grid starts at once (R451), and later operations of other kinds wait until it is complete (R414). -/
def execGridkill (w : BarWrite) (s : State) : Host.Outcome State Fault Refusal :=
  pfOnly w.fn s (if s.dev.isReady then
    some ((s.queueOp (.gridkill (asidOf w.v) (bits w.v 12 32))).killWhere
      (fun g => g.id == BitVec.ofNat 32 (bits w.v 12 32) && g.asid == asidOf w.v) 41) else none)
def execAttreq (w : BarWrite) (s : State) : Host.Outcome State Fault Refusal := pfOnly w.fn s (some (s.queueOp .attest))
/-- An INVAL write of a scope: 0 range, 1 ASID, 2 all. -/
def invalWrite (scope fn : Nat) (v : Word64) (s : State) : Host.Outcome State Fault Refusal :=
  pfOnly fn s (if bits v 62 2 = scope then some (s.queueOp (invalOp s v)) else none)
def execInvalRange (w : BarWrite) (s : State) : Host.Outcome State Fault Refusal := invalWrite 0 w.fn w.v s
def execInvalAsid (w : BarWrite) (s : State) : Host.Outcome State Fault Refusal := invalWrite 1 w.fn w.v s
def execInvalAll (w : BarWrite) (s : State) : Host.Outcome State Fault Refusal := invalWrite 2 w.fn w.v s

/-! ### Invalidation (R342, R424, R430) -/

def Effect.memory (e : Effect) : Bool :=
  match e with
  | .stores l _ => l.any fun q => match q.at_ with
    | .mem _ => true
    | _ => false
  | .atoms l _ => l.any fun q => match q.at_ with
    | .mem _ => true
    | _ => false
  | _ => false
/-- A group holds accesses that are translated and not yet performed. -/
def Group.translated (g : Group) : Bool :=
  g.outbox.any (fun x => x.2.memory) ||
    (match g.round with
     | some rd => (rd.a.toList ++ rd.b.toList).any fun r => r.effects.any Effect.memory
     | none => false)
/-- The ASID of a grid satisfies a property. -/
def State.ofAsid (s : State) (p : Nat → Bool) (grid : Nat) : Bool := ((s.grid? grid).map fun x => p x.asid).getD false
/-- Translated accesses that are not yet performed: those of the runs and outboxes of a context's groups, and of its unposted stores and
held updates those whose address a property covers; and the zeroing of a page found through its entries (R422). -/
def State.accessesOf (s : State) (p : Nat → Bool) (covers : Word64 → Bool) : Bool :=
  (s.groups.any fun g => s.ofAsid p g.ref.grid && g.translated) ||
  (s.stores.any fun st => st.seq.isNone && s.ofAsid p st.g.grid && covers st.va) ||
  (s.holds.any fun h => s.ofAsid p h.grid && (h.ups ++ h.sorted).any fun u => covers u.req.va) ||
  s.zwalks.any fun w => w.owner && p w.asid && covers w.va

/-- The ASIDs and the entries that an invalidation covers. -/
def invCovers (scope pages asid : Nat) (addr : Word64) (e : TlbEntry) : Bool :=
  match scope with
  | 0 =>
    let first := addr.toNat / 4096
    let lo := e.vpn * 2 ^ (pageBits e.size - 12)
    e.asid == asid && decide (lo < first + pages) && decide (first < lo + 2 ^ (pageBits e.size - 12))
  | 1 => e.asid == asid
  | _ => true
def invAsid (scope asid : Nat) (a : Nat) : Bool := decide (2 ≤ scope) || a == asid
/-- An address may lie on a page that an invalidation covers: its page has 1 GiB at most (log 45). -/
def invReaches (scope pages : Nat) (addr va : Word64) : Bool :=
  if scope = 0 then
    decide (addr.toNat / 2 ^ 30 ≤ va.toNat / 2 ^ 30) && decide (va.toNat / 2 ^ 30 ≤ (addr.toNat + 4096 * pages - 1) / 2 ^ 30)
  else true
def State.dropTlb (s : State) (p : TlbEntry → Bool) : State := { s with tlb := s.tlb.filter fun e => !p e }

/-- Walks that wait for a page to be zeroed by another begin again (R422, R424): their accesses walk anew. -/
def State.dropWaiting (s : State) (p : Nat → Bool) (covers : Word64 → Bool) : State :=
  if s.zwalks.any fun w => !w.owner && p w.asid && covers w.va then
    { s with zwalks := s.zwalks.filter fun w => w.owner || !(p w.asid && covers w.va) }.tryEnds
  else s
/-- An INVAL completes once its entries are dropped and the accesses that used them are performed (R424). -/
def State.endInval (s : State) (scope pages asid : Nat) (addr : Word64) : State :=
  let s := (s.dropTlb (invCovers scope pages asid addr)).dropWaiting (invAsid scope asid) (invReaches scope pages addr)
  if s.accessesOf (invAsid scope asid) (invReaches scope pages addr) then s
  else { s with dev := { s.dev with invDone := s.dev.invDone + 1 } }.popOp (.inval scope pages asid addr)
/-- An ATS invalidation of the host that waits for its completion. -/
def State.firstAts (s : State) : Option DevOp :=
  s.dev.ops.find? fun op => match op with
    | .ats .. => true
    | _ => false
/-- Requests of a PASID are under way: those of its contexts (R430). -/
def State.pasidBusy (s : State) (pasid : Nat) : Bool :=
  s.accessesOf (fun a => ((s.ctx? a).map fun c => decide (c.pasid = pasid)).getD false) fun _ => true
/-- An ATS invalidation completes once every request that used a dropped translation has completed (R430). -/
def State.endAts (s : State) : State :=
  match s.firstAts with
  | some (.ats pasid page pages) => if s.pasidBusy pasid then s else s.popOp (.ats pasid page pages)
  | _ => s

/-- INVALIDATION_DONE (R424, R430). -/
def invalidationStep (s : State) : Option State :=
  match s.firstOp DevOp.isInval with
  | some (.inval scope pages asid addr) => some (s.endAts.endInval scope pages asid addr)
  | _ => some s.endAts
def execInvalidationDone (s : State) : Host.Outcome State Fault Refusal := event s (invalidationStep s)

/-! ### Contexts (R415 to R417, R427) -/

/-- A descriptor as memory holds it. -/
def State.readDesc (s : State) (asid : Nat) : BitVec 1024 := BitVec.ofNat 1024 (s.home.nat (s.descAt asid) 128)
/-- The budget table: class by class, 32 entries each. -/
def State.readBudget (s : State) (at_ : Nat) : List (BitVec 32) :=
  (List.range 128).map fun i => BitVec.ofNat 32 (s.home.nat (at_ + 4 * i) 4)
/-- What a sync reads, once: the descriptor, and the budget table that it names. A table that reads as poison, as in host memory while the link
is down (R430), makes the descriptor invalid, and so does a poisoned descriptor: the spec does not say. DESIGN CHOICE (log 90). -/
def State.readSync (s : State) (asid : Nat) : BitVec 1024 × Option (List (BitVec 32)) :=
  let d := s.readDesc asid
  if s.poisoned (s.descAt asid) 128 then (1, none)
  else (d, if s.poisoned (bits d 384 64) 512 then none else some (s.readBudget (bits d 384 64)))
/-- COMMID ranges overlap. -/
def commOverlap (a b : Context) : Bool :=
  decide (0 < a.commCnt) && decide (0 < b.commCnt) && decide (a.commBase < b.commBase + b.commCnt) && decide (b.commBase < a.commBase + a.commCnt)
/-- A descriptor with VALID = 1 is valid (R416, R427). -/
def descValid (s : State) (c : Context) : Bool :=
  decide (bits c.desc 608 416 = 0) && decide (bits c.desc 2 25 = 0) &&
  decide (c.root ≠ 0) && decide (c.root % 4096 = 0) && decide (c.frbase ≠ 0) && decide (c.frbase % 4096 = 0) &&
  decide (c.budgetAt ≠ 0) && decide (c.budgetAt % 512 = 0) && decide (c.save.toNat % 4096 = 0) && decide (c.trapPc.toNat % 8 = 0) &&
  decide (4 ≤ c.frlog) && decide (c.frlog ≤ 16) && decide (c.vf ≤ 32) && decide (c.commBase + c.commCnt ≤ 2 ^ 32) &&
  !(s.ctxs.any fun d => d.asid != c.asid && commOverlap c d) &&
  ((List.range 4).all fun k => decide ((c.budget[32 * k + 30]?).getD 0 = 0) && decide ((c.budget[32 * k + 31]?).getD 0 = 0))

/-- The new copy of a context, as a sync has read it, with the device's own counts of the old one. -/
def newContext (s : State) (asid : Nat) (r : BitVec 1024 × Option (List (BitVec 32))) : Context :=
  let c : Context := { asid := asid, desc := r.1, budget := r.2.getD [] }
  match s.ctx? asid with
  | some o => { c with spent := o.spent, frwrite := o.frwrite, drops := o.drops, recs := o.recs, replays := o.replays }
  | none => c

/-- A sync has completed. -/
def State.endSync (s : State) (asid : Nat) (bad : Bool) : State :=
  { s with dev := { s.dev with syncs := s.dev.syncs + 1, syncBad := bad, synced := none } }.popOp (.sync asid)

/-- Work of a context that still uses it: started grids, engine commands of grids that have ended, pages that are zeroing. -/
def State.ctxBusy (s : State) (asid : Nat) : Bool :=
  s.grids.any (fun g => g.asid == asid && !g.ended) || s.cmds.any (fun c => c.asid == asid) ||
    s.sheets.any (fun x => x.asid == asid && !x.runs.isEmpty) || s.orphans.any (fun o => o.sheet.asid == asid) ||
    s.bf.any (fun p => p.2.queue.any fun c => c.asid == asid) || s.zwalks.any fun w => w.owner && w.asid == asid
/-- The heads of a context's queues are no longer examined (R416). -/
def State.dropHeads (s : State) (asid : Nat) : State :=
  { s with queues := s.queues.map fun p => if p.2.asid = asid then (p.1, { p.2 with head := none }) else p }
/-- A context that has gone: its copy, its translations and walks, its heads. -/
def State.dropCtx (s : State) (asid : Nat) : State :=
  ({ s with ctxs := s.ctxs.filter fun c => decide (c.asid ≠ asid), zwalks := s.zwalks.filter fun w => decide (w.asid ≠ asid) }.dropTlb fun e => e.asid == asid).dropHeads asid

/-- A context goes down: its grids are killed; it is gone once the last kill and the last command have completed (R417). -/
def State.downContext (s : State) (asid : Nat) (bad : Bool) : State :=
  let s := s.killWhere (fun g => g.asid == asid) 39
  if s.ctxBusy asid then s else (s.dropCtx asid).endSync asid bad

/-- SYNC_DONE (R416, R417): the descriptor and the budget table are read as the sync begins, and it may take several tries to complete. A change
of PTROOT is an invalidation of the ASID: its entries are dropped, and the walks that wait begin again (R424). ASID 0 names no context
(R415); its sync sets the result bit: DESIGN CHOICE (log 87). -/
def syncStep (s : State) : Option State :=
  match s.firstOp DevOp.isSync with
  | some (.sync asid) =>
    if asid = 0 then some (s.endSync asid true)
    else
      let r := s.dev.synced.getD (s.readSync asid)
      let s := { s with dev := { s.dev with synced := some r } }
      let c := newContext s asid r
      if !c.desc.getLsbD 0 then some (s.downContext asid false)
      else if r.2.isNone || !descValid s c then some (s.downContext asid true)
      else
        match s.ctx? asid with
        | none => some ({ s with ctxs := s.ctxs ++ [c] }.endSync asid false)
        | some o =>
          if o.root = c.root then some ((s.setCtx c).endSync asid false)
          else
            let s := (s.dropTlb fun e => e.asid == asid).dropWaiting (· == asid) fun _ => true
            if s.accessesOf (· == asid) (fun _ => true) then some s else some ((s.setCtx c).endSync asid false)
  | _ => none
def execSyncDone (s : State) : Host.Outcome State Fault Refusal := event s (syncStep s)

/-! ### Attestation and bring-up (R433 to R435) -/

/-- A list cut or filled to a length. -/
def fitBytes (n : Nat) (l : List Byte) : List Byte := (l ++ List.replicate n 0).take n
/-- Bytes of a 256-bit value, as SHA-256 and the fuses give them (log 8). -/
def bytes256 (v : BitVec 256) : List Byte := (List.range 32).map fun i => v.extractLsb' (8 * i) 8
def State.report (s : State) : List Byte :=
  let head := (List.range 32).map (Table.get 0 s.dev.nonce) ++ bytes256 Config.uniqueId ++ bytes256 (Config.sha256 s.dev.image) ++
    (s.dev.image.drop 4).take 4 ++ bytes256 (Config.sha256 capRegion) ++ bytes256 Config.devicePublicKey
  let head := fitBytes 256 head
  head ++ fitBytes 7856 (Config.slhSign head)

/-- Writes from outside, a line at a time (R323, R344). -/
def State.outsideWrite (s : State) (pa : Nat) (bs : List Byte) : State :=
  (linesOf pa bs.length).foldl (fun s l =>
    let lo := max (64 * l) pa
    s.homeWrite .outside lo ((bs.drop (lo - pa)).take (64 * l + 64 - lo))) s

/-- ATTESTATION_DONE (R435). -/
def attestStep (s : State) : Option State :=
  (s.firstOp DevOp.isAttest).map fun op =>
    let s := s.outsideWrite s.dev.attAddr.toNat s.report
    { s with dev := { s.dev with attDone := s.dev.attDone + 1 } }.popOp op
def execAttestationDone (s : State) : Host.Outcome State Fault Refusal := event s (attestStep s)

/-- POWER_ON (R433). -/
def execPowerOn (s : State) : Host.Outcome State Fault Refusal :=
  event s (if s.dev.state = 0 then some { s with dev := { s.dev with state := 1 } } else none)
/-- FIRMWARE_WINDOW_WRITE (R434). -/
def execFirmwareWindowWrite (at_ : BarPlace) (bytes : List Byte) (s : State) : Host.Outcome State Fault Refusal :=
  pfOnly at_.fn s (if s.dev.state = 1 ∧ at_.off + bytes.length ≤ 0x800000 then
    some { s with dev := { s.dev with window := setBytes s.dev.window at_.off bytes } } else none)
/-- FWCTL 1 (R413, R434). -/
def execFwctlVerify (w : BarWrite) (s : State) : Host.Outcome State Fault Refusal :=
  pfOnly w.fn s (if s.dev.state = 1 ∧ bits w.v 0 2 = 1 then
    some { s with dev := { s.dev with state := 2, length := bits w.v 32 32 } } else none)
/-- FWCTL 2 (R434). -/
def execFwctlRestart (w : BarWrite) (s : State) : Host.Outcome State Fault Refusal :=
  pfOnly w.fn s (if s.dev.state = 4 ∧ bits w.v 0 2 = 2 then some { s with dev := { s.dev with state := 1, cause := 0 } } else none)

/-- The image check: the failure cause, 0 where it passes (R433, R434). -/
def imageCause (length : Nat) (img : List Byte) : Nat :=
  let n (at_ k : Nat) : Nat := leNat ((img.drop at_).take k)
  let body := n 8 4
  if 0x800000 < length then 4
  else if n 0 4 ≠ 0x4E5A4946 ∨ ((img.drop 12).take 52).any (· ≠ 0) ∨ length ≠ 64 + body + 7856 then 1
  else if !Config.slhVerify Config.firmwareKey (img.take (64 + body)) (img.drop (64 + body)) then 2
  else if n 4 4 < Config.fusedMinSvn then 3 else 0
/-- The capability region as contexts read it, built by the verified firmware (R19, R20). -/
def Home.withCaps (h : Home) : Home := { h with mem := setBytes h.mem capPa capRegion }
/-- VERIFY_DONE (R434). -/
def verifyStep (s : State) : Option State :=
  if s.dev.state ≠ 2 then none
  else
    let img := if 0x800000 < s.dev.length then [] else (List.range s.dev.length).map (Table.get 0 s.dev.window)
    match imageCause s.dev.length img with
    | 0 => some { s with dev := { s.dev with state := 3, cause := 0, image := img, caps := true }, home := s.home.withCaps }
    | k => some { s with dev := { s.dev with state := 4, cause := k } }
def execVerifyDone (s : State) : Host.Outcome State Fault Refusal := event s (verifyStep s)

/-! ### The other registers (R412 to R414) -/

/-- Bytes of an 8-byte register write into a byte table. -/
def putReg (t : Table Byte) (at_ : Nat) (v : Word64) : Table Byte := setBytes t at_ (leBytes v.toNat 8)
/-- The bits of a word of a peer grant that are not reserved (R7, R432). -/
def grantMask : Nat → Word64
  | 0 => 0xFFFFFFFFFFFFFFFD
  | 1 => 0xFFFFFFFFFFFFF000
  | _ => 0
/-- A device register written once the device is READY (R413, R414). -/
def Device.writeReg (d : Device) (noCtx : Bool) (off : Nat) (v : Word64) : Device :=
  if off = 0x010 then (if noCtx then { d with ctxBase := v } else d)
  else if off = 0x028 then { d with invAddr := v &&& 0x01FFFFFFFFFFF000 }
  else if off = 0x050 then (if noCtx then { d with domIdx := v.extractLsb' 0 8 } else d)
  else if 0x100 ≤ off ∧ off < 0x300 ∧ off % 8 = 0 then
    (if noCtx then { d with qowner := Table.set 0 d.qowner ((off - 0x100) / 8) (v.extractLsb' 0 6) } else d)
  else if 0x400 ≤ off ∧ off < 0x420 ∧ off % 8 = 0 then { d with nonce := putReg d.nonce (off - 0x400) v }
  else if off = 0x420 then { d with attAddr := v }
  else if 0x1800 ≤ off ∧ off < 0x2000 ∧ off % 8 = 0 then { d with grants := putReg d.grants (off - 0x1800) (v &&& grantMask (off / 8 % 4)) }
  else d
/-- REGISTER_WRITE: the registers that start nothing (R412, R414); a virtual function writes none of them (R431). -/
def execRegisterWrite (off : Nat) (w : BarWrite) (s : State) : Host.Outcome State Fault Refusal :=
  pfOnly w.fn s (if s.dev.isReady then some { s with dev := s.dev.writeReg s.ctxs.isEmpty off w.v } else none)

/-- What a register of the physical function reads (R412, R413). -/
def State.readPf (s : State) (off : Nat) : Word64 :=
  let d := s.dev
  if off = 0 then BitVec.ofNat 64 (d.state + d.cause * 2 ^ 8)
  else if 0x2000 ≤ off ∧ off < 0x3000 ∧ off % 8 = 0 then
    (if d.caps then BitVec.ofNat 64 (leNat ((capRegion.drop (off - 0x2000)).take 8)) else 0)
  else if !d.isReady then 0
  else if off = 0x010 then d.ctxBase
  else if off = 0x020 then BitVec.ofNat 64 (d.syncs.toNat + (if d.syncBad then 2 ^ 32 else 0))
  else if off = 0x028 then d.invAddr
  else if off = 0x038 then d.invDone
  else if off = 0x050 then d.domIdx.zeroExtend 64
  else if off = 0x088 then d.attDone
  else if 0x100 ≤ off ∧ off < 0x300 ∧ off % 8 = 0 then (Table.get 0 d.qowner ((off - 0x100) / 8)).zeroExtend 64
  else if off = 0x420 then d.attAddr
  else if 0x1000 ≤ off ∧ off < 0x1800 then
    let q := s.queue ((off - 0x1000) / 32)
    match off % 32 with
    | 0 => q.qctl
    | 8 => q.qbase
    | 16 => q.write
    | 24 => q.read
    | _ => 0
  else if 0x1800 ≤ off ∧ off < 0x2000 ∧ off % 8 = 0 then
    BitVec.ofNat 64 (leNat ((List.range 8).map fun i => Table.get 0 d.grants (off - 0x1800 + i)))
  else 0

/-- A virtual function sees a register: DEVSTAT, the capability list, and the blocks of the queues that it owns (R431). -/
def State.vfSees (s : State) (fn off : Nat) : Bool :=
  decide (off = 0) || (decide (0x2000 ≤ off) && decide (off < 0x3000)) ||
    (decide (0x1000 ≤ off) && decide (off < 0x1800) && s.vfOwns fn ((off - 0x1000) / 32))
/-- What a register reads through BAR 0 of a function (R412, R413, R431). -/
def State.readReg (s : State) (fn off : Nat) : Word64 := if fn = 0 || s.vfSees fn off then s.readPf off else 0

/-! ### Memory from outside (R344, R412, R430 to R432) -/

/-- The bytes that an agent outside receives from some addresses: all ones from one that does not exist (R412); poisoned data, as host memory
gives it while the link is down (R430), is a free value, for the spec gives it none (log 31). -/
def State.deliver (s : State) (pas : List Nat) : State :=
  let byte (x : Nat × Nat) : Byte :=
    if !paExists x.1 then 0xFF
    else if s.poisoned x.1 1 then (Config.poisonData s.tick x.2).extractLsb' 0 8 else s.home.byte x.1
  { s.bump with dev := { s.dev with readData := pas.zipIdx.map byte } }
/-- An access at physical addresses: a write, or a read whose bytes the agent receives. -/
def State.outsideAccess (s : State) (pa : Nat) (a : HostAccess) : State :=
  match a with
  | .write bs => s.outsideWrite pa bs
  | .read n => s.deliver ((List.range n).map (pa + ·))
/-- HOST_MEMORY_WRITE and HOST_MEMORY_READ: the aperture holds device memory alone (R412). -/
def execHostMemoryWrite (pa : Nat) (bytes : List Byte) (s : State) : Host.Outcome State Fault Refusal :=
  event s (if pa + bytes.length ≤ 2 ^ 42 then some (s.outsideAccess pa (.write bytes)) else none)
def execHostMemoryRead (pa n : Nat) (s : State) : Host.Outcome State Fault Refusal :=
  event s (if pa + n ≤ 2 ^ 42 then some (s.outsideAccess pa (.read n)) else none)

/-- The length of an access. -/
def accLen : HostAccess → Nat
  | .read n => n
  | .write l => l.length
def accWrites : HostAccess → Bool
  | .read _ => false
  | .write _ => true
/-- A failed access reads all ones or is discarded. -/
def State.onesFor (s : State) : HostAccess → State
  | .read n => { s with dev := { s.dev with readData := List.replicate n 0xFF } }
  | .write _ => s

/-- The context of a function (R431). -/
def State.vfContext (s : State) (vf : Nat) : Option Context := argMin (fun (c : Context) => c.asid) (s.ctxs.filter fun c => c.vf == vf)

/-- VF_APERTURE_ACCESS (R431). -/
def vfStep (s : State) (vf : Nat) (va : Word64) (a : HostAccess) : State :=
  match s.vfContext vf with
  | none => s.onesFor a
  | some c =>
    let need := if accWrites a then Need.write else .read
    let l := (List.range (accLen a)).map fun i => s.access hostUnit c need (va + BitVec.ofNat 64 i)
    match s.waitZero hostUnit c need va (accLen a) with
    | some s => s
    | none =>
      match l.mapM fun x => match x with
        | .ok pa => some pa
        | _ => none with
      | none => (s.onesFor a).record c.asid { kind := 1, final := 38, addr := va }
      | some pas =>
        match a with
        | .read _ => s.deliver pas
        | .write bs => (linesOf va.toNat bs.length).foldl (fun s k =>
            s.homeScatter .outside (((pas.zip bs).zipIdx.filter fun x => decide ((va.toNat + x.2) / 64 = k)).map (·.1))) s
/-- The aperture of a VF: the 2⁴² bytes at the top of its BAR (R412, R431). -/
def inAperture (vf : Nat) (va : Word64) (n : Nat) : Bool := decide (1 ≤ vf) && decide (vf ≤ 32) && decide (va.toNat + n ≤ 2 ^ 42)
def execVfApertureAccess (vf : Nat) (va : Word64) (acc : HostAccess) (s : State) : Host.Outcome State Fault Refusal :=
  event s (if !inAperture vf va (accLen acc) then none
    else if s.dev.isReady then some (vfStep s vf va acc) else some (s.onesFor acc))

/-- A grant of the table at 0x1800 (R432). -/
def Device.grant (d : Device) (i : Nat) : BitVec 256 :=
  BitVec.ofNat 256 (leNat ((List.range 32).map fun k => Table.get 0 d.grants (32 * i + k)))
/-- An access of a peer lies within one valid grant. -/
def Device.granted (d : Device) (src pa n : Nat) (write : Bool) : Bool :=
  (List.range 64).any fun i =>
    let g := d.grant i
    let base := bits g 12 52 * 4096
    let size := bits g 76 52 * 4096
    g.getLsbD 0 && bits g 4 8 == src && g.getLsbD (if write then 3 else 2) && decide (base ≤ pa) && decide (pa + n ≤ base + size)
/-- PEER_ACCESS (R432). -/
def execPeerAccess (src pa : Nat) (acc : HostAccess) (s : State) : Host.Outcome State Fault Refusal :=
  event s (if s.dev.granted src pa (accLen acc) (accWrites acc) then some (s.outsideAccess pa acc) else none)

/-- An ATS invalidation arrives: the cache drops the pages of its range, and the host translates anew (R423, R430; log 68). It is complete
once the requests that used them are (`State.endAts`). -/
def State.dropAtc (s : State) (pasid page pages : Nat) : State :=
  { s with dev := { s.dev with
      atc := s.dev.atc.filter fun e => !(e.pasid == pasid && decide (page ≤ e.page) && decide (e.page < page + pages))
      atsN := s.dev.atsN + 1
      ops := s.dev.ops ++ [.ats pasid page pages] } }
/-- ATS_INVALIDATION (R430). -/
def execAtsInvalidation (pasid page pages : Nat) (s : State) : Host.Outcome State Fault Refusal := event s (some (s.dropAtc pasid page pages))
def execHostLinkDown (s : State) : Host.Outcome State Fault Refusal := event s (some { s with dev := { s.dev with linkUp := false } })
def execHostLinkUp (s : State) : Host.Outcome State Fault Refusal := event s (some { s with dev := { s.dev with linkUp := true } })
/-- A port is lost, or works again (R432). -/
def execPortLoss (port : Nat) (s : State) : Host.Outcome State Fault Refusal :=
  event s (some { s with dev := { s.dev with ports := s.dev.ports &&& ~~~(1#18 <<< port) } })
def execVernalLinkPortUp (port : Nat) (s : State) : Host.Outcome State Fault Refusal :=
  event s (some { s with dev := { s.dev with ports := s.dev.ports ||| (1#18 <<< port) } })

/-! ### Budgets, temperature (R428, R436) -/

/-- What a counter becomes at the start of a period. -/
def carryOver (budget : BitVec 32) (n : Nat) : Nat := if budget = 0xFFFFFFFF then 0 else n - budget.toNat
def Context.newPeriod (c : Context) : Context :=
  { c with spent := (c.spent.map fun p => (p.1, carryOver ((c.budget[p.1]?).getD 0xFFFFFFFF) p.2)).filter fun p => decide (p.2 ≠ 0) }
/-- What waited for a budget at the end of something else is tried again: exits of teams, barriers, ends of grids (R428). -/
def State.tryWaiting (s : State) : State :=
  let s := s.groups.foldl (fun (s : State) x => match s.group? x.ref with
    | some g => s.tryExit g
    | none => s) s
  ((s.teams.map (·.ref)).foldl State.tryBarriers s).tryEnds
/-- BUDGET_PERIOD_START: every 10 µs of device time. -/
def budgetStep (s : State) : Option State :=
  if s.dev.ns / 10000 ≤ s.dev.period then none
  else some { s with dev := { s.dev with period := s.dev.period + 1 }, ctxs := s.ctxs.map Context.newPeriod }.tryWaiting
def execBudgetPeriodStart (s : State) : Host.Outcome State Fault Refusal := event s (budgetStep s)

/-- THROTTLE_STEP: at most once each millisecond. -/
def throttled (h : Heat) (mhz : Nat) : Nat :=
  if 100 < h.hottestDie then max 500 (mhz - 50) else if h.hottestDie < 95 then min 1000 (mhz + 50) else mhz
def throttleStep (s : State) (h : Heat) : Option State :=
  if s.dev.ns < s.dev.throttleAt + 1000000 then none
  else some { s with dev := { s.dev with mhz := throttled h s.dev.mhz, throttleAt := s.dev.ns } }
def execThrottleStep (heat : Heat) (s : State) : Host.Outcome State Fault Refusal := event s (throttleStep s heat)
/-- THERMAL_TRIP. -/
def execThermalTrip (heat : Heat) (s : State) : Host.Outcome State Fault Refusal :=
  event s (if 110 ≤ heat.hottestDie ∨ 50 < heat.inlet then
    let t := s.killWhere (fun _ => true) 40
    some { t with dev := { t.dev with state := 5 } } else none)

/-! ### Soft errors (R455, R456) -/

/-- A corrected error has no visible effect. -/
def execSoftErrorCorrected (_ : PoisonSite) (s : State) : Host.Outcome State Fault Refusal := event s none
def addOnce (l : List Nat) (n : Nat) : List Nat := if l.contains n then l else n :: l
/-- Data is poisoned. -/
def State.poisonSite (s : State) : PoisonSite → State
  | .memLine pa => { s with home := { s.home with poison := addOnce s.home.poison (pa / 64) } }
  | .scratchLine tm l => match s.team? tm with
    | some t => s.setTeam { t with spPoison := addOnce t.spPoison l }
    | none => s
  | .imageLine g l => match s.group? g with
    | some x => s.setGroup { x with poison := addOnce x.poison l }
    | none => s
  | .logNode tm n => match s.team? tm with
    | some t => s.setTeam { t with log := { t.log with poison := addOnce t.log.poison n } }
    | none => s
  | .slot c k => s.setBf c ((s.bfOf c).setSlot k { (s.bfOf c).slot k with poison := true })
  | .acc c k => s.setBf c ((s.bfOf c).setAcc k { (s.bfOf c).acc k with poison := true })
def execUncorrectableError (site : PoisonSite) (s : State) : Host.Outcome State Fault Refusal := event s (some (s.poisonSite site))

/-- The grids with state in a damaged structure (R456). -/
def inUnit (s : State) (u : SharedUnit) (g : Grid) : Bool :=
  let n := g.id.toNat
  match u with
  | .translation _ => false
  | .icache _ => false
  | .press k => s.holds.any fun h => h.grid == n && sliceOf h.pa == k
  | .futures c => s.groups.any fun x => x.ref.grid == n && x.core == c
  | .sweep c => s.sheets.any fun x => x.team.grid == n && x.cores.any fun p => p.1 == c
  | .refine c => s.referrals.any fun r => r.g.grid == n && r.core == c
  | .collective d => s.cmds.any fun c => c.eng == 3 && c.g.grid == n && dieOf c.core == d
  | .queue q => s.cmds.any fun c => c.g.grid == n && (match c.kind with
    | .launch _ k => k == q
    | _ => false)
/-- DIE_ERROR. -/
def dieErrorStep (s : State) (u : SharedUnit) : State :=
  match u with
  | .translation k => s.dropTlb fun e => e.unit == k
  | .icache c => s.codeInvalidate c
  | u => (s.killWhere (inUnit s u) 43).sendMsi 0 0
def execDieError (unit : SharedUnit) (s : State) : Host.Outcome State Fault Refusal := event s (some (dieErrorStep s unit))

end Sys2Proof.Machine
end

