-- ==== Sys2Proof/Machine/Dispatch.lean ====
section
/-!
DEFINITION. The dispatch: one arm per constructor of Instr, each one call of the instruction's own meaning.
-/
namespace Sys2Proof.Machine
open Sys2Proof

def exec (i : Instr) (s : State) : Host.Outcome State Fault Refusal :=
  match i with
  | .add o => Sys2Proof.Machine.execAdd o s
  | .sub o => Sys2Proof.Machine.execSub o s
  | .addc o => Sys2Proof.Machine.execAddc o s
  | .mul o => Sys2Proof.Machine.execMul o s
  | .mulh o => Sys2Proof.Machine.execMulh o s
  | .mad o => Sys2Proof.Machine.execMad o s
  | .madw o => Sys2Proof.Machine.execMadw o s
  | .div o => Sys2Proof.Machine.execDiv o s
  | .rem o => Sys2Proof.Machine.execRem o s
  | .neg o => Sys2Proof.Machine.execNeg o s
  | .abs o => Sys2Proof.Machine.execAbs o s
  | .min o => Sys2Proof.Machine.execMin o s
  | .max o => Sys2Proof.Machine.execMax o s
  | .and o => Sys2Proof.Machine.execAnd o s
  | .or o => Sys2Proof.Machine.execOr o s
  | .xor o => Sys2Proof.Machine.execXor o s
  | .not o => Sys2Proof.Machine.execNot o s
  | .andn o => Sys2Proof.Machine.execAndn o s
  | .shl o => Sys2Proof.Machine.execShl o s
  | .shr o => Sys2Proof.Machine.execShr o s
  | .sar o => Sys2Proof.Machine.execSar o s
  | .rotl o => Sys2Proof.Machine.execRotl o s
  | .fshl o => Sys2Proof.Machine.execFshl o s
  | .popc o => Sys2Proof.Machine.execPopc o s
  | .clz o => Sys2Proof.Machine.execClz o s
  | .ctz o => Sys2Proof.Machine.execCtz o s
  | .brev o => Sys2Proof.Machine.execBrev o s
  | .bfx o => Sys2Proof.Machine.execBfx o s
  | .bfi o => Sys2Proof.Machine.execBfi o s
  | .sel o => Sys2Proof.Machine.execSel o s
  | .cmp o => Sys2Proof.Machine.execCmp o s
  | .mov o => Sys2Proof.Machine.execMov o s
  | .movw o => Sys2Proof.Machine.execMovw o s
  | .lea o => Sys2Proof.Machine.execLea o s
  | .addImm o => Sys2Proof.Machine.execAddImm o s
  | .mulImm o => Sys2Proof.Machine.execMulImm o s
  | .andImm o => Sys2Proof.Machine.execAndImm o s
  | .orImm o => Sys2Proof.Machine.execOrImm o s
  | .xorImm o => Sys2Proof.Machine.execXorImm o s
  | .shlImm o => Sys2Proof.Machine.execShlImm o s
  | .shrImm o => Sys2Proof.Machine.execShrImm o s
  | .sarImm o => Sys2Proof.Machine.execSarImm o s
  | .rotlImm o => Sys2Proof.Machine.execRotlImm o s
  | .uadd o => Sys2Proof.Machine.execUadd o s
  | .usub o => Sys2Proof.Machine.execUsub o s
  | .umul o => Sys2Proof.Machine.execUmul o s
  | .umulh o => Sys2Proof.Machine.execUmulh o s
  | .uand o => Sys2Proof.Machine.execUand o s
  | .uor o => Sys2Proof.Machine.execUor o s
  | .uxor o => Sys2Proof.Machine.execUxor o s
  | .ushl o => Sys2Proof.Machine.execUshl o s
  | .ushr o => Sys2Proof.Machine.execUshr o s
  | .usar o => Sys2Proof.Machine.execUsar o s
  | .umin o => Sys2Proof.Machine.execUmin o s
  | .umax o => Sys2Proof.Machine.execUmax o s
  | .ucmp o => Sys2Proof.Machine.execUcmp o s
  | .umov o => Sys2Proof.Machine.execUmov o s
  | .umovw o => Sys2Proof.Machine.execUmovw o s
  | .ulea o => Sys2Proof.Machine.execUlea o s
  | .udiv o => Sys2Proof.Machine.execUdiv o s
  | .urdv o => Sys2Proof.Machine.execUrdv o s
  | .uaddImm o => Sys2Proof.Machine.execUaddImm o s
  | .umulImm o => Sys2Proof.Machine.execUmulImm o s
  | .uandImm o => Sys2Proof.Machine.execUandImm o s
  | .uorImm o => Sys2Proof.Machine.execUorImm o s
  | .uxorImm o => Sys2Proof.Machine.execUxorImm o s
  | .ushlImm o => Sys2Proof.Machine.execUshlImm o s
  | .ushrImm o => Sys2Proof.Machine.execUshrImm o s
  | .usarImm o => Sys2Proof.Machine.execUsarImm o s
  | .fadd o => Sys2Proof.Machine.execFadd o s
  | .fsub o => Sys2Proof.Machine.execFsub o s
  | .fmul o => Sys2Proof.Machine.execFmul o s
  | .ffma o => Sys2Proof.Machine.execFfma o s
  | .fdiv o => Sys2Proof.Machine.execFdiv o s
  | .fsqrt o => Sys2Proof.Machine.execFsqrt o s
  | .frcp o => Sys2Proof.Machine.execFrcp o s
  | .frsq o => Sys2Proof.Machine.execFrsq o s
  | .fexp2 o => Sys2Proof.Machine.execFexp2 o s
  | .flog2 o => Sys2Proof.Machine.execFlog2 o s
  | .fmin o => Sys2Proof.Machine.execFmin o s
  | .fmax o => Sys2Proof.Machine.execFmax o s
  | .fcmp o => Sys2Proof.Machine.execFcmp o s
  | .fclass o => Sys2Proof.Machine.execFclass o s
  | .frnd o => Sys2Proof.Machine.execFrnd o s
  | .fscl o => Sys2Proof.Machine.execFscl o s
  | .hadd2 o => Sys2Proof.Machine.execHadd2 o s
  | .hmul2 o => Sys2Proof.Machine.execHmul2 o s
  | .hfma2 o => Sys2Proof.Machine.execHfma2 o s
  | .fsel o => Sys2Proof.Machine.execFsel o s
  | .dadd o => Sys2Proof.Machine.execDadd o s
  | .dmul o => Sys2Proof.Machine.execDmul o s
  | .dfma o => Sys2Proof.Machine.execDfma o s
  | .ddiv o => Sys2Proof.Machine.execDdiv o s
  | .dsqrt o => Sys2Proof.Machine.execDsqrt o s
  | .dcmp o => Sys2Proof.Machine.execDcmp o s
  | .cvt o => Sys2Proof.Machine.execCvt o s
  | .pack o => Sys2Proof.Machine.execPack o s
  | .unpack o => Sys2Proof.Machine.execUnpack o s
  | .qblk o => Sys2Proof.Machine.execQblk o s
  | .xld o => Sys2Proof.Machine.execXld o s
  | .xmovv o => Sys2Proof.Machine.execXmovv o s
  | .xpin o => Sys2Proof.Machine.execXpin o s
  | .xmov o => Sys2Proof.Machine.execXmov o s
  | .xadd o => Sys2Proof.Machine.execXadd o s
  | .xsub o => Sys2Proof.Machine.execXsub o s
  | .xmul o => Sys2Proof.Machine.execXmul o s
  | .xfma o => Sys2Proof.Machine.execXfma o s
  | .xdiv o => Sys2Proof.Machine.execXdiv o s
  | .xneg o => Sys2Proof.Machine.execXneg o s
  | .xabs o => Sys2Proof.Machine.execXabs o s
  | .xmin o => Sys2Proof.Machine.execXmin o s
  | .xmax o => Sys2Proof.Machine.execXmax o s
  | .xcmp o => Sys2Proof.Machine.execXcmp o s
  | .xsgn o => Sys2Proof.Machine.execXsgn o s
  | .xlo o => Sys2Proof.Machine.execXlo o s
  | .xhi o => Sys2Proof.Machine.execXhi o s
  | .xsever o => Sys2Proof.Machine.execXsever o s
  | .xref o => Sys2Proof.Machine.execXref o s
  | .xst o => Sys2Proof.Machine.execXst o s
  | .xstg o => Sys2Proof.Machine.execXstg o s
  | .xlogq o => Sys2Proof.Machine.execXlogq o s
  | .pset o => Sys2Proof.Machine.execPset o s
  | .pnot o => Sys2Proof.Machine.execPnot o s
  | .pand o => Sys2Proof.Machine.execPand o s
  | .por o => Sys2Proof.Machine.execPor o s
  | .pxor o => Sys2Proof.Machine.execPxor o s
  | .ppop o => Sys2Proof.Machine.execPpop o s
  | .pdup o => Sys2Proof.Machine.execPdup o s
  | .pmask o => Sys2Proof.Machine.execPmask o s
  | .bra o => Sys2Proof.Machine.execBra o s
  | .bru o => Sys2Proof.Machine.execBru o s
  | .brx o => Sys2Proof.Machine.execBrx o s
  | .call o => Sys2Proof.Machine.execCall o s
  | .ret o => Sys2Proof.Machine.execRet o s
  | .exit o => Sys2Proof.Machine.execExit o s
  | .nop o => Sys2Proof.Machine.execNop o s
  | .pause o => Sys2Proof.Machine.execPause o s
  | .shfl o => Sys2Proof.Machine.execShfl o s
  | .vote o => Sys2Proof.Machine.execVote o s
  | .ballot o => Sys2Proof.Machine.execBallot o s
  | .matchLanes o => Sys2Proof.Machine.execMatchLanes o s
  | .compact o => Sys2Proof.Machine.execCompact o s
  | .redux o => Sys2Proof.Machine.execRedux o s
  | .scan o => Sys2Proof.Machine.execScan o s
  | .elect o => Sys2Proof.Machine.execElect o s
  | .isect o => Sys2Proof.Machine.execIsect o s
  | .merge o => Sys2Proof.Machine.execMerge o s
  | .ld o => Sys2Proof.Machine.execLd o s
  | .st o => Sys2Proof.Machine.execSt o s
  | .ldu o => Sys2Proof.Machine.execLdu o s
  | .stu o => Sys2Proof.Machine.execStu o s
  | .pref o => Sys2Proof.Machine.execPref o s
  | .taint o => Sys2Proof.Machine.execTaint o s
  | .atom o => Sys2Proof.Machine.execAtom o s
  | .red o => Sys2Proof.Machine.execRed o s
  | .atomu o => Sys2Proof.Machine.execAtomu o s
  | .phase o => Sys2Proof.Machine.execPhase o s
  | .fence o => Sys2Proof.Machine.execFence o s
  | .cfence o => Sys2Proof.Machine.execCfence o s
  | .bar o => Sys2Proof.Machine.execBar o s
  | .ordw o => Sys2Proof.Machine.execOrdw o s
  | .ordd o => Sys2Proof.Machine.execOrdd o s
  | .cntwait o => Sys2Proof.Machine.execCntwait o s
  | .tfence o => Sys2Proof.Machine.execTfence o s
  | .copy o => Sys2Proof.Machine.execCopy o s
  | .gather o => Sys2Proof.Machine.execGather o s
  | .coll o => Sys2Proof.Machine.execColl o s
  | .launch o => Sys2Proof.Machine.execLaunch o s
  | .ftest o => Sys2Proof.Machine.execFtest o s
  | .fwait o => Sys2Proof.Machine.execFwait o s
  | .fcancel o => Sys2Proof.Machine.execFcancel o s
  | .fmov o => Sys2Proof.Machine.execFmov o s
  | .fstat o => Sys2Proof.Machine.execFstat o s
  | .bfacq o => Sys2Proof.Machine.execBfacq o s
  | .bfrel o => Sys2Proof.Machine.execBfrel o s
  | .osclaim o => Sys2Proof.Machine.execOsclaim o s
  | .osrel o => Sys2Proof.Machine.execOsrel o s
  | .osfill o => Sys2Proof.Machine.execOsfill o s
  | .ossave o => Sys2Proof.Machine.execOssave o s
  | .bstset o => Sys2Proof.Machine.execBstset o s
  | .bfstage o => Sys2Proof.Machine.execBfstage o s
  | .bfchain o => Sys2Proof.Machine.execBfchain o s
  | .bfzero o => Sys2Proof.Machine.execBfzero o s
  | .bfdrain o => Sys2Proof.Machine.execBfdrain o s
  | .bfscale o => Sys2Proof.Machine.execBfscale o s
  | .gangset o => Sys2Proof.Machine.execGangset o s
  | .swbind o => Sys2Proof.Machine.execSwbind o s
  | .swrun o => Sys2Proof.Machine.execSwrun o s
  | .swwake o => Sys2Proof.Machine.execSwwake o s
  | .swpoke o => Sys2Proof.Machine.execSwpoke o s
  | .swstat o => Sys2Proof.Machine.execSwstat o s
  | .trap o => Sys2Proof.Machine.execTrap o s
  | .tret o => Sys2Proof.Machine.execTret o s
  | .csrr o => Sys2Proof.Machine.execCsrr o s
  | .csrw o => Sys2Proof.Machine.execCsrw o s
  | .kill o => Sys2Proof.Machine.execKill o s
  | .flagr o => Sys2Proof.Machine.execFlagr o s
  | .clock o => Sys2Proof.Machine.execClock o s
  | .brkpt o => Sys2Proof.Machine.execBrkpt o s
  | .digest o => Sys2Proof.Machine.execDigest o s
  | .tlbq o => Sys2Proof.Machine.execTlbq o s
  | .href o => Sys2Proof.Machine.execHref o s
  | .hpf o => Sys2Proof.Machine.execHpf o s
  | .hsch o => Sys2Proof.Machine.execHsch o s
  | .hintNop o => Sys2Proof.Machine.execHintNop o s
  | .pairedWord o => Sys2Proof.Machine.execPairedWord o s
  | .issueSlotSelect core part => Sys2Proof.Machine.execIssueSlotSelect core part s
  | .groupPromotion g => Sys2Proof.Machine.execGroupPromotion g s
  | .pauseExpiry g => Sys2Proof.Machine.execPauseExpiry g s
  | .regLineFill g line => Sys2Proof.Machine.execRegLineFill g line s
  | .regLineWriteback core g line => Sys2Proof.Machine.execRegLineWriteback core g line s
  | .runCommit g => Sys2Proof.Machine.execRunCommit g s
  | .deferredWrite g => Sys2Proof.Machine.execDeferredWrite g s
  | .teamScratchRelease tm => Sys2Proof.Machine.execTeamScratchRelease tm s
  | .detUpdateHold g => Sys2Proof.Machine.execDetUpdateHold g s
  | .atomicPerform g => Sys2Proof.Machine.execAtomicPerform g s
  | .viewAdvance core line => Sys2Proof.Machine.execViewAdvance core line s
  | .linePresent tm line => Sys2Proof.Machine.execLinePresent tm line s
  | .windowAccessArrive g => Sys2Proof.Machine.execWindowAccessArrive g s
  | .cntwaitRecheck g => Sys2Proof.Machine.execCntwaitRecheck g s
  | .pageWalk unit asid va => Sys2Proof.Machine.execPageWalk unit asid va s
  | .zbRecheck n => Sys2Proof.Machine.execZbRecheck n s
  | .pageZeroed n => Sys2Proof.Machine.execPageZeroed n s
  | .referralDecide core => Sys2Proof.Machine.execReferralDecide core s
  | .copyLineWrite n line => Sys2Proof.Machine.execCopyLineWrite n line s
  | .copyComplete n => Sys2Proof.Machine.execCopyComplete n s
  | .gatherComplete n => Sys2Proof.Machine.execGatherComplete n s
  | .collComplete n => Sys2Proof.Machine.execCollComplete n s
  | .collAbort n => Sys2Proof.Machine.execCollAbort n s
  | .launchEnqueue n => Sys2Proof.Machine.execLaunchEnqueue n s
  | .bfCommandPerform core => Sys2Proof.Machine.execBfCommandPerform core s
  | .bfStagePass core => Sys2Proof.Machine.execBfStagePass core s
  | .swrunStart core slot => Sys2Proof.Machine.execSwrunStart core slot s
  | .sweep core slot => Sys2Proof.Machine.execSweep core slot s
  | .headExamine q => Sys2Proof.Machine.execHeadExamine q s
  | .depCounterRecheck q => Sys2Proof.Machine.execDepCounterRecheck q s
  | .gridStart => Sys2Proof.Machine.execGridStart s
  | .teamPlace grid => Sys2Proof.Machine.execTeamPlace grid s
  | .placementTimeout grid => Sys2Proof.Machine.execPlacementTimeout grid s
  | .swapTrigger grid => Sys2Proof.Machine.execSwapTrigger grid s
  | .teamSwapOut tm => Sys2Proof.Machine.execTeamSwapOut tm s
  | .teamResume tm => Sys2Proof.Machine.execTeamResume tm s
  | .killComplete grid => Sys2Proof.Machine.execKillComplete grid s
  | .qwriteWrite q v => Sys2Proof.Machine.execQwriteWrite q v s
  | .qctlDisable q v => Sys2Proof.Machine.execQctlDisable q v s
  | .qctlEnable q v => Sys2Proof.Machine.execQctlEnable q v s
  | .qctlReconfigure q v => Sys2Proof.Machine.execQctlReconfigure q v s
  | .qbaseWrite q v => Sys2Proof.Machine.execQbaseWrite q v s
  | .ctxsync v => Sys2Proof.Machine.execCtxsync v s
  | .syncDone => Sys2Proof.Machine.execSyncDone s
  | .invalRange v => Sys2Proof.Machine.execInvalRange v s
  | .invalAsid v => Sys2Proof.Machine.execInvalAsid v s
  | .invalAll v => Sys2Proof.Machine.execInvalAll v s
  | .invalidationDone => Sys2Proof.Machine.execInvalidationDone s
  | .replay v => Sys2Proof.Machine.execReplay v s
  | .gridkill v => Sys2Proof.Machine.execGridkill v s
  | .attreq v => Sys2Proof.Machine.execAttreq v s
  | .attestationDone => Sys2Proof.Machine.execAttestationDone s
  | .fwctlVerify v => Sys2Proof.Machine.execFwctlVerify v s
  | .fwctlRestart v => Sys2Proof.Machine.execFwctlRestart v s
  | .verifyDone => Sys2Proof.Machine.execVerifyDone s
  | .firmwareWindowWrite off bytes => Sys2Proof.Machine.execFirmwareWindowWrite off bytes s
  | .registerWrite off v => Sys2Proof.Machine.execRegisterWrite off v s
  | .hostMemoryWrite pa bytes => Sys2Proof.Machine.execHostMemoryWrite pa bytes s
  | .hostMemoryRead pa n => Sys2Proof.Machine.execHostMemoryRead pa n s
  | .vfApertureAccess vf va acc => Sys2Proof.Machine.execVfApertureAccess vf va acc s
  | .atsInvalidation pasid page pages => Sys2Proof.Machine.execAtsInvalidation pasid page pages s
  | .hostLinkDown => Sys2Proof.Machine.execHostLinkDown s
  | .peerAccess src pa acc => Sys2Proof.Machine.execPeerAccess src pa acc s
  | .portLoss port => Sys2Proof.Machine.execPortLoss port s
  | .powerOn => Sys2Proof.Machine.execPowerOn s
  | .budgetPeriodStart => Sys2Proof.Machine.execBudgetPeriodStart s
  | .throttleStep heat => Sys2Proof.Machine.execThrottleStep heat s
  | .thermalTrip heat => Sys2Proof.Machine.execThermalTrip heat s
  | .softErrorCorrected site => Sys2Proof.Machine.execSoftErrorCorrected site s
  | .uncorrectableError site => Sys2Proof.Machine.execUncorrectableError site s
  | .dieError unit => Sys2Proof.Machine.execDieError unit s
  | .hostLinkUp => Sys2Proof.Machine.execHostLinkUp s
  | .vernalLinkPortUp port => Sys2Proof.Machine.execVernalLinkPortUp port s
  | .bfTransferComplete core => Sys2Proof.Machine.execBfTransferComplete core s

end Sys2Proof.Machine
end

