-- ==== Sys2Proof/Machine/Step.lean ====
section
/-!
DEFINITION. One step of the machine: the next turn of the schedule is taken (log 1). A turn is the next word of a run (R81), an event of
95_what_each_step_holds.md, or the passing of time.
-/
namespace Sys2Proof.Machine
open Sys2Proof

/-- A turn taken: a word is fetched, checked and executed; an event happens where it is enabled; a word of the instruction set is no
event. -/
def take (t : Turn) (s : State) : Host.Outcome State Fault Refusal :=
  match t with
  | .time n => .next (s.pass n)
  | .event i => if isWord i then .next s else exec i s
  | .word g b =>
    match issue s g b with
    | .done s => .next s
    | .exec i s => exec i s

/-- One step. -/
def step (s : State) : Host.Outcome State Fault Refusal := take s.nextTurn.1 s.nextTurn.2

/-- The state with the 64-bit word `w` where the next step fetches it; every instruction has 64 bits (R27), so `nbits` says nothing more. -/
def State.withFetchWord (s : State) (_nbits w : Nat) : State := s.placeWord w

end Sys2Proof.Machine
end

