-- ==== Sys2Proof/Safety.lean ====
section
/-!
DEFINITION. The terms that claims about the machine are stated in: when a word is in execution, what the retiring of a word leaves as
it was, and the invariants of the state.
-/
namespace Sys2Proof.Machine
open Sys2Proof

/-! ### Invariants -/

/-- The arithmetic clock lies in the range that the throttle keeps (R436). -/
def clockOk (s : State) : Prop := 500 ≤ s.dev.mhz ∧ s.dev.mhz ≤ 1000

/-! ### A word that retires

`e` is what the word sees, `e'` what the next word of the same run sees, `s1` the machine as the word leaves it outside its own group. -/

/-- What every word that retires does and leaves: the rest of the machine, every other group, every field of the group but its threads,
its round and its flag bookkeeping, the fields of its threads that no word writes before the boundary, the other run; the run goes on at
the next word, or ends (R40, R43, R82). -/
structure Retires (s1 t : State) (e e' : Env) (rb : Bool) : Prop where
  now    : env? t = some e'
  rest   : t = { s1 with groups := t.groups }
  others : ∀ h, h ≠ e.g.ref → t.group? h = s1.group? h
  group  : e'.g = { e.g with lanes := e'.g.lanes, round := e'.g.round, raised := e'.g.raised }
  count  : e'.g.lanes.length = e.g.lanes.length
  thread : ∀ L, e'.th L = { e.th L with v := (e'.th L).v, x := (e'.th L).x, pred := (e'.th L).pred, flags := (e'.th L).flags,
                                         ct := (e'.th L).ct, dcode := (e'.th L).dcode, pc := (e'.th L).pc }
  round  : e'.rd = e.rd.setRun e.b e'.r
  run    : e'.r = { e.r with at_ := e.r.at_ + 8, pos := e.r.pos + 1, last := e.r.at_, ended := rb || e.r.step, s := e'.r.s,
                             written := e'.r.written, effects := e'.r.effects, deferred := e'.r.deferred, ctl := e'.r.ctl,
                             lastAt := s1.cycle, probe := none, pre := e.r.pre ++ [e.preImage], pause := e'.r.pause, exit := e'.r.exit,
                             tfence := e'.r.tfence }

/-- The word writes no S register. -/
def KeepsS (e e' : Env) : Prop := e'.r.s = e.r.s ∧ e'.r.written = e.r.written

/-- The word leaves nothing for the boundary: no deferred write, no effect, no write of control state, no PAUSE, no EXIT, no TFENCE. -/
def KeepsBoundary (e e' : Env) : Prop :=
  e'.r.deferred = e.r.deferred ∧ e'.r.effects = e.r.effects ∧ e'.r.ctl = e.r.ctl ∧ e'.r.pause = e.r.pause ∧ e'.r.exit = none ∧
    e'.r.tfence = e.r.tfence

/-- Every active lane stands at the next word, every other lane where it stood (R159). -/
def NextPcs (e e' : Env) : Prop :=
  ∀ L, L < e.g.lanes.length → (e'.th L).pc = if e.r.active.getLsbD L then e.r.at_ + 8 else (e.th L).pc

/-- The word writes no register, predicate or flag of any lane. -/
def KeepsLanes (e e' : Env) : Prop :=
  ∀ L, (e'.th L).v = (e.th L).v ∧ (e'.th L).x = (e.th L).x ∧ (e'.th L).pred = (e.th L).pred ∧ (e'.th L).flags = (e.th L).flags ∧
    (e'.th L).ct = (e.th L).ct ∧ (e'.th L).dcode = (e.th L).dcode

/-- What a word writes to the V registers of a lane: `val L n` is the new content of register `n`, none where it keeps its own. -/
def WritesV (e e' : Env) (E : List Nat) (val : Nat → Nat → Option VCell) : Prop :=
  ∀ L, L < e.g.lanes.length → ∀ n, (e'.th L).vreg n = (if L ∈ E then val L n else none).getD ((e.th L).vreg n)

/-- What a word writes to the X registers of a lane. -/
def WritesX (e e' : Env) (E : List Nat) (val : Nat → Nat → Option XCell) : Prop :=
  ∀ L, L < e.g.lanes.length → ∀ n, (e'.th L).xreg n = (if L ∈ E then val L n else none).getD ((e.th L).xreg n)

/-- What a word writes to the S registers of the run. -/
def WritesS (e e' : Env) (val : Nat → Option SCell) : Prop := ∀ n, e'.scell n = (val n).getD (e.scell n)

/-- What a word does to the predicate registers of the lanes of E (R156). -/
def WritesP (e e' : Env) (E : List Nat) (p : Nat → BitVec 8) : Prop :=
  ∀ L, L < e.g.lanes.length → (e'.th L).pred = if L ∈ E then p L else (e.th L).pred

/-- The flags that a word raises in the lanes of E, which stay set (R196); at level 0 each lane in which it raises an enabled flag is noted
for the flag record (R450). -/
def RaisesF (e e' : Env) (E : List Nat) (f : Nat → BitVec 6) : Prop :=
  (∀ L, L < e.g.lanes.length → (e'.th L).flags = if L ∈ E then (e.th L).flags ||| f L else (e.th L).flags) ∧
  e'.g.raised = e.g.raised ++ if e.g.level = 0 then
      (E.filter fun L => f L &&& pkTrapEn e.pkt ≠ 0).map fun L => { b := e.b, pos := e.r.pos + 1, pc := e.r.at_, lane := L }
    else []

/-- The control taint that a word sets in the lanes of E (R400). -/
def SetsCt (e e' : Env) (E : List Nat) (c : Nat → Bool) : Prop :=
  ∀ L, L < e.g.lanes.length → (e'.th L).ct = if L ∈ E then (e.th L).ct || c L else (e.th L).ct

def KeepsV (e e' : Env) : Prop := ∀ L, L < e.g.lanes.length → (e'.th L).v = (e.th L).v
def KeepsX (e e' : Env) : Prop := ∀ L, L < e.g.lanes.length → (e'.th L).x = (e.th L).x
def KeepsP (e e' : Env) : Prop := ∀ L, L < e.g.lanes.length → (e'.th L).pred = (e.th L).pred
def KeepsF (e e' : Env) : Prop := ∀ L, L < e.g.lanes.length → (e'.th L).flags = (e.th L).flags
/-- Control taint and decision code stay. -/
def KeepsC (e e' : Env) : Prop := ∀ L, L < e.g.lanes.length → (e'.th L).ct = (e.th L).ct ∧ (e'.th L).dcode = (e.th L).dcode
def KeepsD (e e' : Env) : Prop := ∀ L, L < e.g.lanes.length → (e'.th L).dcode = (e.th L).dcode

/-- One 32-bit register takes a value. -/
def reg32 (d : BitVec 8) (w : Word32) (t : Bool) (n : Nat) : Option VCell := if n = d.toNat then some { w := w, t := t } else none
/-- A register pair takes a 64-bit value, its low half in the even register (R31). -/
def reg64 (d : BitVec 8) (w : Word64) (t : Bool) (n : Nat) : Option VCell :=
  if n = d.toNat + 1 then some { w := w.extractLsb' 32 32, t := t }
  else if n = d.toNat then some { w := w.extractLsb' 0 32, t := t } else none

/-- The word in execution writes the V registers of its lanes of E before the next word, raises flags in them, and nothing else
(R82). -/
structure LaneWord (s : State) (e : Env) (i : Instr) (E : List Nat) (val : Nat → Nat → Option VCell) (fl : Nat → BitVec 6) : Prop where
  done : ∃ t e', exec i s = .next t ∧ Retires s t e e' (rbOf i) ∧ WritesV e e' E val ∧ RaisesF e e' E fl ∧ KeepsX e e' ∧ KeepsP e e' ∧
    KeepsC e e' ∧ NextPcs e e' ∧ KeepsS e e' ∧ KeepsBoundary e e'

/-- The word in execution writes S registers before the next word and nothing else (R226). -/
structure UniformWord (s : State) (e : Env) (i : Instr) (val : Nat → Option SCell) : Prop where
  done : ∃ t e', exec i s = .next t ∧ Retires s t e e' (rbOf i) ∧ WritesS e e' val ∧ KeepsLanes e e' ∧ NextPcs e e' ∧ KeepsBoundary e e'

/-- The word in execution changes predicate registers, raises flags and sets control taint in its lanes of E, and nothing else (R156,
R158). -/
structure PredicateWord (s : State) (e : Env) (i : Instr) (E : List Nat) (p : Nat → BitVec 8) (fl : Nat → BitVec 6) (c : Nat → Bool) :
    Prop where
  done : ∃ t e', exec i s = .next t ∧ Retires s t e e' (rbOf i) ∧ WritesP e e' E p ∧ RaisesF e e' E fl ∧ SetsCt e e' E c ∧ KeepsV e e' ∧
    KeepsX e e' ∧ KeepsD e e' ∧ NextPcs e e' ∧ KeepsS e e' ∧ KeepsBoundary e e'

/-- The word in execution leaves one deferred write for the boundary and changes nothing before it (R83). -/
structure DefersWord (s : State) (e : Env) (i : Instr) (f : DForm) : Prop where
  done : ∃ t e', exec i s = .next t ∧ Retires s t e e' (rbOf i) ∧ KeepsLanes e e' ∧ NextPcs e e' ∧ KeepsS e e' ∧
    e'.r.deferred = e.r.deferred ++ [{ pc := e.r.at_, pos := e.r.pos + 1, b := e.b, begun := e.rd.begun, form := f }] ∧
    e'.r.effects = e.r.effects ∧ e'.r.ctl = e.r.ctl ∧ e'.r.pause = e.r.pause ∧ e'.r.exit = none ∧ e'.r.tfence = e.r.tfence

/-- The word in execution writes V registers, changes predicates, raises flags and sets control taint in its lanes of E before the next
word, and nothing else. -/
structure LaneWordAll (s : State) (e : Env) (i : Instr) (E : List Nat) (val : Nat → Nat → Option VCell) (p : Nat → BitVec 8)
    (fl : Nat → BitVec 6) (c : Nat → Bool) : Prop where
  done : ∃ t e', exec i s = .next t ∧ Retires s t e e' (rbOf i) ∧ WritesV e e' E val ∧ WritesP e e' E p ∧ RaisesF e e' E fl ∧
    SetsCt e e' E c ∧ KeepsX e e' ∧ KeepsD e e' ∧ NextPcs e e' ∧ KeepsS e e' ∧ KeepsBoundary e e'

/-- The word in execution changes nothing but the PC. -/
structure IdleWord (s : State) (e : Env) (i : Instr) : Prop where
  done : ∃ t e', exec i s = .next t ∧ Retires s t e e' (rbOf i) ∧ KeepsLanes e e' ∧ NextPcs e e' ∧ KeepsS e e' ∧ KeepsBoundary e e'

/-- The word in execution leaves writes of control state for the boundary of its run and changes nothing before it (R89, R96). -/
structure CtlWord (s : State) (e : Env) (i : Instr) (l : List CtlWrite) : Prop where
  done : ∃ t e', exec i s = .next t ∧ Retires s t e e' (rbOf i) ∧ KeepsLanes e e' ∧ NextPcs e e' ∧ KeepsS e e' ∧
    e'.r.deferred = e.r.deferred ∧ e'.r.effects = e.r.effects ∧ e'.r.ctl = e.r.ctl ++ l ∧ e'.r.pause = e.r.pause ∧ e'.r.exit = none ∧
    e'.r.tfence = e.r.tfence

/-! ### Results by the width of a type -/

/-- A result of the type's width from one source. -/
def result1 (e : Env) (o : OpF) (f : (w : Nat) → BitVec w → BitVec w) (L n : Nat) : Option VCell :=
  if o.wide then reg64 o.d (f 64 (e.v64 L o.a).w) (e.dt L (e.v64 L o.a).t) n
  else reg32 o.d (f 32 (e.v32 L o.a).w) (e.dt L (e.v32 L o.a).t) n

/-- A result of the type's width from two sources. -/
def result2 (e : Env) (o : OpF) (f : (w : Nat) → BitVec w → BitVec w → BitVec w) (L n : Nat) : Option VCell :=
  if o.wide then reg64 o.d (f 64 (e.v64 L o.a).w (e.v64 L o.b).w) (e.dt L ((e.v64 L o.a).t || (e.v64 L o.b).t)) n
  else reg32 o.d (f 32 (e.v32 L o.a).w (e.v32 L o.b).w) (e.dt L ((e.v32 L o.a).t || (e.v32 L o.b).t)) n

/-- A 32-bit result from three 32-bit sources. -/
def result3 (e : Env) (o : OpF) (f : Word32 → Word32 → Word32 → Word32) (L n : Nat) : Option VCell :=
  reg32 o.d (f (e.v32 L o.a).w (e.v32 L o.b).w (e.v32 L o.c).w)
    (e.dt L ((e.v32 L o.a).t || (e.v32 L o.b).t || (e.v32 L o.c).t)) n

/-- A shift of the type's width by a 32-bit count (R219). -/
def resultShift (e : Env) (o : OpF) (f : (w : Nat) → BitVec w → Nat → BitVec w) (L n : Nat) : Option VCell :=
  if o.wide then reg64 o.d (f 64 (e.v64 L o.a).w (e.v32 L o.b).w.toNat) (e.dt L ((e.v64 L o.a).t || (e.v32 L o.b).t)) n
  else reg32 o.d (f 32 (e.v32 L o.a).w (e.v32 L o.b).w.toNat) (e.dt L ((e.v32 L o.a).t || (e.v32 L o.b).t)) n

/-- A count in one register of an operand of the type's width (R220). -/
def resultCount (e : Env) (o : OpF) (f : (w : Nat) → BitVec w → Nat) (L n : Nat) : Option VCell :=
  if o.wide then reg32 o.d (BitVec.ofNat 32 (f 64 (e.v64 L o.a).w)) (e.dt L (e.v64 L o.a).t) n
  else reg32 o.d (BitVec.ofNat 32 (f 32 (e.v32 L o.a).w)) (e.dt L (e.v32 L o.a).t) n

/-- A 32-bit result from a source and the immediate (R225). -/
def resultImm (e : Env) (o : OpI) (f : Word32 → Word32 → Word32) (L n : Nat) : Option VCell :=
  reg32 o.d (f (e.v32 L o.a).w (o.imm.signExtend 32)) (e.dt L (e.v32 L o.a).t) n

/-- A 64-bit uniform result (R226): the register is written whole, and its tag goes (R370). -/
def uniform (e : Env) (d : BitVec 8) (w : Word64) (t : Bool) (n : Nat) : Option SCell :=
  if n = d.toNat then some { w := w, tag := .none, t := if e.ut t then 3 else 0 } else none

/-- The executing set of a layout-I word. -/
def Env.setI (e : Env) (o : OpI) : List Nat := e.exec o.ge o.gn o.gd

/-- A multiply and add of the type's width (R217). -/
def resultMad (e : Env) (o : OpF) (L n : Nat) : Option VCell :=
  if o.wide then
    reg64 o.d ((e.v64 L o.a).w * (e.v64 L o.b).w + (e.v64 L o.c).w) (e.dt L ((e.v64 L o.a).t || (e.v64 L o.b).t || (e.v64 L o.c).t)) n
  else
    reg32 o.d ((e.v32 L o.a).w * (e.v32 L o.b).w + (e.v32 L o.c).w) (e.dt L ((e.v32 L o.a).t || (e.v32 L o.b).t || (e.v32 L o.c).t)) n

/-- A binary32 result, with the taint of its sources. -/
def resultF (e : Env) (o : OpF) (r : Nat → Nat × Flags) (src : Nat → Bool) (L n : Nat) : Option VCell :=
  reg32 o.d (BitVec.ofNat 32 (r L).1) (e.dt L (src L)) n
/-- A binary64 result. -/
def resultD (e : Env) (o : OpF) (r : Nat → Nat × Flags) (src : Nat → Bool) (L n : Nat) : Option VCell :=
  reg64 o.d (BitVec.ofNat 64 (r L).1) (e.dt L (src L)) n

/-- The taint of one, two and three 32-bit sources, and of 64-bit ones. -/
def src1 (e : Env) (o : OpF) (L : Nat) : Bool := (e.v32 L o.a).t
def src2 (e : Env) (o : OpF) (L : Nat) : Bool := (e.v32 L o.a).t || (e.v32 L o.b).t
def src3 (e : Env) (o : OpF) (L : Nat) : Bool := (e.v32 L o.a).t || (e.v32 L o.b).t || (e.v32 L o.c).t
def srcD1 (e : Env) (o : OpF) (L : Nat) : Bool := (e.v64 L o.a).t
def srcD2 (e : Env) (o : OpF) (L : Nat) : Bool := (e.v64 L o.a).t || (e.v64 L o.b).t
def srcD3 (e : Env) (o : OpF) (L : Nat) : Bool := (e.v64 L o.a).t || (e.v64 L o.b).t || (e.v64 L o.c).t

/-- A fixed-latency binary32 word with its flags (R231, R196). -/
def FloatWord (s : State) (e : Env) (i : Instr) (o : OpF) (r : Nat → Nat × Flags) (src : Nat → Bool) : Prop :=
  LaneWord s e i (e.setE o) (resultF e o r src) fun L => (r L).2
/-- A fixed-latency binary64 word with its flags (R239). -/
def DoubleWord (s : State) (e : Env) (i : Instr) (o : OpF) (r : Nat → Nat × Flags) (src : Nat → Bool) : Prop :=
  LaneWord s e i (e.setE o) (resultD e o r src) fun L => (r L).2

/-- The deferred write of a variable-latency binary32 word: D and the flags of every lane of E. -/
def lateF (e : Env) (o : OpF) (r : Nat → Nat × Flags) (src : Nat → Bool) : DForm :=
  .ready ((e.setE o).map fun L =>
    { lane := L, v := [(o.d.toNat, { w := BitVec.ofNat 32 (r L).1, t := e.dt L (src L) })], raise := (r L).2 }) []
/-- The deferred write of a variable-latency binary64 word. -/
def lateD (e : Env) (o : OpF) (r : Nat → Nat × Flags) (src : Nat → Bool) : DForm :=
  .ready ((e.setE o).map fun L =>
    { lane := L
      v := [(o.d.toNat, { w := (BitVec.ofNat 64 (r L).1).extractLsb' 0 32, t := e.dt L (src L) }),
            (o.d.toNat + 1, { w := (BitVec.ofNat 64 (r L).1).extractLsb' 32 32, t := e.dt L (src L) })]
      raise := (r L).2 }) []

/-- A predicate register after a push, or after a replacement of p0 (R156, R158). -/
def pushed (rep : Bool) (p : BitVec 8) (b : Bool) : BitVec 8 :=
  if rep then (p &&& 0xFE) ||| (if b then 1 else 0) else (p <<< 1) ||| (if b then 1 else 0)

/-! ### Words of other shapes -/

/-- The memory at the homes is in canonical form. -/
def memOk (s : State) : Prop := Memory.wf s.home.mem = true

/-- A word that sends its lanes on (R159): the lanes of E write V registers and take control taint, and every active lane stands where
`dest` says. -/
structure JumpWord (s : State) (e : Env) (i : Instr) (dest : Nat → Word64) (E : List Nat) (val : Nat → Nat → Option VCell)
    (c : Nat → Bool) : Prop where
  done : ∃ t e', exec i s = .next t ∧ Retires s t e e' (rbOf i) ∧ WritesV e e' E val ∧ SetsCt e e' E c ∧ KeepsX e e' ∧ KeepsP e e' ∧
    KeepsF e e' ∧ KeepsD e e' ∧ KeepsS e e' ∧ KeepsBoundary e e' ∧
    ∀ L, L < e.g.lanes.length → (e'.th L).pc = if e.r.active.getLsbD L then dest L else (e.th L).pc

/-- No V register is written. -/
def keepV (_ _ : Nat) : Option VCell := none

/-- The word in execution leaves deferred writes and boundary effects, in this order behind those of the words before it, and changes no
register (R82, R83). `e1` is the environment as the word leaves it: what it has changed besides is the difference of `e1` from what it
saw. -/
structure BoundaryWord (s : State) (e1 : Env) (i : Instr) (defs : List DForm) (effs : List Effect) : Prop where
  done : ∃ t e', exec i s = .next t ∧ Retires e1.s t e1 e' (rbOf i) ∧ KeepsLanes e1 e' ∧ NextPcs e1 e' ∧ KeepsS e1 e' ∧
    e'.r.deferred = e1.r.deferred ++
      defs.map (fun f => { pc := e1.r.at_, pos := e1.r.pos + 1, b := e1.b, begun := e1.rd.begun, form := f }) ∧
    e'.r.effects = e1.r.effects ++ effs ∧ e'.r.ctl = e1.r.ctl ∧ e'.r.pause = e1.r.pause ∧ e'.r.exit = none ∧ e'.r.tfence = e1.r.tfence

/-- A storing word: one boundary effect, and the flags of its conversions in the lanes of E (R350). -/
structure StoreWord (s : State) (e : Env) (i : Instr) (E : List Nat) (fl : Nat → BitVec 6) (eff : Effect) : Prop where
  done : ∃ t e', exec i s = .next t ∧ Retires s t e e' (rbOf i) ∧ RaisesF e e' E fl ∧ KeepsV e e' ∧ KeepsX e e' ∧ KeepsP e e' ∧
    KeepsC e e' ∧ NextPcs e e' ∧ KeepsS e e' ∧ e'.r.deferred = e.r.deferred ∧ e'.r.effects = e.r.effects ++ [eff] ∧
    e'.r.ctl = e.r.ctl ∧ e'.r.pause = e.r.pause ∧ e'.r.exit = none ∧ e'.r.tfence = e.r.tfence

/-- The word in execution faults (R86): its run ends before it with this fault, and nothing else of the machine changes; `e` is what it sees,
with the walks of its addresses counted. -/
def FaultsAt (s : State) (e : Env) (i : Instr) (cause : Nat) (addr : Word64) (lanes : LaneMask) : Prop :=
  ∃ t e' detail, exec i s = .next t ∧ env? t = some e' ∧ t = { e.s with groups := t.groups } ∧
    (∀ h, h ≠ e.g.ref → t.group? h = e.s.group? h) ∧ e'.g = { e.g with round := e'.g.round } ∧ e'.rd = e.rd.setRun e.b e'.r ∧
    e'.r = { e.r with ended := true,
                      fault := some { cause := cause, pc := e.r.at_, addr := addr, lanes := lanes, detail := detail,
                                      pos := e.r.pos + 1, stream := decide (e.b = .b) } }

/-- The word in execution traps in the lanes of E (R458): its run ends before it, and the other active lanes go on at the next word. -/
def TrapsIn (s : State) (e : Env) (i : Instr) (cause : Nat) (addr : Word64) (E : List Nat) : Prop :=
  ∃ t e', exec i s = .next t ∧ env? t = some e' ∧ t = { s with groups := t.groups } ∧
    (∀ h, h ≠ e.g.ref → t.group? h = s.group? h) ∧
    e'.g = { e.g with lanes := e'.g.lanes, round := e'.g.round } ∧ e'.rd = e.rd.setRun e.b e'.r ∧
    e'.r = { e.r with ended := true,
                      fault := some { cause := cause, pc := e.r.at_, addr := addr, lanes := lanesMask E, pos := e.r.pos + 1,
                                      stream := decide (e.b = .b) } } ∧
    ∀ L, L < e.g.lanes.length →
      e'.th L = { e.th L with pc := if e.r.active.getLsbD L ∧ L ∉ E then e.r.at_ + 8 else (e.th L).pc }

/-- The group's next key for an answer is taken. -/
def Env.nextKey (e : Env) : Env := { e with g := { e.g with keys := e.g.keys + 1 } }

/-- Nothing stands in the way of a word that leaves the log as `l` and reads some nodes (R251): the spill nodes are reached, no node
that the word reads or changes is poisoned, and no other run of the team that has changed the log may still be taken back (R256). -/
structure LogOpen (e : Env) (l : ExprLog) (reads fresh : List Nat) : Prop where
  free    : l ≠ e.team.log → e.logWaits = none
  clean   : e.team.log.poison.any (logReads e.team.log l reads fresh).contains = false
  reached : reachSpill e.s e.g e.ctx e.team (changedNodes e.team.log l ++ reads) (logReads e.team.log l reads fresh) = .ok

/-- The results of an interval word in its lanes. -/
def outsOf (e : Env) (o : OpF) (out : Nat → XOut) : List (Nat × XOut) := (e.setE o).map fun L => (L, out L)
/-- The results that need a node. -/
def freshOf (outs : List (Nat × XOut)) : Nat := (outs.filter fun x => x.2.isFresh).length
/-- The log after the nodes, counts and releases of an interval word, and the nodes that its releases read (R255). -/
def logAfter (e : Env) (d : BitVec 8) (outs : List (Nat × XOut)) (is : List Nat) (l : ExprLog) : ExprLog × List Nat :=
  holdAll (pkLogScr e.pkt) (fun t => (e.th t).xreg d.toNat) l (placeAll (pkLogScr e.pkt) outs is)
/-- The nodes that an interval word reads: those of its results' handles, the heads of the free lists it takes, those it releases. -/
def nodeReads (e : Env) (d : BitVec 8) (outs : List (Nat × XOut)) (is : List Nat) (l : ExprLog) : List Nat :=
  (outs.flatMap fun x => outReads x.2) ++ headsOf (pkLogScr e.pkt) e.team.log is ++ (logAfter e d outs is l).2.filter fun i => !is.contains i
/-- The new content of an X register. -/
def regX (d : BitVec 8) (placed : List (Nat × XCell × Option (Nat × Node))) (L n : Nat) : Option XCell :=
  if n = d.toNat then (placed.find? fun x => decide (x.1 = L)).map (·.2.1) else none

/-- Spill nodes that a word reads have counted at their stacks (R428). -/
def Env.readNodes (e : Env) (reads : List Nat) : Env := { e with s := e.s.chargeSpill e.g.core e.ctx e.team reads }
/-- An interval word of fixed latency (R247, R253, R255): where the log can supply every node its results need and nothing stands in its
way, the X register of every lane of E takes its result, the log holds the new nodes and drops the old handles, and nothing else
changes. -/
def IntervalWord (s : State) (e : Env) (i : Instr) (o : OpF) (out : Nat → XOut) (fl : Nat → BitVec 6) : Prop :=
  ∀ is l, ExprLog.reserve (pkLogScr e.pkt) (spillCap e.pkt) (freshOf (outsOf e o out)) e.team.log = some (is, l) →
    LogOpen e (logAfter e o.d (outsOf e o out) is l).1 (nodeReads e o.d (outsOf e o out) is l) is →
    let e1 := (e.readNodes (nodeReads e o.d (outsOf e o out) is l)).withTeamLog (logAfter e o.d (outsOf e o out) is l).1
    ∃ t e', exec i s = .next t ∧ Retires e1.s t e1 e' (rbOf i) ∧
      WritesX e e' (e.setE o) (regX o.d (placeAll (pkLogScr e.pkt) (outsOf e o out) is)) ∧
      RaisesF e e' (e.setE o) fl ∧ KeepsV e e' ∧ KeepsP e e' ∧ KeepsC e e' ∧ NextPcs e e' ∧ KeepsS e e' ∧ KeepsBoundary e e'

/-- What a slot of a paired word does in a lane (R37 to R39): the 32-bit result, the predicate pushed, the flags, and the taint of what it
reads; `k` is its imm8. -/
structure SlotOut where
  val  : Option Word32 := none
  push : Option Bool := none
  fl   : Flags := 0
  t    : Bool := false

/-- The slot operations (R38), each with RNE (R39). -/
def slotOut (op : Nat) (a b : Val 32) (k : Word32) : SlotOut :=
  let two (w : Word32) : SlotOut := { val := some w, t := a.t || b.t }
  let one (w : Word32) : SlotOut := { val := some w, t := a.t }
  let f (r : Nat × Flags) : SlotOut := { val := some (BitVec.ofNat 32 r.1), fl := r.2, t := a.t || b.t }
  let c (r : Bool) : SlotOut := { push := some r, t := a.t || b.t }
  let x := unpackF f32 a.w.toNat
  let y := unpackF f32 b.w.toNat
  let fc (r : Bool) : SlotOut := { c r with fl := if x.isSNaN || y.isSNaN then fIV else 0 }
  let sh (g : Word32 → Nat → Word32) (n : Word32) : Word32 := if 32 ≤ n.toNat then 0 else g a.w n.toNat
  if op = 1 then two (a.w + b.w) else if op = 2 then two (a.w - b.w) else if op = 3 then two (a.w * b.w)
  else if op = 4 then two (if b.w.slt a.w then b.w else a.w) else if op = 5 then two (if a.w.slt b.w then b.w else a.w)
  else if op = 6 then two (if b.w < a.w then b.w else a.w) else if op = 7 then two (if a.w < b.w then b.w else a.w)
  else if op = 8 then two (a.w &&& b.w) else if op = 9 then two (a.w ||| b.w) else if op = 10 then two (a.w ^^^ b.w)
  else if op = 11 then two (a.w &&& ~~~b.w)
  else if op = 12 then two (sh (· <<< ·) b.w) else if op = 13 then two (sh (· >>> ·) b.w)
  else if op = 14 then two (a.w.sshiftRight (min b.w.toNat 32))
  else if op = 15 then one a.w else if op = 16 then one (a.w + k) else if op = 17 then { val := some k }
  else if op = 18 then one (a.w &&& k) else if op = 19 then one (a.w ||| k) else if op = 20 then one (a.w ^^^ k)
  else if op = 21 then one (sh (· <<< ·) k) else if op = 22 then one (sh (· >>> ·) k)
  else if op = 23 then one (a.w.sshiftRight (min k.toNat 32))
  else if op = 32 then f (fAdd f32 0 x y) else if op = 33 then f (fAdd f32 0 x y.neg) else if op = 34 then f (fMul f32 0 x y)
  else if op = 35 then f (fMinMax f32 false a.w.toNat b.w.toNat) else if op = 36 then f (fMinMax f32 true a.w.toNat b.w.toNat)
  else if op = 40 then c (decide (a.w = b.w)) else if op = 41 then c (decide (a.w ≠ b.w))
  else if op = 42 then c (a.w.slt b.w) else if op = 43 then c (a.w.sle b.w)
  else if op = 44 then c (decide (a.w < b.w)) else if op = 45 then c (decide (a.w ≤ b.w))
  else if op = 46 then fc (condF 2 x y) else if op = 47 then fc (condF 3 x y) else if op = 48 then fc (condF 0 x y)
  else {}

/-- Nothing in an engine path holds up a command (R376): the addresses of the list have their alignments. -/
def AlignedAll (l : List (Word64 × Nat)) : Prop := ∀ p ∈ l, p.1.toNat % p.2 = 0

/-- A word reads a record at an address (R376): its value and taint, and the environment with the record's lines counted at HBM (R428);
`peers` says that the record may stand on a peer page (R423). Nothing keeps it waiting: the effects of run A of its round have left (R322),
and the budgets of the stacks have room. -/
def ReadsRec (e : Env) (peers : Bool) (va : Word64) (n : Nat) (e1 : Env) (v : Nat) (t : Bool) : Prop :=
  e.behindA = false ∧ ∃ lines, e.readRec peers va n = .ok lines v t ∧ e.s.linesOpen e.ctx.asid (pkClass e.pkt) lines = true ∧
    e1 = { e with s := (e.s.chargeLines e.ctx.asid (pkClass e.pkt) lines).bump }

/-- The result of rounding a nonzero real number to a format (R195): `y`, the multiple of the spacing at `x` that the mode picks, as bits; or
what an overflow gives; with its flags. The mode is that of R34: 0 RNE, 1 RTZ, 2 RDN, 3 RUP. -/
def RoundsTo (f : FloatFmt) (rm : Nat) (x : ℝ) (r : Nat × Flags) : Prop :=
  ∃ (k n : ℤ) (q : ℝ), (2 : ℝ) ^ k ≤ |x| ∧ |x| < (2 : ℝ) ^ (k + 1) ∧ q = (2 : ℝ) ^ (max k f.emin - f.fbits) ∧
    (rm = 0 → |n * q - x| ≤ q / 2 ∧ (|n * q - x| = q / 2 → n % 2 = 0)) ∧
    (rm = 1 → |n * q| ≤ |x| ∧ |x| < |n * q| + q ∧ 0 ≤ n * x) ∧
    (rm = 2 → n * q ≤ x ∧ x < n * q + q) ∧
    (rm = 3 → x ≤ n * q ∧ n * q < x + q) ∧
    (let big : ℝ := (2 ^ (f.fbits + 1) - 1) * (2 : ℝ) ^ (f.emax - f.fbits)
     let neg := decide (x < 0)
     (big < |n * q| → r.2 = fOF ||| fNX ∧
       r.1 = if rm = 0 ∨ (rm = 3 ∧ 0 < x) ∨ (rm = 2 ∧ x < 0) then f.infBits neg else f.maxBits neg) ∧
     (|n * q| ≤ big →
       (∃ m e, unpackF f r.1 = .fin neg m e ∧ (m : ℝ) * (2 : ℝ) ^ e = |n * q|) ∧
       r.2 = if n * q = x then 0 else if |x| < (2 : ℝ) ^ f.emin then fNX ||| fUF else fNX))
/-- The number that a finite value stands for. -/
def ratOf : FVal → ℚ
  | .fin neg m e => (if neg then -1 else 1) * (m : ℚ) * (2 : ℚ) ^ e
  | _ => 0

/-- No flag. -/
def noFlag (_ : Nat) : BitVec 6 := 0
/-- No control taint. -/
def noTaint (_ : Nat) : Bool := false

end Sys2Proof.Machine
end

