-- ==== Sys2Proof/Certificates/Slice0/Obligations.lean ====
section
/-!
DEFINITION. The statements for the provers, in the order of the spec's files. Each says which rule of spec/ it formalises.
-/
open Sys2Proof Sys2Proof.Machine

/-! ### Integer words (09 R216 to R229) -/

/-- 09 R216, R217, R222: the integer words of two sources write their result of the type's width to D of every lane of E, modulo 2^w, before
the next word, and change nothing else. -/
def Obligations.IntegerTwoSourceResults : Prop :=
  ∀ (s : State) (e : Env) (o : OpF), env? s = some e →
    LaneWord s e (.add o) (e.setE o) (result2 e o fun _ x y => x + y) noFlag ∧
    LaneWord s e (.sub o) (e.setE o) (result2 e o fun _ x y => x - y) noFlag ∧
    LaneWord s e (.mul o) (e.setE o) (result2 e o fun _ x y => x * y) noFlag ∧
    LaneWord s e (.mulh o) (e.setE o) (result2 e o fun w x y =>
      if signedTy o.ty then BitVec.ofInt w (x.toInt * y.toInt / 2 ^ w) else BitVec.ofNat w (x.toNat * y.toNat / 2 ^ w)) noFlag ∧
    LaneWord s e (.and o) (e.setE o) (result2 e o fun _ x y => x &&& y) noFlag ∧
    LaneWord s e (.or o) (e.setE o) (result2 e o fun _ x y => x ||| y) noFlag ∧
    LaneWord s e (.xor o) (e.setE o) (result2 e o fun _ x y => x ^^^ y) noFlag ∧
    LaneWord s e (.andn o) (e.setE o) (result2 e o fun _ x y => x &&& ~~~y) noFlag ∧
    LaneWord s e (.min o) (e.setE o) (result2 e o fun _ x y => if intLt (signedTy o.ty) y x then y else x) noFlag ∧
    LaneWord s e (.max o) (e.setE o) (result2 e o fun _ x y => if intLt (signedTy o.ty) x y then y else x) noFlag

/-- 09 R216, R219, R220, R222: the integer words of one source, the shifts and the counts. -/
def Obligations.IntegerOneSourceResults : Prop :=
  ∀ (s : State) (e : Env) (o : OpF), env? s = some e →
    LaneWord s e (.not o) (e.setE o) (result1 e o fun _ x => ~~~x) noFlag ∧
    LaneWord s e (.neg o) (e.setE o) (result1 e o fun _ x => -x) noFlag ∧
    LaneWord s e (.abs o) (e.setE o) (result1 e o fun _ x => if x.msb then -x else x) noFlag ∧
    LaneWord s e (.mov o) (e.setE o) (result1 e o fun _ x => x) noFlag ∧
    LaneWord s e (.brev o) (e.setE o) (result1 e o fun _ x => x.reverse) noFlag ∧
    LaneWord s e (.shl o) (e.setE o) (resultShift e o fun w x c => if w ≤ c then 0 else x <<< c) noFlag ∧
    LaneWord s e (.shr o) (e.setE o) (resultShift e o fun w x c => if w ≤ c then 0 else x >>> c) noFlag ∧
    LaneWord s e (.sar o) (e.setE o) (resultShift e o fun w x c => x.sshiftRight (min c w)) noFlag ∧
    LaneWord s e (.rotl o) (e.setE o) (resultShift e o fun w x c => x.rotateLeft (c % w)) noFlag ∧
    LaneWord s e (.popc o) (e.setE o) (resultCount e o fun w x => (List.range w).countP fun i => x.getLsbD i) noFlag ∧
    LaneWord s e (.clz o) (e.setE o) (resultCount e o fun w x => ((List.range w).find? fun i => x.getLsbD (w - 1 - i)).getD w) noFlag ∧
    LaneWord s e (.ctz o) (e.setE o) (resultCount e o fun w x => ((List.range w).find? fun i => x.getLsbD i).getD w) noFlag

/-- 09 R217, R219, R221, R222, R224: the integer words of other shapes: ADDC with its carry through p0, multiply and add, the funnel
shift, the bit fields, SEL, LEA, MOVW and CMP. BFX takes the bits of A from the position B, as many as the length C and no more than reach
bit 31, BFI puts the low bits of A there; a length of 0, and a position of 32 or more, give 0 and leave V[D]. -/
def Obligations.IntegerOtherResults : Prop :=
  ∀ (s : State) (e : Env) (o : OpF) (k : OpW), env? s = some e →
    LaneWordAll s e (.addc o) (e.setE o)
      (fun L n => reg32 o.d ((e.v32 L o.a).w + (e.v32 L o.b).w + (if e.p L 0 then 1 else 0)) (e.dt L (src2 e o L)) n)
      (fun L => pushed true (e.th L).pred
        (decide (2 ^ 32 ≤ (e.v32 L o.a).w.toNat + (e.v32 L o.b).w.toNat + (if e.p L 0 then 1 else 0))))
      noFlag (fun L => e.det && src2 e o L) ∧
    LaneWord s e (.mad o) (e.setE o) (resultMad e o) noFlag ∧
    LaneWord s e (.madw o) (e.setE o) (fun L n =>
      reg64 o.d (extT o.ty (e.v32 L o.a).w * extT o.ty (e.v32 L o.b).w + (e.v64 L o.c).w)
        (e.dt L ((e.v32 L o.a).t || (e.v32 L o.b).t || (e.v64 L o.c).t)) n) noFlag ∧
    LaneWord s e (.fshl o) (e.setE o) (result3 e o fun x y z => ((x ++ y) <<< (z.toNat % 32)).extractLsb' 32 32) noFlag ∧
    LaneWord s e (.bfx o) (e.setE o) (result3 e o (bfxOp (signedTy o.ty))) noFlag ∧
    LaneWord s e (.bfi o) (e.setE o) (fun L n =>
      reg32 o.d (bfiOp (e.v32 L o.d).w (e.v32 L o.a).w (e.v32 L o.b).w (e.v32 L o.c).w) (e.dt L (src3 e o L || (e.v32 L o.d).t)) n)
      noFlag ∧
    LaneWord s e (.sel o) (e.setE o) (fun L n => result2 e o (fun _ x y => if e.p L o.cond then x else y) L n) noFlag ∧
    LaneWord s e (.lea o) (e.setE o) (fun L n =>
      reg64 o.d ((e.v64 L o.a).w + (extT o.ty (e.v32 L o.b).w <<< o.field 2 2)) (e.dt L ((e.v64 L o.a).t || (e.v32 L o.b).t)) n) noFlag ∧
    LaneWord s e (.movw k) (e.exec k.ge k.gn k.gd) (fun L n => reg32 k.d k.imm (e.dt L false) n) noFlag ∧
    PredicateWord s e (.cmp o) (e.setE o)
      (fun L => pushed (o.bit 8) (e.th L).pred
        (if o.wide then condI o.cond (signedTy o.ty) (e.v64 L o.a).w (e.v64 L o.b).w
         else condI o.cond (signedTy o.ty) (e.v32 L o.a).w (e.v32 L o.b).w))
      noFlag (fun L => e.det && (if o.wide then (e.v64 L o.a).t || (e.v64 L o.b).t else src2 e o L)) ∧
    ∀ (sg : Bool) (d a b c : Word32),
      let p := min b.toNat 32
      let l := min c.toNat (32 - p)
      (c = 0 ∨ 32 ≤ b.toNat → bfxOp sg a b c = 0 ∧ bfiOp d a b c = d) ∧
      ∀ i, i < 32 →
        (0 < l → (bfxOp sg a b c).getLsbD i = if i < l then a.getLsbD (p + i) else (sg && a.getLsbD (p + l - 1))) ∧
        (bfiOp d a b c).getLsbD i = if p ≤ i ∧ i < p + l then a.getLsbD (i - p) else d.getLsbD i

/-- 09 R225: the integer immediate words, on 32 bits, with imm31 sign-extended. -/
def Obligations.IntegerImmediateResults : Prop :=
  ∀ (s : State) (e : Env) (o : OpI), env? s = some e →
    LaneWord s e (.addImm o) (e.setI o) (resultImm e o fun x k => x + k) noFlag ∧
    LaneWord s e (.mulImm o) (e.setI o) (resultImm e o fun x k => x * k) noFlag ∧
    LaneWord s e (.andImm o) (e.setI o) (resultImm e o fun x k => x &&& k) noFlag ∧
    LaneWord s e (.orImm o) (e.setI o) (resultImm e o fun x k => x ||| k) noFlag ∧
    LaneWord s e (.xorImm o) (e.setI o) (resultImm e o fun x k => x ^^^ k) noFlag ∧
    LaneWord s e (.shlImm o) (e.setI o) (resultImm e o fun x k => if 32 ≤ k.toNat then 0 else x <<< k.toNat) noFlag ∧
    LaneWord s e (.shrImm o) (e.setI o) (resultImm e o fun x k => if 32 ≤ k.toNat then 0 else x >>> k.toNat) noFlag ∧
    LaneWord s e (.sarImm o) (e.setI o) (resultImm e o fun x k => x.sshiftRight (min k.toNat 32)) noFlag ∧
    LaneWord s e (.rotlImm o) (e.setI o) (resultImm e o fun x k => x.rotateLeft (k.toNat % 32)) noFlag

/-- 09 R226, R229: the uniform words on two S registers, and on one and the immediate, write S[D] before the next word. -/
def Obligations.UniformResults : Prop :=
  ∀ (s : State) (e : Env) (o : OpF) (k : OpI) (q : OpW), env? s = some e →
    let x := (e.us o.a).w
    let y := (e.us o.b).w
    let tt := (e.us o.a).t || (e.us o.b).t
    let m := (e.us k.a).w
    let j := k.imm.signExtend 64
    UniformWord s e (.uadd o) (uniform e o.d (x + y) tt) ∧ UniformWord s e (.usub o) (uniform e o.d (x - y) tt) ∧
    UniformWord s e (.umul o) (uniform e o.d (x * y) tt) ∧
    UniformWord s e (.umulh o) (uniform e o.d
      (if signedTy o.ty then BitVec.ofInt 64 (x.toInt * y.toInt / 2 ^ 64) else BitVec.ofNat 64 (x.toNat * y.toNat / 2 ^ 64)) tt) ∧
    UniformWord s e (.uand o) (uniform e o.d (x &&& y) tt) ∧ UniformWord s e (.uor o) (uniform e o.d (x ||| y) tt) ∧
    UniformWord s e (.uxor o) (uniform e o.d (x ^^^ y) tt) ∧
    UniformWord s e (.ushl o) (uniform e o.d (if 64 ≤ y.toNat then 0 else x <<< y.toNat) tt) ∧
    UniformWord s e (.ushr o) (uniform e o.d (if 64 ≤ y.toNat then 0 else x >>> y.toNat) tt) ∧
    UniformWord s e (.usar o) (uniform e o.d (x.sshiftRight (min y.toNat 64)) tt) ∧
    UniformWord s e (.umin o) (uniform e o.d (if intLt (signedTy o.ty) y x then y else x) tt) ∧
    UniformWord s e (.umax o) (uniform e o.d (if intLt (signedTy o.ty) x y then y else x) tt) ∧
    UniformWord s e (.ucmp o) (uniform e o.d (if condI o.cond (signedTy o.ty) x y then 1 else 0) tt) ∧
    UniformWord s e (.ulea o) (uniform e o.d (x + (y <<< o.cond)) tt) ∧
    UniformWord s e (.umov o) (uniform e o.d x (e.us o.a).t) ∧
    UniformWord s e (.umovw q) (uniform e q.d (q.imm.zeroExtend 64) false) ∧
    UniformWord s e (.uaddImm k) (uniform e k.d (m + j) (e.us k.a).t) ∧ UniformWord s e (.umulImm k) (uniform e k.d (m * j) (e.us k.a).t) ∧
    UniformWord s e (.uandImm k) (uniform e k.d (m &&& j) (e.us k.a).t) ∧ UniformWord s e (.uorImm k) (uniform e k.d (m ||| j) (e.us k.a).t) ∧
    UniformWord s e (.uxorImm k) (uniform e k.d (m ^^^ j) (e.us k.a).t) ∧
    UniformWord s e (.ushlImm k) (uniform e k.d (if 64 ≤ j.toNat then 0 else m <<< j.toNat) (e.us k.a).t) ∧
    UniformWord s e (.ushrImm k) (uniform e k.d (if 64 ≤ j.toNat then 0 else m >>> j.toNat) (e.us k.a).t) ∧
    UniformWord s e (.usarImm k) (uniform e k.d (m.sshiftRight (min j.toNat 64)) (e.us k.a).t)

/-- 09 R218, R227, R228, 08 R188: DIV, REM, UDIV and URDV leave their result for the boundary and change nothing before it. The quotient
truncates toward zero with the remainder of the dividend's sign; a divisor of 0 gives all ones, the dividend and DZ; the most negative
number over −1 gives itself and 0, with no flag. URDV gives the value that the lane of S[B] supplies, 0 beyond lane 127, the value of a
broadcast S register whatever S[B] is. -/
def Obligations.DivisionResults : Prop :=
  (∀ (s : State) (e : Env) (o : OpF), env? s = some e →
    let q32 (L : Nat) := divRem (signedTy o.ty) (e.v32 L o.a).w (e.v32 L o.b).w
    let q64 (L : Nat) := divRem (signedTy o.ty) (e.v64 L o.a).w (e.v64 L o.b).w
    let uq := divRem (signedTy o.ty) (e.us o.a).w (e.us o.b).w
    let ext (w : Word32) : Word64 := if signedTy o.ty then w.signExtend 64 else w.zeroExtend 64
    let j := (e.us o.b).w.toNat
    let reads (w : Word64) (t : Bool) : Prop :=
      DefersWord s e (.urdv o) (.ready [] [(o.d.toNat, { w := w, tag := .none, t := if e.ut (t || (e.us o.b).t) then 3 else 0 })])
    (o.wide = false →
      DefersWord s e (.div o) (lateF e o (fun L => ((q32 L).1.toNat, (q32 L).2.2)) (src2 e o)) ∧
      DefersWord s e (.rem o) (lateF e o (fun L => ((q32 L).2.1.toNat, (q32 L).2.2)) (src2 e o))) ∧
    (o.wide = true →
      DefersWord s e (.div o) (lateD e o (fun L => ((q64 L).1.toNat, (q64 L).2.2)) (srcD2 e o)) ∧
      DefersWord s e (.rem o) (lateD e o (fun L => ((q64 L).2.1.toNat, (q64 L).2.2)) (srcD2 e o))) ∧
    DefersWord s e (.udiv o) (.ready
      (e.active.map fun t => { lane := t, raise := if (e.us o.b).w = 0 then fDZ else 0 })
      [(o.d.toNat, { w := if o.bit 5 then uq.2.1 else uq.1, tag := .none, t := if e.ut ((e.us o.a).t || (e.us o.b).t) then 3 else 0 })]) ∧
    (128 ≤ o.a.toNat → (o.wide = false → reads (ext (e.v32 0 o.a).w) (e.v32 0 o.a).t) ∧ (o.wide = true → reads (e.v64 0 o.a).w (e.v64 0 o.a).t)) ∧
    (o.a.toNat < 128 → 127 < j → reads 0 false) ∧
    (o.a.toNat < 128 → j ≤ 127 →
      (o.wide = false → reads (ext (e.supply32 j o.a).w) (e.supply32 j o.a).t) ∧
      (o.wide = true → reads (e.supply64 j o.a).w (e.supply64 j o.a).t))) ∧
  ∀ (w : Nat) (x y : BitVec w),
    (∀ sg : Bool, y = 0 → divRem sg x y = (BitVec.allOnes w, x, fDZ)) ∧
    (y ≠ 0 → divRem false x y = (BitVec.ofNat w (x.toNat / y.toNat), BitVec.ofNat w (x.toNat % y.toNat), 0)) ∧
    (y ≠ 0 → divRem true x y = (BitVec.ofInt w (x.toInt.tdiv y.toInt), BitVec.ofInt w (x.toInt.tmod y.toInt), 0)) ∧
    (0 < w → divRem true (BitVec.intMin w) (BitVec.allOnes w) = (BitVec.intMin w, 0, 0))

/-! ### Rounding (08 R194, R195) -/

/-- 08 R195: round_to gives the multiple of the spacing at x that the mode picks, or what an overflow gives, with OF, UF and NX; a NaN gives
the canonical NaN, an infinity or a zero itself. 09 R231, R232, R236: a sum, product, fused product, quotient, root or scaled number is
round_to of its exact value, and a zero takes its sign by 08 R194; FRND gives the integral value that the mode picks, with the sign of its
operand and no flag. 08 R190, R192, R196, 09 R231, R232: a NaN operand gives the canonical NaN, with IV where one signals; what infinities,
zeros, a zero divisor, an infinity times zero and a root of a negative number give. FEXP2 and FLOG2 give round_to of a value within 2^−200
of the exact one, relative, and of the exact one where that is rational; NX is raised everywhere else. -/
def Obligations.RoundingIsCorrect : Prop :=
  ∀ (f : FloatFmt) (rm : Nat), f ∈ [f16, bf16, f32, f64] → rm < 4 →
    let rounds (x : ℚ) (r : Nat × Flags) : Prop := RoundsTo f rm x r
    let zero (neg : Bool) : Nat × Flags := (f.signBit neg, 0)
    (∀ neg m e, m ≠ 0 → rounds (ratOf (.fin neg m e)) (roundVal f rm (.fin neg m e))) ∧
    (∀ neg e, roundVal f rm (.fin neg 0 e) = zero neg) ∧ (∀ neg, roundVal f rm (.inf neg) = (f.infBits neg, 0)) ∧
    (∀ sg, roundVal f rm (.nan sg) = (f.canonNaN, 0)) ∧
    (∀ n1 m1 e1 n2 m2 e2,
      let x : FVal := .fin n1 m1 e1
      let y : FVal := .fin n2 m2 e2
      (ratOf x + ratOf y ≠ 0 → rounds (ratOf x + ratOf y) (fAdd f rm x y)) ∧
      (ratOf x + ratOf y = 0 → fAdd f rm x y = zero (if m1 = 0 ∧ m2 = 0 ∧ n1 = n2 then n1 else rm == 2)) ∧
      (ratOf x * ratOf y ≠ 0 → rounds (ratOf x * ratOf y) (fMul f rm x y)) ∧
      (ratOf x * ratOf y = 0 → fMul f rm x y = zero (n1 != n2)) ∧
      (ratOf x ≠ 0 → ratOf y ≠ 0 → rounds (ratOf x / ratOf y) (fDiv f rm x y)) ∧
      ∀ n3 m3 e3, let z : FVal := .fin n3 m3 e3
        ratOf x * ratOf y + ratOf z ≠ 0 → rounds (ratOf x * ratOf y + ratOf z) (fFma f rm x y z)) ∧
    (∀ m e, m ≠ 0 → RoundsTo f rm (Real.sqrt (ratOf (.fin false m e))) (fSqrt f rm (.fin false m e)) ∧
      RoundsTo f rm (1 / Real.sqrt (ratOf (.fin false m e))) (fRsqrt f rm (.fin false m e))) ∧
    -- special operands
    [f16, bf16, f32, f64].map FloatFmt.canonNaN = [0x7E00, 0x7FC0, 0x7FC00000, 0x7FF8000000000000] ∧
    (let nan (iv : Bool) : Nat × Flags := (f.canonNaN, if iv then fIV else 0)
     let inf (neg : Bool) : Nat × Flags := (f.infBits neg, 0)
     (∀ x y z : FVal,
      (x.isNaN = true ∨ y.isNaN = true →
        let r := nan (x.isSNaN || y.isSNaN)
        fAdd f rm x y = r ∧ fMul f rm x y = r ∧ fDiv f rm x y = r) ∧
      (zeroTimesInf x y = false → x.isNaN = true ∨ y.isNaN = true ∨ z.isNaN = true →
        fFma f rm x y z = nan (x.isSNaN || y.isSNaN || z.isSNaN))) ∧
     (∀ sg, fSqrt f rm (.nan sg) = nan sg ∧ fRsqrt f rm (.nan sg) = nan sg ∧ fExp2 f rm (.nan sg) = nan sg ∧ fLog2 f rm (.nan sg) = nan sg) ∧
     (∀ a b, fAdd f rm (.inf a) (.inf b) = (if a = b then inf a else nan true) ∧ fMul f rm (.inf a) (.inf b) = inf (a != b) ∧
       fDiv f rm (.inf a) (.inf b) = nan true) ∧
     (∀ a n m e, let y : FVal := .fin n m e
       fAdd f rm (.inf a) y = inf a ∧ fAdd f rm y (.inf a) = inf a ∧
       fMul f rm (.inf a) y = (if m = 0 then nan true else inf (a != n)) ∧ fMul f rm y (.inf a) = (if m = 0 then nan true else inf (n != a)) ∧
       fDiv f rm (.inf a) y = inf (a != n) ∧ fDiv f rm y (.inf a) = zero (n != a) ∧
       (∀ z, m = 0 → fFma f rm (.inf a) y z = nan true ∧ fFma f rm y (.inf a) z = nan true)) ∧
     (∀ n1 m1 e1 n2 m2 e2, let x : FVal := .fin n1 m1 e1
       let y : FVal := .fin n2 m2 e2
       (m2 = 0 → fDiv f rm x y = if m1 = 0 then nan true else (f.infBits (n1 != n2), fDZ)) ∧
       (m1 = 0 → m2 ≠ 0 → fDiv f rm x y = zero (n1 != n2)) ∧
       (∀ n3 m3 e3, let z : FVal := .fin n3 m3 e3
         let p := n1 != n2
         ratOf x * ratOf y + ratOf z = 0 →
           fFma f rm x y z = zero (if (m1 = 0 ∨ m2 = 0) ∧ m3 = 0 ∧ p = n3 then p else rm == 2)) ∧
       ∀ a, fFma f rm x y (.inf a) = inf a) ∧
     (∀ x y : FVal, ∀ a, mulVal x y = .inf a → zeroTimesInf x y = false →
       (∀ n m e, fFma f rm x y (.fin n m e) = inf a) ∧ ∀ b, fFma f rm x y (.inf b) = if a = b then inf a else nan true) ∧
     (∀ n m e, let x : FVal := .fin n m e
       (m = 0 → fSqrt f rm x = zero n ∧ fRsqrt f rm x = inf n ∧ fExp2 f rm x = roundVal f rm (.fin false 1 0) ∧
         fLog2 f rm x = (f.infBits true, fDZ)) ∧
       (m ≠ 0 → n = true → fSqrt f rm x = nan true ∧ fRsqrt f rm x = nan true ∧ fLog2 f rm x = nan true)) ∧
     fSqrt f rm (.inf false) = inf false ∧ fSqrt f rm (.inf true) = nan true ∧ fRsqrt f rm (.inf false) = zero false ∧
     fRsqrt f rm (.inf true) = nan true ∧ fExp2 f rm (.inf true) = zero false ∧ fExp2 f rm (.inf false) = inf false ∧
     fLog2 f rm (.inf false) = inf false ∧ fLog2 f rm (.inf true) = nan true) ∧
    -- FRND, FSCL, FEXP2 and FLOG2 of binary32
    ∀ w : Word32,
      let x := unpackF f32 w.toNat
      let A : ℝ := (ratOf x : ℚ)
      (∀ sg, x = .nan sg → fRnd f32 rm w.toNat = (0x7FC00000, if sg then fIV else 0) ∧
        ∀ k, fScl f32 rm w.toNat k = (0x7FC00000, if sg then fIV else 0)) ∧
      (x.isNaN = false → x.isFinNZ = false → fRnd f32 rm w.toNat = (w.toNat, 0) ∧ ∀ k, fScl f32 rm w.toNat k = (w.toNat, 0)) ∧
      (x.isFinNZ = true →
        (∀ k : ℤ, RoundsTo f32 rm (A * (2 : ℝ) ^ k) (fScl f32 rm w.toNat k)) ∧
        (∃ i : ℤ, let r := fRnd f32 rm w.toNat
          r.2 = 0 ∧ (unpackF f32 r.1).sign = w.msb ∧ ((unpackF f32 r.1).isZero = true ∨ (unpackF f32 r.1).isFinNZ = true) ∧
          ratOf (unpackF f32 r.1) = i ∧
          (rm = 0 → |(i : ℝ) - A| ≤ 1 / 2 ∧ (|(i : ℝ) - A| = 1 / 2 → i % 2 = 0)) ∧ (rm = 1 → |(i : ℝ)| ≤ |A| ∧ |A| < |(i : ℝ)| + 1 ∧ 0 ≤ i * A) ∧
          (rm = 2 → i ≤ A ∧ A < i + 1) ∧ (rm = 3 → A ≤ i ∧ i < A + 1)) ∧
        (∃ y : ℝ, |y - (2 : ℝ) ^ A| ≤ (2 : ℝ) ^ A * (2 : ℝ) ^ (-200 : ℤ) ∧ RoundsTo f32 rm y (fExp2 f32 rm x) ∧
          (∀ k : ℤ, A = k → y = (2 : ℝ) ^ k) ∧ ((∀ k : ℤ, A ≠ k) → (fExp2 f32 rm x).2 &&& fNX = fNX)) ∧
        (w.msb = false → (A = 1 → fLog2 f32 rm x = (0, 0)) ∧ (A ≠ 1 →
          ∃ y : ℝ, |y - Real.logb 2 A| ≤ |Real.logb 2 A| * (2 : ℝ) ^ (-200 : ℤ) ∧ RoundsTo f32 rm y (fLog2 f32 rm x) ∧
            (∀ k : ℤ, A = (2 : ℝ) ^ k → y = k) ∧ ((∀ k : ℤ, A ≠ (2 : ℝ) ^ k) → (fLog2 f32 rm x).2 &&& fNX = fNX))))

/-! ### Floating words (09 R230 to R244) -/

/-- 09 R231 to R238: the binary32 words that finish before the next word: one result a lane, rounded as RoundingIsCorrect says, with its
flags. Those of variable latency leave their results and flags for the boundary. FSUB adds the negated operand, which fixes the sign of a
difference of two zeros: the model's choice, log 76 (DESIGN CHOICE). 09 R235: the bit that FCLASS sets, and that it raises nothing. -/
def Obligations.Binary32Results : Prop :=
  ∀ (s : State) (e : Env) (o : OpF), env? s = some e →
    let x (L : Nat) := unpackF f32 (e.v32 L o.a).w.toNat
    let y (L : Nat) := unpackF f32 (e.v32 L o.b).w.toNat
    let z (L : Nat) := unpackF f32 (e.v32 L o.c).w.toNat
    FloatWord s e (.fadd o) o (fun L => fAdd f32 o.low2 (x L) (y L)) (src2 e o) ∧
    FloatWord s e (.fsub o) o (fun L => fAdd f32 o.low2 (x L) (y L).neg) (src2 e o) ∧
    FloatWord s e (.fmul o) o (fun L => fMul f32 o.low2 (x L) (y L)) (src2 e o) ∧
    FloatWord s e (.ffma o) o (fun L => fFma f32 o.low2 (x L) (y L) (z L)) (src3 e o) ∧
    FloatWord s e (.fmin o) o (fun L => fMinMax f32 false (e.v32 L o.a).w.toNat (e.v32 L o.b).w.toNat) (src2 e o) ∧
    FloatWord s e (.fmax o) o (fun L => fMinMax f32 true (e.v32 L o.a).w.toNat (e.v32 L o.b).w.toNat) (src2 e o) ∧
    FloatWord s e (.fclass o) o (fun L => (fClass f32 (e.v32 L o.a).w.toNat, 0)) (src1 e o) ∧
    FloatWord s e (.frnd o) o (fun L => fRnd f32 o.low2 (e.v32 L o.a).w.toNat) (src1 e o) ∧
    FloatWord s e (.fscl o) o (fun L => fScl f32 o.low2 (e.v32 L o.a).w.toNat (e.v32 L o.b).w.toInt) (src2 e o) ∧
    LaneWord s e (.fsel o) (e.setE o) (result3 e o fun x y z => if z.msb then y else x) noFlag ∧
    PredicateWord s e (.fcmp o) (e.setE o) (fun L => pushed (o.bit 8) (e.th L).pred (condF o.cond (x L) (y L)))
      (fun L => if (x L).isSNaN || (y L).isSNaN then fIV else 0) (fun L => e.det && src2 e o L) ∧
    DefersWord s e (.fdiv o) (lateF e o (fun L => fDiv f32 o.low2 (x L) (y L)) (src2 e o)) ∧
    DefersWord s e (.fsqrt o) (lateF e o (fun L => fSqrt f32 o.low2 (x L)) (src1 e o)) ∧
    DefersWord s e (.frcp o) (lateF e o (fun L => fDiv f32 o.low2 (.fin false 1 0) (x L)) (src1 e o)) ∧
    DefersWord s e (.frsq o) (lateF e o (fun L => fRsqrt f32 o.low2 (x L)) (src1 e o)) ∧
    DefersWord s e (.fexp2 o) (lateF e o (fun L => fExp2 f32 o.low2 (x L)) (src1 e o)) ∧
    DefersWord s e (.flog2 o) (lateF e o (fun L => fLog2 f32 o.low2 (x L)) (src1 e o)) ∧
    ∀ w : Word32,
      let mag := w.toNat % 2 ^ 31
      fClass f32 w.toNat = 2 ^ (if 0x7FC00000 ≤ mag then 9 else if 0x7F800000 < mag then 8 else
        if w.msb then (if mag = 0x7F800000 then 0 else if 0x800000 ≤ mag then 1 else if 0 < mag then 2 else 3)
        else if mag = 0x7F800000 then 7 else if 0x800000 ≤ mag then 6 else if 0 < mag then 5 else 4)

/-- 08 R193: FMIN and FMAX return the other operand where one is a NaN, the canonical NaN where both are, else the lower or the higher
operand, −0 below +0; a signalling NaN raises IV, and nothing else does. The two examples of the rule. -/
def Obligations.MinMaxValues : Prop :=
  let mag (w : Word32) : Nat := w.toNat % 2 ^ 31
  let nan (w : Word32) : Bool := decide (0x7F800000 < mag w)
  let place (w : Word32) : Int := if w.msb then -(mag w : Int) - 1 else mag w
  let pick (mx : Bool) (a b : Word32) : Nat × Flags :=
    ((if nan a && nan b then 0x7FC00000 else if nan a then b.toNat else if nan b then a.toNat
      else if mx then (if place a < place b then b.toNat else a.toNat) else (if place b < place a then b.toNat else a.toNat)),
     if (nan a && !a.getLsbD 22) || (nan b && !b.getLsbD 22) then fIV else 0)
  (∀ (s : State) (e : Env) (o : OpF), env? s = some e →
    FloatWord s e (.fmin o) o (fun L => pick false (e.v32 L o.a).w (e.v32 L o.b).w) (src2 e o) ∧
    FloatWord s e (.fmax o) o (fun L => pick true (e.v32 L o.a).w (e.v32 L o.b).w) (src2 e o)) ∧
  pick true 0 0x80000000 = (0, 0) ∧ pick true 0x80000000 0 = (0, 0) ∧ pick true 0x7FA00000 0x40000000 = (0x40000000, fIV)

/-- 09 R237, R240 to R243: the packed 16-bit words compute their two halves apart; CVT, PACK and UNPACK convert once. 08 R198, R200, R202, 09
R240: what a conversion gives, from the value read to the bits of the result, and its register form. -/
def Obligations.PackedAndConversionResults : Prop :=
  (∀ (s : State) (e : Env) (o : OpF), env? s = some e →
    let f := if o.ty = 9 then f16 else bf16
    let lo (L : Nat) (r : BitVec 8) := unpackF f ((e.v32 L r).w.toNat % 65536)
    let hi (L : Nat) (r : BitVec 8) := unpackF f ((e.v32 L r).w.toNat / 65536)
    let both (g : (Nat → BitVec 8 → FVal) → Nat → Nat × Flags) (L : Nat) : Nat × Flags :=
      ((g lo L).1 + 65536 * (g hi L).1, (g lo L).2 ||| (g hi L).2)
    FloatWord s e (.hadd2 o) o (both fun h L => fAdd f o.low2 (h L o.a) (h L o.b)) (src2 e o) ∧
    FloatWord s e (.hmul2 o) o (both fun h L => fMul f o.low2 (h L o.a) (h L o.b)) (src2 e o) ∧
    FloatWord s e (.hfma2 o) o (both fun h L => fFma f o.low2 (h L o.a) (h L o.b) (h L o.c)) (src3 e o) ∧
    (o.wide = false →
      FloatWord s e (.cvt o) o (fun L => convertReg o.ty o.ty2 o.low2 (e.vsrc L (tyWide o.ty2) o.a).w.toNat)
        (fun L => (e.vsrc L (tyWide o.ty2) o.a).t)) ∧
    (o.wide = true →
      DoubleWord s e (.cvt o) o (fun L => convertReg o.ty o.ty2 o.low2 (e.vsrc L (tyWide o.ty2) o.a).w.toNat)
        (fun L => (e.vsrc L (tyWide o.ty2) o.a).t)) ∧
    (tyBits o.ty = 16 →
      FloatWord s e (.pack o) o (fun L =>
        ((convert o.ty o.ty2 o.low2 (e.v32 L o.a).w.toNat).1 + 65536 * (convert o.ty o.ty2 o.low2 (e.v32 L o.b).w.toNat).1,
         (convert o.ty o.ty2 o.low2 (e.v32 L o.a).w.toNat).2 ||| (convert o.ty o.ty2 o.low2 (e.v32 L o.b).w.toNat).2)) (src2 e o)) ∧
    (tyBits o.ty ≠ 16 →
      FloatWord s e (.pack o) o (fun L =>
        let w := (convert o.ty o.ty2 o.low2 (e.v32 L o.a).w.toNat).1 % 256 +
          256 * ((convert o.ty o.ty2 o.low2 (e.v32 L o.b).w.toNat).1 % 256)
        let old := (e.v32 L o.d).w.toNat
        (if o.bit 5 then old % 65536 + 65536 * w else w + 65536 * (old / 65536),
         (convert o.ty o.ty2 o.low2 (e.v32 L o.a).w.toNat).2 ||| (convert o.ty o.ty2 o.low2 (e.v32 L o.b).w.toNat).2))
        (fun L => src2 e o L || (e.v32 L o.d).t)) ∧
    FloatWord s e (.unpack o) o (fun L => convertReg o.ty o.ty2 o.low2 ((e.v32 L o.a).w.toNat >>> (tyBits o.ty2 * o.pos))) (src1 e o)) ∧
  (List.range 13).map tyBits = [32, 32, 64, 64, 16, 16, 8, 8, 32, 16, 16, 64, 8] ∧
  ∀ (dst src rm bits : Nat), dst < 13 → src < 13 → rm < 4 →
    let r := convert dst src rm bits
    let float (t : Nat) : Prop := 8 ≤ t ∧ t ≤ 11
    let f := if dst = 8 then f32 else if dst = 9 then f16 else if dst = 10 then bf16 else f64
    let g := if src = 8 then f32 else if src = 9 then f16 else if src = 10 then bf16 else f64
    let x := unpackF g (bits % 2 ^ tyBits src)
    let natural : List Nat := [1, 3, 5, 7]
    let w := tyBits dst
    let n := bits % 2 ^ tyBits src
    let i : ℤ := if src ∈ natural ∨ n < 2 ^ (tyBits src - 1) then n else (n : ℤ) - 2 ^ tyBits src
    let lo : ℤ := if dst ∈ natural then 0 else -2 ^ (w - 1)
    let hi : ℤ := if dst ∈ natural then 2 ^ w - 1 else 2 ^ (w - 1) - 1
    let code (k : ℤ) : Nat := (k % 2 ^ w).toNat
    -- the value of an LNS6 code
    let lns (c : Nat) : ℚ := if c = 0x20 then 0 else
      (if 32 ≤ c then -1 else 1) * ([0x8000, 0x9838, 0xB505, 0xD745].getD (c % 4) 0 / 32768) * 2 ^ ((c % 32 / 4 : Nat) - 4 : ℤ)
    -- a number to a floating type, to an integer type and to LNS6
    let toFloat (v : ℚ) : Prop := v ≠ 0 → RoundsTo f rm v r
    let toInt (v : ℚ) : Prop := ∃ y : ℤ,
      (rm = 0 → |(y : ℚ) - v| ≤ 1 / 2 ∧ (|(y : ℚ) - v| = 1 / 2 → y % 2 = 0)) ∧ (rm = 1 → |(y : ℚ)| ≤ |v| ∧ |v| < |(y : ℚ)| + 1 ∧ 0 ≤ y * v) ∧
      (rm = 2 → y ≤ v ∧ v < y + 1) ∧ (rm = 3 → v ≤ y ∧ y < v + 1) ∧
      r = if y < lo then (code lo, fIV) else if hi < y then (code hi, fIV) else (code y, if (y : ℚ) = v then 0 else fNX)
    let toL6 (v : ℚ) : Prop :=
      (v = 0 → r = (0x20, 0)) ∧ (lns 31 < |v| → r = (if v < 0 then 63 else 31, fOF ||| fNX)) ∧
      (v ≠ 0 → |v| ≤ lns 31 → r.1 < 64 ∧ r.2 = (if lns r.1 = v then 0 else if r.1 = 0x20 then fNX ||| fUF else fNX) ∧ ∀ c, c < 64 →
        (rm = 0 → |lns r.1 - v| ≤ |lns c - v| ∧ (|lns r.1 - v| = |lns c - v| → c = r.1 ∨ r.1 = 0x20 ∨ (c ≠ 0x20 ∧ r.1 % 2 = 0))) ∧
        (rm = 1 → |lns r.1| ≤ |v| ∧ 0 ≤ lns r.1 * v ∧ (|lns c| ≤ |v| → 0 ≤ lns c * v → |lns c| ≤ |lns r.1|)) ∧
        (rm = 2 → lns r.1 ≤ v ∧ (lns c ≤ v → lns c ≤ lns r.1)) ∧ (rm = 3 → v ≤ lns r.1 ∧ (v ≤ lns c → lns r.1 ≤ lns c)))
    (src < 8 → dst < 8 → r = (code i, 0)) ∧
    (src < 8 → float dst → (i = 0 → r = (0, 0)) ∧ toFloat i) ∧ (src < 8 → dst = 12 → toL6 i) ∧
    (float src →
      (∀ sg, x = .nan sg → let iv : Flags := if sg then fIV else 0
        (float dst → r = (f.canonNaN, iv)) ∧ (dst < 8 → r = (0, fIV)) ∧ (dst = 12 → r = (0x20, fIV))) ∧
      (x.isNaN = false → dst = src → r = (n, 0)) ∧
      (∀ neg, x = .inf neg → dst ≠ src → (float dst → r = (f.infBits neg, 0)) ∧
        (dst < 8 → r = (code (if neg then lo else hi), fIV)) ∧ (dst = 12 → r = (if neg then 63 else 31, fOF))) ∧
      (∀ neg m e, x = .fin neg m e → dst ≠ src → (float dst → (m = 0 → r = (f.signBit neg, 0)) ∧ toFloat (ratOf x)) ∧
        (dst < 8 → toInt (ratOf x)) ∧ (dst = 12 → toL6 (ratOf x)))) ∧
    (src = 12 → let v := lns (bits % 64)
      (float dst → (v = 0 → r = (0, 0)) ∧ toFloat v) ∧ (dst < 8 → toInt v) ∧ (dst = 12 → r = (bits % 64, 0))) ∧
    (convertReg dst src rm bits).2 = r.2 ∧
    ((dst = 4 ∨ dst = 6) → (convertReg dst src rm bits).1 = ((BitVec.ofNat w r.1).signExtend 32).toNat) ∧
    (dst ≠ 4 → dst ≠ 6 → (convertReg dst src rm bits).1 = r.1)

/-- 09 R239, R244: the binary64 words; QBLK leaves its block and its four scale bytes for the boundary. The taint of a block, of every
lane of E in its quire, and of S[C], of every lane of E, is the model's choice (log 85, DESIGN CHOICE). -/
def Obligations.Binary64AndBlockResults : Prop :=
  ∀ (s : State) (e : Env) (o : OpF), env? s = some e →
    let x (L : Nat) := unpackF f64 (e.v64 L o.a).w.toNat
    let y (L : Nat) := unpackF f64 (e.v64 L o.b).w.toNat
    let z (L : Nat) := unpackF f64 (e.v64 L o.c).w.toNat
    let q (k : Nat) := qblkQuire o e ((e.setE o).filter fun t => t / 32 == k)
    DoubleWord s e (.dadd o) o (fun L => fAdd f64 o.low2 (x L) (y L)) (srcD2 e o) ∧
    DoubleWord s e (.dmul o) o (fun L => fMul f64 o.low2 (x L) (y L)) (srcD2 e o) ∧
    DoubleWord s e (.dfma o) o (fun L => fFma f64 o.low2 (x L) (y L) (z L)) (srcD3 e o) ∧
    DefersWord s e (.ddiv o) (lateD e o (fun L => fDiv f64 o.low2 (x L) (y L)) (srcD2 e o)) ∧
    DefersWord s e (.dsqrt o) (lateD e o (fun L => fSqrt f64 o.low2 (x L)) (srcD1 e o)) ∧
    PredicateWord s e (.dcmp o) (e.setE o) (fun L => pushed (o.bit 8) (e.th L).pred (condF o.cond (x L) (y L)))
      (fun L => if (x L).isSNaN || (y L).isSNaN then fIV else 0) (fun L => e.det && srcD2 e o L) ∧
    DefersWord s e (.qblk o) (.ready ((q 0).2 ++ (q 1).2 ++ (q 2).2 ++ (q 3).2)
      [(o.c.toNat, { w := BitVec.ofNat 64 ((q 0).1 + 256 * (q 1).1 + 65536 * (q 2).1 + 16777216 * (q 3).1), tag := .none,
                     t := if e.ut ((e.setE o).any fun L => (e.v32 L o.a).t) then 3 else 0 })])


/-! ### Interval words (10 R245 to R273) -/

/-- 10 R257, R267, R269, R270, R273: the interval words of fixed latency. A result that is an exact point needs no node; any other takes a new
node of the log. XPIN raises IV where the value does not pin the interval. XLO, XHI and XSTG
write a V register, XLOGQ a count of the log to an S register. -/
def Obligations.IntervalWordResults : Prop :=
  ∀ (s : State) (e : Env) (o : OpF), env? s = some e →
    let x (L : Nat) := e.xop L (o.bit 12) o.a
    let y (L : Nat) := e.xop L (o.bit 11) o.b
    let z (L : Nat) := e.xop L (o.bit 10) o.c
    let own (L : Nat) : XCell := { (e.th L).xreg o.a.toNat with t := e.dt L ((e.th L).xreg o.a.toNat).t }
    let pin (L : Nat) := pins ((e.th L).xreg o.a.toNat) (e.v32 L o.b).w
    IntervalWord s e (.xadd o) o (fun L => xResult opADD [x L, y L] (e.dt L ((x L).t || (y L).t))) noFlag ∧
    IntervalWord s e (.xsub o) o (fun L => xResult opSUB [x L, y L] (e.dt L ((x L).t || (y L).t))) noFlag ∧
    IntervalWord s e (.xmul o) o (fun L => xResult opMUL [x L, y L] (e.dt L ((x L).t || (y L).t))) noFlag ∧
    IntervalWord s e (.xfma o) o (fun L => xResult opFMA [x L, y L, z L] (e.dt L ((x L).t || (y L).t || (z L).t))) noFlag ∧
    IntervalWord s e (.xneg o) o (fun L => xResult opNEG [x L] (e.dt L (x L).t)) noFlag ∧
    IntervalWord s e (.xabs o) o (fun L => xResult opABS [x L] (e.dt L (x L).t)) noFlag ∧
    IntervalWord s e (.xmin o) o (fun L => xResult opMIN [x L, y L] (e.dt L ((x L).t || (y L).t))) noFlag ∧
    IntervalWord s e (.xmax o) o (fun L => xResult opMAX [x L, y L] (e.dt L ((x L).t || (y L).t))) noFlag ∧
    IntervalWord s e (.xmovv o) o (fun L => .cell (pointOf (e.v32 L o.a).w (e.dt L (e.v32 L o.a).t))) noFlag ∧
    IntervalWord s e (.xmov o) o (fun L => .cell (own L)) noFlag ∧
    IntervalWord s e (.xsever o) o (fun L => if (own L).isPoint then .cell (own L) else leafOf (own L).lo (own L).hi (own L).t) noFlag ∧
    IntervalWord s e (.xpin o) o
      (fun L => .cell (pointCell (if pin L then (e.v32 L o.b).w else nan32)
        (e.dt L (((e.th L).xreg o.a.toNat).t || (e.v32 L o.b).t))))
      (fun L => if pin L then 0 else fIV) ∧
    LaneWord s e (.xlo o) (e.setE o)
      (fun L n => reg32 o.d ((e.th L).xreg o.a.toNat).lo (e.dt L ((e.th L).xreg o.a.toNat).t) n) noFlag ∧
    LaneWord s e (.xhi o) (e.setE o)
      (fun L n => reg32 o.d ((e.th L).xreg o.a.toNat).hi (e.dt L ((e.th L).xreg o.a.toNat).t) n) noFlag ∧
    LaneWord s e (.xstg o) (e.setE o) (fun L n => reg32 o.d ((e.th L).dcode.zeroExtend 32) (e.dt L false) n) noFlag ∧
    (o.low2 = 0 → UniformWord s e (.xlogq o) (uniform e o.d (BitVec.ofNat 64 e.team.log.scrUsed) true)) ∧
    (o.low2 = 1 → UniformWord s e (.xlogq o) (uniform e o.d (BitVec.ofNat 64 e.team.log.spillUsed) true)) ∧
    (o.low2 = 2 → UniformWord s e (.xlogq o) (uniform e o.d (BitVec.ofNat 64 (pkLogScr e.pkt)) true)) ∧
    (o.low2 = 3 → UniformWord s e (.xlogq o) (uniform e o.d (BitVec.ofNat 64 (spillCap e.pkt)) true))

/-- 10 R257: the sum, difference, product or multiply-add of points that is exact and no NaN is the point of its binary32 value, and it
takes no node; one that is not exact takes a node with the bounds RDN and RUP, a zero upper bound being +0. A NaN operand, and an
undefined result (∞ − ∞, 0 × ∞), give the canonical NaN point. A difference adds the negated operand, which fixes the sign of a
difference of two zeros: the model's choice, log 76 (DESIGN CHOICE). -/
def Obligations.PointResults : Prop :=
  ∀ (a b c : Word32) (t : Bool),
    let p (w : Word32) := pointCell w t
    let x := u32 a.toNat
    let y := u32 b.toNat
    let z := u32 c.toNat
    let nan : XOut := .cell (pointCell nan32 t)
    let word (r : Nat × Flags) : Word32 := BitVec.ofNat 32 r.1
    let up (w : Word32) : Word32 := if w = 0x80000000 then 0 else w
    -- an operation with its code, its operands, which of them are inlined, and its value under a rounding mode
    let gives (op : Nat) (l : List XCell) (inl : Nat) (w3 : Word32) (f : Nat → Nat × Flags) : Prop :=
      ((u32 (f 0).1).isNaN = false → (f 0).2 &&& fNX = 0 → xResult op l t = .cell (pointCell (word (f 0)) t)) ∧
      ((u32 (f 0).1).isNaN = false → (f 0).2 &&& fNX ≠ 0 →
        xResult op l t = .fresh { lo := word (f 2), hi := up (word (f 3)), h := 0, t := t } op inl a b w3)
    (x.isNaN = false → y.isNaN = false →
      gives opADD [p a, p b] 3 0 (fun rm => fAdd f32 rm x y) ∧ gives opSUB [p a, p b] 3 0 (fun rm => fAdd f32 rm x y.neg) ∧
      gives opMUL [p a, p b] 3 0 (fun rm => fMul f32 rm x y) ∧
      (z.isNaN = false → gives opFMA [p a, p b, p c] 7 c (fun rm => fFma f32 rm x y z))) ∧
    (x.isNaN = true ∨ y.isNaN = true →
      xResult opADD [p a, p b] t = nan ∧ xResult opSUB [p a, p b] t = nan ∧ xResult opMUL [p a, p b] t = nan) ∧
    (x.isNaN = true ∨ y.isNaN = true ∨ z.isNaN = true → xResult opFMA [p a, p b, p c] t = nan) ∧
    (∀ n, x = .inf n → y = .inf (!n) → xResult opADD [p a, p b] t = nan) ∧ (∀ n, x = .inf n → y = .inf n → xResult opSUB [p a, p b] t = nan) ∧
    (∀ n, (x = .inf n ∧ y.isZero = true) ∨ (x.isZero = true ∧ y = .inf n) →
      xResult opMUL [p a, p b] t = nan ∧ xResult opFMA [p a, p b, p c] t = nan) ∧
    (∀ n, mulVal x y = .inf n → z = .inf (!n) → xResult opFMA [p a, p b, p c] t = nan)

/-- 10 R255, R268: XDIV and XLD reserve their nodes at the word and write at the boundary, XLD its nodes before it waits for its bytes; XST
stores the two bounds of each lane. -/
def Obligations.IntervalMemoryWords : Prop :=
  ∀ (s : State) (e : Env) (o : OpF), env? s = some e →
    (let outs := outsOf e o fun L => xResult opDIV (xArgs o 2 e L) (xTaint e L (xArgs o 2 e L))
     ∀ is l, ExprLog.reserve (pkLogScr e.pkt) (spillCap e.pkt) (freshOf outs) e.team.log = some (is, l) →
      LogOpen e l (nodeReads e o.d outs is l) is →
      BoundaryWord s ((e.readNodes (nodeReads e o.d outs is l)).withTeamLog l) (.xdiv o) [.xdiv o.d.toNat (placeAll (pkLogScr e.pkt) outs is)] []) ∧
    (let z := if o.bit 10 then 8 else 4
     ∀ lanes is l, e.r.probe = none → e.checkAll o.space .read z ((e.setE o).map fun L => (L, (xldAddr o e L).w)) = .ok lanes →
      ExprLog.reserve (pkLogScr e.pkt) (spillCap e.pkt) (if o.bit 10 then lanes.length else 0) e.team.log = some (is, l) →
      let reads := headsOf (pkLogScr e.pkt) e.team.log is ++
        (e.setE o).flatMap fun L => l.dropReads (pkLogScr e.pkt) ((e.th L).xreg o.d.toNat)
      LogOpen e l reads is →
      let e1 := (e.readNodes reads).withTeamLog l
      let held : Probe := { key := none, lanes := lanes, nodes := some is, bumps := (e.team.log.scrBump, e.team.log.spillBump) }
      ({ e1 with r := { e.r with probe := some held } } : Env).loadWait z lanes = none →
      let r := loadAll e1 0 false z (fun L => (xldAddr o e L).t) lanes
      BoundaryWord s r.1 (.xld o) [.xload o.d.toNat (o.bit 10) is r.2] []) ∧
    (∀ lanes, e.checkAll o.space .write 8 ((e.setE o).map fun L => (L, (xldAddr o e L).w)) = .ok lanes →
      BoundaryWord s e (.xst o) []
        [.stores (lanes.map fun x =>
          { lane := x.1, at_ := x.2.2, va := x.2.1,
            bytes := leBytes ((e.th x.1).xreg o.d.toNat).lo.toNat 4 ++ leBytes ((e.th x.1).xreg o.d.toNat).hi.toNat 4,
            ord := 0, t := e.dt x.1 ((e.th x.1).xreg o.d.toNat).t, word := e.wordNo }) false])

/-- 10 R259, R260, R271, R272: a lane that the filter decides is answered at the word; every other is referred to the core's refinement
engine, and the word's writes wait for the answers. XREF refers every lane whose interval is no point. That a referral carries the log
as the word read it is the model's choice (log 27, DEDUCED). -/
def Obligations.IntervalDecisions : Prop :=
  ∀ (s : State) (e : Env) (o : OpF), env? s = some e →
    let key := e.g.keys
    let nodes := e.team.log.nodes
    let ask (nodes : Table Node) (L : Nat) (a : XCell) (b : Option XCell) (k : Option Nat) (t : Bool) : Referral :=
      { g := e.g.ref, core := e.g.core, key := key, lane := L, prio := e.ctl.prio.toNat, a := refArg a, b := b.map refArg, stage := k,
        nodes := nodes, t := t }
    let after (e1 : Env) (refs : List Referral) (ans : List Answer) : Env :=
      { e1 with s := { e1.s with referrals := e1.s.referrals ++ refs },
                g := { e1.g with keys := key + 1, answers := e1.g.answers ++ ans } }
    let reads (marked : List XCell) (refs : List Referral) :=
      (((marked.filter fun c => !c.isPoint).map fun c => c.h.toNat) ++ refs.flatMap fun r => reachFrom nodes (r.a :: r.b.toList)).dedup
    (let x (L : Nat) := e.xop L (o.bit 12) o.a
     let y (L : Nat) := e.xop L (o.bit 11) o.b
     let tt (L : Nat) := e.dt L ((x L).t || (y L).t)
     let refs := ((e.setE o).filter fun L => (filterCmp nodes (x L) (y L)).isNone).map fun L => ask nodes L (x L) (some (y L)) none (tt L)
     let ans := (e.setE o).filterMap fun L => (filterCmp nodes (x L) (y L)).map fun d => decisionAnswer key L d e.det (tt L)
     let rs := reads ((e.setE o).map x) refs
     LogOpen e e.team.log rs [] →
      BoundaryWord s (after ((e.readNodes rs).withTeamLog e.team.log) refs ans) (.xcmp o) [.xcmp o.cond o.pos (o.bit 8) key (e.setE o)] []) ∧
    (let x (L : Nat) := (e.th L).xreg o.a.toNat
     let tt (L : Nat) := e.dt L (x L).t
     let refs := ((e.setE o).filter fun L => (filterSgn nodes (x L)).isNone).map fun L => ask nodes L (x L) none none (tt L)
     let ans := (e.setE o).filterMap fun L => (filterSgn nodes (x L)).map fun d => decisionAnswer key L d e.det (tt L)
     let rs := reads ((e.setE o).map x) refs
     LogOpen e e.team.log rs [] →
      BoundaryWord s (after ((e.readNodes rs).withTeamLog e.team.log) refs ans) (.xsgn o) [.xsgn o.d.toNat o.pos key (e.setE o)] []) ∧
    (let own (L : Nat) : XCell := { (e.th L).xreg o.a.toNat with t := e.dt L ((e.th L).xreg o.a.toNat).t }
     let open_ := (e.setE o).filter fun L => !(own L).isPoint
     let refs := open_.map fun L => ask nodes L (own L) none (some (o.low2 + 1)) (own L).t
     let drops := (e.setE o).flatMap fun L => e.team.log.dropReads (pkLogScr e.pkt) ((e.th L).xreg o.d.toNat)
     let e1 := (e.readNodes drops).withTeamLog e.team.log
     let rs := reads (open_.map own) refs
     LogOpen e e.team.log drops [] → LogOpen e1 e.team.log rs [] →
      BoundaryWord s (after ((e1.readNodes rs).withTeamLog e.team.log) refs []) (.xref o) [.xref o.d.toNat key ((e.setE o).map fun L => (L, own L))] [])

/-! ### Predicates and control (07 R156 to R164, 02 R49) -/

/-- 07 R156, R158: the predicate words push, replace or move predicate bits in the lanes of E alone; every operand is read as it stood
before the word. -/
def Obligations.PredicateResults : Prop :=
  ∀ (s : State) (e : Env) (o : OpF), env? s = some e →
    let pj (L : Nat) := Bool.xor ((e.th L).pred.getLsbD (o.field 0 3)) (o.bit 6)
    let pk (L : Nat) := Bool.xor ((e.th L).pred.getLsbD (o.field 3 3)) (o.bit 7)
    let push (f : Nat → Bool) (L : Nat) : BitVec 8 := pushed (o.bit 8) (e.th L).pred (f L)
    (o.low2 = 0 → PredicateWord s e (.pset o) (e.setE o) (push fun _ => false) noFlag noTaint) ∧
    (o.low2 = 1 → PredicateWord s e (.pset o) (e.setE o) (push fun _ => true) noFlag noTaint) ∧
    (o.low2 = 2 → PredicateWord s e (.pset o) (e.setE o) (push fun L => decide ((e.v32 L o.a).w ≠ 0)) noFlag
      fun L => e.det && (e.v32 L o.a).t) ∧
    (o.low2 = 3 → PredicateWord s e (.pset o) (e.setE o) (push fun L => (e.v32 L o.a).w.getLsbD (o.field 2 5)) noFlag
      fun L => e.det && (e.v32 L o.a).t) ∧
    PredicateWord s e (.pnot o) (e.setE o) (push fun L => !(e.th L).pred.getLsbD (o.field 0 3)) noFlag noTaint ∧
    PredicateWord s e (.pdup o) (e.setE o) (push fun L => (e.th L).pred.getLsbD (o.field 0 3)) noFlag noTaint ∧
    PredicateWord s e (.pand o) (e.setE o) (push fun L => pj L && pk L) noFlag noTaint ∧
    PredicateWord s e (.por o) (e.setE o) (push fun L => pj L || pk L) noFlag noTaint ∧
    PredicateWord s e (.pxor o) (e.setE o) (push fun L => Bool.xor (pj L) (pk L)) noFlag noTaint ∧
    PredicateWord s e (.ppop o) (e.setE o) (fun L => (e.th L).pred >>> (o.field 0 3 + 1)) noFlag noTaint ∧
    (o.bit 0 = true → PredicateWord s e (.pmask o) (e.setE o) (fun L => (e.v32 L o.a).w.extractLsb' 0 8) noFlag
      fun L => e.det && (e.v32 L o.a).t) ∧
    (o.bit 0 = false → LaneWord s e (.pmask o) (e.setE o) (fun L n => reg32 o.d ((e.th L).pred.zeroExtend 32) (e.dt L false) n) noFlag)

/-- 07 R159 to R161: a control transfer whose targets are valid sends the lanes of E to them and the other active lanes on to PC + 8;
CALL writes the return address to a register pair. -/
def Obligations.ControlTransfers : Prop :=
  ∀ (s : State) (e : Env) (o : OpF) (k : OpI), env? s = some e →
    let next := e.r.at_ + 8
    let there := e.r.at_ + 8 * k.imm.signExtend 64
    let c := (e.us k.a).w
    let taken : Bool := if k.d = 0 then true else if k.d = 1 then decide (c ≠ 0) else decide (c = 0)
    (targetOk there = true →
      JumpWord s e (.bra k) (fun L => if L ∈ e.setI k then there else next) (e.setI k) keepV noTaint ∧
      JumpWord s e (.call k) (fun L => if L ∈ e.setI k then there else next) (e.setI k)
        (fun L n => reg64 k.d next (e.dt L false) n) noTaint) ∧
    (targetOk (if taken then there else next) = true →
      JumpWord s e (.bru k) (fun _ => if taken then there else next) e.active keepV
        fun _ => e.det && decide (k.d ≠ 0) && (e.us k.a).t) ∧
    ((∀ L ∈ e.setE o, targetOk (e.v64 L o.a).w = true) →
      JumpWord s e (.brx o) (fun L => if L ∈ e.setE o then (e.v64 L o.a).w else next) (e.setE o) keepV
        (fun L => e.det && (e.v64 L o.a).t) ∧
      JumpWord s e (.ret o) (fun L => if L ∈ e.setE o then (e.v64 L o.a).w else next) (e.setE o) keepV
        fun L => e.det && (e.v64 L o.a).t)

/-- 07 R161: "If any lane of E has an invalid target, the word takes a precise fault and has no effect in any lane." The lowest such lane
decides the fault. 18 R444, R489: the resume PC is the target of TRET, which faults in the active set. -/
def Obligations.InvalidTargetsFault : Prop :=
  ∀ (s : State) (e : Env) (o : OpF) (k : OpI), env? s = some e →
    let cause (a : Word64) : Nat := if bits a 0 3 ≠ 0 then 3 else 4
    let there := e.r.at_ + 8 * k.imm.signExtend 64
    let c := (e.us k.a).w
    let b := if e.g.level = 2 then e.ctl.bank2 else e.ctl.bank1
    let resume : Word64 := if b.tstate.getLsbD 7 then b.taddr else if o.bit 0 then b.tpc + 8 else b.tpc
    (∀ L rest, ((e.setE o).filter fun t => !targetOk (e.v64 t o.a).w) = L :: rest →
      let a := (e.v64 L o.a).w
      FaultsAt s e (.brx o) (cause a) a (lanesMask (L :: rest)) ∧ FaultsAt s e (.ret o) (cause a) a (lanesMask (L :: rest))) ∧
    (targetOk there = false → e.setI k ≠ [] →
      FaultsAt s e (.bra k) (cause there) there (lanesMask (e.setI k)) ∧ FaultsAt s e (.call k) (cause there) there (lanesMask (e.setI k))) ∧
    (targetOk there = false → e.active ≠ [] → k.d = 0 ∨ (k.d = 1 ∧ c ≠ 0) ∨ (k.d ≠ 0 ∧ k.d ≠ 1 ∧ c = 0) →
      FaultsAt s e (.bru k) (cause there) there (lanesMask e.active)) ∧
    (e.g.level ≠ 0 → targetOk resume = false → FaultsAt s e (.tret o) (cause resume) resume e.r.active) ∧
    ∀ a : Word64, targetOk a = true ↔ a.toNat < 2 ^ 57 ∧ a.toNat % 8 = 0

/-- 07 R162 to R164, 01 R25, 02 R49, 14 R351: EXIT at level 0 notes its lanes and leaves them where they stand; NOP and a hint without meaning
change nothing but the PC; HPF and PREF bring lines near, which moves the PC and budget counters alone; PAUSE notes its count; HREF and
HSCH set the group's priority and mark at the boundary. 18 R449: at the end of the round of a lone run, its EXIT takes ARITH in the lanes of E
that hold an enabled flag, with AFTER 0, and no lane moves; where there is none, the lanes of E exit and the other active lanes stand at PC + 8,
but for those that another word of the run has blocked (07 R179; for a wait that is no BAR the model's choice, log 70, DESIGN CHOICE). -/
def Obligations.ExitAndHints : Prop :=
  ∀ (s : State) (e : Env) (o : OpF) (h : OpH), env? s = some e →
    (e.g.level = 0 → ∃ t e', exec (.exit o) s = .next t ∧ Retires s t e e' o.rb ∧ KeepsLanes e e' ∧ KeepsS e e' ∧
      (∀ L, L < e.g.lanes.length → (e'.th L).pc = if e.r.active.getLsbD L then e.r.at_ else (e.th L).pc) ∧
      e'.r.exit = some (e.r.at_, e.r.pos + 1, e.setE o) ∧ e'.r.deferred = e.r.deferred ∧ e'.r.effects = e.r.effects ∧
      e'.r.ctl = e.r.ctl) ∧
    IdleWord s e (.nop o) ∧ IdleWord s e (.hintNop h) ∧
    BoundaryWord s (e.prefetch (hpfLines o (e.us o.a).w)) (.hpf o) [] [] ∧
    BoundaryWord s (e.prefetch ((e.setE o).map fun L => (loadAddr o e L 64).w)) (.pref o) [] [] ∧
    (∀ l, ∃ c k, (e.prefetch l).s = { e.s with ctxs := c, tick := k }) ∧
    (∃ t e', exec (.pause o) s = .next t ∧ Retires s t e e' o.rb ∧ KeepsLanes e e' ∧ KeepsS e e' ∧ NextPcs e e' ∧
      e'.r.pause = some (o.m.toNat + 1) ∧ e'.r.deferred = e.r.deferred ∧ e'.r.effects = e.r.effects ∧ e'.r.ctl = e.r.ctl ∧ e'.r.exit = none) ∧
    CtlWord s e (.href o) [.prio (o.m.extractLsb' 0 2)] ∧
    (o.low2 ≠ 3 → CtlWord s e (.hsch o) [.mark (o.m.extractLsb' 0 2)]) ∧ (o.low2 = 3 → CtlWord s e (.hsch o) [.mark 0]) ∧
    ∀ (en : BitVec 6) (g : Group) (rd : Round) (r : Run) (pc : Word64) (pos : Nat) (l : List Nat),
      rd.a = some r → rd.b = none → r.exit = some (pc, pos, l) → r.fault = none → r.tret = none → r.tfence = none → r.step = false →
      g.afters = [] →
      let x := endChecks en g rd
      let bad := l.filter fun L => (g.lane L).flags &&& en ≠ 0
      (bad ≠ [] → x.trap = none ∧
        x.fault = some { cause := 16, pc := pc, addr := 0, lanes := lanesMask bad, pos := pos, stream := false,
                         flags := bad.foldl (fun f L => f ||| ((g.lane L).flags &&& en)) 0, after := false } ∧
        ∀ L, L < g.lanes.length → (x.g.lane L).st = (g.lane L).st ∧ (x.g.lane L).pc = (g.lane L).pc) ∧
      (bad = [] → x.fault = none ∧ x.trap = none ∧ x.g.flagV = false ∧ ∀ L, L < g.lanes.length →
        (L ∈ l → (g.lane L).waits = [] → (x.g.lane L).st = .exited) ∧
        (L ∉ l → (g.lane L).bar? = none →
          (x.g.lane L).st = (g.lane L).st ∧ (x.g.lane L).pc = if r.active.getLsbD L then pc + 8 else (g.lane L).pc))

/-- 01 R25: HREF, HPF and HSCH stand at opcodes 0x3C0, 0x3C1 and 0x3C2, and every other opcode from 0x3C3 to 0x3FF executes as a no-op,
whatever its other bits. -/
def Obligations.HintOpcodes : Prop :=
  ∀ w : Word64, w.getLsbD 62 = false →
    let op := (w.extractLsb' 52 10).toNat
    (op = 0x3C0 → ∃ o, decode w = .ok (.href o)) ∧ (op = 0x3C1 → ∃ o, decode w = .ok (.hpf o)) ∧ (op = 0x3C2 → ∃ o, decode w = .ok (.hsch o)) ∧
    (0x3C3 ≤ op → ∃ h, decode w = .ok (.hintNop h) ∧ ∀ (s : State) (e : Env), env? s = some e → IdleWord s e (.hintNop h))

/-! ### Cross-lane words (07 R165 to R177) -/

/-- 04 R95, R97, 07 R165 to R174: the cross-lane words read their lanes at the word and write at the boundary; ELECT writes before the next word.
A SHFL value from a lane whose quire holds no active thread comes from its image line: one in the file gives it, a poisoned one is a precise
fault of all active lanes, and one that has to be fetched is charged, waits, or kills the grid. VOTE
answers for all lanes of E, some, all or none, or the parity. -/
def Obligations.CrossLaneResults : Prop :=
  ∀ (s : State) (e : Env) (o : OpF), env? s = some e →
    let E := e.setE o
    let ct := e.det && E.any fun L => (e.th L).ct
    let P (L : Nat) : Bool := (e.th L).pred.getLsbD o.cond
    let from_ (L : Nat) : Val 32 := match shflSource o.low2 (128 / 2 ^ o.cond) L (e.v32 L o.b).w with
      | none => e.v32 L o.a
      | some j => e.supply32 j o.a
    let vote : Bool := match o.low2 with
      | 0 => decide (∀ L ∈ E, P L = true)
      | 1 => decide (∃ L ∈ E, P L = true)
      | 2 => decide (∀ L ∈ E, P L = true) || decide (∀ L ∈ E, P L = false)
      | _ => decide ((E.filter P).length % 2 = 1)
    let pick := if o.bit 1 then E.getLast? else E.head?
    let src := E.filter P
    let val (L : Nat) : Val 64 := e.vsrc L o.wide o.a
    let tt := E.any fun L => (val L).t || (e.th L).ct
    let first (L : Nat) : Nat := (E.find? fun u => (val u).w == (val L).w).getD L
    let shuffled : DForm := .ready (E.map fun L =>
      { lane := L, v := [(o.d.toNat, { w := (from_ L).w, t := e.dt L ((from_ L).t || (e.v32 L o.b).t) })] }) []
    let source (L j : Nat) : Prop := shflSource o.low2 (128 / 2 ^ o.cond) L (e.v32 L o.b).w = some j ∧ j / 32 ∉ quires e.r.active
    ((∀ L ∈ E, ∀ j, source L j → vLine o.a.toNat (j / 32) ∈ e.g.linesIn ∧ vLine o.a.toNat (j / 32) ∉ e.g.poison) →
      DefersWord s e (.shfl o) shuffled) ∧
    ((∀ L ∈ E, ∀ j, source L j → vLine o.a.toNat (j / 32) ∈ e.g.linesIn) →
      (∃ L ∈ E, ∃ j, source L j ∧ vLine o.a.toNat (j / 32) ∈ e.g.poison) → FaultsAt s e (.shfl o) 8 0 e.r.active) ∧
    (∀ x, (e.s.outerLines e.g e.ctx (shflLines o e) = .ok x → BoundaryWord s { e with s := x } (.shfl o) [shuffled] []) ∧
      (e.s.outerLines e.g e.ctx (shflLines o e) = .poison x → FaultsAt s { e with s := x } (.shfl o) 8 0 e.r.active) ∧
      (e.s.outerLines e.g e.ctx (shflLines o e) = .wait x → exec (.shfl o) s = .next x)) ∧
    DefersWord s e (.vote o) (.ready (E.map fun L => { lane := L, preds := [.push vote], ct := ct }) []) ∧
    DefersWord s e (.ballot o) (.ready []
      [(o.d.toNat, mkS (ballotHalf e E o.cond 0) ct), (o.d.toNat + 1, mkS (ballotHalf e E o.cond 64) ct)]) ∧
    DefersWord s e (.matchLanes o) (.ready (E.map fun L =>
      { lane := L, v := [(o.d.toNat, { w := BitVec.ofNat 32 (first L), t := e.dt L tt })], preds := [.push (first L == L)],
        ct := e.det && tt }) []) ∧
    DefersWord s e (.compact o) (.ready ((List.range E.length).map fun i =>
      match src[i]? with
      | some u => { lane := E.getD i 0, v := [(o.d.toNat, { w := (e.v32 u o.a).w, t := e.dt (E.getD i 0) ((e.v32 u o.a).t || ct) })],
                    preds := [.push true], ct := ct }
      | none => { lane := E.getD i 0, preds := [.push false], ct := ct }) []) ∧
    (∃ t e', exec (.elect o) s = .next t ∧ Retires s t e e' o.rb ∧
      WritesP e e' E (fun L => pushed false (e.th L).pred (pick == some L)) ∧ SetsCt e e' E (fun _ => ct) ∧ KeepsV e e' ∧ KeepsX e e' ∧
      KeepsF e e' ∧
      KeepsD e e' ∧ NextPcs e e' ∧ KeepsBoundary e e' ∧
      WritesS e e' fun n => if o.bit 0 ∧ n = o.d.toNat then
          some (mkS (match pick with | some L => BitVec.ofNat 64 L | none => BitVec.allOnes 64) ct) else none)

/-- 07 R171 to R173, R175 to R177: REDUX, SCAN, ISECT and MERGE read their lanes at the word and write at the boundary. ISECT gives each lane of
E the lowest place of its key in the other list of its segment, and the counts of the keys up to the lesser of the two greatest; MERGE
the keys of its segment in order, with how many of the lower half come from each list. Where C names a register of D, V[C] is written
after it: the model's choice (log 58, DEDUCED). -/
def Obligations.ReductionsAreDeferred : Prop :=
  ∀ (s : State) (e : Env) (o : OpF), env? s = some e →
    let E := e.setE o
    let l := E.map fun L => (e.vsrc L o.wide o.a).w
    let tt := E.any fun L => (e.vsrc L o.wide o.a).t || (e.th L).ct
    let r := if E.isEmpty then (0, 0) else reduxOne o l (reduxVal o l)
    let upTo (i : Nat) : Bool := (E.take (i + 1)).any fun L => (e.vsrc L o.wide o.a).t || (e.th L).ct
    let op := o.field 3 4
    let sg := signedTy o.ty
    DefersWord s e (.redux o) (.ready (E.map fun L => { lane := L, raise := r.2 })
      [(o.d.toNat, mkS (if o.wide = false ∧ o.ty = 0 then (BitVec.ofNat 32 r.1).signExtend 64 else BitVec.ofNat 64 r.1) (e.det && tt))]) ∧
    (o.wide = true → DefersWord s e (.scan o) (.ready ((List.range E.length).map fun i =>
      e.put64 (E.getD i 0) o.d
        { w := (scanFrom (reduxOp op sg 64) (o.bit 7) (scanUnit op sg 64) (E.map fun L => (e.v64 L o.a).w)).getD i 0, t := upTo i }) [])) ∧
    (o.wide = false → DefersWord s e (.scan o) (.ready ((List.range E.length).map fun i =>
      e.put32 (E.getD i 0) o.d
        { w := (scanFrom (reduxOp op sg 32) (o.bit 7) (scanUnit op sg 32) (E.map fun L => (e.v32 L o.a).w)).getD i 0, t := upTo i }) [])) ∧
    let seg := List.range 16
    let key (r : BitVec 8) (L i : Nat) : Nat := if 16 * (L / 16) + i ∈ E then (e.v32 (16 * (L / 16) + i) r).w.toNat else 0xFFFFFFFF
    let ct (L : Nat) : Bool := e.dt L (E.any fun t => t / 16 == L / 16 && ((e.v32 t o.a).t || (e.v32 t o.b).t || (e.th t).ct))
    let least (L : Nat) : Nat := min ((seg.map (key o.a L)).foldl max 0) ((seg.map (key o.b L)).foldl max 0)
    let upToLeast (r : BitVec 8) (L : Nat) : Nat := (seg.filter fun i => decide (key r L i ≤ least L)).length
    let place (L : Nat) : Nat := ((seg.find? fun j => key o.b L j == key o.a L (L % 16))).getD 0xFFFFFFFF
    let merged (L : Nat) : List (Nat × Bool) := mergeOrder (seg.map (key o.a L)) (seg.map (key o.b L))
    let fromA (L : Nat) : Nat := (((merged L).take 16).filter (·.2)).length
    let cell (n : Nat) (L : Nat) : VCell := { w := BitVec.ofNat 32 n, t := ct L }
    DefersWord s e (.isect o) (.ready (E.map fun L => { lane := L, v :=
      [(o.d.toNat, cell (place L) L), (o.c.toNat, cell (upToLeast o.a L + 256 * upToLeast o.b L) L)] }) []) ∧
    DefersWord s e (.merge o) (.ready (E.map fun L => { lane := L, v :=
      [(o.d.toNat, cell ((merged L).getD (L % 16) (0, false)).1 L), (o.d.toNat + 1, cell ((merged L).getD (16 + L % 16) (0, false)).1 L),
       (o.c.toNat, cell (fromA L + 256 * (16 - fromA L)) L)] }) [])

/-- 07 R166, R167, R172, R173, R177: the value of a scan at place i is the operation over the operands up to and with i; of an exclusive scan, over
those before i, from the identity of the operation, which leaves every operand as it is. MERGE orders the keys of a segment: the result
holds exactly the keys of both lists, its keys never fall, and of equal keys those of a come first. 07 R171: the integer operations of
REDUX give the sum modulo 2^w, the least or the greatest operand in the order of the type, and the bitwise and, or and exclusive or, with no
flag. A shuffle never leaves its segment. 07 R172, 08 R193, 14 R357: REDUX.fadd rounds the
exact sum once; fmin and fmax give the least or the greatest number, −0 below +0, and a NaN only where all are; fmaxi gives the one of
the words offered that wins over each of them. -/
def Obligations.CrossLaneValues : Prop :=
  (∀ (op : Nat) (sg : Bool) (w : Nat) (x : BitVec w), 0 < w → op < 6 → reduxOp op sg w (scanUnit op sg w) x = x) ∧
  (∀ (w : Nat) (f : BitVec w → BitVec w → BitVec w) (unit : BitVec w) (l : List (BitVec w)) (i : Nat), i < l.length →
    (scanFrom f false unit l)[i]? = some ((l.take (i + 1)).foldl f unit) ∧
    (scanFrom f true unit l)[i]? = some ((l.take i).foldl f unit)) ∧
  (∀ a b : List Nat,
    (mergeOrder a b).Perm (a.map (·, true) ++ b.map (·, false)) ∧
    (mergeOrder a b).Pairwise fun x y => x.1 < y.1 ∨ (x.1 = y.1 ∧ (y.2 = true → x.2 = true))) ∧
  (∀ (o : OpF) (l : List Word64), l ≠ [] → o.field 3 4 < 6 →
    let w := if o.wide then 64 else 32
    let r := reduxOne o l (reduxVal o l)
    let xs : List Nat := l.map fun x => x.toNat % 2 ^ w
    let rank (n : Nat) : ℤ := if signedTy o.ty = true ∧ 2 ^ (w - 1) ≤ n then (n : ℤ) - 2 ^ w else n
    r.2 = 0 ∧ r.1 < 2 ^ w ∧
    (o.field 3 4 = 0 → r.1 = xs.sum % 2 ^ w) ∧
    (o.field 3 4 = 1 → r.1 ∈ xs ∧ ∀ n ∈ xs, rank r.1 ≤ rank n) ∧
    (o.field 3 4 = 2 → r.1 ∈ xs ∧ ∀ n ∈ xs, rank n ≤ rank r.1) ∧
    ∀ i, i < w →
      (o.field 3 4 = 3 → r.1.testBit i = xs.all fun n => n.testBit i) ∧ (o.field 3 4 = 4 → r.1.testBit i = xs.any fun n => n.testBit i) ∧
      (o.field 3 4 = 5 → r.1.testBit i = decide ((xs.filter fun n => n.testBit i).length % 2 = 1))) ∧
  (∀ (mode k t j : Nat) (b : Word32), k ≤ 7 → t < 128 → shflSource mode (2 ^ k) t b = some j → j / 2 ^ k = t / 2 ^ k) ∧
  ∀ (o : OpF) (l : List Word32), l ≠ [] →
    let r := reduxOne o (l.map (·.zeroExtend 64)) (reduxVal o (l.map (·.zeroExtend 64)))
    let val (w : Word32) : FVal := u32 w.toNat
    let place (w : Nat) (top : Nat) : Int := if top ≤ w then -((w - top : Nat) : Int) - 1 else w
    (o.field 3 4 = 6 →
      let sum : ℚ := (l.map fun w => ratOf (val w)).sum
      let both : Prop := FVal.inf false ∈ l.map val ∧ FVal.inf true ∈ l.map val
      let iv : Flags := if (l.any fun w => (val w).isSNaN) ∨ both then fIV else 0
      ((l.any fun w => (val w).isNaN) ∨ both → r = (0x7FC00000, iv)) ∧
      (∀ n, (l.any fun w => (val w).isNaN) = false → ¬both → FVal.inf n ∈ l.map val → r = (f32.infBits n, 0)) ∧
      ((l.all fun w => (val w).isZero || (val w).isFinNZ) →
        (sum ≠ 0 → RoundsTo f32 o.low2 sum r) ∧
        (sum = 0 → r = (f32.signBit (decide (∀ w ∈ l, w = 0x80000000) || o.low2 == 2), 0)))) ∧
    (o.field 3 4 = 7 ∨ o.field 3 4 = 8 →
      r.2 = (if l.any fun w => (val w).isSNaN then fIV else 0) ∧ ((l.all fun w => (val w).isNaN) → r.1 = 0x7FC00000) ∧
      ((l.all fun w => (val w).isNaN) = false → ∃ w ∈ l, r.1 = w.toNat ∧ (val w).isNaN = false ∧ ∀ y ∈ l, (val y).isNaN = false →
        (o.field 3 4 = 7 → place w.toNat (2 ^ 31) ≤ place y.toNat (2 ^ 31)) ∧
        (o.field 3 4 = 8 → place y.toNat (2 ^ 31) ≤ place w.toNat (2 ^ 31)))) ∧
    (o.field 3 4 = 9 →
      let nan (w : Word32) : Bool := decide (0x7C00 < w.toNat % 2 ^ 15)
      let index (w y : Word32) : Prop := w.toNat / 65536 < y.toNat / 65536 ∨ (w.toNat / 65536 = y.toNat / 65536 ∧ w.toNat ≤ y.toNat)
      let beats (w y : Word32) : Prop := (nan y = true ∧ nan w = false) ∨ (nan w = nan y ∧ ((nan w = true ∧ index w y) ∨
        (nan w = false ∧ (place (y.toNat % 65536) (2 ^ 15) < place (w.toNat % 65536) (2 ^ 15) ∨ (y.toNat % 65536 = w.toNat % 65536 ∧ index w y)))))
      r.2 = 0 ∧ ∃ w ∈ l, r.1 = w.toNat ∧ ∀ y ∈ l, beats w y)

/-! ### Memory words (14 R345 to R362, 16 R403) -/

/-- 14 R346 to R349: a load whose lanes pass their checks reads at its word and writes its destination at the boundary; LDU reads once,
at the address of its base and displacement alone. 13 R329, 04 R82: what a plain load of run A returns for a byte: the byte of the latest
store of its own run that covers it, else of the latest unposted store of its group, or published to it, or a linked release (13 R332), else
the byte at a prefix of the home order, not below the view of its core nor any posted store to that byte of its group or published to it;
the view grows to the write returned. R330: a load at the home returns the bytes there, once its group's stores to the line are posted. R336:
a scratchpad load returns the bytes of its team's scratchpad, under the stores of its own run. 14 R349, 09 R240: the bytes form the value lowest
first, and how V[D] and S[D] take it. -/
def Obligations.LoadsComplete : Prop :=
  (∀ (s : State) (e : Env) (o : OpF), env? s = some e →
    let z := memSize o.ty
    let home := decide (o.space = 0) && atHome e o.cond
    let acq := if o.space = 0 then acqOf o.cond else 0
    let addr (L : Nat) : Word64 :=
      (e.us o.a).w + (if o.bit 7 then (e.v32 L o.b).w.signExtend 64 * BitVec.ofNat 64 (2 ^ o.pos) else 0) + BitVec.ofNat 64 z * o.c.signExtend 64
    let tnt (L : Nat) : Bool := (e.us o.a).t || (o.bit 7 && (e.v32 L o.b).t)
    let t0 := (e.active.head?).getD 0
    (∀ l, e.checkLoad o.space z ((e.setE o).map fun L => (L, addr L)) = .ok l →
      BoundaryWord s (renewIf (home && decide (o.cond = 3)) (loadAll e acq home z tnt l).1) (.ld o)
        [.load o.d.toNat o.ty o.cv (loadAll e acq home z tnt l).2] []) ∧
    (∀ l, e.checkLoad o.space z [(t0, (e.us o.a).w + 0 + BitVec.ofNat 64 z * o.c.signExtend 64)] = .ok l →
      let r := loadAll e acq home z (fun _ => (e.us o.a).t || e.anyCt) l
      BoundaryWord s (renewIf (home && decide (o.cond = 3)) r.1) (.ldu o)
        (r.2.map fun x => .loadu o.d.toNat o.ty o.cv x e.active) [])) ∧
  -- the bytes that a load of memory returns
  (∀ (e : Env) (acq : Nat) (scopes : List Nat) (pa n : Nat), e.b = .a → pa % 64 + n ≤ 64 →
    let s := e.s
    let core := e.g.core
    let mine (x : GStore) : Bool := x.g == e.g.ref || x.pubs.contains e.g.ref
    let own (a : Nat) : List StoreReq := e.buffered.filter fun q => match q.at_ with
      | .mem b => decide (b ≤ a) && decide (a < b + q.bytes.length)
      | _ => false
    let byteOf (q : StoreReq) (a : Nat) : Option Byte := match q.at_ with
      | .mem b => q.bytes[a - b]?
      | _ => none
    let U (a : Nat) : List GStore := s.stores.filter fun x => x.seq.isNone && decide (x.pa ≤ a) && decide (a < x.pa + x.bytes.length) &&
      (mine x || (decide (0 < x.rel) && decide (x.core = core) && scopes.any fun k => linked x k e.g.ref core))
    let r := readMem e acq scopes false pa n
    r.2.1.length = n ∧ r.1.s.home = s.home ∧ (∀ c l, s.viewOf c l ≤ r.1.s.viewOf c l) ∧
    (∀ i, i < n → let a := pa + i
      (∀ q, (own a).getLast? = some q → r.2.1[i]? = byteOf q a) ∧
      (own a = [] →
        (∀ x, (U a).getLast? = some x → r.2.1[i]? = x.bytes[a - x.pa]?) ∧
        (U a = [] → s.viewOf core (pa / 64) ≤ s.home.seq → (∀ x ∈ s.stores, ∀ q, x.seq = some q → q ≤ s.home.seq) →
          ∃ m, s.viewOf core (pa / 64) ≤ m ∧ m ≤ s.home.seq ∧
            (∀ x ∈ s.stores, ∀ q, x.seq = some q → x.pa ≤ a → a < x.pa + x.bytes.length → mine x = true → q ≤ m) ∧
            r.2.1[i]? = some (s.home.byteAt m a) ∧ s.home.lastWrite m a ≤ r.1.s.viewOf core (pa / 64)))) ∧
    ∀ i, i < n → let a := pa + i
      let t := s.postLine e.g.ref (pa / 64)
      own a = [] → (∀ x ∈ t.stores, x.seq = none → a < x.pa ∨ x.pa + x.bytes.length ≤ a) →
        (∀ x ∈ t.stores, ∀ q, x.seq = some q → q ≤ t.home.seq) →
        (readMem e acq scopes true pa n).2.1[i]? = some (t.home.byteAt t.home.seq a)) ∧
  -- the lanes of a load
  (∀ (e : Env) (acq : Nat) (home : Bool) (n L : Nat) (va : Word64) (ats : Nat → Bool),
    (∀ pa, ∃ x, (loadAll e acq home n ats [(L, va, .mem pa)]).2 = [x] ∧ x.lane = L ∧
      let e1 : Env := { e with s := e.s.chargeLines e.ctx.asid (pkClass e.pkt) (e.s.xlatReads e.g.core e.ctx va) }
      x.w = BitVec.ofNat 64 (leNat (readMem e1 acq (lookScopes e acq) home pa n).2.1)) ∧
    (∀ a tm, e.b = .a → e.r.probe = none → e.s.team? e.g.ref.tref = some tm →
      ∃ x bs, (loadAll e acq home n ats [(L, va, .scratch e.g.ref.tref a)]).2 = [x] ∧ x.lane = L ∧ x.w = BitVec.ofNat 64 (leNat bs) ∧
        bs.length = n ∧ ∀ i, i < n →
          let own := e.buffered.filterMap fun q => match q.at_ with
            | .scratch u b => if u = e.g.ref.tref ∧ b ≤ a + i then q.bytes[a + i - b]? else none
            | _ => none
          bs[i]? = some (own.getLast?.getD (tm.spByte (a + i))))) ∧
  ∀ (s : State) (g : Group) (d : Deferred) (r ty : Nat) (w : Word64), ty < 13 →
    let placed : Nat := if ty = 12 then w.toNat % 64 else if ty = 4 then ((w.extractLsb' 0 16).signExtend 32).toNat
      else if ty = 6 then ((w.extractLsb' 0 8).signExtend 32).toNat else w.toNat % 2 ^ tyBits ty
    (∀ l, d.form = .load r ty false l → ∃ ls, deferredOut (denv s g) d = .ready { lanes := ls } ∧ ls.map (·.lane) = l.map (·.lane) ∧
      ∀ x ∈ l, x.w = w → ∃ y ∈ ls, y.lane = x.lane ∧ y.raise = 0 ∧
        (tyBits ty ≠ 64 → y.v.map (fun p => (p.1, p.2.w)) = [(r, BitVec.ofNat 32 placed)]) ∧
        (tyBits ty = 64 → y.v.map (fun p => (p.1, p.2.w)) = [(r, w.extractLsb' 0 32), (r + 1, w.extractLsb' 32 32)])) ∧
    (∀ l, d.form = .load r ty true l → ∃ ls, deferredOut (denv s g) d = .ready { lanes := ls } ∧ ls.map (·.lane) = l.map (·.lane) ∧
      ∀ x ∈ l, x.w = w → ∃ y ∈ ls, y.lane = x.lane ∧ y.raise = (convert 8 ty 0 w.toNat).2 ∧
        y.v.map (fun p => (p.1, p.2.w)) = [(r, BitVec.ofNat 32 (convert 8 ty 0 w.toNat).1)]) ∧
    (∀ x l, x.w = w → d.form = .loadu r ty false x l → ∃ ls c, deferredOut (denv s g) d = .ready { lanes := ls, sregs := [(r, c)] } ∧
      c.w = if ty = 0 ∨ ty = 4 ∨ ty = 6 then (BitVec.ofNat 32 placed).signExtend 64 else BitVec.ofNat 64 placed) ∧
    ∀ x l, x.w = w → d.form = .loadu r ty true x l → ∃ ls c, deferredOut (denv s g) d = .ready { lanes := ls, sregs := [(r, c)] } ∧
      c.w = BitVec.ofNat 64 (convert 8 ty 0 w.toNat).1 ∧ ls = l.map fun t => { lane := t, raise := (convert 8 ty 0 w.toNat).2 }
/-- 14 R347, 12 R306, R311, R316, 17 R420: the checks of an access in a lane, in their order: alignment, then the bounds of the scratchpad or
the checks of the window, then translation, permission and, for a load, poison. The lowest lane that fails decides the fault and its address; TLANES holds every lane
that fails, for a word with one address the active set. A load that its turn has not come for waits before its poison is known. 14 R354: a
system-scope atomic that system memory does not take is a permission fault. 01 R20: no mapping of the capability region gives write
permission. 15 R376: a misaligned address of a command, of a record, a packet, a counter, an index list, a COLL buffer, is an alignment
fault before anything is read, a misaligned table base one once its record is read; which address TADDR names where several are misaligned
is the model's choice (log 98, DESIGN CHOICE), and so is that an xld.lh takes its access fault before LOG_FULL (log 92, DESIGN CHOICE). -/
def Obligations.AccessFaults : Prop :=
  ∀ (s : State) (e : Env) (o : OpF), env? s = some e →
    (let u (r : BitVec 8) (i : Nat) : Word64 := (e.scell (r.toNat + i)).w
     -- the first misaligned one of some addresses, each with what it is to be a multiple of
     let first (l : List (Word64 × Nat)) (i : Instr) : Prop := ∀ a n, (l.find? fun p => decide (p.1.toNat % p.2 ≠ 0)) = some (a, n) →
       FaultsAt s e i 3 a e.r.active
     let z := memSize o.ty
     first [(u o.a 0, 64), (u o.b 0, 64), (u o.c 3, 8)] (.copy o) ∧
     first [(u o.a 0, 64), (u o.b 0, 64), (u o.c 3, 8), (u o.c 0, 4)] (.gather o) ∧
     first [(u o.a 0, 64), (u o.b 0, z), (u o.b 1, z), (u o.c 1, 8)] (.coll o) ∧
     first [((e.us o.a).w, 128), ((e.us o.c).w, 8)] (.launch o) ∧
     ∀ x y tx ty e1 e2, AlignedAll [(u o.a 0, 64), (u o.b 0, 64), (u o.c 3, 8), (u o.c 0, 4)] →
       ReadsRec e false (u o.a 0) 64 e1 x tx → ReadsRec e1 false (u o.b 0) 64 e2 y ty → (u o.a 1).toNat % recSize (BitVec.ofNat 512 x) ≠ 0 →
       FaultsAt s e2 (.gather o) 3 (u o.a 1) e.r.active) ∧
    (∀ (need : Need) (z L : Nat) (va : Word64),
      (∀ sp, va.toNat % z ≠ 0 → e.check sp need z L va = .fault 3) ∧
      (va.toNat % z = 0 →
        (pkScratch e.pkt < va.toNat + z → e.check 1 need z L va = .fault 6) ∧
        (∀ k, e.r.probe = none → s.window e.g.ref.grid va z (need ≠ .read) = .error k → e.check 2 need z L va = .fault k) ∧
        (s.xlat e.g.core e.ctx va = .fault → e.check 0 need z L va = .fault 4) ∧
        (∀ pa pte n, s.xlat e.g.core e.ctx va = .ok pa pte n →
          let may : Prop := match need with
            | .read => pteR pte = true
            | .write => pteW pte = true ∧ pa < 2 ^ 52 - 4096
            | .both => pteR pte = true ∧ pteW pte = true ∧ pa < 2 ^ 52 - 4096
            | .exec => pteX pte = true
          (pteImg pte = true ∨ ptePeer pte = true ∨ ¬may → e.check 0 need z L va = .fault 5) ∧
          (pteImg pte = false → ptePeer pte = false → may → e.r.probe = none →
            (need ≠ .read → e.check 0 need z L va = .ok (.mem pa)) ∧
            (need = .read → e.behindA = true → e.check 0 need z L va = .wait (.mem pa)) ∧
            (need = .read → e.behindA = false →
              (s.poisonAt (.mem pa) z = false → e.check 0 need z L va = .ok (.mem pa)) ∧
              (s.poisonAt (.mem pa) z = true → e.check 0 need z L va = .fault 8)))))) ∧
    -- a word with an address in each lane of E, and its check there; the walks of its addresses are counted (17 R424, R428)
    (let settled (c : Check) : Prop := c ≠ .zero ∧ ∀ x, c ≠ .wait x
     let opens (walks : List Nat) : Prop := e.s.linesOpen e.ctx.asid (pkClass e.pkt) walks = true
     let lanes (i : Instr) (sp : Nat) (at_ : Nat → Word64) (check : Nat → Word64 → Check) : Prop :=
      ∀ L rest k, (∀ t ∈ e.setE o, settled (check t (at_ t))) → (e.setE o).filter (fun t => (check t (at_ t)).cause?.isSome) = L :: rest →
        (check L (at_ L)).cause? = some k →
        let walks := e.walksOf sp ((e.setE o).map fun t => (t, at_ t))
        opens walks → FaultsAt s (e.walked walks) i k (at_ L) (lanesMask (L :: rest))
     let z := memSize o.ty
     let zx := if o.bit 10 then 8 else 4
     let za := if o.bit 3 then 1 else 0
     lanes (.ld o) o.space (fun L => (loadAddr o e L z).w) (e.check o.space .read z) ∧
     lanes (.st o) o.space (fun L => (loadAddr o e L z).w) (e.check o.space .write z) ∧
     lanes (.atom o) za (fun L => (atomAddr o e L).w) (e.atomCheck o) ∧ lanes (.red o) za (fun L => (atomAddr o e L).w) (e.atomCheck o) ∧
     (e.r.probe = none → lanes (.xld o) o.space (fun L => (xldAddr o e L).w) (e.check o.space .read zx)) ∧
     lanes (.xst o) o.space (fun L => (xldAddr o e L).w) (e.check o.space .write 8) ∧
     -- a word with one address
     let one (i : Instr) (sp : Nat) (va : Word64) (check : Nat → Word64 → Check) : Prop :=
      let t0 := (e.active.head?).getD 0
      ∀ k, (check t0 va).cause? = some k → opens (e.walksOf sp [(t0, va)]) →
        FaultsAt s (e.walked (e.walksOf sp [(t0, va)])) i k va e.r.active
     let va := (e.us o.a).w + BitVec.ofNat 64 z * o.c.signExtend 64
     one (.ldu o) o.space va (e.check o.space .read z) ∧ one (.stu o) o.space va (e.check o.space .write z) ∧
     one (.atomu o) za (e.us o.a).w (e.atomCheck o)) ∧
    ∀ L va pa, e.check (if o.bit 3 then 1 else 0) .both (atomSize o) L va = .ok (.mem pa) → isSystem pa = true → o.pos = 2 →
      o.opn ≠ 0 → o.opn ≠ 6 → o.opn ≠ 7 → e.atomCheck o L va = .fault 5

/-- 14 R350, 04 R82: a store whose lanes pass their checks leaves the bytes of each lane of E for the boundary, converted where the form
says so (else the low bytes of its register, lowest first; a .l6 store the low six bits), and raises the flags of the conversions; memory and
every register stay as they are. 04 R82, 13 R322, R325, R326: as the effect of its word leaves, a plain store is issued, unposted, and memory
stays; an ST.POST posts every store of its group. At a posting event the chosen stores reach memory in issue order: each byte is then that of
the last of them that covers it, and every other byte is as before; a store posted stays where it is in its home order. -/
def Obligations.StoresComplete : Prop :=
  (∀ (s : State) (e : Env) (o : OpF), env? s = some e →
    let z := memSize o.ty
    let t0 := (e.active.head?).getD 0
    let v (L : Nat) := e.vsrc L o.memWide o.d
    let u := e.us o.d
    (∀ l, e.checkAll o.space .write z ((e.setE o).map fun L => (L, (loadAddr o e L z).w)) = .ok l →
      StoreWord s e (.st o) (e.setE o) (fun L => (storeBytes o (v L).w).2)
        (.stores (l.map fun x => { lane := x.1, at_ := x.2.2, va := x.2.1, bytes := (storeBytes o (v x.1).w).1, ord := ordOf o,
                                   t := e.dt x.1 (v x.1).t, word := e.wordNo }) false)) ∧
    (∀ l, e.checkAll o.space .write z [(t0, (memAddr o e t0 z false 1).w)] = .ok l →
      StoreWord s e (.stu o) e.active (fun _ => (storeBytes o u.w).2)
        (.stores (l.map fun x => { lane := x.1, at_ := x.2.2, va := x.2.1, bytes := (storeBytes o u.w).1, ord := ordOf o,
                                   t := e.ut u.t, word := e.wordNo }) true)) ∧
    ∀ v : Word64, o.cv = false →
      (storeBytes o v).1.length = z ∧
      (o.ty ≠ 12 → leNat (storeBytes o v).1 = v.toNat % 256 ^ z) ∧ (o.ty = 12 → leNat (storeBytes o v).1 = v.toNat % 64)) ∧
  -- the effect of a store word leaves
  (∀ (s : State) (g : Group) (q : StoreReq) (u : Bool) (pa : Nat) (x : Grid), s.group? g.ref = some g → s.grid? g.ref.grid = some x →
    x.kill = none → q.at_ = .mem pa → s.memOpen g.ref q.va pa = true →
    ∃ t st, effectStep s g (.stores [q] u) = .done t ∧ st.pa = pa ∧ st.bytes = q.bytes ∧ st.g = g.ref ∧ st.core = g.core ∧ st.seq = none ∧
      (q.ord = 0 → t.stores = s.stores ++ [st] ∧ t.home = s.home) ∧
      (q.ord = 1 → t.stores.map (·.sid) = (s.stores ++ [st]).map (·.sid) ∧ ∀ y ∈ t.stores, y.g = g.ref → y.seq.isSome = true)) ∧
  -- stores are posted
  ∀ (s : State) (p : GStore → Bool),
    let t := s.postWhere p
    let posts (x : GStore) : Bool := x.seq.isNone && p x
    let open_ (x : GStore) : Bool := paWritable x.pa && !(isSystem x.pa && !s.dev.linkUp)
    let covers (a : Nat) (x : GStore) : Bool := decide (x.pa ≤ a) && decide (a < x.pa + x.bytes.length)
    (∀ a, let l := s.stores.filter fun x => posts x && open_ x && covers a x
      (l = [] → t.home.byte a = s.home.byte a) ∧ (∀ x, l.getLast? = some x → some (t.home.byte a) = x.bytes[a - x.pa]?)) ∧
    t.stores.length = s.stores.length ∧
    ∀ (i : Nat) (x y : GStore), s.stores[i]? = some x → t.stores[i]? = some y →
      (posts x = false → y = x) ∧ (posts x = true → ∃ n, n ≤ t.home.seq ∧ s.home.seq ≤ n ∧ y = { x with seq := some n })

/-- 16 R403: TAINT pushes the taint of a register, a pair, an interval register or the control taint of the lane, and sets no taint
itself. -/
def Obligations.TaintPushes : Prop :=
  ∀ (s : State) (e : Env) (o : OpF), env? s = some e →
    PredicateWord s e (.taint o) (e.setE o) (fun L => pushed (o.bit 8) (e.th L).pred (e.det &&
      (if o.low2 = 0 then (e.v32 L o.a).t else if o.low2 = 1 then (e.v64 L o.a).t
       else if o.low2 = 2 then ((e.th L).xreg o.a.toNat).t else (e.th L).ct))) noFlag noTaint

/-- 14 R352 to R355, R361: an atomic whose lanes pass their checks leaves one request for each lane of E for the boundary; ATOM and ATOMU
wait for the old values, RED for nothing. A returning deterministic one blocks its lanes until the barrier. 14 R353, R356, R357: an atomic
reads the old value, writes the result of its operation and nothing else, and where it returns one answers the old value with the flags;
where its bytes are poisoned it is not performed. -/
def Obligations.AtomicWordsComplete : Prop :=
  (∀ (s : State) (e : Env) (o : OpF), env? s = some e →
    let addr (L : Nat) : Val 64 := atomAddr o e L
    let key := e.g.keys
    let t0 := (e.active.head?).getD 0
    let ty := if o.opn = 11 then 1 else o.ty
    let cut (x : Val 64) : Val 64 := if o.wide then x else { x with w := x.w &&& 0xFFFFFFFF#64 }
    (∀ l, e.checkAtom o ((e.setE o).map fun L => (L, (addr L).w)) = .ok l →
      let c (L : Nat) : Val 64 := if o.opn = 7 then e.vsrc L o.wide o.d else { w := 0 }
      let v (L : Nat) : Val 64 := e.vsrc L o.wide o.c
      BoundaryWord s e.nextKey (.atom o) [.atom o.d.toNat ty key (l.map fun x => (x.1, e.dt x.1 (addr x.1).t))]
        (.atoms (l.map fun x => atomReq o e (some key) (v x.1) (c x.1) (e.dt x.1 ((v x.1).t || (c x.1).t)) x) false ::
          (if e.det && o.bit 4 then [.block (e.r.pos + 1) (.det key e.r.at_) (l.map (·.1))] else [])) ∧
      BoundaryWord s e.nextKey (.red o) []
        [.atoms (l.map fun x => atomReq o e none (v x.1) { w := 0 } (e.dt x.1 (v x.1).t) x) false]) ∧
    (∀ l, e.checkAtom o [(t0, (e.us o.a).w)] = .ok l →
      let v := cut (e.us o.c)
      let c : Val 64 := if o.opn = 7 then cut (e.us o.d) else { w := 0 }
      BoundaryWord s e.nextKey (.atomu o) [.atomu o.d.toNat ty key t0 (e.ut (e.us o.a).t) e.active]
        (.atoms (l.map (atomReq o e (some key) v c (e.ut (v.t || c.t)))) true ::
          (if e.det && o.bit 4 then [.block (e.r.pos + 1) (.det key e.r.at_) e.active] else [])))) ∧
  -- an atomic is performed
  (∀ (s : State) (q : AtomReq) (early : Bool),
    (s.poisonAt q.at_ q.size = true → performAtom s q early = none) ∧
    (s.poisonAt q.at_ q.size = false →
      let answers (a : Option Answer) (o : Nat) (fl : Flags) : Prop := match q.key, a with
        | none, none => True
        | some k, some a => a.key = k ∧ a.lane = q.lane ∧ a.w = BitVec.ofNat 64 o ∧ a.raise = fl
        | _, _ => False
      (∀ pa, q.at_ = .mem pa → paWritable pa = true → (isSystem pa && !s.dev.linkUp) = false →
        let o := leNat ((List.range q.size).map fun i => s.home.byte (pa + i))
        let r := atomResult q.op q.ty q.rm o q.v.toNat q.cmp.toNat
        ∃ t a, performAtom s q early = some (t, a) ∧ answers a o r.2 ∧ (∀ i, i < q.size → some (t.home.byte (pa + i)) = (leBytes r.1 q.size)[i]?) ∧
          ∀ b, b < pa ∨ pa + q.size ≤ b → t.home.byte b = s.home.byte b) ∧
      (∀ tm b x, q.at_ = .scratch tm b → s.team? tm = some x → x.resident = true → s.heldBy q.g = false →
        (linesOf b q.size).any (s.unready tm) = false →
        let o := leNat ((List.range q.size).map fun i => x.spByte (b + i))
        let r := atomResult q.op q.ty q.rm o q.v.toNat q.cmp.toNat
        ∃ t a y, performAtom s q early = some (t, a) ∧ answers a o r.2 ∧ t.home = s.home ∧ t.team? tm = some y ∧
          (∀ i, i < q.size → some (y.spByte (b + i)) = (leBytes r.1 q.size)[i]?) ∧
          ∀ c, c < b ∨ b + q.size ≤ c → y.spByte c = x.spByte c))) ∧
  -- what each operation gives
  ∀ (op ty rm o v cmp : Nat), ty < 4 ∨ ty = 8 ∨ ty = 9 →
    let w := if op = 11 then 32 else tyBits ty
    let a := o % 2 ^ w
    let b := v % 2 ^ w
    let rank (n : Nat) : ℤ := if signedTy ty = true ∧ 2 ^ (w - 1) ≤ n then (n : ℤ) - 2 ^ w else n
    let r := atomResult op ty rm o v cmp
    let place (n top : Nat) : ℤ := if top ≤ n then -((n - top : Nat) : ℤ) - 1 else n
    let nan (n : Nat) : Bool := decide (0x7C00 < n % 2 ^ 15)
    let index (n m : Nat) : Prop := n / 65536 < m / 65536 ∨ (n / 65536 = m / 65536 ∧ n ≤ m)
    let beats (n m : Nat) : Prop := (nan m = true ∧ nan n = false) ∨ (nan n = nan m ∧ ((nan n = true ∧ index n m) ∨
      (nan n = false ∧ (place (m % 65536) (2 ^ 15) < place (n % 65536) (2 ^ 15) ∨ (m % 65536 = n % 65536 ∧ index n m)))))
    (op = 0 → r = ((a + b) % 2 ^ w, 0)) ∧ (op = 1 → r = (if rank b < rank a then b else a, 0)) ∧
    (op = 2 → r = (if rank a < rank b then b else a, 0)) ∧ (op = 3 → r = (a &&& b, 0)) ∧ (op = 4 → r = (a ||| b, 0)) ∧
    (op = 5 → r = (a ^^^ b, 0)) ∧ (op = 6 → r = (b, 0)) ∧ (op = 7 → r = (if a = cmp then b else a, 0)) ∧
    (op = 8 → r = fAdd f32 rm (unpackF f32 a) (unpackF f32 b)) ∧ (op = 9 → r = fMinMax f32 false a b) ∧ (op = 10 → r = fMinMax f32 true a b) ∧
    (op = 11 → r.2 = 0 ∧ (r.1 = a ∨ r.1 = b) ∧ beats r.1 a ∧ beats r.1 b)

/-! ### Ordering and synchronization words (14 R363 to R366, 07 R178 to R187, 18 R449) -/

/-- 14 R364 to R366, 07 R178, R183, R185, 18 R449: each of these words leaves one effect, wait or check for the boundary of its run. BAR of
a role that the team does not have is ILLEGAL. 18 R449, R450: at the end of the round of a lone run, its TFENCE takes ARITH after the run in
the active lanes that hold an enabled flag, at their resume PC, with the flags kept; where there is none, the flag record is cleared. Without
a check, the first word of the run that raised an enabled flag is recorded with its lowest lane, unless an earlier word is. -/
def Obligations.OrderingWords : Prop :=
  ∀ (s : State) (e : Env) (o : OpF), env? s = some e →
    let E := e.setE o
    let b : Barrier := if o.low2 = 0 then .team else if o.low2 = 1 then .role (o.field 2 2) else .grid
    let a := (e.us o.a).w
    BoundaryWord s e (.phase o) [] [.phase o.low2] ∧ BoundaryWord s e (.fence o) [] [.fence o.low2] ∧
    BoundaryWord s e (.cfence o) [] [.cfence (o.field 4 4) (o.field 0 4)] ∧ BoundaryWord s e (.ordd o) [] [.ordd o.low2] ∧
    (o.low2 = 1 → pkRoles e.pkt ≤ o.field 2 2 → FaultsAt s e (.bar o) 1 0 e.r.active) ∧
    (¬(o.low2 = 1 ∧ pkRoles e.pkt ≤ o.field 2 2) →
      BoundaryWord s e (.bar o) [] (if E.isEmpty then [] else [.block (e.r.pos + 1) (.bar b e.r.at_) E])) ∧
    BoundaryWord s e (.ordw o) [] (if E.isEmpty then [] else [.block (e.r.pos + 1) (.ordw o.low2) E]) ∧
    (E = [] → BoundaryWord s e (.cntwait o) [] []) ∧
    (E ≠ [] → a.toNat % 8 ≠ 0 → FaultsAt s e (.cntwait o) 3 a (lanesMask E)) ∧
    (E ≠ [] → a.toNat % 8 = 0 → e.behindA = false → ∀ v, s.readCounter e.g.core e.ctx a = .val v →
      s.vaWaits e.g.core e.ctx (pkClass e.pkt) .read a 8 = none →
      BoundaryWord s { e with s := s.chargeVa e.g.core e.ctx (pkClass e.pkt) a } (.cntwait o)
        [.wait (.cnt a (e.us o.b).w e.r.at_) (E.map fun L => (L, false))] []) ∧
    (∃ t e', exec (.tfence o) s = .next t ∧ Retires s t e e' o.rb ∧ KeepsLanes e e' ∧ KeepsS e e' ∧ NextPcs e e' ∧
      e'.r.tfence = (if e.r.tfence.isSome then e.r.tfence else some (e.r.at_, e.r.pos + 1)) ∧ e'.r.deferred = e.r.deferred ∧
      e'.r.effects = e.r.effects ∧ e'.r.ctl = e.r.ctl) ∧
    ∀ (en : BitVec 6) (g : Group) (rd : Round) (r : Run), rd.a = some r → rd.b = none → r.exit = none → r.fault = none → r.tret = none →
      let x := endChecks en g rd
      (∀ pc pos, r.tfence = some (pc, pos) → (∀ y ∈ g.raised, y.pos ≤ pos) →
        let bad := (maskLanes r.active).filter fun L => (g.lane L).flags &&& en ≠ 0
        (bad = [] → g.afters = [] → r.step = false → x.fault = none ∧ x.trap = none ∧ x.g.flagV = false) ∧
        (bad ≠ [] → x.fault = none ∧
          x.trap = some { cause := 16, pc := pc, addr := 0, lanes := lanesMask bad, pos := pos, stream := false,
                          flags := bad.foldl (fun f L => f ||| ((g.lane L).flags &&& en)) 0, after := true } ∧
          (∀ L, L < g.lanes.length → (x.g.lane L).flags = (g.lane L).flags) ∧
          ∀ f p, x.trap = some f → (∀ L ∈ bad, (g.lane L).st = .live ∧ (g.lane L).pc = p) →
            afterTrap x.g f = some { f with addr := p, pos := 0 })) ∧
      (r.tfence = none → (∀ y ∈ g.raised, y.b = .a ∧ y.lane < 128) →
        (g.flagV = false → g.raised ≠ [] → ∃ y ∈ g.raised,
          x.g.flagV = true ∧ x.g.flagPc = y.pc ∧ x.g.flagLane = BitVec.ofNat 7 y.lane ∧
          ∀ w ∈ g.raised, y.pos < w.pos ∨ (y.pos = w.pos ∧ y.lane ≤ w.lane)) ∧
        (g.flagV = true → g.flagAt ≤ 64 * rd.begun →
          x.g.flagV = true ∧ x.g.flagPc = g.flagPc ∧ x.g.flagLane = g.flagLane))

/-! ### Engine commands and futures (15 R366 to R394) -/

/-- 15 R375, R376: a command whose addresses are aligned and whose records can be read takes its operands at the word, leaves for the
boundary, and has its handle written there with a pending tag. -/
def Obligations.EngineCommandsComplete : Prop :=
  ∀ (s : State) (e : Env) (o : OpF), env? s = some e →
    let u (r : BitVec 8) (i : Nat) : Word64 := (e.scell (r.toNat + i)).w
    let tt (r : BitVec 8) (n : Nat) : Bool := (List.range n).any fun i => decide ((e.scell (r.toNat + i)).t ≠ 0)
    let issues (e : Env) (i : Instr) (k : CmdKind) (ctr : Word64) (t : Bool) : Prop :=
      BoundaryWord s e.nextKey i [.uniform o.d.toNat e.g.keys .pending (e.ut t)] [.command k o.d.toNat ctr e.g.keys (e.ut t)]
    let half (w : Word64) (h : Nat) : Int := (w.extractLsb' (32 * h) 32).toInt
    (∀ x y tx ty e1 e2, AlignedAll [(u o.a 0, 64), (u o.b 0, 64), (u o.c 3, 8)] →
      ReadsRec e true (u o.a 0) 64 e1 x tx → ReadsRec e1 true (u o.b 0) 64 e2 y ty →
      issues e2 (.copy o) (.copy (BitVec.ofNat 512 x) (BitVec.ofNat 512 y) (u o.a 1) (u o.b 1)
          [half (u o.c 0) 0, half (u o.c 0) 1, half (u o.c 1) 0, half (u o.c 1) 1, half (u o.c 2) 0]
          (o.field 10 2) (o.field 8 2) (rmOf o))
        (u o.c 3) (tx || (ty || false) || tt o.a 2 || tt o.b 2 || tt o.c 4)) ∧
    (∀ x y tx ty e1 e2, AlignedAll [(u o.a 0, 64), (u o.b 0, 64), (u o.c 3, 8), (u o.c 0, 4)] →
      ReadsRec e false (u o.a 0) 64 e1 x tx → ReadsRec e1 false (u o.b 0) 64 e2 y ty → (u o.a 1).toNat % recSize (BitVec.ofNat 512 x) = 0 →
      issues e2 (.gather o) (.gather (BitVec.ofNat 512 x) (BitVec.ofNat 512 y) (u o.a 1) (u o.b 1) (u o.c 0) ((u o.c 1).toNat % 2 ^ 32)
          (o.field 10 2) (o.field 8 2) (rmOf o))
        (u o.c 3) (tx || (ty || false) || tt o.a 2 || tt o.b 2 || tt o.c 4)) ∧
    (∀ x tx e1, AlignedAll [(u o.a 0, 64), (u o.b 0, memSize o.ty), (u o.b 1, memSize o.ty), (u o.c 1, 8)] →
      ReadsRec e true (u o.a 0) 64 e1 x tx →
      issues e1 (.coll o) (.coll (BitVec.ofNat 512 x) ((u o.a 1).toNat % 2 ^ 32) (u o.b 0) (u o.b 1) ((u o.c 0).toNat % 2 ^ 32) o.ty
          (o.field 9 2) (o.field 7 2) (o.field 6 1) (o.field 5 1) (rmOf o))
        (u o.c 1) ((tx || false) || tt o.a 2 || tt o.b 2 || tt o.c 2)) ∧
    (∀ x tx e1, AlignedAll [((e.us o.a).w, 128), ((e.us o.c).w, 8)] → ReadsRec e false (e.us o.a).w 128 e1 x tx →
      issues e1 (.launch o) (.launch (BitVec.ofNat 1024 x) ((e.us o.b).w.toNat % 64)) (e.us o.c).w
        ((tx || false) || (e.us o.a).t || (e.us o.b).t || (e.us o.c).t))

/-- 15 R390 to R394: FTEST pushes 1 where S[A] is no handle or names a future that is done, else 0; FMOV copies word and tag, and nothing with
D = A; FWAIT, FCANCEL and FSTAT act at the boundary. 16 R399, R400: the taint of FMOV's copy, in both halves where either is tainted, is the
model's choice (log 49, DEDUCED). -/
def Obligations.FutureWords : Prop :=
  ∀ (s : State) (e : Env) (o : OpF), env? s = some e →
    let h := e.us o.a
    let st := (s.futureStatus e.g.ref.tref (pkGroups e.pkt) h.w).getD 6
    PredicateWord s e (.ftest o) e.active (fun L => pushed false (e.th L).pred (decide (st.toNat % 8 ≠ 0))) noFlag (fun _ => e.det) ∧
    (o.d = o.a → IdleWord s e (.fmov o)) ∧
    (o.d ≠ o.a → UniformWord s e (.fmov o) (fun n => if n = o.d.toNat then
      some { w := (e.scell o.a.toNat).w, tag := (e.scell o.a.toNat).tag, t := if e.ut (decide ((e.scell o.a.toNat).t ≠ 0)) then 3 else 0 }
      else none)) ∧
    DefersWord s e (.fwait o) (.wait (.fut h.w) ((e.setE o).map fun L => (L, e.det && h.t))) ∧
    BoundaryWord s e (.fcancel o) [] [.cancel h.w] ∧
    DefersWord s e (.fstat o) (.fstat o.d.toNat h.w (if e.ut h.t then 3 else 0))

/-! ### Butterfly and sheet words (11 R274 to R296, 06 R150 to R154) -/

/-- 11 R274, R276, R277, R281, R287, R294 to R296: the butterfly words without a future, of a team that holds the engine of the group's
core; BFACQ and BFREL of any team. Each leaves its part of the engine's work for the boundary. Every word
of the group but BFACQ and BFREL is a precise fault BF_NOT_HELD in a team that does not hold the engine. -/
def Obligations.ButterflyOperations : Prop :=
  ∀ (s : State) (e : Env) (o : OpF), env? s = some e →
    let key := e.g.keys
    let x := e.us o.a
    BoundaryWord s e.nextKey (.bfacq o) [.push key e.active e.det] [.bfacq key] ∧
    BoundaryWord s e (.bfrel o) [] [.bf .release] ∧
    (s.holdsBf e.g.core e.g.ref.tref = true →
      BoundaryWord s e.nextKey (.osclaim o) [.uniform o.d.toNat key .none (e.ut false)] [.bf (.claim (o.low2 + 1) key)] ∧
      BoundaryWord s e (.osrel o) [] [.bf (.unclaim (o.field 0 5) (o.field 5 2 + 1))] ∧
      BoundaryWord s e (.bstset o) [] [.bf (.setStride (o.field 0 3) (x.w.extractLsb' 0 32))] ∧
      BoundaryWord s e (.gangset o) [] [.bf (.setGang (x.w.extractLsb' 0 39))] ∧
      BoundaryWord s e.nextKey (.bfscale o) [.uniform o.d.toNat key .none (e.ut false)]
        [.bf (.scale (!o.bit 5) (o.field 0 5) (x.w.extractLsb' 0 32) (e.ut (!o.bit 5 && x.t)) key)] ∧
      (2 ≤ o.field 9 2 → BoundaryWord s e.nextKey (.bfdrain o) [.drainV o.d.toNat o.b.toNat key e.active (e.ut x.t)]
        [.bf (.drainV o.ty (o.field 3 3) (rmOf o) x.w key)])) ∧
    (s.holdsBf e.g.core e.g.ref.tref = false →
      ∀ i ∈ [Instr.osclaim o, .osrel o, .osfill o, .ossave o, .bstset o, .bfstage o, .bfchain o, .bfzero o, .bfdrain o, .bfscale o,
           .gangset o], FaultsAt s e i 10 0 e.r.active)

/-- 11 R278, R282, R290, R292 to R294: the butterfly words with a future, of a team that holds the engine: with aligned addresses each issues its
command; a misaligned counter, memory or scale address is a precise alignment fault at that address. Which of several TADDR names is the
model's choice: memory, then scale bytes, then the counter (log 98, DESIGN CHOICE). -/
def Obligations.ButterflyCommands : Prop :=
  ∀ (s : State) (e : Env) (o : OpF), env? s = some e → s.holdsBf e.g.core e.g.ref.tref = true →
    let issues (i : Instr) (k : CmdKind) (ctr : Word64) (t : Bool) : Prop :=
      BoundaryWord s e.nextKey i [.uniform o.d.toNat e.g.keys .pending (e.ut t)] [.command k o.d.toNat ctr e.g.keys (e.ut t)]
    let x := e.us o.a
    let y := e.us o.b
    let c (i : Nat) : Word64 := (e.scell (o.c.toNat + i)).w
    let ct := (List.range 2).any fun i => decide ((e.scell (o.c.toNat + i)).t ≠ 0)
    let stage (ch : Bool) : CmdKind := .stage ch (o.field 0 3) (o.field 6 5) (o.field 3 3) (o.bit 11) (if o.bit 11 then y.w.toNat % 2 ^ 16 else 0)
    (x.w.toNat % 64 = 0 → y.w.toNat % 8 = 0 → (o.ty = 13 → (c 1).toNat % 8 = 0) →
      issues (.osfill o) (.osfill o.ty o.space (o.field 3 5) x.w (c 0) (c 1)) y.w (x.t || y.t || ct) ∧
      issues (.ossave o) (.ossave o.ty o.space (o.field 3 5) x.w (c 0) (c 1)) y.w (x.t || y.t || ct)) ∧
    (x.w.toNat % 8 = 0 →
      issues (.bfstage o) (stage false) x.w (x.t || (o.bit 11 && y.t)) ∧ issues (.bfchain o) (stage true) x.w (x.t || (o.bit 11 && y.t)) ∧
      issues (.bfzero o) (.zero (o.field 3 3)) x.w x.t) ∧
    (o.field 9 2 = 0 → y.w.toNat % 8 = 0 →
      issues (.bfdrain o) (.drainSlot o.ty (o.field 3 3) (rmOf o) (x.w.toNat % 32)) y.w (x.t || y.t)) ∧
    (o.field 9 2 = 1 → x.w.toNat % 64 = 0 → y.w.toNat % 8 = 0 →
      issues (.bfdrain o) (.drainMem o.ty (o.field 3 3) (rmOf o) (o.field 7 2) x.w (e.us o.c).w) y.w (x.t || y.t || (e.us o.c).t)) ∧
    let faults (i : Instr) (a : Word64) : Prop := FaultsAt s e i 3 a e.r.active
    (x.w.toNat % 64 ≠ 0 → faults (.osfill o) x.w ∧ faults (.ossave o) x.w ∧ (o.field 9 2 = 1 → faults (.bfdrain o) x.w)) ∧
    (x.w.toNat % 64 = 0 → o.ty = 13 → (c 1).toNat % 8 ≠ 0 → faults (.osfill o) (c 1) ∧ faults (.ossave o) (c 1)) ∧
    (y.w.toNat % 8 ≠ 0 →
      (x.w.toNat % 64 = 0 → (o.ty = 13 → (c 1).toNat % 8 = 0) → faults (.osfill o) y.w ∧ faults (.ossave o) y.w) ∧
      (o.field 9 2 = 0 ∨ (o.field 9 2 = 1 ∧ x.w.toNat % 64 = 0) → faults (.bfdrain o) y.w)) ∧
    (x.w.toNat % 8 ≠ 0 → faults (.bfstage o) x.w ∧ faults (.bfchain o) x.w ∧ faults (.bfzero o) x.w)

/-- 06 R150 to R154: the sheet words. A register that is no handle of a bound sheet of the team is a precise fault SHEET_HANDLE. That SWSTAT
reads as its word executes, before sheet words earlier in its run are accepted, is the model's choice (log 89, DESIGN CHOICE). -/
def Obligations.SheetWords : Prop :=
  ∀ (s : State) (e : Env) (o : OpF), env? s = some e →
    let key := e.g.keys
    let h := e.us o.a
    let entry (k : Nat → PokeKind) (t : Nat → Bool) : List Poke := (e.setE o).map fun L =>
      { issuer := (e.g.ref.team * pkGroups (s.pkt e.g.ref.grid) + e.g.ref.group) * 128 + L, elem := (e.v32 L o.b).w.toNat, kind := k L,
        t := e.dt L (h.t || (e.v32 L o.b).t || t L) }
    (∀ v t e1, o.bit 0 = false → h.w.toNat % 64 = 0 → ReadsRec e false h.w 64 e1 v t →
      BoundaryWord s e1.nextKey (.swbind o) [.uniform o.d.toNat key .none (e.ut ((t || false) || h.t))]
        [.bind (BitVec.ofNat 512 v) key (e.ut ((t || false) || h.t))]) ∧
    (e.sheet? h.w = none →
      (o.bit 0 = true → FaultsAt s e (.swbind o) 9 0 e.r.active) ∧ FaultsAt s e (.swrun o) 9 0 e.r.active ∧
      FaultsAt s e (.swwake o) 9 0 e.r.active ∧ FaultsAt s e (.swpoke o) 9 0 e.r.active ∧ FaultsAt s e (.swstat o) 9 0 e.r.active) ∧
    (∀ x, e.sheet? h.w = some x →
      (o.bit 0 = true → BoundaryWord s e (.swbind o) [] [.bindRel x.core x.slot x.serial.toNat]) ∧
      ((e.us o.b).w.toNat % 32 = 0 → (e.us o.c).w.toNat % 8 = 0 →
        let t := h.t || (e.us o.b).t || (e.us o.c).t
        BoundaryWord s e.nextKey (.swrun o) [.uniform o.d.toNat key .pending (e.ut t)]
          [.command (.swrun x.core x.slot x.serial.toNat x.record (e.us o.b).w) o.d.toNat (e.us o.c).w key (e.ut t)]) ∧
      BoundaryWord s e (.swwake o) [] [.pokes x.core x.slot x.serial.toNat (entry (fun _ => .wake) fun _ => false)] ∧
      BoundaryWord s e (.swpoke o) [] [.pokes x.core x.slot x.serial.toNat
        (entry (fun L => if o.bit 0 then .ctx (e.v32 L o.c).w else .val (e.v32 L o.c).w) fun L => (e.v32 L o.c).t)] ∧
      DefersWord s e (.swstat o) (.ready [] [(o.d.toNat, mkS
        (if o.low2 = 0 then BitVec.ofNat 64 x.sweepNo.toNat else if o.low2 = 1 then (if x.runs.isEmpty then 0 else 1)
         else if o.low2 = 2 then BitVec.ofNat 64 (x.queue.length + x.pendW.length) else BitVec.ofNat 64 x.runnable)
        (e.ut (h.t || decide (o.low2 = 1) || decide (o.low2 = 2))))]))

/-! ### System words and the paired form (18 R441 to R459, 16 R409, 02 R36 to R39) -/

/-- 18 R442, R444, R458: TRAP and BRKPT trap in the lanes of E alone, with their operand; BRKPT without BE, and either with an empty E,
goes on. TRET returns its lanes to the resume PC of its level; EXIT in a handler and TRET outside one are ILLEGAL. -/
def Obligations.TrapWords : Prop :=
  ∀ (s : State) (e : Env) (o : OpF), env? s = some e →
    let resume : Word64 :=
      let b := if e.g.level = 2 then e.ctl.bank2 else e.ctl.bank1
      if b.tstate.getLsbD 7 then b.taddr else if o.bit 0 then b.tpc + 8 else b.tpc
    (e.setE o ≠ [] → TrapsIn s e (.trap o) 18 (o.m.zeroExtend 64) (e.setE o)) ∧
    (e.setE o = [] → IdleWord s e (.trap o) ∧ IdleWord s e (.brkpt o)) ∧
    (e.r.be = true → e.setE o ≠ [] → TrapsIn s e (.brkpt o) 20 (o.m.zeroExtend 64) (e.setE o)) ∧
    (e.r.be = false → IdleWord s e (.brkpt o)) ∧
    (e.g.level ≠ 0 → targetOk resume = true →
      ∃ t e', exec (.tret o) s = .next t ∧
        Retires s t { e with r := { e.r with tret := some resume } } e' o.rb ∧ KeepsLanes e e' ∧ KeepsS e e' ∧ KeepsBoundary e e' ∧
        ∀ L, L < e.g.lanes.length → (e'.th L).pc = if e.r.active.getLsbD L then resume else (e.th L).pc) ∧
    (e.g.level ≠ 0 → FaultsAt s e (.exit o) 1 0 e.r.active) ∧ (e.g.level = 0 → FaultsAt s e (.tret o) 1 0 e.r.active)

/-- 18 R445: CSRR writes the control register that it names to S[D], of the bank that it names or of the current level; with no bank named at
level 0, where no bank is current, a banked register reads 0: the model's choice (log 40, DEDUCED). CSRW writes TPC
and TADDR of a bank at or below the level, and CR.DEBUG, and nothing by any other number; its run sees the write at once, the group as the
run commits. -/
def Obligations.ControlRegisterWords : Prop :=
  ∀ (s : State) (e : Env) (o : OpF), env? s = some e →
    let n := o.field 0 12
    let k := o.field 12 2
    let v := (e.us o.a).w
    let b : Bank := if k = 1 ∨ (k = 0 ∧ e.g.level = 1) then e.ctl.bank1 else if k = 2 ∨ (k = 0 ∧ e.g.level = 2) then e.ctl.bank2 else {}
    let reads (c : Word64) (t : Bool) : Prop := UniformWord s e (.csrr o) (uniform e o.d c t)
    (k ≠ 3 → e.g.level ≠ 3 →
      (n = 0x001 → reads b.tpc false) ∧ (n = 0x002 → reads b.taddr false) ∧ (n = 0x003 → reads (b.tcause.zeroExtend 64) false) ∧
      (n = 0x004 → reads (b.tstate.zeroExtend 64) false) ∧ (n = 0x005 → reads (b.tlanes.extractLsb' 0 64) false) ∧
      (n = 0x006 → reads (b.tlanes.extractLsb' 64 64) false)) ∧
    (n = 0x000 → reads (e.g.level.zeroExtend 64) false) ∧ (n = 0x008 → reads e.g.flagPc false) ∧
    (n = 0x009 → reads ((if e.g.flagV then 0x80 else 0) + e.g.flagLane.zeroExtend 64) false) ∧
    (n = 0x010 → reads (crPlace e.g e.team) true) ∧ (n = 0x011 → reads e.ctx.capVa false) ∧
    (∀ x, s.grid? e.g.ref.grid = some x →
      (n = 0x012 → reads (crSaveArea e.ctx x.slot e.team.frame e.g.ref.group) true) ∧
      (n = 0x013 → reads (crBfSave e.ctx x.slot e.team.frame (if e.team.quad then e.g.core % 4 else 0)) true) ∧
      (n = 0x014 → reads (BitVec.ofNat 64 (x.id.toNat + x.slot * 2 ^ 32 + x.asid * 2 ^ 40)) true)) ∧
    (n = 0x015 → reads (bits64 e.pkt 152 18) false) ∧
    (n = 0x020 → reads ((if e.ctl.ss then 1 else 0) + (if e.ctl.be then 2 else 0)) false) ∧
    (1 ≤ k → k ≤ e.g.level.toNat →
      (n = 0x001 → CtlWord s e (.csrw o) [.tpc k (v &&& 0x01FFFFFFFFFFFFF8#64)]) ∧ (n = 0x002 → CtlWord s e (.csrw o) [.taddr k v])) ∧
    (n = 0x020 → CtlWord s e (.csrw o) [.debug (v.getLsbD 0) (v.getLsbD 1)]) ∧
    (n ≠ 0x001 → n ≠ 0x002 → n ≠ 0x020 → IdleWord s e (.csrw o)) ∧
    (k = 0 ∨ e.g.level.toNat < k → n = 0x001 ∨ n = 0x002 → IdleWord s e (.csrw o)) ∧
    ∀ g : Group, (g.withCtl [.tpc 1 v]).bank1.tpc = v ∧ (g.withCtl [.tpc 2 v]).bank2.tpc = v ∧ (g.withCtl [.taddr 1 v]).bank1.taddr = v ∧
      (g.withCtl [.taddr 2 v]).bank2.taddr = v ∧ (g.withCtl [.debug true false]).ss = true ∧ (g.withCtl [.debug true false]).be = false

/-- 18 R454, R458, R459, 16 R409, 04 R73: KILL leaves the kill for its boundary; FLAGR reads, reads and clears, or writes the sticky flags of
the lanes of E; CLOCK reads a clock; DIGEST reads a digest; TLBQ, where the budgets of the stacks of its walk have room (17 R424, R428),
answers at the boundary, 0 where nothing is mapped. -/
def Obligations.OtherSystemWords : Prop :=
  ∀ (s : State) (e : Env) (o : OpF), env? s = some e →
    let E := e.setE o
    let a := e.us o.a
    let walk := s.xlatReads e.g.core e.ctx a.w
    let tlbq (w : Word64) : Prop := s.linesOpen e.ctx.asid (pkClass e.pkt) walk = true →
      BoundaryWord s (e.walked walk) (.tlbq o) [.ready [] [(o.d.toNat, mkS w (e.ut a.t))]] []
    let answer (pte : Word64) (pa size : Nat) : Word64 :=
      BitVec.ofNat 64 (2 ^ 63 + (if pteImg pte then 2 ^ 62 else 0) + (if ptePeer pte then 2 ^ 61 else 0) +
        (if pteZ pte then 2 ^ 60 else 0) + pa / 4096 % 2 ^ 40 * 2 ^ 12 + size * 2 ^ 4 + (pte &&& 0xE#64).toNat)
    let flags (val : Nat → Nat → Option VCell) (f : Nat → BitVec 6) : Prop :=
      ∃ t e', exec (.flagr o) s = .next t ∧ Retires s t e e' o.rb ∧ WritesV e e' E val ∧ KeepsX e e' ∧ KeepsP e e' ∧ KeepsC e e' ∧
        NextPcs e e' ∧ KeepsS e e' ∧ KeepsBoundary e e' ∧
        ∀ L, L < e.g.lanes.length → (e'.th L).flags = if L ∈ E then f L else (e.th L).flags
    let read (L n : Nat) : Option VCell := reg32 o.d ((e.th L).flags.zeroExtend 32) (e.dt L false) n
    BoundaryWord s e (.kill o) [] [.kill e.r.at_] ∧
    (o.low2 = 0 → flags read fun L => (e.th L).flags) ∧ (o.low2 = 1 → flags read fun _ => 0) ∧
    (2 ≤ o.low2 → flags keepV fun L => (e.v32 L o.a).w.extractLsb' 0 6) ∧
    UniformWord s e (.clock o) (uniform e o.d (BitVec.ofNat 64 (if o.bit 0 then s.dev.ns else s.dev.mcycles / 1000)) true) ∧
    (o.bit 0 = true → UniformWord s e (.digest o) (uniform e o.d e.g.engDig e.g.engDigT)) ∧
    (o.bit 0 = false → LaneWord s e (.digest o) E (fun L n => reg64 o.d (e.th L).digest (e.dt L (e.th L).digT) n) noFlag) ∧
    (s.leafAt e.g.core e.ctx a.w = .fault → tlbq 0) ∧
    (∀ pa pte size, s.leafAt e.g.core e.ctx a.w = .ok pa pte size → tlbq (answer pte pa size)) ∧
    (∀ l, s.leafAt e.g.core e.ctx a.w = .zero → s.walk e.ctx a.w = some l →
      tlbq (answer l.pte (ptePa l.pte + a.w.toNat % 2 ^ pageBits (if l.size = 1 then 0 else l.size)) l.size))

/-- 02 R36 to R39: a paired word has the effect of both slots in every active lane, each as its full-form equivalent: both read before
either writes, and slot 0 pushes first. Slot operation 33 adds the negated operand, which fixes the sign of a difference of two zeros: the
model's choice, log 76 (DESIGN CHOICE). -/
def Obligations.PairedWordResults : Prop :=
  ∀ (s : State) (e : Env) (o : OpP), env? s = some e →
    let q (x : Slot) (L : Nat) : SlotOut := slotOut x.op.toNat (e.v32 L x.a) (e.v32 L x.b) (x.b.signExtend 32)
    let w (x : Slot) (L n : Nat) : Option VCell := (q x L).val.bind fun v => reg32 x.d v (e.dt L (q x L).t) n
    let p (x : Slot) (L : Nat) (old : BitVec 8) : BitVec 8 := ((q x L).push.map (pushed false old)).getD old
    LaneWordAll s e (.pairedWord o) e.active (fun L n => (w o.s1 L n).or (w o.s0 L n))
      (fun L => p o.s1 L (p o.s0 L (e.th L).pred)) (fun L => (q o.s0 L).fl ||| (q o.s1 L).fl)
      (fun L => e.det && (((q o.s0 L).push.isSome && (q o.s0 L).t) || ((q o.s1 L).push.isSome && (q o.s1 L).t)))

/-! ### Events: the scheduler, the register file, pages and views (04 R87, R95; 05 R120; 13 R312, R327; 17 R419 to R422) -/

/-- 05 R120 to R122, 07 R164, 04 R95: a slot that is free takes the waiting stream B run first, else the run of the first group in the
order of 05 R120, and a grid of which a group no longer waits counts its waiting from 0; a group eligible for 4096 cycles is promoted; a
PAUSE count that has run out ends; a register line enters the file for a run that waits for it, or leaves it, its 128 bytes landing at
the line's place in the image, where the budgets of their stack have room (17 R428). 04 R79: stream B runs in the threads at its address that
are runnable as it begins. That the registers stand in the group, and a line that enters the file brings none, is the model's choice (log
11, DESIGN CHOICE). -/
def Obligations.SchedulingEvents : Prop :=
  ∀ (s : State) (gr : GRef) (g : Group) (core part line : Nat), s.group? gr = some g →
    (let here := s.groups.filter fun x => decide (x.core = core) && decide (x.part = part)
     s.busySlots core part < 3 →
      (∀ x y, argMin (fun (z : Group) => ((z.round.map (·.begun)).getD 0)) (here.filter fun z => (s.beginB z).isSome) = some x →
        s.beginB x = some y → exec (.issueSlotSelect core part) s = .next (((s.setGroup y).stopWaiting y).bump)) ∧
      (∀ x y, here.filter (fun z => (s.beginB z).isSome) = [] →
        argMin s.slotKey (here.filter fun z => s.eligible z && (s.beginRound z).isSome) = some x → s.beginRound x = some y →
        exec (.issueSlotSelect core part) s = .next (((s.setGroup y).stopWaiting y).bump))) ∧
    (∀ y rd pc, s.beginB g = some y → g.round = some rd → rd.waitB = some pc → g.lanes.length = 128 →
      ∃ q r, y.round = some q ∧ q.b = some r ∧ q.waitB = none ∧ r.at_ = pc ∧ ∀ L, L < 128 →
        (r.active.getLsbD L = true ↔ (g.lane L).pc = pc ∧ g.mayRun L = true ∧ ∀ a, rd.a = some a → a.active.getLsbD L = false)) ∧
    (s.waitingGroup g = false → ∀ x ∈ (s.stopWaiting g).grids, x.id.toNat = gr.grid → x.waiting = none) ∧
    (∀ n, g.eligible = some n → n + 4096 ≤ s.cycle → s.eligible g = true →
      exec (.groupPromotion gr) s = .next (s.setGroup { g with promoted := true })) ∧
    (∀ n, g.pauseTo = some n → n ≤ s.cycle → exec (.pauseExpiry gr) s = .next (s.setGroup { g with pauseTo := none })) ∧
    (∀ c rd pa, s.gridCtx? gr.grid = some c → g.round = some rd →
      (∃ r ∈ rd.a.toList ++ rd.b.toList, line ∈ r.missing) → s.linesUsed g.core < 16384 →
      s.accessImage g.core c .read (s.lineVa g line) = .ok pa →
      s.linesOpen c.asid (s.classOf gr.grid) (s.pathLines g.core c (s.lineVa g line) pa ++ [pa + 64]) = true →
      ∃ t x, exec (.regLineFill gr line) s = .next t ∧ t.group? gr = some x ∧ line ∈ x.linesIn ∧ x.lanes = g.lanes ∧ x.s = g.s ∧
        (∀ r, (x.round.bind (·.a)) = some r → line ∉ r.missing) ∧ (∀ r, (x.round.bind (·.b)) = some r → line ∉ r.missing) ∧
        t.home = s.home) ∧
    (∀ c pa, s.gridCtx? gr.grid = some c → g.core = core → line ∈ g.linesIn → g.pinned s line = false →
      s.accessImage core c .write (s.lineVa g line) = .ok pa → pa % 128 = 0 → isSystem pa = false → paWritable pa = true →
      paWritable (pa + 64) = true →
      s.linesOpen c.asid (s.classOf gr.grid) (s.pathLines core c (s.lineVa g line) pa ++ [pa + 64]) = true →
      let bs := imageLine (pkVregs (s.pkt gr.grid) g.role) (pkXregs (s.pkt gr.grid) g.role) (s.blockedLane g) g line
      ∃ t, exec (.regLineWriteback core gr line) s = .next t ∧
        (t.group? gr) = some { g with linesIn := g.linesIn.filter (· ≠ line) } ∧
        (∀ i, i < 128 → i < bs.length → some (t.home.byte (pa + i)) = bs[i]?) ∧
        (∀ a, a < pa ∨ pa + 128 ≤ a → t.home.byte a = s.home.byte a))

/-- 13 R327, 12 R312, R313, 17 R419 to R423: a core's view of a line only grows, never past what has been posted, and no other view moves;
at a line whose bytes have landed a held store whose lines have all come is made, and one whose lines have not waits on,
with the barriers that waited for it tried again (07 R181); a walk, where the budgets of the stacks of its entries have room, fills the TLB
of its unit; of the walks at a page with Z = 1 one zeroes it, and the others wait until Z is 0, or take it up where nobody zeroes it; the
page is zero, and its entry loses Z and ZB where it still is the one that the walk took up, and stays as it stands where it is not. That an
entry that reads as poison maps nothing is the model's choice (log 90, DESIGN CHOICE). -/
def Obligations.ViewAndPageEvents : Prop :=
  ∀ (s : State),
    (∀ core line, ∃ t, exec (.viewAdvance core line) s = .next t ∧
      s.viewOf core line ≤ t.viewOf core line ∧ (s.viewOf core line ≤ s.home.seq → t.viewOf core line ≤ s.home.seq) ∧
      (∀ c l, c ≠ core ∨ l ≠ line → t.viewOf c l = s.viewOf c l) ∧ t.home = s.home ∧ t.groups = s.groups) ∧
    (∀ tm line, s.landing tm line = false →
      exec (.linePresent tm line) s = .next ((s.applyHeld.teams.map (·.ref)).foldl State.tryBarriers s.applyHeld) ∧
      ∀ u h x, s.heldStores = [(u, h)] → s.team? u = some x → x.resident = true →
        let waits := (linesOf h.addr h.bytes.length).any (s.landing u)
        (waits = false → s.applyHeld =
          s.setTeam { (x.spWrite h.addr h.bytes h.t).spCovered h.g h.word h.addr h.bytes.length with held := [] }) ∧
        (waits = true → s.applyHeld = s)) ∧
    (∀ unit asid va c l pa pte n, s.ctx? asid = some c → s.walk c va = some l →
      s.linesOpen asid (s.unitClass unit asid) (s.walkReads c va) = true → s.walkXlat l va = .ok pa pte n →
      ∃ t, exec (.pageWalk unit asid va) s = .next t ∧ t.tlb.head? = some (tlbEntry s unit asid va l pa pte) ∧ t.home = s.home) ∧
    (∀ n w, s.zwalk? n = some w → w.owner = false →
      let p : Word64 := if s.poisoned w.pteAt 8 then 0 else BitVec.ofNat 64 (s.home.nat w.pteAt 8)
      let t := s.chargeLines w.asid (s.walkClass w.asid) [w.pteAt]
      let open_ := s.linesOpen w.asid (s.walkClass w.asid) [w.pteAt]
      (open_ = false → exec (.zbRecheck n) s = .next s.bump) ∧
      (open_ = true → pteV p = false ∨ pteZ p = false →
        exec (.zbRecheck n) s = .next ({ t with zwalks := t.zwalks.filter fun x => decide (x.n ≠ n) } : State).tryEnds) ∧
      (open_ = true → pteV p = true → pteZ p = true → pteZB p = true → exec (.zbRecheck n) s = .next t) ∧
      (open_ = true → pteV p = true → pteZ p = true → pteZB p = false → isSystem w.pteAt = false → paWritable w.pteAt = true →
        ∃ u : State, exec (.zbRecheck n) s = .next u ∧ u.zwalk? n = some { w with owner := true, pte := p } ∧
          u.home.nat w.pteAt 8 = (p ||| 0x20#64).toNat ∧ ∀ a, a < w.pteAt ∨ w.pteAt + 8 ≤ a → u.home.byte a = s.home.byte a)) ∧
    (∀ n w, s.zwalk? n = some w → w.owner = true →
      let bytes := 2 ^ pageBits w.size
      ptePa w.pte % bytes = 0 → isSystem (ptePa w.pte) = false → paWritable (ptePa w.pte) = true →
      paWritable (ptePa w.pte + bytes - 1) = true → (w.pteAt + 8 ≤ ptePa w.pte ∨ ptePa w.pte + bytes ≤ w.pteAt) →
      isSystem w.pteAt = false → paWritable w.pteAt = true →
      let p := s.home.nat w.pteAt 8
      ∃ t : State, exec (.pageZeroed n) s = .next t.tryEnds ∧ t.zwalk? n = none ∧
        (∀ i, i < bytes → t.home.byte (ptePa w.pte + i) = 0) ∧
        t.home.nat w.pteAt 8 = if p = (w.pte ||| 0x20#64).toNat then (w.pte &&& ~~~0x8000000000000020#64).toNat else p)

/-! ### Events: runs and their boundaries (04 R83, R89, R98; 07 R185; 13 R316, R335; 14 R358; 18 R439) -/

/-- 04 R89, R96, 18 R439: a run commits at its own end, run A of a round before run B. Its registers and effects become the group's: after
both, a register holds the value of stream B where it wrote it, else that of stream A where it did, else what was there; the effects of
stream A come before those of stream B, each in program order; no lane moves. Control state takes the writes of stream A, then those of
stream B: 04 R89 gives that order for registers and effects alone, and for control state it is the model's choice (log 86). -/
def Obligations.RunsCommitTogether : Prop :=
  ∀ (g : Group) (a b : Run) (rd : Round), rd.a = some a → rd.b = some b →
    let one := commitRun g rd .a a
    let c := commitRun one ((one.round).getD rd) .b b
    let k := g.withCtl (a.ctl ++ b.ctl)
    let mine (s : Stream) (r : Run) : List (Stream × Effect) := r.effects.map fun e => (s, e)
    (∀ n, Table.get {} one.s n = if n ∈ a.written then Table.get {} a.s n else Table.get {} g.s n) ∧
    one.outbox = g.outbox ++ mine .a a ∧ one.lanes = g.lanes ∧
    (∀ n, n ∈ b.written → Table.get {} c.s n = Table.get {} b.s n) ∧
    (∀ n, n ∉ b.written → n ∈ a.written → Table.get {} c.s n = Table.get {} a.s n) ∧
    (∀ n, n ∉ b.written → n ∉ a.written → Table.get {} c.s n = Table.get {} g.s n) ∧
    c.prio = k.prio ∧ c.mark = k.mark ∧ c.bank1 = k.bank1 ∧ c.bank2 = k.bank2 ∧ c.ss = k.ss ∧ c.be = k.be ∧
    c.outbox = g.outbox ++ mine .a a ++ mine .b b ∧ c.lanes = g.lanes ∧
    (rd.nextCommit = some .a ↔ a.ended = true ∧ a.committed = false) ∧
    (rd.nextCommit = some .b ↔ a.committed = true ∧ b.ended = true ∧ b.committed = false)

/-- 18 R439, R440, 04 R83, R98, 13 R335, 14 R358, 07 R185, 10 R256, 12 R316: at its end a run commits and its effects leave; one with a window store
that its target no longer takes as it arrives there is taken back to the word of that store, which faults at those lanes, with the expression
log as the words before it left it (log 18, DEDUCED: a window store arrives at the commit of its run). The next deferred write is made once
its value is there; the atomic at the head of a group's effects is performed at its press unit, or held where it is deterministic; a window
store reaches the bytes of its target; a counter that has reached its threshold ends the waits for it, each with its push, behind the
earlier waits of its lane (log 82, DEDUCED: the waits of one run in program order); the end of a round makes its checks, and of its precise fault, BAR_MISMATCH and after-run trap the first is taken; the range of an exited team is
released. -/
def Obligations.BoundaryEvents : Prop :=
  ∀ (s : State) (gr : GRef) (g : Group), s.group? gr = some g →
    (∀ rd b r, g.round = some rd → rd.nextCommit = some b → rd.run? b = some r →
      let x := s.recheckRun g rd b
      (∀ y, x.rd.run? b = some y →
        exec (.runCommit gr) s = .next ((x.s.setGroup (commitRun x.g x.rd b y)).settleGroup gr)) ∧
      (s.refusedEffect gr r = none → x = { s := s, g := g, rd := rd }) ∧
      (∀ n t va k l p i, s.refusedEffect gr r = some (n, (t, va, k) :: l, false) →
        ((r.pre.zipIdx.filter fun y => decide (y.1.effects.length ≤ n)).getLast?) = some (p, i) →
        (∀ L, L < g.lanes.length → x.g.lane L = if r.active.getLsbD L then (p.lanes[L]?).getD {} else g.lane L) ∧
        x.s = (s.takeBack g r p).restoreLog g ((r.pre.drop i).findSome? (·.log)) ∧
        (∀ y, y ∈ (s.takeBack g r p).referrals ↔ y ∈ s.referrals ∧ (y.g = g.ref →
          ∀ d ∈ r.deferred.drop p.deferred.length, ∀ l, d.decision? ≠ some (y.key, l))) ∧
        ∃ z f, x.rd.run? b = some z ∧ z.fault = some f ∧ z.s = p.s ∧ z.effects = p.effects ∧ z.ctl = p.ctl ∧ z.at_ = p.at_ ∧
          f.cause = k ∧ f.pc = p.at_ ∧ f.addr = va ∧ f.lanes = lanesMask (((t, va, k) :: l).map (·.1)))) ∧
    (∀ d rest, g.pend = d :: rest →
      (∀ o x, deferredOut (denv s g) d = .ready o → (o.apply (denv s g) d).group? gr = some x →
        exec (.deferredWrite gr) s = .next (((o.apply (denv s g) d).setGroup { x with pend := rest }).settleGroup gr)) ∧
      (∀ t, deferredOut (denv s g) d = .retry t → exec (.deferredWrite gr) s = .next t) ∧
      (deferredOut (denv s g) d = .wait → exec (.deferredWrite gr) s = .next (s.settleGroup gr))) ∧
    (∀ rd, g.round = some rd → g.settled = true → g.outbox = [] → g.pend = [] → g.own = [] → s.stepHeld g rd = false →
      let r := endChecks (pkTrapEn (s.pkt gr.grid)) { g with pauses := pauseLog g.pauses rd } rd
      let goesOn (t : State) : Prop := ∀ y, t.group? gr = some y →
        exec (.deferredWrite gr) s = .next (((t.arriveAt y).tryExit y).tryBarriers gr.tref)
      (r.fault = none → mismatch r.g = none → r.trap = none → goesOn (s.setGroup r.g)) ∧
      (∀ f, r.fault = some f → f.cause ≠ 4 → goesOn ((s.setGroup r.g).takeTrap r.g f)) ∧
      (r.fault = none → (mismatch r.g).isSome = true → goesOn ((s.setGroup r.g).barMismatch r.g)) ∧
      (∀ f h, r.fault = none → mismatch r.g = none → r.trap = some f → afterTrap r.g f = some h → goesOn ((s.setGroup r.g).takeTrap r.g h))) ∧
    (∀ b q l u rest, g.outbox = (b, .atoms (q :: l) u) :: rest →
      let x := { g with outbox := (b, .atoms l u) :: rest }
      (∀ pa, q.at_ = .mem pa → q.det = false → s.memOpen gr q.va pa = true → ∀ t a,
        performAtom (((s.setGroup x).foldAtom q).postLine gr (pa / 64)) q false = some (t, a) →
        exec (.atomicPerform gr) s = .next ((match a with
          | some a => t.answer gr a
          | none => t).settleGroup gr)) ∧
      (∀ pa, q.at_ = .mem pa → q.det = true →
        ((s.grid? gr.grid).map (·.kill.isSome)).getD true = false → s.memOpen gr q.va pa = true →
        exec (.detUpdateHold gr) s = .next ((((s.setGroup x).foldAtom q).holdUpdate q pa).settleGroup gr))) ∧
    (∀ b q l u rest t x, g.outbox = (b, .stores (q :: l) u) :: rest → s.windowStore g q = some t → t.group? gr = some x →
      exec (.windowAccessArrive gr) s = .next ((t.setGroup { x with outbox := (b, .stores l u) :: rest }).settleGroup gr)) ∧
    (∀ c w v, s.gridCtx? gr.grid = some c → cntWaits g = [w] → s.readCounter g.core c w.1 = .val v →
      s.vaWaits g.core c (s.classOf gr.grid) .read w.1 8 = none →
      (cntDone v w.2.1 = true → ∃ t x, exec (.cntwaitRecheck gr) s = .next t ∧ t.group? gr = some x ∧
        ∀ L, L < g.lanes.length →
          let u := g.lane L
          let mine : Wait := .cnt w.1 w.2.1 w.2.2
          let push : PredOp := .push (!v.getLsbD 63)
          (u.waits = [] → x.lane L = u) ∧
          (∀ n, u.waits = [(n, mine)] → x.lane L = { u with waits := [], pred := pushed false u.pred (!v.getLsbD 63) }) ∧
          (∀ m n k, u.waits = [(m, .ordw k), (n, mine)] → x.lane L = { u with waits := [(m, .ordw k), (n, .pred push)] })) ∧
      (cntDone v w.2.1 = false →
        exec (.cntwaitRecheck gr) s = .next (s.chargeVa g.core c (s.classOf gr.grid) w.1))) ∧
    (∀ x, s.team? gr.tref = some x → x.exited = true → s.namesScratch gr.tref = false → s.det gr.grid = false →
      (s.grid? gr.grid).map Grid.complete ≠ some true →
      ∃ t, exec (.teamScratchRelease gr.tref) s = .next t ∧ t.team? gr.tref = none ∧ t.group? gr = none)

/-! ### Events: the distributor (05 R101 to R126, 18 R451) -/

/-- 05 R106 to R111, 17 R422, R428: the head of an enabled queue is examined; a valid packet without dependences is ready at once, one that fails
its checks or cannot be read is consumed with a record, its counter marked failed where the packet names one (the model's choice, log 71, DESIGN CHOICE); the unmet
dependences of a head are read again; the first ready head in the order of 05 R111 starts as a grid with the next identifier in the lowest
free slot, and its slot is consumed. An access to a page that is still zeroing makes the head wait, and so does a stack of the packet's two lines, or of a walk that fails,
whose budget is spent; that the walk that fails counts in the class of the context's walks is the model's choice (log 9, DESIGN CHOICE). -/
def Obligations.QueueHeadEvents : Prop :=
  ∀ (s : State) (n : Nat),
    let q := s.queue n
    let va := q.slot q.read.toNat
    (∀ c, s.ctx? q.asid = some c → s.dev.state = 3 → q.en = true → q.head = none → q.read ≠ q.write →
      (∀ t, s.waitZero hostUnit c .read va 128 = some t → exec (.headExamine n) s = .next t) ∧
      (s.waitZero hostUnit c .read va 128 = none →
        (s.readVa hostUnit c va 128 = none →
          let walk := s.vaLines hostUnit c .read va
          (s.linesOpen c.asid (s.walkClass c.asid) walk = false → exec (.headExamine n) s = .next s.bump) ∧
          (s.linesOpen c.asid (s.walkClass c.asid) walk = true → exec (.headExamine n) s =
            .next (((s.chargeLines c.asid (s.walkClass c.asid) walk).consume n).record q.asid { kind := 1, final := 33, addr := va }))) ∧
        (∀ bs, s.readVa hostUnit c va 128 = some bs →
          let p : Packet := BitVec.ofNat 1024 (leNat bs)
          let open_ := s.linesOpen c.asid (pkClass p) (s.vaLines hostUnit c .read va ++ s.vaLines hostUnit c .read (va + 64))
          let s1 := (s.chargeVa hostUnit c (pkClass p) va).chargeVa hostUnit c (pkClass p) (va + 64)
          (open_ = false → exec (.headExamine n) s = .next s.bump) ∧
          (open_ = true → packetOk p = false → exec (.headExamine n) s = .next (s1.rejectHead n 33 va p)) ∧
          (open_ = true → packetOk p = true → pkDepN p = 0 →
            ∃ t, exec (.headExamine n) s = .next t ∧ t = { s1 with queues := t.queues } ∧ (∀ k, k ≠ n → t.queue k = s.queue k) ∧
              t.queue n = { q with head := some { pkt := p, at_ := va, ready := some s.cycle } })))) ∧
    (∀ k a p, let t := (s.consume n).record q.asid { kind := 1, final := k, addr := a }
      (ccntOk p = false → s.rejectHead n k a p = t) ∧
      (ccntOk p = true → s.counterWaits q.asid hostUnit (pkClass p) (pkCcnt p) = none →
        s.rejectHead n k a p = t.gridCounter q.asid 0 (pkCcnt p) failMark)) ∧
    (∀ h, q.head = some h → h.ready = none → exec (.depCounterRecheck n) s = .next (s.checkDeps n)) ∧
    (∀ h r slot, s.dev.state = 3 →
      argMin (fun (x : Nat × Head × Nat) => s.headKey x.1 x.2.1 x.2.2) s.readyHeads = some (n, h, r) →
      s.freeGridSlot = some slot →
      ∃ t : State, exec .gridStart s = .next (t.fixWish s.dev.gridIds.toNat) ∧
        t = { s with queues := t.queues, grids := t.grids, dev := t.dev } ∧
        t.grids = s.grids ++ [{ id := s.dev.gridIds, slot := slot, asid := q.asid, pkt := h.pkt }] ∧
        t.dev = { s.dev with gridIds := s.dev.gridIds + 1 } ∧ t.queue n = { q with read := q.read + 1, head := none } ∧
        ∀ k, k ≠ n → t.queue k = s.queue k)

/-- 05 R113, R115, R116, R117, R126: the preference of a grid's next team is fixed as it becomes the next; the team takes the lowest free
frame and the place that R115 finds, its groups their slots and first registers; where there is no free frame or no place its wait begins,
and after 2048 cycles every die will do. 04 R75, R77: what a new group's registers and threads hold. -/
def Obligations.PlacementEvents : Prop :=
  (∀ (s : State) (grid : Nat) (g : Grid) (c : Context), s.grid? grid = some g → s.ctx? g.asid = some c →
    let p := g.pkt
    let T := g.nextTeam
    (g.kill = none → g.ended = false → T < pkTeams p → (s.swappedOut grid).any (·.asking) = false →
      (pkSerial p = true → s.residents grid = []) →
      (∀ f, g.wish = none → s.prefOf c p T = .ok f →
        ∃ t, exec (.teamPlace grid) s = .next t ∧ t.grid? grid = some { g with wish := some { pref := f } } ∧ t.teams = s.teams) ∧
      (∀ w, g.wish = some w →
        (s.freeFrame g = none ∨ s.findPlace p [] w.pref w.expired = none →
          exec (.teamPlace grid) s = .next (s.setGrid { g with wish := some { w with since := w.since.or (some s.cycle) } })) ∧
        (∀ frame core, s.freeFrame g = some frame → s.findPlace p [] w.pref w.expired = some core → s.yields g = false →
          let t : Team := { ref := { grid := grid, team := T }, tx := (teamXyz p T).1, ty := (teamXyz p T).2.1, tz := (teamXyz p T).2.2,
                            frame := frame, core := core, quad := pkQuad p, prefDie := w.pref.die, prefSlice := w.pref.slice,
                            bases := (s.room p [] core).getD [0], size := partBytes p, serial := s.serials }
          let s1 := s.setGrid { g with nextTeam := T + 1, wish := none, waiting := none }
          let s2 : State := { s1 with teams := s1.teams ++ [t], serials := s1.serials + 1,
                                      groups := s1.groups ++ (List.range (pkGroups p)).map (newGroup p grid T) }
          exec (.teamPlace grid) s = .next ((((s2.seat t).freshen t).fixWish grid).tryExitAll t.ref)))) ∧
    (pkAff p ≠ 1 → pkAff p ≠ 2 → s.prefOf c p T = .ok { die := T % 8, slice := T / 8 % 24 }) ∧
    (∃ t, exec (.placementTimeout grid) s = .next t ∧
      (∀ w n, g.wish = some w → w.since = some n → n + 2048 ≤ s.cycle →
        t.grid? grid = some { g with wish := some { w with expired := true } }) ∧
      ∀ tm x w n, s.team? tm = some x → tm.grid = grid → x.wish = some w → w.since = some n → n + 2048 ≤ s.cycle →
        t.team? tm = some { x with wish := some { w with expired := true } })) ∧
  (∀ (p : Packet) (grid T k : Nat),
    let g := newGroup p grid T k
    let role := pkRoleOf p k
    let xyz := teamXyz p T
    g.level = 0 ∧ g.ref = { grid := grid, team := T, group := k } ∧ g.lanes.length = 128 ∧
    (Table.get {} g.s 0).w = BitVec.ofNat 64 (pkArgs p).toNat ∧ (Table.get {} g.s 1).w = BitVec.ofNat 64 T ∧
    (Table.get {} g.s 2).w = BitVec.ofNat 64 (xyz.1 + xyz.2.1 * 2 ^ 21 + xyz.2.2 * 2 ^ 42) ∧
    (Table.get {} g.s 3).w = BitVec.ofNat 64 (k + role * 2 ^ 8 + (k - pkRoleBase p role) * 2 ^ 16) ∧
    (Table.get {} g.s 4).w = BitVec.ofNat 64 ((T * pkGroups p + k) * 128) ∧ (∀ n, 5 ≤ n → Table.get {} g.s n = {}) ∧
    ∀ L, L < 128 → (128 * k + L < pkThreads p → (g.lane L).st = .live) ∧ (g.lane L).pc = pkCode p ∧
      (pkThreads p ≤ 128 * k + L → (g.lane L).st = .never) ∧ ((g.lane L).vreg 0).w = BitVec.ofNat 32 L ∧
      (∀ n, 1 ≤ n → (g.lane L).vreg n = {}) ∧ (∀ n, (g.lane L).xreg n = {}) ∧ (g.lane L).pred = 0 ∧ (g.lane L).flags = 0 ∧
      (g.lane L).waits = [] ∧ (g.lane L).digest = 0)

/-- 05 R115, R123 to R126, 18 R451: where every resident team of a grid has waited 65536 cycles, the highest resident leaves while a team has
never been placed; else the lowest team that is out is asked back, and where it finds no room the highest resident leaves. That the trigger starts the waiting count anew (log 42), and which team is asked back
and how it waits (log 73), is the model's choice (DEDUCED). A team leaves
once its groups and engines let it, its range written to its swap slot, and comes back from there at the place that 05 R115 finds; a range
that holds poison, at either side, kills its grid with IMAGE_FAULT. A killed grid whose work has ended first cancels the commands saved with
its swapped-out teams, and then is gone, its record written and its counter marked. -/
def Obligations.SwapAndKillEvents : Prop :=
  ∀ (s : State) (grid : Nat) (g : Grid), s.grid? grid = some g →
    let res := (s.gridTeams grid).filter fun t => t.resident && !t.exited
    let cls := pkClass g.pkt
    (∀ n t, g.kill = none → g.waiting = some n → n + 65536 ≤ s.cycle → res.any (·.leaving) = false → s.waitingGrid grid = true →
      let s1 := s.setGrid { g with waiting := none }
      (g.nextTeam < pkTeams g.pkt → (s1.freeFrame g).isSome = true → highestTeam res = some t →
        exec (.swapTrigger grid) s = .next (s1.setTeam { t with leaving := true })) ∧
      (pkTeams g.pkt ≤ g.nextTeam → lowestTeam (s1.swappedOut grid) = some t →
        let s2 := s1.setTeam { t with asking := true }
        (s1.roomAnywhere g t = true → exec (.swapTrigger grid) s = .next s2) ∧
        (∀ x, s1.roomAnywhere g t = false → highestTeam res = some x →
          exec (.swapTrigger grid) s = .next (s2.setTeam { x with leaving := true })))) ∧
    (∀ c t, s.ctx? g.asid = some c → s.team? t.ref = some t → t.ref.grid = grid → g.kill = none →
      let va := swapVa g.pkt t.frame
      let n := pkRangeBytes g.pkt
      (t.leaving = true →
        let s1 := s.beginLeave t.ref
        (s1.mayGo t.ref t = false → exec (.teamSwapOut t.ref) s = .next s1) ∧
        (s1.mayGo t.ref t = true → s1.heldBf t = [] → s1.fileLines t.ref = [] → s1.reach c t.core .write (pagesOf va n) = .ok () →
          (t.rangePoison g.pkt = true → exec (.teamSwapOut t.ref) s = .next (s1.killTeamAt t.ref 32)) ∧
          (t.rangePoison g.pkt = false →
            let own := s1.regCost c t.core .write va (List.range n)
            (s1.linesOpen c.asid cls own = false → exec (.teamSwapOut t.ref) s = .next s1.bump) ∧
            (s1.linesOpen c.asid cls own = true →
              let s2 := ((s1.postTeam t.ref).chargeLines c.asid cls own).regWrite c t.core va (rangeBytes g.pkt t)
              (s2.team? t.ref).isSome = true →
              ∃ u, exec (.teamSwapOut t.ref) s = .next u ∧ u.home = s2.home ∧
                u.team? t.ref = some { t with resident := false, leaving := false, asking := false, wish := none })))) ∧
      (g.ended = false → s.serialBusy g = false → lowestTeam ((s.swappedOut grid).filter (·.asking)) = some t → t.savedBf = [] →
        (∀ f, t.wish = none → s.prefOf c g.pkt t.ref.team = .ok f →
          exec (.teamResume t.ref) s = .next ((s.setTeam { t with wish := some { pref := f } }).chargePref c g.pkt t.ref.team)) ∧
        (∀ w, t.wish = some w →
          (s.findPlace g.pkt [] w.pref w.expired = none →
            exec (.teamResume t.ref) s = .next (s.setTeam { t with wish := some { w with since := w.since.or (some s.cycle) } })) ∧
          (∀ core, s.findPlace g.pkt [] w.pref w.expired = some core → s.yields g = false →
            s.reach c core .read (pagesOf va n) = .ok () →
            let lines := s.regCost c core .read va (List.range n)
            (s.regPoison c core va (List.range n) = true → exec (.teamResume t.ref) s = .next (s.killTeamAt t.ref 32)) ∧
            (s.regPoison c core va (List.range n) = false →
              (s.linesOpen c.asid cls lines = false → exec (.teamResume t.ref) s = .next s.bump) ∧
              (s.linesOpen c.asid cls lines = true →
                let rd (k : Nat) : Byte := match s.accessImage core c .read (va + BitVec.ofNat 64 k) with
                  | .ok pa => s.home.byte pa
                  | _ => 0
                let t1 := { t.withRange g.pkt rd with
                  core := core, bases := (s.room g.pkt [] core).getD [0], prefDie := w.pref.die, prefSlice := w.pref.slice,
                  resident := true, asking := false, wish := none, savedBf := [] }
                let s1 := s.chargeLines c.asid cls lines
                exec (.teamResume t.ref) s = .next ((((s1.setTeam t1).setGrid { g with waiting := none }).seat t1).freshen t1))))))) ∧
    (∀ r x i q, g.kill = some r → g.ended = false → s.killBusy grid = false → s.killWaits g = false → s.savedCmd grid = some (x, i, q) →
      exec (.killComplete grid) s = .next (s.cancelSaved x i q)) ∧
    (∀ r, g.kill = some r → g.ended = false → s.killBusy grid = false → s.killWaits g = false → s.savedCmd grid = none →
      (∀ t, s.counterWaits g.asid hostUnit (pkClass g.pkt) (pkCcnt g.pkt) = some t → exec (.killComplete grid) s = .next t) ∧
      (s.counterWaits g.asid hostUnit (pkClass g.pkt) (pkCcnt g.pkt) = none →
        let s1 := s.postGrid grid
        let s2 : State := { s1 with
          teams := s1.teams.filter fun t => decide (t.ref.grid ≠ grid)
          groups := s1.groups.filter fun x => decide (x.ref.grid ≠ grid)
          sheets := s1.sheets.filter fun x => decide (x.team.grid ≠ grid)
          grids := s1.grids.filter fun x => decide (x.id ≠ g.id) }
        exec (.killComplete grid) s = .next ((s2.gridCounter g.asid g.id (pkCcnt g.pkt) failMark).record g.asid r)))

/-! ### Events: registers of the device and its queued operations (05 R100 to R103; 17 R412 to R435) -/

/-- 05 R101, R103, 17 R413: while the device is READY, QWRITE advances where it stays within the ring and the queue is in ring mode; a QCTL
write changes EN, or MODE, LOGN and ASID while EN is 0; QBASE changes while EN is 0; a new base, length or ASID sets both indices to 0. That QBASE keeps its unaligned bits (log 13, DEDUCED), that the head under examination is dropped
(log 43, DEDUCED), and that any LOGN stands as written (log 74, DESIGN CHOICE), is the model's choice. R431: these
are writes of the physical function; a virtual function writes QWRITE of a queue that it owns, and nothing else. -/
def Obligations.QueueRegisterWrites : Prop :=
  ∀ (s : State) (n : Nat) (v : Word64), s.dev.state = 3 → n < 64 →
    let q := s.queue n
    let w := v &&& 0xFFFFF
    let becomes (i : Instr) (r : Queue) : Prop := exec i s = .next (s.setQueue n r)
    let up := (v - q.write).toNat
    let ring : Bool := decide ((q.qctl ^^^ w) &&& 0x3FFFF ≠ 0)
    (q.mode = false → 0 < up → up ≤ 2 ^ q.logn → (v - q.read).toNat ≤ 2 ^ q.logn → becomes (.qwriteWrite n ⟨0, v⟩) { q with write := v }) ∧
    (q.mode = true ∨ up = 0 ∨ 2 ^ q.logn < up ∨ 2 ^ q.logn < (v - q.read).toNat → becomes (.qwriteWrite n ⟨0, v⟩) q) ∧
    (q.en = true → v.getLsbD 18 = false →
      (ring = false → becomes (.qctlDisable n ⟨0, v⟩) { q with qctl := w, head := none }) ∧
      (ring = true → becomes (.qctlDisable n ⟨0, v⟩) { q with qctl := w, read := 0, write := 0, head := none })) ∧
    (q.en = false → v.getLsbD 18 = true →
      (ring = false → becomes (.qctlEnable n ⟨0, v⟩) { q with qctl := w, head := none }) ∧
      (ring = true → becomes (.qctlEnable n ⟨0, v⟩) { q with qctl := w, read := 0, write := 0, head := none })) ∧
    (q.en = false → v.getLsbD 18 = false →
      (ring = false → becomes (.qctlReconfigure n ⟨0, v⟩) { q with qctl := w, head := none }) ∧
      (ring = true → becomes (.qctlReconfigure n ⟨0, v⟩) { q with qctl := w, read := 0, write := 0, head := none })) ∧
    (q.en = true → v.getLsbD 18 = true → (q.qctl ^^^ w) &&& 0xBFFFF ≠ 0 → becomes (.qctlReconfigure n ⟨0, v⟩) q) ∧
    (q.en = true → becomes (.qbaseWrite n ⟨0, v⟩) q) ∧
    (q.en = false → v &&& 0x01FFFFFFFFFFFFFF ≠ q.qbase →
      becomes (.qbaseWrite n ⟨0, v⟩) { q with qbase := v &&& 0x01FFFFFFFFFFFFFF, read := 0, write := 0, head := none }) ∧
    (∀ fn, fn ≠ 0 → exec (.qctlDisable n ⟨fn, v⟩) s = .next s ∧ exec (.qctlEnable n ⟨fn, v⟩) s = .next s ∧
      exec (.qctlReconfigure n ⟨fn, v⟩) s = .next s ∧ exec (.qbaseWrite n ⟨fn, v⟩) s = .next s ∧
      (s.vfOwns fn n = true → exec (.qwriteWrite n ⟨fn, v⟩) s = exec (.qwriteWrite n ⟨0, v⟩) s) ∧
      (s.vfOwns fn n = false → exec (.qwriteWrite n ⟨fn, v⟩) s = .next s))

/-- 17 R413, R414, R417, R424, R426, R430, R431, R435: a write of the physical function that starts an operation leaves it to complete after
those of its register, and not before a GRIDKILL ahead of it; REPLAY completes at once, GRIDKILL kills at once; an invalidation drops the
entries it covers at its first try and completes once the accesses that used them have ended, that of the host's own translations as well;
a sync reads its descriptor and budgets once, and takes a valid descriptor or kills the grids of its context and takes it down; where PTROOT
changes it is an invalidation of the ASID; an attestation writes its report. A virtual function starts none of them. The order of the
operations (log 61), what an invalidation drops and waits for (log 45), the sync of an invalid
descriptor, which waits for the context's commands and drops its heads (log 44, DEDUCED all three), and that a sync of ASID 0, which names
no context, reports failure (log 87, DESIGN CHOICE), and one whose descriptor or budgets read as poison too (log 90, DESIGN CHOICE), are the
model's choice. -/
def Obligations.DeviceOperations : Prop :=
  ∀ (s : State) (v : Word64), s.dev.state = 3 →
    let asid := bits v 0 12
    let id := bits v 12 32
    let queued (op : DevOp) : State := { s with dev := { s.dev with ops := s.dev.ops ++ [op] } }
    let queues (i : Instr) (op : DevOp) : Prop := exec i s = .next (queued op)
    let inval (k : Nat) : DevOp := .inval k (bits v 16 16 + 1) asid s.dev.invAddr
    queues (.ctxsync ⟨0, v⟩) (.sync asid) ∧ queues (.attreq ⟨0, v⟩) .attest ∧ (bits v 62 2 = 0 → queues (.invalRange ⟨0, v⟩) (inval 0)) ∧
    (bits v 62 2 = 1 → queues (.invalAsid ⟨0, v⟩) (inval 1)) ∧ (bits v 62 2 = 2 → queues (.invalAll ⟨0, v⟩) (inval 2)) ∧
    (∀ c, s.ctx? asid = some c → exec (.replay ⟨0, v⟩) s = .next (s.setCtx { c with replays := c.replays + 1 })) ∧
    (∀ g, s.grids = [g] → g.ended = false → g.id = BitVec.ofNat 32 id → g.asid = asid →
      exec (.gridkill ⟨0, v⟩) s = .next ((queued (.gridkill asid id)).killCause g.id.toNat 41)) ∧
    ((∀ g ∈ s.grids, g.id ≠ BitVec.ofNat 32 id) → queues (.gridkill ⟨0, v⟩) (.gridkill asid id)) ∧
    (∀ fn, fn ≠ 0 → ∀ i, i ∈ [Instr.ctxsync ⟨fn, v⟩, .attreq ⟨fn, v⟩, .invalRange ⟨fn, v⟩, .invalAsid ⟨fn, v⟩, .invalAll ⟨fn, v⟩, .replay ⟨fn, v⟩,
      .gridkill ⟨fn, v⟩] → exec i s = .next s) ∧
    (∀ o rest p, s.dev.ops = o :: rest → s.killing o = true → s.firstOp p = none) ∧
    (∀ p, (∀ o ∈ s.dev.ops, s.killing o = false) → s.firstOp p = s.dev.ops.find? p) ∧
    (∀ k pages a addr, s.firstAts = none → s.firstOp DevOp.isInval = some (.inval k pages a addr) →
      let t := ({ s with tlb := s.tlb.filter fun e => !invCovers k pages a addr e } : State).dropWaiting (invAsid k a) (invReaches k pages addr)
      ((∀ w ∈ s.zwalks, w.owner = true) → t = { s with tlb := t.tlb }) ∧
      (t.accessesOf (invAsid k a) (invReaches k pages addr) = true → exec .invalidationDone s = .next t) ∧
      (t.accessesOf (invAsid k a) (invReaches k pages addr) = false →
        exec .invalidationDone s =
          .next (({ t with dev := { t.dev with invDone := t.dev.invDone + 1 } } : State).popOp (.inval k pages a addr)))) ∧
    (∀ pasid page pages, s.firstAts = some (.ats pasid page pages) → s.firstOp DevOp.isInval = none → s.pasidBusy pasid = false →
      exec .invalidationDone s = .next (s.popOp (.ats pasid page pages))) ∧
    (∀ a, s.poisoned (s.descAt a) 128 = false →
      let d := BitVec.ofNat 1024 (s.home.nat (s.descAt a) 128)
      s.readSync a = (d, if s.poisoned (bits d 384 64) 512 then none else
        some ((List.range 128).map fun i => BitVec.ofNat 32 (s.home.nat (bits d 384 64 + 4 * i) 4)))) ∧
    (∀ a, s.firstOp DevOp.isSync = some (.sync a) →
      let r := s.dev.synced.getD (s.readSync a)
      let s1 : State := { s with dev := { s.dev with synced := some r } }
      let c := newContext s1 a r
      let valid := c.desc.getLsbD 0 && r.2.isSome && descValid s1 c
      let ends (t : State) (bad : Bool) : Prop := exec .syncDone s =
        .next (({ t with dev := { t.dev with syncs := t.dev.syncs + 1, syncBad := bad, synced := none } } : State).popOp (.sync a))
      (a = 0 → ends s true) ∧
      (a ≠ 0 → valid = true → s.ctx? a = none → ends { s1 with ctxs := s.ctxs ++ [c] } false) ∧
      (∀ x, a ≠ 0 → valid = true → s.ctx? a = some x → x.root = c.root → ends (s1.setCtx c) false) ∧
      (∀ x, a ≠ 0 → valid = true → s.ctx? a = some x → x.root ≠ c.root →
        let t := ({ s1 with tlb := s.tlb.filter fun e => !(e.asid == a) } : State).dropWaiting (· == a) fun _ => true
        ((∀ w ∈ s.zwalks, w.owner = true) → t = { s1 with tlb := t.tlb }) ∧
        (t.accessesOf (· == a) (fun _ => true) = true → exec .syncDone s = .next t) ∧
        (t.accessesOf (· == a) (fun _ => true) = false → ends (t.setCtx c) false)) ∧
      (a ≠ 0 → valid = false →
        let k := s1.killWhere (fun g => g.asid == a) 39
        ((∀ g ∈ s.grids, g.asid ≠ a) → k = s1) ∧
        (k.ctxBusy a = true → exec .syncDone s = .next k) ∧
        (k.ctxBusy a = false →
          ends { k with ctxs := k.ctxs.filter fun x => decide (x.asid ≠ a), tlb := k.tlb.filter fun e => !(e.asid == a)
                        zwalks := k.zwalks.filter fun w => decide (w.asid ≠ a)
                        queues := k.queues.map fun p => if p.2.asid = a then (p.1, { p.2 with head := none }) else p }
            (c.desc.getLsbD 0)))) ∧
    (s.firstOp DevOp.isAttest = some .attest →
      let t := s.outsideWrite s.dev.attAddr.toNat s.report
      exec .attestationDone s = .next (({ t with dev := { t.dev with attDone := t.dev.attDone + 1 } } : State).popOp .attest))

/-- 17 R413, R433 to R436, 18 R455, R456, 01 R19, R20: power, firmware and its check, which builds the capability region for contexts to
read; the registers that start nothing; the budget period, after which what waited for a budget is tried again, the throttle and the trip of temperature, which kills every grid; soft errors: each
place that an uncorrectable error can poison, and each shared structure whose grids it kills. That CTXBASE, INVADDR and ATTADDR
keep the bits written (log 13, DEDUCED), that the length of an image is checked before all else (log 46, DEDUCED), and where the
capability region lies (log 67, DESIGN CHOICE), is the model's choice. -/
def Obligations.DeviceEvents : Prop :=
  ∀ (s : State) (v : Word64) (bytes : List Byte) (n : Nat) (h : Heat) (p : PoisonSite),
    let dev (i : Instr) (d : Device) : Prop := exec i s = .next { s with dev := d }
    let img := (List.range s.dev.length).map (Table.get 0 s.dev.window)
    (s.dev.state = 0 → dev .powerOn { s.dev with state := 1 }) ∧
    (s.dev.state = 1 → n + bytes.length ≤ 0x800000 →
      dev (.firmwareWindowWrite ⟨0, n⟩ bytes) { s.dev with window := setBytes s.dev.window n bytes }) ∧
    (s.dev.state = 1 → bits v 0 2 = 1 → dev (.fwctlVerify ⟨0, v⟩) { s.dev with state := 2, length := bits v 32 32 }) ∧
    (s.dev.state = 4 → bits v 0 2 = 2 → dev (.fwctlRestart ⟨0, v⟩) { s.dev with state := 1, cause := 0 }) ∧
    (∀ fn, fn ≠ 0 → ∀ i, i ∈ [Instr.firmwareWindowWrite ⟨fn, n⟩ bytes, .fwctlVerify ⟨fn, v⟩, .fwctlRestart ⟨fn, v⟩, .registerWrite n ⟨fn, v⟩] →
      exec i s = .next s) ∧
    (s.dev.state = 2 → 0x800000 < s.dev.length → dev .verifyDone { s.dev with state := 4, cause := 4 }) ∧
    (s.dev.state = 2 → s.dev.length ≤ 0x800000 →
      (imageCause s.dev.length img = 0 → ∃ t, exec .verifyDone s = .next t ∧
        t = { s with dev := { s.dev with state := 3, cause := 0, image := img, caps := true }, home := { s.home with mem := t.home.mem } } ∧
        (∀ k, k < 4096 → some (t.home.byte (capPa + k)) = capRegion[k]?) ∧ ∀ a, a < capPa → t.home.byte a = s.home.byte a) ∧
      (imageCause s.dev.length img ≠ 0 → dev .verifyDone { s.dev with state := 4, cause := imageCause s.dev.length img })) ∧
    (s.dev.state = 3 →
      dev (.registerWrite 0x028 ⟨0, v⟩) { s.dev with invAddr := v &&& 0x01FFFFFFFFFFF000 } ∧
      dev (.registerWrite 0x420 ⟨0, v⟩) { s.dev with attAddr := v } ∧
      (s.ctxs = [] → dev (.registerWrite 0x010 ⟨0, v⟩) { s.dev with ctxBase := v } ∧
        dev (.registerWrite 0x050 ⟨0, v⟩) { s.dev with domIdx := v.extractLsb' 0 8 }) ∧
      (s.ctxs ≠ [] → dev (.registerWrite 0x010 ⟨0, v⟩) s.dev ∧ dev (.registerWrite 0x050 ⟨0, v⟩) s.dev)) ∧
    (s.dev.period < s.dev.ns / 10000 →
      let t : State := { s with dev := { s.dev with period := s.dev.period + 1 }, ctxs := s.ctxs.map Context.newPeriod }
      exec .budgetPeriodStart s = .next t.tryWaiting ∧ (s.groups = [] → s.teams = [] → s.grids = [] → t.tryWaiting = t)) ∧
    (s.dev.throttleAt + 1000000 ≤ s.dev.ns → ∃ m, dev (.throttleStep h) { s.dev with mhz := m, throttleAt := s.dev.ns } ∧
      (100 < h.hottestDie → m = max 500 (s.dev.mhz - 50)) ∧ (h.hottestDie < 95 → m = min 1000 (s.dev.mhz + 50)) ∧
      (95 ≤ h.hottestDie → h.hottestDie ≤ 100 → m = s.dev.mhz)) ∧
    (s.dev.state = 3 → s.ctxs = [] → n < 64 →
      ∃ t, exec (.registerWrite (0x100 + 8 * n) ⟨0, v⟩) s = .next t ∧ t = { s with dev := { s.dev with qowner := t.dev.qowner } } ∧
        ∀ k, Table.get 0 t.dev.qowner k = if k = n then v.extractLsb' 0 6 else Table.get 0 s.dev.qowner k) ∧
    (s.dev.state = 3 → s.ctxs ≠ [] → n < 64 → dev (.registerWrite (0x100 + 8 * n) ⟨0, v⟩) s.dev) ∧
    -- the temperature trip and the errors in shared structures
    (let killed (t : State) (k cause : Nat) : Prop := ∃ x, t.grid? k = some x ∧ x.kill = some { kind := 0, final := cause, grid := BitVec.ofNat 32 k }
     (110 ≤ h.hottestDie ∨ 50 < h.inlet →
      ∃ t, exec (.thermalTrip h) s = .next t ∧ t.dev.state = 5 ∧
        (∀ k g, s.grid? k = some g → g.ended = false → g.kill = none → killed t k 40) ∧
        (s.grids = [] → dev (.thermalTrip h) { s.dev with state := 5 })) ∧
     ∀ u, (∀ k, u ≠ .icache k ∧ u ≠ .translation k) →
      let held (k : Nat) : Prop := match u with
        | .press m => ∃ x ∈ s.holds, x.grid = k ∧ sliceOf x.pa = m
        | .futures c => ∃ x ∈ s.groups, x.ref.grid = k ∧ x.core = c
        | .sweep c => ∃ x ∈ s.sheets, x.team.grid = k ∧ ∃ y ∈ x.cores, y.1 = c
        | .refine c => ∃ x ∈ s.referrals, x.g.grid = k ∧ x.core = c
        | .collective d => ∃ x ∈ s.cmds, x.eng = 3 ∧ x.g.grid = k ∧ dieOf x.core = d
        | .queue q => ∃ x ∈ s.cmds, x.g.grid = k ∧ ∃ y, x.kind = .launch y q
        | _ => False
      ∃ t, exec (.dieError u) s = .next t ∧ t.dev.state = s.dev.state ∧ t.dev.msix = s.dev.msix ++ [(0, 0)] ∧
        ∀ k g, s.grid? k = some g → g.ended = false → g.kill = none →
          (held k → killed t k 43) ∧ (¬held k → t.grid? k = some g)) ∧
    (exec (.dieError (.icache n)) s = .next { s with ilines := s.ilines.filter fun l => decide (l.core ≠ n) }) ∧
    (exec (.dieError (.translation n)) s = .next { s with tlb := s.tlb.filter fun e => !(e.unit == n) }) ∧
    -- soft errors
    exec (.softErrorCorrected p) s = .next s ∧
    (∃ t, exec (.uncorrectableError (.memLine n)) s = .next t ∧ t.home.poison.contains (n / 64) = true ∧ t.home.mem = s.home.mem) ∧
    (∀ tm x, s.team? tm = some x →
      (∃ t y, exec (.uncorrectableError (.scratchLine tm n)) s = .next t ∧ t.team? tm = some y ∧ y = { x with spPoison := y.spPoison } ∧
        ∀ k, y.spPoison.contains k = true ↔ k = n ∨ x.spPoison.contains k = true) ∧
      (∃ t y, exec (.uncorrectableError (.logNode tm n)) s = .next t ∧ t.team? tm = some y ∧
        y = { x with log := { x.log with poison := y.log.poison } } ∧
        ∀ k, y.log.poison.contains k = true ↔ k = n ∨ x.log.poison.contains k = true)) ∧
    (∀ gr x, s.group? gr = some x →
      ∃ t y, exec (.uncorrectableError (.imageLine gr n)) s = .next t ∧ t.group? gr = some y ∧ y = { x with poison := y.poison } ∧
        ∀ k, y.poison.contains k = true ↔ k = n ∨ x.poison.contains k = true) ∧
    (∀ core k, k < 32 → ∃ t, exec (.uncorrectableError (.slot core k)) s = .next t ∧
      (t.bfOf core).slot k = { (s.bfOf core).slot k with poison := true } ∧ ∀ j, j ≠ k → (t.bfOf core).slot j = (s.bfOf core).slot j) ∧
    (∀ core k, k < 8 → ∃ t, exec (.uncorrectableError (.acc core k)) s = .next t ∧
      (t.bfOf core).acc k = { (s.bfOf core).acc k with poison := true } ∧ ∀ j, j ≠ k → (t.bfOf core).acc j = (s.bfOf core).acc j)

/-- 13 R344, 17 R412, R413, R423, R430 to R432, 01 R20: what the agents outside the device do to its memory, and the links. A write changes
the bytes it covers where they can be written, and no others; a read delivers the bytes at the home, ones where no memory is, and changes
nothing else (poisoned data is a free value: log 31); the aperture of a virtual function reaches the virtual addresses of its context, and an
access that fails reads ones or is discarded, with a record of cause 38; what the registers of the physical function read; a virtual function
reads the registers that it sees, and 0 elsewhere; an invalidation by the host drops the pages it covers from the translation cache. -/
def Obligations.OutsideAccesses : Prop :=
  ∀ (s : State) (pa n : Nat) (bytes : List Byte),
    -- the bytes at some addresses are delivered
    let delivers (i : Instr) (f : Nat → Nat) : Prop := ∃ t, exec i s = .next t ∧
      t = { s with tick := t.tick, dev := { s.dev with readData := t.dev.readData } } ∧ t.dev.readData.length = n ∧
      ∀ k, k < n → (paExists (f k) = false → t.dev.readData[k]? = some 0xFF) ∧
        (paExists (f k) = true → s.poisoned (f k) 1 = false → t.dev.readData[k]? = some (s.home.byte (f k)))
    let reads (i : Instr) : Prop := delivers i (pa + ·)
    let writes (i : Instr) : Prop := ∃ t, exec i s = .next t ∧ t = { s with home := t.home } ∧
      (∀ k, k < bytes.length → paWritable (64 * ((pa + k) / 64)) = true → paWritable pa = true →
        some (t.home.byte (pa + k)) = bytes[k]?) ∧
      ∀ a, a < pa ∨ pa + bytes.length ≤ a → t.home.byte a = s.home.byte a
    let ones (t : State) (acc : HostAccess) : State := match acc with
      | .read m => { t with dev := { t.dev with readData := List.replicate m 0xFF } }
      | .write _ => t
    (pa + n ≤ 2 ^ 42 → reads (.hostMemoryRead pa n)) ∧ (pa + bytes.length ≤ 2 ^ 42 → writes (.hostMemoryWrite pa bytes)) ∧
    (∀ src, (s.dev.granted src pa n false = true → reads (.peerAccess src pa (.read n))) ∧
      (s.dev.granted src pa n false = false → exec (.peerAccess src pa (.read n)) s = .next s) ∧
      (s.dev.granted src pa bytes.length true = true → pa + bytes.length ≤ 2 ^ 42 → writes (.peerAccess src pa (.write bytes))) ∧
      (s.dev.granted src pa bytes.length true = false → exec (.peerAccess src pa (.write bytes)) s = .next s)) ∧
    -- the aperture of a virtual function
    (∀ vf va acc, let len := match acc with
        | .read m => m
        | .write l => l.length
      (vf = 0 ∨ 32 < vf ∨ 2 ^ 42 < va.toNat + len → exec (.vfApertureAccess vf va acc) s = .next s) ∧
      (1 ≤ vf → vf ≤ 32 → va.toNat + len ≤ 2 ^ 42 →
        (s.dev.state ≠ 3 ∨ (∀ c ∈ s.ctxs, c.vf ≠ vf) → exec (.vfApertureAccess vf va acc) s = .next (ones s acc)) ∧
        (∀ c, s.dev.state = 3 → s.vfContext vf = some c →
          let need : Need := match acc with
            | .read _ => .read
            | .write _ => .write
          let at_ (k : Nat) : Access := s.access hostUnit c need (va + BitVec.ofNat 64 k)
          (∀ t, s.waitZero hostUnit c need va len = some t → exec (.vfApertureAccess vf va acc) s = .next t) ∧
          ((∀ k, k < len → at_ k ≠ .zero) → (∃ k, k < len ∧ ∀ x, at_ k ≠ .ok x) → exec (.vfApertureAccess vf va acc) s =
            .next ((ones s acc).record c.asid { kind := 1, final := 38, addr := va })) ∧
          ∀ f : Nat → Nat, (∀ k, k < len → at_ k = .ok (f k)) →
            (acc = .read n → delivers (.vfApertureAccess vf va acc) f) ∧
            (∀ l, acc = .write l → ∃ t, exec (.vfApertureAccess vf va acc) s = .next t ∧ t = { s with home := t.home } ∧
              (∀ k, k < len → (∀ j, j < len → f j = f k → j = k) → paWritable (f k) = true →
                (isSystem (f k) = false ∨ s.dev.linkUp = true) → some (t.home.byte (f k)) = l[k]?) ∧
              ∀ a, (∀ k, k < len → f k ≠ a) → t.home.byte a = s.home.byte a)))) ∧
    (∀ vf c, s.vfContext vf = some c → c ∈ s.ctxs ∧ c.vf = vf ∧ ∀ d ∈ s.ctxs, d.vf = vf → c.asid ≤ d.asid) ∧
    -- the registers
    (s.readPf 0 = BitVec.ofNat 64 (s.dev.state + s.dev.cause * 2 ^ 8) ∧
     (∀ k, s.dev.caps = true → k < 512 → s.readPf (0x2000 + 8 * k) = BitVec.ofNat 64 (leNat ((capRegion.drop (8 * k)).take 8))) ∧
     (∀ off, off ≠ 0 → off < 0x2000 ∨ 0x3000 ≤ off → s.dev.state ≠ 3 → s.readPf off = 0) ∧
     (s.dev.state = 3 →
      s.readPf 0x10 = s.dev.ctxBase ∧ s.readPf 0x28 = s.dev.invAddr ∧ s.readPf 0x38 = s.dev.invDone ∧ s.readPf 0x88 = s.dev.attDone ∧
      s.readPf 0x50 = s.dev.domIdx.zeroExtend 64 ∧ s.readPf 0x420 = s.dev.attAddr ∧
      s.readPf 0x20 = BitVec.ofNat 64 (s.dev.syncs.toNat + (if s.dev.syncBad then 2 ^ 32 else 0)) ∧
      (∀ off, off ∈ [0x08, 0x18, 0x30, 0x40, 0x48, 0x80, 0x400, 0x408, 0x410, 0x418] → s.readPf off = 0) ∧
      (∀ k, k < 64 → s.readPf (0x100 + 8 * k) = (Table.get 0 s.dev.qowner k).zeroExtend 64 ∧
        s.readPf (0x1000 + 32 * k) = (s.queue k).qctl ∧ s.readPf (0x1008 + 32 * k) = (s.queue k).qbase ∧
        s.readPf (0x1010 + 32 * k) = (s.queue k).write ∧ s.readPf (0x1018 + 32 * k) = (s.queue k).read) ∧
      ∀ k, k < 256 → s.readPf (0x1800 + 8 * k) = BitVec.ofNat 64 (leNat ((List.range 8).map fun i => Table.get 0 s.dev.grants (8 * k + i))))) ∧
    (∀ fn off, s.readReg 0 off = s.readPf off ∧ (fn ≠ 0 →
      s.readReg fn off = if off = 0 ∨ (0x2000 ≤ off ∧ off < 0x3000) ∨
        (0x1000 ≤ off ∧ off < 0x1800 ∧ s.vfOwns fn ((off - 0x1000) / 32) = true) then s.readPf off else 0)) ∧
    (∀ pasid page pages, ∃ t, exec (.atsInvalidation pasid page pages) s = .next t ∧ t = { s with dev := t.dev } ∧
      t.dev.ops = s.dev.ops ++ [.ats pasid page pages] ∧
      (∀ e, e ∈ t.dev.atc ↔ e ∈ s.dev.atc ∧ (e.pasid ≠ pasid ∨ e.page < page ∨ page + pages ≤ e.page))) ∧
    exec .hostLinkDown s = .next { s with dev := { s.dev with linkUp := false } } ∧
    exec .hostLinkUp s = .next { s with dev := { s.dev with linkUp := true } } ∧
    (∀ k, exec (.portLoss k) s = .next { s with dev := { s.dev with ports := s.dev.ports &&& ~~~(1#18 <<< k) } } ∧
      exec (.vernalLinkPortUp k) s = .next { s with dev := { s.dev with ports := s.dev.ports ||| (1#18 <<< k) } })

/-! ### Events: the engines (15 R371 to R392, 10 R260 to R262, 11 R282 to R299, 06 R135 to R147) -/

/-- 13 R340, 15 R371, R376 to R382, R385 to R388, 10 R260 to R262, 17 R422, R426, R428, R429: where a COPY or GATHER has its turn, a line of it is
written whole, or fails, or waits: of a COPY from memory to memory, the elements that lie in the line take the converted values of their
sources, which for one integer format are the source's bytes, and no other byte of memory changes; the command completes after its last line,
or with its failure once what a CFENCE put before it has completed, or cancelled; LAUNCH writes its packet and
advances WRITE as one step, completes CANCELLED, or fails where the queue is not its own; the ranks of a collective that have all issued
are performed, and one that is cancelled alone completes CANCELLED; the refinement engine of a core answers the referral that is next, and
takes it off its queue. A completion waits for the page of its counter. The rotation of contexts (log 77, DEDUCED), that a collective is
performed whole (log 23, DESIGN CHOICE), and that the mark of a node waits for a run that may still be taken back (log 99, DEDUCED), are the
model's choice. -/
def Obligations.EngineEvents : Prop :=
  (∀ (s : State) (n : Nat) (c : Command) (ctx : Context), s.cmd? n = some c → s.ctx? c.asid = some ctx →
    let ended (i : Instr) (status cause info : Nat) : Prop := exec i s = .next (s.finishCmd c status cause info)
    let cls := s.classOf c.g.grid
    let s1 := s.served (queueAt c.core 1) c.asid
    (∀ b ln, boxOf c.kind = some b → c.lines.find? (fun l => decide (l.2 = ln.2)) = some ln → c.going s 27 = true →
      s.copyTurn c.core c.asid = true →
      (∀ t x, copyLine s1 { c with stop := none } ctx b ln = .done t x →
        exec (.copyLineWrite n ln.2) s = .next ((t.setCmd x).chargeStep x.asid (t.classOf x.g.grid) 27)) ∧
      (∀ t x, copyLine s1 { c with stop := none } ctx b ln = .fail t x ∨ copyLine s1 { c with stop := none } ctx b ln = .stop t x →
        exec (.copyLineWrite n ln.2) s = .next (t.setCmd x)) ∧
      (∀ t, copyLine s1 { c with stop := none } ctx b ln = .busy t → exec (.copyLineWrite n ln.2) s = .next t) ∧
      -- a COPY from memory to memory, none of whose elements in the line is filled or fails
      ∀ src dst sbase dbase coord rm, c.kind = .copy src dst sbase dbase coord 0 0 rm → c.got = [] → s.dev.linkUp = true →
        let path := c.path ctx
        let v := lineView s1 { c with stop := none } path b ln
        let idx := (List.range (recCount dst)).filter fun i => decide ((elemDst c.kind i).toNat / 64 = ln.2)
        let z := recSize dst
        ∀ (a : Nat → Word64) (f g : Nat → Nat),
          (∀ i ∈ idx, elemSrc s1 path [] c.kind i = .addr (a i) ∧ s1.accessPeer path.unit ctx .read (a i) = .ok (f i) ∧
            s1.accessPeer path.unit ctx .write (elemDst c.kind i) = .ok (g i) ∧ s1.poisonAt (.mem (f i)) (recSize src) = false ∧
            ∀ k, k < z → paWritable (g i + k) = true) →
          (∀ i ∈ idx, ∀ j ∈ idx, i ≠ j → g i + z ≤ g j ∨ g j + z ≤ g i) →
          s1.linesOpen c.asid cls
            (v.walks ++ s1.hbmLines (v.reads.filterMap EngAt.target? ++ (v.dests.map (·.2)).filterMap EngAt.target?)) = true →
          ∃ t, exec (.copyLineWrite n ln.2) s = .next t ∧
            (∀ i ∈ idx, let bytes := (List.range (recSize src)).map fun k => s.home.byte (f i + k)
              (List.range z).map (fun k => t.home.byte (g i + k)) = leBytes (convert (recFmt dst) (recFmt src) rm (leNat bytes)).1 z ∧
              (recFmt dst = recFmt src → recFmt src ≤ 7 → (List.range z).map (fun k => t.home.byte (g i + k)) = bytes)) ∧
            ∀ x, (∀ i ∈ idx, x < g i ∨ g i + z ≤ x) → t.home.byte x = s.home.byte x) ∧
    (c.eng = 1 ∨ c.eng = 2 →
      let i : Instr := if c.eng = 1 then .copyComplete n else .gatherComplete n
      let ready := s.free c.asid c.after none
      (∀ t, copyWaits s c = some t → (c.failed.isSome = true ∧ ready = true) ∨ (c.failed = none ∧ (c.cancel = true ∨ c.lines = [])) →
        exec i s = .next t) ∧
      (c.failed.isSome = true → ready = false → exec i s = .next s) ∧
      (copyWaits s c = none →
        (∀ k j, c.failed = some (k, j) → ready = true → let info := if 2 ≤ k ∧ k ≤ 7 then j else 0
          (boxTwice c.kind = false → ended i 3 k info) ∧
          (boxTwice c.kind = true → boxBad c.kind = false → exec i s = .next ((s.taintDest c).finishCmd c 3 k info))) ∧
        (c.failed = none → c.cancel = false → c.lines = [] → ended i 1 0 0) ∧
        (c.failed = none → c.cancel = true → c.det = false → ended i 2 0 0) ∧
        (c.failed = none → c.cancel = true → c.det = true →
          exec i s = .next ((s.taintDest c).finishCmd { c with t := true } 2 0 0)))) ∧
    (∀ p qn, c.kind = .launch p qn → s.ctrWaits c = none →
      let q := s.queue qn
      let va := q.slot q.write.toNat
      let unit := dieUnit (dieOf c.core)
      (c.cancel = true → c.det = false → ended (.launchEnqueue n) 2 0 0) ∧
      (c.cancel = false → s.free c.asid c.after c.stop = true → q.en = false ∨ q.mode = false ∨ q.asid ≠ c.asid →
        ended (.launchEnqueue n) 3 8 0) ∧
      (∀ x y, c.going s 27 = true → q.en = true → q.mode = true → q.asid = c.asid → q.write.toNat - q.read.toNat < 2 ^ q.logn →
        s.copyTurn c.core c.asid = true → s1.waitZero unit ctx .write va 128 = none → s1.ctrWaits c = none →
        s1.access unit ctx .write va = .ok x → s1.access unit ctx .write (va + 64) = .ok y →
        let lines := s1.xlatReads unit ctx va ++ s1.xlatReads unit ctx (va + 64) ++ [x, y]
        (s1.linesOpen c.asid cls lines = false → exec (.launchEnqueue n) s = .next s1.bump) ∧
        (s1.linesOpen c.asid cls lines = true →
          let bs := leBytes p.toNat 128
          let mode : TaintMode := if c.det then .det c.t else .outside
          let t := (((s1.chargeLines c.asid cls lines).homeWrite mode x (bs.take 64)).homeWrite mode y ((bs.drop 64).take 64)).setQueue qn
            { q with write := q.write + 1 }
          ∃ w, exec (.launchEnqueue n) s = .next ((t.finishCmd { c with wrote := w } 1 0 0).chargeStep c.asid cls 27)))) ∧
    (∀ q k j, collReq c.kind = some q → c.eng = 3 → c.failed = some (k, j) → taintStalls s (instanceOf s q) = none →
      collWaits s c q = none → s.free c.asid c.after none = true →
      (k ≠ 9 → k ≠ 10 → ended (.collComplete n) 3 k j) ∧
      (k = 9 → let own := tableLines s c q [commMine q.comm]
        let s2 := s.chargeLines c.asid cls own
        (s.linesOpen c.asid cls own = false → exec (.collComplete n) s = .next s.bump) ∧
        (∀ v t, s.linesOpen c.asid cls own = true → rankEntry s2 c q (commMine q.comm) = .val v t → wrongEntry s2 c v = false →
          exec (.collComplete n) s = .next (s2.finishCmd c 3 9 j))))) ∧
  (∀ (s : State) (n : Nat) (c : Command) (q : CollReq), s.cmd? n = some c → collReq c.kind = some q → c.eng = 3 → c.failed = none →
    (let queue := queueAt (40 * dieOf c.core) 3
     let s1 := s.served queue c.asid
     let cmds := instanceOf s q
     c.going s 28 = true → tableMiss s c q = none → wrongRank s cmds = (none, false) → collIssued s c q = true →
     s.turnOf queue c.asid (collReady s (dieOf c.core)) = true → collWaits s1 c q = none → remoteDevs s1 c q = [] →
     ranksHeld s1 cmds (wholeTable s1) = false → (∀ x ∈ cmds, collAgree q x.2.2 = true) → collStalls s1 cmds = none → collFails s1 cmds = [] →
     (ranksHeld s1 cmds (rankLines s1 cmds) = true → exec (.collComplete n) s = .next s1.bump) ∧
     (ranksHeld s1 cmds (rankLines s1 cmds) = false →
       exec (.collComplete n) s = .next (((collPerform s1 cmds).retireSeq q).chargeStep c.asid (s1.classOf c.g.grid) 28)) ∧
     ∀ r, cmds = [r] →
       let o := writeRank s1 (chargeRanks s1 cmds fun x => wholeTable s1 x ++ rankLines s1 cmds x) cmds r.2.1 r.2.2 fun _ => true
       collPerform s1 cmds = o.1.finishCmd o.2 1 0 0) ∧
    (c.cancel = true → c.abort = false → c.det = false → instanceOf s q = [(commMine q.comm, c, q)] → localRanks s c q = none →
      collWaits s c q = none →
      let lines := wholeTable s (commMine q.comm, c, q)
      let cls := s.classOf c.g.grid
      (s.linesOpen c.asid cls lines = false → exec (.collAbort n) s = .next s.bump) ∧
      (s.linesOpen c.asid cls lines = true →
        exec (.collAbort n) s = .next ((((s.chargeLines c.asid cls lines).finishCmd c 2 0 0).retireSeq q).bump)))) ∧
  (∀ (s : State) (core : Nat) (r : Referral) (tm : Team) (g : Group) (c : Context), nextReferral s core = some r →
    s.team? r.g.tref = some tm → s.group? r.g = some g → s.gridCtx? r.g.grid = some c →
    let s1 := s.served (queueAt core 5) c.asid
    let reads := reachFrom r.nodes (r.a :: r.b.toList)
    (∀ t, reachSpill s1 g c tm reads [] = .dead t ∨ reachSpill s1 g c tm reads [] = .wait t → exec (.referralDecide core) s = .next t) ∧
    (reachSpill s1 g c tm reads [] = .ok →
    let charged (t : State) : State := t.chargeStep c.asid (s.classOf r.g.grid) 26
    let t : State := { s1.chargeSpill core c tm reads with referrals := s.referrals.erase r }
    let a := referralAnswer (s.det r.g.grid) r
    r ∈ s.referrals ∧ r.core = core ∧
    (a.2 = none → exec (.referralDecide core) s = .next (charged (t.answer r.g a.1))) ∧
    (∀ i, a.2 = some i →
      (∀ x, s1.logWaits r.g.tref none = some x → exec (.referralDecide core) s = .next x.bump) ∧
      (s1.logWaits r.g.tref none = none →
        exec (.referralDecide core) s = .next (charged ((markInvalid t core c r i).answer r.g a.1))))))

/-- 08 R199, 11 R281, R282, R284, R290, R293, R294, R299 to R301, R303, 15 R371, 17 R428, R429: the next command of a butterfly engine is performed, or
its checks are made and it begins, or it fails with the lowest cause (which causes the checks give: log 30, DEDUCED); a stage or a transfer
begins only once its budget admits its first step. BFZERO empties its accumulator and
is DONE, and BAD_SLOT where its team does not hold the engine (the model's choice, log 88, DESIGN CHOICE); so is a stage or chain accepted
behind the team's own BFREL (the model's choice, log 81, DESIGN CHOICE). A stage of at most 2048 cycles is
performed in one pass, which leaves its accumulators as 11 R290 says and completes its future; a longer one takes a second pass, which in a
killed grid is not performed. A transfer
moves one line an event, in ascending order (the model's choice, log 29, DEDUCED), where it has its turn (log 77, DEDUCED) and the budgets
have room, a fill the bytes of memory into its slots, of an LNS6 byte its bits 5:0, and is DONE after its last, with the tag and the rows set. -/
def Obligations.ButterflyEvents : Prop :=
  ∀ (s : State) (core : Nat) (c : BfCmd), (s.bfOf core).next = some c → bfHeldUp s core [c] = none →
    let e := s.bfOf core
    let fails (i : Instr) (cause : Nat) : Prop := exec i s = .next (bfFinish s core c 3 cause)
    -- a lone command of a group whose future is pending and which names no counter
    let alone (g : Group) (slot : Nat) : Prop := e.queue = [c] ∧ e.leaving = false ∧ e.latch = none ∧ c.stop = false ∧ c.peers = [] ∧
      c.ctr = 0 ∧ c.fut = some (slot, (g.future slot).gen) ∧ s.group? c.g = some g ∧ (g.future slot).isDone = false
    -- it has left the engine, and its future is DONE
    let isDone (t : State) (slot : Nat) (fl : BitVec 6) : Prop := (t.bfOf core).queue = [] ∧
      ∃ x, t.group? c.g = some x ∧ (x.future slot).isDone = true ∧ (x.future slot).word = statusWord 1 5 fl 0 0
    (c.begun = false → (e.queue.any fun x => x.stop && !x.begun) = false → latchBroken s core = false →
      (s.free c.asid c.after c.hold = false → exec (.bfCommandPerform core) s = .next s) ∧
      (∀ ch k f m tag, c.kind = .inl (.stage ch k f m false tag) → s.admitted c.asid (s.classOf c.g.grid) 24 = false →
        exec (.bfCommandPerform core) s = .next s) ∧
      (∀ k, c.kind = .inl k → s.admitted c.asid (s.classOf c.g.grid) 27 = false →
        (match k with
          | .osfill .. | .ossave .. | .drainMem .. => True
          | _ => False) → exec (.bfCommandPerform core) s = .next s)) ∧
    (s.mayBegin c = true → (e.queue.any fun x => x.stop && !x.begun) = false → latchBroken s core = false →
      (∀ op, c.kind = .inr op →
        exec (.bfCommandPerform core) s = .next (bfTidy (bfOpStep (bfDrop s core c.serial) core c op) core)) ∧
      (∀ k, c.kind = .inl k → (stageOf c.kind).isSome ∨ (∃ m, k = .zero m) → c.held = false → fails (.bfCommandPerform core) 2) ∧
      (∀ m g slot, c.held = true → c.kind = .inl (.zero m) → alone g slot →
        ∃ t, exec (.bfCommandPerform core) s = .next t ∧ isDone t slot c.flags ∧ (t.bfOf core).acc m = {} ∧
          (∀ k, k ≠ m → (t.bfOf core).acc k = e.acc k) ∧ (t.bfOf core).slots = e.slots) ∧
      (c.held = true → (∀ m, c.kind = .inl (.zero m) →
        exec (.bfCommandPerform core) s = .next (bfFinish (s.setBf core (e.setAcc m {})) core c 1 0))) ∧
      (∀ ch k f m tag, c.held = true → c.peers = [] → c.kind = .inl (.stage ch k f m false tag) →
        (∀ cause, planStage e ch k f m = .error cause → fails (.bfCommandPerform core) cause) ∧
        (∀ p, planStage e ch k f m = .ok p → exec (.bfCommandPerform core) s = .next (bfKeep s core { c with begun := true }))) ∧
      (∀ ty m rm f, c.held = true → c.kind = .inl (.drainSlot ty m rm f) → runClaimed e f (if ty = 8 then 2 else 1) = true →
        (e.acc m).poison = false →
        exec (.bfCommandPerform core) s = .next
          (bfFinish (s.setBf core (drainToSlot e ty m rm f).1) core { c with flags := (drainToSlot e ty m rm f).2 } 1 0)) ∧
      (∀ k, c.kind = .inl k → stageOf c.kind = none → (∀ m, k ≠ .zero m) → (∀ ty m rm f, k ≠ .drainSlot ty m rm f) →
        (∀ cause, planXfer e c.held k = .error cause → fails (.bfCommandPerform core) cause) ∧
        (∀ x, planXfer e c.held k = .ok x → exec (.bfCommandPerform core) s = .next (bfKeep s core { c with begun := true })))) ∧
    (∀ ch k f m tag p, c.begun = true → c.peers = [] → c.kind = .inl (.stage ch k f m false tag) →
      s.passOpen c = true → planStage e ch k f m = .ok p →
      let r := runPass e p m c.mid c.stage c.pass
      (c.pass = 0 → r.done = false → c.stop = true →
        ∃ cost, exec (.bfStagePass core) s = .next
          (bfFinish ((s.setBf core r.e).charge c.asid (s.classOf c.g.grid) 24 cost) core { c with flags := c.flags ||| r.flags } 2 0)) ∧
      (c.pass = 0 → r.done = true →
        ∃ cost, exec (.bfStagePass core) s = .next
          (bfFinish ((s.setBf core r.e).charge c.asid (s.classOf c.g.grid) 24 cost) core { c with flags := c.flags ||| r.flags } 1 0)) ∧
      (∀ g slot, ch = false → c.stage = 0 → c.pass = 0 → alone g slot →
        let q := stageIn e p c.mid 0
        let out := runStage q [e.acc m] (stAdd q.r) true (List.range p.rows)
        (planCycles e p 0 ≤ 2048 → stXt q.r = false →
          ∃ t a, exec (.bfStagePass core) s = .next t ∧ isDone t slot (c.flags ||| out.2) ∧ out.1 = [a] ∧
            ((t.bfOf core).acc m).elems = a.elems ∧ ((t.bfOf core).acc m).g = a.g ∧ ((t.bfOf core).acc m).T = a.T ∧
            ((t.bfOf core).acc m).rows = a.rows ∧ (∀ j, j ≠ m → (t.bfOf core).acc j = e.acc j) ∧ (t.bfOf core).slots = e.slots) ∧
        (2048 < planCycles e p 0 →
          ∃ t y, exec (.bfStagePass core) s = .next t ∧ (t.bfOf core).queue = [y] ∧ y.begun = true ∧ y.pass = 1 ∧ y.stage = 0 ∧
            t.group? c.g = some g))) ∧
    (∀ ctx k x, s.ctx? c.asid = some ctx → c.kind = .inl k → c.begun = true → stageOf c.kind = none →
      s.xferGoing core = some c → s.copyTurn core c.asid = true →
      let s1 := s.served (queueAt core 1) c.asid
      bfHeldUp s1 core [c] = none →
      (∀ cause, planXfer e true k = .error cause →
        exec (.bfTransferComplete core) s = .next (bfFinish (s1.unmark c.serial) core c 3 cause)) ∧
      (planXfer e true k = .ok x → x.span c.stage = none →
        exec (.bfTransferComplete core) s = .next (bfFinish (if x.fill then s1.setBf core (fillEnd x e c.readT) else s1) core c 1 0) ∧
        ∀ g slot, alone g slot → x.fill = true → 1 ≤ x.rows →
          ∃ t, exec (.bfTransferComplete core) s = .next t ∧ isDone t slot c.flags ∧ ((t.bfOf core).slot x.f).tag = x.ty ∧
            ((t.bfOf core).slot x.f).rows = x.rows ∧ ((t.bfOf core).slot x.f).data = (e.slot x.f).data) ∧
      (∀ va m side off, planXfer e true k = .ok x → x.span c.stage = some (va, m, side, off) →
        exec (.bfTransferComplete core) s = .next (xferLine s1 core c ctx x va m side off) ∧
        ∀ pa, e.queue = [c] → x.fill = true → x.space = 0 → side = false → s1.access core ctx .read va = .ok pa →
          s1.poisonAt (.mem pa) m = false → s1.linesOpen c.asid (s1.classOf c.g.grid) (s1.walkLines
            { unit := core, ctx := ctx, tm := c.team, own := [c.serial] } 0 [va] ++ s1.hbmLines [.mem pa]) = true →
          ∃ t y, exec (.bfTransferComplete core) s = .next t ∧ (t.bfOf core).queue = [y] ∧ y.stage = c.stage + 1 ∧ y.begun = true ∧
            t.home = s.home ∧ ∀ i, i < m →
              ((t.bfOf core).slot (x.place false (off + i)).1).read false (x.place false (off + i)).2 1 =
                [if x.ty = 12 ∨ x.ty = 13 then s.home.byte (pa + i) &&& 0x3F else s.home.byte (pa + i)]))

/-- 06 R135, R137, R141, R144 to R147, R152, 17 R428, R429: the run at the head of a sheet starts, with the queue applied first, or ends
cancelled; a sweep evaluates every element whose turn it is, once, and its boundary follows. A start with nothing queued, where an element
is in RUN, leaves the elements and the sweep number and makes the run the one in progress; a sweep in which no slab faults, after which
nothing is queued, an element is in RUN or SLEEP and the limit is not reached, writes its words, counts one sweep and one sweep number, and
goes on. Each waits where the budget of a stack it reads is spent, and for its turn: the rotation of contexts is the model's choice (log 77, DEDUCED). -/
def Obligations.SheetEvents : Prop :=
  ∀ (s : State) (core slot : Nat) (x : Sheet) (r : SwRun) (c : Context), s.headRun core slot = some (x, r, c) →
    let cls := s.classOf x.team.grid
    let s1 := s.served (queueAt x.core 4) x.asid
    let all := s1.elemLines x c (List.range (shCount x.record))
    let seen := s1.elemLines x c ((List.range (shCount x.record)).filter fun i => Table.get false x.deckle (i / 64))
    let orphan := s.orphans.any fun o => decide (o.sheet.core = core) && decide (o.sheet.slot = slot)
    s.sheetAt? core slot = some x ∧ x.runs.head? = some r ∧
    (r.started = false → orphan = false → r.cancel = true → exec (.swrunStart core slot) s = .next (s.endCancelled core slot x.runs.length)) ∧
    (r.started = false → orphan = false → r.cancel = false → s.sweepTurn x = true →
      let s2 := s1.chargeLines x.asid cls all
      (s1.linesOpen x.asid cls all = false → exec (.swrunStart core slot) s = .next s1.bump) ∧
      (s1.linesOpen x.asid cls all = true →
        exec (.swrunStart core slot) s = .next ((s2.startRun x r c).settle s1 x r c) ∧
        ∀ tc ws, s2.stepCode x c = .ok tc → s2.sheetOpen x (s2.codeLines x c tc.1) = true → x.queue = [] → x.pendW = [] →
          allWaits ((s2.chargeSheet x (s2.codeLines x c tc.1)).sheetIo x c) x.record [] = .ok ws → 0 ∈ ws →
          ∃ t y, exec (.swrunStart core slot) s = .next t ∧ t.sheetAt? core slot = some y ∧
            y.runs.head? = some { r with started := true, table := tc.1, code := tc.2, stop := none } ∧
            y.sweepNo = x.sweepNo ∧ y.deckle = deckleOf ws ∧ t.home = s.home)) ∧
    (r.started = true → s.admitted x.asid cls 25 = true → s.sweepTurn x = true →
      let s2 := s1.chargeLines x.asid cls seen
      (s1.linesOpen x.asid cls seen = false → exec (.sweep core slot) s = .next s1.bump) ∧
      (s1.linesOpen x.asid cls seen = true →
        (∀ t, s2.sweepOnce x r c = .next t → exec (.sweep core slot) s = .next (t.chargeStep x.asid cls 25)) ∧
        (∀ o, s2.sweepOnce x r c = o → (∀ t, o ≠ .next t) → exec (.sweep core slot) s = .next (o.settle s1 x r c)) ∧
        ∀ ws, let outs := sweepAll (s2.sheetIo x c) x.record r.table r.code x.deckle
          let w : Elems := outs.foldl (fun w o => o.w.foldl (fun w p => Table.put w p.1 p.2) w) []
          (∀ o ∈ outs, o.fault = none) → boundaryEffects x.record outs = [] → x.queue = [] → x.pendW = [] →
          allWaits (s2.sheetIo x c) x.record w = .ok ws → 0 ∈ ws ∨ 2 ∈ ws → r.sweeps + 1 < shLimit x.record → r.cancel = false →
          s2.sheetOpen x (s2.wordLines x c w) = true →
          ∃ t y z, exec (.sweep core slot) s = .next t ∧ t.sheetAt? core slot = some y ∧ y.runs.head? = some z ∧
            z.sweeps = r.sweeps + 1 ∧ z.started = true ∧ y.sweepNo = x.sweepNo + 1 ∧ y.runnable = countRunnable ws ∧
            y.deckle = deckleOf ws ∧ t.home = ((s2.chargeSheet x (s2.wordLines x c w)).flushElems x c w).home))

/-! ### The machine: exceptions, futures, memory, steps, encodings, reset -/

/-- 18 R441, R444: a precise fault taken at level 0 or 1 with a handler writes bank L + 1, raises the level, and puts the lanes of TLANES at
TRAPPC; no other register of any lane changes. At level 2, or with TRAPPC 0, there is no entry and the
grid dies. R444: a return puts the lanes of TLANES that live at the resume PC and lowers the level; the resume PC is TADDR after an
after-run trap, else TPC, or TPC + 8 with .skip; no other register of a lane changes. That a lane of TLANES that waits keeps its wait, and that
an exited one is not moved, is the model's choice (log 64, DEDUCED). -/
def Obligations.TrapEntryAndReturn : Prop :=
  (∀ (s : State) (g : Group) (f : FaultInfo) (c : Context), s.gridCtx? g.ref.grid = some c → s.group? g.ref = some g →
    (c.trapPc ≠ 0 → g.level.toNat < 2 →
      ∃ x, (s.takeTrap g f).group? g.ref = some x ∧ s.takeTrap g f = s.setGroup x ∧ x.level = g.level + 1 ∧
        x.bank x.level.toNat = { tpc := f.pc, taddr := f.addr, tcause := mkTcause f, tstate := mkTstate f, tlanes := f.lanes } ∧
        (g.level = 1 → x.bank1 = g.bank1) ∧ (g.level = 0 → x.bank2 = g.bank2) ∧ x.s = g.s ∧ x.lanes.length = g.lanes.length ∧
        ∀ L, L < g.lanes.length → x.lane L = if f.lanes.getLsbD L then { g.lane L with pc := c.trapPc } else g.lane L) ∧
    (c.trapPc = 0 ∨ 2 ≤ g.level.toNat → s.takeTrap g f = (s.setGroup g).killGrid g.ref.grid (killRec g f))) ∧
  (∀ (g : Group) (skip : Bool), g.level = 1 ∨ g.level = 2 →
    let b := g.bank g.level.toNat
    let pc : Word64 := if b.tstate.getLsbD 7 then b.taddr else if skip then b.tpc + 8 else b.tpc
    let x := trapReturn g (resumePc g skip)
    x.level = g.level - 1 ∧ x.bank1 = g.bank1 ∧ x.bank2 = g.bank2 ∧ x.s = g.s ∧ x.lanes.length = g.lanes.length ∧
    ∀ L, L < g.lanes.length →
      x.lane L = if b.tlanes.getLsbD L && decide ((g.lane L).st = .live) then { g.lane L with pc := pc } else g.lane L)

/-- 15 R367, R370 to R372, R391: a pending future completes with its status word, and every S register that holds its handle with a tag
loses the tag, or is tagged failed where the status is FAULT or worse; every thread of the team that waits for it goes on with p0 saying
whether it is DONE, or takes that push behind the wait of an earlier word of its run (log 82). A handle names it by slot and generation alone, whatever its ENG field. A completed future keeps its word. -/
def Obligations.FutureCompletion : Prop :=
  ∀ (s : State) (gr : GRef) (g : Group) (k : Nat) (w : Word64), s.group? gr = some g →
    let f := g.future k
    let n := pkGroups (s.pkt gr.grid)
    let named := namesFuture n gr.group k f.gen
    let t := s.completeFuture gr k f.gen w
    let failed : Bool := decide (3 ≤ bits w 0 3)
    let done : Bool := decide (bits w 0 3 = 1)
    let woken (old new : Thread) : Prop :=
      (old.waits = [] → new = old) ∧
      (∀ n h, old.waits = [(n, .fut h)] →
        new = if named h then { old with waits := [], pred := pushed false old.pred done } else old) ∧
      (∀ m j n h, old.waits = [(m, .ordw j), (n, .fut h)] →
        new = if named h then { old with waits := [(m, .ordw j), (n, .pred (.push done))] } else old)
    (∀ h eng, handleOf n h = some (gr.group, eng, f.gen, k) → named h = true) ∧
    (f.isDone = true → t = s) ∧
    (f.isDone = false → ∃ x, t.group? gr = some x ∧ (x.future k).isDone = true ∧ (x.future k).word = w ∧ (x.future k).gen = f.gen ∧
      (∀ j, j ≠ k → x.future j = g.future j) ∧
      (∀ j, Table.get {} x.s j = (let c := Table.get {} g.s j
        if c.w = mkHandle gr.group f.eng k f.gen ∧ c.tag ≠ .none then { c with tag := if failed then .failed else .none } else c)) ∧
      (∀ L, L < g.lanes.length → woken (g.lane L) (x.lane L)) ∧
      ∀ gr2 y, gr2 ≠ gr → gr2.tref = gr.tref → s.group? gr2 = some y → ∃ z, t.group? gr2 = some z ∧ z.s = y.s ∧
        z.futures = y.futures ∧ ∀ L, L < y.lanes.length → woken (y.lane L) (z.lane L))

/-- 13 R322, R323, 00 R2: a write changes exactly the bytes it covers, lowest address first, at the next place of its home order; what an
earlier place left stays readable at that place. -/
def Obligations.HomeWrites : Prop :=
  ∀ (h : Home) (m : TaintMode) (pa : Nat) (bs : List Byte),
    let t := h.write m pa bs
    t.seq = h.seq + 1 ∧ (∀ i, i < bs.length → some (t.byte (pa + i)) = bs[i]?) ∧
    (∀ a, a < pa ∨ pa + bs.length ≤ a → t.byte a = h.byte a) ∧
    ((∀ p ∈ h.past, p.seq ≤ h.seq) → ∀ a, t.byteAt h.seq a = h.byte a) ∧ (Memory.wf h.mem = true → Memory.wf t.mem = true)

/-- 02 R27, R44, 04 R81, R97, 15 R370: a step takes the turn at the head of the schedule (log 1). The turn of a run in progress whose lines are
in the file, and before which stream A has committed where it is of stream B (13 R322), fetches the word at its PC, where the budgets of
the stacks of its walk and its line have room (17 R428); where it decodes and no check of those rules stops it, the step is exec of it with that run in execution. An event is exec of it, and time passes. -/
def Obligations.StepRunsTheTurn : Prop :=
  ∀ (s : State) (rest : List Turn),
    let s1 : State := { s with turns := rest }
    (∀ n, s.turns = .time n :: rest → step s = .next (s1.pass n)) ∧
    (∀ i, s.turns = .event i :: rest → isWord i = false → step s = exec i s1) ∧
    (∀ gr b g rd, s.turns = .word gr b :: rest → s.group? gr = some g → g.round = some rd → rd.mayIssue b = false → step s = .next s1) ∧
    (∀ gr b g rd r w pa i, s.turns = .word gr b :: rest → s.group? gr = some g → g.round = some rd → rd.run? b = some r →
      r.ended = false → r.missing = [] →
      s1.fetch g.core ((s.gridCtx? gr.grid).getD { asid := 0, desc := 0 }) r.at_ = .word w pa → decode w = .ok i →
      (r.pos + 1 = 24 → w.getLsbD 63 = true ∨ r.step = true) → (isControl i = true → rbOf i = true ∨ r.step = true) →
      undeclared (s.pkt gr.grid) g.role i = false → g.poison = [] → failedRead r i = none → rd.mayIssue b = true →
      let c := (s.gridCtx? gr.grid).getD { asid := 0, desc := 0 }
      let cls := pkClass (s.pkt gr.grid)
      let cached := s.ilines.any fun l => decide (l.core = g.core) && decide (l.pa = pa / 64)
      let lines := s1.xlatReads g.core c r.at_ ++ if cached then [] else [pa]
      (s1.linesOpen c.asid cls lines = false → step s = .next s1.bump) ∧
      (s1.linesOpen c.asid cls lines = true →
        let s2 := s1.chargeLines c.asid cls lines
        let s3 : State := { (s2.codeHold g.core pa (s2.codeMoment g.core pa)).bump with cur := some (gr, b) }
        step s = exec i s3 ∧
        ∃ e, env? s3 = some e ∧ e.s = s3 ∧ e.g = g ∧ e.rd = rd ∧ e.r = r ∧ e.b = b ∧ e.pkt = s.pkt gr.grid ∧ e.log0 = e.team.log ∧
          (∀ x, s3.gridCtx? gr.grid = some x → e.ctx = x) ∧
          e.team = s3.liveTeam g.core e.ctx ((s3.team? gr.tref).getD { ref := gr.tref })))

/-- 02 R28 to R39, R48 to R50: words written out from the encodings of the spec decode to what they stand for. -/
def Obligations.DecodeWords : Prop :=
  let z : OpF := { rb := true, ge := false, gn := false, gd := 0, d := 0, a := 0, b := 0, c := 0, m := 0 }
  decode 0x0010020081000000#64 = .ok (.add { z with rb := false, d := 4, a := 1, b := 2 }) ∧
  decode 0x880C8501D4004001#64 = .ok (.fadd { z with ge := true, gn := true, gd := 1, d := 10, a := 3, b := 168, m := 0x4001 }) ∧
  decode 0x90D0000204800810#64 = .ok (.xcmp { z with a := 4, b := 9, m := 0x810 }) ∧
  decode 0x9488000000000008#64 = .ok (.bra { rb := true, ge := true, gn := false, gd := 0, d := 0, a := 0, imm := 8 }) ∧
  decode 0x1800048202800000#64 = .ok (.shfl { z with rb := false, d := 9, a := 4, b := 5 }) ∧
  decode 0x1C00030501824CA0#64 = .ok (.ld { z with rb := false, d := 6, a := 10, b := 3, c := 4, m := 0x4CA0 }) ∧
  decode 0xA000048601024DA4#64 = .ok (.atom { z with d := 9, a := 12, b := 2, c := 4, m := 0x4DA4 }) ∧
  decode 0xA400000000000002#64 = .ok (.phase { z with m := 2 }) ∧
  decode 0xA8000F0A0B0C0100#64 = .ok (.copy { z with d := 30, a := 20, b := 22, c := 24, m := 0x100 }) ∧
  decode 0x2C700F0B00000110#64 = .ok (.bfstage { z with rb := false, d := 30, a := 22, m := 0x110 }) ∧
  decode 0xB410000000000001#64 = .ok (.tret { z with m := 1 }) ∧
  decode 0xC082008122090607#64 = .ok (.pairedWord
    { rb := true, s0 := { op := 1, d := 4, a := 1, b := 2 }, s1 := { op := 0x22, d := 9, a := 6, b := 7 } })

/-- 02 R28, R29, R36, R48 to R50: decoding the encoding of a well-formed instruction gives it back. -/
def Obligations.DecodeEncode : Prop :=
  ∀ (i : Instr) (w : Word64), wellFormed i = true → encode i = some w → decode w = .ok i

/-- 13 R322, R323: a step keeps the memory at the homes in its canonical form. -/
def Obligations.MemoryCanonical : Prop := ∀ s t : State, memOk s → step s = .next t → memOk t

/-- 17 R412, R413, R433, R435: the machine after reset: DEVSTAT RESET, no context, nothing launched, every queue disabled, memory in
canonical form with nothing listed. That a byte of memory not yet written reads memDefault is the model's choice (log 2, DESIGN CHOICE). The
clock at 1000 MHz, the links up and 0 for the other registers are the model's choice (log 3); that no run is in execution, of the model's own
field cur, is its choice too (log 1, DESIGN CHOICE). -/
def Obligations.ResetState : Prop :=
  State.reset.dev.state = 0 ∧ State.reset.dev.cause = 0 ∧ State.reset.ctxs = [] ∧ State.reset.grids = [] ∧ State.reset.teams = [] ∧
  State.reset.groups = [] ∧ State.reset.sheets = [] ∧ State.reset.cmds = [] ∧ State.reset.tlb = [] ∧ State.reset.stores = [] ∧
  State.reset.cur = none ∧ (∀ n, (State.reset.queue n).en = false) ∧ (∀ a, State.reset.home.byte a = memDefault) ∧
  memOk State.reset ∧ clockOk State.reset
end

