-- ==== Sys2Proof/Laws/Exec.lean ====
section
/-!
SUPPORT. What exec calls for each constructor.
-/
namespace Sys2Proof.Machine
open Sys2Proof

theorem exec_add (o : OpF) (s : State) : exec (.add o) s = execAdd o s := rfl
theorem exec_sub (o : OpF) (s : State) : exec (.sub o) s = execSub o s := rfl
theorem exec_addc (o : OpF) (s : State) : exec (.addc o) s = execAddc o s := rfl
theorem exec_mul (o : OpF) (s : State) : exec (.mul o) s = execMul o s := rfl
theorem exec_mulh (o : OpF) (s : State) : exec (.mulh o) s = execMulh o s := rfl
theorem exec_mad (o : OpF) (s : State) : exec (.mad o) s = execMad o s := rfl
theorem exec_madw (o : OpF) (s : State) : exec (.madw o) s = execMadw o s := rfl
theorem exec_div (o : OpF) (s : State) : exec (.div o) s = execDiv o s := rfl
theorem exec_rem (o : OpF) (s : State) : exec (.rem o) s = execRem o s := rfl
theorem exec_neg (o : OpF) (s : State) : exec (.neg o) s = execNeg o s := rfl
theorem exec_abs (o : OpF) (s : State) : exec (.abs o) s = execAbs o s := rfl
theorem exec_min (o : OpF) (s : State) : exec (.min o) s = execMin o s := rfl
theorem exec_max (o : OpF) (s : State) : exec (.max o) s = execMax o s := rfl
theorem exec_and (o : OpF) (s : State) : exec (.and o) s = execAnd o s := rfl
theorem exec_or (o : OpF) (s : State) : exec (.or o) s = execOr o s := rfl
theorem exec_xor (o : OpF) (s : State) : exec (.xor o) s = execXor o s := rfl
theorem exec_not (o : OpF) (s : State) : exec (.not o) s = execNot o s := rfl
theorem exec_andn (o : OpF) (s : State) : exec (.andn o) s = execAndn o s := rfl
theorem exec_shl (o : OpF) (s : State) : exec (.shl o) s = execShl o s := rfl
theorem exec_shr (o : OpF) (s : State) : exec (.shr o) s = execShr o s := rfl
theorem exec_sar (o : OpF) (s : State) : exec (.sar o) s = execSar o s := rfl
theorem exec_rotl (o : OpF) (s : State) : exec (.rotl o) s = execRotl o s := rfl
theorem exec_fshl (o : OpF) (s : State) : exec (.fshl o) s = execFshl o s := rfl
theorem exec_popc (o : OpF) (s : State) : exec (.popc o) s = execPopc o s := rfl
theorem exec_clz (o : OpF) (s : State) : exec (.clz o) s = execClz o s := rfl
theorem exec_ctz (o : OpF) (s : State) : exec (.ctz o) s = execCtz o s := rfl
theorem exec_brev (o : OpF) (s : State) : exec (.brev o) s = execBrev o s := rfl
theorem exec_bfx (o : OpF) (s : State) : exec (.bfx o) s = execBfx o s := rfl
theorem exec_bfi (o : OpF) (s : State) : exec (.bfi o) s = execBfi o s := rfl
theorem exec_sel (o : OpF) (s : State) : exec (.sel o) s = execSel o s := rfl
theorem exec_cmp (o : OpF) (s : State) : exec (.cmp o) s = execCmp o s := rfl
theorem exec_mov (o : OpF) (s : State) : exec (.mov o) s = execMov o s := rfl
theorem exec_movw (o : OpW) (s : State) : exec (.movw o) s = execMovw o s := rfl
theorem exec_lea (o : OpF) (s : State) : exec (.lea o) s = execLea o s := rfl
theorem exec_addImm (o : OpI) (s : State) : exec (.addImm o) s = execAddImm o s := rfl
theorem exec_mulImm (o : OpI) (s : State) : exec (.mulImm o) s = execMulImm o s := rfl
theorem exec_andImm (o : OpI) (s : State) : exec (.andImm o) s = execAndImm o s := rfl
theorem exec_orImm (o : OpI) (s : State) : exec (.orImm o) s = execOrImm o s := rfl
theorem exec_xorImm (o : OpI) (s : State) : exec (.xorImm o) s = execXorImm o s := rfl
theorem exec_shlImm (o : OpI) (s : State) : exec (.shlImm o) s = execShlImm o s := rfl
theorem exec_shrImm (o : OpI) (s : State) : exec (.shrImm o) s = execShrImm o s := rfl
theorem exec_sarImm (o : OpI) (s : State) : exec (.sarImm o) s = execSarImm o s := rfl
theorem exec_rotlImm (o : OpI) (s : State) : exec (.rotlImm o) s = execRotlImm o s := rfl
theorem exec_uadd (o : OpF) (s : State) : exec (.uadd o) s = execUadd o s := rfl
theorem exec_usub (o : OpF) (s : State) : exec (.usub o) s = execUsub o s := rfl
theorem exec_umul (o : OpF) (s : State) : exec (.umul o) s = execUmul o s := rfl
theorem exec_umulh (o : OpF) (s : State) : exec (.umulh o) s = execUmulh o s := rfl
theorem exec_uand (o : OpF) (s : State) : exec (.uand o) s = execUand o s := rfl
theorem exec_uor (o : OpF) (s : State) : exec (.uor o) s = execUor o s := rfl
theorem exec_uxor (o : OpF) (s : State) : exec (.uxor o) s = execUxor o s := rfl
theorem exec_ushl (o : OpF) (s : State) : exec (.ushl o) s = execUshl o s := rfl
theorem exec_ushr (o : OpF) (s : State) : exec (.ushr o) s = execUshr o s := rfl
theorem exec_usar (o : OpF) (s : State) : exec (.usar o) s = execUsar o s := rfl
theorem exec_umin (o : OpF) (s : State) : exec (.umin o) s = execUmin o s := rfl
theorem exec_umax (o : OpF) (s : State) : exec (.umax o) s = execUmax o s := rfl
theorem exec_ucmp (o : OpF) (s : State) : exec (.ucmp o) s = execUcmp o s := rfl
theorem exec_umov (o : OpF) (s : State) : exec (.umov o) s = execUmov o s := rfl
theorem exec_umovw (o : OpW) (s : State) : exec (.umovw o) s = execUmovw o s := rfl
theorem exec_ulea (o : OpF) (s : State) : exec (.ulea o) s = execUlea o s := rfl
theorem exec_udiv (o : OpF) (s : State) : exec (.udiv o) s = execUdiv o s := rfl
theorem exec_urdv (o : OpF) (s : State) : exec (.urdv o) s = execUrdv o s := rfl
theorem exec_uaddImm (o : OpI) (s : State) : exec (.uaddImm o) s = execUaddImm o s := rfl
theorem exec_umulImm (o : OpI) (s : State) : exec (.umulImm o) s = execUmulImm o s := rfl
theorem exec_uandImm (o : OpI) (s : State) : exec (.uandImm o) s = execUandImm o s := rfl
theorem exec_uorImm (o : OpI) (s : State) : exec (.uorImm o) s = execUorImm o s := rfl
theorem exec_uxorImm (o : OpI) (s : State) : exec (.uxorImm o) s = execUxorImm o s := rfl
theorem exec_ushlImm (o : OpI) (s : State) : exec (.ushlImm o) s = execUshlImm o s := rfl
theorem exec_ushrImm (o : OpI) (s : State) : exec (.ushrImm o) s = execUshrImm o s := rfl
theorem exec_usarImm (o : OpI) (s : State) : exec (.usarImm o) s = execUsarImm o s := rfl
theorem exec_fadd (o : OpF) (s : State) : exec (.fadd o) s = execFadd o s := rfl
theorem exec_fsub (o : OpF) (s : State) : exec (.fsub o) s = execFsub o s := rfl
theorem exec_fmul (o : OpF) (s : State) : exec (.fmul o) s = execFmul o s := rfl
theorem exec_ffma (o : OpF) (s : State) : exec (.ffma o) s = execFfma o s := rfl
theorem exec_fdiv (o : OpF) (s : State) : exec (.fdiv o) s = execFdiv o s := rfl
theorem exec_fsqrt (o : OpF) (s : State) : exec (.fsqrt o) s = execFsqrt o s := rfl
theorem exec_frcp (o : OpF) (s : State) : exec (.frcp o) s = execFrcp o s := rfl
theorem exec_frsq (o : OpF) (s : State) : exec (.frsq o) s = execFrsq o s := rfl
theorem exec_fexp2 (o : OpF) (s : State) : exec (.fexp2 o) s = execFexp2 o s := rfl
theorem exec_flog2 (o : OpF) (s : State) : exec (.flog2 o) s = execFlog2 o s := rfl
theorem exec_fmin (o : OpF) (s : State) : exec (.fmin o) s = execFmin o s := rfl
theorem exec_fmax (o : OpF) (s : State) : exec (.fmax o) s = execFmax o s := rfl
theorem exec_fcmp (o : OpF) (s : State) : exec (.fcmp o) s = execFcmp o s := rfl
theorem exec_fclass (o : OpF) (s : State) : exec (.fclass o) s = execFclass o s := rfl
theorem exec_frnd (o : OpF) (s : State) : exec (.frnd o) s = execFrnd o s := rfl
theorem exec_fscl (o : OpF) (s : State) : exec (.fscl o) s = execFscl o s := rfl
theorem exec_hadd2 (o : OpF) (s : State) : exec (.hadd2 o) s = execHadd2 o s := rfl
theorem exec_hmul2 (o : OpF) (s : State) : exec (.hmul2 o) s = execHmul2 o s := rfl
theorem exec_hfma2 (o : OpF) (s : State) : exec (.hfma2 o) s = execHfma2 o s := rfl
theorem exec_fsel (o : OpF) (s : State) : exec (.fsel o) s = execFsel o s := rfl
theorem exec_dadd (o : OpF) (s : State) : exec (.dadd o) s = execDadd o s := rfl
theorem exec_dmul (o : OpF) (s : State) : exec (.dmul o) s = execDmul o s := rfl
theorem exec_dfma (o : OpF) (s : State) : exec (.dfma o) s = execDfma o s := rfl
theorem exec_ddiv (o : OpF) (s : State) : exec (.ddiv o) s = execDdiv o s := rfl
theorem exec_dsqrt (o : OpF) (s : State) : exec (.dsqrt o) s = execDsqrt o s := rfl
theorem exec_dcmp (o : OpF) (s : State) : exec (.dcmp o) s = execDcmp o s := rfl
theorem exec_cvt (o : OpF) (s : State) : exec (.cvt o) s = execCvt o s := rfl
theorem exec_pack (o : OpF) (s : State) : exec (.pack o) s = execPack o s := rfl
theorem exec_unpack (o : OpF) (s : State) : exec (.unpack o) s = execUnpack o s := rfl
theorem exec_qblk (o : OpF) (s : State) : exec (.qblk o) s = execQblk o s := rfl
theorem exec_xld (o : OpF) (s : State) : exec (.xld o) s = execXld o s := rfl
theorem exec_xmovv (o : OpF) (s : State) : exec (.xmovv o) s = execXmovv o s := rfl
theorem exec_xpin (o : OpF) (s : State) : exec (.xpin o) s = execXpin o s := rfl
theorem exec_xmov (o : OpF) (s : State) : exec (.xmov o) s = execXmov o s := rfl
theorem exec_xadd (o : OpF) (s : State) : exec (.xadd o) s = execXadd o s := rfl
theorem exec_xsub (o : OpF) (s : State) : exec (.xsub o) s = execXsub o s := rfl
theorem exec_xmul (o : OpF) (s : State) : exec (.xmul o) s = execXmul o s := rfl
theorem exec_xfma (o : OpF) (s : State) : exec (.xfma o) s = execXfma o s := rfl
theorem exec_xdiv (o : OpF) (s : State) : exec (.xdiv o) s = execXdiv o s := rfl
theorem exec_xneg (o : OpF) (s : State) : exec (.xneg o) s = execXneg o s := rfl
theorem exec_xabs (o : OpF) (s : State) : exec (.xabs o) s = execXabs o s := rfl
theorem exec_xmin (o : OpF) (s : State) : exec (.xmin o) s = execXmin o s := rfl
theorem exec_xmax (o : OpF) (s : State) : exec (.xmax o) s = execXmax o s := rfl
theorem exec_xcmp (o : OpF) (s : State) : exec (.xcmp o) s = execXcmp o s := rfl
theorem exec_xsgn (o : OpF) (s : State) : exec (.xsgn o) s = execXsgn o s := rfl
theorem exec_xlo (o : OpF) (s : State) : exec (.xlo o) s = execXlo o s := rfl
theorem exec_xhi (o : OpF) (s : State) : exec (.xhi o) s = execXhi o s := rfl
theorem exec_xsever (o : OpF) (s : State) : exec (.xsever o) s = execXsever o s := rfl
theorem exec_xref (o : OpF) (s : State) : exec (.xref o) s = execXref o s := rfl
theorem exec_xst (o : OpF) (s : State) : exec (.xst o) s = execXst o s := rfl
theorem exec_xstg (o : OpF) (s : State) : exec (.xstg o) s = execXstg o s := rfl
theorem exec_xlogq (o : OpF) (s : State) : exec (.xlogq o) s = execXlogq o s := rfl
theorem exec_pset (o : OpF) (s : State) : exec (.pset o) s = execPset o s := rfl
theorem exec_pnot (o : OpF) (s : State) : exec (.pnot o) s = execPnot o s := rfl
theorem exec_pand (o : OpF) (s : State) : exec (.pand o) s = execPand o s := rfl
theorem exec_por (o : OpF) (s : State) : exec (.por o) s = execPor o s := rfl
theorem exec_pxor (o : OpF) (s : State) : exec (.pxor o) s = execPxor o s := rfl
theorem exec_ppop (o : OpF) (s : State) : exec (.ppop o) s = execPpop o s := rfl
theorem exec_pdup (o : OpF) (s : State) : exec (.pdup o) s = execPdup o s := rfl
theorem exec_pmask (o : OpF) (s : State) : exec (.pmask o) s = execPmask o s := rfl
theorem exec_bra (o : OpI) (s : State) : exec (.bra o) s = execBra o s := rfl
theorem exec_bru (o : OpI) (s : State) : exec (.bru o) s = execBru o s := rfl
theorem exec_brx (o : OpF) (s : State) : exec (.brx o) s = execBrx o s := rfl
theorem exec_call (o : OpI) (s : State) : exec (.call o) s = execCall o s := rfl
theorem exec_ret (o : OpF) (s : State) : exec (.ret o) s = execRet o s := rfl
theorem exec_exit (o : OpF) (s : State) : exec (.exit o) s = execExit o s := rfl
theorem exec_nop (o : OpF) (s : State) : exec (.nop o) s = execNop o s := rfl
theorem exec_pause (o : OpF) (s : State) : exec (.pause o) s = execPause o s := rfl
theorem exec_shfl (o : OpF) (s : State) : exec (.shfl o) s = execShfl o s := rfl
theorem exec_vote (o : OpF) (s : State) : exec (.vote o) s = execVote o s := rfl
theorem exec_ballot (o : OpF) (s : State) : exec (.ballot o) s = execBallot o s := rfl
theorem exec_matchLanes (o : OpF) (s : State) : exec (.matchLanes o) s = execMatchLanes o s := rfl
theorem exec_compact (o : OpF) (s : State) : exec (.compact o) s = execCompact o s := rfl
theorem exec_redux (o : OpF) (s : State) : exec (.redux o) s = execRedux o s := rfl
theorem exec_scan (o : OpF) (s : State) : exec (.scan o) s = execScan o s := rfl
theorem exec_elect (o : OpF) (s : State) : exec (.elect o) s = execElect o s := rfl
theorem exec_isect (o : OpF) (s : State) : exec (.isect o) s = execIsect o s := rfl
theorem exec_merge (o : OpF) (s : State) : exec (.merge o) s = execMerge o s := rfl
theorem exec_ld (o : OpF) (s : State) : exec (.ld o) s = execLd o s := rfl
theorem exec_st (o : OpF) (s : State) : exec (.st o) s = execSt o s := rfl
theorem exec_ldu (o : OpF) (s : State) : exec (.ldu o) s = execLdu o s := rfl
theorem exec_stu (o : OpF) (s : State) : exec (.stu o) s = execStu o s := rfl
theorem exec_pref (o : OpF) (s : State) : exec (.pref o) s = execPref o s := rfl
theorem exec_taint (o : OpF) (s : State) : exec (.taint o) s = execTaint o s := rfl
theorem exec_atom (o : OpF) (s : State) : exec (.atom o) s = execAtom o s := rfl
theorem exec_red (o : OpF) (s : State) : exec (.red o) s = execRed o s := rfl
theorem exec_atomu (o : OpF) (s : State) : exec (.atomu o) s = execAtomu o s := rfl
theorem exec_phase (o : OpF) (s : State) : exec (.phase o) s = execPhase o s := rfl
theorem exec_fence (o : OpF) (s : State) : exec (.fence o) s = execFence o s := rfl
theorem exec_cfence (o : OpF) (s : State) : exec (.cfence o) s = execCfence o s := rfl
theorem exec_bar (o : OpF) (s : State) : exec (.bar o) s = execBar o s := rfl
theorem exec_ordw (o : OpF) (s : State) : exec (.ordw o) s = execOrdw o s := rfl
theorem exec_ordd (o : OpF) (s : State) : exec (.ordd o) s = execOrdd o s := rfl
theorem exec_cntwait (o : OpF) (s : State) : exec (.cntwait o) s = execCntwait o s := rfl
theorem exec_tfence (o : OpF) (s : State) : exec (.tfence o) s = execTfence o s := rfl
theorem exec_copy (o : OpF) (s : State) : exec (.copy o) s = execCopy o s := rfl
theorem exec_gather (o : OpF) (s : State) : exec (.gather o) s = execGather o s := rfl
theorem exec_coll (o : OpF) (s : State) : exec (.coll o) s = execColl o s := rfl
theorem exec_launch (o : OpF) (s : State) : exec (.launch o) s = execLaunch o s := rfl
theorem exec_ftest (o : OpF) (s : State) : exec (.ftest o) s = execFtest o s := rfl
theorem exec_fwait (o : OpF) (s : State) : exec (.fwait o) s = execFwait o s := rfl
theorem exec_fcancel (o : OpF) (s : State) : exec (.fcancel o) s = execFcancel o s := rfl
theorem exec_fmov (o : OpF) (s : State) : exec (.fmov o) s = execFmov o s := rfl
theorem exec_fstat (o : OpF) (s : State) : exec (.fstat o) s = execFstat o s := rfl
theorem exec_bfacq (o : OpF) (s : State) : exec (.bfacq o) s = execBfacq o s := rfl
theorem exec_bfrel (o : OpF) (s : State) : exec (.bfrel o) s = execBfrel o s := rfl
theorem exec_osclaim (o : OpF) (s : State) : exec (.osclaim o) s = execOsclaim o s := rfl
theorem exec_osrel (o : OpF) (s : State) : exec (.osrel o) s = execOsrel o s := rfl
theorem exec_osfill (o : OpF) (s : State) : exec (.osfill o) s = execOsfill o s := rfl
theorem exec_ossave (o : OpF) (s : State) : exec (.ossave o) s = execOssave o s := rfl
theorem exec_bstset (o : OpF) (s : State) : exec (.bstset o) s = execBstset o s := rfl
theorem exec_bfstage (o : OpF) (s : State) : exec (.bfstage o) s = execBfstage o s := rfl
theorem exec_bfchain (o : OpF) (s : State) : exec (.bfchain o) s = execBfchain o s := rfl
theorem exec_bfzero (o : OpF) (s : State) : exec (.bfzero o) s = execBfzero o s := rfl
theorem exec_bfdrain (o : OpF) (s : State) : exec (.bfdrain o) s = execBfdrain o s := rfl
theorem exec_bfscale (o : OpF) (s : State) : exec (.bfscale o) s = execBfscale o s := rfl
theorem exec_gangset (o : OpF) (s : State) : exec (.gangset o) s = execGangset o s := rfl
theorem exec_swbind (o : OpF) (s : State) : exec (.swbind o) s = execSwbind o s := rfl
theorem exec_swrun (o : OpF) (s : State) : exec (.swrun o) s = execSwrun o s := rfl
theorem exec_swwake (o : OpF) (s : State) : exec (.swwake o) s = execSwwake o s := rfl
theorem exec_swpoke (o : OpF) (s : State) : exec (.swpoke o) s = execSwpoke o s := rfl
theorem exec_swstat (o : OpF) (s : State) : exec (.swstat o) s = execSwstat o s := rfl
theorem exec_trap (o : OpF) (s : State) : exec (.trap o) s = execTrap o s := rfl
theorem exec_tret (o : OpF) (s : State) : exec (.tret o) s = execTret o s := rfl
theorem exec_csrr (o : OpF) (s : State) : exec (.csrr o) s = execCsrr o s := rfl
theorem exec_csrw (o : OpF) (s : State) : exec (.csrw o) s = execCsrw o s := rfl
theorem exec_kill (o : OpF) (s : State) : exec (.kill o) s = execKill o s := rfl
theorem exec_flagr (o : OpF) (s : State) : exec (.flagr o) s = execFlagr o s := rfl
theorem exec_clock (o : OpF) (s : State) : exec (.clock o) s = execClock o s := rfl
theorem exec_brkpt (o : OpF) (s : State) : exec (.brkpt o) s = execBrkpt o s := rfl
theorem exec_digest (o : OpF) (s : State) : exec (.digest o) s = execDigest o s := rfl
theorem exec_tlbq (o : OpF) (s : State) : exec (.tlbq o) s = execTlbq o s := rfl
theorem exec_href (o : OpF) (s : State) : exec (.href o) s = execHref o s := rfl
theorem exec_hpf (o : OpF) (s : State) : exec (.hpf o) s = execHpf o s := rfl
theorem exec_hsch (o : OpF) (s : State) : exec (.hsch o) s = execHsch o s := rfl
theorem exec_hintNop (o : OpH) (s : State) : exec (.hintNop o) s = execHintNop o s := rfl
theorem exec_pairedWord (o : OpP) (s : State) : exec (.pairedWord o) s = execPairedWord o s := rfl
theorem exec_issueSlotSelect (core : Nat) (part : Nat) (s : State) : exec (.issueSlotSelect core part) s = execIssueSlotSelect core part s := rfl
theorem exec_groupPromotion (g : GRef) (s : State) : exec (.groupPromotion g) s = execGroupPromotion g s := rfl
theorem exec_pauseExpiry (g : GRef) (s : State) : exec (.pauseExpiry g) s = execPauseExpiry g s := rfl
theorem exec_regLineFill (g : GRef) (line : Nat) (s : State) : exec (.regLineFill g line) s = execRegLineFill g line s := rfl
theorem exec_regLineWriteback (core : Nat) (g : GRef) (line : Nat) (s : State) : exec (.regLineWriteback core g line) s = execRegLineWriteback core g line s := rfl
theorem exec_runCommit (g : GRef) (s : State) : exec (.runCommit g) s = execRunCommit g s := rfl
theorem exec_deferredWrite (g : GRef) (s : State) : exec (.deferredWrite g) s = execDeferredWrite g s := rfl
theorem exec_teamScratchRelease (tm : TRef) (s : State) : exec (.teamScratchRelease tm) s = execTeamScratchRelease tm s := rfl
theorem exec_detUpdateHold (g : GRef) (s : State) : exec (.detUpdateHold g) s = execDetUpdateHold g s := rfl
theorem exec_atomicPerform (g : GRef) (s : State) : exec (.atomicPerform g) s = execAtomicPerform g s := rfl
theorem exec_viewAdvance (core : Nat) (line : Nat) (s : State) : exec (.viewAdvance core line) s = execViewAdvance core line s := rfl
theorem exec_linePresent (tm : TRef) (line : Nat) (s : State) : exec (.linePresent tm line) s = execLinePresent tm line s := rfl
theorem exec_windowAccessArrive (g : GRef) (s : State) : exec (.windowAccessArrive g) s = execWindowAccessArrive g s := rfl
theorem exec_cntwaitRecheck (g : GRef) (s : State) : exec (.cntwaitRecheck g) s = execCntwaitRecheck g s := rfl
theorem exec_pageWalk (unit : Nat) (asid : Nat) (va : Word64) (s : State) : exec (.pageWalk unit asid va) s = execPageWalk unit asid va s := rfl
theorem exec_zbRecheck (n : Nat) (s : State) : exec (.zbRecheck n) s = execZbRecheck n s := rfl
theorem exec_pageZeroed (n : Nat) (s : State) : exec (.pageZeroed n) s = execPageZeroed n s := rfl
theorem exec_referralDecide (core : Nat) (s : State) : exec (.referralDecide core) s = execReferralDecide core s := rfl
theorem exec_copyLineWrite (n : Nat) (line : Nat) (s : State) : exec (.copyLineWrite n line) s = execCopyLineWrite n line s := rfl
theorem exec_copyComplete (n : Nat) (s : State) : exec (.copyComplete n) s = execCopyComplete n s := rfl
theorem exec_gatherComplete (n : Nat) (s : State) : exec (.gatherComplete n) s = execGatherComplete n s := rfl
theorem exec_collComplete (n : Nat) (s : State) : exec (.collComplete n) s = execCollComplete n s := rfl
theorem exec_collAbort (n : Nat) (s : State) : exec (.collAbort n) s = execCollAbort n s := rfl
theorem exec_launchEnqueue (n : Nat) (s : State) : exec (.launchEnqueue n) s = execLaunchEnqueue n s := rfl
theorem exec_bfCommandPerform (core : Nat) (s : State) : exec (.bfCommandPerform core) s = execBfCommandPerform core s := rfl
theorem exec_bfStagePass (core : Nat) (s : State) : exec (.bfStagePass core) s = execBfStagePass core s := rfl
theorem exec_swrunStart (core : Nat) (slot : Nat) (s : State) : exec (.swrunStart core slot) s = execSwrunStart core slot s := rfl
theorem exec_sweep (core : Nat) (slot : Nat) (s : State) : exec (.sweep core slot) s = execSweep core slot s := rfl
theorem exec_headExamine (q : Nat) (s : State) : exec (.headExamine q) s = execHeadExamine q s := rfl
theorem exec_depCounterRecheck (q : Nat) (s : State) : exec (.depCounterRecheck q) s = execDepCounterRecheck q s := rfl
theorem exec_gridStart (s : State) : exec .gridStart s = execGridStart s := rfl
theorem exec_teamPlace (grid : Nat) (s : State) : exec (.teamPlace grid) s = execTeamPlace grid s := rfl
theorem exec_placementTimeout (grid : Nat) (s : State) : exec (.placementTimeout grid) s = execPlacementTimeout grid s := rfl
theorem exec_swapTrigger (grid : Nat) (s : State) : exec (.swapTrigger grid) s = execSwapTrigger grid s := rfl
theorem exec_teamSwapOut (tm : TRef) (s : State) : exec (.teamSwapOut tm) s = execTeamSwapOut tm s := rfl
theorem exec_teamResume (tm : TRef) (s : State) : exec (.teamResume tm) s = execTeamResume tm s := rfl
theorem exec_killComplete (grid : Nat) (s : State) : exec (.killComplete grid) s = execKillComplete grid s := rfl
theorem exec_qwriteWrite (q : Nat) (v : BarWrite) (s : State) : exec (.qwriteWrite q v) s = execQwriteWrite q v s := rfl
theorem exec_qctlDisable (q : Nat) (v : BarWrite) (s : State) : exec (.qctlDisable q v) s = execQctlDisable q v s := rfl
theorem exec_qctlEnable (q : Nat) (v : BarWrite) (s : State) : exec (.qctlEnable q v) s = execQctlEnable q v s := rfl
theorem exec_qctlReconfigure (q : Nat) (v : BarWrite) (s : State) : exec (.qctlReconfigure q v) s = execQctlReconfigure q v s := rfl
theorem exec_qbaseWrite (q : Nat) (v : BarWrite) (s : State) : exec (.qbaseWrite q v) s = execQbaseWrite q v s := rfl
theorem exec_ctxsync (v : BarWrite) (s : State) : exec (.ctxsync v) s = execCtxsync v s := rfl
theorem exec_syncDone (s : State) : exec .syncDone s = execSyncDone s := rfl
theorem exec_invalRange (v : BarWrite) (s : State) : exec (.invalRange v) s = execInvalRange v s := rfl
theorem exec_invalAsid (v : BarWrite) (s : State) : exec (.invalAsid v) s = execInvalAsid v s := rfl
theorem exec_invalAll (v : BarWrite) (s : State) : exec (.invalAll v) s = execInvalAll v s := rfl
theorem exec_invalidationDone (s : State) : exec .invalidationDone s = execInvalidationDone s := rfl
theorem exec_replay (v : BarWrite) (s : State) : exec (.replay v) s = execReplay v s := rfl
theorem exec_gridkill (v : BarWrite) (s : State) : exec (.gridkill v) s = execGridkill v s := rfl
theorem exec_attreq (v : BarWrite) (s : State) : exec (.attreq v) s = execAttreq v s := rfl
theorem exec_attestationDone (s : State) : exec .attestationDone s = execAttestationDone s := rfl
theorem exec_fwctlVerify (v : BarWrite) (s : State) : exec (.fwctlVerify v) s = execFwctlVerify v s := rfl
theorem exec_fwctlRestart (v : BarWrite) (s : State) : exec (.fwctlRestart v) s = execFwctlRestart v s := rfl
theorem exec_verifyDone (s : State) : exec .verifyDone s = execVerifyDone s := rfl
theorem exec_firmwareWindowWrite (off : BarPlace) (bytes : List Byte) (s : State) : exec (.firmwareWindowWrite off bytes) s = execFirmwareWindowWrite off bytes s := rfl
theorem exec_registerWrite (off : Nat) (v : BarWrite) (s : State) : exec (.registerWrite off v) s = execRegisterWrite off v s := rfl
theorem exec_hostMemoryWrite (pa : Nat) (bytes : List Byte) (s : State) : exec (.hostMemoryWrite pa bytes) s = execHostMemoryWrite pa bytes s := rfl
theorem exec_hostMemoryRead (pa : Nat) (n : Nat) (s : State) : exec (.hostMemoryRead pa n) s = execHostMemoryRead pa n s := rfl
theorem exec_vfApertureAccess (vf : Nat) (va : Word64) (acc : HostAccess) (s : State) : exec (.vfApertureAccess vf va acc) s = execVfApertureAccess vf va acc s := rfl
theorem exec_atsInvalidation (pasid page pages : Nat) (s : State) : exec (.atsInvalidation pasid page pages) s = execAtsInvalidation pasid page pages s := rfl
theorem exec_hostLinkDown (s : State) : exec .hostLinkDown s = execHostLinkDown s := rfl
theorem exec_peerAccess (src : Nat) (pa : Nat) (acc : HostAccess) (s : State) : exec (.peerAccess src pa acc) s = execPeerAccess src pa acc s := rfl
theorem exec_portLoss (port : Nat) (s : State) : exec (.portLoss port) s = execPortLoss port s := rfl
theorem exec_powerOn (s : State) : exec .powerOn s = execPowerOn s := rfl
theorem exec_budgetPeriodStart (s : State) : exec .budgetPeriodStart s = execBudgetPeriodStart s := rfl
theorem exec_throttleStep (heat : Heat) (s : State) : exec (.throttleStep heat) s = execThrottleStep heat s := rfl
theorem exec_thermalTrip (heat : Heat) (s : State) : exec (.thermalTrip heat) s = execThermalTrip heat s := rfl
theorem exec_softErrorCorrected (site : PoisonSite) (s : State) : exec (.softErrorCorrected site) s = execSoftErrorCorrected site s := rfl
theorem exec_uncorrectableError (site : PoisonSite) (s : State) : exec (.uncorrectableError site) s = execUncorrectableError site s := rfl
theorem exec_dieError (unit : SharedUnit) (s : State) : exec (.dieError unit) s = execDieError unit s := rfl
theorem exec_hostLinkUp (s : State) : exec .hostLinkUp s = execHostLinkUp s := rfl
theorem exec_vernalLinkPortUp (port : Nat) (s : State) : exec (.vernalLinkPortUp port) s = execVernalLinkPortUp port s := rfl
theorem exec_bfTransferComplete (core : Nat) (s : State) : exec (.bfTransferComplete core) s = execBfTransferComplete core s := rfl

end Sys2Proof.Machine
end

