-- ==== Sys2Proof/Laws/Table.lean ====
section
/-!
SUPPORT. The laws of the sparse table: a read after a write, and the canonical form under a write.
-/
namespace Sys2Proof

theorem Table.get_erase {α : Type} (d : α) (t : Table α) (k j : Nat) :
    Table.get d (Table.erase t k) j = if j = k then d else Table.get d t j := by
  induction t with
  | nil => simp [Table.erase, Table.get]
  | cons p rest ih =>
    obtain ⟨i, v⟩ := p
    by_cases h : i = k
    · subst h
      simp only [Table.erase, if_pos, ih, Table.get]
      by_cases hj : j = i
      · simp [hj]
      · simp [hj, Ne.symm hj]
    · simp only [Table.erase, if_neg h, Table.get, ih]
      by_cases hi : i = j
      · subst hi; simp [h]
      · simp [hi]

theorem Table.get_put {α : Type} (d : α) (t : Table α) (k j : Nat) (v : α) :
    Table.get d (Table.put t k v) j = if j = k then v else Table.get d t j := by
  induction t with
  | nil =>
    simp only [Table.put, Table.get]
    by_cases h : k = j
    · simp [h]
    · simp [h, Ne.symm h]
  | cons p rest ih =>
    obtain ⟨i, w⟩ := p
    simp only [Table.put]
    split
    · simp only [Table.get]
      by_cases h : k = j
      · simp [h]
      · simp [h, Ne.symm h]
    · split
      · rename_i h; subst h
        simp only [Table.get]
        by_cases h : i = j
        · simp [h]
        · simp [h, Ne.symm h]
      · rename_i hne
        simp only [Table.get, ih]
        by_cases h : i = j
        · subst h; simp [hne]
        · simp [h]

/-- A read after a write. -/
@[simp] theorem Table.get_set {α : Type} [DecidableEq α] (d : α) (t : Table α) (k j : Nat) (v : α) :
    Table.get d (Table.set d t k v) j = if j = k then v else Table.get d t j := by
  unfold Table.set
  split
  · rename_i h; rw [Table.get_erase, h]
  · exact Table.get_put d t k j v

theorem Table.wfFrom_mono {α : Type} [DecidableEq α] (d : α) {t : Table α} {lo lo' : Nat} (h : lo' ≤ lo)
    (hw : Table.wfFrom d lo t = true) : Table.wfFrom d lo' t = true := by
  cases t with
  | nil => rfl
  | cons p rest =>
    obtain ⟨j, v⟩ := p
    simp only [Table.wfFrom, Bool.and_eq_true, decide_eq_true_eq] at hw ⊢
    exact ⟨⟨le_trans h hw.1.1, hw.1.2⟩, hw.2⟩

theorem Table.wfFrom_erase {α : Type} [DecidableEq α] (d : α) (t : Table α) (k lo : Nat)
    (hw : Table.wfFrom d lo t = true) : Table.wfFrom d lo (Table.erase t k) = true := by
  induction t generalizing lo with
  | nil => rfl
  | cons p rest ih =>
    obtain ⟨j, v⟩ := p
    simp only [Table.wfFrom, Bool.and_eq_true, decide_eq_true_eq] at hw
    simp only [Table.erase]
    split
    · exact Table.wfFrom_mono d (Nat.le_succ_of_le hw.1.1) (ih _ hw.2)
    · simp only [Table.wfFrom, Bool.and_eq_true, decide_eq_true_eq]
      exact ⟨hw.1, ih _ hw.2⟩

theorem Table.wfFrom_put {α : Type} [DecidableEq α] (d : α) (t : Table α) (k lo : Nat) (v : α) (hk : lo ≤ k) (hv : v ≠ d)
    (hw : Table.wfFrom d lo t = true) : Table.wfFrom d lo (Table.put t k v) = true := by
  induction t generalizing lo with
  | nil => simp [Table.put, Table.wfFrom, hk, hv]
  | cons p rest ih =>
    obtain ⟨j, w⟩ := p
    simp only [Table.wfFrom, Bool.and_eq_true, decide_eq_true_eq] at hw
    simp only [Table.put]
    split
    · rename_i h
      simp only [Table.wfFrom, Bool.and_eq_true, decide_eq_true_eq]
      exact ⟨⟨hk, hv⟩, ⟨h, hw.1.2⟩, hw.2⟩
    · split
      · rename_i h; subst h
        simp only [Table.wfFrom, Bool.and_eq_true, decide_eq_true_eq]
        exact ⟨⟨hk, hv⟩, hw.2⟩
      · rename_i h1 h2
        simp only [Table.wfFrom, Bool.and_eq_true, decide_eq_true_eq]
        exact ⟨hw.1, ih _ (by omega) hw.2⟩

/-- A write keeps the canonical form. -/
theorem Table.wf_set {α : Type} [DecidableEq α] (d : α) (t : Table α) (k : Nat) (v : α) (hw : Table.wf d t = true) :
    Table.wf d (Table.set d t k v) = true := by
  unfold Table.set
  split
  · exact Table.wfFrom_erase d t k 0 hw
  · rename_i h; exact Table.wfFrom_put d t k 0 v (Nat.zero_le _) h hw

theorem Table.wf_nil {α : Type} [DecidableEq α] (d : α) : Table.wf d ([] : Table α) = true := rfl

end Sys2Proof
end

