-- ==== Sys2Proof/Laws/Memory.lean ====
section
/-!
SUPPORT. The laws of memory at the homes: what a read gives after a write, and that every operation that writes memory keeps its
canonical form.
-/
namespace Sys2Proof.Machine
open Sys2Proof

/-- Stored bytes read back, and every other byte reads as before. -/
theorem get_setBytes (m : Table Byte) (pa a : Nat) (bs : List Byte) :
    Table.get memDefault (setBytes m pa bs) a = if pa ≤ a then (bs[a - pa]?).getD (Table.get memDefault m a) else Table.get memDefault m a := by
  induction bs generalizing m pa with
  | nil => simp [setBytes]
  | cons b rest ih =>
    rw [setBytes, ih, Table.get_set]
    rcases Nat.lt_trichotomy a pa with h | h | h
    · simp [show ¬(pa + 1 ≤ a) by omega, show ¬(pa ≤ a) by omega, show a ≠ pa by omega]
    · subst h; simp
    · obtain ⟨k, rfl⟩ : ∃ k, a = pa + (k + 1) := ⟨a - pa - 1, by omega⟩
      simp [show pa + 1 ≤ pa + (k + 1) by omega, show pa + (k + 1) - (pa + 1) = k by omega, show pa + (k + 1) - pa = k + 1 by omega]

theorem setBytes_wf {m : Table Byte} (pa : Nat) (bs : List Byte) (h : Memory.wf m = true) : Memory.wf (setBytes m pa bs) = true := by
  induction bs generalizing m pa with
  | nil => exact h
  | cons b rest ih => exact ih _ (Table.wf_set _ _ _ _ h)

/-- A write leaves the byte that it covers, and every other byte as it was. -/
theorem Home.byte_write (h : Home) (m : TaintMode) (pa a : Nat) (bs : List Byte) :
    (h.write m pa bs).byte a = if pa ≤ a then (bs[a - pa]?).getD (h.byte a) else h.byte a := get_setBytes _ _ _ _

theorem Home.write_wf {h : Home} (m : TaintMode) (pa : Nat) (bs : List Byte) (hw : Memory.wf h.mem = true) :
    Memory.wf (h.write m pa bs).mem = true := setBytes_wf pa bs hw

theorem scatter_fold_wf (l : List (Nat × Byte)) {t : Table Byte} (hw : Memory.wf t = true) :
    Memory.wf (l.foldl (fun t p => Table.set memDefault t p.1 p.2) t) = true := by
  induction l generalizing t with
  | nil => exact hw
  | cons p rest ih => exact ih (Table.wf_set _ _ _ _ hw)

theorem Home.scatter_wf {h : Home} (m : TaintMode) (l : List (Nat × Byte)) (hw : Memory.wf h.mem = true) :
    Memory.wf (h.scatter m l).mem = true := scatter_fold_wf l hw

theorem State.homeWrite_wf {s : State} (m : TaintMode) (pa : Nat) (bs : List Byte) (hw : Memory.wf s.home.mem = true) :
    Memory.wf (s.homeWrite m pa bs).home.mem = true := by
  unfold State.homeWrite
  split
  · exact hw
  · split
    · exact Home.write_wf m pa bs hw
    · exact hw

theorem State.homeScatter_wf {s : State} (m : TaintMode) (l : List (Nat × Byte)) (hw : Memory.wf s.home.mem = true) :
    Memory.wf (s.homeScatter m l).home.mem = true := Home.scatter_wf m _ hw

theorem State.postOne_wf {s : State} (st : GStore) (hw : Memory.wf s.home.mem = true) : Memory.wf (s.postOne st).1.home.mem = true :=
  State.homeWrite_wf _ _ _ hw

theorem postList_wf (p : GStore → Bool) {s : State} (l : List GStore) (hw : Memory.wf s.home.mem = true) :
    Memory.wf (postList p s l).1.home.mem = true := by
  induction l generalizing s with
  | nil => exact hw
  | cons st rest ih =>
    unfold postList
    split
    · exact ih (State.postOne_wf st hw)
    · exact ih hw

theorem State.postWhere_wf {s : State} (p : GStore → Bool) (hw : Memory.wf s.home.mem = true) :
    Memory.wf (s.postWhere p).home.mem = true := postList_wf p s.stores hw
theorem State.post_wf {s : State} (core : Nat) (hw : Memory.wf s.home.mem = true) : Memory.wf (s.post core).home.mem = true :=
  State.postWhere_wf _ hw
theorem State.postGroup_wf {s : State} (g : GRef) (hw : Memory.wf s.home.mem = true) : Memory.wf (s.postGroup g).home.mem = true :=
  State.postWhere_wf _ hw
theorem State.postLine_wf {s : State} (g : GRef) (line : Nat) (hw : Memory.wf s.home.mem = true) :
    Memory.wf (s.postLine g line).home.mem = true := State.postWhere_wf _ hw
theorem State.postTeam_wf {s : State} (t : TRef) (hw : Memory.wf s.home.mem = true) : Memory.wf (s.postTeam t).home.mem = true :=
  State.postWhere_wf _ hw
theorem State.postGrid_wf {s : State} (g : Nat) (hw : Memory.wf s.home.mem = true) : Memory.wf (s.postGrid g).home.mem = true :=
  State.postWhere_wf _ hw

theorem State.growView_home (s : State) (core line n : Nat) : (s.growView core line n).home = s.home := by
  simp only [State.growView]
  split <;> rfl

/-- A placed word keeps the form (log 7). -/
theorem State.placeWord_wf {s : State} (w : Nat) (hw : Memory.wf s.home.mem = true) : Memory.wf (s.placeWord w).home.mem = true :=
  setBytes_wf _ _ hw

/-- The capability region in its place keeps the form (R19). -/
theorem Home.withCaps_wf {h : Home} (hw : Memory.wf h.mem = true) : Memory.wf h.withCaps.mem = true := by
  simp only [Home.withCaps]
  exact setBytes_wf capPa capRegion hw

/-- A write of an agent outside the device keeps the form. -/
theorem State.outsideWrite_wf {s : State} (pa : Nat) (bs : List Byte) (hw : Memory.wf s.home.mem = true) :
    Memory.wf (s.outsideWrite pa bs).home.mem = true := by
  unfold State.outsideWrite
  generalize linesOf pa bs.length = l
  induction l generalizing s with
  | nil => exact hw
  | cons k l ih => exact ih (State.homeWrite_wf _ _ _ hw)

/-- The memory after reset has the form. -/
theorem reset_wf : Memory.wf State.reset.home.mem = true := rfl

end Sys2Proof.Machine
end

