-- ==== Sys2Proof/Laws/PerInstr.lean ====
section
/-!
SUPPORT. The fields of an encoded word, per instruction: the encoder drops no field and sets the opcode, the form bit and the run-boundary
bit that the layout gives the instruction (02 R28, R29, R36, R50).
-/
namespace Sys2Proof.Laws

/-- The fields that the encoded word holds are the instruction's own. -/
def Fields.Statement (i : Instr) : Prop :=
  ∀ w, encode i = some w →
    match payload i with
    | .f o => w.getLsbD 62 = false ∧ (w.extractLsb' 52 10).toNat = opcodeOf i ∧ fieldsF w = o
    | .i o => w.getLsbD 62 = false ∧ (w.extractLsb' 52 10).toNat = opcodeOf i ∧ fieldsI w = o
    | .w o => w.getLsbD 62 = false ∧ (w.extractLsb' 52 10).toNat = opcodeOf i ∧ fieldsW w = o ∧ w.extractLsb' 32 7 = 0
    | .p o => w.getLsbD 62 = true ∧ fieldsP w = o
    | .h o => w.getLsbD 62 = false ∧ (w.extractLsb' 58 4).toNat = 15 ∧ fieldsH w = o
    | .event => False

/-! ### Each layout once -/

theorem extract_hi {a b : Nat} (x : BitVec a) (y : BitVec b) (k n : Nat) (h : b ≤ k) :
    (x ++ y).extractLsb' k n = x.extractLsb' (k - b) n := by
  ext i hi
  simp only [BitVec.getElem_extractLsb', BitVec.getLsbD_append]
  have : ¬ (k + i < b) := by omega
  rw [if_neg this]
  congr 1; omega

theorem extract_lo {a b : Nat} (x : BitVec a) (y : BitVec b) (k n : Nat) (h : k + n ≤ b) :
    (x ++ y).extractLsb' k n = y.extractLsb' k n := by
  ext i hi
  simp only [BitVec.getElem_extractLsb', BitVec.getLsbD_append]
  rw [if_pos (by omega)]

theorem bit_hi {a b : Nat} (x : BitVec a) (y : BitVec b) (k : Nat) (h : b ≤ k) : (x ++ y).getLsbD k = x.getLsbD (k - b) := by
  rw [BitVec.getLsbD_append, if_neg (by omega)]

theorem bit_lo {a b : Nat} (x : BitVec a) (y : BitVec b) (k : Nat) (h : k < b) : (x ++ y).getLsbD k = y.getLsbD k := by
  rw [BitVec.getLsbD_append, if_pos h]

theorem bit_ofBool (b : Bool) : (BitVec.ofBool b).getLsbD 0 = b := by cases b <;> rfl

theorem extract_all {a : Nat} (x : BitVec a) : x.extractLsb' 0 a = x := BitVec.extractLsb'_eq_self

theorem encodeF_fields (op : Nat) (o : OpF) (h : op < 1024) :
    (encodeF op o).getLsbD 62 = false ∧ ((encodeF op o).extractLsb' 52 10).toNat = op ∧ fieldsF (encodeF op o) = o := by
  refine ⟨?_, ?_, ?_⟩
  · simp (disch := decide) only [encodeF, bit_hi, bit_lo, Nat.reduceSub]
    rfl
  · simp (disch := decide) only [encodeF, extract_hi, extract_lo, Nat.reduceSub, extract_all]
    simp [Nat.mod_eq_of_lt h]
  · obtain ⟨rb, ge, gn, gd, d, a, b, c, m⟩ := o
    simp (disch := decide) only [fieldsF, encodeF, extract_hi, extract_lo, bit_hi, bit_lo, Nat.reduceSub, extract_all, bit_ofBool]

theorem encodeI_fields (op : Nat) (o : OpI) (h : op < 1024) :
    (encodeI op o).getLsbD 62 = false ∧ ((encodeI op o).extractLsb' 52 10).toNat = op ∧ fieldsI (encodeI op o) = o := by
  refine ⟨?_, ?_, ?_⟩
  · simp (disch := decide) only [encodeI, bit_hi, bit_lo, Nat.reduceSub]
    rfl
  · simp (disch := decide) only [encodeI, extract_hi, extract_lo, Nat.reduceSub, extract_all]
    simp [Nat.mod_eq_of_lt h]
  · obtain ⟨rb, ge, gn, gd, d, a, imm⟩ := o
    simp (disch := decide) only [fieldsI, encodeI, extract_hi, extract_lo, bit_hi, bit_lo, Nat.reduceSub, extract_all, bit_ofBool]

theorem encodeW_fields (op : Nat) (o : OpW) (h : op < 1024) :
    (encodeW op o).getLsbD 62 = false ∧ ((encodeW op o).extractLsb' 52 10).toNat = op ∧ fieldsW (encodeW op o) = o ∧
      (encodeW op o).extractLsb' 32 7 = 0 := by
  refine ⟨?_, ?_, ?_, ?_⟩
  · simp (disch := decide) only [encodeW, bit_hi, bit_lo, Nat.reduceSub]
    rfl
  · simp (disch := decide) only [encodeW, extract_hi, extract_lo, Nat.reduceSub, extract_all]
    simp [Nat.mod_eq_of_lt h]
  · obtain ⟨rb, ge, gn, gd, d, imm⟩ := o
    simp (disch := decide) only [fieldsW, encodeW, extract_hi, extract_lo, bit_hi, bit_lo, Nat.reduceSub, extract_all, bit_ofBool]
  · simp (disch := decide) only [encodeW, extract_hi, extract_lo, Nat.reduceSub, extract_all]
    rfl

theorem encodeP_fields (o : OpP) : (encodeP o).getLsbD 62 = true ∧ fieldsP (encodeP o) = o := by
  refine ⟨?_, ?_⟩
  · simp (disch := decide) only [encodeP, bit_hi, bit_lo, Nat.reduceSub]
    rfl
  · obtain ⟨rb, ⟨p0, d0, a0, b0⟩, ⟨p1, d1, a1, b1⟩⟩ := o
    simp (disch := decide) only [fieldsP, encodeP, extract_hi, extract_lo, bit_hi, Nat.reduceSub, extract_all, bit_ofBool]

theorem encodeH_fields (o : OpH) :
    (encodeH o).getLsbD 62 = false ∧ ((encodeH o).extractLsb' 58 4).toNat = 15 ∧ fieldsH (encodeH o) = o := by
  refine ⟨?_, ?_, ?_⟩
  · simp (disch := decide) only [encodeH, bit_hi, bit_lo, Nat.reduceSub]
    rfl
  · simp (disch := decide) only [encodeH, extract_hi, extract_lo, Nat.reduceSub, extract_all]
    rfl
  · obtain ⟨rb, idx, rest⟩ := o
    simp (disch := decide) only [fieldsH, encodeH, extract_hi, extract_lo, bit_hi, Nat.reduceSub, extract_all, bit_ofBool]

/-- The statement for an instruction of each layout. -/
theorem Fields.of_f {i : Instr} {o : OpF} (hp : payload i = .f o) (hn : (opcodeOf i).blt 1024 = true) : Fields.Statement i := by
  intro w hw
  simp only [encode, hp, Option.some.injEq] at hw
  rw [hp, ← hw]
  exact encodeF_fields _ o (Nat.blt_eq.mp hn)

theorem Fields.of_i {i : Instr} {o : OpI} (hp : payload i = .i o) (hn : (opcodeOf i).blt 1024 = true) : Fields.Statement i := by
  intro w hw
  simp only [encode, hp, Option.some.injEq] at hw
  rw [hp, ← hw]
  exact encodeI_fields _ o (Nat.blt_eq.mp hn)

theorem Fields.of_w {i : Instr} {o : OpW} (hp : payload i = .w o) (hn : (opcodeOf i).blt 1024 = true) : Fields.Statement i := by
  intro w hw
  simp only [encode, hp, Option.some.injEq] at hw
  rw [hp, ← hw]
  exact encodeW_fields _ o (Nat.blt_eq.mp hn)

theorem Fields.of_event {i : Instr} (hp : payload i = .event) : Fields.Statement i := by
  intro w hw
  simp [encode, hp] at hw

/-! ### Each instruction -/

theorem Fields.add (o : OpF) : Fields.Statement (.add o) := Fields.of_f rfl rfl
theorem Fields.sub (o : OpF) : Fields.Statement (.sub o) := Fields.of_f rfl rfl
theorem Fields.addc (o : OpF) : Fields.Statement (.addc o) := Fields.of_f rfl rfl
theorem Fields.mul (o : OpF) : Fields.Statement (.mul o) := Fields.of_f rfl rfl
theorem Fields.mulh (o : OpF) : Fields.Statement (.mulh o) := Fields.of_f rfl rfl
theorem Fields.mad (o : OpF) : Fields.Statement (.mad o) := Fields.of_f rfl rfl
theorem Fields.madw (o : OpF) : Fields.Statement (.madw o) := Fields.of_f rfl rfl
theorem Fields.div (o : OpF) : Fields.Statement (.div o) := Fields.of_f rfl rfl
theorem Fields.rem (o : OpF) : Fields.Statement (.rem o) := Fields.of_f rfl rfl
theorem Fields.neg (o : OpF) : Fields.Statement (.neg o) := Fields.of_f rfl rfl
theorem Fields.abs (o : OpF) : Fields.Statement (.abs o) := Fields.of_f rfl rfl
theorem Fields.min (o : OpF) : Fields.Statement (.min o) := Fields.of_f rfl rfl
theorem Fields.max (o : OpF) : Fields.Statement (.max o) := Fields.of_f rfl rfl
theorem Fields.and (o : OpF) : Fields.Statement (.and o) := Fields.of_f rfl rfl
theorem Fields.or (o : OpF) : Fields.Statement (.or o) := Fields.of_f rfl rfl
theorem Fields.xor (o : OpF) : Fields.Statement (.xor o) := Fields.of_f rfl rfl
theorem Fields.not (o : OpF) : Fields.Statement (.not o) := Fields.of_f rfl rfl
theorem Fields.andn (o : OpF) : Fields.Statement (.andn o) := Fields.of_f rfl rfl
theorem Fields.shl (o : OpF) : Fields.Statement (.shl o) := Fields.of_f rfl rfl
theorem Fields.shr (o : OpF) : Fields.Statement (.shr o) := Fields.of_f rfl rfl
theorem Fields.sar (o : OpF) : Fields.Statement (.sar o) := Fields.of_f rfl rfl
theorem Fields.rotl (o : OpF) : Fields.Statement (.rotl o) := Fields.of_f rfl rfl
theorem Fields.fshl (o : OpF) : Fields.Statement (.fshl o) := Fields.of_f rfl rfl
theorem Fields.popc (o : OpF) : Fields.Statement (.popc o) := Fields.of_f rfl rfl
theorem Fields.clz (o : OpF) : Fields.Statement (.clz o) := Fields.of_f rfl rfl
theorem Fields.ctz (o : OpF) : Fields.Statement (.ctz o) := Fields.of_f rfl rfl
theorem Fields.brev (o : OpF) : Fields.Statement (.brev o) := Fields.of_f rfl rfl
theorem Fields.bfx (o : OpF) : Fields.Statement (.bfx o) := Fields.of_f rfl rfl
theorem Fields.bfi (o : OpF) : Fields.Statement (.bfi o) := Fields.of_f rfl rfl
theorem Fields.sel (o : OpF) : Fields.Statement (.sel o) := Fields.of_f rfl rfl
theorem Fields.cmp (o : OpF) : Fields.Statement (.cmp o) := Fields.of_f rfl rfl
theorem Fields.mov (o : OpF) : Fields.Statement (.mov o) := Fields.of_f rfl rfl
theorem Fields.movw (o : OpW) : Fields.Statement (.movw o) := Fields.of_w rfl rfl
theorem Fields.lea (o : OpF) : Fields.Statement (.lea o) := Fields.of_f rfl rfl
theorem Fields.addImm (o : OpI) : Fields.Statement (.addImm o) := Fields.of_i rfl rfl
theorem Fields.mulImm (o : OpI) : Fields.Statement (.mulImm o) := Fields.of_i rfl rfl
theorem Fields.andImm (o : OpI) : Fields.Statement (.andImm o) := Fields.of_i rfl rfl
theorem Fields.orImm (o : OpI) : Fields.Statement (.orImm o) := Fields.of_i rfl rfl
theorem Fields.xorImm (o : OpI) : Fields.Statement (.xorImm o) := Fields.of_i rfl rfl
theorem Fields.shlImm (o : OpI) : Fields.Statement (.shlImm o) := Fields.of_i rfl rfl
theorem Fields.shrImm (o : OpI) : Fields.Statement (.shrImm o) := Fields.of_i rfl rfl
theorem Fields.sarImm (o : OpI) : Fields.Statement (.sarImm o) := Fields.of_i rfl rfl
theorem Fields.rotlImm (o : OpI) : Fields.Statement (.rotlImm o) := Fields.of_i rfl rfl
theorem Fields.uadd (o : OpF) : Fields.Statement (.uadd o) := Fields.of_f rfl rfl
theorem Fields.usub (o : OpF) : Fields.Statement (.usub o) := Fields.of_f rfl rfl
theorem Fields.umul (o : OpF) : Fields.Statement (.umul o) := Fields.of_f rfl rfl
theorem Fields.umulh (o : OpF) : Fields.Statement (.umulh o) := Fields.of_f rfl rfl
theorem Fields.uand (o : OpF) : Fields.Statement (.uand o) := Fields.of_f rfl rfl
theorem Fields.uor (o : OpF) : Fields.Statement (.uor o) := Fields.of_f rfl rfl
theorem Fields.uxor (o : OpF) : Fields.Statement (.uxor o) := Fields.of_f rfl rfl
theorem Fields.ushl (o : OpF) : Fields.Statement (.ushl o) := Fields.of_f rfl rfl
theorem Fields.ushr (o : OpF) : Fields.Statement (.ushr o) := Fields.of_f rfl rfl
theorem Fields.usar (o : OpF) : Fields.Statement (.usar o) := Fields.of_f rfl rfl
theorem Fields.umin (o : OpF) : Fields.Statement (.umin o) := Fields.of_f rfl rfl
theorem Fields.umax (o : OpF) : Fields.Statement (.umax o) := Fields.of_f rfl rfl
theorem Fields.ucmp (o : OpF) : Fields.Statement (.ucmp o) := Fields.of_f rfl rfl
theorem Fields.umov (o : OpF) : Fields.Statement (.umov o) := Fields.of_f rfl rfl
theorem Fields.umovw (o : OpW) : Fields.Statement (.umovw o) := Fields.of_w rfl rfl
theorem Fields.ulea (o : OpF) : Fields.Statement (.ulea o) := Fields.of_f rfl rfl
theorem Fields.udiv (o : OpF) : Fields.Statement (.udiv o) := Fields.of_f rfl rfl
theorem Fields.urdv (o : OpF) : Fields.Statement (.urdv o) := Fields.of_f rfl rfl
theorem Fields.uaddImm (o : OpI) : Fields.Statement (.uaddImm o) := Fields.of_i rfl rfl
theorem Fields.umulImm (o : OpI) : Fields.Statement (.umulImm o) := Fields.of_i rfl rfl
theorem Fields.uandImm (o : OpI) : Fields.Statement (.uandImm o) := Fields.of_i rfl rfl
theorem Fields.uorImm (o : OpI) : Fields.Statement (.uorImm o) := Fields.of_i rfl rfl
theorem Fields.uxorImm (o : OpI) : Fields.Statement (.uxorImm o) := Fields.of_i rfl rfl
theorem Fields.ushlImm (o : OpI) : Fields.Statement (.ushlImm o) := Fields.of_i rfl rfl
theorem Fields.ushrImm (o : OpI) : Fields.Statement (.ushrImm o) := Fields.of_i rfl rfl
theorem Fields.usarImm (o : OpI) : Fields.Statement (.usarImm o) := Fields.of_i rfl rfl
theorem Fields.fadd (o : OpF) : Fields.Statement (.fadd o) := Fields.of_f rfl rfl
theorem Fields.fsub (o : OpF) : Fields.Statement (.fsub o) := Fields.of_f rfl rfl
theorem Fields.fmul (o : OpF) : Fields.Statement (.fmul o) := Fields.of_f rfl rfl
theorem Fields.ffma (o : OpF) : Fields.Statement (.ffma o) := Fields.of_f rfl rfl
theorem Fields.fdiv (o : OpF) : Fields.Statement (.fdiv o) := Fields.of_f rfl rfl
theorem Fields.fsqrt (o : OpF) : Fields.Statement (.fsqrt o) := Fields.of_f rfl rfl
theorem Fields.frcp (o : OpF) : Fields.Statement (.frcp o) := Fields.of_f rfl rfl
theorem Fields.frsq (o : OpF) : Fields.Statement (.frsq o) := Fields.of_f rfl rfl
theorem Fields.fexp2 (o : OpF) : Fields.Statement (.fexp2 o) := Fields.of_f rfl rfl
theorem Fields.flog2 (o : OpF) : Fields.Statement (.flog2 o) := Fields.of_f rfl rfl
theorem Fields.fmin (o : OpF) : Fields.Statement (.fmin o) := Fields.of_f rfl rfl
theorem Fields.fmax (o : OpF) : Fields.Statement (.fmax o) := Fields.of_f rfl rfl
theorem Fields.fcmp (o : OpF) : Fields.Statement (.fcmp o) := Fields.of_f rfl rfl
theorem Fields.fclass (o : OpF) : Fields.Statement (.fclass o) := Fields.of_f rfl rfl
theorem Fields.frnd (o : OpF) : Fields.Statement (.frnd o) := Fields.of_f rfl rfl
theorem Fields.fscl (o : OpF) : Fields.Statement (.fscl o) := Fields.of_f rfl rfl
theorem Fields.hadd2 (o : OpF) : Fields.Statement (.hadd2 o) := Fields.of_f rfl rfl
theorem Fields.hmul2 (o : OpF) : Fields.Statement (.hmul2 o) := Fields.of_f rfl rfl
theorem Fields.hfma2 (o : OpF) : Fields.Statement (.hfma2 o) := Fields.of_f rfl rfl
theorem Fields.fsel (o : OpF) : Fields.Statement (.fsel o) := Fields.of_f rfl rfl
theorem Fields.dadd (o : OpF) : Fields.Statement (.dadd o) := Fields.of_f rfl rfl
theorem Fields.dmul (o : OpF) : Fields.Statement (.dmul o) := Fields.of_f rfl rfl
theorem Fields.dfma (o : OpF) : Fields.Statement (.dfma o) := Fields.of_f rfl rfl
theorem Fields.ddiv (o : OpF) : Fields.Statement (.ddiv o) := Fields.of_f rfl rfl
theorem Fields.dsqrt (o : OpF) : Fields.Statement (.dsqrt o) := Fields.of_f rfl rfl
theorem Fields.dcmp (o : OpF) : Fields.Statement (.dcmp o) := Fields.of_f rfl rfl
theorem Fields.cvt (o : OpF) : Fields.Statement (.cvt o) := Fields.of_f rfl rfl
theorem Fields.pack (o : OpF) : Fields.Statement (.pack o) := Fields.of_f rfl rfl
theorem Fields.unpack (o : OpF) : Fields.Statement (.unpack o) := Fields.of_f rfl rfl
theorem Fields.qblk (o : OpF) : Fields.Statement (.qblk o) := Fields.of_f rfl rfl
theorem Fields.xld (o : OpF) : Fields.Statement (.xld o) := Fields.of_f rfl rfl
theorem Fields.xmovv (o : OpF) : Fields.Statement (.xmovv o) := Fields.of_f rfl rfl
theorem Fields.xpin (o : OpF) : Fields.Statement (.xpin o) := Fields.of_f rfl rfl
theorem Fields.xmov (o : OpF) : Fields.Statement (.xmov o) := Fields.of_f rfl rfl
theorem Fields.xadd (o : OpF) : Fields.Statement (.xadd o) := Fields.of_f rfl rfl
theorem Fields.xsub (o : OpF) : Fields.Statement (.xsub o) := Fields.of_f rfl rfl
theorem Fields.xmul (o : OpF) : Fields.Statement (.xmul o) := Fields.of_f rfl rfl
theorem Fields.xfma (o : OpF) : Fields.Statement (.xfma o) := Fields.of_f rfl rfl
theorem Fields.xdiv (o : OpF) : Fields.Statement (.xdiv o) := Fields.of_f rfl rfl
theorem Fields.xneg (o : OpF) : Fields.Statement (.xneg o) := Fields.of_f rfl rfl
theorem Fields.xabs (o : OpF) : Fields.Statement (.xabs o) := Fields.of_f rfl rfl
theorem Fields.xmin (o : OpF) : Fields.Statement (.xmin o) := Fields.of_f rfl rfl
theorem Fields.xmax (o : OpF) : Fields.Statement (.xmax o) := Fields.of_f rfl rfl
theorem Fields.xcmp (o : OpF) : Fields.Statement (.xcmp o) := Fields.of_f rfl rfl
theorem Fields.xsgn (o : OpF) : Fields.Statement (.xsgn o) := Fields.of_f rfl rfl
theorem Fields.xlo (o : OpF) : Fields.Statement (.xlo o) := Fields.of_f rfl rfl
theorem Fields.xhi (o : OpF) : Fields.Statement (.xhi o) := Fields.of_f rfl rfl
theorem Fields.xsever (o : OpF) : Fields.Statement (.xsever o) := Fields.of_f rfl rfl
theorem Fields.xref (o : OpF) : Fields.Statement (.xref o) := Fields.of_f rfl rfl
theorem Fields.xst (o : OpF) : Fields.Statement (.xst o) := Fields.of_f rfl rfl
theorem Fields.xstg (o : OpF) : Fields.Statement (.xstg o) := Fields.of_f rfl rfl
theorem Fields.xlogq (o : OpF) : Fields.Statement (.xlogq o) := Fields.of_f rfl rfl
theorem Fields.pset (o : OpF) : Fields.Statement (.pset o) := Fields.of_f rfl rfl
theorem Fields.pnot (o : OpF) : Fields.Statement (.pnot o) := Fields.of_f rfl rfl
theorem Fields.pand (o : OpF) : Fields.Statement (.pand o) := Fields.of_f rfl rfl
theorem Fields.por (o : OpF) : Fields.Statement (.por o) := Fields.of_f rfl rfl
theorem Fields.pxor (o : OpF) : Fields.Statement (.pxor o) := Fields.of_f rfl rfl
theorem Fields.ppop (o : OpF) : Fields.Statement (.ppop o) := Fields.of_f rfl rfl
theorem Fields.pdup (o : OpF) : Fields.Statement (.pdup o) := Fields.of_f rfl rfl
theorem Fields.pmask (o : OpF) : Fields.Statement (.pmask o) := Fields.of_f rfl rfl
theorem Fields.bra (o : OpI) : Fields.Statement (.bra o) := Fields.of_i rfl rfl
theorem Fields.bru (o : OpI) : Fields.Statement (.bru o) := Fields.of_i rfl rfl
theorem Fields.brx (o : OpF) : Fields.Statement (.brx o) := Fields.of_f rfl rfl
theorem Fields.call (o : OpI) : Fields.Statement (.call o) := Fields.of_i rfl rfl
theorem Fields.ret (o : OpF) : Fields.Statement (.ret o) := Fields.of_f rfl rfl
theorem Fields.exit (o : OpF) : Fields.Statement (.exit o) := Fields.of_f rfl rfl
theorem Fields.nop (o : OpF) : Fields.Statement (.nop o) := Fields.of_f rfl rfl
theorem Fields.pause (o : OpF) : Fields.Statement (.pause o) := Fields.of_f rfl rfl
theorem Fields.shfl (o : OpF) : Fields.Statement (.shfl o) := Fields.of_f rfl rfl
theorem Fields.vote (o : OpF) : Fields.Statement (.vote o) := Fields.of_f rfl rfl
theorem Fields.ballot (o : OpF) : Fields.Statement (.ballot o) := Fields.of_f rfl rfl
theorem Fields.matchLanes (o : OpF) : Fields.Statement (.matchLanes o) := Fields.of_f rfl rfl
theorem Fields.compact (o : OpF) : Fields.Statement (.compact o) := Fields.of_f rfl rfl
theorem Fields.redux (o : OpF) : Fields.Statement (.redux o) := Fields.of_f rfl rfl
theorem Fields.scan (o : OpF) : Fields.Statement (.scan o) := Fields.of_f rfl rfl
theorem Fields.elect (o : OpF) : Fields.Statement (.elect o) := Fields.of_f rfl rfl
theorem Fields.isect (o : OpF) : Fields.Statement (.isect o) := Fields.of_f rfl rfl
theorem Fields.merge (o : OpF) : Fields.Statement (.merge o) := Fields.of_f rfl rfl
theorem Fields.ld (o : OpF) : Fields.Statement (.ld o) := Fields.of_f rfl rfl
theorem Fields.st (o : OpF) : Fields.Statement (.st o) := Fields.of_f rfl rfl
theorem Fields.ldu (o : OpF) : Fields.Statement (.ldu o) := Fields.of_f rfl rfl
theorem Fields.stu (o : OpF) : Fields.Statement (.stu o) := Fields.of_f rfl rfl
theorem Fields.pref (o : OpF) : Fields.Statement (.pref o) := Fields.of_f rfl rfl
theorem Fields.taint (o : OpF) : Fields.Statement (.taint o) := Fields.of_f rfl rfl
theorem Fields.atom (o : OpF) : Fields.Statement (.atom o) := Fields.of_f rfl rfl
theorem Fields.red (o : OpF) : Fields.Statement (.red o) := Fields.of_f rfl rfl
theorem Fields.atomu (o : OpF) : Fields.Statement (.atomu o) := Fields.of_f rfl rfl
theorem Fields.phase (o : OpF) : Fields.Statement (.phase o) := Fields.of_f rfl rfl
theorem Fields.fence (o : OpF) : Fields.Statement (.fence o) := Fields.of_f rfl rfl
theorem Fields.cfence (o : OpF) : Fields.Statement (.cfence o) := Fields.of_f rfl rfl
theorem Fields.bar (o : OpF) : Fields.Statement (.bar o) := Fields.of_f rfl rfl
theorem Fields.ordw (o : OpF) : Fields.Statement (.ordw o) := Fields.of_f rfl rfl
theorem Fields.ordd (o : OpF) : Fields.Statement (.ordd o) := Fields.of_f rfl rfl
theorem Fields.cntwait (o : OpF) : Fields.Statement (.cntwait o) := Fields.of_f rfl rfl
theorem Fields.tfence (o : OpF) : Fields.Statement (.tfence o) := Fields.of_f rfl rfl
theorem Fields.copy (o : OpF) : Fields.Statement (.copy o) := Fields.of_f rfl rfl
theorem Fields.gather (o : OpF) : Fields.Statement (.gather o) := Fields.of_f rfl rfl
theorem Fields.coll (o : OpF) : Fields.Statement (.coll o) := Fields.of_f rfl rfl
theorem Fields.launch (o : OpF) : Fields.Statement (.launch o) := Fields.of_f rfl rfl
theorem Fields.ftest (o : OpF) : Fields.Statement (.ftest o) := Fields.of_f rfl rfl
theorem Fields.fwait (o : OpF) : Fields.Statement (.fwait o) := Fields.of_f rfl rfl
theorem Fields.fcancel (o : OpF) : Fields.Statement (.fcancel o) := Fields.of_f rfl rfl
theorem Fields.fmov (o : OpF) : Fields.Statement (.fmov o) := Fields.of_f rfl rfl
theorem Fields.fstat (o : OpF) : Fields.Statement (.fstat o) := Fields.of_f rfl rfl
theorem Fields.bfacq (o : OpF) : Fields.Statement (.bfacq o) := Fields.of_f rfl rfl
theorem Fields.bfrel (o : OpF) : Fields.Statement (.bfrel o) := Fields.of_f rfl rfl
theorem Fields.osclaim (o : OpF) : Fields.Statement (.osclaim o) := Fields.of_f rfl rfl
theorem Fields.osrel (o : OpF) : Fields.Statement (.osrel o) := Fields.of_f rfl rfl
theorem Fields.osfill (o : OpF) : Fields.Statement (.osfill o) := Fields.of_f rfl rfl
theorem Fields.ossave (o : OpF) : Fields.Statement (.ossave o) := Fields.of_f rfl rfl
theorem Fields.bstset (o : OpF) : Fields.Statement (.bstset o) := Fields.of_f rfl rfl
theorem Fields.bfstage (o : OpF) : Fields.Statement (.bfstage o) := Fields.of_f rfl rfl
theorem Fields.bfchain (o : OpF) : Fields.Statement (.bfchain o) := Fields.of_f rfl rfl
theorem Fields.bfzero (o : OpF) : Fields.Statement (.bfzero o) := Fields.of_f rfl rfl
theorem Fields.bfdrain (o : OpF) : Fields.Statement (.bfdrain o) := Fields.of_f rfl rfl
theorem Fields.bfscale (o : OpF) : Fields.Statement (.bfscale o) := Fields.of_f rfl rfl
theorem Fields.gangset (o : OpF) : Fields.Statement (.gangset o) := Fields.of_f rfl rfl
theorem Fields.swbind (o : OpF) : Fields.Statement (.swbind o) := Fields.of_f rfl rfl
theorem Fields.swrun (o : OpF) : Fields.Statement (.swrun o) := Fields.of_f rfl rfl
theorem Fields.swwake (o : OpF) : Fields.Statement (.swwake o) := Fields.of_f rfl rfl
theorem Fields.swpoke (o : OpF) : Fields.Statement (.swpoke o) := Fields.of_f rfl rfl
theorem Fields.swstat (o : OpF) : Fields.Statement (.swstat o) := Fields.of_f rfl rfl
theorem Fields.trap (o : OpF) : Fields.Statement (.trap o) := Fields.of_f rfl rfl
theorem Fields.tret (o : OpF) : Fields.Statement (.tret o) := Fields.of_f rfl rfl
theorem Fields.csrr (o : OpF) : Fields.Statement (.csrr o) := Fields.of_f rfl rfl
theorem Fields.csrw (o : OpF) : Fields.Statement (.csrw o) := Fields.of_f rfl rfl
theorem Fields.kill (o : OpF) : Fields.Statement (.kill o) := Fields.of_f rfl rfl
theorem Fields.flagr (o : OpF) : Fields.Statement (.flagr o) := Fields.of_f rfl rfl
theorem Fields.clock (o : OpF) : Fields.Statement (.clock o) := Fields.of_f rfl rfl
theorem Fields.brkpt (o : OpF) : Fields.Statement (.brkpt o) := Fields.of_f rfl rfl
theorem Fields.digest (o : OpF) : Fields.Statement (.digest o) := Fields.of_f rfl rfl
theorem Fields.tlbq (o : OpF) : Fields.Statement (.tlbq o) := Fields.of_f rfl rfl
theorem Fields.href (o : OpF) : Fields.Statement (.href o) := Fields.of_f rfl rfl
theorem Fields.hpf (o : OpF) : Fields.Statement (.hpf o) := Fields.of_f rfl rfl
theorem Fields.hsch (o : OpF) : Fields.Statement (.hsch o) := Fields.of_f rfl rfl
theorem Fields.hintNop (o : OpH) : Fields.Statement (.hintNop o) := fun w h => by simp only [encode, payload, Option.some.injEq] at h; subst h; exact encodeH_fields o
theorem Fields.pairedWord (o : OpP) : Fields.Statement (.pairedWord o) := fun w h => by simp only [encode, payload, Option.some.injEq] at h; subst h; exact encodeP_fields o
theorem Fields.issueSlotSelect (core : Nat) (part : Nat) : Fields.Statement (.issueSlotSelect core part) := Fields.of_event rfl
theorem Fields.groupPromotion (g : GRef) : Fields.Statement (.groupPromotion g) := Fields.of_event rfl
theorem Fields.pauseExpiry (g : GRef) : Fields.Statement (.pauseExpiry g) := Fields.of_event rfl
theorem Fields.regLineFill (g : GRef) (line : Nat) : Fields.Statement (.regLineFill g line) := Fields.of_event rfl
theorem Fields.regLineWriteback (core : Nat) (g : GRef) (line : Nat) : Fields.Statement (.regLineWriteback core g line) := Fields.of_event rfl
theorem Fields.runCommit (g : GRef) : Fields.Statement (.runCommit g) := Fields.of_event rfl
theorem Fields.deferredWrite (g : GRef) : Fields.Statement (.deferredWrite g) := Fields.of_event rfl
theorem Fields.teamScratchRelease (tm : TRef) : Fields.Statement (.teamScratchRelease tm) := Fields.of_event rfl
theorem Fields.detUpdateHold (g : GRef) : Fields.Statement (.detUpdateHold g) := Fields.of_event rfl
theorem Fields.atomicPerform (g : GRef) : Fields.Statement (.atomicPerform g) := Fields.of_event rfl
theorem Fields.viewAdvance (core : Nat) (line : Nat) : Fields.Statement (.viewAdvance core line) := Fields.of_event rfl
theorem Fields.linePresent (tm : TRef) (line : Nat) : Fields.Statement (.linePresent tm line) := Fields.of_event rfl
theorem Fields.windowAccessArrive (g : GRef) : Fields.Statement (.windowAccessArrive g) := Fields.of_event rfl
theorem Fields.cntwaitRecheck (g : GRef) : Fields.Statement (.cntwaitRecheck g) := Fields.of_event rfl
theorem Fields.pageWalk (unit : Nat) (asid : Nat) (va : Word64) : Fields.Statement (.pageWalk unit asid va) := Fields.of_event rfl
theorem Fields.zbRecheck (n : Nat) : Fields.Statement (.zbRecheck n) := Fields.of_event rfl
theorem Fields.pageZeroed (n : Nat) : Fields.Statement (.pageZeroed n) := Fields.of_event rfl
theorem Fields.referralDecide (core : Nat) : Fields.Statement (.referralDecide core) := Fields.of_event rfl
theorem Fields.copyLineWrite (n : Nat) (line : Nat) : Fields.Statement (.copyLineWrite n line) := Fields.of_event rfl
theorem Fields.copyComplete (n : Nat) : Fields.Statement (.copyComplete n) := Fields.of_event rfl
theorem Fields.gatherComplete (n : Nat) : Fields.Statement (.gatherComplete n) := Fields.of_event rfl
theorem Fields.collComplete (n : Nat) : Fields.Statement (.collComplete n) := Fields.of_event rfl
theorem Fields.collAbort (n : Nat) : Fields.Statement (.collAbort n) := Fields.of_event rfl
theorem Fields.launchEnqueue (n : Nat) : Fields.Statement (.launchEnqueue n) := Fields.of_event rfl
theorem Fields.bfCommandPerform (core : Nat) : Fields.Statement (.bfCommandPerform core) := Fields.of_event rfl
theorem Fields.bfStagePass (core : Nat) : Fields.Statement (.bfStagePass core) := Fields.of_event rfl
theorem Fields.swrunStart (core : Nat) (slot : Nat) : Fields.Statement (.swrunStart core slot) := Fields.of_event rfl
theorem Fields.sweep (core : Nat) (slot : Nat) : Fields.Statement (.sweep core slot) := Fields.of_event rfl
theorem Fields.headExamine (q : Nat) : Fields.Statement (.headExamine q) := Fields.of_event rfl
theorem Fields.depCounterRecheck (q : Nat) : Fields.Statement (.depCounterRecheck q) := Fields.of_event rfl
theorem Fields.gridStart : Fields.Statement .gridStart := Fields.of_event rfl
theorem Fields.teamPlace (grid : Nat) : Fields.Statement (.teamPlace grid) := Fields.of_event rfl
theorem Fields.placementTimeout (grid : Nat) : Fields.Statement (.placementTimeout grid) := Fields.of_event rfl
theorem Fields.swapTrigger (grid : Nat) : Fields.Statement (.swapTrigger grid) := Fields.of_event rfl
theorem Fields.teamSwapOut (tm : TRef) : Fields.Statement (.teamSwapOut tm) := Fields.of_event rfl
theorem Fields.teamResume (tm : TRef) : Fields.Statement (.teamResume tm) := Fields.of_event rfl
theorem Fields.killComplete (grid : Nat) : Fields.Statement (.killComplete grid) := Fields.of_event rfl
theorem Fields.qwriteWrite (q : Nat) (v : BarWrite) : Fields.Statement (.qwriteWrite q v) := Fields.of_event rfl
theorem Fields.qctlDisable (q : Nat) (v : BarWrite) : Fields.Statement (.qctlDisable q v) := Fields.of_event rfl
theorem Fields.qctlEnable (q : Nat) (v : BarWrite) : Fields.Statement (.qctlEnable q v) := Fields.of_event rfl
theorem Fields.qctlReconfigure (q : Nat) (v : BarWrite) : Fields.Statement (.qctlReconfigure q v) := Fields.of_event rfl
theorem Fields.qbaseWrite (q : Nat) (v : BarWrite) : Fields.Statement (.qbaseWrite q v) := Fields.of_event rfl
theorem Fields.ctxsync (v : BarWrite) : Fields.Statement (.ctxsync v) := Fields.of_event rfl
theorem Fields.syncDone : Fields.Statement .syncDone := Fields.of_event rfl
theorem Fields.invalRange (v : BarWrite) : Fields.Statement (.invalRange v) := Fields.of_event rfl
theorem Fields.invalAsid (v : BarWrite) : Fields.Statement (.invalAsid v) := Fields.of_event rfl
theorem Fields.invalAll (v : BarWrite) : Fields.Statement (.invalAll v) := Fields.of_event rfl
theorem Fields.invalidationDone : Fields.Statement .invalidationDone := Fields.of_event rfl
theorem Fields.replay (v : BarWrite) : Fields.Statement (.replay v) := Fields.of_event rfl
theorem Fields.gridkill (v : BarWrite) : Fields.Statement (.gridkill v) := Fields.of_event rfl
theorem Fields.attreq (v : BarWrite) : Fields.Statement (.attreq v) := Fields.of_event rfl
theorem Fields.attestationDone : Fields.Statement .attestationDone := Fields.of_event rfl
theorem Fields.fwctlVerify (v : BarWrite) : Fields.Statement (.fwctlVerify v) := Fields.of_event rfl
theorem Fields.fwctlRestart (v : BarWrite) : Fields.Statement (.fwctlRestart v) := Fields.of_event rfl
theorem Fields.verifyDone : Fields.Statement .verifyDone := Fields.of_event rfl
theorem Fields.firmwareWindowWrite (off : BarPlace) (bytes : List Byte) : Fields.Statement (.firmwareWindowWrite off bytes) := Fields.of_event rfl
theorem Fields.registerWrite (off : Nat) (v : BarWrite) : Fields.Statement (.registerWrite off v) := Fields.of_event rfl
theorem Fields.hostMemoryWrite (pa : Nat) (bytes : List Byte) : Fields.Statement (.hostMemoryWrite pa bytes) := Fields.of_event rfl
theorem Fields.hostMemoryRead (pa : Nat) (n : Nat) : Fields.Statement (.hostMemoryRead pa n) := Fields.of_event rfl
theorem Fields.vfApertureAccess (vf : Nat) (va : Word64) (acc : HostAccess) : Fields.Statement (.vfApertureAccess vf va acc) := Fields.of_event rfl
theorem Fields.atsInvalidation (pasid page pages : Nat) : Fields.Statement (.atsInvalidation pasid page pages) := Fields.of_event rfl
theorem Fields.hostLinkDown : Fields.Statement .hostLinkDown := Fields.of_event rfl
theorem Fields.peerAccess (src : Nat) (pa : Nat) (acc : HostAccess) : Fields.Statement (.peerAccess src pa acc) := Fields.of_event rfl
theorem Fields.portLoss (port : Nat) : Fields.Statement (.portLoss port) := Fields.of_event rfl
theorem Fields.powerOn : Fields.Statement .powerOn := Fields.of_event rfl
theorem Fields.budgetPeriodStart : Fields.Statement .budgetPeriodStart := Fields.of_event rfl
theorem Fields.throttleStep (heat : Heat) : Fields.Statement (.throttleStep heat) := Fields.of_event rfl
theorem Fields.thermalTrip (heat : Heat) : Fields.Statement (.thermalTrip heat) := Fields.of_event rfl
theorem Fields.softErrorCorrected (site : PoisonSite) : Fields.Statement (.softErrorCorrected site) := Fields.of_event rfl
theorem Fields.uncorrectableError (site : PoisonSite) : Fields.Statement (.uncorrectableError site) := Fields.of_event rfl
theorem Fields.dieError (unit : SharedUnit) : Fields.Statement (.dieError unit) := Fields.of_event rfl
theorem Fields.hostLinkUp : Fields.Statement .hostLinkUp := Fields.of_event rfl
theorem Fields.vernalLinkPortUp (port : Nat) : Fields.Statement (.vernalLinkPortUp port) := Fields.of_event rfl
theorem Fields.bfTransferComplete (core : Nat) : Fields.Statement (.bfTransferComplete core) := Fields.of_event rfl

end Sys2Proof.Laws
end

