-- ==== Sys2Proof/Laws/State.lean ====
section
/-!
SUPPORT. The laws of the state record: what each small update leaves unchanged, field by field.
-/
namespace Sys2Proof.Machine
open Sys2Proof

@[simp] theorem State.setGroup_grids (s : State) (g : Group) : (s.setGroup g).grids = s.grids := rfl
@[simp] theorem State.setGroup_teams (s : State) (g : Group) : (s.setGroup g).teams = s.teams := rfl
@[simp] theorem State.setGroup_home (s : State) (g : Group) : (s.setGroup g).home = s.home := rfl
@[simp] theorem State.setGroup_stores (s : State) (g : Group) : (s.setGroup g).stores = s.stores := rfl
@[simp] theorem State.setGroup_sids (s : State) (g : Group) : (s.setGroup g).sids = s.sids := rfl
@[simp] theorem State.setGroup_views (s : State) (g : Group) : (s.setGroup g).views = s.views := rfl
@[simp] theorem State.setGroup_ilines (s : State) (g : Group) : (s.setGroup g).ilines = s.ilines := rfl
@[simp] theorem State.setGroup_tlb (s : State) (g : Group) : (s.setGroup g).tlb = s.tlb := rfl
@[simp] theorem State.setGroup_zwalks (s : State) (g : Group) : (s.setGroup g).zwalks = s.zwalks := rfl
@[simp] theorem State.setGroup_cmds (s : State) (g : Group) : (s.setGroup g).cmds = s.cmds := rfl
@[simp] theorem State.setGroup_arrived (s : State) (g : Group) : (s.setGroup g).arrived = s.arrived := rfl
@[simp] theorem State.setGroup_bf (s : State) (g : Group) : (s.setGroup g).bf = s.bf := rfl
@[simp] theorem State.setGroup_referrals (s : State) (g : Group) : (s.setGroup g).referrals = s.referrals := rfl
@[simp] theorem State.setGroup_sheets (s : State) (g : Group) : (s.setGroup g).sheets = s.sheets := rfl
@[simp] theorem State.setGroup_orphans (s : State) (g : Group) : (s.setGroup g).orphans = s.orphans := rfl
@[simp] theorem State.setGroup_holds (s : State) (g : Group) : (s.setGroup g).holds = s.holds := rfl
@[simp] theorem State.setGroup_early (s : State) (g : Group) : (s.setGroup g).early = s.early := rfl
@[simp] theorem State.setGroup_collSeq (s : State) (g : Group) : (s.setGroup g).collSeq = s.collSeq := rfl
@[simp] theorem State.setGroup_collDone (s : State) (g : Group) : (s.setGroup g).collDone = s.collDone := rfl
@[simp] theorem State.setGroup_rota (s : State) (g : Group) : (s.setGroup g).rota = s.rota := rfl
@[simp] theorem State.setGroup_serials (s : State) (g : Group) : (s.setGroup g).serials = s.serials := rfl
@[simp] theorem State.setGroup_queues (s : State) (g : Group) : (s.setGroup g).queues = s.queues := rfl
@[simp] theorem State.setGroup_ctxs (s : State) (g : Group) : (s.setGroup g).ctxs = s.ctxs := rfl
@[simp] theorem State.setGroup_dev (s : State) (g : Group) : (s.setGroup g).dev = s.dev := rfl
@[simp] theorem State.setGroup_turns (s : State) (g : Group) : (s.setGroup g).turns = s.turns := rfl
@[simp] theorem State.setGroup_tick (s : State) (g : Group) : (s.setGroup g).tick = s.tick := rfl
@[simp] theorem State.setGroup_cur (s : State) (g : Group) : (s.setGroup g).cur = s.cur := rfl

@[simp] theorem State.setTeam_grids (s : State) (t : Team) : (s.setTeam t).grids = s.grids := rfl
@[simp] theorem State.setTeam_groups (s : State) (t : Team) : (s.setTeam t).groups = s.groups := rfl
@[simp] theorem State.setTeam_home (s : State) (t : Team) : (s.setTeam t).home = s.home := rfl
@[simp] theorem State.setTeam_stores (s : State) (t : Team) : (s.setTeam t).stores = s.stores := rfl
@[simp] theorem State.setTeam_sids (s : State) (t : Team) : (s.setTeam t).sids = s.sids := rfl
@[simp] theorem State.setTeam_views (s : State) (t : Team) : (s.setTeam t).views = s.views := rfl
@[simp] theorem State.setTeam_ilines (s : State) (t : Team) : (s.setTeam t).ilines = s.ilines := rfl
@[simp] theorem State.setTeam_tlb (s : State) (t : Team) : (s.setTeam t).tlb = s.tlb := rfl
@[simp] theorem State.setTeam_zwalks (s : State) (t : Team) : (s.setTeam t).zwalks = s.zwalks := rfl
@[simp] theorem State.setTeam_cmds (s : State) (t : Team) : (s.setTeam t).cmds = s.cmds := rfl
@[simp] theorem State.setTeam_arrived (s : State) (t : Team) : (s.setTeam t).arrived = s.arrived := rfl
@[simp] theorem State.setTeam_bf (s : State) (t : Team) : (s.setTeam t).bf = s.bf := rfl
@[simp] theorem State.setTeam_referrals (s : State) (t : Team) : (s.setTeam t).referrals = s.referrals := rfl
@[simp] theorem State.setTeam_sheets (s : State) (t : Team) : (s.setTeam t).sheets = s.sheets := rfl
@[simp] theorem State.setTeam_orphans (s : State) (t : Team) : (s.setTeam t).orphans = s.orphans := rfl
@[simp] theorem State.setTeam_holds (s : State) (t : Team) : (s.setTeam t).holds = s.holds := rfl
@[simp] theorem State.setTeam_early (s : State) (t : Team) : (s.setTeam t).early = s.early := rfl
@[simp] theorem State.setTeam_collSeq (s : State) (t : Team) : (s.setTeam t).collSeq = s.collSeq := rfl
@[simp] theorem State.setTeam_collDone (s : State) (t : Team) : (s.setTeam t).collDone = s.collDone := rfl
@[simp] theorem State.setTeam_rota (s : State) (t : Team) : (s.setTeam t).rota = s.rota := rfl
@[simp] theorem State.setTeam_serials (s : State) (t : Team) : (s.setTeam t).serials = s.serials := rfl
@[simp] theorem State.setTeam_queues (s : State) (t : Team) : (s.setTeam t).queues = s.queues := rfl
@[simp] theorem State.setTeam_ctxs (s : State) (t : Team) : (s.setTeam t).ctxs = s.ctxs := rfl
@[simp] theorem State.setTeam_dev (s : State) (t : Team) : (s.setTeam t).dev = s.dev := rfl
@[simp] theorem State.setTeam_turns (s : State) (t : Team) : (s.setTeam t).turns = s.turns := rfl
@[simp] theorem State.setTeam_tick (s : State) (t : Team) : (s.setTeam t).tick = s.tick := rfl
@[simp] theorem State.setTeam_cur (s : State) (t : Team) : (s.setTeam t).cur = s.cur := rfl

@[simp] theorem State.setGrid_teams (s : State) (g : Grid) : (s.setGrid g).teams = s.teams := rfl
@[simp] theorem State.setGrid_groups (s : State) (g : Grid) : (s.setGrid g).groups = s.groups := rfl
@[simp] theorem State.setGrid_home (s : State) (g : Grid) : (s.setGrid g).home = s.home := rfl
@[simp] theorem State.setGrid_stores (s : State) (g : Grid) : (s.setGrid g).stores = s.stores := rfl
@[simp] theorem State.setGrid_sids (s : State) (g : Grid) : (s.setGrid g).sids = s.sids := rfl
@[simp] theorem State.setGrid_views (s : State) (g : Grid) : (s.setGrid g).views = s.views := rfl
@[simp] theorem State.setGrid_ilines (s : State) (g : Grid) : (s.setGrid g).ilines = s.ilines := rfl
@[simp] theorem State.setGrid_tlb (s : State) (g : Grid) : (s.setGrid g).tlb = s.tlb := rfl
@[simp] theorem State.setGrid_zwalks (s : State) (g : Grid) : (s.setGrid g).zwalks = s.zwalks := rfl
@[simp] theorem State.setGrid_cmds (s : State) (g : Grid) : (s.setGrid g).cmds = s.cmds := rfl
@[simp] theorem State.setGrid_arrived (s : State) (g : Grid) : (s.setGrid g).arrived = s.arrived := rfl
@[simp] theorem State.setGrid_bf (s : State) (g : Grid) : (s.setGrid g).bf = s.bf := rfl
@[simp] theorem State.setGrid_referrals (s : State) (g : Grid) : (s.setGrid g).referrals = s.referrals := rfl
@[simp] theorem State.setGrid_sheets (s : State) (g : Grid) : (s.setGrid g).sheets = s.sheets := rfl
@[simp] theorem State.setGrid_orphans (s : State) (g : Grid) : (s.setGrid g).orphans = s.orphans := rfl
@[simp] theorem State.setGrid_holds (s : State) (g : Grid) : (s.setGrid g).holds = s.holds := rfl
@[simp] theorem State.setGrid_early (s : State) (g : Grid) : (s.setGrid g).early = s.early := rfl
@[simp] theorem State.setGrid_collSeq (s : State) (g : Grid) : (s.setGrid g).collSeq = s.collSeq := rfl
@[simp] theorem State.setGrid_collDone (s : State) (g : Grid) : (s.setGrid g).collDone = s.collDone := rfl
@[simp] theorem State.setGrid_rota (s : State) (g : Grid) : (s.setGrid g).rota = s.rota := rfl
@[simp] theorem State.setGrid_serials (s : State) (g : Grid) : (s.setGrid g).serials = s.serials := rfl
@[simp] theorem State.setGrid_queues (s : State) (g : Grid) : (s.setGrid g).queues = s.queues := rfl
@[simp] theorem State.setGrid_ctxs (s : State) (g : Grid) : (s.setGrid g).ctxs = s.ctxs := rfl
@[simp] theorem State.setGrid_dev (s : State) (g : Grid) : (s.setGrid g).dev = s.dev := rfl
@[simp] theorem State.setGrid_turns (s : State) (g : Grid) : (s.setGrid g).turns = s.turns := rfl
@[simp] theorem State.setGrid_tick (s : State) (g : Grid) : (s.setGrid g).tick = s.tick := rfl
@[simp] theorem State.setGrid_cur (s : State) (g : Grid) : (s.setGrid g).cur = s.cur := rfl

@[simp] theorem State.setBf_grids (s : State) (k : Nat) (e : BfEngine) : (s.setBf k e).grids = s.grids := rfl
@[simp] theorem State.setBf_teams (s : State) (k : Nat) (e : BfEngine) : (s.setBf k e).teams = s.teams := rfl
@[simp] theorem State.setBf_groups (s : State) (k : Nat) (e : BfEngine) : (s.setBf k e).groups = s.groups := rfl
@[simp] theorem State.setBf_home (s : State) (k : Nat) (e : BfEngine) : (s.setBf k e).home = s.home := rfl
@[simp] theorem State.setBf_stores (s : State) (k : Nat) (e : BfEngine) : (s.setBf k e).stores = s.stores := rfl
@[simp] theorem State.setBf_sids (s : State) (k : Nat) (e : BfEngine) : (s.setBf k e).sids = s.sids := rfl
@[simp] theorem State.setBf_views (s : State) (k : Nat) (e : BfEngine) : (s.setBf k e).views = s.views := rfl
@[simp] theorem State.setBf_ilines (s : State) (k : Nat) (e : BfEngine) : (s.setBf k e).ilines = s.ilines := rfl
@[simp] theorem State.setBf_tlb (s : State) (k : Nat) (e : BfEngine) : (s.setBf k e).tlb = s.tlb := rfl
@[simp] theorem State.setBf_zwalks (s : State) (k : Nat) (e : BfEngine) : (s.setBf k e).zwalks = s.zwalks := rfl
@[simp] theorem State.setBf_cmds (s : State) (k : Nat) (e : BfEngine) : (s.setBf k e).cmds = s.cmds := rfl
@[simp] theorem State.setBf_arrived (s : State) (k : Nat) (e : BfEngine) : (s.setBf k e).arrived = s.arrived := rfl
@[simp] theorem State.setBf_referrals (s : State) (k : Nat) (e : BfEngine) : (s.setBf k e).referrals = s.referrals := rfl
@[simp] theorem State.setBf_sheets (s : State) (k : Nat) (e : BfEngine) : (s.setBf k e).sheets = s.sheets := rfl
@[simp] theorem State.setBf_orphans (s : State) (k : Nat) (e : BfEngine) : (s.setBf k e).orphans = s.orphans := rfl
@[simp] theorem State.setBf_holds (s : State) (k : Nat) (e : BfEngine) : (s.setBf k e).holds = s.holds := rfl
@[simp] theorem State.setBf_early (s : State) (k : Nat) (e : BfEngine) : (s.setBf k e).early = s.early := rfl
@[simp] theorem State.setBf_collSeq (s : State) (k : Nat) (e : BfEngine) : (s.setBf k e).collSeq = s.collSeq := rfl
@[simp] theorem State.setBf_collDone (s : State) (k : Nat) (e : BfEngine) : (s.setBf k e).collDone = s.collDone := rfl
@[simp] theorem State.setBf_rota (s : State) (k : Nat) (e : BfEngine) : (s.setBf k e).rota = s.rota := rfl
@[simp] theorem State.setBf_serials (s : State) (k : Nat) (e : BfEngine) : (s.setBf k e).serials = s.serials := rfl
@[simp] theorem State.setBf_queues (s : State) (k : Nat) (e : BfEngine) : (s.setBf k e).queues = s.queues := rfl
@[simp] theorem State.setBf_ctxs (s : State) (k : Nat) (e : BfEngine) : (s.setBf k e).ctxs = s.ctxs := rfl
@[simp] theorem State.setBf_dev (s : State) (k : Nat) (e : BfEngine) : (s.setBf k e).dev = s.dev := rfl
@[simp] theorem State.setBf_turns (s : State) (k : Nat) (e : BfEngine) : (s.setBf k e).turns = s.turns := rfl
@[simp] theorem State.setBf_tick (s : State) (k : Nat) (e : BfEngine) : (s.setBf k e).tick = s.tick := rfl
@[simp] theorem State.setBf_cur (s : State) (k : Nat) (e : BfEngine) : (s.setBf k e).cur = s.cur := rfl

@[simp] theorem State.bump_grids (s : State) : (s.bump ).grids = s.grids := rfl
@[simp] theorem State.bump_teams (s : State) : (s.bump ).teams = s.teams := rfl
@[simp] theorem State.bump_groups (s : State) : (s.bump ).groups = s.groups := rfl
@[simp] theorem State.bump_home (s : State) : (s.bump ).home = s.home := rfl
@[simp] theorem State.bump_stores (s : State) : (s.bump ).stores = s.stores := rfl
@[simp] theorem State.bump_sids (s : State) : (s.bump ).sids = s.sids := rfl
@[simp] theorem State.bump_views (s : State) : (s.bump ).views = s.views := rfl
@[simp] theorem State.bump_ilines (s : State) : (s.bump ).ilines = s.ilines := rfl
@[simp] theorem State.bump_tlb (s : State) : (s.bump ).tlb = s.tlb := rfl
@[simp] theorem State.bump_zwalks (s : State) : (s.bump ).zwalks = s.zwalks := rfl
@[simp] theorem State.bump_cmds (s : State) : (s.bump ).cmds = s.cmds := rfl
@[simp] theorem State.bump_arrived (s : State) : (s.bump ).arrived = s.arrived := rfl
@[simp] theorem State.bump_bf (s : State) : (s.bump ).bf = s.bf := rfl
@[simp] theorem State.bump_referrals (s : State) : (s.bump ).referrals = s.referrals := rfl
@[simp] theorem State.bump_sheets (s : State) : (s.bump ).sheets = s.sheets := rfl
@[simp] theorem State.bump_orphans (s : State) : (s.bump ).orphans = s.orphans := rfl
@[simp] theorem State.bump_holds (s : State) : (s.bump ).holds = s.holds := rfl
@[simp] theorem State.bump_early (s : State) : (s.bump ).early = s.early := rfl
@[simp] theorem State.bump_collSeq (s : State) : (s.bump ).collSeq = s.collSeq := rfl
@[simp] theorem State.bump_collDone (s : State) : (s.bump ).collDone = s.collDone := rfl
@[simp] theorem State.bump_rota (s : State) : (s.bump ).rota = s.rota := rfl
@[simp] theorem State.bump_serials (s : State) : (s.bump ).serials = s.serials := rfl
@[simp] theorem State.bump_queues (s : State) : (s.bump ).queues = s.queues := rfl
@[simp] theorem State.bump_ctxs (s : State) : (s.bump ).ctxs = s.ctxs := rfl
@[simp] theorem State.bump_dev (s : State) : (s.bump ).dev = s.dev := rfl
@[simp] theorem State.bump_turns (s : State) : (s.bump ).turns = s.turns := rfl
@[simp] theorem State.bump_cur (s : State) : (s.bump ).cur = s.cur := rfl

@[simp] theorem State.sendMsi_grids (s : State) (f v : Nat) : (s.sendMsi f v).grids = s.grids := rfl
@[simp] theorem State.sendMsi_teams (s : State) (f v : Nat) : (s.sendMsi f v).teams = s.teams := rfl
@[simp] theorem State.sendMsi_groups (s : State) (f v : Nat) : (s.sendMsi f v).groups = s.groups := rfl
@[simp] theorem State.sendMsi_home (s : State) (f v : Nat) : (s.sendMsi f v).home = s.home := rfl
@[simp] theorem State.sendMsi_stores (s : State) (f v : Nat) : (s.sendMsi f v).stores = s.stores := rfl
@[simp] theorem State.sendMsi_sids (s : State) (f v : Nat) : (s.sendMsi f v).sids = s.sids := rfl
@[simp] theorem State.sendMsi_views (s : State) (f v : Nat) : (s.sendMsi f v).views = s.views := rfl
@[simp] theorem State.sendMsi_ilines (s : State) (f v : Nat) : (s.sendMsi f v).ilines = s.ilines := rfl
@[simp] theorem State.sendMsi_tlb (s : State) (f v : Nat) : (s.sendMsi f v).tlb = s.tlb := rfl
@[simp] theorem State.sendMsi_zwalks (s : State) (f v : Nat) : (s.sendMsi f v).zwalks = s.zwalks := rfl
@[simp] theorem State.sendMsi_cmds (s : State) (f v : Nat) : (s.sendMsi f v).cmds = s.cmds := rfl
@[simp] theorem State.sendMsi_arrived (s : State) (f v : Nat) : (s.sendMsi f v).arrived = s.arrived := rfl
@[simp] theorem State.sendMsi_bf (s : State) (f v : Nat) : (s.sendMsi f v).bf = s.bf := rfl
@[simp] theorem State.sendMsi_referrals (s : State) (f v : Nat) : (s.sendMsi f v).referrals = s.referrals := rfl
@[simp] theorem State.sendMsi_sheets (s : State) (f v : Nat) : (s.sendMsi f v).sheets = s.sheets := rfl
@[simp] theorem State.sendMsi_orphans (s : State) (f v : Nat) : (s.sendMsi f v).orphans = s.orphans := rfl
@[simp] theorem State.sendMsi_holds (s : State) (f v : Nat) : (s.sendMsi f v).holds = s.holds := rfl
@[simp] theorem State.sendMsi_early (s : State) (f v : Nat) : (s.sendMsi f v).early = s.early := rfl
@[simp] theorem State.sendMsi_collSeq (s : State) (f v : Nat) : (s.sendMsi f v).collSeq = s.collSeq := rfl
@[simp] theorem State.sendMsi_collDone (s : State) (f v : Nat) : (s.sendMsi f v).collDone = s.collDone := rfl
@[simp] theorem State.sendMsi_rota (s : State) (f v : Nat) : (s.sendMsi f v).rota = s.rota := rfl
@[simp] theorem State.sendMsi_serials (s : State) (f v : Nat) : (s.sendMsi f v).serials = s.serials := rfl
@[simp] theorem State.sendMsi_queues (s : State) (f v : Nat) : (s.sendMsi f v).queues = s.queues := rfl
@[simp] theorem State.sendMsi_ctxs (s : State) (f v : Nat) : (s.sendMsi f v).ctxs = s.ctxs := rfl
@[simp] theorem State.sendMsi_turns (s : State) (f v : Nat) : (s.sendMsi f v).turns = s.turns := rfl
@[simp] theorem State.sendMsi_tick (s : State) (f v : Nat) : (s.sendMsi f v).tick = s.tick := rfl
@[simp] theorem State.sendMsi_cur (s : State) (f v : Nat) : (s.sendMsi f v).cur = s.cur := rfl

@[simp] theorem State.setCtx_grids (s : State) (c : Context) : (s.setCtx c).grids = s.grids := rfl
@[simp] theorem State.setCtx_teams (s : State) (c : Context) : (s.setCtx c).teams = s.teams := rfl
@[simp] theorem State.setCtx_groups (s : State) (c : Context) : (s.setCtx c).groups = s.groups := rfl
@[simp] theorem State.setCtx_home (s : State) (c : Context) : (s.setCtx c).home = s.home := rfl
@[simp] theorem State.setCtx_stores (s : State) (c : Context) : (s.setCtx c).stores = s.stores := rfl
@[simp] theorem State.setCtx_sids (s : State) (c : Context) : (s.setCtx c).sids = s.sids := rfl
@[simp] theorem State.setCtx_views (s : State) (c : Context) : (s.setCtx c).views = s.views := rfl
@[simp] theorem State.setCtx_ilines (s : State) (c : Context) : (s.setCtx c).ilines = s.ilines := rfl
@[simp] theorem State.setCtx_tlb (s : State) (c : Context) : (s.setCtx c).tlb = s.tlb := rfl
@[simp] theorem State.setCtx_zwalks (s : State) (c : Context) : (s.setCtx c).zwalks = s.zwalks := rfl
@[simp] theorem State.setCtx_cmds (s : State) (c : Context) : (s.setCtx c).cmds = s.cmds := rfl
@[simp] theorem State.setCtx_arrived (s : State) (c : Context) : (s.setCtx c).arrived = s.arrived := rfl
@[simp] theorem State.setCtx_bf (s : State) (c : Context) : (s.setCtx c).bf = s.bf := rfl
@[simp] theorem State.setCtx_referrals (s : State) (c : Context) : (s.setCtx c).referrals = s.referrals := rfl
@[simp] theorem State.setCtx_sheets (s : State) (c : Context) : (s.setCtx c).sheets = s.sheets := rfl
@[simp] theorem State.setCtx_orphans (s : State) (c : Context) : (s.setCtx c).orphans = s.orphans := rfl
@[simp] theorem State.setCtx_holds (s : State) (c : Context) : (s.setCtx c).holds = s.holds := rfl
@[simp] theorem State.setCtx_early (s : State) (c : Context) : (s.setCtx c).early = s.early := rfl
@[simp] theorem State.setCtx_collSeq (s : State) (c : Context) : (s.setCtx c).collSeq = s.collSeq := rfl
@[simp] theorem State.setCtx_collDone (s : State) (c : Context) : (s.setCtx c).collDone = s.collDone := rfl
@[simp] theorem State.setCtx_rota (s : State) (c : Context) : (s.setCtx c).rota = s.rota := rfl
@[simp] theorem State.setCtx_serials (s : State) (c : Context) : (s.setCtx c).serials = s.serials := rfl
@[simp] theorem State.setCtx_queues (s : State) (c : Context) : (s.setCtx c).queues = s.queues := rfl
@[simp] theorem State.setCtx_dev (s : State) (c : Context) : (s.setCtx c).dev = s.dev := rfl
@[simp] theorem State.setCtx_turns (s : State) (c : Context) : (s.setCtx c).turns = s.turns := rfl
@[simp] theorem State.setCtx_tick (s : State) (c : Context) : (s.setCtx c).tick = s.tick := rfl
@[simp] theorem State.setCtx_cur (s : State) (c : Context) : (s.setCtx c).cur = s.cur := rfl

@[simp] theorem State.renew_grids (s : State) (k : Nat) : (s.renew k).grids = s.grids := rfl
@[simp] theorem State.renew_teams (s : State) (k : Nat) : (s.renew k).teams = s.teams := rfl
@[simp] theorem State.renew_groups (s : State) (k : Nat) : (s.renew k).groups = s.groups := rfl
@[simp] theorem State.renew_home (s : State) (k : Nat) : (s.renew k).home = s.home := rfl
@[simp] theorem State.renew_stores (s : State) (k : Nat) : (s.renew k).stores = s.stores := rfl
@[simp] theorem State.renew_sids (s : State) (k : Nat) : (s.renew k).sids = s.sids := rfl
@[simp] theorem State.renew_ilines (s : State) (k : Nat) : (s.renew k).ilines = s.ilines := rfl
@[simp] theorem State.renew_tlb (s : State) (k : Nat) : (s.renew k).tlb = s.tlb := rfl
@[simp] theorem State.renew_zwalks (s : State) (k : Nat) : (s.renew k).zwalks = s.zwalks := rfl
@[simp] theorem State.renew_cmds (s : State) (k : Nat) : (s.renew k).cmds = s.cmds := rfl
@[simp] theorem State.renew_arrived (s : State) (k : Nat) : (s.renew k).arrived = s.arrived := rfl
@[simp] theorem State.renew_bf (s : State) (k : Nat) : (s.renew k).bf = s.bf := rfl
@[simp] theorem State.renew_referrals (s : State) (k : Nat) : (s.renew k).referrals = s.referrals := rfl
@[simp] theorem State.renew_sheets (s : State) (k : Nat) : (s.renew k).sheets = s.sheets := rfl
@[simp] theorem State.renew_orphans (s : State) (k : Nat) : (s.renew k).orphans = s.orphans := rfl
@[simp] theorem State.renew_holds (s : State) (k : Nat) : (s.renew k).holds = s.holds := rfl
@[simp] theorem State.renew_early (s : State) (k : Nat) : (s.renew k).early = s.early := rfl
@[simp] theorem State.renew_collSeq (s : State) (k : Nat) : (s.renew k).collSeq = s.collSeq := rfl
@[simp] theorem State.renew_collDone (s : State) (k : Nat) : (s.renew k).collDone = s.collDone := rfl
@[simp] theorem State.renew_rota (s : State) (k : Nat) : (s.renew k).rota = s.rota := rfl
@[simp] theorem State.renew_serials (s : State) (k : Nat) : (s.renew k).serials = s.serials := rfl
@[simp] theorem State.renew_queues (s : State) (k : Nat) : (s.renew k).queues = s.queues := rfl
@[simp] theorem State.renew_ctxs (s : State) (k : Nat) : (s.renew k).ctxs = s.ctxs := rfl
@[simp] theorem State.renew_dev (s : State) (k : Nat) : (s.renew k).dev = s.dev := rfl
@[simp] theorem State.renew_turns (s : State) (k : Nat) : (s.renew k).turns = s.turns := rfl
@[simp] theorem State.renew_tick (s : State) (k : Nat) : (s.renew k).tick = s.tick := rfl
@[simp] theorem State.renew_cur (s : State) (k : Nat) : (s.renew k).cur = s.cur := rfl

@[simp] theorem State.codeHold_grids (s : State) (c p n : Nat) : (s.codeHold c p n).grids = s.grids := rfl
@[simp] theorem State.codeHold_teams (s : State) (c p n : Nat) : (s.codeHold c p n).teams = s.teams := rfl
@[simp] theorem State.codeHold_groups (s : State) (c p n : Nat) : (s.codeHold c p n).groups = s.groups := rfl
@[simp] theorem State.codeHold_home (s : State) (c p n : Nat) : (s.codeHold c p n).home = s.home := rfl
@[simp] theorem State.codeHold_stores (s : State) (c p n : Nat) : (s.codeHold c p n).stores = s.stores := rfl
@[simp] theorem State.codeHold_sids (s : State) (c p n : Nat) : (s.codeHold c p n).sids = s.sids := rfl
@[simp] theorem State.codeHold_views (s : State) (c p n : Nat) : (s.codeHold c p n).views = s.views := rfl
@[simp] theorem State.codeHold_tlb (s : State) (c p n : Nat) : (s.codeHold c p n).tlb = s.tlb := rfl
@[simp] theorem State.codeHold_zwalks (s : State) (c p n : Nat) : (s.codeHold c p n).zwalks = s.zwalks := rfl
@[simp] theorem State.codeHold_cmds (s : State) (c p n : Nat) : (s.codeHold c p n).cmds = s.cmds := rfl
@[simp] theorem State.codeHold_arrived (s : State) (c p n : Nat) : (s.codeHold c p n).arrived = s.arrived := rfl
@[simp] theorem State.codeHold_bf (s : State) (c p n : Nat) : (s.codeHold c p n).bf = s.bf := rfl
@[simp] theorem State.codeHold_referrals (s : State) (c p n : Nat) : (s.codeHold c p n).referrals = s.referrals := rfl
@[simp] theorem State.codeHold_sheets (s : State) (c p n : Nat) : (s.codeHold c p n).sheets = s.sheets := rfl
@[simp] theorem State.codeHold_orphans (s : State) (c p n : Nat) : (s.codeHold c p n).orphans = s.orphans := rfl
@[simp] theorem State.codeHold_holds (s : State) (c p n : Nat) : (s.codeHold c p n).holds = s.holds := rfl
@[simp] theorem State.codeHold_early (s : State) (c p n : Nat) : (s.codeHold c p n).early = s.early := rfl
@[simp] theorem State.codeHold_collSeq (s : State) (c p n : Nat) : (s.codeHold c p n).collSeq = s.collSeq := rfl
@[simp] theorem State.codeHold_collDone (s : State) (c p n : Nat) : (s.codeHold c p n).collDone = s.collDone := rfl
@[simp] theorem State.codeHold_rota (s : State) (c p n : Nat) : (s.codeHold c p n).rota = s.rota := rfl
@[simp] theorem State.codeHold_serials (s : State) (c p n : Nat) : (s.codeHold c p n).serials = s.serials := rfl
@[simp] theorem State.codeHold_queues (s : State) (c p n : Nat) : (s.codeHold c p n).queues = s.queues := rfl
@[simp] theorem State.codeHold_ctxs (s : State) (c p n : Nat) : (s.codeHold c p n).ctxs = s.ctxs := rfl
@[simp] theorem State.codeHold_dev (s : State) (c p n : Nat) : (s.codeHold c p n).dev = s.dev := rfl
@[simp] theorem State.codeHold_turns (s : State) (c p n : Nat) : (s.codeHold c p n).turns = s.turns := rfl
@[simp] theorem State.codeHold_tick (s : State) (c p n : Nat) : (s.codeHold c p n).tick = s.tick := rfl
@[simp] theorem State.codeHold_cur (s : State) (c p n : Nat) : (s.codeHold c p n).cur = s.cur := rfl

@[simp] theorem State.setCmd_grids (s : State) (c : Command) : (s.setCmd c).grids = s.grids := rfl
@[simp] theorem State.setCmd_teams (s : State) (c : Command) : (s.setCmd c).teams = s.teams := rfl
@[simp] theorem State.setCmd_groups (s : State) (c : Command) : (s.setCmd c).groups = s.groups := rfl
@[simp] theorem State.setCmd_home (s : State) (c : Command) : (s.setCmd c).home = s.home := rfl
@[simp] theorem State.setCmd_stores (s : State) (c : Command) : (s.setCmd c).stores = s.stores := rfl
@[simp] theorem State.setCmd_sids (s : State) (c : Command) : (s.setCmd c).sids = s.sids := rfl
@[simp] theorem State.setCmd_views (s : State) (c : Command) : (s.setCmd c).views = s.views := rfl
@[simp] theorem State.setCmd_ilines (s : State) (c : Command) : (s.setCmd c).ilines = s.ilines := rfl
@[simp] theorem State.setCmd_tlb (s : State) (c : Command) : (s.setCmd c).tlb = s.tlb := rfl
@[simp] theorem State.setCmd_zwalks (s : State) (c : Command) : (s.setCmd c).zwalks = s.zwalks := rfl
@[simp] theorem State.setCmd_arrived (s : State) (c : Command) : (s.setCmd c).arrived = s.arrived := rfl
@[simp] theorem State.setCmd_bf (s : State) (c : Command) : (s.setCmd c).bf = s.bf := rfl
@[simp] theorem State.setCmd_referrals (s : State) (c : Command) : (s.setCmd c).referrals = s.referrals := rfl
@[simp] theorem State.setCmd_sheets (s : State) (c : Command) : (s.setCmd c).sheets = s.sheets := rfl
@[simp] theorem State.setCmd_orphans (s : State) (c : Command) : (s.setCmd c).orphans = s.orphans := rfl
@[simp] theorem State.setCmd_holds (s : State) (c : Command) : (s.setCmd c).holds = s.holds := rfl
@[simp] theorem State.setCmd_early (s : State) (c : Command) : (s.setCmd c).early = s.early := rfl
@[simp] theorem State.setCmd_collSeq (s : State) (c : Command) : (s.setCmd c).collSeq = s.collSeq := rfl
@[simp] theorem State.setCmd_collDone (s : State) (c : Command) : (s.setCmd c).collDone = s.collDone := rfl
@[simp] theorem State.setCmd_rota (s : State) (c : Command) : (s.setCmd c).rota = s.rota := rfl
@[simp] theorem State.setCmd_serials (s : State) (c : Command) : (s.setCmd c).serials = s.serials := rfl
@[simp] theorem State.setCmd_queues (s : State) (c : Command) : (s.setCmd c).queues = s.queues := rfl
@[simp] theorem State.setCmd_ctxs (s : State) (c : Command) : (s.setCmd c).ctxs = s.ctxs := rfl
@[simp] theorem State.setCmd_dev (s : State) (c : Command) : (s.setCmd c).dev = s.dev := rfl
@[simp] theorem State.setCmd_turns (s : State) (c : Command) : (s.setCmd c).turns = s.turns := rfl
@[simp] theorem State.setCmd_tick (s : State) (c : Command) : (s.setCmd c).tick = s.tick := rfl
@[simp] theorem State.setCmd_cur (s : State) (c : Command) : (s.setCmd c).cur = s.cur := rfl

@[simp] theorem State.setQueue_grids (s : State) (n : Nat) (q : Queue) : (s.setQueue n q).grids = s.grids := rfl
@[simp] theorem State.setQueue_teams (s : State) (n : Nat) (q : Queue) : (s.setQueue n q).teams = s.teams := rfl
@[simp] theorem State.setQueue_groups (s : State) (n : Nat) (q : Queue) : (s.setQueue n q).groups = s.groups := rfl
@[simp] theorem State.setQueue_home (s : State) (n : Nat) (q : Queue) : (s.setQueue n q).home = s.home := rfl
@[simp] theorem State.setQueue_stores (s : State) (n : Nat) (q : Queue) : (s.setQueue n q).stores = s.stores := rfl
@[simp] theorem State.setQueue_sids (s : State) (n : Nat) (q : Queue) : (s.setQueue n q).sids = s.sids := rfl
@[simp] theorem State.setQueue_views (s : State) (n : Nat) (q : Queue) : (s.setQueue n q).views = s.views := rfl
@[simp] theorem State.setQueue_ilines (s : State) (n : Nat) (q : Queue) : (s.setQueue n q).ilines = s.ilines := rfl
@[simp] theorem State.setQueue_tlb (s : State) (n : Nat) (q : Queue) : (s.setQueue n q).tlb = s.tlb := rfl
@[simp] theorem State.setQueue_zwalks (s : State) (n : Nat) (q : Queue) : (s.setQueue n q).zwalks = s.zwalks := rfl
@[simp] theorem State.setQueue_cmds (s : State) (n : Nat) (q : Queue) : (s.setQueue n q).cmds = s.cmds := rfl
@[simp] theorem State.setQueue_arrived (s : State) (n : Nat) (q : Queue) : (s.setQueue n q).arrived = s.arrived := rfl
@[simp] theorem State.setQueue_bf (s : State) (n : Nat) (q : Queue) : (s.setQueue n q).bf = s.bf := rfl
@[simp] theorem State.setQueue_referrals (s : State) (n : Nat) (q : Queue) : (s.setQueue n q).referrals = s.referrals := rfl
@[simp] theorem State.setQueue_sheets (s : State) (n : Nat) (q : Queue) : (s.setQueue n q).sheets = s.sheets := rfl
@[simp] theorem State.setQueue_orphans (s : State) (n : Nat) (q : Queue) : (s.setQueue n q).orphans = s.orphans := rfl
@[simp] theorem State.setQueue_holds (s : State) (n : Nat) (q : Queue) : (s.setQueue n q).holds = s.holds := rfl
@[simp] theorem State.setQueue_early (s : State) (n : Nat) (q : Queue) : (s.setQueue n q).early = s.early := rfl
@[simp] theorem State.setQueue_collSeq (s : State) (n : Nat) (q : Queue) : (s.setQueue n q).collSeq = s.collSeq := rfl
@[simp] theorem State.setQueue_collDone (s : State) (n : Nat) (q : Queue) : (s.setQueue n q).collDone = s.collDone := rfl
@[simp] theorem State.setQueue_rota (s : State) (n : Nat) (q : Queue) : (s.setQueue n q).rota = s.rota := rfl
@[simp] theorem State.setQueue_serials (s : State) (n : Nat) (q : Queue) : (s.setQueue n q).serials = s.serials := rfl
@[simp] theorem State.setQueue_ctxs (s : State) (n : Nat) (q : Queue) : (s.setQueue n q).ctxs = s.ctxs := rfl
@[simp] theorem State.setQueue_dev (s : State) (n : Nat) (q : Queue) : (s.setQueue n q).dev = s.dev := rfl
@[simp] theorem State.setQueue_turns (s : State) (n : Nat) (q : Queue) : (s.setQueue n q).turns = s.turns := rfl
@[simp] theorem State.setQueue_tick (s : State) (n : Nat) (q : Queue) : (s.setQueue n q).tick = s.tick := rfl
@[simp] theorem State.setQueue_cur (s : State) (n : Nat) (q : Queue) : (s.setQueue n q).cur = s.cur := rfl

@[simp] theorem State.setSheet_grids (s : State) (x : Sheet) : (s.setSheet x).grids = s.grids := rfl
@[simp] theorem State.setSheet_teams (s : State) (x : Sheet) : (s.setSheet x).teams = s.teams := rfl
@[simp] theorem State.setSheet_groups (s : State) (x : Sheet) : (s.setSheet x).groups = s.groups := rfl
@[simp] theorem State.setSheet_home (s : State) (x : Sheet) : (s.setSheet x).home = s.home := rfl
@[simp] theorem State.setSheet_stores (s : State) (x : Sheet) : (s.setSheet x).stores = s.stores := rfl
@[simp] theorem State.setSheet_sids (s : State) (x : Sheet) : (s.setSheet x).sids = s.sids := rfl
@[simp] theorem State.setSheet_views (s : State) (x : Sheet) : (s.setSheet x).views = s.views := rfl
@[simp] theorem State.setSheet_ilines (s : State) (x : Sheet) : (s.setSheet x).ilines = s.ilines := rfl
@[simp] theorem State.setSheet_tlb (s : State) (x : Sheet) : (s.setSheet x).tlb = s.tlb := rfl
@[simp] theorem State.setSheet_zwalks (s : State) (x : Sheet) : (s.setSheet x).zwalks = s.zwalks := rfl
@[simp] theorem State.setSheet_cmds (s : State) (x : Sheet) : (s.setSheet x).cmds = s.cmds := rfl
@[simp] theorem State.setSheet_arrived (s : State) (x : Sheet) : (s.setSheet x).arrived = s.arrived := rfl
@[simp] theorem State.setSheet_bf (s : State) (x : Sheet) : (s.setSheet x).bf = s.bf := rfl
@[simp] theorem State.setSheet_referrals (s : State) (x : Sheet) : (s.setSheet x).referrals = s.referrals := rfl
@[simp] theorem State.setSheet_orphans (s : State) (x : Sheet) : (s.setSheet x).orphans = s.orphans := rfl
@[simp] theorem State.setSheet_holds (s : State) (x : Sheet) : (s.setSheet x).holds = s.holds := rfl
@[simp] theorem State.setSheet_early (s : State) (x : Sheet) : (s.setSheet x).early = s.early := rfl
@[simp] theorem State.setSheet_collSeq (s : State) (x : Sheet) : (s.setSheet x).collSeq = s.collSeq := rfl
@[simp] theorem State.setSheet_collDone (s : State) (x : Sheet) : (s.setSheet x).collDone = s.collDone := rfl
@[simp] theorem State.setSheet_rota (s : State) (x : Sheet) : (s.setSheet x).rota = s.rota := rfl
@[simp] theorem State.setSheet_serials (s : State) (x : Sheet) : (s.setSheet x).serials = s.serials := rfl
@[simp] theorem State.setSheet_queues (s : State) (x : Sheet) : (s.setSheet x).queues = s.queues := rfl
@[simp] theorem State.setSheet_ctxs (s : State) (x : Sheet) : (s.setSheet x).ctxs = s.ctxs := rfl
@[simp] theorem State.setSheet_dev (s : State) (x : Sheet) : (s.setSheet x).dev = s.dev := rfl
@[simp] theorem State.setSheet_turns (s : State) (x : Sheet) : (s.setSheet x).turns = s.turns := rfl
@[simp] theorem State.setSheet_tick (s : State) (x : Sheet) : (s.setSheet x).tick = s.tick := rfl
@[simp] theorem State.setSheet_cur (s : State) (x : Sheet) : (s.setSheet x).cur = s.cur := rfl

@[simp] theorem State.served_grids (s : State) (q a : Nat) : (s.served q a).grids = s.grids := rfl
@[simp] theorem State.served_teams (s : State) (q a : Nat) : (s.served q a).teams = s.teams := rfl
@[simp] theorem State.served_groups (s : State) (q a : Nat) : (s.served q a).groups = s.groups := rfl
@[simp] theorem State.served_home (s : State) (q a : Nat) : (s.served q a).home = s.home := rfl
@[simp] theorem State.served_stores (s : State) (q a : Nat) : (s.served q a).stores = s.stores := rfl
@[simp] theorem State.served_sids (s : State) (q a : Nat) : (s.served q a).sids = s.sids := rfl
@[simp] theorem State.served_views (s : State) (q a : Nat) : (s.served q a).views = s.views := rfl
@[simp] theorem State.served_ilines (s : State) (q a : Nat) : (s.served q a).ilines = s.ilines := rfl
@[simp] theorem State.served_tlb (s : State) (q a : Nat) : (s.served q a).tlb = s.tlb := rfl
@[simp] theorem State.served_zwalks (s : State) (q a : Nat) : (s.served q a).zwalks = s.zwalks := rfl
@[simp] theorem State.served_cmds (s : State) (q a : Nat) : (s.served q a).cmds = s.cmds := rfl
@[simp] theorem State.served_arrived (s : State) (q a : Nat) : (s.served q a).arrived = s.arrived := rfl
@[simp] theorem State.served_bf (s : State) (q a : Nat) : (s.served q a).bf = s.bf := rfl
@[simp] theorem State.served_referrals (s : State) (q a : Nat) : (s.served q a).referrals = s.referrals := rfl
@[simp] theorem State.served_sheets (s : State) (q a : Nat) : (s.served q a).sheets = s.sheets := rfl
@[simp] theorem State.served_orphans (s : State) (q a : Nat) : (s.served q a).orphans = s.orphans := rfl
@[simp] theorem State.served_holds (s : State) (q a : Nat) : (s.served q a).holds = s.holds := rfl
@[simp] theorem State.served_early (s : State) (q a : Nat) : (s.served q a).early = s.early := rfl
@[simp] theorem State.served_collSeq (s : State) (q a : Nat) : (s.served q a).collSeq = s.collSeq := rfl
@[simp] theorem State.served_collDone (s : State) (q a : Nat) : (s.served q a).collDone = s.collDone := rfl
@[simp] theorem State.served_serials (s : State) (q a : Nat) : (s.served q a).serials = s.serials := rfl
@[simp] theorem State.served_queues (s : State) (q a : Nat) : (s.served q a).queues = s.queues := rfl
@[simp] theorem State.served_ctxs (s : State) (q a : Nat) : (s.served q a).ctxs = s.ctxs := rfl
@[simp] theorem State.served_dev (s : State) (q a : Nat) : (s.served q a).dev = s.dev := rfl
@[simp] theorem State.served_turns (s : State) (q a : Nat) : (s.served q a).turns = s.turns := rfl
@[simp] theorem State.served_tick (s : State) (q a : Nat) : (s.served q a).tick = s.tick := rfl
@[simp] theorem State.served_cur (s : State) (q a : Nat) : (s.served q a).cur = s.cur := rfl

@[simp] theorem State.chargeLine_grids (s : State) (a k p : Nat) : (s.chargeLine a k p).grids = s.grids := rfl
@[simp] theorem State.chargeLine_teams (s : State) (a k p : Nat) : (s.chargeLine a k p).teams = s.teams := rfl
@[simp] theorem State.chargeLine_groups (s : State) (a k p : Nat) : (s.chargeLine a k p).groups = s.groups := rfl
@[simp] theorem State.chargeLine_home (s : State) (a k p : Nat) : (s.chargeLine a k p).home = s.home := rfl
@[simp] theorem State.chargeLine_stores (s : State) (a k p : Nat) : (s.chargeLine a k p).stores = s.stores := rfl
@[simp] theorem State.chargeLine_sids (s : State) (a k p : Nat) : (s.chargeLine a k p).sids = s.sids := rfl
@[simp] theorem State.chargeLine_views (s : State) (a k p : Nat) : (s.chargeLine a k p).views = s.views := rfl
@[simp] theorem State.chargeLine_ilines (s : State) (a k p : Nat) : (s.chargeLine a k p).ilines = s.ilines := rfl
@[simp] theorem State.chargeLine_tlb (s : State) (a k p : Nat) : (s.chargeLine a k p).tlb = s.tlb := rfl
@[simp] theorem State.chargeLine_zwalks (s : State) (a k p : Nat) : (s.chargeLine a k p).zwalks = s.zwalks := rfl
@[simp] theorem State.chargeLine_cmds (s : State) (a k p : Nat) : (s.chargeLine a k p).cmds = s.cmds := rfl
@[simp] theorem State.chargeLine_arrived (s : State) (a k p : Nat) : (s.chargeLine a k p).arrived = s.arrived := rfl
@[simp] theorem State.chargeLine_bf (s : State) (a k p : Nat) : (s.chargeLine a k p).bf = s.bf := rfl
@[simp] theorem State.chargeLine_referrals (s : State) (a k p : Nat) : (s.chargeLine a k p).referrals = s.referrals := rfl
@[simp] theorem State.chargeLine_sheets (s : State) (a k p : Nat) : (s.chargeLine a k p).sheets = s.sheets := rfl
@[simp] theorem State.chargeLine_orphans (s : State) (a k p : Nat) : (s.chargeLine a k p).orphans = s.orphans := rfl
@[simp] theorem State.chargeLine_holds (s : State) (a k p : Nat) : (s.chargeLine a k p).holds = s.holds := rfl
@[simp] theorem State.chargeLine_early (s : State) (a k p : Nat) : (s.chargeLine a k p).early = s.early := rfl
@[simp] theorem State.chargeLine_collSeq (s : State) (a k p : Nat) : (s.chargeLine a k p).collSeq = s.collSeq := rfl
@[simp] theorem State.chargeLine_collDone (s : State) (a k p : Nat) : (s.chargeLine a k p).collDone = s.collDone := rfl
@[simp] theorem State.chargeLine_rota (s : State) (a k p : Nat) : (s.chargeLine a k p).rota = s.rota := rfl
@[simp] theorem State.chargeLine_serials (s : State) (a k p : Nat) : (s.chargeLine a k p).serials = s.serials := rfl
@[simp] theorem State.chargeLine_queues (s : State) (a k p : Nat) : (s.chargeLine a k p).queues = s.queues := rfl
@[simp] theorem State.chargeLine_dev (s : State) (a k p : Nat) : (s.chargeLine a k p).dev = s.dev := rfl
@[simp] theorem State.chargeLine_turns (s : State) (a k p : Nat) : (s.chargeLine a k p).turns = s.turns := rfl
@[simp] theorem State.chargeLine_tick (s : State) (a k p : Nat) : (s.chargeLine a k p).tick = s.tick := rfl
@[simp] theorem State.chargeLine_cur (s : State) (a k p : Nat) : (s.chargeLine a k p).cur = s.cur := rfl

@[simp] theorem State.setBf_bf (s : State) (k : Nat) (e : BfEngine) : (s.setBf k e).bf = Table.put s.bf k e := rfl
@[simp] theorem State.served_rota (s : State) (q a : Nat) : (s.served q a).rota = Table.set 0 s.rota q a := rfl
@[simp] theorem State.bump_tick (s : State) : s.bump.tick = s.tick + 1 := rfl
@[simp] theorem State.setQueue_queues (s : State) (n : Nat) (q : Queue) : (s.setQueue n q).queues = Table.set {} s.queues n q := rfl

/-! ### Charges: counters of contexts alone move (R428) -/

theorem State.chargeLines_eq (s : State) (a k : Nat) (l : List Nat) : ∃ c, s.chargeLines a k l = { s with ctxs := c } := by
  unfold State.chargeLines
  induction l generalizing s with
  | nil => exact ⟨s.ctxs, rfl⟩
  | cons p l ih => obtain ⟨c, h⟩ := ih (s.chargeLine a k p); exact ⟨c, h⟩
theorem State.chargeVa_eq (s : State) (u : Nat) (c : Context) (k : Nat) (va : Word64) : ∃ l, s.chargeVa u c k va = { s with ctxs := l } :=
  s.chargeLines_eq c.asid k _
@[simp] theorem State.chargeLines_groups (s : State) (a k : Nat) (l : List Nat) : (s.chargeLines a k l).groups = s.groups := by
  obtain ⟨c, h⟩ := s.chargeLines_eq a k l; rw [h]
@[simp] theorem State.chargeLines_teams (s : State) (a k : Nat) (l : List Nat) : (s.chargeLines a k l).teams = s.teams := by
  obtain ⟨c, h⟩ := s.chargeLines_eq a k l; rw [h]
@[simp] theorem State.chargeLines_grids (s : State) (a k : Nat) (l : List Nat) : (s.chargeLines a k l).grids = s.grids := by
  obtain ⟨c, h⟩ := s.chargeLines_eq a k l; rw [h]
@[simp] theorem State.chargeLines_home (s : State) (a k : Nat) (l : List Nat) : (s.chargeLines a k l).home = s.home := by
  obtain ⟨c, h⟩ := s.chargeLines_eq a k l; rw [h]
@[simp] theorem State.chargeVa_groups (s : State) (u : Nat) (c : Context) (k : Nat) (va : Word64) : (s.chargeVa u c k va).groups = s.groups := by
  obtain ⟨l, h⟩ := s.chargeVa_eq u c k va; rw [h]
@[simp] theorem State.chargeVa_home (s : State) (u : Nat) (c : Context) (k : Nat) (va : Word64) : (s.chargeVa u c k va).home = s.home := by
  obtain ⟨l, h⟩ := s.chargeVa_eq u c k va; rw [h]

end Sys2Proof.Machine
end

