-- ==== Sys2Proof/Laws/Retire.lean ====
section
/-!
SUPPORT. What the retiring of a word does, once for every word: the machine around the group is as it was, and the next word of the
run sees the lanes, the S registers and the effects that the word left.
-/
namespace Sys2Proof.Machine
open Sys2Proof

/-! ### Groups in the list -/

theorem find?_map_self (l : List Group) (g : Group) :
    ((l.map fun x => if x.ref = g.ref then g else x).find? fun x => decide (x.ref = g.ref))
      = (l.find? fun x => decide (x.ref = g.ref)).map fun _ => g := by
  induction l with
  | nil => rfl
  | cons x l ih =>
    by_cases h : x.ref = g.ref
    · simp [h]
    · simp [h, ih]

theorem find?_map_other (l : List Group) (g : Group) (r : GRef) (hr : r ≠ g.ref) :
    ((l.map fun x => if x.ref = g.ref then g else x).find? fun x => decide (x.ref = r))
      = l.find? fun x => decide (x.ref = r) := by
  induction l with
  | nil => rfl
  | cons x l ih =>
    by_cases h : x.ref = g.ref
    · simp [h, Ne.symm hr, ih]
    · by_cases h2 : x.ref = r
      · simp [h2, hr]
      · simp [h, h2, ih]

/-- A group put back is found, where a group of its name was there. -/
theorem State.setGroup_group?_self (s : State) (g : Group) :
    (s.setGroup g).group? g.ref = (s.group? g.ref).map fun _ => g := find?_map_self s.groups g

/-- Every other group is as it was. -/
theorem State.setGroup_group?_other (s : State) (g : Group) (r : GRef) (hr : r ≠ g.ref) :
    (s.setGroup g).group? r = s.group? r := find?_map_other s.groups g r hr

theorem State.group?_ref {s : State} {r : GRef} {g : Group} (h : s.group? r = some g) : g.ref = r := by
  simpa using List.find?_some h

/-! ### The environment of a word -/

/-- What it means that a word is in execution. -/
theorem env?_inv {s : State} {e : Env} (h : env? s = some e) :
    e.s = s ∧ s.cur = some (e.g.ref, e.b) ∧ s.group? e.g.ref = some e.g ∧ e.g.round = some e.rd ∧ e.rd.run? e.b = some e.r ∧
      e.pkt = s.pkt e.g.ref.grid ∧ e.ctx = (s.gridCtx? e.g.ref.grid).getD { asid := 0, desc := 0 } ∧
      e.team = s.liveTeam e.g.core e.ctx ((s.team? e.g.ref.tref).getD { ref := e.g.ref.tref }) ∧ e.log0 = e.team.log := by
  unfold env? at h
  cases hc : s.cur with
  | none => simp [hc] at h
  | some c =>
    cases hg : s.group? c.1 with
    | none => simp [hc, hg] at h
    | some g =>
      cases hr : g.round with
      | none => simp [hc, hg, hr] at h
      | some rd =>
        cases hx : rd.run? c.2 with
        | none => simp [hc, hg, hr, hx] at h
        | some r =>
          simp only [hc, hg, hr, hx, Option.bind_some, Option.map_some, Option.some.injEq] at h
          have href := State.group?_ref hg
          subst h
          refine ⟨rfl, ?_, ?_, hr, hx, rfl, rfl, rfl, rfl⟩
          · simp [href]
          · simp [href, hg]

theorem Round.run?_setRun (rd : Round) (b : Stream) (r : Run) : (rd.setRun b r).run? b = some r := by cases b <;> rfl

/-- The environment of the next word of a run, once the group, its round and the run are written back. -/
theorem env?_close {e : Env} {g0 : Group} (hc : e.s.cur = some (e.g.ref, e.b)) (hg : e.s.group? e.g.ref = some g0) :
    env? e.close = some
      { s := e.close, g := { e.g with round := some (e.rd.setRun e.b e.r) }, rd := e.rd.setRun e.b e.r, r := e.r, b := e.b,
        pkt := e.s.pkt e.g.ref.grid
        team := e.close.liveTeam e.g.core ((e.s.gridCtx? e.g.ref.grid).getD { asid := 0, desc := 0 })
          ((e.s.team? e.g.ref.tref).getD { ref := e.g.ref.tref })
        ctx := (e.s.gridCtx? e.g.ref.grid).getD { asid := 0, desc := 0 }
        log0 := (e.close.liveTeam e.g.core ((e.s.gridCtx? e.g.ref.grid).getD { asid := 0, desc := 0 })
          ((e.s.team? e.g.ref.tref).getD { ref := e.g.ref.tref })).log } := by
  have h1 : e.close.cur = some (e.g.ref, e.b) := hc
  have h2 : e.close.group? e.g.ref = some { e.g with round := some (e.rd.setRun e.b e.r) } := by
    have := State.setGroup_group?_self e.s { e.g with round := some (e.rd.setRun e.b e.r) }
    simpa [Env.close, hg] using this
  simp [env?, h1, h2, Round.run?_setRun]
  exact ⟨rfl, rfl, rfl, rfl⟩

/-! ### Threads -/

theorem Group.lane_of_lt (g : Group) {t : Nat} (h : t < g.lanes.length) : g.lane t = g.lanes[t] := by
  simp [Group.lane, h]

theorem Group.lane_of_ge (g : Group) {t : Nat} (h : g.lanes.length ≤ t) : g.lane t = {} := by
  simp [Group.lane, h]

theorem Group.mapLanes_length (g : Group) (f : Nat → Thread → Thread) : (g.mapLanes f).lanes.length = g.lanes.length := by
  simp [Group.mapLanes]

theorem Group.mapLanes_lane (g : Group) (f : Nat → Thread → Thread) (t : Nat) :
    (g.mapLanes f).lane t = if t < g.lanes.length then f t (g.lane t) else {} := by
  by_cases h : t < g.lanes.length
  · simp [Group.lane, Group.mapLanes, h]
  · simp [Group.lane, Group.mapLanes, h]

/-- The write of a word to a lane: the writes of the list that name it, in order. -/
def onLane (l : List LaneWrite) (L : Nat) (t : Thread) : Thread :=
  l.foldl (fun t w => if w.lane = L then t.apply w else t) t

theorem applyAll_length (g : Group) (l : List LaneWrite) : (g.applyAll l).lanes.length = g.lanes.length := by
  unfold Group.applyAll
  suffices ∀ ls : List Thread, (l.foldl (fun ls w => ls.modify w.lane fun t => t.apply w) ls).length = ls.length from this _
  induction l with
  | nil => intro ls; rfl
  | cons w l ih => intro ls; simp [ih]

theorem applyAll_lane (g : Group) (l : List LaneWrite) {L : Nat} (h : L < g.lanes.length) :
    (g.applyAll l).lane L = onLane l L (g.lane L) := by
  unfold Group.applyAll onLane
  suffices ∀ (ls : List Thread) (h : L < ls.length),
      ((l.foldl (fun ls w => ls.modify w.lane fun t => t.apply w) ls)[L]?).getD {} =
        l.foldl (fun t w => if w.lane = L then t.apply w else t) ls[L] by
    have := this g.lanes h
    simpa [Group.lane, h] using this
  induction l with
  | nil => intro ls h; simp [h]
  | cons w l ih =>
    intro ls h
    rw [List.foldl_cons, ih _ (by simpa using h)]
    simp [List.getElem_modify]

/-- Writes that name each lane at most once: the lane's own write. -/
theorem onLane_map (E : List Nat) (f : Nat → LaneWrite) (hl : ∀ t ∈ E, (f t).lane = t) (hn : E.Nodup) (L : Nat) (t : Thread) :
    onLane (E.map f) L t = if L ∈ E then t.apply (f L) else t := by
  unfold onLane
  induction E generalizing t with
  | nil => simp
  | cons a E ih =>
    have ha : a ∉ E := (List.nodup_cons.mp hn).1
    have hE := fun t => ih (fun x hx => hl x (List.mem_cons_of_mem _ hx)) (List.nodup_cons.mp hn).2 t
    simp only [List.map_cons, List.foldl_cons, hE, hl a List.mem_cons_self]
    by_cases h : a = L
    · subst h; simp [ha]
    · have h' : L ≠ a := fun x => h x.symm
      simp [h, h']

theorem Env.setE_nodup (e : Env) (o : OpF) : (e.setE o).Nodup := by
  unfold Env.setE Env.exec Env.active maskLanes
  split
  · exact ((List.nodup_range).filter _).filter _
  · exact (List.nodup_range).filter _

theorem Env.exec_nodup (e : Env) (a b : Bool) (c : BitVec 3) : (e.exec a b c).Nodup := by
  unfold Env.exec Env.active maskLanes
  split
  · exact ((List.nodup_range).filter _).filter _
  · exact (List.nodup_range).filter _

/-! ### The retiring of a word -/

/-- The thread of lane `L` after a word: its writes, then its PC (R82, R159). -/
def afterWord (e : Env) (d : Delta) (L : Nat) : Thread :=
  let t := onLane d.lanes L (e.th L)
  if e.r.active.getLsbD L then
    { t with pc := ((((d.pcs.getD []).find? fun p => decide (p.1 = L)).map (·.2)).getD (e.r.at_ + 8)) }
  else t

/-- The group of `retire` before it is written back. -/
theorem movePcs_lane (g : Group) (m : LaneMask) (next : Word64) (pcs : Option (List (Nat × Word64))) {L : Nat} (h : L < g.lanes.length) :
    (movePcs g m next pcs).lane L =
      if m.getLsbD L then
        { g.lane L with pc := ((((pcs.getD []).find? fun p => decide (p.1 = L)).map (·.2)).getD next) }
      else g.lane L := by
  rw [movePcs, Group.mapLanes_lane, if_pos h]

theorem applyAll_movePcs_lane (g : Group) (l : List LaneWrite) (rs : List Raised) (m : LaneMask) (next : Word64)
    (pcs : Option (List (Nat × Word64))) {L : Nat} (h : L < g.lanes.length) :
    (movePcs { g.applyAll l with raised := rs } m next pcs).lane L =
      if m.getLsbD L then
        { onLane l L (g.lane L) with pc := ((((pcs.getD []).find? fun p => decide (p.1 = L)).map (·.2)).getD next) }
      else onLane l L (g.lane L) := by
  have h' : L < ({ g.applyAll l with raised := rs } : Group).lanes.length := by simpa [applyAll_length] using h
  rw [movePcs_lane _ _ _ _ h']
  have : ({ g.applyAll l with raised := rs } : Group).lane L = onLane l L (g.lane L) := applyAll_lane g l h
  rw [this]

/-- What a word's writes never touch in a thread. -/
theorem onLane_keeps (l : List LaneWrite) (L : Nat) (t : Thread) :
    onLane l L t = { t with v := (onLane l L t).v, x := (onLane l L t).x, pred := (onLane l L t).pred, flags := (onLane l L t).flags,
                            ct := (onLane l L t).ct, dcode := (onLane l L t).dcode } := by
  induction l generalizing t with
  | nil => rfl
  | cons w l ih =>
    unfold onLane at ih ⊢
    rw [List.foldl_cons]
    split
    · rw [ih]; rfl
    · exact ih t

/-- What a word never touches in a thread. -/
theorem afterWord_keeps (e : Env) (d : Delta) (L : Nat) :
    afterWord e d L = { e.th L with v := (afterWord e d L).v, x := (afterWord e d L).x, pred := (afterWord e d L).pred,
                                    flags := (afterWord e d L).flags, ct := (afterWord e d L).ct, dcode := (afterWord e d L).dcode,
                                    pc := (afterWord e d L).pc } := by
  have h := onLane_keeps d.lanes L (e.th L)
  unfold afterWord
  split
  · conv_lhs => rw [h]
  · conv_lhs => rw [h]
    conv_rhs => rw [h]

/-- The one law of `retire`: what the next word sees, and what stays. `e` is the environment as the word leaves it, over the machine
`e.s`, whose word in execution it is. -/
theorem retire_spec {e : Env} {g0 : Group} (rb : Bool) (d : Delta) (hc : e.s.cur = some (e.g.ref, e.b))
    (hg : e.s.group? e.g.ref = some g0) :
    ∃ e', Retires e.s (retire rb e d) e e' rb ∧
      (∀ L, L < e.g.lanes.length → e'.th L = afterWord e d L) ∧
      e'.r.s = d.sregs.foldl (fun s p => Table.set {} s p.1 p.2) e.r.s ∧
      e'.r.written = e.r.written ++ d.sregs.map (·.1) ∧
      e'.r.deferred = e.r.deferred ++ d.defer.map (fun f => { pc := e.r.at_, pos := e.r.pos + 1, b := e.b, begun := e.rd.begun, form := f }) ∧
      e'.r.effects = e.r.effects ++ d.effs ∧
      e'.r.ctl = e.r.ctl ++ d.ctl ∧
      e'.r.pause = d.pause.or e.r.pause ∧
      e'.r.exit = d.exit.map (fun l => (e.r.at_, e.r.pos + 1, l)) ∧
      e'.r.tfence = e.r.tfence.or (if d.tfence then some (e.r.at_, e.r.pos + 1) else none) ∧
      e'.g.raised = e.g.raised ++ raisedBy (pkTrapEn e.pkt) e.g.level e.b (e.r.pos + 1) e.r.at_ d.lanes ∧
      e'.pkt = e.s.pkt e.g.ref.grid ∧ e'.b = e.b := by
  unfold retire
  refine ⟨_, ⟨env?_close (by exact hc) (by exact hg), ?_, ?_, ?_, ?_, ?_, ?_, ?_⟩, ?_, rfl, rfl, rfl, rfl, rfl, rfl, rfl, rfl, rfl, rfl, rfl⟩
  · rfl
  · intro h hne
    exact State.setGroup_group?_other _ _ _ hne
  · rfl
  · simp [movePcs, Group.mapLanes_length, applyAll_length]
  · intro L
    by_cases hL : L < e.g.lanes.length
    · have h1 := applyAll_movePcs_lane e.g d.lanes
        (e.g.raised ++ raisedBy (pkTrapEn e.pkt) e.g.level e.b (e.r.pos + 1) e.r.at_ d.lanes) e.r.active (e.r.at_ + 8) d.pcs hL
      have h2 : ∀ T : Thread, T = afterWord e d L →
          T = { e.th L with v := T.v, x := T.x, pred := T.pred, flags := T.flags, ct := T.ct, dcode := T.dcode, pc := T.pc } := by
        intro T hT; rw [hT]; exact afterWord_keeps e d L
      exact h2 _ h1
    · have h1 : e.g.lanes.length ≤ L := Nat.le_of_not_lt hL
      have h2 : e.th L = {} := Group.lane_of_ge _ h1
      have h3 : ∀ T : Thread, T = {} →
          T = { e.th L with v := T.v, x := T.x, pred := T.pred, flags := T.flags, ct := T.ct, dcode := T.dcode, pc := T.pc } := by
        intro T hT; rw [hT, h2]
      refine h3 _ (Group.lane_of_ge _ ?_)
      simpa [movePcs, Group.mapLanes_length, applyAll_length] using h1
  · rfl
  · rfl
  · intro L hL
    exact applyAll_movePcs_lane e.g d.lanes _ e.r.active (e.r.at_ + 8) d.pcs hL

end Sys2Proof.Machine
end

