-- ==== Sys2Proof/Laws/Words.lean ====
section
/-!
SUPPORT. What a word of each shape does, once for the shape: a word that retires, a lane word, a uniform word, a deferred write.
-/
namespace Sys2Proof.Machine
open Sys2Proof

/-- A word in execution: how it ends. -/
theorem word_eq {s : State} {e : Env} (h : env? s = some e) (rb : Bool) (f : Env → WordOut) :
    word rb s f = match f e with
      | .retire e d => .next (retire rb e d)
      | .fault e c a l k d => .next (faultWord e c a l k d)
      | .stall s => .next s := by
  unfold word
  rw [h]
  all_goals rfl

/-- The shapes of words, in execution. -/
theorem laneFixed_eq {s : State} {e : Env} (h : env? s = some e) (o : OpF) (f : Env → Nat → LaneWrite) :
    laneFixed o f s = .next (retire o.rb e { lanes := (e.setE o).map (f e) }) := word_eq h _ _
theorem laneVariable_eq {s : State} {e : Env} (h : env? s = some e) (o : OpF) (f : Env → Nat → LaneWrite) :
    laneVariable o f s = .next (retire o.rb e { defer := [.ready ((e.setE o).map (f e)) []] }) := word_eq h _ _
theorem laneImm_eq {s : State} {e : Env} (h : env? s = some e) (o : OpI) (f : Word32 → Word32 → Word32) :
    laneImm o f s = 
      .next (retire o.rb e { lanes := (e.exec o.ge o.gn o.gd).map (fun t =>
        e.put32 t o.d { w := f (e.v32 t o.a).w (o.imm.signExtend 32), t := (e.v32 t o.a).t }) }) := word_eq h _ _
theorem uniFixed_eq {s : State} {e : Env} (h : env? s = some e) (o : OpF) (f : Word64 → Word64 → Word64) :
    uniFixed o f s = .next (retire o.rb e
      { sregs := e.putS o.d { w := f (e.us o.a).w (e.us o.b).w, t := (e.us o.a).t || (e.us o.b).t } }) := word_eq h _ _
theorem uniImm_eq {s : State} {e : Env} (h : env? s = some e) (o : OpI) (f : Word64 → Word64 → Word64) :
    uniImm o f s = .next (retire o.rb e { sregs := e.putS o.d { w := f (e.us o.a).w (immOf o), t := (e.us o.a).t } }) := word_eq h _ _

/-- All that a word which retires with `d` does, over its own unchanged environment. -/
theorem retire_next {s : State} {e : Env} (h : env? s = some e) {i : Instr} {d : Delta} (hi : exec i s = .next (retire (rbOf i) e d)) :
    ∃ t e', exec i s = .next t ∧ Retires s t e e' (rbOf i) ∧
      (∀ L, L < e.g.lanes.length → e'.th L = afterWord e d L) ∧
      e'.r.s = d.sregs.foldl (fun s p => Table.set {} s p.1 p.2) e.r.s ∧
      e'.r.written = e.r.written ++ d.sregs.map (·.1) ∧
      e'.r.deferred = e.r.deferred ++ d.defer.map (fun f => { pc := e.r.at_, pos := e.r.pos + 1, b := e.b, begun := e.rd.begun, form := f }) ∧
      e'.r.effects = e.r.effects ++ d.effs ∧
      e'.r.ctl = e.r.ctl ++ d.ctl ∧
      e'.r.pause = d.pause.or e.r.pause ∧
      e'.r.exit = d.exit.map (fun l => (e.r.at_, e.r.pos + 1, l)) ∧
      e'.r.tfence = e.r.tfence.or (if d.tfence then some (e.r.at_, e.r.pos + 1) else none) ∧
      e'.g.raised = e.g.raised ++ raisedBy (pkTrapEn e.pkt) e.g.level e.b (e.r.pos + 1) e.r.at_ d.lanes ∧
      e'.pkt = e.s.pkt e.g.ref.grid ∧ e'.b = e.b := by
  obtain ⟨hs, hc, hg, -⟩ := env?_inv h
  obtain ⟨e', h'⟩ := retire_spec (e := e) (g0 := e.g) (rbOf i) d (by rw [hs]; exact hc) (by rw [hs]; exact hg)
  rw [hs] at h'
  exact ⟨_, e', hi, h'.1, by rw [hs]; exact h'.2⟩

/-- The thread of a lane after a word without a control transfer whose writes name each lane once. -/
theorem afterWord_lanes (e : Env) (E : List Nat) (f : Nat → LaneWrite) (hl : ∀ t ∈ E, (f t).lane = t) (hn : E.Nodup) (L : Nat) :
    afterWord e { lanes := E.map f } L =
      (let t := if L ∈ E then (e.th L).apply (f L) else e.th L
       if e.r.active.getLsbD L then { t with pc := e.r.at_ + 8 } else t) := by
  unfold afterWord
  simp only [onLane_map E f hl hn]
  simp

/-- The PC of a lane after a word without a control transfer. -/
theorem afterWord_pc (e : Env) (d : Delta) (hp : d.pcs = none) (L : Nat) :
    (afterWord e d L).pc = if e.r.active.getLsbD L then e.r.at_ + 8 else (e.th L).pc := by
  have h : (onLane d.lanes L (e.th L)).pc = (e.th L).pc := by rw [onLane_keeps]
  unfold afterWord
  split
  · simp [hp]
  · exact h

/-- A word that writes no lane leaves every lane register. -/
theorem afterWord_none (e : Env) (d : Delta) (hd : d.lanes = []) (hp : d.pcs = none) (L : Nat) :
    afterWord e d L = if e.r.active.getLsbD L then { e.th L with pc := e.r.at_ + 8 } else e.th L := by
  unfold afterWord
  simp [hd, hp, onLane]

theorem Thread.apply_vreg_one (t : Thread) (n k : Nat) (c : VCell) (w : LaneWrite) (hw : w.v = [(k, c)]) :
    (t.apply w).vreg n = if n = k then c else t.vreg n := by
  simp [Thread.vreg, Thread.apply, hw]
/-- The lanes of a word that raise an enabled flag at level 0 (R450). -/
theorem raisedBy_map (en : BitVec 6) (level : BitVec 2) (b : Stream) (pos : Nat) (pc : Word64) (E : List Nat) (f : Nat → LaneWrite)
    (fl : Nat → BitVec 6) (hl : ∀ L, (f L).lane = L) (hf : ∀ L, (f L).raise = fl L) :
    raisedBy en level b pos pc (E.map f) = if level = 0 then
      (E.filter fun L => fl L &&& en ≠ 0).map fun L => { b := b, pos := pos, pc := pc, lane := L } else [] := by
  by_cases h : level = 0
  · simp only [raisedBy, h, ne_eq, not_true_eq_false, if_false, if_true, List.filter_map, List.map_map]
    congr 1
    · funext L; simp [hl]
    · congr 1; funext L; simp [hf, bne, BEq.beq]
  · unfold raisedBy; rw [if_pos h, if_neg h]

/-- A word that writes the lanes of a set with no lane twice (R82): every lane of the set takes its write, and nothing else happens. -/
theorem lanes_word {s : State} {e : Env} (h : env? s = some e) (i : Instr) (E : List Nat) (hn : E.Nodup) (f : Nat → LaneWrite)
    (hl : ∀ L, (f L).lane = L) (hi : exec i s = .next (retire (rbOf i) e { lanes := E.map f })) :
    ∃ t e', exec i s = .next t ∧ Retires s t e e' (rbOf i) ∧
      (∀ L, L < e.g.lanes.length → e'.th L =
        (let t := if L ∈ E then (e.th L).apply (f L) else e.th L
         if e.r.active.getLsbD L then { t with pc := e.r.at_ + 8 } else t)) ∧
      NextPcs e e' ∧ KeepsS e e' ∧ KeepsBoundary e e' ∧
      e'.g.raised = e.g.raised ++ raisedBy (pkTrapEn e.pkt) e.g.level e.b (e.r.pos + 1) e.r.at_ (E.map f) := by
  obtain ⟨t, e', h1, h2, h3, h4, h5, h6, h7, h8, h9, h10, h11, h12, -⟩ :=
    retire_next h hi
  refine ⟨t, e', h1, h2, ?_, ?_, ⟨by simpa using h4, by simpa using h5⟩,
    ⟨by simpa using h6, by simpa using h7, by simpa using h8, by simpa using h9, by simpa using h10, by simpa using h11⟩, h12⟩
  · intro L hL
    rw [h3 L hL]
    exact afterWord_lanes e E f (fun t _ => hl t) hn L
  · intro L hL
    rw [h3 L hL]; exact afterWord_pc e _ rfl L

/-- A word that writes V registers and raises flags in the lanes of a set. -/
theorem lane_word {s : State} {e : Env} (h : env? s = some e) (i : Instr) (E : List Nat) (hn : E.Nodup) (f : Nat → LaneWrite)
    (hi : exec i s = .next (retire (rbOf i) e { lanes := E.map f })) (val : Nat → Nat → Option VCell) (fl : Nat → BitVec 6)
    (hf : ∀ L, (f L).lane = L ∧ (f L).x = [] ∧ (f L).preds = [] ∧ (f L).flags = none ∧ (f L).ct = false ∧ (f L).dcode = none ∧
      (f L).raise = fl L ∧ ∀ n, ((e.th L).apply (f L)).vreg n = (val L n).getD ((e.th L).vreg n)) :
    LaneWord s e i E val fl := by
  obtain ⟨t, e', h1, h2, hth, hp, hs, hb, hr⟩ := lanes_word h i E hn f (fun L => (hf L).1) hi
  refine ⟨t, e', h1, h2, ?_, ⟨?_, ?_⟩, ?_, ?_, ?_, hp, hs, hb⟩
  · intro L hL n
    rw [hth L hL]
    by_cases hE : L ∈ E
    · simp only [hE, if_true]; split <;> exact (hf L).2.2.2.2.2.2.2 n
    · simp only [hE, if_false]; split <;> simp [Thread.vreg]
  · intro L hL
    rw [hth L hL]
    by_cases hE : L ∈ E
    · simp only [hE, if_true]; split <;> simp [Thread.apply, (hf L).2.2.2.1, (hf L).2.2.2.2.2.2.1]
    · simp only [hE, if_false]; split <;> rfl
  · rw [hr, raisedBy_map _ _ _ _ _ E f fl (fun L => (hf L).1) fun L => (hf L).2.2.2.2.2.2.1]
  · intro L hL
    rw [hth L hL]
    by_cases hE : L ∈ E
    · simp only [hE, if_true]; split <;> simp [Thread.apply, (hf L).2.1]
    · simp only [hE, if_false]; split <;> rfl
  · intro L hL
    rw [hth L hL]
    by_cases hE : L ∈ E
    · simp only [hE, if_true]; split <;> simp [Thread.apply, (hf L).2.2.1]
    · simp only [hE, if_false]; split <;> rfl
  · intro L hL
    rw [hth L hL]
    by_cases hE : L ∈ E
    · simp only [hE, if_true]; split <;> simp [Thread.apply, (hf L).2.2.2.2.1, (hf L).2.2.2.2.2.1]
    · simp only [hE, if_false]; split <;> exact ⟨rfl, rfl⟩

/-- The register that a 32-bit lane write leaves. -/
theorem apply_put32 (e : Env) (L : Nat) (d : BitVec 8) (x : Val 32) (n : Nat) :
    ((e.th L).apply (e.put32 L d x)).vreg n = (reg32 d x.w (e.dt L x.t) n).getD ((e.th L).vreg n) := by
  simp only [Thread.vreg, Thread.apply, Env.put32, reg32, List.foldl_cons, List.foldl_nil, Table.get_set]
  split <;> simp

/-- The registers that a 64-bit lane write leaves. -/
theorem apply_put64 (e : Env) (L : Nat) (d : BitVec 8) (x : Val 64) (n : Nat) :
    ((e.th L).apply (e.put64 L d x)).vreg n = (reg64 d x.w (e.dt L x.t) n).getD ((e.th L).vreg n) := by
  simp only [Thread.vreg, Thread.apply, Env.put64, reg64, List.foldl_cons, List.foldl_nil, Table.get_set]
  split
  · simp
  · split <;> simp

/-- A uniform word (R226): the S registers it writes, and nothing else. -/
theorem uniform_word {s : State} {e : Env} (h : env? s = some e) (i : Instr) (l : List (Nat × SCell))
    (hi : exec i s = .next (retire (rbOf i) e { sregs := l })) (val : Nat → Option SCell)
    (hv : ∀ n, Table.get {} (l.foldl (fun s p => Table.set {} s p.1 p.2) e.r.s) n = (val n).getD (e.scell n)) :
    UniformWord s e i val := by
  obtain ⟨t, e', h1, h2, h3, h4, h5, h6, h7, h8, h9, h10, h11, -⟩ := retire_next h hi
  refine ⟨t, e', h1, h2, ?_, ?_, ?_,
    ⟨by simpa using h6, by simpa using h7, by simpa using h8, by simpa using h9, by simpa using h10, by simpa using h11⟩⟩
  · intro n
    unfold Env.scell
    rw [h4]
    exact hv n
  · intro L
    by_cases hL : L < e.g.lanes.length
    · rw [h3 L hL, afterWord_none e _ rfl rfl]
      split <;> exact ⟨rfl, rfl, rfl, rfl, rfl, rfl⟩
    · have a : e.th L = {} := Group.lane_of_ge _ (Nat.le_of_not_lt hL)
      have b : e'.th L = {} := Group.lane_of_ge _ (by rw [h2.count]; exact Nat.le_of_not_lt hL)
      rw [a, b]
      exact ⟨rfl, rfl, rfl, rfl, rfl, rfl⟩
  · intro L hL
    rw [h3 L hL]; exact afterWord_pc e _ rfl L

/-- A word that leaves one deferred write (R83), and nothing else. -/
theorem defers_word {s : State} {e : Env} (h : env? s = some e) (i : Instr) (d : DForm)
    (hi : exec i s = .next (retire (rbOf i) e { defer := [d] })) : DefersWord s e i d := by
  obtain ⟨t, e', h1, h2, h3, h4, h5, h6, h7, h8, h9, h10, h11, -⟩ := retire_next h hi
  refine ⟨t, e', h1, h2, ?_, ?_, ⟨by simpa using h4, by simpa using h5⟩, by simpa using h6,
    by simpa using h7, by simpa using h8, by simpa using h9, by simpa using h10, by simpa using h11⟩
  · intro L
    by_cases hL : L < e.g.lanes.length
    · rw [h3 L hL, afterWord_none e _ rfl rfl]
      split <;> exact ⟨rfl, rfl, rfl, rfl, rfl, rfl⟩
    · have a : e.th L = {} := Group.lane_of_ge _ (Nat.le_of_not_lt hL)
      have b : e'.th L = {} := Group.lane_of_ge _ (by rw [h2.count]; exact Nat.le_of_not_lt hL)
      rw [a, b]
      exact ⟨rfl, rfl, rfl, rfl, rfl, rfl⟩
  · intro L hL
    rw [h3 L hL]; exact afterWord_pc e _ rfl L

end Sys2Proof.Machine
end

