-- ==== Sys2Proof/Machine/Kernel.lean ====
section
/-!
DEFINITION. The kernel object and its loading: the header, the role table and the relocations, what the driver refuses, the writes by which it
places an image, and the packet fields that a kernel gives (03_assembly_language.md R59 to R71). It is software that acts through
the host link; what the device does with the result is in the other files.
-/
namespace Sys2Proof.Machine
open Sys2Proof

/-! ### What icas emits (R59, R60, R63, R64) -/

/-- The word that pads text: NOP with RB = 1 (R64). -/
def padWord : Word64 := 0x94E0000000000000

/-- A word that icas may emit into the text of a kernel: one that meets no ILLEGAL check of R44, a control transfer with RB = 1 (R41), and
names no vector or interval register at or above the largest counts that a role of the kernel declares (R59). -/
def icasEmits (vregs xregs : Nat) (w : Word64) : Bool :=
  match decode w with
  | .ok i => wellFormed i && (vregsOf i).all (fun n => decide (n < vregs)) && (xregsOf i).all fun n => decide (n < xregs)
  | .error _ => false

/-- The text with the run boundaries that icas sets: the 24th word of a stretch without one gets RB = 1; `n` words of the stretch stand
before (R60). -/
def setBoundaries : Nat → List Word64 → List Word64
  | _, [] => []
  | n, w :: rest =>
    if w.getLsbD 63 then w :: setBoundaries 0 rest
    else if n = 23 then (w ||| 0x8000000000000000#64) :: setBoundaries 0 rest
    else w :: setBoundaries (n + 1) rest

/-- The scratchpad request that icas accepts: bytes a multiple of 64, log nodes in their range, both within 4 MiB (R61, R63). -/
def requestOk (bytes scratchNodes spillNodes : Nat) : Bool :=
  decide (bytes % 64 = 0) && decide (scratchNodes % 256 = 0) && decide (scratchNodes ≤ 49152) &&
    decide (spillNodes % 256 = 0) && decide (spillNodes ≤ 2 ^ 31) && decide (bytes + 16 * scratchNodes ≤ 4194304)

/-! ### The object (R67 to R69) -/

/-- The kinds of relocation (R69). -/
inductive RelocKind where
  | abs64 | imm32lo | imm32hi
  deriving DecidableEq, Repr

/-- A relocation: its site and its addend, as offsets from the image base (R69). -/
structure Reloc where
  kind : RelocKind
  site : Nat
  addend : Int
  deriving DecidableEq, Repr

abbrev KernelHeader := BitVec 512
def khMagic (h : KernelHeader) : Nat := bits h 0 32
def khIsaGen (h : KernelHeader) : Nat := bits h 32 8
def khHdrVer (h : KernelHeader) : Nat := bits h 40 8
def khRoles (h : KernelHeader) : Nat := bits h 48 8
def khTeamGroups (h : KernelHeader) : Nat := bits h 56 8
def khCodeOff (h : KernelHeader) : Nat := bits h 64 32
def khCodeBytes (h : KernelHeader) : Nat := bits h 96 32
def khEntryOff (h : KernelHeader) : Nat := bits h 128 32
def khScratch (h : KernelHeader) : Nat := bits h 160 32
def khLogScr (h : KernelHeader) : Nat := bits h 192 16
def khSheets (h : KernelHeader) : Nat := bits h 208 16
def khLogSpill (h : KernelHeader) : Nat := bits h 224 32
def khConstOff (h : KernelHeader) : Nat := bits h 256 32
def khConstBytes (h : KernelHeader) : Nat := bits h 288 32
def khDataOff (h : KernelHeader) : Nat := bits h 320 32
def khDataBytes (h : KernelHeader) : Nat := bits h 352 32
def khRelocOff (h : KernelHeader) : Nat := bits h 384 32
def khRelocCount (h : KernelHeader) : Nat := bits h 416 32
/-- Bits 511:448 hold 0 (R67). -/
def khReservedOk (h : KernelHeader) : Bool := decide (bits h 448 64 = 0)

/-- A kernel object that the driver has read: header, role table, image and relocations (R67 to R70). -/
structure KernelObject where
  header : KernelHeader
  roles : BitVec 256
  image : List Byte
  relocs : List Reloc
  deriving DecidableEq, Repr

/-- The role-table entry of a role (R68). -/
def KernelObject.role (k : KernelObject) (r : Nat) : Nat := bits k.roles (64 * r) 24

/-- `n` bytes of an object from an offset. -/
def objectSlice (o : List Byte) (off n : Nat) : List Byte := (o.drop off).take n

/-- A relocation entry; a nonzero reserved field or another kind is refused (R67, R69). -/
def readReloc (e : BitVec 128) : Option Reloc :=
  let r (k : RelocKind) : Reloc := { kind := k, site := bits e 0 32, addend := (e.extractLsb' 64 64).toInt }
  if bits e 40 24 ≠ 0 then none
  else match bits e 32 8 with
    | 1 => some (r .abs64)
    | 2 => some (r .imm32lo)
    | 3 => some (r .imm32hi)
    | _ => none

/-- The relocation table from an offset on (R69). -/
def readRelocs (o : List Byte) (off : Nat) : Nat → Option (List Reloc)
  | 0 => some []
  | n + 1 =>
    match readReloc (BitVec.ofNat 128 (leNat (objectSlice o off 16))), readRelocs o (off + 16) n with
    | some r, some rest => some (r :: rest)
    | _, _ => none

/-- A word of layout W: its opcode fixes the layout (R29). -/
def layoutW (w : Word64) : Bool := !w.getLsbD 62 && (ctorW (fieldsW w) (w.extractLsb' 52 10).toNat).isSome

/-- The site of a relocation is one that the driver accepts: of kind 2 or 3 only a layout-W word, which stands at a multiple of 8 within
the text, the first bytes of the image (R27, R70). -/
def siteOk (codeBytes : Nat) (image : List Byte) (r : Reloc) : Bool :=
  r.kind == .abs64 ||
    (decide (r.site % 8 = 0) && decide (r.site + 8 ≤ codeBytes) && decide (r.site + 8 ≤ image.length) &&
      layoutW (BitVec.ofNat 64 (leNat (objectSlice image r.site 8))))

/-- The driver's reading of an object: none where it refuses it (R67 to R70). R67 gives no response to an object whose CODE_OFF is not 128,
whose sections or relocation table break their alignment, or which is shorter than its offsets say: DESIGN CHOICE (log 83), the object is
taken as it stands, and a byte that it does not hold reads 0. -/
def readKernel (o : List Byte) : Option KernelObject :=
  let h : KernelHeader := BitVec.ofNat 512 (leNat (objectSlice o 0 64))
  let roles : BitVec 256 := BitVec.ofNat 256 (leNat (objectSlice o 64 32))
  let image := objectSlice o (khCodeOff h) (khDataOff h + khDataBytes h - khCodeOff h)
  if khMagic h ≠ 0x4F4B5A46 ∨ khIsaGen h ≠ 3 ∨ khHdrVer h ≠ 1 ∨ khReservedOk h = false then none
  else if (List.range 4).any (fun r => decide (bits roles (64 * r + 24) 40 ≠ 0)) then none
  else match readRelocs o (khRelocOff h) (khRelocCount h) with
    | none => none
    | some rs => if rs.all (siteOk (khCodeBytes h) image) then some { header := h, roles := roles, image := image, relocs := rs } else none

/-! ### Loading and launching (R70, R71) -/

/-- The value that a relocation computes, modulo 2⁶⁴ (R70). -/
def Reloc.value (base : Nat) (r : Reloc) : Word64 := BitVec.ofInt 64 (Int.ofNat base + r.addend)

/-- The write of a relocation: its address and its bytes (R70). -/
def Reloc.write (base : Nat) (r : Reloc) : Nat × List Byte :=
  match r.kind with
  | .abs64 => (base + r.site, leBytes (r.value base).toNat 8)
  | .imm32lo => (base + r.site, leBytes (bits (r.value base) 0 32) 4)
  | .imm32hi => (base + r.site, leBytes (bits (r.value base) 32 25) 4)

/-- The writes by which the driver loads an object at an image base, in their order: the image, then each relocation in table order; none
at a base that is not aligned to 4 KiB (R70). -/
def loadWrites (k : KernelObject) (base : Nat) : Option (List (Nat × List Byte)) :=
  if base % 4096 = 0 then some ((base, k.image) :: k.relocs.map (Reloc.write base)) else none

/-- The byte at an address after a list of writes, a later one prevailing; none where none of them writes it (R70). -/
def writtenByte (ws : List (Nat × List Byte)) (a : Nat) : Option Byte :=
  ws.foldl (fun r w => if w.1 ≤ a then (w.2[a - w.1]?).or r else r) none

/-- A packet with one field replaced. -/
def pkSet (p : Packet) (lo n v : Nat) : Packet :=
  BitVec.ofNat 1024 (p.toNat - bits p lo n * 2 ^ lo + v % 2 ^ n * 2 ^ lo)

/-- The launch packet with the fields that a kernel gives; the others stand as the launching program set them (R71). SCRATCH_BYTES has
32 bits in the header and 23 in the packet: of a value that does not fit the packet takes the low 23 bits. DESIGN CHOICE (log 84). -/
def packetOf (k : KernelObject) (base : Nat) (p : Packet) : Packet :=
  let f := [(0, 57, base + khEntryOff k.header), (57, 7, khIsaGen k.header), (128, 8, khTeamGroups k.header),
            (192, 23, khScratch k.header), (215, 16, khLogScr k.header), (256, 32, khLogSpill k.header),
            (320, 24, k.role 0), (344, 24, k.role 1), (384, 24, k.role 2), (408, 24, k.role 3)]
  f.foldl (fun p x => pkSet p x.1 x.2.1 x.2.2) p

end Sys2Proof.Machine
end

