-- ==== Sys2Proof/Tests/Slice0.lean ====
section
/-!
SUPPORT. Tests of the model against values that the spec gives or that follow from it by hand, and a witness for the hypotheses of every
statement.
-/
namespace Sys2Proof.Tests
set_option Elab.async false
open Sys2Proof Sys2Proof.Machine

/-! ### Well-formedness: an ill-formed term for each check -/

/-- A layout-F payload with every field 0 and RB = 1. -/
def zf : OpF := { rb := true, ge := false, gn := false, gd := 0, d := 0, a := 0, b := 0, c := 0, m := 0 }

/-- The valid forms beside which the tests below change one field. -/
theorem test_wf_valid : wellFormed (.add { zf with d := 4, a := 1, b := 2 }) = true ∧ wellFormed (.exit zf) = true ∧
    wellFormed (.movw { rb := true, ge := false, gn := false, gd := 0, d := 3, imm := 7 }) = true ∧ wellFormed .powerOn = true := by decide
/-- R35: GN or GD without GE. -/
theorem test_wf_guard : wellFormed (.add { zf with gn := true }) = false := by decide
/-- R35: a guard on a group-class word. -/
theorem test_wf_guard_class : wellFormed (.uadd { zf with ge := true }) = false := by decide
/-- R46: an unused field that is not 0. -/
theorem test_wf_unused : wellFormed (.add { zf with c := 1 }) = false := by decide
/-- R46: a reserved bit of M. -/
theorem test_wf_reserved_m : wellFormed (.add { zf with m := 1 }) = false := by decide
/-- R33: a type that the instruction does not accept (fadd.s32). -/
theorem test_wf_type : wellFormed (.fadd zf) = false := by decide
/-- R31: a vector destination that is no V register. -/
theorem test_wf_destination : wellFormed (.add { zf with d := 128 }) = false := by decide
/-- R31: an odd pair. -/
theorem test_wf_pair : wellFormed (.add { zf with d := 1, m := 2 * 2048 }) = false := by decide
/-- R226: UADD takes .s64 and .n64 alone; R30: its uniform fields name S0 to S255. -/
theorem test_wf_uniform : wellFormed (.uadd { zf with d := 128 }) = false ∧
    wellFormed (.uadd { zf with d := 128, a := 127, b := 255, m := 0x1000 }) = true ∧
    wellFormed (.uadd { zf with d := 255, m := 0x1000 }) = true := by decide
/-- R30: an interval register beyond X31. -/
theorem test_wf_interval : wellFormed (.xadd { zf with d := 32 }) = false := by decide
/-- R51: an immediate shift count above 31. -/
theorem test_wf_shift_count : wellFormed (.shlImm { rb := true, ge := false, gn := false, gd := 0, d := 0, a := 0, imm := 32 }) = false := by
  decide
/-- R41: a control transfer with RB = 0. -/
theorem test_wf_control_rb : wellFormed (.exit { zf with rb := false }) = false := by decide
/-- R38: two destinations of a paired word in one bank. -/
theorem test_wf_banks : wellFormed (.pairedWord
    { rb := true, s0 := { op := 1, d := 4, a := 1, b := 2 }, s1 := { op := 1, d := 8, a := 2, b := 3 } }) = false := by decide
/-- R39: a slot operation that the map does not hold. -/
theorem test_wf_slot : wellFormed (.pairedWord
    { rb := true, s0 := { op := 0x18, d := 4, a := 1, b := 2 }, s1 := { op := 1, d := 9, a := 2, b := 3 } }) = false := by decide
/-- R48: an implemented hint is no other hint. -/
theorem test_wf_hint : wellFormed (.hintNop { rb := false, idx := 2, rest := 0 }) = false := by decide

/-! ### Decoding: words written out from the encodings of the spec (R28, R29, R36, R50; the worked encodings of 02, 07, 09 to 16, 18) -/

theorem test_decode_add : decode 0x0010020081000000#64 = .ok (.add { zf with rb := false, d := 4, a := 1, b := 2 }) := rfl
/-- `ADD (I)`, opcode 0x030: v4 = v1 + 5. -/
theorem test_decode_add_imm : decode 0x0300020080000005#64 =
    .ok (.addImm { rb := false, ge := false, gn := false, gd := 0, d := 4, a := 1, imm := 5 }) := rfl
/-- `MOVW`, opcode 0x021. -/
theorem test_decode_movw : decode 0x02100200DEADBEEF#64 ≠ .ok (.movw { rb := false, ge := false, gn := false, gd := 0, d := 4, imm := 0 }) ∧
    decode 0x02100200DEADBEEF#64 = .ok (.movw { rb := false, ge := false, gn := false, gd := 0, d := 4, imm := 0xDEADBEEF }) :=
  ⟨by intro h; injection h with h; injection h with h; exact absurd (congrArg OpW.imm h) (by decide), rfl⟩
/-- R29: a layout-W word with a reserved bit set. -/
theorem test_decode_movw_reserved : decode 0x02100201DEADBEEF#64 = .error .reservedBits := rfl
/-- `UADD`, opcode 0x040: s2 = s0 + s1. -/
theorem test_decode_uadd : decode 0x0400010000801000#64 = .ok (.uadd { zf with rb := false, d := 2, a := 0, b := 1, m := 0x1000 }) := rfl
theorem test_decode_fadd : decode 0x880C8501D4004001#64 =
    .ok (.fadd { zf with ge := true, gn := true, gd := 1, d := 10, a := 3, b := 168, m := 0x4001 }) := rfl
theorem test_decode_qblk : decode 0x8C900401800A6000#64 = .ok (.qblk { zf with d := 8, a := 3, c := 20, m := 0x6000 }) := rfl
theorem test_decode_xcmp : decode 0x90D0000204800810#64 = .ok (.xcmp { zf with a := 4, b := 9, m := 0x810 }) := rfl
theorem test_decode_xadd : decode 0x1040018081000000#64 = .ok (.xadd { zf with rb := false, d := 3, a := 1, b := 2 }) := rfl
theorem test_decode_bra : decode 0x9488000000000008#64 =
    .ok (.bra { rb := true, ge := true, gn := false, gd := 0, d := 0, a := 0, imm := 8 }) := rfl
theorem test_decode_nop : decode 0x94E0000000000000#64 = .ok (.nop zf) := rfl
theorem test_decode_shfl : decode 0x1800048202800000#64 = .ok (.shfl { zf with rb := false, d := 9, a := 4, b := 5 }) := rfl
theorem test_decode_ld : decode 0x1C00030501824CA0#64 = .ok (.ld { zf with rb := false, d := 6, a := 10, b := 3, c := 4, m := 0x4CA0 }) := rfl
theorem test_decode_taint : decode 0x9C50000280000000#64 = .ok (.taint { zf with a := 5 }) := rfl
theorem test_decode_atom : decode 0xA000048601024DA4#64 = .ok (.atom { zf with d := 9, a := 12, b := 2, c := 4, m := 0x4DA4 }) := rfl
theorem test_decode_phase : decode 0xA400000000000002#64 = .ok (.phase { zf with m := 2 }) := rfl
theorem test_decode_cfence : decode 0xA420000000000010#64 = .ok (.cfence { zf with m := 16 }) := rfl
theorem test_decode_ordd : decode 0xA450000000000000#64 = .ok (.ordd zf) := rfl
theorem test_decode_tfence : decode 0xA470000000000000#64 = .ok (.tfence zf) := rfl
theorem test_decode_copy : decode 0xA8000F0A0B0C0100#64 = .ok (.copy { zf with d := 30, a := 20, b := 22, c := 24, m := 0x100 }) := rfl
theorem test_decode_bfstage : decode 0x2C700F0B00000110#64 = .ok (.bfstage { zf with rb := false, d := 30, a := 22, m := 0x110 }) := rfl
/-- `SWSTAT`, opcode 0x304: s2 from s1, selector 3. -/
theorem test_decode_swstat : decode 0x3040010080000003#64 = .ok (.swstat { zf with rb := false, d := 2, a := 1, m := 3 }) := rfl
theorem test_decode_tret : decode 0xB410000000000001#64 = .ok (.tret { zf with m := 1 }) := rfl
theorem test_decode_flagr : decode 0x34500A0000000001#64 = .ok (.flagr { zf with rb := false, d := 20, m := 1 }) := rfl
theorem test_decode_digest : decode 0xB480040000000000#64 = .ok (.digest { zf with d := 8 }) := rfl
/-- `HSCH`, opcode 0x3C2, and a hint without meaning, 0x3FF (R48). -/
theorem test_decode_hints : decode 0x3C20000000000001#64 = .ok (.hsch { zf with rb := false, m := 1 }) ∧
    decode 0x3FF0000000000000#64 = .ok (.hintNop { rb := false, idx := 0x3F, rest := 0 }) := ⟨rfl, rfl⟩
theorem test_decode_paired : decode 0xC082008122090607#64 = .ok (.pairedWord
    { rb := true, s0 := { op := 1, d := 4, a := 1, b := 2 }, s1 := { op := 0x22, d := 9, a := 6, b := 7 } }) := rfl
/-- R45, R47: an unassigned opcode, group 14, and the element subset. -/
theorem test_decode_refuses : decode 0#64 = .error .unassigned ∧ decode 0x3800000000000000#64 = .error .unassigned ∧
    decode 0x3050000000000000#64 = .error .elementSubset := ⟨rfl, rfl, rfl⟩
/-- The bytes of a word, lowest first (R2). -/
theorem test_decode_table_word : decodeTableWord 64 0x94E0000000000000 = some (.nop zf) := rfl
theorem test_encode : encode (.ld { zf with rb := false, d := 6, a := 10, b := 3, c := 4, m := 0x4CA0 }) = some 0x1C00030501824CA0#64 := rfl

/-! ### The witnesses: a state for every set of hypotheses of the statements -/

/-- What a word sees in a small machine: one group of 128 threads at the placed word, its packet `p`, its group, run and machine changed by
`gf`, `rf` and `sf`. -/
def demoE (p : Packet) (gf : Group → Group) (rf : Run → Run) (sf : State → State) : Env :=
  let base := State.reset.placeWord 0
  let r := rf { begun := loadPc, at_ := loadPc, active := BitVec.allOnes 128, s := [], last := loadPc }
  let rd : Round := { startS := [], start := (loadGroup State.reset).lanes, begun := 0, a := some r, b := none }
  let g : Group := { gf (loadGroup State.reset) with round := some rd }
  let tlb : List TlbEntry := [0, dieUnit 0, hostUnit].map fun u => { unit := u, asid := 4095, vpn := 1, size := 0, pte := 0x101F#64 }
  let s := sf { base with
    grids := [{ id := 0xFFFFFFFF, slot := 255, asid := 4095, pkt := p, nextTeam := 1 }], groups := [g], tlb := tlb, cur := some (loadRef, .a) }
  { s := s, g := g, rd := rd, r := r, b := .a, pkt := p, team := { ref := loadRef.tref, size := 0x40000 }, ctx := { asid := 4095, desc := 1 },
    log0 := {} }

/-- The small machine as it is. -/
def e0 : Env := demoE loadPacket id id id
/-- Lane 0 alone active; S registers 0 to 3 with addresses of the mapped page, S4 the odd address, S5 = 1. -/
def e1 : Env := demoE loadPacket id (fun r => { r with active := 1, s :=
  [(0, { w := 0x1000 }), (1, { w := 0x1040 }), (2, { w := 0x1080 }), (3, { w := 0x1FC0 }), (4, { w := 0x1001 }), (5, { w := 1 })] }) id
/-- The same in a handler of level 1. -/
def e2 : Env := demoE loadPacket (fun g => { g with level := 1, bank1 := { tpc := 0x2000 } }) (fun r => { r with active := 1 }) id
/-- The team holds the butterfly engine of core 0. -/
def e3 : Env := demoE loadPacket id (fun r => { r with active := 1, s :=
  [(0, { w := 0x1000 }), (1, { w := 0x1040 }), (3, { w := 0x1FC0 }), (4, { w := 0x1001 })] })
  fun s => s.setBf 0 { holder := some loadRef.tref }

theorem witness_word : env? e0.s = some e0 := rfl
theorem witness_one : env? e1.s = some e1 := rfl
theorem witness_handler : env? e2.s = some e2 := rfl
theorem witness_bf : env? e3.s = some e3 := rfl

theorem witness_IntegerTwoSourceResults : env? e0.s = some e0 := rfl
theorem witness_IntegerOneSourceResults : env? e0.s = some e0 := rfl
theorem witness_IntegerOtherResults : env? e0.s = some e0 := rfl
theorem witness_IntegerImmediateResults : env? e0.s = some e0 := rfl
theorem witness_UniformResults : env? e0.s = some e0 := rfl
/-- Both widths; a broadcast source, and a lane to read at 0, at 127, and beyond; the divisors. -/
theorem witness_DivisionResults : env? e1.s = some e1 ∧ zf.wide = false ∧ { zf with m := 0x1000 }.wide = true ∧ 128 ≤ (128 : BitVec 8).toNat ∧
    (127 : BitVec 8).toNat < 128 ∧ 127 < (e1.us 0).w.toNat ∧ (e1.us 9).w.toNat ≤ 127 ∧ (0#32 = 0) ∧ (1#32 ≠ 0) ∧ (BitVec.allOnes 32 ≠ 0) ∧
    0 < 1 := by
  refine ⟨rfl, ?_⟩; decide +kernel
/-- Each format and mode; sums, products and quotients that are zero and that are not. -/
theorem witness_RoundingIsCorrect : f64 ∈ [f16, bf16, f32, f64] ∧ 3 < 4 ∧ (1 : Nat) ≠ 0 ∧
    ratOf (.fin false 1 0) + ratOf (.fin false 1 0) ≠ 0 ∧ ratOf (.fin false 1 0) + ratOf (.fin true 1 0) = 0 ∧
    ratOf (.fin false 1 0) * ratOf (.fin false 1 0) ≠ 0 ∧ ratOf (.fin false 1 0) * ratOf (.fin true 0 0) = 0 ∧
    ratOf (.fin false 1 0) * ratOf (.fin false 1 0) + ratOf (.fin false 1 0) ≠ 0 := by
  refine ⟨by decide, by decide, by decide, ?_⟩; norm_num [ratOf]
theorem witness_Binary32Results : env? e0.s = some e0 := rfl
theorem witness_MinMaxValues : env? e0.s = some e0 := rfl
theorem witness_PackedAndConversionResults : env? e0.s = some e0 ∧ zf.wide = false ∧ { zf with m := 0x1000 }.wide = true ∧
    tyBits { zf with m := 0x800 * 9 }.ty = 16 ∧ tyBits zf.ty ≠ 16 := by
  exact ⟨rfl, by decide⟩
theorem witness_Binary64AndBlockResults : env? e0.s = some e0 := rfl

/-- A grid with eight scratchpad nodes; interval register 1 of lane 0 is the open interval from 0 to 1 of no node. -/
def px : Packet := BitVec.ofNat 1024 (loadPacket.toNat + 8 * 2 ^ 215)
def e4 : Env := demoE px (fun g => { g with lanes := g.lanes.modify 0 fun t => { t with x := [(1, { hi := 0x3F800000, h := 0x7FFFFFFF })] } })
  (fun r => { r with active := 1, s := [(0, { w := 0x1000 })] }) id
/-- A log with node 0, a leaf, which register 1 of lane 0 names. -/
def log1 : ExprLog := { nodes := [(0, mkNode 0 1 0 false 0 0 0x3F800000)], scrBump := 1, scrUsed := 1 }
def e5 : Env :=
  let e := demoE px (fun g => { g with lanes := g.lanes.modify 0 fun t => { t with x := [(1, { hi := 0x3F800000, h := 0 })] } })
    (fun r => { r with active := 1, s := [(0, { w := 0x1000 })] })
    fun s => { s with teams := [{ ref := loadRef.tref, size := 0x40000, log := log1 }] }
  { e with team := { e.team with log := log1 }, log0 := log1 }
set_option maxRecDepth 4096 in
theorem witness_interval : env? e4.s = some e4 := rfl
set_option maxRecDepth 4096 in
theorem witness_log : env? e5.s = some e5 := rfl

/-- Nothing stands in the way of the log, as a test (R251). -/
def logOpenB (e : Env) (l : ExprLog) (reads fresh : List Nat) : Bool :=
  (match reachSpill e.s e.g e.ctx e.team (changedNodes e.team.log l ++ reads) (logReads e.team.log l reads fresh) with
   | .ok => true
   | _ => false) &&
  !e.team.log.poison.any (logReads e.team.log l reads fresh).contains && e.logWaits.isNone
theorem logOpen_of {e : Env} {l : ExprLog} {reads fresh : List Nat} (h : logOpenB e l reads fresh = true) : LogOpen e l reads fresh := by
  unfold logOpenB at h
  rw [Bool.and_eq_true, Bool.and_eq_true] at h
  obtain ⟨⟨h1, h2⟩, h3⟩ := h
  refine ⟨fun _ => Option.isNone_iff_eq_none.mp h3, Bool.not_eq_true' _ ▸ h2, ?_⟩
  split at h1 <;> simp_all

/-- `n` nodes can be taken, and nothing stands in the way of the log and the reads that `f` makes of what is left. -/
def LogReady (e : Env) (n : Nat) (f : List Nat → ExprLog → ExprLog × List Nat) : Prop :=
  ∃ is l, ExprLog.reserve (pkLogScr e.pkt) (spillCap e.pkt) n e.team.log = some (is, l) ∧ LogOpen e (f is l).1 (f is l).2 is
def logReadyB (e : Env) (n : Nat) (f : List Nat → ExprLog → ExprLog × List Nat) : Bool :=
  match ExprLog.reserve (pkLogScr e.pkt) (spillCap e.pkt) n e.team.log with
  | none => false
  | some (is, l) => logOpenB e (f is l).1 (f is l).2 is
theorem logReady_of {e : Env} {n : Nat} {f : List Nat → ExprLog → ExprLog × List Nat} (h : logReadyB e n f = true) : LogReady e n f := by
  unfold logReadyB at h
  split at h
  · simp at h
  · next is l hr => exact ⟨is, l, hr, logOpen_of h⟩
/-- The hypotheses of `IntervalWord`. -/
def Ready (e : Env) (o : OpF) (out : Nat → XOut) : Prop :=
  LogReady e (freshOf (outsOf e o out)) fun is l =>
    ((logAfter e o.d (outsOf e o out) is l).1, nodeReads e o.d (outsOf e o out) is l)

def ox : OpF := { zf with d := 2, a := 1, b := 1, c := 1 }
def x5 (L : Nat) : XCell := e5.xop L false 1
theorem witness_IntervalWordResults : env? e5.s = some e5 ∧
    Ready e5 ox (fun L => xResult opADD [x5 L, x5 L] (e5.dt L ((x5 L).t || (x5 L).t))) ∧
    Ready e5 ox (fun L => xResult opSUB [x5 L, x5 L] (e5.dt L ((x5 L).t || (x5 L).t))) ∧
    Ready e5 ox (fun L => xResult opMUL [x5 L, x5 L] (e5.dt L ((x5 L).t || (x5 L).t))) ∧
    Ready e5 ox (fun L => xResult opFMA [x5 L, x5 L, x5 L] (e5.dt L ((x5 L).t || (x5 L).t || (x5 L).t))) ∧
    Ready e5 ox (fun L => xResult opNEG [x5 L] (e5.dt L (x5 L).t)) ∧ Ready e5 ox (fun L => xResult opABS [x5 L] (e5.dt L (x5 L).t)) ∧
    Ready e5 ox (fun L => xResult opMIN [x5 L, x5 L] (e5.dt L ((x5 L).t || (x5 L).t))) ∧
    Ready e5 ox (fun L => xResult opMAX [x5 L, x5 L] (e5.dt L ((x5 L).t || (x5 L).t))) ∧
    Ready e5 ox (fun L => .cell (pointOf (e5.v32 L 1).w false)) ∧ Ready e5 ox (fun L => .cell { (e5.th L).xreg 1 with t := false }) ∧
    Ready e5 ox (fun _ => leafOf 0 0x3F800000 false) ∧ Ready e5 ox (fun _ => .cell (pointCell nan32 false)) ∧
    zf.low2 = 0 ∧ { zf with m := 1 }.low2 = 1 ∧ { zf with m := 2 }.low2 = 2 ∧ { zf with m := 3 }.low2 = 3 :=
  ⟨witness_log, logReady_of (by decide +kernel), logReady_of (by decide +kernel), logReady_of (by decide +kernel), logReady_of (by decide +kernel),
    logReady_of (by decide +kernel), logReady_of (by decide +kernel), logReady_of (by decide +kernel), logReady_of (by decide +kernel),
    logReady_of (by decide +kernel), logReady_of (by decide +kernel), logReady_of (by decide +kernel), logReady_of (by decide +kernel), by decide⟩
/-- The points 1 and 1, and a NaN; 1 and 2⁻²⁵, and 1 + 2⁻²³ twice, whose sum and product are not exact; infinities and zeros. -/
theorem witness_PointResults : (u32 0x3F800000).isNaN = false ∧ (u32 0x7FC00000).isNaN = true ∧
    ((u32 0x33000000).isNaN = false ∧ (u32 (fAdd f32 0 (u32 0x3F800000) (u32 0x33000000)).1).isNaN = false ∧
      (fAdd f32 0 (u32 0x3F800000) (u32 0x33000000)).2 &&& fNX ≠ 0 ∧ (fAdd f32 0 (u32 0x3F800000) (u32 0x33000000).neg).2 &&& fNX ≠ 0 ∧
      (fMul f32 0 (u32 0x3F800001) (u32 0x3F800001)).2 &&& fNX ≠ 0 ∧ (fFma f32 0 (u32 0x3F800001) (u32 0x3F800001) (u32 0)).2 &&& fNX ≠ 0) ∧
    (u32 0x7F800000 = .inf false ∧ u32 0xFF800000 = .inf (!false) ∧ (u32 0).isZero = true ∧ mulVal (u32 0x7F800000) (u32 0x3F800000) = .inf false) ∧
    (u32 (fAdd f32 0 (u32 0x3F800000) (u32 0x3F800000)).1).isNaN = false ∧ (fAdd f32 0 (u32 0x3F800000) (u32 0x3F800000)).2 &&& fNX = 0 ∧
    (u32 (fAdd f32 0 (u32 0x3F800000) (u32 0x3F800000).neg).1).isNaN = false ∧
    (fAdd f32 0 (u32 0x3F800000) (u32 0x3F800000).neg).2 &&& fNX = 0 ∧
    (u32 (fMul f32 0 (u32 0x3F800000) (u32 0x3F800000)).1).isNaN = false ∧ (fMul f32 0 (u32 0x3F800000) (u32 0x3F800000)).2 &&& fNX = 0 ∧
    (u32 (fFma f32 0 (u32 0x3F800000) (u32 0x3F800000) (u32 0x3F800000)).1).isNaN = false ∧
    (fFma f32 0 (u32 0x3F800000) (u32 0x3F800000) (u32 0x3F800000)).2 &&& fNX = 0 := by decide +kernel

def passes : Checked → Bool
  | .ok _ => true
  | _ => false
theorem passes_of {c : Checked} (h : passes c = true) : ∃ l, c = .ok l := by
  cases c <;> simp_all [passes]

/-- An XLD of `e5` with `n` nodes does not wait for its bytes. -/
def xldStands (z n : Nat) : Bool :=
  match e5.checkAll 0 .read z ((e5.setE zf).map fun L => (L, (xldAddr zf e5 L).w)),
      ExprLog.reserve (pkLogScr e5.pkt) (spillCap e5.pkt) n e5.team.log with
  | .ok lanes, some (is, l) =>
    (({ e5.withTeamLog l with r := { e5.r with probe := some { key := none, lanes := lanes, nodes := some is } } } : Env).loadWait z lanes).isNone
  | _, _ => false
/-- XDIV of lane 0 with a node to spare; XLD of its mapped address, in both forms; XST. -/
theorem witness_IntervalMemoryWords : env? e5.s = some e5 ∧
    (let outs := outsOf e5 ox fun L => xResult opDIV (xArgs ox 2 e5 L) (xTaint e5 L (xArgs ox 2 e5 L))
     LogReady e5 (freshOf outs) fun is l => (l, nodeReads e5 ox.d outs is l)) ∧
    e5.r.probe = none ∧
    (∃ lanes, e5.checkAll 0 .read 4 ((e5.setE zf).map fun L => (L, (xldAddr zf e5 L).w)) = .ok lanes) ∧ LogReady e5 0 (fun is l =>
      (l, headsOf 8 e5.team.log is ++ (e5.setE zf).flatMap fun L => l.dropReads 8 ((e5.th L).xreg 0))) ∧
    (∃ lanes, e5.checkAll 0 .read 8 ((e5.setE zf).map fun L => (L, (xldAddr zf e5 L).w)) = .ok lanes) ∧ LogReady e5 1 (fun is l =>
      (l, headsOf 8 e5.team.log is ++ (e5.setE ox).flatMap fun L => l.dropReads 8 ((e5.th L).xreg 1))) ∧
    xldStands 4 0 = true ∧ xldStands 8 1 = true ∧
    (∃ lanes, e5.checkAll 0 .write 8 ((e5.setE zf).map fun L => (L, (xldAddr zf e5 L).w)) = .ok lanes) :=
  ⟨witness_log, logReady_of (by decide +kernel), by decide +kernel, passes_of (by decide +kernel), logReady_of (by decide +kernel),
    passes_of (by decide +kernel), logReady_of (by decide +kernel), by decide +kernel, by decide +kernel, passes_of (by decide +kernel)⟩

/-- XCMP and XSGN of an open interval, and XREF of it, with nothing in the way of the node that its handle names. -/
theorem witness_IntervalDecisions : env? e5.s = some e5 ∧ (x5 0).isPoint = false ∧ (x5 0).h.toNat = 0 ∧
    reachFrom e5.team.log.nodes [refArg (x5 0), refArg (x5 0)] = [0] ∧
    LogOpen e5 e5.team.log [0] [] ∧ LogOpen e5 e5.team.log (e5.team.log.dropReads 8 ((e5.th 0).xreg 1)) [] ∧
    LogOpen (e5.withTeamLog e5.team.log) e5.team.log [0] [] :=
  ⟨witness_log, by decide +kernel, by decide +kernel, by decide +kernel, logOpen_of (by decide +kernel), logOpen_of (by decide +kernel),
    logOpen_of (by decide +kernel)⟩

theorem witness_PredicateResults : env? e0.s = some e0 ∧ zf.low2 = 0 ∧ { zf with m := 1 }.low2 = 1 ∧ { zf with m := 2 }.low2 = 2 ∧
    { zf with m := 3 }.low2 = 3 ∧ { zf with m := 1 }.bit 0 = true ∧ zf.bit 0 = false := ⟨rfl, by decide⟩
/-- A displacement of 0; of every lane's register pair, 0 (lane 0 of `e1`); and the last address that is a target. -/
theorem witness_ControlTransfers : env? e1.s = some e1 ∧ targetOk (e1.r.at_ + 8 * (0#31).signExtend 64) = true ∧
    targetOk (e1.r.at_ + 8) = true ∧ (∀ L ∈ e1.setE { zf with a := 2 }, targetOk (e1.v64 L 2).w = true) ∧ targetOk 0x01FFFFFFFFFFFFF8 = true := by
  refine ⟨rfl, ?_⟩; decide +kernel
/-- Lane 1 stands alone with the odd address 1 in its register pair v0. -/
def e6 : Env := demoE loadPacket id (fun r => { r with active := 2 }) id
/-- A displacement of −2³⁰ words, before address 0. -/
def farBack : OpI := { rb := true, ge := false, gn := false, gd := 0, d := 0, a := 5, imm := 0x40000000 }
/-- A handler whose saved PC is no target. -/
def e9 : Env := demoE loadPacket (fun g => { g with level := 1, bank1 := { tpc := 4 } }) (fun r => { r with active := 1 }) id
theorem witness_InvalidTargetsFault : env? e6.s = some e6 ∧
    ((e6.setE zf).filter fun t => !targetOk (e6.v64 t 0).w) = [1] ∧ env? e1.s = some e1 ∧
    targetOk (e1.r.at_ + 8 * farBack.imm.signExtend 64) = false ∧ e1.setI farBack ≠ [] ∧ e1.active ≠ [] ∧ farBack.d = 0 ∧
    (({ farBack with d := 1 }).d = 1 ∧ (e1.us 5).w ≠ 0) ∧ (({ farBack with d := 2 }).d ≠ 0 ∧ ({ farBack with d := 2 }).d ≠ 1 ∧ (e1.us 9).w = 0) ∧
    env? e9.s = some e9 ∧ e9.g.level ≠ 0 ∧ e9.ctl.bank1.tstate.getLsbD 7 = false ∧ targetOk e9.ctl.bank1.tpc = false := by
  refine ⟨rfl, by decide +kernel, rfl, by decide +kernel, by decide +kernel, by decide +kernel, by decide +kernel, by decide +kernel,
    by decide +kernel, rfl, ?_⟩; decide +kernel
/-- A run that ends with an EXIT of lanes 0 and 1, the first of which holds DZ; lane 2 is active outside E. -/
def exitRun : Run := { begun := loadPc, at_ := loadPc, active := 7, s := [], last := loadPc, ended := true, exit := some (loadPc, 1, [0, 1]) }
def exitGroup : Group := { ref := loadRef, role := 0, lanes := [{ st := .live, flags := fDZ }, { st := .live }, { st := .live }] }
theorem witness_ExitAndHints : env? e0.s = some e0 ∧ e0.g.level = 0 ∧ zf.low2 ≠ 3 ∧ { zf with m := 3 }.low2 = 3 ∧
    (let rd : Round := { startS := [], start := [], begun := 0, a := some exitRun, b := none }
     rd.a = some exitRun ∧ rd.b = none ∧ exitRun.exit = some (loadPc, 1, [0, 1]) ∧ exitRun.fault = none ∧ exitRun.tret = none ∧
     exitRun.tfence = none ∧ exitRun.step = false ∧ exitGroup.afters = []) ∧
    ([0, 1].filter fun L => (exitGroup.lane L).flags &&& fDZ ≠ 0) ≠ [] ∧ ([0, 1].filter fun L => (exitGroup.lane L).flags &&& 0 ≠ 0) = [] ∧
    (1 ∈ [0, 1] ∧ (exitGroup.lane 1).waits = []) ∧ (2 ∉ [0, 1] ∧ (exitGroup.lane 2).bar? = none) := ⟨rfl, by decide +kernel⟩
theorem witness_HintOpcodes : (0x3C00000000000000#64).getLsbD 62 = false ∧ ((0x3C00000000000000#64).extractLsb' 52 10).toNat = 0x3C0 ∧
    ((0x3C10000000000000#64).extractLsb' 52 10).toNat = 0x3C1 ∧ ((0x3C20000000000000#64).extractLsb' 52 10).toNat = 0x3C2 ∧
    ((0x3C30000000000000#64).extractLsb' 52 10).toNat = 0x3C3 ∧ ((0x3FFFFFFFFFFFFFFF#64).extractLsb' 52 10).toNat = 0x3FF ∧
    env? e0.s = some e0 := by
  refine ⟨?_, ?_, ?_, ?_, ?_, ?_, rfl⟩ <;> decide
theorem witness_CrossLaneResults : env? e0.s = some e0 := rfl
theorem witness_ReductionsAreDeferred : env? e0.s = some e0 ∧ { zf with m := 0x1000 }.wide = true ∧ zf.wide = false := ⟨rfl, by decide⟩
/-- A segment of one lane, and of 128. -/
theorem witness_CrossLaneValues : 0 < 1 ∧ (5 : Nat) < 6 ∧ 0 < [1#32].length ∧ shflSource 0 (2 ^ 0) 127 0 = some 127 ∧
    shflSource 0 (2 ^ 7) 127 5 = some 5 ∧ [0x3F800000#32] ≠ [] ∧ { zf with m := 6 * 8 }.field 3 4 = 6 ∧ { zf with m := 7 * 8 }.field 3 4 = 7 ∧
    { zf with m := 8 * 8 }.field 3 4 = 8 ∧ { zf with m := 9 * 8 }.field 3 4 = 9 := by decide +kernel
/-- Words with a NaN, with both infinities, with one, and numbers whose sum is 1 and whose sum is 0. -/
theorem witness_reductions : (u32 0x7FC00000).isNaN = true ∧ FVal.inf true = u32 0xFF800000 ∧ (u32 0x3F800000).isFinNZ = true ∧
    ratOf (u32 0x3F800000) ≠ 0 ∧ ratOf (u32 0) = 0 := by
  refine ⟨by decide +kernel, by decide +kernel, by decide +kernel, ?_, ?_⟩
  · have h : u32 0x3F800000 = .fin false 0x800000 (-23) := by decide +kernel
    rw [h]; norm_num [ratOf]
  · have h : u32 0 = .fin false 0 (-149) := by decide +kernel
    rw [h]; norm_num [ratOf]
/-- The mapped address, and the last doubleword of its page. -/
theorem witness_LoadsComplete : env? e1.s = some e1 ∧
    (∃ l, e1.checkLoad 0 4 ((e1.setE zf).map fun L => (L, (e1.us 0).w + 0 + BitVec.ofNat 64 4 * zf.c.signExtend 64)) = .ok l) ∧
    (∃ l, e1.checkLoad 0 4 [((e1.active.head?).getD 0, (e1.us 0).w + 0 + BitVec.ofNat 64 4 * zf.c.signExtend 64)] = .ok l) ∧
    (∃ l, e1.checkLoad 0 8 [(0, 0x1FF8)] = .ok l) ∧ zf.space = 0 ∧ memSize zf.ty = 4 :=
  ⟨rfl, passes_of (by decide +kernel), passes_of (by decide +kernel), passes_of (by decide +kernel), by decide⟩
/-- Lanes 0 and 1, whose addresses S0 + v0 are the mapped 0x1000 and the odd 0x1001; `pte` is the leaf of the page, `l` its poisoned
lines. -/
def eA (pte : Nat) (l : List Nat) : Env := demoE loadPacket id (fun r => { r with active := 3, s := [(0, { w := 0x1000 }), (4, { w := 0x1001 })] })
  fun s => { s with tlb := s.tlb.map fun t => { t with pte := BitVec.ofNat 64 pte }, home := { s.home with poison := l } }
/-- An indexed form, and its XLD, atomic and scratchpad forms. -/
def oA : OpF := { zf with m := 0x80 }
/-- The lanes of E that an address and a check fail. -/
def failing (e : Env) (o : OpF) (at_ : Nat → Word64) (check : Nat → Word64 → Check) : List Nat :=
  if (e.setE o).any (fun t => check t (at_ t) == .zero) then [] else (e.setE o).filter fun t => (check t (at_ t)).cause?.isSome
/-- S4 holds an odd address; each check that an access can fail, and one that it passes; a word whose second lane alone fails. -/
theorem witness_AccessFaults : env? e1.s = some e1 ∧ (e1.scell 4).w.toNat % 64 ≠ 0 ∧ (e1.us 4).w.toNat % 128 ≠ 0 ∧ (0x1001 : Word64).toNat % 4 ≠ 0 ∧
    (let e := eA 0x101F []
     env? e.s = some e ∧ (0x1000 : Word64).toNat % 4 = 0 ∧ pkScratch e.pkt < (0x40000 : Word64).toNat + 4 ∧ e.r.probe = none ∧
     (match e.s.window e.g.ref.grid (9 * 2 ^ 29) 4 false with | .error _ => true | .ok _ => false) = true ∧ e.s.xlat e.g.core e.ctx 0 = .fault ∧
     e.s.xlat e.g.core e.ctx 0x1000 = .ok 0x1000 0x101F 0 ∧ pteImg 0x101F = false ∧ ptePeer 0x101F = false ∧ permOk .write 0x101F 0x1000 = true ∧
     e.s.poisonAt (.mem 0x1000) 4 = false ∧
     failing e oA (fun L => (loadAddr oA e L 4).w) (e.check 0 .read 4) = [1] ∧ failing e oA (fun L => (loadAddr oA e L 4).w) (e.check 0 .write 4) = [1] ∧
     failing e { zf with a := 4 } (fun L => (atomAddr { zf with a := 4 } e L).w) (e.atomCheck { zf with a := 4 }) = [0, 1] ∧
     failing e { zf with a := 4 } (fun L => (xldAddr { zf with a := 4 } e L).w) (e.check 0 .read 4) = [0, 1] ∧
     failing e { zf with a := 4 } (fun L => (xldAddr { zf with a := 4 } e L).w) (e.check 0 .write 8) = [0, 1] ∧
     (e.check 0 .read 4 0 0x1001).cause? = some 3 ∧ (e.atomCheck { zf with a := 4 } 0 0x1001).cause? = some 3) ∧
    permOk .write 0x1003 0x1000 = false ∧ permOk .write 0x101F capPa = false ∧ permOk .read 0x101F capPa = true ∧ (eA 0x101F [0x40]).s.poisonAt (.mem 0x1000) 4 = true ∧ (eA 0x101F [0x40]).behindA = false ∧
    (let e := eA (2 ^ 51 + 0x101F) []
     let e := { e with s := { e.s with dev := { e.s.dev with atc := [{ pasid := 0, page := 1, host := 1 }] } } }
     let o := { zf with m := 2 * 32 + 1 * 128 }
     e.check 0 .both (atomSize o) 0 0x1000 = .ok (.mem (2 ^ 51 + 4096)) ∧ isSystem (2 ^ 51 + 4096) = true ∧ o.pos = 2 ∧ o.opn = 1 ∧
     o.bit 3 = false) := by
  refine ⟨rfl, ?_, ?_, ?_, ⟨rfl, ?_⟩, ?_⟩ <;> decide +kernel
theorem witness_StoresComplete : env? e1.s = some e1 ∧
    (∃ l, e1.checkAll 0 .write 4 ((e1.setE zf).map fun L => (L, (loadAddr zf e1 L 4).w)) = .ok l) ∧
    (∃ l, e1.checkAll 0 .write 4 [((e1.active.head?).getD 0, (memAddr zf e1 0 4 false 1).w)] = .ok l) ∧ zf.cv = false ∧ zf.ty ≠ 12 ∧
    { zf with m := 0x6000 }.ty = 12 :=
  ⟨rfl, passes_of (by decide +kernel), passes_of (by decide +kernel), by decide⟩
theorem witness_TaintPushes : env? e0.s = some e0 := rfl
theorem witness_AtomicWordsComplete : env? e1.s = some e1 ∧
    (∃ l, e1.checkAtom zf ((e1.setE zf).map fun L => (L, (atomAddr zf e1 L).w)) = .ok l) ∧
    (∃ l, e1.checkAtom zf [((e1.active.head?).getD 0, (e1.us 0).w)] = .ok l) :=
  ⟨rfl, passes_of (by decide +kernel), passes_of (by decide +kernel)⟩

def readsCnt : CntRead → Bool
  | .val _ => true
  | _ => false
theorem readsCnt_of {c : CntRead} (h : readsCnt c = true) : ∃ v, c = .val v := by
  cases c <;> simp_all [readsCnt]
/-- A role that the team has and one that it has not; no lane of E, a misaligned counter, and a counter at the last doubleword of the
page. -/
theorem witness_OrderingWords : env? e1.s = some e1 ∧ ({ zf with m := 5 }.low2 = 1 ∧ pkRoles e1.pkt ≤ { zf with m := 5 }.field 2 2) ∧
    ¬({ zf with m := 1 }.low2 = 1 ∧ pkRoles e1.pkt ≤ { zf with m := 1 }.field 2 2) ∧ e1.setE { zf with ge := true } = [] ∧
    (e1.setE zf ≠ [] ∧ (e1.us 4).w.toNat % 8 ≠ 0) ∧ (e1.us 3).w.toNat % 8 = 0 ∧
    e1.s.vaWaits e1.g.core e1.ctx (pkClass e1.pkt) .read (e1.us 3).w 8 = none ∧ e1.behindA = false ∧
    ∃ v, e1.s.readCounter e1.g.core e1.ctx (e1.us 3).w = .val v :=
  ⟨rfl, by decide +kernel, by decide +kernel, by decide +kernel, by decide +kernel, by decide +kernel, by decide +kernel, by decide +kernel,
    readsCnt_of (by decide +kernel)⟩
/-- A run that ends with a TFENCE over lane 0, which holds DZ, and lane 1; a group that notes a raised flag, and one whose record is set. -/
theorem witness_tfence :
    (let r := { exitRun with active := 3, exit := none, tfence := some (loadPc, 1) }
     r.exit = none ∧ r.fault = none ∧ r.tret = none ∧ r.tfence = some (loadPc, 1) ∧ (∀ y ∈ exitGroup.raised, y.pos ≤ 1) ∧ exitGroup.afters = [] ∧
     r.step = false ∧ ((maskLanes r.active).filter fun L => (exitGroup.lane L).flags &&& 0 ≠ 0) = [] ∧
     ((maskLanes r.active).filter fun L => (exitGroup.lane L).flags &&& fDZ ≠ 0) = [0] ∧ (exitGroup.lane 0).st = .live ∧ (exitGroup.lane 0).pc = 0) ∧
    (let g := { exitGroup with raised := [{ b := .a, pos := 1, pc := loadPc, lane := 0 }] }
     (∀ y ∈ g.raised, y.b = .a ∧ y.lane < 128) ∧ g.flagV = false ∧ g.raised ≠ [] ∧
     ({ g with flagV := true }).flagV = true ∧ ({ g with flagV := true }).flagAt ≤ 64 * 0) := by decide +kernel
/-- A record can be read, as a test, and the environment after it. -/
def recOk (e : Env) (p : Bool) (va : Word64) (n : Nat) : Bool :=
  !e.behindA && match e.readRec p va n with
  | .ok lines _ _ => e.s.linesOpen e.ctx.asid (pkClass e.pkt) lines
  | _ => false
def recEnv (e : Env) (p : Bool) (va : Word64) (n : Nat) : Env :=
  match e.readRec p va n with
  | .ok lines _ _ => { e with s := (e.s.chargeLines e.ctx.asid (pkClass e.pkt) lines).bump }
  | _ => e
theorem readsRec_of {e : Env} {p : Bool} {va : Word64} {n : Nat} (h : recOk e p va n = true) :
    ∃ v t, ReadsRec e p va n (recEnv e p va n) v t := by
  unfold recOk at h
  rw [Bool.and_eq_true] at h
  obtain ⟨h1, h⟩ := h
  split at h
  · next lines v t hr => exact ⟨v, t, Bool.not_eq_true' _ ▸ h1, lines, hr, h, by simp [recEnv, hr]⟩
  · simp at h
/-- The page of `e1` is the capability region (R19), whose reads no stack of HBM carries. -/
def e8 : Env := demoE loadPacket id (fun r => { r with active := 1, s :=
  [(0, { w := 0x1000 }), (1, { w := 0x1040 }), (2, { w := 0x1080 }), (3, { w := 0x1FC0 }), (4, { w := 0x1001 }), (5, { w := 1 })] })
  fun s => { s with tlb := s.tlb.map fun t => { t with pte := BitVec.ofNat 64 (capPa + 0x1F) } }
/-- The records of COPY, GATHER and COLL at S0 and S1, and of LAUNCH at the two mapped lines of S2. -/
theorem witness_EngineCommandsComplete : env? e8.s = some e8 ∧
    (let u (r i : Nat) : Word64 := (e8.scell (r + i)).w
     AlignedAll [(u 0 0, 64), (u 1 0, 64), (u 8 3, 8)] ∧ AlignedAll [(u 0 0, 64), (u 1 0, 64), (u 8 3, 8), (u 8 0, 4)] ∧
     AlignedAll [(u 0 0, 64), (u 1 0, 4), (u 1 1, 4), (u 8 1, 8)] ∧ AlignedAll [(u 2 0, 128), (u 3 0, 8)] ∧
     (u 0 1).toNat % recSize 0 = 0) ∧
    (∃ v t, ReadsRec e8 true (e8.scell 0).w 64 (recEnv e8 true (e8.scell 0).w 64) v t) ∧
    (let e1 := recEnv e8 true (e8.scell 0).w 64
     ∃ v t, ReadsRec e1 true (e8.scell 1).w 64 (recEnv e1 true (e8.scell 1).w 64) v t) ∧
    (∃ v t, ReadsRec e8 false (e8.scell 0).w 64 (recEnv e8 false (e8.scell 0).w 64) v t) ∧
    (let e1 := recEnv e8 false (e8.scell 0).w 64
     ∃ v t, ReadsRec e1 false (e8.scell 1).w 64 (recEnv e1 false (e8.scell 1).w 64) v t) ∧
    (∃ v t, ReadsRec e8 false (e8.us 2).w 128 (recEnv e8 false (e8.us 2).w 128) v t) :=
  ⟨rfl, by unfold AlignedAll; decide +kernel, readsRec_of (by decide +kernel), readsRec_of (by decide +kernel), readsRec_of (by decide +kernel),
    readsRec_of (by decide +kernel), readsRec_of (by decide +kernel)⟩
theorem witness_FutureWords : env? e0.s = some e0 := rfl
/-- A team that holds its engine, and one that does not. -/
theorem witness_ButterflyOperations : env? e3.s = some e3 ∧ e3.s.holdsBf e3.g.core e3.g.ref.tref = true ∧
    2 ≤ { zf with m := 0x400 }.field 9 2 ∧ env? e0.s = some e0 ∧ e0.s.holdsBf e0.g.core e0.g.ref.tref = false := by
  refine ⟨rfl, by decide +kernel, by decide, rfl, by decide +kernel⟩
theorem witness_ButterflyCommands : env? e3.s = some e3 ∧ e3.s.holdsBf e3.g.core e3.g.ref.tref = true ∧ (e3.us 0).w.toNat % 64 = 0 ∧
    (e3.us 3).w.toNat % 8 = 0 ∧ ({ zf with m := 0x6800 }.ty = 13 → (e3.scell (8 + 1)).w.toNat % 8 = 0) ∧ zf.field 9 2 = 0 ∧
    { zf with m := 0x200 }.field 9 2 = 1 ∧ (e3.us 4).w.toNat % 64 ≠ 0 ∧ (e3.us 4).w.toNat % 8 ≠ 0 ∧ { zf with m := 0x6800 }.ty = 13 ∧
    (e3.scell (3 + 1)).w.toNat % 8 ≠ 0 := by
  refine ⟨rfl, ?_⟩; decide +kernel
/-- A sheet bound in slot 0 of core 0, its handle in S0; the run record and the counter in S1 and S3. -/
def sheet1 : Sheet := { core := 0, slot := 0, cores := [(0, 0)], serial := 1, team := loadRef.tref, asid := 4095, record := 0 }
def e7 : Env := demoE loadPacket id (fun r => { r with active := 1, s :=
  [(0, { w := sheet1.handle }), (1, { w := 0x1040 }), (2, { w := 0x1000 }), (3, { w := 0x1FC0 })] }) fun s => { s with sheets := [sheet1] }
theorem witness_SheetWords : env? e7.s = some e7 ∧ e7.sheet? (e7.us 0).w = some sheet1 ∧ zf.bit 0 = false ∧ { zf with m := 1 }.bit 0 = true ∧
    (e7.us 1).w.toNat % 32 = 0 ∧ (e7.us 3).w.toNat % 8 = 0 ∧ e7.sheet? (e7.us 1).w = none ∧ (e7.us 2).w.toNat % 64 = 0 ∧
    ∃ v t, ReadsRec e7 false (e7.us 2).w 64 (recEnv e7 false (e7.us 2).w 64) v t :=
  ⟨rfl, by decide +kernel, by decide, by decide, by decide +kernel, by decide +kernel, by decide +kernel, by decide +kernel,
    readsRec_of (by decide +kernel)⟩
/-- Lanes and no lanes; BE on and off; a handler and none. -/
theorem witness_TrapWords : env? e1.s = some e1 ∧ e1.setE zf ≠ [] ∧ e1.setE { zf with ge := true } = [] ∧ e1.r.be = true ∧ e1.g.level = 0 ∧
    env? e2.s = some e2 ∧ e2.g.level ≠ 0 ∧ targetOk e2.g.bank1.tpc = true ∧
    (let e := demoE loadPacket id (fun r => { r with be := false }) id
     env? e.s = some e ∧ e.r.be = false) := by
  refine ⟨rfl, by decide +kernel, by decide +kernel, rfl, rfl, rfl, by decide, by decide, rfl, rfl⟩
theorem witness_ControlRegisterWords : env? e2.s = some e2 ∧ zf.field 12 2 ≠ 3 ∧ e2.g.level ≠ 3 ∧ { zf with m := 0x015 }.field 0 12 = 0x015 ∧
    1 ≤ { zf with m := 0x1001 }.field 12 2 ∧ { zf with m := 0x1001 }.field 12 2 ≤ e2.g.level.toNat ∧ { zf with m := 0x1001 }.field 0 12 = 1 ∧
    { zf with m := 0x020 }.field 0 12 = 0x020 ∧ (e2.s.grid? e2.g.ref.grid).isSome = true := by
  refine ⟨rfl, ?_⟩; decide +kernel
/-- A mapped address, and one that is not; the address beyond the last. -/
theorem witness_OtherSystemWords : env? e1.s = some e1 ∧ zf.low2 = 0 ∧ { zf with m := 1 }.low2 = 1 ∧ 2 ≤ { zf with m := 2 }.low2 ∧
    zf.bit 0 = false ∧ { zf with m := 1 }.bit 0 = true ∧ e1.s.xlat e1.g.core e1.ctx (e1.us 0).w = .ok 0x1000 0x101F 0 ∧
    e1.s.xlat e1.g.core e1.ctx 0 = .fault ∧ e1.s.xlat e1.g.core e1.ctx 0x0200000000000000 = .fault := by
  refine ⟨rfl, ?_⟩; decide +kernel
theorem witness_PairedWordResults : env? e0.s = some e0 := rfl

/-! Machines for the events: a group between its rounds, or in one. -/

/-- The demo packet with its image pool and its argument at the mapped page, and its completion counter there. -/
def pe : Packet := BitVec.ofNat 1024 (loadPacket.toNat + 0x1000 * 2 ^ 576)
def idle : Group := { loadGroup State.reset with round := none }
def demoS (p : Packet) (g : Group) (sf : State → State) : State :=
  let e := demoE p id id id
  sf { e.s with groups := [g], cur := none }
def run0 : Run := { begun := loadPc, at_ := loadPc, active := 1, s := [], last := loadPc }
def round0 : Round := { startS := [], start := [], begun := 0, a := some run0, b := none }
def clockAt (c : Nat) (s : State) : State := { s with dev := { s.dev with mcycles := 1000 * c } }

/-- A waiting stream B run; an idle group, which waits for nothing; the last cycle before a promotion, and a PAUSE that ends now; a line
waited for, and one that may leave. -/
theorem witness_SchedulingEvents :
    (let g := { idle with round := some { round0 with waitB := some loadPc } }
     let s := demoS pe g id
     s.group? loadRef = some g ∧ s.busySlots 0 0 < 3 ∧
     ((argMin (fun (z : Group) => ((z.round.map (·.begun)).getD 0)) ([g].filter fun z => (s.beginB z).isSome)).bind s.beginB).isSome = true) ∧
    (let s := demoS pe idle id
     s.busySlots 0 0 < 3 ∧ s.waitingGroup idle = false ∧ [idle].filter (fun z => (s.beginB z).isSome) = [] ∧
     ((argMin s.slotKey ([idle].filter fun z => s.eligible z && (s.beginRound z).isSome)).bind s.beginRound).isSome = true) ∧
    (let g := { idle with eligible := some 0, pauseTo := some 4096 }
     let s := demoS pe g (clockAt 4096)
     s.group? loadRef = some g ∧ 0 + 4096 ≤ s.cycle ∧ s.eligible g = true ∧ 4096 ≤ s.cycle) ∧
    (let g := { idle with round := some { round0 with a := some { run0 with missing := [0] } } }
     let s := demoS pe g id
     s.group? loadRef = some g ∧ (∃ r ∈ (some { run0 with missing := [0] }).toList, 0 ∈ r.missing) ∧ s.linesUsed 0 < 16384 ∧
     (s.gridCtx? loadRef.grid).isSome = true ∧
     s.accessImage 0 { asid := 4095, desc := 1 } .read (s.lineVa g 0) = .ok 0x1000 ∧
     s.linesOpen 4095 (s.classOf loadRef.grid) (s.pathLines 0 { asid := 4095, desc := 1 } (s.lineVa g 0) 0x1000 ++ [0x1000 + 64]) = true) ∧
    (let g := { idle with linesIn := [0] }
     let s := demoS pe g id
     s.group? loadRef = some g ∧ g.pinned s 0 = false ∧ s.accessImage 0 { asid := 4095, desc := 1 } .write (s.lineVa g 0) = .ok 0x1000 ∧
     0x1000 % 128 = 0 ∧ isSystem 0x1000 = false ∧ paWritable 0x1000 = true ∧ paWritable (0x1000 + 64) = true ∧
     s.linesOpen 4095 (s.classOf loadRef.grid) (s.pathLines 0 { asid := 4095, desc := 1 } (s.lineVa g 0) 0x1000 ++ [0x1000 + 64]) = true) := by
  refine ⟨?_, ?_, ?_, ?_, ?_⟩ <;> decide +kernel

/-- A table at 0x4000 whose entry 0 names itself and whose entry 1 is the leaf of the page at 0x1000; `hi` is the top byte of that entry. -/
def tableMem (lo hi : Byte) : Table Byte := [(0x4000, 1), (0x4001, 0x40), (0x4008, lo), (0x4009, 0x10)] ++ (if hi = 0 then [] else [(0x400F, hi)])
def rooted : Context := { asid := 4095, desc := 1 + 0x4000#1024 <<< 64 }
def withTable (lo hi : Byte) (s : State) : State :=
  { s with home := { s.home with mem := tableMem lo hi }, ctxs := [rooted], tlb := [] }
def zw (own : Bool) : ZWalk := { n := 7, asid := 4095, va := 0x1000, pteAt := 0x4008, pte := 0x800000000000103F, size := 0, owner := own }
def copying (l : List (Option TRef × Nat)) : Command :=
  { serial := 1, g := loadRef, asid := 4095, core := 0, slot := 0, gen := 0, eng := 1, kind := .copy 0 0 0 0 [] 0 0 0, ctr := 0, lines := l }
def held1 : Held := { n := 0, g := loadRef, addr := 60, bytes := [1, 2, 3, 4, 5, 6, 7, 8], t := false }
/-- A store held at lines 0 and 1, the second of which may yet be awaited. -/
def holding (l : List (Option TRef × Nat)) : State :=
  demoS pe idle fun s => { s with cmds := [copying l], teams := [{ ref := loadRef.tref, size := 0x40000, held := [held1] }] }
/-- A placed team, a line that has landed, and a store held there, or held for another line too; a leaf that a walk finds; a waiting walk
at a page that is zeroed, no longer valid, or still zeroing; and the walk that zeroes. -/
theorem witness_ViewAndPageEvents :
    ((holding []).landing loadRef.tref 0 = false ∧ (holding []).heldStores = [(loadRef.tref, held1)] ∧
     ((holding []).team? loadRef.tref).map (·.resident) = some true ∧
     (linesOf held1.addr held1.bytes.length).any ((holding []).landing loadRef.tref) = false) ∧
    (let s := holding [(some loadRef.tref, 1)]
     s.landing loadRef.tref 0 = false ∧ s.heldStores = [(loadRef.tref, held1)] ∧
     (linesOf held1.addr held1.bytes.length).any (s.landing loadRef.tref) = true) ∧
    (let s := demoS pe idle (withTable 0x1F 0)
     s.ctx? 4095 = some rooted ∧ s.linesOpen 4095 (s.unitClass 0 4095) (s.walkReads rooted 0x1000) = true ∧
     (s.walk rooted 0x1000).map (s.walkXlat · 0x1000) = some (.ok 0x1000 0x101F 0)) ∧
    (let s := demoS pe idle (fun s => { withTable 0x1F 0 s with zwalks := [zw false] })
     s.zwalk? 7 = some (zw false) ∧ pteZ (BitVec.ofNat 64 (s.home.nat (zw false).pteAt 8)) = false) ∧
    (let s := demoS pe idle (fun s => { withTable 0x1E 0x80 s with zwalks := [zw false] })
     s.zwalk? 7 = some (zw false) ∧ pteV (BitVec.ofNat 64 (s.home.nat (zw false).pteAt 8)) = false) ∧
    (let s := demoS pe idle (fun s => { withTable 0x3F 0x80 s with zwalks := [zw false] })
     let p := BitVec.ofNat 64 (s.home.nat (zw false).pteAt 8)
     s.zwalk? 7 = some (zw false) ∧ pteV p = true ∧ pteZ p = true ∧ pteZB p = true) ∧
    (let s := demoS pe idle (fun s => { withTable 0x3F 0x80 s with zwalks := [zw true] })
     let w := zw true
     let bytes := 2 ^ pageBits (if w.size = 1 then 0 else w.size)
     s.zwalk? 7 = some w ∧ w.owner = true ∧ ptePa w.pte % bytes = 0 ∧ isSystem (ptePa w.pte) = false ∧ paWritable (ptePa w.pte) = true ∧
     paWritable (ptePa w.pte + bytes - 1) = true ∧ (w.pteAt + 8 ≤ ptePa w.pte ∨ ptePa w.pte + bytes ≤ w.pteAt)) := by
  refine ⟨?_, ?_, ?_, ?_, ?_, ?_, ?_⟩ <;> decide +kernel

/-- Two runs of a round, each of which writes register 5, the first also register 6. -/
theorem witness_RunsCommitTogether :
    (let rd := { round0 with a := some { run0 with written := [5, 6] }, b := some { run0 with written := [5] } }
     rd.a = some { run0 with written := [5, 6] } ∧ rd.b = some { run0 with written := [5] }) ∧
    ({ round0 with a := some { run0 with ended := true }, b := some run0 }).nextCommit = some .a ∧
    ({ round0 with a := some { run0 with ended := true, committed := true }, b := some { run0 with ended := true } }).nextCommit = some .b ∧
    5 ∈ [5] ∧ 6 ∉ [5] ∧ 6 ∈ [5, 6] ∧ 7 ∉ [5] ∧ 7 ∉ [5, 6] := by decide +kernel

def atom0 (det : Bool) : AtomReq :=
  { g := loadRef, lane := 0, core := 0, key := none, at_ := .mem 0x1000, va := 0x1000, size := 4, op := 0, ty := 0, rm := 0, scope := 0,
    det := det, v := 1, cmp := 0, t := false }
def store0 : StoreReq := { lane := 0, at_ := .scratch loadRef.tref 0, va := 0, bytes := [1, 2], ord := 0, t := false }
def later (f : DForm) : Deferred := { pc := loadPc, pos := 1, b := .a, begun := 0, form := f }
def isReady : DRes → Bool
  | .ready _ => true
  | _ => false
def isWait : DRes → Bool
  | .wait => true
  | _ => false
/-- A run with a store to the window of a team that the grid does not have, and the state before its word. -/
def runW : Run := { run0 with ended := true, effects := [.stores [{ store0 with va := 9 * 2 ^ 29, at_ := .scratch { grid := 9, team := 9 } 0 }] false],
                              pre := [{ at_ := loadPc, last := loadPc, lanes := [], s := [], written := [], effects := [], deferred := [],
                                        ctl := [], pause := none }] }
/-- The round of an idle group, its run committed. -/
def ended1 (r : Run) : Group := { idle with round := some { round0 with a := some { r with ended := true, committed := true } } }
/-- What the end of that round comes to, with a team whose other checks stand open. -/
def endOf (g : Group) : Bool × Bool × Bool :=
  let rd := (g.round).getD round0
  let r := endChecks fDZ { g with pauses := pauseLog g.pauses rd } rd
  (r.fault.isSome, r.trap.isSome, (r.trap.bind (afterTrap r.g)).isSome)
/-- An ended run, and one whose window store finds no target; a deferred write that is ready and one that is not; a round that ends without a
check, with a fault, and with a trap; an atomic and a deterministic one; a window store; a counter at and below its threshold; a team that
has exited. -/
theorem witness_BoundaryEvents :
    (({ round0 with a := some { run0 with ended := true } }).nextCommit = some .a ∧
     (demoS pe idle id).refusedEffect loadRef { run0 with ended := true } = none) ∧
    (({ round0 with a := some runW }).nextCommit = some .a ∧ { round0 with a := some runW }.run? .a = some runW ∧
     (match (demoS pe idle id).refusedEffect loadRef runW with
      | some (n, _ :: _, false) => ((runW.pre.zipIdx.filter fun y => decide (y.1.effects.length ≤ n)).getLast?).isSome
      | _ => false) = true) ∧
    (let g := { idle with pend := [later (.ready [] [])] }
     let s := demoS pe g id
     s.group? loadRef = some g ∧ isReady (deferredOut (denv s g) (later (.ready [] []))) = true) ∧
    (let g := { idle with pend := [later (.uniform 5 0 .none false)] }
     isWait (deferredOut (denv (demoS pe g id) g) (later (.uniform 5 0 .none false))) = true) ∧
    (let g := ended1 run0
     let s := demoS pe g id
     s.group? loadRef = some g ∧ g.settled = true ∧ g.outbox = [] ∧ g.pend = [] ∧ s.stepHeld g ((g.round).getD round0) = false ∧
     endOf g = (false, false, false) ∧ mismatch g = none) ∧
    (let f (g : Group) : Group := { g with lanes := g.lanes.modify 0 fun t => { t with flags := fDZ } }
     endOf (f (ended1 { run0 with exit := some (loadPc, 1, [0]) })) = (true, false, false) ∧
     endOf (f (ended1 { run0 with tfence := some (loadPc, 1) })) = (false, true, true)) ∧
    (let g := { idle with outbox := [(.a, .atoms [atom0 false] false)] }
     let x := { idle with outbox := [(.a, .atoms [] false)] }
     let s := demoS pe g id
     s.group? loadRef = some g ∧ s.memOpen loadRef 0x1000 0x1000 = true ∧ (performAtom (((s.setGroup x).foldAtom (atom0 false)).postLine loadRef (0x1000 / 64)) (atom0 false) false).isSome = true) ∧
    (let g := { idle with outbox := [(.a, .atoms [atom0 true] false)] }
     (demoS pe g id).group? loadRef = some g ∧ (atom0 true).at_ = .mem 0x1000 ∧ (atom0 true).det = true ∧
     (((demoS pe g id).grid? loadRef.grid).map (·.kill.isSome)).getD true = false) ∧
    (let g := { idle with outbox := [(.a, .stores [store0] false)] }
     let s := demoS pe g id
     ((s.windowStore g store0).bind fun t => t.group? loadRef).isSome = true) ∧
    (let g := { idle with lanes := (idle.lanes.modify 0 fun t => { t with waits := [(1, .cnt 0x1000 1 loadPc)] }).modify 1 fun t =>
       { t with waits := [(0, .ordw 0), (1, .cnt 0x1000 1 loadPc)] } }
     let s := demoS pe g (fun s => { s with home := { s.home with mem := [(0x1000, 1)] } })
     cntWaits g = [(0x1000, 1, loadPc)] ∧ (g.lane 0).waits = [(1, .cnt 0x1000 1 loadPc)] ∧
     (g.lane 1).waits = [(0, .ordw 0), (1, .cnt 0x1000 1 loadPc)] ∧ (g.lane 2).waits = [] ∧ s.readCounter 0 { asid := 4095, desc := 1 } 0x1000 = .val 1 ∧
     s.vaWaits 0 { asid := 4095, desc := 1 } (s.classOf loadRef.grid) .read 0x1000 8 = none ∧ cntDone 1 1 = true ∧ cntDone 0 1 = false) ∧
    (let s := demoS pe idle (fun s => { s with teams := [{ ref := loadRef.tref, size := 0x40000, exited := true }] })
     (s.team? loadRef.tref).map (·.exited) = some true ∧ s.namesScratch loadRef.tref = false ∧ s.det loadRef.grid = false ∧
     (s.grid? loadRef.grid).map Grid.complete ≠ some true) := by
  refine ⟨?_, ?_, ?_, ?_, ?_, ?_, ?_, ?_, ?_, ?_, ?_⟩ <;> decide +kernel

/-- A valid packet; queue 0 of ASID 4095 at the mapped page, enabled, in LAUNCH mode or not, one packet ahead. -/
def pv : Packet := BitVec.ofNat 1024 (loadPacket.toNat + 3 * 2 ^ 57 + 0x1000 * 2 ^ 576)
def ctl (en mode : Bool) : Word64 := 4095 + (if en then 0x40000 else 0) + (if mode then 0x80000 else 0)
def queue0 (en mode : Bool) (h : Option Head) : Queue := { qctl := ctl en mode, qbase := 0x1000, write := 1, head := h }
def withQueue (p : Packet) (q : Queue) (s : State) : State :=
  { s with queues := [(0, q)], dev := { s.dev with state := 3 },
           home := { s.home with mem := setBytes [] 0x1000 (leBytes p.toNat 128) }, grids := [], groups := [], teams := [] }
def head0 (r : Option Nat) : Head := { pkt := pv, at_ := 0x1000, ready := r }
def pageCtx : Context := { asid := 4095, desc := 1 }
/-- The head of a queue: a valid packet, an invalid one, one that cannot be read, one on a page that is zeroing; the counter of a packet
that fails; a head with unmet dependences; and one that is ready. -/
theorem witness_QueueHeadEvents :
    (let s := demoS pe idle (withQueue pv (queue0 true false none))
     let q := s.queue 0
     s.ctx? q.asid = some pageCtx ∧ s.dev.state = 3 ∧ q.en = true ∧ q.head = none ∧ q.read ≠ q.write ∧
     s.waitZero hostUnit pageCtx .read (q.slot 0) 128 = none ∧ s.readVa hostUnit pageCtx (q.slot 0) 128 = some (leBytes pv.toNat 128) ∧
     packetOk (BitVec.ofNat 1024 (leNat (leBytes pv.toNat 128))) = true ∧ pkDepN pv = 0) ∧
    (let s := demoS pe idle (withQueue 0 (queue0 true false none))
     (s.readVa hostUnit pageCtx ((s.queue 0).slot 0) 128).isSome = true ∧ packetOk 0 = false) ∧
    (let s := demoS pe idle (fun s => let t := withQueue pv (queue0 true false none) s
       { t with home := { t.home with poison := [0x1000 / 64] } })
     s.waitZero hostUnit pageCtx .read ((s.queue 0).slot 0) 128 = none ∧ s.readVa hostUnit pageCtx ((s.queue 0).slot 0) 128 = none) ∧
    (let s := demoS pe idle (fun s => { withTable 0x3F 0x80 (withQueue pv (queue0 true false none) s) with
       home := { (withTable 0x3F 0x80 s).home with mem := tableMem 0x3F 0x80 } })
     (s.waitZero hostUnit rooted .read ((s.queue 0).slot 0) 128).isSome = true) ∧
    (ccntOk pv = true ∧ (demoS pe idle id).counterWaits 4095 hostUnit (pkClass pv) (pkCcnt pv) = none ∧ ccntOk (pv + 4#1024 <<< 640) = false) ∧
    (let s := demoS pe idle (withQueue pv (queue0 true false (some (head0 none))))
     (s.queue 0).head = some (head0 none) ∧ (head0 none).ready = none) ∧
    (let s := demoS pe idle (withQueue pv (queue0 true false (some (head0 (some 9)))))
     s.dev.state = 3 ∧ argMin (fun (x : Nat × Head × Nat) => s.headKey x.1 x.2.1 x.2.2) s.readyHeads = some (0, head0 (some 9), 9) ∧
     s.freeGridSlot = some 0) := by
  refine ⟨?_, ?_, ?_, ?_, ?_, ?_, ?_⟩ <;> decide +kernel

/-- A grid whose team 0 is to be placed: a free frame and a core, and none where the scratchpads of the die are taken; a wait of 2048 cycles
of the next team, and of a team that comes back. -/
def grid0 : Grid := { id := 0xFFFFFFFF, slot := 0, asid := 4095, pkt := pv }
def wish0 : Wish := { pref := {} }
def wished : Grid := { grid0 with wish := some wish0 }
def noTeams (s : State) : State := { s with grids := [wished], groups := [], teams := [] }
def crowd : List Team := (List.range 40).map fun k => { ref := { grid := 1, team := k }, core := k, size := 1048576 }
def prefers (r : Except State Pref) : Bool :=
  match r with
  | .ok _ => true
  | .error _ => false
theorem witness_PlacementEvents :
    (let s := demoS pv idle fun s => { noTeams s with grids := [grid0] }
     let c := pageCtx
     s.grid? 0xFFFFFFFF = some grid0 ∧ s.ctx? grid0.asid = some c ∧ grid0.kill = none ∧ grid0.ended = false ∧ grid0.nextTeam < pkTeams pv ∧
     (s.swappedOut 0xFFFFFFFF).any (·.asking) = false ∧ (pkSerial pv = true → s.residents 0xFFFFFFFF = []) ∧ s.freeFrame grid0 = some 0 ∧
     grid0.wish = none ∧ prefers (s.prefOf c pv 0) = true ∧ pkAff pv ≠ 1 ∧ pkAff pv ≠ 2) ∧
    (let s := demoS pv idle noTeams
     s.grid? 0xFFFFFFFF = some wished ∧ s.freeFrame wished = some 0 ∧ wished.wish = some wish0 ∧ s.yields wished = false ∧
     (s.findPlace pv [] wish0.pref wish0.expired).isSome = true) ∧
    (let s := demoS pv idle (fun s => { noTeams s with teams := crowd })
     s.grid? 0xFFFFFFFF = some wished ∧ s.findPlace pv [] wish0.pref false = none) ∧
    (let w := { wish0 with since := some 0 }
     let t : Team := { ref := { grid := 0xFFFFFFFF, team := 0 }, wish := some w }
     let s := demoS pv idle (fun s => clockAt 2048 { noTeams s with grids := [{ grid0 with wish := some w }], teams := [t] })
     s.grid? 0xFFFFFFFF = some { grid0 with wish := some w } ∧ s.team? t.ref = some t ∧ (0 : Nat) + 2048 ≤ s.cycle) ∧
    (5 ≤ 5 ∧ 127 < 128 ∧ 128 * 0 + 127 < pkThreads pv ∧ pkThreads pv ≤ 128 * 1 + 0) := by
  refine ⟨?_, ?_, ?_, ?_, ?_⟩ <;> decide +kernel

/-- A grid of two teams with 64 bytes of scratchpad, its pages under one entry of 1 GiB. -/
def p2 : Packet := BitVec.ofNat 1024 (0x1000 + 3 * 2 ^ 57 + 1 * 2 ^ 64 + 1 * 2 ^ 128 + 1 * 2 ^ 149 + 64 * 2 ^ 192 + (1 + 8 * 2 ^ 8) * 2 ^ 320 + 0x1000 * 2 ^ 576)
def grid2 : Grid := { id := 7, slot := 0, asid := 4095, pkt := p2, nextTeam := 1, waiting := some 0 }
def team2 : Team := { ref := { grid := 7, team := 0 }, size := 64 }
def big (s : State) : State :=
  { s with tlb := [0, dieUnit 0, hostUnit].map fun u => { unit := u, asid := 4095, vpn := 0, size := 3, pte := 0x1F#64 } }
def swap (g : Grid) (l : List Team) (gs : List Group) (s : State) : State := { big (clockAt 65536 s) with grids := [g], teams := l, groups := gs }
def group2 : Group := { idle with ref := { grid := 7, team := 0, group := 0 } }
/-- A release that stands in the queue of a saved engine. -/
def savedOne : BfCmd :=
  { g := group2.ref, team := team2.ref, asid := 4095, serial := 1, fut := none, ctr := 0, kind := .inr .release, begun := false, stage := 0 }
/-- A grid that has waited with a team to be placed, and with one to come back, with room and without; a team that may not leave, and one
that may; one that comes back with no preference yet, with a place, and without; and a kill that has nothing to wait for. -/
theorem witness_SwapAndKillEvents :
    (let s := demoS pv idle (swap grid2 [team2] [])
     let s1 := s.setGrid { grid2 with waiting := none }
     s.grid? 7 = some grid2 ∧ grid2.kill = none ∧ 0 + 65536 ≤ s.cycle ∧ ((s.gridTeams 7).filter fun t => t.resident && !t.exited) = [team2] ∧
     team2.leaving = false ∧ s.waitingGrid 7 = true ∧ grid2.nextTeam < pkTeams grid2.pkt ∧ (s1.freeFrame grid2).isSome = true ∧
     highestTeam [team2] = some team2) ∧
    (let g := { grid2 with nextTeam := 2 }
     let t := { team2 with ref := { grid := 7, team := 1 }, resident := false, core := 1 }
     let s := demoS pv idle (swap g [team2, t] [])
     let s1 := s.setGrid { g with waiting := none }
     pkTeams p2 ≤ g.nextTeam ∧ s.waitingGrid 7 = true ∧ lowestTeam (s1.swappedOut 7) = some t ∧ s1.roomAnywhere g t = true) ∧
    (let t := { team2 with ref := { grid := 7, team := 1 }, resident := false, core := 1 }
     let full : List Team := (List.range 320).map fun k => { ref := { grid := 1, team := k }, core := k, size := 1048576 }
     let s := demoS pv idle (swap { grid2 with nextTeam := 2 } (t :: full) [])
     s.roomAnywhere { grid2 with nextTeam := 2 } t = false) ∧
    (let t := { team2 with leaving := true }
     let g := { group2 with round := some round0 }
     let s := demoS pv idle (swap grid2 [t] [g])
     s.team? t.ref = some t ∧ s.ctx? 4095 = some pageCtx ∧ (s.beginLeave t.ref).mayGo t.ref t = false) ∧
    (let t := { team2 with leaving := true }
     let s := demoS pv idle (swap grid2 [t] [group2])
     let s1 := s.beginLeave t.ref
     let cls := pkClass p2
     let own := s1.regCost pageCtx t.core .write (swapVa p2 t.frame) (List.range (pkRangeBytes p2))
     let s2 := ((s1.postTeam t.ref).chargeLines 4095 cls own).regWrite pageCtx t.core (swapVa p2 t.frame) (rangeBytes p2 t)
     s1.mayGo t.ref t = true ∧ s1.heldBf t = [] ∧ s1.fileLines t.ref = [] ∧
     (match s1.reach pageCtx t.core .write (pagesOf (swapVa p2 t.frame) (pkRangeBytes p2)) with | .ok _ => true | .error _ => false) = true ∧
     t.rangePoison p2 = false ∧ ({ t with spPoison := [0] }).rangePoison p2 = true ∧
     s1.linesOpen 4095 cls own = true ∧ (s2.team? t.ref).isSome = true) ∧
    (let t := { team2 with resident := false, asking := true }
     let s := demoS pv idle (swap grid2 [t] [group2])
     s.team? t.ref = some t ∧ grid2.ended = false ∧ s.serialBusy grid2 = false ∧
     lowestTeam ((s.swappedOut 7).filter (·.asking)) = some t ∧ t.savedBf = [] ∧ t.wish = none ∧ prefers (s.prefOf pageCtx p2 0) = true) ∧
    (let t := { team2 with resident := false, asking := true, wish := some wish0 }
     let s := demoS pv idle (swap grid2 [t] [group2])
     let core := (s.findPlace p2 [] wish0.pref false).getD 0
     (s.findPlace p2 [] wish0.pref false).isSome = true ∧ s.yields grid2 = false ∧
     (match s.reach pageCtx core .read (pagesOf (swapVa p2 t.frame) (pkRangeBytes p2)) with | .ok _ => true | .error _ => false) = true ∧
     s.regPoison pageCtx core (swapVa p2 t.frame) (List.range (pkRangeBytes p2)) = false ∧
     ({ s with home := { s.home with poison := [(swapVa p2 t.frame).toNat / 64] } }).regPoison pageCtx core (swapVa p2 t.frame)
       (List.range (pkRangeBytes p2)) = true ∧
     s.linesOpen 4095 (pkClass p2) (s.regCost pageCtx core .read (swapVa p2 t.frame) (List.range (pkRangeBytes p2))) = true ∧
     (let s := demoS pv idle (swap grid2 ({ t with core := 50 } :: crowd) [])
      s.findPlace p2 [] wish0.pref false = none)) ∧
    (let g := { grid2 with kill := some { kind := 0, final := 8 } }
     let s := demoS pv idle (swap g [team2] [])
     s.grid? 7 = some g ∧ g.ended = false ∧ s.killBusy 7 = false ∧ s.killWaits g = false ∧ s.savedCmd 7 = none ∧
     (demoS pv idle (swap g [{ team2 with resident := false, savedBf := [(0, { queue := [savedOne] })] }] [])).savedCmd 7 =
       some ({ team2 with resident := false, savedBf := [(0, { queue := [savedOne] })] }, 0, savedOne) ∧
     s.counterWaits 4095 hostUnit (pkClass p2) (pkCcnt p2) = none) := by
  refine ⟨?_, ?_, ?_, ?_, ?_, ?_, ?_, ?_⟩ <;> decide +kernel

def ready3 (f : Device → Device) : State := { State.reset with dev := f { State.reset.dev with state := 3 } }
/-- Writes of QWRITE within the ring and beyond it; of QCTL that disable, enable and reconfigure; of QBASE; for the last queue; of function 5,
which owns queue 63 alone. -/
theorem witness_QueueRegisterWrites :
    (ready3 id).dev.state = 3 ∧ 63 < 64 ∧
    (let s := ready3 fun d => { d with qowner := [(63, 5)] }
     s.vfOwns 5 63 = true ∧ s.vfOwns 5 62 = false) ∧
    (let q := queue0 true false none
     let v : Word64 := 1
     let q0 := { q with write := 0 }
     q0.mode = false ∧ 0 < (v - q0.write).toNat ∧ (v - q0.write).toNat ≤ 2 ^ q0.logn ∧ (v - q0.read).toNat ≤ 2 ^ q0.logn ∧
     (2 ^ q.logn < ((2 : Word64) - q.read).toNat) ∧ (queue0 true true none).mode = true ∧ q.en = true ∧ (queue0 false false none).en = false ∧
     (ctl false false).getLsbD 18 = false ∧ (ctl true false).getLsbD 18 = true ∧
     (q.qctl ^^^ (ctl false false &&& 0xFFFFF)) &&& 0x3FFFF = 0 ∧ (q.qctl ^^^ (1 &&& 0xFFFFF)) &&& 0x3FFFF ≠ 0 ∧
     ((queue0 false false none).qctl ^^^ (ctl true false &&& 0xFFFFF)) &&& 0x3FFFF = 0 ∧
     (q.qctl ^^^ (ctl true true &&& 0xFFFFF)) &&& 0xBFFFF ≠ 0 ∧ (0x2000 : Word64) &&& 0x01FFFFFFFFFFFFFF ≠ q.qbase) := by
  decide +kernel
/-- A descriptor that is valid, with its root at 0x4000. -/
def descBytes : List Byte := leBytes (1 + 4 * 2 ^ 27 + 0x4000 * 2 ^ 64 + 0x5000 * 2 ^ 128 + 0x6000 * 2 ^ 384) 128
def syncing (f : Device → Device) (l : List Context) : State :=
  let s := ready3 fun d => f { d with ctxBase := 0x100000, ops := [.sync 1] }
  { s with home := { s.home with mem := setBytes [] (0x100000 + 128) descBytes }, ctxs := l }
/-- Each operation alone, a kill ahead of others, and an invalidation that has accesses to wait for; syncs of a new context, of one whose
root stays and of one whose root changes, with accesses to wait for and without; and of an invalid descriptor, with a grid and without. -/
theorem witness_DeviceOperations :
    ((ready3 id).dev.state = 3 ∧
     bits (0 : Word64) 62 2 = 0 ∧ bits (0x4000000000000000 : Word64) 62 2 = 1 ∧ bits (0x8000000000000000 : Word64) 62 2 = 2 ∧
     ({ ready3 id with ctxs := [{ asid := 1, desc := 0 }] }).ctx? (bits (1 : Word64) 0 12) = some { asid := 1, desc := 0 }) ∧
    (let s := { ready3 (fun d => { d with ops := [.gridkill 4095 0xFFFFFFFF, .attest] }) with grids := [grid0] }
     let v : Word64 := 0xFFFFFFFFFFF
     s.dev.state = 3 ∧ s.grids = [grid0] ∧ grid0.ended = false ∧ grid0.id = BitVec.ofNat 32 (bits v 12 32) ∧ grid0.asid = bits v 0 12 ∧
     s.killing (.gridkill 4095 0xFFFFFFFF) = true) ∧
    (∀ g ∈ (ready3 id).grids, g.id ≠ BitVec.ofNat 32 (bits (1 : Word64) 12 32)) ∧
    (let s := ready3 fun d => { d with ops := [.attest, .inval 0 1 1 0, .inval 2 1 1 0] }
     (∀ o ∈ s.dev.ops, s.killing o = false) ∧ (∀ w ∈ s.zwalks, w.owner = true) ∧ s.firstAts = none ∧ s.firstOp DevOp.isInval = some (.inval 0 1 1 0) ∧
     s.accessesOf (invAsid 0 1) (invReaches 0 1 0) = false ∧ s.firstOp DevOp.isAttest = some .attest) ∧
    (let s := demoS pe { idle with outbox := [(.a, .atoms [atom0 false] false)] } fun s => { s with dev := { s.dev with ops := [.inval 0 1 4095 0], state := 3 } }
     s.firstOp DevOp.isInval = some (.inval 0 1 4095 0) ∧ s.accessesOf (invAsid 0 4095) (invReaches 0 1 0) = true) ∧
    (let s := ready3 fun d => { d with ops := [.attest, .ats 1 0 1] }
     s.firstAts = some (.ats 1 0 1) ∧ s.firstOp DevOp.isInval = none ∧ s.pasidBusy 1 = false) ∧
    (let s := syncing id []
     let r := s.dev.synced.getD (s.readSync 1)
     let c := newContext s 1 r
     s.poisoned (s.descAt 1) 128 = false ∧ s.poisoned (bits r.1 384 64) 512 = false ∧
     s.firstOp DevOp.isSync = some (.sync 1) ∧ (c.desc.getLsbD 0 && r.2.isSome && descValid s c) = true ∧ s.ctx? 1 = none ∧ c.root = 0x4000) ∧
    (let x : Context := { asid := 1, desc := 1 + 0x4000#1024 <<< 64 }
     let s := syncing id [x]
     s.ctx? 1 = some x ∧ (newContext s 1 (s.readSync 1)).root = x.root ∧
     (let c := newContext s 1 (s.readSync 1)
      (c.desc.getLsbD 0 && (s.readSync 1).2.isSome && descValid s c) = true)) ∧
    (let x : Context := { asid := 1, desc := 1 + 0x5000#1024 <<< 64 }
     let s := syncing id [x]
     let t := demoS pe { idle with outbox := [(.a, .atoms [atom0 false] false)] } id
     s.ctx? 1 = some x ∧ x.root ≠ (newContext s 1 (s.readSync 1)).root ∧ (∀ w ∈ s.zwalks, w.owner = true) ∧
     s.accessesOf (· == 1) (fun _ => true) = false ∧ t.accessesOf (· == 4095) (fun _ => true) = true) ∧
    (let s := ready3 fun d => { d with ops := [.sync 1] }
     let r := s.dev.synced.getD (s.readSync 1)
     let c := newContext s 1 r
     s.firstOp DevOp.isSync = some (.sync 1) ∧ (c.desc.getLsbD 0 && r.2.isSome && descValid s c) = false ∧ (∀ g ∈ s.grids, g.asid ≠ 1) ∧
     (s.killWhere (fun g => g.asid == 1) 39).ctxBusy 1 = false) ∧
    (let s := { ready3 (fun d => { d with ops := [.sync 4095] }) with grids := [grid0] }
     (newContext s 4095 (s.readSync 4095)).desc.getLsbD 0 = false ∧ (s.killWhere (fun g => g.asid == 4095) 39).ctxBusy 4095 = true) ∧
    (ready3 fun d => { d with ops := [.sync 0] }).firstOp DevOp.isSync = some (.sync 0) := by
  refine ⟨?_, ?_, ?_, ?_, ?_, ?_, ?_, ?_, ?_, ?_, ?_, ?_⟩ <;> decide +kernel

/-- Each state of DEVSTAT with the values of the writes; the boundaries of the period, the throttle and the trip. That some image passes its
check no state shows: the spec does not give the key (log 8). -/
theorem witness_DeviceEvents :
    State.reset.dev.state = 0 ∧ (0x800000 : Nat) + ([] : List Byte).length ≤ 0x800000 ∧ bits (1 : Word64) 0 2 = 1 ∧ bits (2 : Word64) 0 2 = 2 ∧
    0x800000 < 0x800001 ∧ imageCause 0 [] ≠ 0 ∧ (ready3 id).dev.state = 3 ∧ (ready3 id).ctxs = [] ∧ [pageCtx] ≠ [] ∧ (ready3 id).grids = [] ∧
    (ready3 fun d => { d with ns := 10000 }).dev.period < 10000 / 10000 ∧
    (ready3 fun d => { d with ns := 1000000 }).dev.throttleAt + 1000000 ≤ 1000000 ∧
    100 < 101 ∧ 94 < 95 ∧ (95 ≤ 100 ∧ 100 ≤ 100) ∧ (110 ≤ 110 ∨ 50 < 50) ∧ (110 ≤ 109 ∨ 50 < 51) := by decide +kernel
/-- The last byte of memory; a grant of one page to device 3, and none to device 4; a virtual function with a context, and one without; the
capability region, which no write reaches. -/
def granted3 : State :=
  ready3 fun d => { d with grants := setBytes [] 0 (leBytes (1 + 4 + 8 + 3 * 2 ^ 4 + 0x1000 * 2 ^ 64) 16) }
theorem witness_OutsideAccesses :
    (2 ^ 42 - 1 + 1 ≤ 2 ^ 42) ∧ granted3.dev.granted 3 0xFFF 1 false = true ∧ granted3.dev.granted 3 0xFFF 1 true = true ∧
    granted3.dev.granted 3 0xFFF 2 false = false ∧ granted3.dev.granted 4 0 1 true = false ∧
    (let c : Context := { asid := 4095, desc := 5#1024 <<< 38 }
     let s := demoS pe idle (fun s => { s with ctxs := [c], dev := { s.dev with state := 3 } })
     s.vfContext 5 = some c ∧ s.vfContext 6 = none ∧ s.access hostUnit c .read 0x1FFF = .ok 0x1FFF) ∧
    paWritable 0xFFF = true ∧ paWritable (64 * ((0xFC0 + 63) / 64)) = true ∧ paWritable capPa = false := by decide +kernel

def cmd0 (eng : Nat) (k : CmdKind) : Command :=
  { serial := 1, g := loadRef, asid := 4095, core := 0, slot := 0, gen := 0, eng := eng, kind := k, ctr := 0, lines := [] }
def withCmd (c : Command) : State := demoS pe idle fun s => { s with cmds := [c] }
/-- A tensor of one `u8`, copied from the mapped page into its line at 0x1040. -/
def rec1 : BitVec 512 := BitVec.ofNat 512 (1 + 6 * 2 ^ 463 + 1 * 2 ^ 467)
def copy1 : Command := { cmd0 1 (.copy rec1 rec1 0x1000 0x1040 [0, 0, 0, 0, 0] 0 0 0) with lines := [(none, 0x1040 / 64)] }
/-- Two bytes whose stride is 0, so that both go to one address. -/
def twice1 : CmdKind :=
  let r : BitVec 512 := BitVec.ofNat 512 (2 + 6 * 2 ^ 463 + 1 * 2 ^ 467)
  .copy r r 0x1000 0x1040 [0, 0, 0, 0, 0] 0 0 0
def lineDone : LineOut → Bool
  | .done _ _ => true
  | _ => false
/-- A communicator of one rank, this core of this device, its table at the mapped page, with a reduction of one element; and one whose table
is not mapped. -/
def coll1 (table : Nat) : CollReq :=
  { comm := BitVec.ofNat 512 table, seq := 1, src := 0x1040, dst := 0x1080, n := 1, ty := 0, op := 0, red := 0, sspace := 0, dspace := 0, rm := 0 }
def collCmd (table : Nat) (cancel : Bool) : Command :=
  { cmd0 3 (.coll (BitVec.ofNat 512 table) 1 0x1040 0x1080 1 0 0 0 0 0 0) with cancel := cancel }
def referral1 (l : Table Node) (a : Word32 ⊕ Nat) : Referral :=
  { g := loadRef, core := 0, key := 0, lane := 0, prio := 0, a := a, b := none, stage := none, nodes := l }
/-- A line that can be moved, and one that fails; commands with no line left, that have failed, and that are cancelled; a packet with room in
its queue, and a queue that is not the command's; a collective of one rank, whose entry is its own or not, and one that is cancelled; a
referral. -/
theorem witness_EngineEvents :
    (let s := withCmd copy1
     let s1 := s.served (queueAt 0 1) 4095
     s.cmd? 1 = some copy1 ∧ s.ctx? 4095 = some pageCtx ∧ (boxOf copy1.kind).isSome = true ∧
     copy1.lines.find? (fun l => decide (l.2 = 0x1040 / 64)) = some (none, 0x1040 / 64) ∧ copy1.going s 27 = true ∧
     s.copyTurn 0 4095 = true ∧
     (boxOf copy1.kind).any (fun b => lineDone (copyLine s1 { copy1 with stop := none } pageCtx b (none, 0x1040 / 64))) = true) ∧
    (let c := copy1
     let s := (withCmd c).served (queueAt 0 1) 4095
     let s := { s with home := { s.home with poison := [0x1000 / 64] } }
     (boxOf c.kind).any (fun b => match copyLine s { c with stop := none } pageCtx b (none, 0x1040 / 64) with | .fail _ _ => true | _ => false) = true) ∧
    ((cmd0 1 copy1.kind).lines = [] ∧ copyWaits (withCmd copy1) copy1 = none ∧ boxTwice copy1.kind = false ∧ boxTwice twice1 = true ∧
     boxBad twice1 = false ∧
     ({ cmd0 2 copy1.kind with failed := some (3, 0) }).failed = some (3, 0) ∧
     ({ cmd0 1 copy1.kind with cancel := true }).det = false ∧
     (let c := { cmd0 1 copy1.kind with ctr := 0x1000 }
      (copyWaits (demoS pe idle fun s => { withTable 0x3F 0x80 s with cmds := [c] }) c).isSome = true)) ∧
    (let c := cmd0 4 (.launch pv 0)
     let q := { queue0 true true none with write := 0 }
     let s := demoS pe idle fun s => { s with cmds := [c], queues := [(0, q)], tlb := { unit := dieUnit 0, asid := 4095, vpn := 1, size := 0, pte := 0x101F } :: s.tlb }
     let s1 := s.served (queueAt 0 1) 4095
     c.kind = .launch pv 0 ∧ s.cmd? 1 = some c ∧ s.ctrWaits c = none ∧ s1.ctrWaits c = none ∧ c.going s 27 = true ∧ s.copyTurn 0 4095 = true ∧
     s.free 4095 [] none = true ∧ (s.queue 0).en = true ∧ (s.queue 0).mode = true ∧ (s.queue 0).asid = c.asid ∧ q.write.toNat - q.read.toNat < 2 ^ q.logn ∧
     s1.waitZero (dieUnit (dieOf c.core)) pageCtx .write (q.slot q.write.toNat) 128 = none ∧
     s1.access (dieUnit (dieOf c.core)) pageCtx .write (q.slot q.write.toNat) = .ok 0x1000 ∧
     s1.access (dieUnit (dieOf c.core)) pageCtx .write (q.slot q.write.toNat + 64) = .ok 0x1040 ∧
     s1.linesOpen 4095 (s.classOf c.g.grid) (s1.xlatReads (dieUnit 0) pageCtx (q.slot q.write.toNat) ++
       s1.xlatReads (dieUnit 0) pageCtx (q.slot q.write.toNat + 64) ++ [0x1000, 0x1040]) = true ∧ (queue0 true false none).mode = false) ∧
    (let c := { collCmd 0x1000 false with failed := some (9, 0) }
     let s := withCmd c
     let own := tableLines s c (coll1 0x1000) [commMine (coll1 0x1000).comm]
     collReq c.kind = some (coll1 0x1000) ∧ c.failed = some (9, 0) ∧ taintStalls s (instanceOf s (coll1 0x1000)) = none ∧
     collWaits s c (coll1 0x1000) = none ∧ (3 : Nat) ≠ 10 ∧ s.linesOpen 4095 (s.classOf c.g.grid) own = true ∧
     own = [0x1000]) ∧
    (let c := collCmd 0x1000 false
     let q := coll1 0x1000
     let s := withCmd c
     let s1 := s.served (queueAt 0 3) 4095
     s.cmd? 1 = some c ∧ c.going s 28 = true ∧ tableMiss s c q = none ∧ wrongRank s (instanceOf s q) = (none, false) ∧ collIssued s c q = true ∧
     s.turnOf (queueAt 0 3) 4095 (collReady s 0) = true ∧ collWaits s1 c q = none ∧ remoteDevs s1 c q = [] ∧
     instanceOf s q = [(commMine q.comm, c, q)] ∧ collAgree q q = true ∧ ranksHeld s1 (instanceOf s q) (wholeTable s1) = false ∧
     collStalls s1 (instanceOf s q) = none ∧ collFails s1 (instanceOf s q) = [] ∧
     ranksHeld s1 (instanceOf s q) (rankLines s1 (instanceOf s q)) = false) ∧
    (let c := collCmd 0 true
     let s := withCmd c
     s.cmd? 1 = some c ∧ c.cancel = true ∧ c.abort = false ∧ c.det = false ∧ instanceOf s (coll1 0) = [(commMine (coll1 0).comm, c, coll1 0)] ∧
     localRanks s c (coll1 0) = none ∧ collWaits s c (coll1 0) = none) ∧
    (let r := referral1 [] (.inl 0x3F800000)
     let g := { idle with pend := [later (.xcmp 0 0 false 0 [0])] }
     let s := demoS pe g fun s => { s with referrals := [r] }
     let tm : Team := { ref := loadRef.tref, size := 0x40000 }
     nextReferral s 0 = some r ∧ s.team? loadRef.tref = some tm ∧ s.group? loadRef = some g ∧ s.gridCtx? loadRef.grid = some pageCtx ∧
     (match reachSpill (s.served (queueAt 0 5) 4095) g pageCtx tm (reachFrom r.nodes (r.a :: r.b.toList)) [] with
      | .ok => true | _ => false) = true ∧ (referralAnswer false r).2 = none) ∧
    (referralAnswer false (referral1 [(0, mkNode opDIV 3 1 false 0x3F800000 0 0)] (.inr 0))).2 = some 0 ∧
    (((demoS pe idle id).served (queueAt 0 5) 4095).logWaits loadRef.tref none).isNone = true := by
  refine ⟨?_, ?_, ?_, ?_, ?_, ?_, ?_, ?_, ?_⟩ <;> decide +kernel

/-- Whether or not the line of its entry is charged (`Config.hbmCharged`), the collective of one rank reads its own. -/
theorem witness_EngineEvents_entry :
    let c := { collCmd 0x1000 false with failed := some (9, 0) }
    let s := (withCmd c).chargeLines 4095 ((withCmd c).classOf c.g.grid) [0x1000]
    rankEntry s c (coll1 0x1000) (commMine (coll1 0x1000).comm) = .val 0 false ∧ wrongEntry s c 0 = false := by
  simp only [State.chargeLines, List.foldl, State.chargeLine]
  generalize Config.hbmCharged _ = b
  revert b
  decide +kernel

def bfCmd (k : CmdKind ⊕ BfOp) (begun : Bool) (stage : Nat) : BfCmd :=
  { g := loadRef, team := loadRef.tref, asid := 4095, serial := 1, fut := some (0, 0), ctr := 0, kind := k, begun := begun, stage := stage }
/-- An engine with two slots of bf16, one row each, and an enabled stride register that takes its weights from the second. -/
def bf1 (l : List BfCmd) : BfEngine :=
  let sl : BfSlot := { claimed := true, tag := 10, rows := 1 }
  { holder := some loadRef.tref, slots := [(0, sl), (1, sl)], bst := [(0, 0x80100)], queue := l }
/-- An engine whose stage of 64 rows of binary32, two tiles wide, with 128 weight rows of LNS6, takes 4096 cycles. -/
def bf2 (l : List BfCmd) : BfEngine :=
  let sl : BfSlot := { claimed := true, tag := 8, rows := 64 }
  let w : BfSlot := { claimed := true, tag := 12, rows := 1 }
  { holder := some loadRef.tref, slots := [(0, sl), (1, sl), (2, sl), (3, sl), (4, w), (5, w), (6, w), (7, w)], bst := [(0, 0x96470)],
    queue := l }
/-- The group of the commands, with their future pending. -/
def issuer : Group := { idle with futures := [(0, { isDone := false, eng := 5 })] }
def withBf (l : List BfCmd) : State := demoS pe issuer fun s => s.setBf 0 (bf1 l)
def fill1 : CmdKind := .osfill 10 0 0 0x1000 512 0
def save1 : CmdKind := .ossave 10 0 0 0x1000 512 0
def planned (r : Except Nat StagePlan) : Bool :=
  match r with
  | .ok _ => true
  | .error _ => false
/-- What `ButterflyEvents` asks of a lone command. -/
def aloneB (s : State) (c : BfCmd) : Bool :=
  decide ((s.bfOf 0).queue = [c] ∧ (s.bfOf 0).leaving = false ∧ (s.bfOf 0).latch = none ∧ c.stop = false ∧ c.peers = [] ∧ c.ctr = 0 ∧
    c.fut = some (0, (issuer.future 0).gen) ∧ s.group? c.g = some issuer ∧ (issuer.future 0).isDone = false ∧ (s.bfOf 0).next = some c) &&
  (bfHeldUp s 0 [c]).isNone
/-- A release, and BFZERO of a team that holds the engine and of one that does not; a stage whose checks pass, and one whose fail; a drain; a
stage of one pass, and of two; a transfer whose lines are moved, a save that fails, and a line of a fill. -/
theorem witness_ButterflyEvents :
    (let c := bfCmd (.inr .release) false 0
     let s := withBf [c]
     (s.bfOf 0).next = some c ∧ (bfHeldUp s 0 [c]).isNone = true ∧ s.free c.asid c.after c.hold = true ∧
     ((s.bfOf 0).queue.any fun x => x.stop && !x.begun) = false ∧ latchBroken s 0 = false) ∧
    (let c := bfCmd (.inl (.zero 0)) false 0
     let s := withBf [c]
     aloneB s c = true ∧ c.held = true ∧ s.free c.asid c.after c.hold = true ∧ ((s.bfOf 0).queue.any fun x => x.stop && !x.begun) = false ∧
     latchBroken s 0 = false ∧ ({ c with held := false }).held = false) ∧
    (let c := bfCmd (.inl (.stage false 0 0 0 false 0)) false 0
     let s := withBf [c]
     aloneB s c = true ∧ planned (planStage (s.bfOf 0) false 0 0 0) = true ∧ planStage (s.bfOf 0) false 0 2 0 = .error 1) ∧
    (let c := bfCmd (.inl (.drainSlot 10 0 0 0)) false 0
     let s := withBf [c]
     aloneB s c = true ∧ runClaimed (s.bfOf 0) 0 1 = true ∧ ((s.bfOf 0).acc 0).poison = false) ∧
    (let c := bfCmd (.inl (.stage false 0 0 0 false 0)) true 0
     let s := withBf [c]
     aloneB s c = true ∧ s.admitted c.asid (s.classOf c.g.grid) 24 = true ∧ c.pass = 0 ∧ c.stage = 0 ∧
     (match planStage (s.bfOf 0) false 0 0 0 with
      | .ok p => (runPass (s.bfOf 0) p 0 c.mid c.stage c.pass).done && decide (planCycles (s.bfOf 0) p 0 ≤ 2048) &&
          !stXt (stageIn (s.bfOf 0) p c.mid 0).r
      | .error _ => false) = true) ∧
    (let c := bfCmd (.inl (.stage false 0 0 0 false 0)) true 0
     let s := demoS pe issuer fun s => s.setBf 0 (bf2 [c])
     aloneB s c = true ∧
     (match planStage (s.bfOf 0) false 0 0 0 with | .ok p => decide (2048 < planCycles (s.bfOf 0) p 0) | .error _ => false) = true) ∧
    (let c := bfCmd (.inl fill1) true 8
     let s := withBf [c]
     aloneB s c = true ∧ s.ctx? c.asid = some pageCtx ∧ stageOf c.kind = none ∧ s.xferGoing 0 = some c ∧ s.copyTurn 0 4095 = true ∧
     (bfHeldUp (s.served (queueAt 0 1) 4095) 0 [c]).isNone = true ∧
     (match planXfer (s.bfOf 0) true fill1 with | .ok x => x.fill && (x.span 8).isNone && decide (1 ≤ x.rows) | .error _ => false) = true) ∧
    (let c := bfCmd (.inl save1) true 8
     let s := withBf [c]
     (match planXfer (s.bfOf 0) true save1 with | .ok x => !x.fill && (x.span 8).isNone | .error _ => false) = true ∧
     planXfer (s.bfOf 0) true (.ossave 10 0 2 0x1000 512 0) = .error 2) ∧
    (let c := bfCmd (.inl fill1) true 0
     let s := withBf [c]
     aloneB s c = true ∧ s.access 0 pageCtx .read 0x1000 = .ok 0x1000 ∧ s.poisonAt (.mem 0x1000) 64 = false ∧
     (let s1 := s.served (queueAt 0 1) 4095
      s1.linesOpen 4095 (s1.classOf c.g.grid)
        (s1.walkLines { unit := 0, ctx := pageCtx, tm := c.team, own := [c.serial] } 0 [0x1000] ++ s1.hbmLines [.mem 0x1000]) = true ∧
      (bfHeldUp s1 0 [c]).isNone = true) ∧ s.xferGoing 0 = some c ∧ s.copyTurn 0 4095 = true ∧
     (match planXfer (s.bfOf 0) true fill1 with
      | .ok x => decide (x.span 0 = some (0x1000, 64, false, 0) ∧ x.fill = true ∧ x.space = 0)
      | .error _ => false) = true) := by
  refine ⟨?_, ?_, ?_, ?_, ?_, ?_, ?_, ?_, ?_⟩ <;> decide +kernel

def swRun1 (started cancel : Bool) : SwRun :=
  { serial := 1, g := loadRef, slot := 0, gen := 0, recAt := 0x1000, ctr := 0, started := started, cancel := cancel }
/-- A sheet of one element at the mapped page, its step table there too, a limit of 9 sweeps; the page lies in system memory, whose host
translation the device holds. -/
def sheet2 (r : SwRun) : Sheet :=
  { sheet1 with record := BitVec.ofNat 512 (0x1000 + 0x1100 * 2 ^ 64 + 9 * 2 ^ 320 + 2 ^ 448), deckle := [(0, true)], runs := [r] }
def swept (el : Nat) (r : SwRun) : State :=
  demoS pe idle fun s => { s with
    sheets := [sheet2 r]
    tlb := s.tlb.map fun t => { t with pte := BitVec.ofNat 64 (2 ^ 51 + 0x101F) }
    dev := { s.dev with atc := [{ pasid := 0, page := 1, host := 1 }] }
    home := { s.home with mem := setBytes [] (2 ^ 51 + 0x1000) (leBytes el 8) } }
/-- A word of an element that sleeps for five sweeps. -/
def asleep : Nat := (2 * 2 ^ 23 + 5 * 2 ^ 16) * 2 ^ 32
def swNext : SwOut → Bool
  | .next _ => true
  | _ => false
def waitsAre (r : Except SwErr (List Nat)) (l : List Nat) : Bool :=
  match r with
  | .ok ws => ws == l
  | .error _ => false
/-- A run that is cancelled before it starts; one that starts with nothing queued and an element in RUN; a sweep of an element that sleeps
on, after which the run goes on; and a sweep whose element lies on a page that is zeroing. -/
theorem witness_SheetEvents :
    (∃ x c, (swept 0 (swRun1 false true)).headRun 0 0 = some (x, swRun1 false true, c) ∧ (swept 0 (swRun1 false true)).orphans = []) ∧
    (let s := swept 0 (swRun1 false false)
     let x := sheet2 (swRun1 false false)
     s.headRun 0 0 = some (x, swRun1 false false, pageCtx) ∧ s.sweepTurn x = true ∧
     (let s1 := s.served (queueAt 0 4) 4095
      let all := s1.elemLines x pageCtx (List.range (shCount x.record))
      let s2 := s1.chargeLines 4095 (s.classOf x.team.grid) all
      s1.linesOpen 4095 (s.classOf x.team.grid) all = true ∧ x.queue = [] ∧ x.pendW = [] ∧
      (match s2.stepCode x pageCtx with
       | .ok tc => s2.sheetOpen x (s2.codeLines x pageCtx tc.1) &&
           waitsAre (allWaits ((s2.chargeSheet x (s2.codeLines x pageCtx tc.1)).sheetIo x pageCtx) x.record []) [0]
       | .error _ => false) = true)) ∧
    (let r := swRun1 true false
     let s := swept asleep r
     let x := sheet2 r
     s.headRun 0 0 = some (x, r, pageCtx) ∧ s.admitted 4095 (s.classOf x.team.grid) 25 = true ∧ s.sweepTurn x = true ∧
     (let s1 := s.served (queueAt 0 4) 4095
      let seen := s1.elemLines x pageCtx ((List.range (shCount x.record)).filter fun i => Table.get false x.deckle (i / 64))
      let s2 := s1.chargeLines 4095 (s.classOf x.team.grid) seen
      let outs := sweepAll (s2.sheetIo x pageCtx) x.record r.table r.code x.deckle
      let w : Elems := outs.foldl (fun w o => o.w.foldl (fun w p => Table.put w p.1 p.2) w) []
      s1.linesOpen 4095 (s.classOf x.team.grid) seen = true ∧ outs.all (·.fault.isNone) = true ∧ w.length = 1 ∧
      boundaryEffects x.record outs = [] ∧ s2.sheetOpen x (s2.wordLines x pageCtx w) = true ∧ waitsAre (allWaits (s2.sheetIo x pageCtx) x.record w) [2] = true ∧
      r.sweeps + 1 < shLimit x.record ∧ swNext (s2.sweepOnce x r pageCtx) = true)) ∧
    (let r := swRun1 true false
     let s := demoS pe idle fun s => { withTable 0x3F 0x80 s with sheets := [sheet2 r] }
     s.headRun 0 0 = some (sheet2 r, r, rooted) ∧ swNext (s.sweepOnce (sheet2 r) r rooted) = false) := by
  refine ⟨⟨_, _, rfl, rfl⟩, ?_, ?_, ?_⟩ <;> decide +kernel

def faultAt0 : FaultInfo := { cause := 1, pc := loadPc, addr := 0, lanes := 3, pos := 1 }
/-- Entries at levels 0 and 1 with a handler, at level 2, and without one; returns from both levels. -/
theorem witness_TrapEntryAndReturn :
    (let c : Context := { asid := 4095, desc := 1 + 0x8000#1024 <<< 256 }
     let s := demoS pe idle fun s => { s with ctxs := [c] }
     s.gridCtx? idle.ref.grid = some c ∧ s.group? idle.ref = some idle ∧ c.trapPc = 0x8000 ∧ idle.level.toNat < 2 ∧
     ({ idle with level := 1 }).level.toNat < 2 ∧ 2 ≤ ({ idle with level := 2 }).level.toNat) ∧
    (let s := demoS pe idle id
     s.gridCtx? idle.ref.grid = some pageCtx ∧ s.group? idle.ref = some idle ∧ pageCtx.trapPc = 0) ∧
    (({ idle with level := 1 }).level = 1 ∧ ({ idle with level := 2 }).level = 2) ∧ faultAt0.lanes.getLsbD 1 = true ∧ faultAt0.lanes.getLsbD 2 = false := by
  refine ⟨?_, ?_, ?_, ?_⟩ <;> decide +kernel
/-- A pending future and one that is done; DONE, and the least status that fails. -/
theorem witness_FutureCompletion :
    (let g := { idle with futures := [(0, { isDone := false, eng := 1 })] }
     (demoS pe g id).group? loadRef = some g ∧ (g.future 0).isDone = false ∧ (g.future 1).isDone = true ∧ 1 ≠ 0) ∧
    bits (1 : Word64) 0 3 = 1 ∧ 3 ≤ bits (3 : Word64) 0 3 ∧ ¬ 3 ≤ bits (2 : Word64) 0 3 ∧
    (let h := mkHandle 0 1 0 0
     namesFuture 1 0 0 0 h = true ∧ ({ waits := [(2, .fut h)] } : Thread).waits = [(2, .fut h)] ∧
     ({ waits := [(1, .ordw 0), (2, .fut h)] } : Thread).waits = [(1, .ordw 0), (2, .fut h)]) := by decide +kernel
/-- Two bytes at 0x10, and the bytes on both sides of them. -/
theorem witness_HomeWrites : (1 < [(1 : Byte), 2].length) ∧ (0xF < 0x10 ∨ 0x10 + 2 ≤ 0xF) ∧ (0x12 < 0x10 ∨ 0x10 + 2 ≤ 0x12) ∧
    (∀ p ∈ ({} : Home).past, p.seq ≤ ({} : Home).seq) ∧ Memory.wf ({} : Home).mem = true := by decide +kernel
/-- The state in which `NOP` is the next word (R27); time; and an event. -/
def nopState : State := State.reset.withFetchWord 64 0x94E0000000000000
theorem witness_StepRunsTheTurn :
    ({ State.reset with turns := [.time 5] }).turns = [.time 5] ∧ isWord .powerOn = false ∧ nopState.turns = [.word loadRef .a] ∧
    (let g := loadGroup State.reset
     let rd := (g.round).getD round0
     let r := (rd.run? .a).getD run0
     nopState.group? loadRef = some g ∧ g.round = some rd ∧ rd.run? .a = some r ∧ r.ended = false ∧ r.missing = [] ∧ r.pos + 1 ≠ 24 ∧
     decode 0x94E0000000000000#64 = .ok (.nop zf) ∧ (isControl (.nop zf) = true → rbOf (.nop zf) = true) ∧
     undeclared (nopState.pkt loadRef.grid) g.role (.nop zf) = false ∧ g.poison = [] ∧ failedRead r (.nop zf) = none ∧ rd.mayIssue .a = true ∧
     ({ rd with b := some run0 }).mayIssue .b = false) := by
  refine ⟨?_, ?_, ?_, ?_⟩ <;> decide +kernel
theorem witness_fetch : ({ nopState with turns := [] }).fetch 0 ((nopState.gridCtx? loadRef.grid).getD { asid := 0, desc := 0 }) loadPc =
    .word 0x94E0000000000000 0x1000 ∧
    (let s := { nopState with turns := [] }
     let c := (s.gridCtx? loadRef.grid).getD { asid := 0, desc := 0 }
     s.linesOpen c.asid (pkClass (s.pkt loadRef.grid)) (s.xlatReads 0 c loadPc ++ [0x1000]) = true) := by decide +kernel
theorem witness_DecodeEncode : wellFormed (.nop zf) = true ∧ encode (.nop zf) = some 0x94E0000000000000#64 := ⟨by decide, rfl⟩
/-- Power comes on (R433). -/
theorem witness_MemoryCanonical : memOk { State.reset with turns := [.event .powerOn] } ∧
    step { State.reset with turns := [.event .powerOn] } = .next { State.reset with dev := { State.reset.dev with state := 1 } } := ⟨rfl, rfl⟩

/-! Values at which the clauses of the statements meet, and the further cases of those above. -/

/-- A length of 0, a position of 32, and a field that reaches bit 31 and no further. -/
theorem witness_bitFields : ((0 : Word32) = 0 ∨ 32 ≤ (5 : Word32).toNat) ∧ ((5 : Word32) = 0 ∨ 32 ≤ (32 : Word32).toNat) ∧
    0 < min (8 : Word32).toNat (32 - min (31 : Word32).toNat 32) ∧ 0 < min (1 : Word32).toNat (32 - min (0 : Word32).toNat 32) := by decide

/-- NaNs that signal and that do not; an infinity beside a number, a zero and an infinity; a zero divisor; an exact zero sum. -/
theorem witness_specialOperands : (FVal.nan true).isNaN = true ∧ (FVal.nan false).isNaN = true ∧
    zeroTimesInf (.nan false) (.fin false 1 0) = false ∧ mulVal (.inf false) (.fin true 1 0) = .inf true ∧
    zeroTimesInf (.inf false) (.fin true 1 0) = false ∧ (0 : Nat) = 0 ∧ (1 : Nat) ≠ 0 ∧
    ratOf (.fin false 1 0) * ratOf (.fin false 1 0) + ratOf (.fin true 1 0) = 0 ∧
    ratOf (.fin false 0 0) * ratOf (.fin false 1 0) + ratOf (.fin false 0 0) = 0 := by
  refine ⟨by decide, by decide, by decide, by decide, by decide, rfl, by decide, ?_⟩; norm_num [ratOf]
/-- Binary32 words: NaNs, an infinity, numbers; 1 and 2 are powers of two and 3 is none, 1 is an integer and 1/2 is none. -/
theorem witness_binary32Operands : u32 0x7FC00000 = .nan false ∧ u32 0x7F800001 = .nan true ∧
    ((u32 0xFF800000).isNaN = false ∧ (u32 0xFF800000).isFinNZ = false) ∧ (u32 0x40400000).isFinNZ = true ∧
    (0x40400000#32).msb = false ∧ ratOf (u32 0x3F800000) = 1 ∧ ratOf (u32 0x40000000) = 2 ∧ ratOf (u32 0x40400000) = 3 ∧
    ratOf (u32 0x3F000000) = 1 / 2 ∧ (∀ k : ℤ, (3 : ℝ) ≠ (2 : ℝ) ^ k) ∧ (∀ k : ℤ, (1 / 2 : ℝ) ≠ k) := by
  have h1 : u32 0x3F800000 = .fin false 0x800000 (-23) := by decide +kernel
  have h2 : u32 0x40000000 = .fin false 0x800000 (-22) := by decide +kernel
  have h3 : u32 0x40400000 = .fin false 0xC00000 (-22) := by decide +kernel
  have h4 : u32 0x3F000000 = .fin false 0x800000 (-24) := by decide +kernel
  refine ⟨by decide +kernel, by decide +kernel, by decide +kernel, by decide +kernel, by decide, ?_, ?_, ?_, ?_, ?_, ?_⟩
  · rw [h1]; norm_num [ratOf]
  · rw [h2]; norm_num [ratOf]
  · rw [h3]; norm_num [ratOf]
  · rw [h4]; norm_num [ratOf]
  · intro k h
    obtain ⟨n, rfl | rfl⟩ := k.eq_nat_or_neg
    · rw [zpow_natCast] at h
      have h : 3 = 2 ^ n := by exact_mod_cast h
      match n with
      | 0 | 1 => omega
      | n + 2 => rw [Nat.pow_add] at h; omega
    · have := zpow_le_one_of_nonpos₀ (a := (2 : ℝ)) (by norm_num) (n := -(n : ℤ)) (by omega)
      linarith
  · intro k h
    have h : (1 : ℝ) = ((2 * k : ℤ) : ℝ) := by push_cast; linarith
    have : (1 : ℤ) = 2 * k := by exact_mod_cast h
    omega
/-- Each class of value to convert, in a floating type, an integer type and LNS6. -/
theorem witness_conversions : (4 < 13 ∧ 12 < 13 ∧ 3 < 4) ∧ (8 ≤ 8 ∧ 11 ≤ 11) ∧ u32 0x7FC00000 = .nan false ∧ unpackF f16 0x7C00 = .inf false ∧
    unpackF f16 0x3C00 = .fin false 1024 (-10) ∧ (u32 0x3F800000).isNaN = false ∧ unpackF f16 0 = .fin false 0 (-24) ∧ (12 ≠ 4 ∧ 12 ≠ 6) := by
  decide +kernel
/-- A sum of one word, whose operation is the exclusive or, in both widths. -/
theorem witness_integerReductions : [1#64] ≠ [] ∧ { zf with m := 5 * 8 }.field 3 4 < 6 ∧ { zf with m := 0x1000 }.field 3 4 < 6 ∧
    { zf with m := 3 * 8 }.field 3 4 = 3 ∧ signedTy 0 = true := by decide
/-- Lane 0 alone, whose v1 names lane 64, outside its run's quires; `l` are the lines of its group in the file, `p` the poisoned ones. -/
def e10 (l p : List Nat) (sf : State → State) : Env :=
  demoE pe (fun g => { g with lanes := g.lanes.modify 0 fun t => { t with v := [(1, { w := 64 })] }, linesIn := l, poison := p })
    (fun r => { r with active := 1 }) fun s => sf (big s)
def oS : OpF := { zf with d := 4, a := 5, b := 1 }
def outerIs (k : Nat) : Outer → Bool
  | .ok _ => k == 0
  | .poison _ => k == 1
  | .wait _ => k == 2
/-- A shuffle from line 38 of the image, in the file, poisoned in the file, fetched, poisoned in memory, and on no page. -/
theorem witness_shuffleSources :
    (let e := e10 [vLine 5 2] [] id
     env? e.s = some e ∧ e.setE oS = [0] ∧ shflSource oS.low2 (128 / 2 ^ oS.cond) 0 (e.v32 0 oS.b).w = some 64 ∧ 64 / 32 ∉ quires e.r.active ∧
     vLine oS.a.toNat (64 / 32) ∈ e.g.linesIn ∧ vLine oS.a.toNat (64 / 32) ∉ e.g.poison) ∧
    (let e := e10 [vLine 5 2] [vLine 5 2] id
     env? e.s = some e ∧ vLine oS.a.toNat (64 / 32) ∈ e.g.poison) ∧
    (let e := e10 [] [] id
     let f := e10 [] [] fun s => { s with home := { s.home with poison := [0x2B00 / 64] } }
     let n := e10 [] [] fun s => { s with tlb := [] }
     env? e.s = some e ∧ outerIs 0 (e.s.outerLines e.g e.ctx (shflLines oS e)) = true ∧
     env? f.s = some f ∧ outerIs 1 (f.s.outerLines f.g f.ctx (shflLines oS f)) = true ∧
     env? n.s = some n ∧ outerIs 2 (n.s.outerLines n.g n.ctx (shflLines oS n)) = true) := by
  refine ⟨⟨rfl, ?_⟩, ⟨rfl, ?_⟩, rfl, ?_, rfl, ?_, rfl, ?_⟩ <;> decide +kernel
def store1 (a : Nat) : StoreReq := { store0 with at_ := .mem a, va := BitVec.ofNat 64 a }
def gstore (seq : Option Nat) : GStore :=
  { sid := 1, g := loadRef, core := 0, va := 0x1000, pa := 0x1000, bytes := [1, 2], rel := 0, seq := seq, t := false, det := false }
/-- A byte that the run has stored, one that the group has stored and not posted, and one that only memory holds; a store that is posted. -/
theorem witness_loadedBytes :
    (0x103C % 64 + 4 ≤ 64 ∧ e1.b = .a ∧ e1.s.viewOf 0 (0x1000 / 64) ≤ e1.s.home.seq ∧ e1.s.stores = [] ∧ e1.buffered = [] ∧
     e1.r.probe = none ∧ (e1.s.team? loadRef.tref).isSome = true) ∧
    (let e := demoE loadPacket id (fun r => { r with effects := [.stores [store1 0x1000] false] }) id
     e.buffered = [store1 0x1000]) ∧
    (let e := demoE loadPacket id id fun s => { s with stores := [gstore none] }
     e.s.stores = [gstore none] ∧ (gstore none).seq.isNone = true ∧ (gstore none).g = e.g.ref ∧ (gstore none).pa ≤ 0x1001 ∧
     0x1001 < (gstore none).pa + (gstore none).bytes.length ∧ (0x1002 < (gstore none).pa ∨ (gstore none).pa + (gstore none).bytes.length ≤ 0x1002)) ∧
    (let e := demoE loadPacket id id fun s => { s with stores := [gstore (some 0)] }
     (∀ x ∈ e.s.stores, ∀ q, x.seq = some q → q ≤ e.s.home.seq) ∧
     (∀ x ∈ (e.s.postLine loadRef (0x1000 / 64)).stores, x.seq = none → 0x1000 < x.pa ∨ x.pa + x.bytes.length ≤ 0x1000) ∧
     (∀ x ∈ (e.s.postLine loadRef (0x1000 / 64)).stores, ∀ q, x.seq = some q → q ≤ (e.s.postLine loadRef (0x1000 / 64)).home.seq)) ∧
    ((later (.load 5 12 false [])).form = .load 5 12 false [] ∧ 12 < 13 ∧ tyBits 2 = 64 ∧ tyBits 12 ≠ 64) := by
  refine ⟨?_, ?_, ?_, ?_, ?_⟩ <;> decide +kernel
/-- A store of an idle group that leaves, plain and posting; stores of one byte and of none. -/
theorem witness_storesLeave :
    (let s := demoS pe idle id
     s.group? idle.ref = some idle ∧ (s.grid? idle.ref.grid).map (·.kill) = some none ∧ (store1 0x1000).at_ = .mem 0x1000 ∧
     s.memOpen idle.ref (store1 0x1000).va 0x1000 = true ∧ (store1 0x1000).ord = 0 ∧ ({ store1 0x1000 with ord := 1 }).ord = 1) ∧
    (let s := demoS pe idle fun s => { s with stores := [gstore none, gstore (some 0)] }
     s.stores = [gstore none, gstore (some 0)] ∧ (gstore none).seq.isNone = true ∧ paWritable (gstore none).pa = true ∧
     isSystem (gstore none).pa = false ∧ (gstore (some 0)).seq.isNone = false) := by
  refine ⟨?_, ?_⟩ <;> decide +kernel
/-- An atomic of memory and one of a scratchpad, whose bytes are poisoned and are not; each type. -/
theorem witness_atomicsPerformed :
    (let s := demoS pe idle id
     let p := { s with home := { s.home with poison := [0x1000 / 64] } }
     p.poisonAt (atom0 false).at_ (atom0 false).size = true ∧ s.poisonAt (atom0 false).at_ (atom0 false).size = false ∧
     (atom0 false).at_ = .mem 0x1000 ∧ paWritable 0x1000 = true ∧ (isSystem 0x1000 && !s.dev.linkUp) = false) ∧
    (let q := { atom0 false with at_ := .scratch loadRef.tref 0, key := some 1 }
     let s := demoS pe idle id
     s.poisonAt q.at_ q.size = false ∧ (s.team? loadRef.tref).map (·.resident) = some true ∧ s.heldBy q.g = false ∧
     (linesOf 0 q.size).any (s.unready loadRef.tref) = false) ∧ (3 < 4 ∨ 3 = 8 ∨ 3 = 9) := by
  refine ⟨?_, ?_, ?_⟩ <;> decide +kernel
/-- The value of a record that can be read. -/
def recVal (e : Env) (p : Bool) (va : Word64) (n : Nat) : Nat :=
  match e.readRec p va n with
  | .ok _ v _ => v
  | _ => 0
theorem readsRec_val {e : Env} {p : Bool} {va : Word64} {n : Nat} (h : recOk e p va n = true) :
    ∃ t, ReadsRec e p va n (recEnv e p va n) (recVal e p va n) t := by
  obtain ⟨v, t, h, lines, hr, ho, he⟩ := readsRec_of h
  exact ⟨t, h, lines, by rw [hr]; simp [recVal, hr], ho, he⟩
/-- An odd address among the registers of each command; a table whose base is misaligned for the type of its record, which has been read. -/
theorem witness_misalignedCommands : env? e8.s = some e8 ∧
    (let u (r i : Nat) : Word64 := (e8.scell (r + i)).w
     let first (l : List (Word64 × Nat)) := l.find? fun p => decide (p.1.toNat % p.2 ≠ 0)
     first [(u 4 0, 64), (u 5 0, 64), (u 8 3, 8)] = some (0x1001, 64) ∧ first [(u 0 0, 64), (u 5 0, 64), (u 8 3, 8)] = some (1, 64) ∧
     first [(u 0 0, 64), (u 1 0, 64), (u 1 3, 8), (u 1 0, 4)] = some (0x1001, 8) ∧
     first [(u 0 0, 64), (u 1 0, 64), (u 4 3, 8), (u 4 0, 4)] = some (0x1001, 4) ∧
     first [(u 0 0, 64), (u 3 0, memSize 0), (u 3 1, memSize 0), (u 8 1, 8)] = some (0x1001, 4) ∧
     first [(u 4 0, 128), (u 0 0, 8)] = some (0x1001, 128) ∧
     AlignedAll [(u 3 0, 64), (u 0 0, 64), (u 0 3, 8), (u 0 0, 4)] ∧
     (u 3 1).toNat % recSize (BitVec.ofNat 512 (recVal e8 false (u 3 0) 64)) ≠ 0) ∧
    (∃ t, ReadsRec e8 false (e8.scell 3).w 64 (recEnv e8 false (e8.scell 3).w 64) (recVal e8 false (e8.scell 3).w 64) t) ∧
    (let e1 := recEnv e8 false (e8.scell 3).w 64
     ∃ v t, ReadsRec e1 false (e8.scell 0).w 64 (recEnv e1 false (e8.scell 0).w 64) v t) :=
  ⟨rfl, by unfold AlignedAll; decide +kernel, readsRec_val (by decide +kernel), readsRec_of (by decide +kernel)⟩
/-- A load of stream B behind an effect of stream A that has to leave; no walk for an address that the TLB holds. -/
theorem witness_heldLoads :
    (let e := eA 0x101F []
     let b : Env := { e with b := .b, g := { e.g with outbox := [(.a, .stores [store0] false)] } }
     b.behindA = true ∧ (match b.check 0 .read 4 0 0x1000 with | .wait (.mem 0x1000) => true | _ => false) = true ∧
     e.s.linesOpen e.ctx.asid (pkClass e.pkt) (e.walksOf 0 [(0, 0x1000), (1, 0x1001)]) = true) := by decide +kernel
/-- TLBQ of an address whose page is zeroed. -/
theorem witness_tlbqOfZeroedPage :
    (let e : Env := { e1 with s := withTable 0x3F 0x80 e1.s, ctx := rooted }
     env? e.s = some e ∧ e.s.leafAt e.g.core e.ctx 0x1000 = .zero ∧ (e.s.walk e.ctx 0x1000).isSome = true ∧
     e.s.linesOpen e.ctx.asid (pkClass e.pkt) (e.s.xlatReads e.g.core e.ctx 0x1000) = true) ∧
    e1.s.linesOpen e1.ctx.asid (pkClass e1.pkt) (e1.s.xlatReads e1.g.core e1.ctx 0) = true := by
  refine ⟨⟨rfl, ?_⟩, ?_⟩ <;> decide +kernel
/-- A stream B run that begins with a thread that stands at its address, beside one that stands elsewhere and one of run A. -/
theorem witness_streamB :
    (let rd := { round0 with waitB := some loadPc }
     let g := { idle with round := some rd, lanes := idle.lanes.modify 1 fun t => { t with pc := loadPc + 8 } }
     let s := demoS pe g id
     (s.beginB g).isSome = true ∧ g.lanes.length = 128 ∧ run0.active.getLsbD 0 = true ∧ run0.active.getLsbD 2 = false ∧
     (g.lane 2).pc = loadPc ∧ g.mayRun 2 = true ∧ (g.lane 1).pc ≠ loadPc) := by decide +kernel
/-- Where lines are charged at all (`Config.hbmCharged`), a class whose budget of a stack is spent holds an access to it. -/
theorem witness_spentBudget : Config.hbmCharged State.reset.tick = true →
    ({ State.reset with ctxs := [{ asid := 4095, desc := 1, budget := List.replicate 128 0 }] } : State).linesOpen
      4095 0 [0x1000] = false := by
  intro h
  simp only [State.linesOpen, List.all_cons, List.all_nil, h]
  decide +kernel
/-- BAR_MISMATCH of two lanes at the barriers of the team and of the grid. -/
theorem witness_mismatch :
    (let l : List Thread := [{ st := .live, waits := [(0, .bar .team loadPc)] }, { st := .live, waits := [(0, .bar .grid loadPc)] }]
     let g := { ended1 { run0 with ended := true } with lanes := l }
     let s := demoS pe g id
     s.group? loadRef = some g ∧ g.settled = true ∧ g.outbox = [] ∧ g.pend = [] ∧ g.own = [] ∧
     (endChecks fDZ { g with pauses := pauseLog g.pauses ((g.round).getD round0) } ((g.round).getD round0)).fault = none ∧
     (mismatch (endChecks fDZ { g with pauses := pauseLog g.pauses ((g.round).getD round0) } ((g.round).getD round0)).g).isSome = true) ∧
    (ended1 run0).own = [] ∧
    (let g := { idle with outbox := [(.a, .atoms [atom0 true] false)] }
     (demoS pe g id).memOpen loadRef (atom0 true).va 0x1000 = true) := by
  refine ⟨?_, ?_, ?_⟩ <;> decide +kernel
/-- Each shared structure, of which the grid of the placed team holds a part and grid 7 none; a write of QOWNER with a context and without. -/
theorem witness_sharedUnits :
    (let s := demoS pe idle fun s => { s with
       grids := grid2 :: s.grids, holds := [{ grid := 0xFFFFFFFF, pa := 0x1000, ups := [] }]
       referrals := [referral1 [] (.inl 0)], sheets := [sheet1], cmds := [collCmd 0x1000 false, { cmd0 4 (.launch pv 0) with serial := 2 }] }
     (∃ x ∈ s.holds, x.grid = 0xFFFFFFFF ∧ sliceOf x.pa = sliceOf 0x1000) ∧ (∃ x ∈ s.groups, x.ref.grid = 0xFFFFFFFF ∧ x.core = 0) ∧
     (∃ x ∈ s.sheets, x.team.grid = 0xFFFFFFFF ∧ ∃ y ∈ x.cores, y.1 = 0) ∧ (∃ x ∈ s.referrals, x.g.grid = 0xFFFFFFFF ∧ x.core = 0) ∧
     (∃ x ∈ s.cmds, x.eng = 3 ∧ x.g.grid = 0xFFFFFFFF ∧ dieOf x.core = 0) ∧
     (¬ ∃ x ∈ s.groups, x.ref.grid = 7 ∧ x.core = 0) ∧ (s.grid? 7).map (fun g => (g.ended, g.kill)) = some (false, none) ∧
     (s.grid? 0xFFFFFFFF).map (fun g => (g.ended, g.kill)) = some (false, none)) ∧
    63 < 64 ∧ (ready3 id).ctxs = [] ∧ ({ ready3 id with ctxs := [pageCtx] }).ctxs ≠ [] ∧ (110 ≤ 110 ∨ 50 < 50) ∧
    (∀ k, SharedUnit.queue 0 ≠ .icache k ∧ SharedUnit.queue 0 ≠ .translation k) := by
  refine ⟨?_, ?_, ?_, ?_, ?_, by intro k; simp⟩ <;> decide +kernel
/-- Virtual functions 1 and 32, and 0 and 33; the last byte of the aperture, and the one after; an access that maps, one that fails and one to
a page that is zeroed; a register that the function sees. -/
theorem witness_aperture :
    (1 ≤ 1 ∧ 1 ≤ 32 ∧ (BitVec.ofNat 64 (2 ^ 42 - 1)).toNat + 1 ≤ 2 ^ 42) ∧ (1 ≤ 32 ∧ 32 ≤ 32) ∧ (0 = 0 ∨ 32 < 0 ∨ 2 ^ 42 < 0) ∧ (32 < 33) ∧
    2 ^ 42 < (BitVec.ofNat 64 (2 ^ 42 - 1)).toNat + 2 ∧
    (let c : Context := { asid := 4095, desc := 5#1024 <<< 38 }
     let s := demoS pe idle (fun s => { s with ctxs := [c], dev := { s.dev with state := 3 } })
     s.dev.state = 3 ∧ s.vfContext 5 = some c ∧ (∀ c ∈ s.ctxs, c.vf ≠ 6) ∧
     (∀ k, k < 2 → s.access hostUnit c .write (0x1000 + BitVec.ofNat 64 k) = .ok (0x1000 + k)) ∧
     (∀ k, k < 2 → ∀ j, j < 2 → 0x1000 + j = 0x1000 + k → j = k) ∧ paWritable 0x1001 = true ∧ isSystem 0x1001 = false ∧
     s.access hostUnit c .read 0 = .fault 4 ∧ paExists 0x1000 = true ∧ s.poisoned 0x1000 1 = false) ∧
    (let s := demoS pe idle fun s => { withTable 0x3F 0x80 s with dev := { s.dev with state := 3 } }
     (s.waitZero hostUnit rooted .read 0x1000 1).isSome = true) ∧ paExists (2 ^ 43) = false := by
  refine ⟨?_, ?_, ?_, ?_, ?_, ?_, ?_, ?_⟩ <;> decide +kernel
/-- A walk that waits at a page which nobody zeroes, and at an entry that is poisoned; the lines of a head that is read and of one that is not. -/
theorem witness_openWalks :
    (let s := demoS pe idle (fun s => { withTable 0x1F 0x80 s with zwalks := [zw false] })
     let p := BitVec.ofNat 64 (s.home.nat (zw false).pteAt 8)
     s.poisoned (zw false).pteAt 8 = false ∧ s.linesOpen 4095 (s.walkClass 4095) [(zw false).pteAt] = true ∧ pteV p = true ∧ pteZ p = true ∧
     pteZB p = false ∧ isSystem (zw false).pteAt = false ∧ paWritable (zw false).pteAt = true) ∧
    (let s := demoS pe idle (withQueue pv (queue0 true false none))
     let q := s.queue 0
     s.linesOpen 4095 (pkClass pv) (s.vaLines hostUnit pageCtx .read (q.slot 0) ++ s.vaLines hostUnit pageCtx .read (q.slot 0 + 64)) = true) ∧
    (let s := demoS pe idle (fun s => let t := withQueue pv (queue0 true false none) s
       { t with home := { t.home with poison := [0x1000 / 64] } })
     s.linesOpen 4095 (s.walkClass 4095) (s.vaLines hostUnit pageCtx .read ((s.queue 0).slot 0)) = true) := by
  refine ⟨?_, ?_, ?_⟩ <;> decide +kernel
/-- A byte copied from 0x1000 to 0x1040; a command that a CFENCE holds; the lines of the rank table of a collective that is cancelled. -/
theorem witness_engineLines :
    (let s := withCmd copy1
     let s1 := s.served (queueAt 0 1) 4095
     let c := { copy1 with stop := none }
     (boxOf c.kind).any (fun b =>
       let v := lineView s1 c (copy1.path pageCtx) b (none, 0x1040 / 64)
       s1.linesOpen 4095 (s.classOf loadRef.grid)
         (v.walks ++ s1.hbmLines (v.reads.filterMap EngAt.target? ++ (v.dests.map (·.2)).filterMap EngAt.target?))) = true ∧
     copy1.got = [] ∧ s.dev.linkUp = true ∧
     (List.range (recCount rec1)).filter (fun i => decide ((elemDst copy1.kind i).toNat / 64 = 0x1040 / 64)) = [0] ∧
     (match elemSrc s1 (copy1.path pageCtx) [] copy1.kind 0 with | .addr a => a == 0x1000 | _ => false) = true ∧
     s1.accessPeer (copy1.path pageCtx).unit pageCtx .read 0x1000 = .ok 0x1000 ∧ elemDst copy1.kind 0 = 0x1040 ∧
     s1.accessPeer (copy1.path pageCtx).unit pageCtx .write 0x1040 = .ok 0x1040 ∧ s1.poisonAt (.mem 0x1000) (recSize rec1) = false ∧
     paWritable 0x1040 = true ∧ recFmt rec1 ≤ 7) ∧
    ((withCmd copy1).free 4095 [] none = true ∧ (withCmd copy1).free 4095 [1] none = false) ∧
    (let c := collCmd 0 true
     let s := withCmd c
     s.linesOpen 4095 (s.classOf loadRef.grid) (wholeTable s (commMine (coll1 0).comm, c, coll1 0)) = true) := by
  refine ⟨?_, ?_, ?_⟩ <;> decide +kernel
/-- Commands that may begin: an operation, BFZERO, a stage, a drain, a transfer; one that a CFENCE holds; a pass that is open; a stage that is
marked to stop before its second pass, and one whose first pass is its last. -/
theorem witness_butterflyBegins :
    ([.inr .release, .inl (.zero 0), .inl (.stage false 0 0 0 false 0), .inl (.drainSlot 10 0 0 0), .inl fill1].all fun k =>
      (withBf [bfCmd k false 0]).mayBegin (bfCmd k false 0)) = true ∧
    (withBf [{ bfCmd (.inr .release) false 0 with after := [7] }]).free 4095 [7] none = true ∧
    (let s := demoS pe issuer fun s => { s.setBf 0 (bf1 [{ bfCmd (.inr .release) false 0 with after := [1] }]) with cmds := [copy1] }
     s.free 4095 [1] none = false) ∧
    (let c := bfCmd (.inl (.stage false 0 0 0 false 0)) true 0
     (withBf [c]).passOpen c = true) ∧
    (let c := { bfCmd (.inl (.stage false 0 0 0 false 0)) true 0 with stop := true }
     let s := demoS pe issuer fun s => s.setBf 0 (bf2 [c])
     s.passOpen c = true ∧ c.pass = 0 ∧ c.peers = [] ∧ (s.bfOf 0).next = some c ∧ (bfHeldUp s 0 [c]).isNone = true ∧
     (match planStage (s.bfOf 0) false 0 0 0 with | .ok p => !(runPass (s.bfOf 0) p 0 c.mid c.stage c.pass).done | .error _ => false) = true) := by
  refine ⟨?_, ?_, ?_, ?_, ?_⟩ <;> decide +kernel
/-- A context without stage budget in every class: its stage, and its transfers, do not begin. -/
theorem witness_notAdmitted :
    (let broke (s : State) : State := { s with ctxs := [{ asid := 4095, desc := 1, budget := List.replicate 128 0 }] }
     let s := broke (withBf [bfCmd (.inl (.stage false 0 0 0 false 0)) false 0])
     s.admitted 4095 (s.classOf loadRef.grid) 24 = false ∧ s.admitted 4095 (s.classOf loadRef.grid) 27 = false) := by decide +kernel

/-! ### One step from the placed word; the expected results follow by hand from the rules named -/

/-- The machine after one step at the placed word `w`, its group, and its thread `k`; `v0` holds the lane number (R77). -/
def after (w : Nat) : State :=
  match step (State.reset.withFetchWord 64 w) with
  | .next s => s
  | _ => State.reset
def grp (w : Nat) : Group := ((after w).group? loadRef).getD { ref := loadRef, role := 0 }
def thr (w k : Nat) : Thread := (grp w).lane k
def runOf (w : Nat) : Run := ((grp w).round.bind (·.a)).getD run0

/-- R216: v4 = v0 + v0 in lane 5; R225: v4 = v0 − 1 wraps in lane 0; R27: the next word. -/
theorem test_add : ((thr 0x0010020000000000 5).vreg 4).w = 10 ∧ (thr 0x0010020000000000 5).pc = 0x1008 := by decide +kernel
theorem test_add_imm_wraps : ((thr 0x030002007FFFFFFF 0).vreg 4).w = 0xFFFFFFFF := by decide +kernel
/-- R222: `MOVW` in the last lane. -/
theorem test_movw : ((thr 0x02100200DEADBEEF 127).vreg 4).w = 0xDEADBEEF := by decide +kernel
/-- R226: `UADD` writes S2 alone. -/
theorem test_uadd : (runOf 0x0400010000801000).written = [2] ∧ ((thr 0x0400010000801000 3).vreg 0).w = 3 := by decide +kernel
/-- R159: `BRA` of 2 words from 0x1000; R40: its run ends. -/
theorem test_bra : (thr 0x9480000000000002 9).pc = 0x1010 ∧ (runOf 0x9480000000000002).ended = true := by decide +kernel
/-- R45, R86: the word 0 is ILLEGAL, cause 1, and changes no PC. -/
theorem test_illegal : ((runOf 0).fault.map (·.cause)) = some 1 ∧ (thr 0 0).pc = 0x1000 := by decide +kernel
/-- R41, R42: a control word with RB = 0 is ILLEGAL. -/
theorem test_control_rb : ((runOf 0x1480000000000002).fault.map (·.cause)) = some 1 := by decide +kernel
/-- R188: −7 over 2 truncates toward 0; 1 over 0 gives all ones, the dividend and DZ. -/
theorem test_div : divRem true (-7#32) 2 = (-3#32, -1#32, 0) ∧ divRem false 1#32 0 = (BitVec.allOnes 32, 1#32, fDZ) := by decide +kernel
/-- R194: 1 + 2⁻²⁴ in binary32 ties to even, 1, with NX; up, its successor; R210: an exact zero rounds to −0 under RDN. -/
theorem test_fadd : fAdd f32 0 (u32 0x3F800000) (u32 0x33800000) = (0x3F800000, fNX) ∧
    fAdd f32 3 (u32 0x3F800000) (u32 0x33800000) = (0x3F800001, fNX) ∧ fAdd f32 2 (u32 0x3F800000) (u32 0xBF800000) = (0x80000000, 0) := by
  decide +kernel
/-- R161: 0x01FFFFFFFFFFFFF8 is the last target. -/
theorem test_target : targetOk 0x01FFFFFFFFFFFFF8 = true ∧ targetOk 0x0200000000000000 = false ∧ targetOk 4 = false := by decide

/-! ### The kernel object of 03_assembly_language.md -/

/-- R67 to R69: the object of the chapter's example; its header, its two roles, three words of text, const, data and one relocation. -/
def nudgeObject : List Byte :=
  leBytes (0x4F4B5A46 + 3 * 2 ^ 32 + 1 * 2 ^ 40 + 2 * 2 ^ 48 + 2 * 2 ^ 56 + 128 * 2 ^ 64 + 24 * 2 ^ 96 + 8192 * 2 ^ 160 + 512 * 2 ^ 192 +
    4096 * 2 ^ 224 + 192 * 2 ^ 256 + 10 * 2 ^ 288 + 256 * 2 ^ 320 + 8 * 2 ^ 352 + 272 * 2 ^ 384 + 1 * 2 ^ 416) 64 ++
  leBytes (0x000801 + 0x081001 * 2 ^ 64) 32 ++ leBytes 0 32 ++
  leBytes (0x08000100C2004000 + 0x8300018180000001 * 2 ^ 64 + 0x94D0000000000000 * 2 ^ 128) 64 ++
  leBytes (0x3FC00000 + 0xBE800000 * 2 ^ 32 + 0x3C00 * 2 ^ 64) 64 ++ leBytes 0 16 ++ leBytes (128 + 1 * 2 ^ 32 + 68 * 2 ^ 64) 16
/-- The object's `tabp` after loading at 0x7F0000400000, byte by byte, and the CODE field of its packet. -/
def nudgeLoaded : Option (List (Option Byte) × Nat × Nat) :=
  match readKernel nudgeObject with
  | some k =>
    (loadWrites k 0x7F0000400000).map fun ws =>
      ((List.range 8).map fun i => writtenByte ws (0x7F0000400080 + i), (pkCode (packetOf k 0x7F0000400000 0)).toNat,
        pkVregs (packetOf k 0x7F0000400000 0) 1)
  | none => none
/-- R70: `tabp` reads 0x7F0000400044; R71: the code address is the image base; role 1 has 16 V registers. -/
theorem test_kernel_load : nudgeLoaded = some ((leBytes 0x7F0000400044 8).map some, 0x7F0000400000, 16) := by decide +kernel
/-- R59: the three words of the example; R64: the pad word. -/
theorem test_kernel_words : [0x08000100C2004000, 0x8300018180000001, 0x94D0000000000000, padWord].all (icasEmits 16 0) = true := by decide +kernel

end Sys2Proof.Tests
end

section
/-!
PROOF. The hint opcodes (01 R25): how the decoder reads an opcode of group 15, and a word that changes nothing but the PC.
-/
namespace Sys2Proof.Machine
open Sys2Proof

/-- The low six bits of an opcode are its number within its group (R50). -/
theorem opcode_index (w : Word64) : (w.extractLsb' 52 6).toNat = (w.extractLsb' 52 10).toNat % 64 := by
  simp only [BitVec.extractLsb'_toNat]
  omega

/-- A full-form word whose opcode lies in group 15 decodes as the hint of its opcode. -/
theorem decode_hint {w : Word64} (hw : w.getLsbD 62 = false) (hop : (w.extractLsb' 52 10).toNat / 64 = 15) :
    decode w = .ok (hintForm w) := by
  simp only [decode, hw, hop, Bool.false_eq_true, if_false, if_true]

theorem hintForm_href {w : Word64} (h : (w.extractLsb' 52 6).toNat = 0) : hintForm w = .href (fieldsF w) := by
  simp only [hintForm, h]

theorem hintForm_hpf {w : Word64} (h : (w.extractLsb' 52 6).toNat = 1) : hintForm w = .hpf (fieldsF w) := by
  simp only [hintForm, h]

theorem hintForm_hsch {w : Word64} (h : (w.extractLsb' 52 6).toNat = 2) : hintForm w = .hsch (fieldsF w) := by
  simp only [hintForm, h]

/-- The hints numbered 3 and above are the unimplemented ones. -/
theorem hintForm_hintNop {w : Word64} (h : 3 ≤ (w.extractLsb' 52 6).toNat) : hintForm w = .hintNop (fieldsH w) := by
  unfold hintForm
  split
  case h_4 => rfl
  all_goals omega

/-- A word that retires with nothing written leaves every lane, S register and boundary list as it was. -/
theorem idle_word {s : State} {e : Env} (h : env? s = some e) (i : Instr) (hi : exec i s = .next (retire (rbOf i) e {})) :
    IdleWord s e i := by
  obtain ⟨t, e', hx, hr, hth, hp, hs, hb, -⟩ := lanes_word h i [] List.nodup_nil (fun L => { lane := L }) (fun _ => rfl) hi
  refine ⟨t, e', hx, hr, fun L => ?_, hp, hs, hb⟩
  by_cases hL : L < e.g.lanes.length
  · rw [hth L hL]
    simp only [List.not_mem_nil, if_false]
    split <;> exact ⟨rfl, rfl, rfl, rfl, rfl, rfl⟩
  · have before : e.th L = {} := Group.lane_of_ge _ (Nat.le_of_not_lt hL)
    have after : e'.th L = {} := Group.lane_of_ge _ (by rw [hr.count]; exact Nat.le_of_not_lt hL)
    rw [before, after]
    exact ⟨rfl, rfl, rfl, rfl, rfl, rfl⟩

/-- An unimplemented hint is a no-op (R25). -/
theorem hintNop_idle {s : State} {e : Env} (h : env? s = some e) (o : OpH) : IdleWord s e (.hintNop o) :=
  idle_word h _ (by rw [exec_hintNop]; exact word_eq h _ _)

/-- Settles O20: the four opcode ranges lie in group 15, where the number within the group picks the hint; an unimplemented hint retires
with nothing written. -/
theorem hintOpcodes : Obligations.HintOpcodes := by
  intro w hw op
  have hidx : (w.extractLsb' 52 6).toNat = op % 64 := opcode_index w
  have hlt : op < 1024 := (w.extractLsb' 52 10).isLt
  have hdec : 0x3C0 ≤ op → decode w = .ok (hintForm w) := fun h => decode_hint hw (by omega)
  refine ⟨fun h => ⟨fieldsF w, ?_⟩, fun h => ⟨fieldsF w, ?_⟩, fun h => ⟨fieldsF w, ?_⟩,
    fun h => ⟨fieldsH w, ?_, fun s e he => hintNop_idle he _⟩⟩
  · rw [hdec (by omega), hintForm_href (by omega)]
  · rw [hdec (by omega), hintForm_hpf (by omega)]
  · rw [hdec (by omega), hintForm_hsch (by omega)]
  · rw [hdec (by omega), hintForm_hintNop (by omega)]

end Sys2Proof.Machine
end

section
/-!
PROOF. Control transfers with valid targets (07 R159 to R161): one law for a word that sends its lanes on, and its use for BRA, CALL, BRU,
BRX and RET.
-/
namespace Sys2Proof.Machine
open Sys2Proof

/-- The active lanes are those of the mask (R79). -/
theorem Env.mem_active (e : Env) (L : Nat) : L ∈ e.active ↔ e.r.active.getLsbD L = true := by
  simp only [Env.active, maskLanes, List.mem_filter, List.mem_range, and_iff_right_iff_imp]
  exact BitVec.lt_of_getLsbD

/-- Where no target is invalid, the word retires and every lane of E is sent to its target (R159, R161). -/
theorem goTo_valid (e : Env) {E : List Nat} {target : Nat → Word64} (d : Delta) (hok : ∀ L ∈ E, targetOk (target L) = true) :
    goTo e E target d = .retire e { d with pcs := some (E.map fun L => (L, target L)) } := by
  have hbad : (E.filter fun L => !targetOk (target L)) = [] := by simpa using hok
  simp only [goTo, hbad]

/-- The target listed for a lane: that of the lane where it is in the list, none elsewhere. -/
theorem find?_target (E : List Nat) (target : Nat → Word64) (L : Nat) :
    ((E.map fun t => (t, target t)).find? fun p => decide (p.1 = L)).map (·.2) = if L ∈ E then some (target L) else none := by
  induction E with
  | nil => rfl
  | cons t E ih =>
    by_cases h : t = L
    · simp [h]
    · simpa only [List.map_cons, List.find?_cons, h, decide_false, List.mem_cons, Ne.symm h, false_or] using ih

/-- What a control transfer does to a lane of E besides moving it: V registers, and control taint (R160, R400). -/
def jumpWrite (v : Nat → List (Nat × VCell)) (c : Nat → Bool) (L : Nat) : LaneWrite := { lane := L, v := v L, ct := c L }

/-- The V registers after such a write, and what it leaves as it was. -/
theorem apply_jumpWrite (t : Thread) (v : Nat → List (Nat × VCell)) (c : Nat → Bool) (L : Nat) :
    t.apply (jumpWrite v c L) = { t with v := (v L).foldl (fun r p => Table.set {} r p.1 p.2) t.v, ct := t.ct || c L } := by
  simp [Thread.apply, jumpWrite]

/-- A control transfer without a write leaves a lane as it was but for its PC. -/
theorem apply_jumpWrite_none (t : Thread) (L : Nat) : t.apply (jumpWrite (fun _ => []) noTaint L) = t := by
  simp [apply_jumpWrite, noTaint]

/-- The thread of a lane after a control transfer: the write of a lane of E, then the PC of an active lane. -/
theorem afterWord_jump (e : Env) (E : List Nat) (target : Nat → Word64) (ls : List LaneWrite) (w : Nat → LaneWrite) (L : Nat)
    (hls : onLane ls L (e.th L) = if L ∈ E then (e.th L).apply (w L) else e.th L) :
    afterWord e { lanes := ls, pcs := some (E.map fun t => (t, target t)) } L =
      { (if L ∈ E then (e.th L).apply (w L) else e.th L) with
        pc := if e.r.active.getLsbD L then (if L ∈ E then target L else e.r.at_ + 8) else (e.th L).pc } := by
  have hpc : (onLane ls L (e.th L)).pc = (e.th L).pc := by rw [onLane_keeps]
  simp only [afterWord, Option.getD_some, find?_target, ← hls]
  split
  · split <;> rfl
  · rw [← hpc]

/-- The law of a control transfer (R159): where its targets are valid, the lanes of E take their writes, and every active lane stands at
its target or at the next word. -/
theorem jump_word {s : State} {e : Env} (h : env? s = some e) {i : Instr} {f : Env → WordOut} (hi : exec i s = word (rbOf i) s f)
    {E : List Nat} {target : Nat → Word64} {ls : List LaneWrite} (hf : f e = goTo e E target { lanes := ls })
    (hok : ∀ L ∈ E, targetOk (target L) = true) (v : Nat → List (Nat × VCell)) {val : Nat → Nat → Option VCell} {c : Nat → Bool}
    (hls : ∀ L, onLane ls L (e.th L) = if L ∈ E then (e.th L).apply (jumpWrite v c L) else e.th L)
    (hval : ∀ L n, ((e.th L).apply (jumpWrite v c L)).vreg n = (val L n).getD ((e.th L).vreg n)) :
    JumpWord s e i (fun L => if L ∈ E then target L else e.r.at_ + 8) E val c := by
  have hx : exec i s = .next (retire (rbOf i) e { lanes := ls, pcs := some (E.map fun t => (t, target t)) }) := by
    rw [hi, word_eq h, hf, goTo_valid e _ hok]
  obtain ⟨t, e', hex, hret, hth, hs, hw, hdef, heff, hctl, hpause, hexit, htf, -⟩ := retire_next h hx
  have hlane L (hL : L < e.g.lanes.length) := (hth L hL).trans (afterWord_jump e E target ls _ L (hls L))
  refine ⟨t, e', hex, hret, fun L hL n => ?_, fun L hL => ?_, fun L hL => ?_, fun L hL => ?_, fun L hL => ?_, fun L hL => ?_,
    ⟨by simpa using hs, by simpa using hw⟩,
    ⟨by simpa using hdef, by simpa using heff, by simpa using hctl, by simpa using hpause, by simpa using hexit, by simpa using htf⟩,
    fun L hL => ?_⟩ <;> rw [hlane L hL]
  case refine_1 =>
    by_cases hE : L ∈ E
    · simp only [hE, if_true]; exact hval L n
    · simp only [hE, if_false]; rfl
  all_goals by_cases hE : L ∈ E <;> simp [hE, apply_jumpWrite]

/-- The lanes of E that take a write each, once. -/
theorem onLane_jumpWrite {E : List Nat} (hn : E.Nodup) (v : Nat → List (Nat × VCell)) (c : Nat → Bool) (L : Nat) (t : Thread) :
    onLane (E.map (jumpWrite v c)) L t = if L ∈ E then t.apply (jumpWrite v c L) else t :=
  onLane_map E _ (fun _ _ => rfl) hn L t

/-- A control transfer that writes no V register (R159). -/
theorem jump_word_keepV {s : State} {e : Env} (h : env? s = some e) {i : Instr} {f : Env → WordOut} (hi : exec i s = word (rbOf i) s f)
    {E : List Nat} (hn : E.Nodup) {target : Nat → Word64} {c : Nat → Bool}
    (hf : f e = goTo e E target { lanes := E.map (jumpWrite (fun _ => []) c) }) (hok : ∀ L ∈ E, targetOk (target L) = true) :
    JumpWord s e i (fun L => if L ∈ E then target L else e.r.at_ + 8) E keepV c :=
  jump_word h hi hf hok (fun _ => []) (fun L => onLane_jumpWrite hn _ _ L _) fun L n => by rw [apply_jumpWrite]; rfl

/-- BRA sends the lanes of E to its target (R159). -/
theorem bra_jumps {s : State} {e : Env} (h : env? s = some e) (k : OpI) (hok : targetOk (branchTarget e k) = true) :
    JumpWord s e (.bra k) (fun L => if L ∈ e.setI k then branchTarget e k else e.r.at_ + 8) (e.setI k) keepV noTaint :=
  jump_word h (exec_bra k s) rfl (fun _ _ => hok) (fun _ => []) (fun L => by rw [apply_jumpWrite_none, ite_self]; rfl)
    fun L n => by rw [apply_jumpWrite_none]; rfl

/-- CALL sends the lanes of E to its target and leaves them the return address (R160). -/
theorem call_jumps {s : State} {e : Env} (h : env? s = some e) (k : OpI) (hok : targetOk (branchTarget e k) = true) :
    JumpWord s e (.call k) (fun L => if L ∈ e.setI k then branchTarget e k else e.r.at_ + 8) (e.setI k)
      (fun L n => reg64 k.d (e.r.at_ + 8) (e.dt L false) n) noTaint :=
  jump_word h (exec_call k s) rfl (fun _ _ => hok) (fun L => (e.put64 L k.d { w := e.pc + 8 }).v)
    (fun L => onLane_jumpWrite (e.exec_nodup _ _ _) _ _ L _) fun L n => apply_put64 e L k.d { w := e.pc + 8 } n

/-- The condition of BRU by its condition number (R159). -/
theorem bruTaken_eq (k : OpI) (e : Env) :
    bruTaken k e = if k.d = 0 then true else if k.d = 1 then decide ((e.us k.a).w ≠ 0) else decide ((e.us k.a).w = 0) := by
  simp only [bruTaken, bne, ne_eq, decide_not]
  rfl

/-- BRU sends every active lane to one place (R159). -/
theorem bru_jumps {s : State} {e : Env} (h : env? s = some e) (k : OpI) (there : Word64)
    (hthere : (if bruTaken k e then branchTarget e k else e.pc + 8) = there) (hok : targetOk there = true) :
    JumpWord s e (.bru k) (fun _ => there) e.active keepV fun _ => e.det && decide (k.d ≠ 0) && (e.us k.a).t := by
  subst hthere
  obtain ⟨t, e', hex, hret, hv, hct, hx, hp, hf, hd, hs, hb, hpc⟩ :=
    (jump_word_keepV h (exec_bru k s) (e.exec_nodup false false 0) rfl fun _ _ => hok).done
  refine ⟨t, e', hex, hret, hv, hct, hx, hp, hf, hd, hs, hb, fun L hL => ?_⟩
  rw [hpc L hL]
  split
  case isTrue hact => exact if_pos ((e.mem_active L).2 hact)
  case isFalse => rfl

/-- A word with the effect of BRX sends each lane of E to the address in its register pair (R159). -/
theorem indirect_jumps {s : State} {e : Env} (h : env? s = some e) {i : Instr} (o : OpF) (hi : exec i s = indirect o s)
    (hrb : rbOf i = o.rb) (hok : ∀ L ∈ e.setE o, targetOk (e.v64 L o.a).w = true) :
    JumpWord s e i (fun L => if L ∈ e.setE o then (e.v64 L o.a).w else e.r.at_ + 8) (e.setE o) keepV
      fun L => e.det && (e.v64 L o.a).t := by
  unfold indirect at hi
  rw [← hrb] at hi
  exact jump_word_keepV h hi (e.setE_nodup o) rfl hok

/-- Settles O17: BRA and CALL go to PC + 8 × imm31, BRU to that or on, BRX and RET to a register pair, each by the law of a control
transfer. -/
theorem controlTransfers : Obligations.ControlTransfers := by
  intro s e o k h next there c taken
  refine ⟨fun hok => ⟨bra_jumps h k hok, call_jumps h k hok⟩, fun hok => ?_, fun hok => ⟨?_, ?_⟩⟩
  · exact bru_jumps h k _ (by rw [bruTaken_eq]; rfl) hok
  · exact indirect_jumps h o (exec_brx o s) rfl hok
  · exact indirect_jumps h o (exec_ret o s) rfl hok

end Sys2Proof.Machine
end

section
/-!
PROOF. FMIN and FMAX of binary32 (08 R193): the value that a word encodes, read off its sign and magnitude; the order of two numbers as the
order of their places; and a word that writes a binary32 result of two sources.
-/
namespace Sys2Proof

/-! ### What the bits of a binary32 operand say (R191) -/

/-- The magnitude bits of a binary32 operand: exponent and fraction. -/
def mag32 (w : Word32) : Nat := w.toNat % 2 ^ 31
/-- The operand is a NaN: its magnitude lies above that of the infinities. -/
def nan32 (w : Word32) : Bool := decide (0x7F800000 < mag32 w)
/-- The signed magnitude: equal for the two zeros. -/
def signed32 (w : Word32) : Int := if w.msb then -(mag32 w : Int) else mag32 w
/-- The place of a number in the order of R193, where −0 stands below +0. -/
def place32 (w : Word32) : Int := if w.msb then -(mag32 w : Int) - 1 else mag32 w
/-- The biased exponent of a finite magnitude, 1 for the subnormals too. -/
def exp32 (m : Nat) : Nat := max (m / 2 ^ 23) 1
/-- The significand of a finite magnitude, with the hidden bit of the normals. -/
def sig32 (m : Nat) : Nat := m - (exp32 m - 1) * 2 ^ 23

theorem toNat_eq_mag32 (w : Word32) : w.toNat = 2 ^ 31 * w.msb.toNat + mag32 w := by
  have hw := w.isLt
  rw [mag32, BitVec.msb_eq_decide]
  by_cases h : 2 ^ 31 ≤ w.toNat
  · simp only [h, decide_true, Bool.toNat_true]; omega
  · simp only [h, decide_false, Bool.toNat_false]; omega

theorem mag32_lt (w : Word32) : mag32 w < 2 ^ 31 := Nat.mod_lt _ (by decide)

/-- A word is its sign and its magnitude. -/
theorem eq_of_msb_mag32 {a b : Word32} (hs : a.msb = b.msb) (hm : mag32 a = mag32 b) : a = b := by
  apply BitVec.eq_of_toNat_eq
  rw [toNat_eq_mag32 a, toNat_eq_mag32 b, hs, hm]

/-- Two numbers at one place are one word. -/
theorem place32_inj {a b : Word32} (h : place32 a = place32 b) : a = b := by
  unfold place32 at h
  cases ha : a.msb <;> cases hb : b.msb <;> simp only [ha, hb, Bool.false_eq_true, if_false, if_true] at h
  · exact eq_of_msb_mag32 (ha.trans hb.symm) (by omega)
  · omega
  · omega
  · exact eq_of_msb_mag32 (ha.trans hb.symm) (by omega)

theorem sign_bit32 (w : Word32) : decide (w.toNat / 2 ^ 31 % 2 = 1) = w.msb := by
  have hm := mag32_lt w
  rw [toNat_eq_mag32 w]
  cases w.msb <;> simp <;> omega

/-- The quiet bit of a NaN is the highest fraction bit. -/
theorem quiet_bit32 (w : Word32) : decide (w.toNat % 2 ^ 23 < 2 ^ 22) = !w.getLsbD 22 := by
  rw [BitVec.getLsbD, Nat.testBit_eq_decide_div_mod_eq, ← decide_not]
  exact decide_eq_decide.mpr (by omega)

theorem frac_mag32 (w : Word32) : w.toNat % 2 ^ 23 = mag32 w % 2 ^ 23 := by unfold mag32; omega
theorem expField_mag32 (w : Word32) : w.toNat / 2 ^ 23 % 2 ^ 8 = mag32 w / 2 ^ 23 := by unfold mag32; omega

/-- The value that a binary32 word encodes, by the exponent and the fraction of its magnitude. -/
theorem unpackF_f32_fields (w : Word32) : unpackF f32 w.toNat =
    if mag32 w / 2 ^ 23 = 255 then
      if mag32 w % 2 ^ 23 = 0 then .inf w.msb else .nan (!w.getLsbD 22)
    else if mag32 w / 2 ^ 23 = 0 then .fin w.msb (mag32 w % 2 ^ 23) (-149)
    else .fin w.msb (2 ^ 23 + mag32 w % 2 ^ 23) (-149 + ((mag32 w / 2 ^ 23 : Nat) - 1)) := by
  have hq : f32.qmin = -149 := by decide
  rw [← frac_mag32, ← expField_mag32, ← sign_bit32, ← quiet_bit32, ← hq]
  rfl

theorem exp32_subnormal {m : Nat} (h : m < 2 ^ 23) : exp32 m = 1 := by unfold exp32; omega
theorem exp32_normal {m : Nat} (h : 2 ^ 23 ≤ m) : exp32 m = m / 2 ^ 23 := by unfold exp32; omega
theorem sig32_subnormal {m : Nat} (h : m < 2 ^ 23) : sig32 m = m := by rw [sig32, exp32_subnormal h]; omega
theorem sig32_normal {m : Nat} (h : 2 ^ 23 ≤ m) : sig32 m = 2 ^ 23 + m % 2 ^ 23 := by rw [sig32, exp32_normal h]; omega

/-- The value that a binary32 word encodes, by its sign and magnitude. -/
theorem unpackF_f32 (w : Word32) : unpackF f32 w.toNat =
    if 0x7F800000 < mag32 w then .nan (!w.getLsbD 22)
    else if mag32 w = 0x7F800000 then .inf w.msb
    else .fin w.msb (sig32 (mag32 w)) (exp32 (mag32 w) - 150) := by
  have hm := mag32_lt w
  rw [unpackF_f32_fields]
  by_cases hn : 0x7F800000 < mag32 w
  · rw [if_pos (by omega), if_neg (by omega), if_pos hn]
  · by_cases hi : mag32 w = 0x7F800000
    · rw [if_pos (by omega), if_pos (by omega), if_neg hn, if_pos hi]
    · rw [if_neg (by omega), if_neg hn, if_neg hi]
      by_cases h0 : mag32 w < 2 ^ 23
      · rw [if_pos (by omega), sig32_subnormal h0, exp32_subnormal h0, Nat.mod_eq_of_lt h0]
        rfl
      · rw [if_neg (by omega), sig32_normal (by omega), exp32_normal (by omega)]
        congr 1
        omega

theorem isNaN_f32 (w : Word32) : (unpackF f32 w.toNat).isNaN = nan32 w := by
  rw [unpackF_f32, nan32]
  split
  · simp [FVal.isNaN, *]
  · split <;> simp [FVal.isNaN, *]

theorem isSNaN_f32 (w : Word32) : (unpackF f32 w.toNat).isSNaN = (nan32 w && !w.getLsbD 22) := by
  rw [unpackF_f32, nan32]
  split
  · simp [FVal.isSNaN, *]
  · split <;> simp [FVal.isSNaN, *]

theorem sign_f32 {w : Word32} (h : nan32 w = false) : (unpackF f32 w.toNat).sign = w.msb := by
  rw [unpackF_f32, if_neg (by simpa [nan32] using h)]
  split <;> rfl

/-! ### The order of two numbers -/

theorem sig32_eq_zero {m : Nat} : sig32 m = 0 ↔ m = 0 := by unfold sig32 exp32; omega
theorem sig32_lt (m : Nat) : sig32 m < 2 ^ 24 := by unfold sig32 exp32; omega

/-- A significand of a greater exponent has its hidden bit, so it outweighs every significand below. -/
theorem sig32_lt_shiftLeft {m n : Nat} (h : exp32 m < exp32 n) : sig32 m < sig32 n <<< (exp32 n - exp32 m) := by
  have hn : 2 ^ 23 ≤ sig32 n := by unfold sig32 exp32 at *; omega
  calc sig32 m < 2 ^ 23 * 2 ^ 1 := sig32_lt m
    _ ≤ sig32 n * 2 ^ (exp32 n - exp32 m) := Nat.mul_le_mul hn (Nat.pow_le_pow_right (by decide) (by omega))
    _ = sig32 n <<< (exp32 n - exp32 m) := (Nat.shiftLeft_eq _ _).symm

/-- Finite magnitudes lie in the order of their bits. -/
theorem cmpMag_f32 (m n : Nat) : cmpMag (sig32 m) (exp32 m - 150) (sig32 n) (exp32 n - 150) = compare m n := by
  unfold cmpMag
  rcases Nat.lt_trichotomy (exp32 m) (exp32 n) with h | h | h
  · have hlt : m < n := by unfold exp32 at h; omega
    have hsh : ((exp32 n : Int) - 150 - (exp32 m - 150)).toNat = exp32 n - exp32 m := by omega
    rw [if_pos (by omega), hsh, compare_lt_iff_lt.mpr (sig32_lt_shiftLeft h), compare_lt_iff_lt.mpr hlt]
  · have hsh : ((exp32 n : Int) - 150 - (exp32 m - 150)).toNat = 0 := by omega
    have hm : m = sig32 m + (exp32 m - 1) * 2 ^ 23 := by unfold sig32 exp32; omega
    have hn : n = sig32 n + (exp32 m - 1) * 2 ^ 23 := by rw [h]; unfold sig32 exp32; omega
    rw [if_pos (by omega), hsh, Nat.shiftLeft_zero, Nat.compare_eq_ite_lt, Nat.compare_eq_ite_lt]
    congr 1
    · exact propext (by omega)
    · congr 1; exact propext (by omega)
  · have hlt : n < m := by unfold exp32 at h; omega
    have hsh : ((exp32 m : Int) - 150 - (exp32 n - 150)).toNat = exp32 m - exp32 n := by omega
    rw [if_neg (by omega), hsh, compare_gt_iff_gt.mpr (sig32_lt_shiftLeft h), compare_gt_iff_gt.mpr hlt]

theorem unpackF_f32_inf {w : Word32} (h : mag32 w = 0x7F800000) : unpackF f32 w.toNat = .inf w.msb := by
  rw [unpackF_f32, if_neg (by omega), if_pos h]

theorem unpackF_f32_fin {w : Word32} (h : mag32 w < 0x7F800000) :
    unpackF f32 w.toNat = .fin w.msb (sig32 (mag32 w)) (exp32 (mag32 w) - 150) := by
  rw [unpackF_f32, if_neg (by omega), if_neg (by omega)]

/-- A signed magnitude lies within its magnitude. -/
theorem signed32_bounds (w : Word32) : -(mag32 w : Int) ≤ signed32 w ∧ signed32 w ≤ mag32 w := by
  unfold signed32; split <;> omega

/-- Finite values compare as their signed magnitudes: a zero by the sign of the other operand, two negatives the other way round. -/
theorem cmpVal_sig32 (s t : Bool) (m n : Nat) :
    cmpVal (.fin s (sig32 m) (exp32 m - 150)) (.fin t (sig32 n) (exp32 n - 150)) =
      compare (if s then -(m : Int) else m) (if t then -(n : Int) else n) := by
  simp only [cmpVal, sig32_eq_zero, cmpMag_f32, Nat.compare_eq_ite_lt, Int.compare_eq_ite_lt]
  cases s <;> cases t <;> grind

theorem cmpVal_f32_fin {a b : Word32} (ha : mag32 a < 0x7F800000) (hb : mag32 b < 0x7F800000) :
    cmpVal (unpackF f32 a.toNat) (unpackF f32 b.toNat) = compare (signed32 a) (signed32 b) := by
  rw [unpackF_f32_fin ha, unpackF_f32_fin hb]
  exact cmpVal_sig32 _ _ _ _

/-- An infinity lies beyond every finite number on its side. -/
theorem cmpVal_f32_inf_fin {a b : Word32} (ha : mag32 a = 0x7F800000) (hb : mag32 b < 0x7F800000) :
    cmpVal (unpackF f32 a.toNat) (unpackF f32 b.toNat) = compare (signed32 a) (signed32 b) := by
  have hbounds := signed32_bounds b
  rw [unpackF_f32_inf ha, unpackF_f32_fin hb, signed32]
  cases a.msb
  · exact (compare_gt_iff_gt.mpr (by simp only [Bool.false_eq_true, if_false]; omega)).symm
  · exact (compare_lt_iff_lt.mpr (by simp only [if_true]; omega)).symm

theorem cmpVal_f32_fin_inf {a b : Word32} (ha : mag32 a < 0x7F800000) (hb : mag32 b = 0x7F800000) :
    cmpVal (unpackF f32 a.toNat) (unpackF f32 b.toNat) = compare (signed32 a) (signed32 b) := by
  have hbounds := signed32_bounds a
  rw [unpackF_f32_fin ha, unpackF_f32_inf hb, signed32.eq_def b]
  cases b.msb
  · exact (compare_lt_iff_lt.mpr (by simp only [Bool.false_eq_true, if_false]; omega)).symm
  · exact (compare_gt_iff_gt.mpr (by simp only [if_true]; omega)).symm

theorem cmpVal_f32_inf_inf {a b : Word32} (ha : mag32 a = 0x7F800000) (hb : mag32 b = 0x7F800000) :
    cmpVal (unpackF f32 a.toNat) (unpackF f32 b.toNat) = compare (signed32 a) (signed32 b) := by
  rw [unpackF_f32_inf ha, unpackF_f32_inf hb, signed32, signed32, ha, hb]
  cases a.msb <;> cases b.msb <;> decide

/-- Two numbers compare as their signed magnitudes. -/
theorem cmpVal_f32 {a b : Word32} (ha : nan32 a = false) (hb : nan32 b = false) :
    cmpVal (unpackF f32 a.toNat) (unpackF f32 b.toNat) = compare (signed32 a) (signed32 b) := by
  have ha' : mag32 a ≤ 0x7F800000 := by simpa [nan32] using ha
  have hb' : mag32 b ≤ 0x7F800000 := by simpa [nan32] using hb
  rcases Nat.lt_or_eq_of_le ha' with fa | ia <;> rcases Nat.lt_or_eq_of_le hb' with fb | ib
  · exact cmpVal_f32_fin fa fb
  · exact cmpVal_f32_fin_inf fa ib
  · exact cmpVal_f32_inf_fin ia fb
  · exact cmpVal_f32_inf_inf ia ib

/-- The places refine the signed magnitudes: they part the two zeros. -/
theorem place32_lt_iff (a b : Word32) :
    place32 a < place32 b ↔ signed32 a < signed32 b ∨ signed32 a = signed32 b ∧ (a.msb && !b.msb) = true := by
  unfold place32 signed32
  cases a.msb <;> cases b.msb <;> simp <;> omega

/-! ### FMIN and FMAX (R193) -/

/-- The number or canonical NaN that FMIN or FMAX picks. -/
def minMax32 (mx : Bool) (a b : Word32) : Nat :=
  if nan32 a && nan32 b then 0x7FC00000 else if nan32 a then b.toNat else if nan32 b then a.toNat
  else if mx then (if place32 a < place32 b then b.toNat else a.toNat)
  else (if place32 b < place32 a then b.toNat else a.toNat)

/-- The flags of FMIN and FMAX: IV where an operand is a signalling NaN. -/
def minMaxFlags32 (a b : Word32) : Flags :=
  if (nan32 a && !a.getLsbD 22) || (nan32 b && !b.getLsbD 22) then fIV else 0

theorem snanFlag_f32 (a b : Word32) : snanFlag [unpackF f32 a.toNat, unpackF f32 b.toNat] = minMaxFlags32 a b := by
  simp [snanFlag, flagIf, minMaxFlags32, isSNaN_f32]

theorem fMinMax_f32_flags (mx : Bool) (a b : Word32) : (fMinMax f32 mx a.toNat b.toNat).2 = minMaxFlags32 a b := by
  rw [← snanFlag_f32]
  simp only [fMinMax]
  split_ifs <;> rfl

/-- Of two numbers FMIN takes the first where it stands below the second, FMAX where it does not. -/
theorem fMinMax_f32_numbers (mx : Bool) {a b : Word32} (ha : nan32 a = false) (hb : nan32 b = false) :
    (fMinMax f32 mx a.toNat b.toNat).1 = if decide (place32 a < place32 b) != mx then a.toNat else b.toNat := by
  simp only [fMinMax, isNaN_f32, ha, hb, Bool.and_self, Bool.false_eq_true, if_false, cmpVal_f32 ha hb, sign_f32 ha, sign_f32 hb,
    place32_lt_iff]
  rcases lt_trichotomy (signed32 a) (signed32 b) with h | h | h
  · simp [compare_lt_iff_lt.mpr h, h]
  · simp [h]
  · simp [compare_gt_iff_gt.mpr h, h.not_gt, h.ne']

theorem fMinMax_f32_value (mx : Bool) (a b : Word32) : (fMinMax f32 mx a.toNat b.toNat).1 = minMax32 mx a b := by
  have hcanon : f32.canonNaN = 0x7FC00000 := by decide
  cases ha : nan32 a <;> cases hb : nan32 b
  case false.false =>
    rw [fMinMax_f32_numbers mx ha hb]
    rcases lt_trichotomy (place32 a) (place32 b) with h | h | h
    · cases mx <;> simp [minMax32, ha, hb, h, h.not_gt]
    · obtain rfl := place32_inj h
      simp [minMax32, ha]
    · cases mx <;> simp [minMax32, ha, hb, h, h.not_gt]
  all_goals simp [fMinMax, minMax32, isNaN_f32, ha, hb, hcanon]

/-- FMIN and FMAX of binary32, by the bits of their operands. -/
theorem fMinMax_f32 (mx : Bool) (a b : Word32) : fMinMax f32 mx a.toNat b.toNat = (minMax32 mx a b, minMaxFlags32 a b) :=
  Prod.ext (fMinMax_f32_value mx a b) (fMinMax_f32_flags mx a b)

end Sys2Proof

namespace Sys2Proof.Machine
open Sys2Proof

/-- A fixed-latency word of two binary32 sources writes its result and raises its flags in the lanes of E, and nothing else (R231). -/
theorem float_word2 {s : State} {e : Env} (h : env? s = some e) {i : Instr} {o : OpF} {f : Nat → Nat → Nat × Flags}
    (hi : exec i s = laneFixed o (f32op2 o f) s) (hrb : rbOf i = o.rb) {r : Nat → Nat × Flags}
    (hr : ∀ L, f (e.v32 L o.a).w.toNat (e.v32 L o.b).w.toNat = r L) : FloatWord s e i o r (src2 e o) := by
  refine lane_word h i (e.setE o) (e.setE_nodup o) (f32op2 o f e) (by rw [hi, hrb]; exact laneFixed_eq h o _) _ _ fun L => ?_
  refine ⟨rfl, rfl, rfl, rfl, rfl, rfl, ?_, fun n => ?_⟩
  · exact congrArg Prod.snd (hr L)
  · rw [resultF, ← hr L]
    exact apply_put32 e L o.d _ n

/-- Settles O9: on the bits of its operands fMinMax picks as R193 says, and both words write what it picks. -/
theorem minMaxValues : Obligations.MinMaxValues := by
  refine ⟨fun s e o h => ⟨?_, ?_⟩, by decide, by decide, by decide⟩
  · exact float_word2 h (exec_fmin o s) rfl fun L => fMinMax_f32 false _ _
  · exact float_word2 h (exec_fmax o s) rfl fun L => fMinMax_f32 true _ _

end Sys2Proof.Machine
end

section
/-!
PROOF. Decoding and encoding (02 R28 to R39, R48 to R50): the opcode map gives back every instruction at its opcode; the machine after reset.
-/
namespace Sys2Proof
open Sys2Proof.Laws

/-! ### The opcode map at the opcode of an instruction (R50) -/

theorem opcodeOf_lt (i : Instr) : opcodeOf i < 1024 := by
  cases i
  case hintNop o => have := o.idx.isLt; simp only [opcodeOf]; omega
  all_goals exact Nat.blt_eq.mp rfl

theorem elementOpcode_opcodeOf (i : Instr) : elementOpcode (opcodeOf i) = false := by
  cases i
  case hintNop o => 
    have h : ¬(960 + o.idx.toNat ≤ 0x309) := by omega
    simp only [elementOpcode, opcodeOf, h, decide_false, Bool.and_false]
  all_goals rfl

theorem ctorF_opcodeOf {i : Instr} {o : OpF} (h : payload i = .f o) : ctorF o (opcodeOf i / 64) (opcodeOf i % 64) = some i := by
  cases i <;> cases h <;> simp only [opcodeOf, Nat.reduceDiv, Nat.reduceMod] <;> rfl

theorem ctorW_opcodeOf_f {i : Instr} {o : OpF} (h : payload i = .f o) (k : OpW) : ctorW k (opcodeOf i) = none := by
  cases i <;> cases h <;> simp only [opcodeOf, Nat.reduceDiv, Nat.reduceMod] <;> rfl

theorem ctorI_opcodeOf {i : Instr} {o : OpI} (h : payload i = .i o) : ctorI o (opcodeOf i) = some i := by
  cases i <;> cases h <;> simp only [opcodeOf, Nat.reduceDiv, Nat.reduceMod] <;> rfl

theorem ctorF_opcodeOf_i {i : Instr} {o : OpI} (h : payload i = .i o) (k : OpF) :
    ctorF k (opcodeOf i / 64) (opcodeOf i % 64) = none := by
  cases i <;> cases h <;> simp only [opcodeOf, Nat.reduceDiv, Nat.reduceMod] <;> rfl

theorem ctorW_opcodeOf_i {i : Instr} {o : OpI} (h : payload i = .i o) (k : OpW) : ctorW k (opcodeOf i) = none := by
  cases i <;> cases h <;> simp only [opcodeOf, Nat.reduceDiv, Nat.reduceMod] <;> rfl

theorem ctorW_opcodeOf {i : Instr} {o : OpW} (h : payload i = .w o) : ctorW o (opcodeOf i) = some i := by
  cases i <;> cases h <;> simp only [opcodeOf, Nat.reduceDiv, Nat.reduceMod] <;> rfl

theorem ctorF_opcodeOf_w {i : Instr} {o : OpW} (h : payload i = .w o) (k : OpF) :
    ctorF k (opcodeOf i / 64) (opcodeOf i % 64) = none := by
  cases i <;> cases h <;> simp only [opcodeOf, Nat.reduceDiv, Nat.reduceMod] <;> rfl

theorem ctorI_opcodeOf_w {i : Instr} {o : OpW} (h : payload i = .w o) (k : OpI) : ctorI k (opcodeOf i) = none := by
  cases i <;> cases h <;> simp only [opcodeOf, Nat.reduceDiv, Nat.reduceMod] <;> rfl

/-! ### The decoder on an encoded word, by its layout -/

/-- A full-form word that is no hint decodes as what the opcode map gives. -/
theorem decode_fullForm {i : Instr} {w : Word64} (hw : w.getLsbD 62 = false) (hop : (w.extractLsb' 52 10).toNat = opcodeOf i)
    (hh : opcodeOf i < 0x3C0) (hr : wideReserved w = false) (hf : fullForm w = some i) (hok : fieldsOk i = true) : decode w = .ok i := by
  have hg : opcodeOf i / 64 ≠ 15 := by omega
  simp only [decode, hw, Bool.false_eq_true, if_false, hop, hg, elementOpcode_opcodeOf, hr, hf, hok, if_true]

theorem decode_encodeF {i : Instr} {o : OpF} (hp : payload i = .f o) (hh : opcodeOf i < 0x3C0) (hok : fieldsOk i = true) :
    decode (encodeF (opcodeOf i) o) = .ok i := by
  obtain ⟨hw, hop, hf⟩ := encodeF_fields (opcodeOf i) o (opcodeOf_lt i)
  refine decode_fullForm hw hop hh ?_ ?_ hok
  · simp [wideReserved, hop, ctorW_opcodeOf_f hp]
  · simp [fullForm, hop, hf, ctorF_opcodeOf hp]

theorem decode_encodeI {i : Instr} {o : OpI} (hp : payload i = .i o) (hh : opcodeOf i < 0x3C0) (hok : fieldsOk i = true) :
    decode (encodeI (opcodeOf i) o) = .ok i := by
  obtain ⟨hw, hop, hf⟩ := encodeI_fields (opcodeOf i) o (opcodeOf_lt i)
  refine decode_fullForm hw hop hh ?_ ?_ hok
  · simp [wideReserved, hop, ctorW_opcodeOf_i hp]
  · simp [fullForm, hop, hf, ctorF_opcodeOf_i hp, ctorI_opcodeOf hp]

theorem decode_encodeW {i : Instr} {o : OpW} (hp : payload i = .w o) (hh : opcodeOf i < 0x3C0) (hok : fieldsOk i = true) :
    decode (encodeW (opcodeOf i) o) = .ok i := by
  obtain ⟨hw, hop, hf, hz⟩ := encodeW_fields (opcodeOf i) o (opcodeOf_lt i)
  refine decode_fullForm hw hop hh ?_ ?_ hok
  · simp [wideReserved, hz]
  · simp [fullForm, hop, hf, hz, ctorF_opcodeOf_w hp, ctorI_opcodeOf_w hp, ctorW_opcodeOf hp]

/-- A layout-F word of group 15 is the hint of its opcode (R48). -/
theorem decode_encodeF_hint {op : Nat} {o : OpF} (hg : op / 64 = 15) (hop : op < 1024) :
    decode (encodeF op o) = .ok (hintForm (encodeF op o)) := by
  obtain ⟨hw, hop', -⟩ := encodeF_fields op o hop
  exact Machine.decode_hint hw (by rw [hop', hg])

theorem index_encodeF {op : Nat} (o : OpF) (hop : op < 1024) : ((encodeF op o).extractLsb' 52 6).toNat = op % 64 := by
  rw [Machine.opcode_index, (encodeF_fields op o hop).2.1]

/-- The hints that hold an opcode of their own (R49). -/
theorem decode_encode_href (o : OpF) : decode (encodeF 0x3C0 o) = .ok (.href o) := by
  rw [decode_encodeF_hint rfl (by decide), Machine.hintForm_href (index_encodeF o (by decide)), (encodeF_fields _ o (by decide)).2.2]
theorem decode_encode_hpf (o : OpF) : decode (encodeF 0x3C1 o) = .ok (.hpf o) := by
  rw [decode_encodeF_hint rfl (by decide), Machine.hintForm_hpf (index_encodeF o (by decide)), (encodeF_fields _ o (by decide)).2.2]
theorem decode_encode_hsch (o : OpF) : decode (encodeF 0x3C2 o) = .ok (.hsch o) := by
  rw [decode_encodeF_hint rfl (by decide), Machine.hintForm_hsch (index_encodeF o (by decide)), (encodeF_fields _ o (by decide)).2.2]

theorem decode_encodeH {o : OpH} (h : 3 ≤ o.idx.toNat) : decode (encodeH o) = .ok (.hintNop o) := by
  obtain ⟨hw, hg, hf⟩ := encodeH_fields o
  have hop : ((encodeH o).extractLsb' 52 10).toNat / 64 = 15 := by
    rw [← hg]; simp only [BitVec.extractLsb'_toNat]; omega
  have hidx : (encodeH o).extractLsb' 52 6 = o.idx := congrArg OpH.idx hf
  rw [Machine.decode_hint hw hop, Machine.hintForm_hintNop (by rw [hidx]; exact h), hf]

theorem decode_encodeP {o : OpP} (h : pairedOk o = true) : decode (encodeP o) = .ok (.pairedWord o) := by
  obtain ⟨hw, hf⟩ := encodeP_fields o
  simp [decode, hw, hf, h]

/-- The hints alone stand in group 15, the last (R48). -/
theorem hint_cases {i : Instr} (h : 0x3C0 ≤ opcodeOf i) :
    (∃ o, i = .href o) ∨ (∃ o, i = .hpf o) ∨ (∃ o, i = .hsch o) ∨ ∃ o, i = .hintNop o := by
  cases i
  case href o => exact .inl ⟨o, rfl⟩
  case hpf o => exact .inr (.inl ⟨o, rfl⟩)
  case hsch o => exact .inr (.inr (.inl ⟨o, rfl⟩))
  case hintNop o => exact .inr (.inr (.inr ⟨o, rfl⟩))
  all_goals exact absurd h (Nat.not_le.mpr (Nat.blt_eq.mp rfl))

/-- The paired word and the unimplemented hints are the only ones of their layouts. -/
theorem payload_p {i : Instr} {o : OpP} (h : payload i = .p o) : i = .pairedWord o := by cases i <;> cases h <;> simp only [opcodeOf, Nat.reduceDiv, Nat.reduceMod] <;> rfl
theorem payload_h {i : Instr} {o : OpH} (h : payload i = .h o) : i = .hintNop o := by cases i <;> cases h <;> simp only [opcodeOf, Nat.reduceDiv, Nat.reduceMod] <;> rfl

theorem isWord_of_encode {i : Instr} {w : Word64} (h : encode i = some w) : isWord i = true := by
  cases i <;> cases h <;> rfl

/-- Settles O58, by the layout of the word: the opcode map gives the instruction back at its opcode, and the fields are those encoded. -/
theorem decodeEncode : Obligations.DecodeEncode := by
  intro i w hwf henc
  have hok : fieldsOk i = true := by
    simp only [wellFormed, isWord_of_encode henc, Bool.not_true, Bool.false_or, Bool.and_eq_true] at hwf
    exact hwf.1
  cases hp : payload i with
  | event => simp [encode, hp] at henc
  | p o =>
    obtain rfl := payload_p hp
    obtain rfl : encodeP o = w := Option.some.inj henc
    exact decode_encodeP hok
  | h o =>
    obtain rfl := payload_h hp
    obtain rfl : encodeH o = w := Option.some.inj henc
    exact decode_encodeH (of_decide_eq_true hok)
  | i o =>
    obtain rfl : encodeI (opcodeOf i) o = w := by simpa [encode, hp] using henc
    rcases Nat.lt_or_ge (opcodeOf i) 0x3C0 with hh | hh
    · exact decode_encodeI hp hh hok
    · obtain ⟨o, rfl⟩ | ⟨o, rfl⟩ | ⟨o, rfl⟩ | ⟨o, rfl⟩ := hint_cases hh <;> cases hp
  | w o =>
    obtain rfl : encodeW (opcodeOf i) o = w := by simpa [encode, hp] using henc
    rcases Nat.lt_or_ge (opcodeOf i) 0x3C0 with hh | hh
    · exact decode_encodeW hp hh hok
    · obtain ⟨o, rfl⟩ | ⟨o, rfl⟩ | ⟨o, rfl⟩ | ⟨o, rfl⟩ := hint_cases hh <;> cases hp
  | f o =>
    obtain rfl : encodeF (opcodeOf i) o = w := by simpa [encode, hp] using henc
    rcases Nat.lt_or_ge (opcodeOf i) 0x3C0 with hh | hh
    · exact decode_encodeF hp hh hok
    · obtain ⟨k, rfl⟩ | ⟨k, rfl⟩ | ⟨k, rfl⟩ | ⟨k, rfl⟩ := hint_cases hh <;> cases hp
      · exact decode_encode_href o
      · exact decode_encode_hpf o
      · exact decode_encode_hsch o

/-- Settles O57: each word, its fields taken apart. -/
theorem decodeWords : Obligations.DecodeWords := by
  unfold Obligations.DecodeWords
  refine ⟨?_, ?_, ?_, ?_, ?_, ?_, ?_, ?_, ?_, ?_, ?_, ?_⟩ <;> rfl

/-- Settles O60: every table of the machine after reset is empty, so each read gives its default. -/
theorem resetState : Obligations.ResetState :=
  ⟨rfl, rfl, rfl, rfl, rfl, rfl, rfl, rfl, rfl, rfl, rfl, fun _ => show ({} : Machine.Queue).en = false by decide,
    fun _ => rfl, Machine.reset_wf, by decide, by decide⟩

end Sys2Proof
end

section
/-!
PROOF. The shapes of words that write lanes: 32-bit and 64-bit results, results with flags, predicates, and several of these together; and the
words that leave something for the boundary or fault.
-/
namespace Sys2Proof.Machine
open Sys2Proof

/-- A word whose meaning retires in its environment. -/
theorem word_retires {s : State} {e e1 : Env} (h : env? s = some e) {i : Instr} {f : Env → WordOut} {d : Delta}
    (hi : exec i s = word (rbOf i) s f) (hf : f e = .retire e1 d) : exec i s = .next (retire (rbOf i) e1 d) := by
  rw [hi, word_eq h, hf]

/-! ### What a lane write does, field by field (R82, R156, R196, R400) -/

/-- A lane write of V registers, predicates, flags and control taint alone: what it leaves in the lane that it names. -/
structure LaneDoes (e : Env) (w : LaneWrite) (L : Nat) (val : Nat → Option VCell) (p : BitVec 8) (fl : BitVec 6) (c : Bool) : Prop where
  lane  : w.lane = L
  x     : w.x = []
  flags : w.flags = none
  dcode : w.dcode = none
  raise : w.raise = fl
  ct    : w.ct = c
  pred  : w.preds.foldl predOp (e.th L).pred = p
  vreg  : ∀ n, ((e.th L).apply w).vreg n = (val n).getD ((e.th L).vreg n)

theorem lane_word_all {s : State} {e : Env} (h : env? s = some e) {i : Instr} {E : List Nat} (hn : E.Nodup) {f : Nat → LaneWrite}
    (hi : exec i s = .next (retire (rbOf i) e { lanes := E.map f })) {val : Nat → Nat → Option VCell} {p : Nat → BitVec 8}
    {fl : Nat → BitVec 6} {c : Nat → Bool} (hf : ∀ L, LaneDoes e (f L) L (val L) (p L) (fl L) (c L)) :
    LaneWordAll s e i E val p fl c := by
  obtain ⟨t, e', hex, hret, hth, hpc, hs, hb, hr⟩ := lanes_word h i E hn f (fun L => (hf L).lane) hi
  have hraised := raisedBy_map (pkTrapEn e.pkt) e.g.level e.b (e.r.pos + 1) e.r.at_ E f fl (fun L => (hf L).lane) fun L => (hf L).raise
  refine ⟨t, e', hex, hret, fun L hL n => ?_, fun L hL => ?_, ⟨fun L hL => ?_, by rw [hr, hraised]⟩, fun L hL => ?_, fun L hL => ?_,
    fun L hL => ?_, hpc, hs, hb⟩ <;> rw [hth L hL]
  case refine_1 =>
    by_cases hE : L ∈ E
    · simp only [hE, if_true]; split <;> exact (hf L).vreg n
    · simp only [hE, if_false]; split <;> rfl
  all_goals
    by_cases hE : L ∈ E
    · simp only [hE, if_true]
      split <;> simp [Thread.apply, (hf L).x, (hf L).flags, (hf L).dcode, (hf L).raise, (hf L).ct, (hf L).pred]
    · simp only [hE, if_false]; split <;> rfl

/-- A word that changes predicates, raises flags and sets control taint in the lanes of a set (R156). -/
theorem predicate_word {s : State} {e : Env} (h : env? s = some e) {i : Instr} {E : List Nat} (hn : E.Nodup) {f : Nat → LaneWrite}
    (hi : exec i s = .next (retire (rbOf i) e { lanes := E.map f })) {p : Nat → BitVec 8} {fl : Nat → BitVec 6} {c : Nat → Bool}
    (hv : ∀ L, (f L).v = []) (hf : ∀ L, LaneDoes e (f L) L (fun _ => none) (p L) (fl L) (c L)) : PredicateWord s e i E p fl c := by
  obtain ⟨t, e', hex, hret, hth, hpc, hs, hb, hr⟩ := lanes_word h i E hn f (fun L => (hf L).lane) hi
  have hraised := raisedBy_map (pkTrapEn e.pkt) e.g.level e.b (e.r.pos + 1) e.r.at_ E f fl (fun L => (hf L).lane) fun L => (hf L).raise
  refine ⟨t, e', hex, hret, fun L hL => ?_, ⟨fun L hL => ?_, by rw [hr, hraised]⟩, fun L hL => ?_, fun L hL => ?_, fun L hL => ?_,
    fun L hL => ?_, hpc, hs, hb⟩ <;> rw [hth L hL]
  all_goals
    by_cases hE : L ∈ E
    · simp only [hE, if_true]
      split <;> simp [Thread.apply, hv L, (hf L).x, (hf L).flags, (hf L).dcode, (hf L).raise, (hf L).ct, (hf L).pred]
    · simp only [hE, if_false]; split <;> rfl

/-- A push, or the replacement of p0 (R156, R158). -/
theorem predOp_pushed (rep b : Bool) (p : BitVec 8) : predOp p (if rep then .rep b else .push b) = pushed rep p b := by
  cases rep <;> rfl

theorem laneDoes_pushP (e : Env) (L : Nat) (rep b src : Bool) :
    LaneDoes e (e.pushP L rep b src) L (fun _ => none) (pushed rep (e.th L).pred b) 0 (e.det && src) :=
  ⟨rfl, rfl, rfl, rfl, rfl, rfl, predOp_pushed rep b _, fun _ => rfl⟩

/-- A word of fixed latency that pushes one predicate in each lane of E. -/
theorem push_word {s : State} {e : Env} (h : env? s = some e) {i : Instr} {o : OpF} {f : Env → Nat → LaneWrite}
    (hi : exec i s = laneFixed o f s) (hrb : rbOf i = o.rb) {rep : Bool} {b src : Nat → Bool} {p : Nat → BitVec 8} {c : Nat → Bool}
    (hf : ∀ L, f e L = e.pushP L rep (b L) (src L)) (hp : ∀ L, pushed rep (e.th L).pred (b L) = p L)
    (hc : ∀ L, (e.det && src L) = c L) : PredicateWord s e i (e.setE o) p noFlag c := by
  refine predicate_word h (e.setE_nodup o) (by rw [hi, hrb]; exact laneFixed_eq h o f) (fun L => ?_) fun L => ?_
  · rw [hf L]; rfl
  · rw [hf L, ← hp L, ← hc L]; exact laneDoes_pushP e L rep (b L) (src L)

/-! ### Words that write one result a lane -/

/-- A word that writes in each lane of a set a 32-bit or a 64-bit register and raises flags. -/
theorem put_word {s : State} {e : Env} (h : env? s = some e) {i : Instr} {E : List Nat} (hn : E.Nodup) {f : Nat → LaneWrite}
    (hi : exec i s = .next (retire (rbOf i) e { lanes := E.map f })) {val : Nat → Nat → Option VCell} {fl : Nat → BitVec 6}
    (hf : ∀ L, (∃ d x, f L = { e.put32 L d x with raise := fl L } ∧ ∀ n, val L n = reg32 d x.w (e.dt L x.t) n) ∨
      ∃ d x, f L = { e.put64 L d x with raise := fl L } ∧ ∀ n, val L n = reg64 d x.w (e.dt L x.t) n) : LaneWord s e i E val fl := by
  refine lane_word h i E hn f hi val fl fun L => ?_
  obtain ⟨d, x, hw, hval⟩ | ⟨d, x, hw, hval⟩ := hf L
  · rw [hw]; exact ⟨rfl, rfl, rfl, rfl, rfl, rfl, rfl, fun n => by rw [hval n]; exact apply_put32 e L d x n⟩
  · rw [hw]; exact ⟨rfl, rfl, rfl, rfl, rfl, rfl, rfl, fun n => by rw [hval n]; exact apply_put64 e L d x n⟩

/-- The same for a word of fixed latency over E. -/
theorem fixed_word {s : State} {e : Env} (h : env? s = some e) {i : Instr} {o : OpF} {f : Env → Nat → LaneWrite}
    (hi : exec i s = laneFixed o f s) (hrb : rbOf i = o.rb) {val : Nat → Nat → Option VCell} {fl : Nat → BitVec 6}
    (hf : ∀ L, (∃ d x, f e L = { e.put32 L d x with raise := fl L } ∧ ∀ n, val L n = reg32 d x.w (e.dt L x.t) n) ∨
      ∃ d x, f e L = { e.put64 L d x with raise := fl L } ∧ ∀ n, val L n = reg64 d x.w (e.dt L x.t) n) :
    LaneWord s e i (e.setE o) val fl :=
  put_word h (e.setE_nodup o) (by rw [hi, hrb]; exact laneFixed_eq h o f) hf

/-- A word whose result is 32 bits wide whatever its type. -/
theorem fixed32_word {s : State} {e : Env} (h : env? s = some e) {i : Instr} {o : OpF} {f : Env → Nat → LaneWrite}
    (hi : exec i s = laneFixed o f s) (hrb : rbOf i = o.rb) {val : Nat → Nat → Option VCell} {d : BitVec 8} {x : Nat → Val 32}
    (hf : ∀ L, f e L = e.put32 L d (x L)) (hval : ∀ L n, val L n = reg32 d (x L).w (e.dt L (x L).t) n) :
    LaneWord s e i (e.setE o) val noFlag :=
  fixed_word h hi hrb fun L => .inl ⟨d, x L, hf L, hval L⟩

/-- A word whose result is a register pair. -/
theorem fixed64_word {s : State} {e : Env} (h : env? s = some e) {i : Instr} {o : OpF} {f : Env → Nat → LaneWrite}
    (hi : exec i s = laneFixed o f s) (hrb : rbOf i = o.rb) {val : Nat → Nat → Option VCell} {d : BitVec 8} {x : Nat → Val 64}
    (hf : ∀ L, f e L = e.put64 L d (x L)) (hval : ∀ L n, val L n = reg64 d (x L).w (e.dt L (x L).t) n) :
    LaneWord s e i (e.setE o) val noFlag :=
  fixed_word h hi hrb fun L => .inr ⟨d, x L, hf L, hval L⟩

theorem lane1_word {s : State} {e : Env} (h : env? s = some e) {i : Instr} {o : OpF} {f : (w : Nat) → BitVec w → BitVec w}
    (hi : exec i s = laneFixed o (lane1 o f) s) (hrb : rbOf i = o.rb) : LaneWord s e i (e.setE o) (result1 e o f) noFlag := by
  by_cases hw : o.wide = true
  · exact fixed64_word h hi hrb (fun L => if_pos hw) fun L n => if_pos hw
  · exact fixed32_word h hi hrb (fun L => if_neg hw) fun L n => if_neg hw

/-- A word of two sources whose operation may differ from lane to lane. -/
theorem lane2_word_by {s : State} {e : Env} (h : env? s = some e) {i : Instr} {o : OpF}
    (f : Env → Nat → (w : Nat) → BitVec w → BitVec w → BitVec w)
    (hi : exec i s = laneFixed o (fun e' L => lane2 o (f e' L) e' L) s) (hrb : rbOf i = o.rb) :
    LaneWord s e i (e.setE o) (fun L n => result2 e o (f e L) L n) noFlag := by
  by_cases hw : o.wide = true
  · exact fixed64_word h hi hrb (fun L => if_pos hw) fun L n => if_pos hw
  · exact fixed32_word h hi hrb (fun L => if_neg hw) fun L n => if_neg hw

theorem lane2_word {s : State} {e : Env} (h : env? s = some e) {i : Instr} {o : OpF} {f : (w : Nat) → BitVec w → BitVec w → BitVec w}
    (hi : exec i s = laneFixed o (lane2 o f) s) (hrb : rbOf i = o.rb) : LaneWord s e i (e.setE o) (result2 e o f) noFlag :=
  lane2_word_by h (fun _ _ => f) hi hrb

theorem laneShift_word {s : State} {e : Env} (h : env? s = some e) {i : Instr} {o : OpF} {f : (w : Nat) → BitVec w → Nat → BitVec w}
    (hi : exec i s = laneFixed o (laneShift o f) s) (hrb : rbOf i = o.rb) : LaneWord s e i (e.setE o) (resultShift e o f) noFlag := by
  by_cases hw : o.wide = true
  · exact fixed64_word h hi hrb (fun L => if_pos hw) fun L n => if_pos hw
  · exact fixed32_word h hi hrb (fun L => if_neg hw) fun L n => if_neg hw

theorem laneCount_word {s : State} {e : Env} (h : env? s = some e) {i : Instr} {o : OpF} {f g : (w : Nat) → BitVec w → Nat}
    (hi : exec i s = laneFixed o (laneCount o f) s) (hrb : rbOf i = o.rb) (hg : ∀ w x, f w x = g w x) :
    LaneWord s e i (e.setE o) (resultCount e o g) noFlag := by
  obtain rfl : f = g := funext fun w => funext (hg w)
  by_cases hw : o.wide = true
  · exact fixed32_word h hi hrb (fun L => if_pos hw) fun L n => if_pos hw
  · exact fixed32_word h hi hrb (fun L => if_neg hw) fun L n => if_neg hw

theorem laneImm_word {s : State} {e : Env} (h : env? s = some e) {i : Instr} {o : OpI} {f : Word32 → Word32 → Word32}
    (hi : exec i s = laneImm o f s) (hrb : rbOf i = o.rb) : LaneWord s e i (e.setI o) (resultImm e o f) noFlag :=
  put_word h (e.exec_nodup _ _ _) (by rw [hi, hrb]; exact laneImm_eq h o f) fun L => .inl ⟨o.d, _, rfl, fun _ => rfl⟩

/-! ### Uniform words (R226) -/

/-- A word that writes one S register whole. -/
theorem putS_word {s : State} {e : Env} (h : env? s = some e) {i : Instr} {d : BitVec 8} {w : Word64} {t : Bool}
    (hi : exec i s = .next (retire (rbOf i) e { sregs := e.putS d { w := w, t := t } })) : UniformWord s e i (uniform e d w t) := by
  refine uniform_word h i _ hi _ fun n => ?_
  simp only [Env.putS, mkS, uniform, Env.scell, List.foldl_cons, List.foldl_nil, Table.get_set]
  split <;> rfl

theorem uniFixed_word {s : State} {e : Env} (h : env? s = some e) {i : Instr} {o : OpF} {f : Word64 → Word64 → Word64}
    (hi : exec i s = uniFixed o f s) (hrb : rbOf i = o.rb) :
    UniformWord s e i (uniform e o.d (f (e.us o.a).w (e.us o.b).w) ((e.us o.a).t || (e.us o.b).t)) :=
  putS_word h (by rw [hi, hrb]; exact uniFixed_eq h o f)

theorem uniImm_word {s : State} {e : Env} (h : env? s = some e) {i : Instr} {o : OpI} {f : Word64 → Word64 → Word64}
    (hi : exec i s = uniImm o f s) (hrb : rbOf i = o.rb) :
    UniformWord s e i (uniform e o.d (f (e.us o.a).w (o.imm.signExtend 64)) (e.us o.a).t) :=
  putS_word h (by rw [hi, hrb]; exact uniImm_eq h o f)

end Sys2Proof.Machine
end

section
/-!
PROOF. The integer words and the uniform words of two operands (09 R216 to R229): each by the law of its shape; the counts, the bit reversal
and the bit fields bit by bit.
-/
namespace Sys2Proof.Machine
open Sys2Proof

/-! ### Counts and reversal (R219, R220) -/

theorem foldl_count {α : Type} (p : α → Bool) (l : List α) (k : Nat) :
    l.foldl (fun n i => if p i then n + 1 else n) k = k + l.countP p := by
  induction l generalizing k with
  | nil => rfl
  | cons a l ih =>
    rw [List.foldl_cons, ih, List.countP_cons]
    split <;> omega

theorem popcOp_eq (w : Nat) (x : BitVec w) : popcOp w x = (List.range w).countP fun i => x.getLsbD i := by
  simp [popcOp, foldl_count]

/-- The number of leading zeros is the place of the first one from above (R220). -/
theorem clzOp_eq (w : Nat) (x : BitVec w) : clzOp w x = ((List.range w).find? fun i => x.getLsbD (w - 1 - i)).getD w := by
  unfold clzOp
  split
  case isTrue hx =>
    have hfind : ((List.range w).find? fun i => x.getLsbD (w - 1 - i)) = none :=
      List.find?_range_eq_none.mpr fun i _ => by simp [hx]
    rw [hfind, Option.getD_none]
  case isFalse hx =>
    have hne : x.toNat ≠ 0 := fun h => hx (BitVec.eq_of_toNat_eq h)
    have hlog : x.toNat.log2 < w := (Nat.log2_lt hne).mpr x.isLt
    have hfind : ((List.range w).find? fun i => x.getLsbD (w - 1 - i)) = some (w - 1 - x.toNat.log2) := by
      refine List.find?_range_eq_some.mpr ⟨?_, List.mem_range.mpr (by omega), fun j hj => ?_⟩
      · rw [show w - 1 - (w - 1 - x.toNat.log2) = x.toNat.log2 by omega]
        exact Nat.testBit_log2 hne
      · have hlt : x.toNat < 2 ^ (w - 1 - j) := (Nat.log2_lt hne).mp (by omega)
        simp [BitVec.getLsbD, Nat.testBit_lt_two_pow hlt]
    rw [hfind, Option.getD_some]

/-- The bits that the reversal has set so far. -/
theorem brevOp_foldl (w : Nat) (x : BitVec w) (l : List Nat) (r : BitVec w) (j : Nat) :
    (l.foldl (fun (r : BitVec w) i => if x.getLsbD i then r ||| ((1 <<< (w - 1 - i) : Nat) : BitVec w) else r) r).getLsbD j =
      (r.getLsbD j || l.any fun i => x.getLsbD i && decide (j < w) && decide (j = w - 1 - i)) := by
  induction l generalizing r with
  | nil => simp
  | cons i l ih =>
    rw [List.foldl_cons, ih, List.any_cons]
    cases hx : x.getLsbD i
    · simp
    · have hone : (((1 <<< (w - 1 - i) : Nat) : BitVec w)).getLsbD j = (decide (j < w) && decide (j = w - 1 - i)) := by
        rw [Nat.one_shiftLeft, BitVec.natCast_eq_ofNat, BitVec.getLsbD_ofNat, Nat.testBit_two_pow]
        simp only [eq_comm]
      simp only [if_true, BitVec.getLsbD_or, hone, Bool.true_and, Bool.or_assoc]

theorem brevOp_eq (w : Nat) (x : BitVec w) : brevOp w x = x.reverse := by
  refine BitVec.eq_of_getLsbD_eq fun j hj => ?_
  rw [brevOp, brevOp_foldl, BitVec.getLsbD_reverse, BitVec.getMsbD]
  simp only [BitVec.ofNat_eq_ofNat, BitVec.getLsbD_zero, Bool.false_or, hj, decide_true, Bool.true_and, Bool.and_true]
  rw [Bool.eq_iff_iff, List.any_eq_true]
  constructor
  · rintro ⟨i, hi, h⟩
    simp only [Bool.and_eq_true, decide_eq_true_eq, List.mem_range] at h hi
    rw [h.2, show w - 1 - (w - 1 - i) = i by omega]
    exact h.1
  · intro h
    exact ⟨w - 1 - j, List.mem_range.mpr (by omega), by simp only [h, Bool.true_and, decide_eq_true_eq]; omega⟩

/-! ### Bit fields (R221) -/

/-- BFX extends the bits that it takes. -/
theorem bfxOp_eq (sg : Bool) (a b c : Word32) (hl : 0 < (fieldOf b c).2) :
    bfxOp sg a b c = if sg then (a.extractLsb' (fieldOf b c).1 (fieldOf b c).2).signExtend 32
      else (a.extractLsb' (fieldOf b c).1 (fieldOf b c).2).zeroExtend 32 := by
  unfold bfxOp
  generalize fieldOf b c = f at hl
  obtain ⟨p, l⟩ := f
  simp only at hl
  obtain ⟨n, rfl⟩ : ∃ n, l = n + 1 := ⟨l - 1, by omega⟩
  have hx : (a.extractLsb' p (n + 1)).toNat = (a.toNat >>> p) % 2 ^ (n + 1) := by simp [BitVec.extractLsb'_toNat]
  have hzero : BitVec.zeroExtend 32 (a.extractLsb' p (n + 1)) = BitVec.ofNat 32 ((a.toNat >>> p) % 2 ^ (n + 1)) := by
    apply BitVec.eq_of_toNat_eq; simp [hx]
  have hint : (a.extractLsb' p (n + 1)).toInt =
      if 2 ^ n ≤ (a.toNat >>> p) % 2 ^ (n + 1) then ((a.toNat >>> p % 2 ^ (n + 1) : Nat) : Int) - 2 ^ (n + 1)
      else ((a.toNat >>> p % 2 ^ (n + 1) : Nat) : Int) := by
    rw [BitVec.toInt_eq_toNat_cond, hx, Nat.pow_succ]
    split <;> split <;> first | omega | push_cast <;> rfl
  simp only [Nat.add_eq_zero_iff, one_ne_zero, and_false, if_false, Nat.add_sub_cancel]
  cases sg
  · simp [hzero]
  · simp only [Bool.true_and, decide_eq_true_eq, if_true, BitVec.signExtend, hint]
    split
    · rfl
    · rw [BitVec.ofInt_natCast]

theorem bfxOp_bit (sg : Bool) (a b c : Word32) {i : Nat} (hi : i < 32) (hl : 0 < (fieldOf b c).2) :
    (bfxOp sg a b c).getLsbD i = if i < (fieldOf b c).2 then a.getLsbD ((fieldOf b c).1 + i)
      else (sg && a.getLsbD ((fieldOf b c).1 + (fieldOf b c).2 - 1)) := by
  rw [bfxOp_eq sg a b c hl]
  generalize fieldOf b c = f at hl
  obtain ⟨p, l⟩ := f
  simp only at hl ⊢
  cases sg
  · by_cases h : i < l <;> simp [BitVec.getLsbD_setWidth, BitVec.getLsbD_extractLsb', hi, h]
  · by_cases h : i < l
    · rw [if_pos rfl, BitVec.getLsbD_signExtend, if_pos h, if_pos h, BitVec.getLsbD_extractLsb']
      simp [hi, h]
    · have hmsb : (a.extractLsb' p l).msb = a.getLsbD (p + l - 1) := by
        rw [BitVec.msb_eq_getLsbD_last, BitVec.getLsbD_extractLsb', show p + (l - 1) = p + l - 1 by omega]
        simp [hl]
      rw [if_pos rfl, BitVec.getLsbD_signExtend, if_neg h, if_neg h, hmsb]
      simp [hi]

theorem bfiOp_bit (d a b c : Word32) {i : Nat} (hi : i < 32) :
    (bfiOp d a b c).getLsbD i =
      if (fieldOf b c).1 ≤ i ∧ i < (fieldOf b c).1 + (fieldOf b c).2 then a.getLsbD (i - (fieldOf b c).1) else d.getLsbD i := by
  unfold bfiOp
  generalize fieldOf b c = f
  obtain ⟨p, l⟩ := f
  simp only [BitVec.getLsbD_or, BitVec.getLsbD_and, BitVec.getLsbD_not, BitVec.getLsbD_shiftLeft, BitVec.getLsbD_ofNat,
    Nat.testBit_shiftLeft, Nat.testBit_two_pow_sub_one, hi, decide_true, Bool.true_and]
  by_cases h1 : p ≤ i
  · by_cases h2 : i < p + l
    · have h3 : i - p < l := by omega
      simp [h1, h2, h3]
    · have h3 : ¬i - p < l := by omega
      simp [h2, h3]
  · simp [h1]

/-- A field of no bit: the length is 0, or the position lies beyond the register. -/
theorem fieldOf_empty {b c : Word32} (h : c = 0 ∨ 32 ≤ b.toNat) : (fieldOf b c).2 = 0 := by
  unfold fieldOf
  rcases h with rfl | h
  · simp
  · simp only; omega

/-! ### The obligations -/

/-- Settles O1: each word by the law of a word of two sources. -/
theorem integerTwoSourceResults : Obligations.IntegerTwoSourceResults := by
  intro s e o h
  exact ⟨lane2_word h (exec_add o s) rfl, lane2_word h (exec_sub o s) rfl, lane2_word h (exec_mul o s) rfl,
    lane2_word h (exec_mulh o s) rfl, lane2_word h (exec_and o s) rfl, lane2_word h (exec_or o s) rfl, lane2_word h (exec_xor o s) rfl,
    lane2_word h (exec_andn o s) rfl, lane2_word h (exec_min o s) rfl, lane2_word h (exec_max o s) rfl⟩

/-- Settles O2: each word by the law of its shape; the model's counts and its reversal are those of the statement. -/
theorem integerOneSourceResults : Obligations.IntegerOneSourceResults := by
  intro s e o h
  have hbrev : brevOp = fun _ x => x.reverse := funext fun w => funext (brevOp_eq w)
  exact ⟨lane1_word h (exec_not o s) rfl, lane1_word h (exec_neg o s) rfl, lane1_word h (exec_abs o s) rfl,
    lane1_word h (exec_mov o s) rfl, hbrev ▸ lane1_word h (exec_brev o s) rfl, laneShift_word h (exec_shl o s) rfl,
    laneShift_word h (exec_shr o s) rfl, laneShift_word h (exec_sar o s) rfl, laneShift_word h (exec_rotl o s) rfl,
    laneCount_word h (exec_popc o s) rfl popcOp_eq, laneCount_word h (exec_clz o s) rfl clzOp_eq,
    laneCount_word h (exec_ctz o s) rfl fun _ _ => rfl⟩

/-- ADDC writes the sum with the carry in and replaces p0 by the carry out (R217). -/
theorem addc_word {s : State} {e : Env} (h : env? s = some e) (o : OpF) :
    LaneWordAll s e (.addc o) (e.setE o)
      (fun L n => reg32 o.d ((e.v32 L o.a).w + (e.v32 L o.b).w + (if e.p L 0 then 1 else 0)) (e.dt L (src2 e o L)) n)
      (fun L => pushed true (e.th L).pred
        (decide (2 ^ 32 ≤ (e.v32 L o.a).w.toNat + (e.v32 L o.b).w.toNat + (if e.p L 0 then 1 else 0))))
      noFlag (fun L => e.det && src2 e o L) := by
  refine lane_word_all h (e.setE_nodup o) ((exec_addc o s).trans (laneFixed_eq h o _)) fun L => ⟨rfl, rfl, rfl, rfl, rfl, rfl, rfl, fun n => ?_⟩
  have hsum : (BitVec.ofNat 32 ((e.v32 L o.a).w.toNat + (e.v32 L o.b).w.toNat + (if e.p L 0 then 1 else 0)) : Word32) =
      (e.v32 L o.a).w + (e.v32 L o.b).w + (if e.p L 0 then 1 else 0) := by
    apply BitVec.eq_of_toNat_eq
    cases e.p L 0 <;> simp [BitVec.toNat_add]
  rw [← hsum]
  exact apply_put32 e L o.d _ n

/-- CMP pushes or replaces p0 (R224). -/
theorem cmp_word {s : State} {e : Env} (h : env? s = some e) (o : OpF) :
    PredicateWord s e (.cmp o) (e.setE o)
      (fun L => pushed (o.bit 8) (e.th L).pred
        (if o.wide then condI o.cond (signedTy o.ty) (e.v64 L o.a).w (e.v64 L o.b).w
         else condI o.cond (signedTy o.ty) (e.v32 L o.a).w (e.v32 L o.b).w))
      noFlag (fun L => e.det && (if o.wide then (e.v64 L o.a).t || (e.v64 L o.b).t else src2 e o L)) := by
  by_cases hw : o.wide = true
  · exact push_word h (exec_cmp o s) rfl (fun L => if_pos hw) (fun L => by rw [if_pos hw]) fun L => by rw [if_pos hw]
  · exact push_word h (exec_cmp o s) rfl (fun L => if_neg hw) (fun L => by rw [if_neg hw]) fun L => by rw [if_neg hw]; rfl

theorem mad_word {s : State} {e : Env} (h : env? s = some e) (o : OpF) : LaneWord s e (.mad o) (e.setE o) (resultMad e o) noFlag := by
  by_cases hw : o.wide = true
  · exact fixed64_word h (exec_mad o s) rfl (fun L => if_pos hw) fun L n => if_pos hw
  · exact fixed32_word h (exec_mad o s) rfl (fun L => if_neg hw) fun L n => if_neg hw

/-- Settles O3: each word by the law of its shape, and the bit fields bit by bit. -/
theorem integerOtherResults : Obligations.IntegerOtherResults := by
  intro s e o k h
  refine ⟨addc_word h o, mad_word h o, fixed64_word h (exec_madw o s) rfl (fun _ => rfl) fun _ _ => rfl,
    fixed32_word h (exec_fshl o s) rfl (fun _ => rfl) fun _ _ => rfl, fixed32_word h (exec_bfx o s) rfl (fun _ => rfl) fun _ _ => rfl,
    fixed32_word h (exec_bfi o s) rfl (fun _ => rfl) fun _ _ => rfl, lane2_word_by h (fun e' L _ x y => if e'.p L o.cond then x else y) (exec_sel o s) rfl,
    fixed64_word h (exec_lea o s) rfl (fun _ => rfl) fun _ _ => rfl, ?_, cmp_word h o, fun sg d a b c => ⟨fun hempty => ?_, fun i hi => ?_⟩⟩
  · exact put_word h (e.exec_nodup _ _ _) (word_retires h (exec_movw k s) rfl) fun L => .inl ⟨k.d, _, rfl, fun _ => rfl⟩
  · have hl := fieldOf_empty hempty
    refine ⟨by simp [bfxOp, hl], BitVec.eq_of_getLsbD_eq fun i hi => ?_⟩
    rw [bfiOp_bit d a b c hi, if_neg (by rw [hl]; omega)]
  · exact ⟨fun hl => bfxOp_bit sg a b c hi hl, bfiOp_bit d a b c hi⟩

/-- Settles O4: each word by the law of an immediate word. -/
theorem integerImmediateResults : Obligations.IntegerImmediateResults := by
  intro s e o h
  exact ⟨laneImm_word h (exec_addImm o s) rfl, laneImm_word h (exec_mulImm o s) rfl, laneImm_word h (exec_andImm o s) rfl,
    laneImm_word h (exec_orImm o s) rfl, laneImm_word h (exec_xorImm o s) rfl, laneImm_word h (exec_shlImm o s) rfl,
    laneImm_word h (exec_shrImm o s) rfl, laneImm_word h (exec_sarImm o s) rfl, laneImm_word h (exec_rotlImm o s) rfl⟩

/-- Settles O5: each word by the law of a uniform word of two registers, or of one and the immediate. -/
theorem uniformResults : Obligations.UniformResults := by
  intro s e o k q h x y tt m j
  exact ⟨uniFixed_word h (exec_uadd o s) rfl, uniFixed_word h (exec_usub o s) rfl, uniFixed_word h (exec_umul o s) rfl,
    uniFixed_word h (exec_umulh o s) rfl, uniFixed_word h (exec_uand o s) rfl, uniFixed_word h (exec_uor o s) rfl,
    uniFixed_word h (exec_uxor o s) rfl, uniFixed_word h (exec_ushl o s) rfl, uniFixed_word h (exec_ushr o s) rfl,
    uniFixed_word h (exec_usar o s) rfl, uniFixed_word h (exec_umin o s) rfl, uniFixed_word h (exec_umax o s) rfl,
    uniFixed_word h (exec_ucmp o s) rfl, uniFixed_word h (exec_ulea o s) rfl, putS_word h (word_retires h (exec_umov o s) rfl),
    putS_word h (word_retires h (exec_umovw q s) rfl),
    uniImm_word h (exec_uaddImm k s) rfl, uniImm_word h (exec_umulImm k s) rfl, uniImm_word h (exec_uandImm k s) rfl,
    uniImm_word h (exec_uorImm k s) rfl, uniImm_word h (exec_uxorImm k s) rfl, uniImm_word h (exec_ushlImm k s) rfl,
    uniImm_word h (exec_ushrImm k s) rfl, uniImm_word h (exec_usarImm k s) rfl⟩

end Sys2Proof.Machine
end

section
/-!
PROOF. The floating words that write a result a lane, before the next word or at the boundary (09 R230 to R239); the class of FCLASS bit by
bit; division (09 R218, R227, R228).
-/
namespace Sys2Proof.Machine
open Sys2Proof

/-! ### One result a lane, with its flags (R231, R239) -/

theorem float1_word {s : State} {e : Env} (h : env? s = some e) {i : Instr} {o : OpF} {f : Nat → Nat × Flags}
    (hi : exec i s = laneFixed o (f32op1 o f) s) (hrb : rbOf i = o.rb) {r : Nat → Nat × Flags}
    (hr : ∀ L, f (e.v32 L o.a).w.toNat = r L) : FloatWord s e i o r (src1 e o) :=
  fixed_word h hi hrb fun L => .inl ⟨o.d, _, by rw [← hr L]; rfl, fun n => by rw [resultF, ← hr L]; rfl⟩

theorem float2_word {s : State} {e : Env} (h : env? s = some e) {i : Instr} {o : OpF} {f : Nat → Nat → Nat × Flags}
    (hi : exec i s = laneFixed o (f32op2 o f) s) (hrb : rbOf i = o.rb) {r : Nat → Nat × Flags}
    (hr : ∀ L, f (e.v32 L o.a).w.toNat (e.v32 L o.b).w.toNat = r L) : FloatWord s e i o r (src2 e o) :=
  float_word2 h hi hrb hr

theorem float3_word {s : State} {e : Env} (h : env? s = some e) {i : Instr} {o : OpF} {f : Nat → Nat → Nat → Nat × Flags}
    (hi : exec i s = laneFixed o (f32op3 o f) s) (hrb : rbOf i = o.rb) {r : Nat → Nat × Flags}
    (hr : ∀ L, f (e.v32 L o.a).w.toNat (e.v32 L o.b).w.toNat (e.v32 L o.c).w.toNat = r L) : FloatWord s e i o r (src3 e o) :=
  fixed_word h hi hrb fun L => .inl ⟨o.d, _, by rw [← hr L]; rfl, fun n => by rw [resultF, ← hr L]; rfl⟩

theorem double2_word {s : State} {e : Env} (h : env? s = some e) {i : Instr} {o : OpF} {f : Nat → Nat → Nat × Flags}
    (hi : exec i s = laneFixed o (f64op2 o f) s) (hrb : rbOf i = o.rb) {r : Nat → Nat × Flags}
    (hr : ∀ L, f (e.v64 L o.a).w.toNat (e.v64 L o.b).w.toNat = r L) : DoubleWord s e i o r (srcD2 e o) :=
  fixed_word h hi hrb fun L => .inr ⟨o.d, _, by rw [← hr L]; rfl, fun n => by rw [resultD, ← hr L]; rfl⟩

theorem double3_word {s : State} {e : Env} (h : env? s = some e) {i : Instr} {o : OpF} {f : Nat → Nat → Nat → Nat × Flags}
    (hi : exec i s = laneFixed o (f64op3 o f) s) (hrb : rbOf i = o.rb) {r : Nat → Nat × Flags}
    (hr : ∀ L, f (e.v64 L o.a).w.toNat (e.v64 L o.b).w.toNat (e.v64 L o.c).w.toNat = r L) : DoubleWord s e i o r (srcD3 e o) :=
  fixed_word h hi hrb fun L => .inr ⟨o.d, _, by rw [← hr L]; rfl, fun n => by rw [resultD, ← hr L]; rfl⟩

/-- A word of variable latency leaves its writes for the boundary (R83, R213). -/
theorem late_word {s : State} {e : Env} (h : env? s = some e) {i : Instr} {o : OpF} {f : Env → Nat → LaneWrite}
    (hi : exec i s = laneVariable o f s) (hrb : rbOf i = o.rb) {g : Nat → LaneWrite} (hf : ∀ L, f e L = g L) :
    DefersWord s e i (.ready ((e.setE o).map g) []) := by
  obtain rfl : f e = g := funext hf
  exact defers_word h i _ (by rw [hi, hrb]; exact laneVariable_eq h o f)

/-- A word that pushes a floating comparison and raises IV where an operand is a signalling NaN (R234). -/
theorem fcompare_word {s : State} {e : Env} (h : env? s = some e) {i : Instr} {o : OpF} {f : Env → Nat → LaneWrite}
    (hi : exec i s = laneFixed o f s) (hrb : rbOf i = o.rb) {x y : Nat → FVal} {t : Nat → Bool}
    (hf : ∀ L, f e L = { e.pushP L (o.bit 8) (condF o.cond (x L) (y L)) (t L) with raise := snanFlag [x L, y L] }) :
    PredicateWord s e i (e.setE o) (fun L => pushed (o.bit 8) (e.th L).pred (condF o.cond (x L) (y L)))
      (fun L => if (x L).isSNaN || (y L).isSNaN then fIV else 0) (fun L => e.det && t L) := by
  refine predicate_word h (e.setE_nodup o) (by rw [hi, hrb]; exact laneFixed_eq h o f) (fun L => by rw [hf L]; rfl) fun L => ?_
  rw [hf L]
  exact ⟨rfl, rfl, rfl, rfl, by simp [snanFlag, flagIf], rfl, predOp_pushed _ _ _, fun _ => rfl⟩

/-! ### FCLASS (R235) -/

/-- The bit that FCLASS sets, by the sign and the magnitude of its operand. -/
theorem fClass_f32 (w : Word32) :
    fClass f32 w.toNat = 2 ^ (if 0x7FC00000 ≤ mag32 w then 9 else if 0x7F800000 < mag32 w then 8 else
      if w.msb then (if mag32 w = 0x7F800000 then 0 else if 0x800000 ≤ mag32 w then 1 else if 0 < mag32 w then 2 else 3)
      else if mag32 w = 0x7F800000 then 7 else if 0x800000 ≤ mag32 w then 6 else if 0 < mag32 w then 5 else 4) := by
  have hquiet : w.getLsbD 22 = decide (2 ^ 22 ≤ mag32 w % 2 ^ 23) := by
    rw [← frac_mag32, ← Bool.not_inj_iff, ← quiet_bit32, ← decide_not]
    exact decide_eq_decide.mpr (by omega)
  have hlt := mag32_lt w
  unfold fClass
  rw [unpackF_f32, hquiet]
  generalize mag32 w = m at hlt
  by_cases hnan : 0x7F800000 < m
  · rw [if_pos hnan]
    by_cases hq : 0x7FC00000 ≤ m
    · simp only [show 2 ^ 22 ≤ m % 2 ^ 23 by omega, decide_true, Bool.not_true, Bool.false_eq_true, if_false, if_pos hq]
    · simp only [show ¬2 ^ 22 ≤ m % 2 ^ 23 by omega, decide_false, Bool.not_false, if_true, if_neg hq, if_pos hnan]
  · rw [if_neg hnan, if_neg (by omega : ¬0x7FC00000 ≤ m), if_neg hnan]
    by_cases hinf : m = 0x7F800000
    · simp only [hinf, if_true]
      cases w.msb <;> rfl
    · simp only [if_neg hinf, sig32_eq_zero]
      have hf : f32.fbits = 23 := rfl
      by_cases h0 : m = 0
      · simp only [h0, if_true]
        cases w.msb <;> rfl
      · by_cases hs : m < 2 ^ 23
        · simp only [if_neg h0, hf, sig32_subnormal hs, if_pos hs, if_neg (by omega : ¬0x800000 ≤ m), if_pos (by omega : 0 < m)]
          cases w.msb <;> rfl
        · simp only [if_neg h0, hf, sig32_normal (by omega : 2 ^ 23 ≤ m), if_neg (by omega : ¬2 ^ 23 + m % 2 ^ 23 < 2 ^ 23),
            if_pos (by omega : 0x800000 ≤ m)]
          cases w.msb <;> rfl

/-- Settles O8: each word by the law of its shape. -/
theorem binary32Results : Obligations.Binary32Results := by
  intro s e o h x y z
  refine ⟨float2_word h (exec_fadd o s) rfl fun _ => rfl, float2_word h (exec_fsub o s) rfl fun _ => rfl,
    float2_word h (exec_fmul o s) rfl fun _ => rfl, float3_word h (exec_ffma o s) rfl fun _ => rfl,
    float2_word h (exec_fmin o s) rfl fun _ => rfl, float2_word h (exec_fmax o s) rfl fun _ => rfl,
    float1_word h (exec_fclass o s) rfl fun _ => rfl, float1_word h (exec_frnd o s) rfl fun _ => rfl,
    float2_word h (exec_fscl o s) rfl fun L => by rw [BitVec.ofNat_toNat, BitVec.setWidth_eq]; rfl,
    fixed32_word h (exec_fsel o s) rfl (fun _ => rfl) fun _ _ => rfl, fcompare_word h (exec_fcmp o s) rfl fun _ => rfl,
    late_word h (exec_fdiv o s) rfl fun _ => rfl, late_word h (exec_fsqrt o s) rfl fun _ => rfl,
    late_word h (exec_frcp o s) rfl fun _ => rfl, late_word h (exec_frsq o s) rfl fun _ => rfl,
    late_word h (exec_fexp2 o s) rfl fun _ => rfl, late_word h (exec_flog2 o s) rfl fun _ => rfl, fClass_f32⟩

/-- Settles O11: each word by the law of its shape; QBLK leaves one deferred write. -/
theorem binary64AndBlockResults : Obligations.Binary64AndBlockResults := by
  intro s e o h x y z q
  exact ⟨double2_word h (exec_dadd o s) rfl fun _ => rfl, double2_word h (exec_dmul o s) rfl fun _ => rfl,
    double3_word h (exec_dfma o s) rfl fun _ => rfl, late_word h (exec_ddiv o s) rfl fun _ => rfl,
    late_word h (exec_dsqrt o s) rfl fun _ => rfl, fcompare_word h (exec_dcmp o s) rfl fun _ => rfl,
    defers_word h _ _ (word_retires h (exec_qblk o s) rfl)⟩

/-! ### Division (R188, R218, R227, R228) -/

theorem divRem_zero {w : Nat} (sg : Bool) (x y : BitVec w) (hy : y = 0) : divRem sg x y = (BitVec.allOnes w, x, fDZ) := if_pos hy

theorem divRem_unsigned {w : Nat} (x y : BitVec w) (hy : y ≠ 0) :
    divRem false x y = (BitVec.ofNat w (x.toNat / y.toNat), BitVec.ofNat w (x.toNat % y.toNat), 0) := by
  have hdiv : x / y = BitVec.ofNat w (x.toNat / y.toNat) := BitVec.eq_of_toNat_eq (by
    rw [BitVec.toNat_udiv, BitVec.toNat_ofNat, Nat.mod_eq_of_lt (Nat.lt_of_le_of_lt (Nat.div_le_self _ _) x.isLt)])
  have hmod : x % y = BitVec.ofNat w (x.toNat % y.toNat) := BitVec.eq_of_toNat_eq (by
    rw [BitVec.toNat_umod, BitVec.toNat_ofNat, Nat.mod_eq_of_lt (Nat.lt_of_le_of_lt (Nat.mod_le _ _) x.isLt)])
  simp only [divRem, if_neg hy, Bool.false_eq_true, if_false, hdiv, hmod]

theorem divRem_signed {w : Nat} (x y : BitVec w) (hy : y ≠ 0) :
    divRem true x y = (BitVec.ofInt w (x.toInt.tdiv y.toInt), BitVec.ofInt w (x.toInt.tmod y.toInt), 0) := by
  have hdiv : x.sdiv y = BitVec.ofInt w (x.toInt.tdiv y.toInt) := BitVec.eq_of_toInt_eq (by rw [BitVec.toInt_sdiv, BitVec.toInt_ofInt])
  have hmod : x.srem y = BitVec.ofInt w (x.toInt.tmod y.toInt) := by rw [← BitVec.toInt_srem, BitVec.ofInt_toInt]
  simp only [divRem, if_neg hy, if_true, hdiv, hmod]

/-- The most negative number over −1 (R218). -/
theorem divRem_intMin {w : Nat} (hw : 0 < w) : divRem true (BitVec.intMin w) (BitVec.allOnes w) = (BitVec.intMin w, 0, 0) := by
  have hne : BitVec.allOnes w ≠ 0 := fun h => by
    have := congrArg (·.getLsbD 0) h
    simp [hw] at this
  have hm : (BitVec.allOnes w).toInt = -1 := by rw [BitVec.toInt_allOnes, if_pos hw]
  rw [divRem_signed _ _ hne, hm]
  refine Prod.ext ?_ (Prod.ext ?_ rfl)
  · rw [Int.tdiv_neg, Int.tdiv_one, BitVec.ofInt_neg, BitVec.ofInt_toInt, BitVec.neg_intMin]
  · simp

/-- UDIV: the flag is raised in every active lane, where the divisor is 0 (R227). -/
theorem divRem_flag {w : Nat} (sg : Bool) (x y : BitVec w) : (divRem sg x y).2.2 = if y = 0 then fDZ else 0 := by
  unfold divRem
  split
  · rfl
  · split <;> rfl

theorem divLane_narrow (e : Env) {o : OpF} (hw : o.wide = false) (rem : Bool) (L : Nat) :
    divLane rem o e L =
      { e.put32 L o.d { w := if rem then (divRem (signedTy o.ty) (e.v32 L o.a).w (e.v32 L o.b).w).2.1
                              else (divRem (signedTy o.ty) (e.v32 L o.a).w (e.v32 L o.b).w).1, t := src2 e o L } with
        raise := (divRem (signedTy o.ty) (e.v32 L o.a).w (e.v32 L o.b).w).2.2 } := by
  simp only [divLane, hw, Bool.false_eq_true, if_false]; rfl

theorem divLane_wide (e : Env) {o : OpF} (hw : o.wide = true) (rem : Bool) (L : Nat) :
    divLane rem o e L =
      { e.put64 L o.d { w := if rem then (divRem (signedTy o.ty) (e.v64 L o.a).w (e.v64 L o.b).w).2.1
                              else (divRem (signedTy o.ty) (e.v64 L o.a).w (e.v64 L o.b).w).1, t := srcD2 e o L } with
        raise := (divRem (signedTy o.ty) (e.v64 L o.a).w (e.v64 L o.b).w).2.2 } := by
  simp only [divLane, hw, if_true]; rfl

/-- URDV leaves the value that it reads for the boundary (R228). -/
theorem urdv_word {s : State} {e : Env} (h : env? s = some e) {o : OpF} {w : Word64} {t : Bool} (hv : urdvVal o e = { w := w, t := t }) :
    DefersWord s e (.urdv o) (.ready [] [(o.d.toNat, { w := w, tag := .none, t := if e.ut (t || (e.us o.b).t) then 3 else 0 })]) := by
  refine defers_word h _ _ (word_retires h (exec_urdv o s) ?_)
  rw [hv]; rfl

theorem div_words {s : State} {e : Env} (h : env? s = some e) (o : OpF) (hw : o.wide = false) :
    DefersWord s e (.div o) (lateF e o (fun L => ((divRem (signedTy o.ty) (e.v32 L o.a).w (e.v32 L o.b).w).1.toNat,
      (divRem (signedTy o.ty) (e.v32 L o.a).w (e.v32 L o.b).w).2.2)) (src2 e o)) ∧
    DefersWord s e (.rem o) (lateF e o (fun L => ((divRem (signedTy o.ty) (e.v32 L o.a).w (e.v32 L o.b).w).2.1.toNat,
      (divRem (signedTy o.ty) (e.v32 L o.a).w (e.v32 L o.b).w).2.2)) (src2 e o)) :=
  ⟨late_word h (exec_div o s) rfl fun L => by
    rw [divLane_narrow e hw, BitVec.ofNat_toNat, BitVec.setWidth_eq]; rfl,
   late_word h (exec_rem o s) rfl fun L => by
    rw [divLane_narrow e hw, BitVec.ofNat_toNat, BitVec.setWidth_eq]; rfl⟩

theorem div_words_wide {s : State} {e : Env} (h : env? s = some e) (o : OpF) (hw : o.wide = true) :
    DefersWord s e (.div o) (lateD e o (fun L => ((divRem (signedTy o.ty) (e.v64 L o.a).w (e.v64 L o.b).w).1.toNat,
      (divRem (signedTy o.ty) (e.v64 L o.a).w (e.v64 L o.b).w).2.2)) (srcD2 e o)) ∧
    DefersWord s e (.rem o) (lateD e o (fun L => ((divRem (signedTy o.ty) (e.v64 L o.a).w (e.v64 L o.b).w).2.1.toNat,
      (divRem (signedTy o.ty) (e.v64 L o.a).w (e.v64 L o.b).w).2.2)) (srcD2 e o)) :=
  ⟨late_word h (exec_div o s) rfl fun L => by
    rw [divLane_wide e hw, BitVec.ofNat_toNat, BitVec.setWidth_eq]; rfl,
   late_word h (exec_rem o s) rfl fun L => by
    rw [divLane_wide e hw, BitVec.ofNat_toNat, BitVec.setWidth_eq]; rfl⟩

/-- UDIV leaves quotient or remainder, and DZ in every active lane (R227). -/
theorem udiv_word {s : State} {e : Env} (h : env? s = some e) (o : OpF) :
    DefersWord s e (.udiv o) (.ready (e.active.map fun t => { lane := t, raise := if (e.us o.b).w = 0 then fDZ else 0 })
      [(o.d.toNat, { w := if o.bit 5 then (divRem (signedTy o.ty) (e.us o.a).w (e.us o.b).w).2.1
                       else (divRem (signedTy o.ty) (e.us o.a).w (e.us o.b).w).1
                     tag := .none, t := if e.ut ((e.us o.a).t || (e.us o.b).t) then 3 else 0 })]) := by
  refine defers_word h _ _ (word_retires h (exec_udiv o s) ?_)
  rw [← divRem_flag (signedTy o.ty) (e.us o.a).w (e.us o.b).w]
  rfl

/-- Settles O6: the deferred writes of the four words, and what a division gives. -/
theorem divisionResults : Obligations.DivisionResults := by
  refine ⟨fun s e o h => ⟨div_words h o, div_words_wide h o, udiv_word h o, fun ha => ⟨fun hw => ?_, fun hw => ?_⟩, fun ha hj => ?_,
    fun ha hj => ⟨fun hw => ?_, fun hw => ?_⟩⟩, fun w x y => ⟨fun sg => divRem_zero sg x y, divRem_unsigned x y, divRem_signed x y, divRem_intMin⟩⟩
  · exact urdv_word h (by simp only [urdvVal, if_pos ha, hw]; rfl)
  · exact urdv_word h (by simp only [urdvVal, if_pos ha, hw]; rfl)
  · exact urdv_word h (by simp only [urdvVal, if_neg (Nat.not_le.mpr ha), if_pos hj])
  · exact urdv_word h (by simp only [urdvVal, if_neg (Nat.not_le.mpr ha), if_neg (Nat.not_lt.mpr hj), hw]; rfl)
  · exact urdv_word h (by simp only [urdvVal, if_neg (Nat.not_le.mpr ha), if_neg (Nat.not_lt.mpr hj), hw]; rfl)

end Sys2Proof.Machine
end

section
/-!
PROOF. The laws of words that leave something for the boundary, fault or trap, over the environment as the word leaves it (04 R82, R83, R86,
R89); the predicate words (07 R156, R158), TAINT (16 R403) and the paired form (02 R36 to R39).
-/
namespace Sys2Proof.Machine
open Sys2Proof

/-! ### The environment that a word leaves -/

/-- An environment is that of the run in execution over its own machine: what `retire` and `faultWord` need of it. -/
structure Env.Live (e : Env) : Prop where
  cur   : e.s.cur = some (e.g.ref, e.b)
  group : ∃ g, e.s.group? e.g.ref = some g

theorem live_of_env? {s : State} {e : Env} (h : env? s = some e) : e.Live := by
  obtain ⟨rfl, hc, hg, -⟩ := env?_inv h
  exact ⟨hc, e.g, hg⟩

/-- A change of the machine that keeps its groups and the run in execution keeps an environment live. -/
theorem Env.Live.of_groups {e : Env} (h : e.Live) {t : State} (hc : t.cur = e.s.cur) (hg : t.groups = e.s.groups) :
    ({ e with s := t } : Env).Live :=
  ⟨hc.trans h.cur, by obtain ⟨g, hg'⟩ := h.group; exact ⟨g, by simpa only [State.group?, hg] using hg'⟩⟩

theorem Env.Live.charged {e : Env} (h : e.Live) {t : State} (ht : ∃ c, t = { e.s with ctxs := c }) : ({ e with s := t } : Env).Live := by
  obtain ⟨c, rfl⟩ := ht
  exact h.of_groups rfl rfl

/-- The lanes after a word that writes no lane and sends none elsewhere. -/
theorem keepsLanes_of_none {e e' : Env} {d : Delta} (hd : d.lanes = []) (hp : d.pcs = none) (hcount : e'.g.lanes.length = e.g.lanes.length)
    (hth : ∀ L, L < e.g.lanes.length → e'.th L = afterWord e d L) : KeepsLanes e e' ∧ NextPcs e e' := by
  refine ⟨fun L => ?_, fun L hL => by rw [hth L hL]; exact afterWord_pc e d hp L⟩
  by_cases hL : L < e.g.lanes.length
  · rw [hth L hL, afterWord_none e d hd hp]
    split <;> exact ⟨rfl, rfl, rfl, rfl, rfl, rfl⟩
  · have before : e.th L = {} := Group.lane_of_ge _ (Nat.le_of_not_lt hL)
    have after : e'.th L = {} := Group.lane_of_ge _ (by rw [hcount]; exact Nat.le_of_not_lt hL)
    rw [before, after]
    exact ⟨rfl, rfl, rfl, rfl, rfl, rfl⟩

/-! ### Words that leave something for the boundary, or for the control state -/

/-- A word that leaves deferred writes and effects, over an environment that it may have changed (R82, R83). -/
theorem boundary_word {s : State} {e1 : Env} (hl : e1.Live) {i : Instr} {defs : List DForm} {effs : List Effect}
    (hi : exec i s = .next (retire (rbOf i) e1 { defer := defs, effs := effs })) : BoundaryWord s e1 i defs effs := by
  obtain ⟨hc, g, hg⟩ := hl
  obtain ⟨e', hret, hth, hs, hw, hdef, heff, hctl, hpause, hexit, htf, -⟩ := retire_spec (rbOf i) { defer := defs, effs := effs } hc hg
  obtain ⟨hlanes, hpcs⟩ := keepsLanes_of_none rfl rfl hret.count hth
  exact ⟨_, e', hi, hret, hlanes, hpcs, ⟨by simpa using hs, by simpa using hw⟩, hdef, heff, by simpa using hctl, by simpa using hpause,
    by simpa using hexit, by simpa using htf⟩

/-- The same for a word that leaves its environment as it saw it. -/
theorem boundary_word_same {s : State} {e : Env} (h : env? s = some e) {i : Instr} {f : Env → WordOut} {defs : List DForm}
    {effs : List Effect} (hi : exec i s = word (rbOf i) s f) (hf : f e = .retire e { defer := defs, effs := effs }) :
    BoundaryWord s e i defs effs := boundary_word (live_of_env? h) (word_retires h hi hf)

/-- A word that leaves writes of control state (R89, R96). -/
theorem ctl_word {s : State} {e : Env} (h : env? s = some e) {i : Instr} {l : List CtlWrite}
    (hi : exec i s = .next (retire (rbOf i) e { ctl := l })) : CtlWord s e i l := by
  obtain ⟨t, e', hex, hret, hth, hs, hw, hdef, heff, hctl, hpause, hexit, htf, -⟩ := retire_next h hi
  obtain ⟨hlanes, hpcs⟩ := keepsLanes_of_none rfl rfl hret.count hth
  exact ⟨t, e', hex, hret, hlanes, hpcs, ⟨by simpa using hs, by simpa using hw⟩, by simpa using hdef, by simpa using heff, hctl,
    by simpa using hpause, by simpa using hexit, by simpa using htf⟩

/-! ### Words that fault or trap (R86, R458) -/

/-- A word whose meaning faults. -/
theorem word_faults {s : State} {e e1 : Env} (h : env? s = some e) {i : Instr} {rb : Bool} {f : Env → WordOut} {c k : Nat} {a : Word64}
    {m : LaneMask} {d : Delta} (hi : exec i s = word rb s f) (hf : f e = .fault e1 c a m k d) :
    exec i s = .next (faultWord e1 c a m k d) := by
  rw [hi, word_eq h, hf]

/-- The one law of a precise fault: the run ends before the word with it, and nothing else changes. -/
theorem fault_word {s : State} {e1 : Env} (hl : e1.Live) {i : Instr} {c k : Nat} {a : Word64} {m : LaneMask}
    (hi : exec i s = .next (faultWord e1 c a m k {})) : FaultsAt s e1 i c a m := by
  obtain ⟨hc, g, hg⟩ := hl
  unfold faultWord at hi
  exact ⟨_, _, k, hi, env?_close hc hg, rfl, fun r hr => State.setGroup_group?_other _ _ _ hr, rfl, rfl, rfl⟩

/-- A word whose meaning is a precise fault in its own environment. -/
theorem faults_at {s : State} {e : Env} (h : env? s = some e) {i : Instr} {rb : Bool} {f : Env → WordOut} {c k : Nat} {a : Word64}
    {m : LaneMask} (hi : exec i s = word rb s f) (hf : f e = .fault e c a m k {}) : FaultsAt s e i c a m :=
  fault_word (live_of_env? h) (word_faults h hi hf)

/-! ### Predicate words (R156, R158) -/

theorem bne_eq_decide {n : Nat} (a b : BitVec n) : (a != b) = decide (a ≠ b) := by by_cases h : a = b <;> simp [h]
theorem bne_eq_xor (a b : Bool) : (a != b) = Bool.xor a b := by cases a <;> cases b <;> rfl

/-- A word that pushes or replaces p0 from predicates alone sets no control taint. -/
theorem predFixed_word {s : State} {e : Env} (h : env? s = some e) {i : Instr} {o : OpF} {f : Env → Nat → Bool} {b : Nat → Bool}
    (hi : exec i s = predFixed o f s) (hrb : rbOf i = o.rb) (hf : ∀ L, f e L = b L) :
    PredicateWord s e i (e.setE o) (fun L => pushed (o.bit 8) (e.th L).pred (b L)) noFlag noTaint :=
  push_word h hi hrb (fun _ => rfl) (fun L => by rw [hf L]) fun _ => Bool.and_false _

/-- PPOP and PMASK: a word that writes the predicate register of each lane of E whole. -/
theorem predAll_word {s : State} {e : Env} (h : env? s = some e) {i : Instr} {o : OpF} {f : Env → Nat → LaneWrite} {q : Nat → BitVec 8}
    {c : Nat → Bool} (hi : exec i s = laneFixed o f s) (hrb : rbOf i = o.rb)
    (hf : ∀ L, f e L = { lane := L, preds := [.all (q L)], ct := c L }) : PredicateWord s e i (e.setE o) q noFlag c :=
  predicate_word h (e.setE_nodup o) (by rw [hi, hrb]; exact laneFixed_eq h o f) (fun L => by rw [hf L]) fun L => by
    rw [hf L]; exact ⟨rfl, rfl, rfl, rfl, rfl, rfl, rfl, fun _ => rfl⟩

/-- Settles O16: each word by the law of a push, or of a predicate register written whole. -/
theorem predicateResults : Obligations.PredicateResults := by
  intro s e o h pj pk push
  have hj (L : Nat) : predJ o e L = pj L := bne_eq_xor _ _
  have hk (L : Nat) : predK o e L = pk L := bne_eq_xor _ _
  refine ⟨fun hm => ?_, fun hm => ?_, fun hm => ?_, fun hm => ?_, predFixed_word h (exec_pnot o s) rfl fun _ => rfl,
    predFixed_word h (exec_pdup o s) rfl fun _ => rfl,
    predFixed_word h (exec_pand o s) rfl fun L => by rw [hj, hk], predFixed_word h (exec_por o s) rfl fun L => by rw [hj, hk],
    predFixed_word h (exec_pxor o s) rfl fun L => by rw [hj, hk, bne_eq_xor], predAll_word h (exec_ppop o s) rfl fun _ => rfl,
    fun hb => predAll_word h (exec_pmask o s) rfl fun _ => if_pos hb,
    fun hb => fixed32_word h (exec_pmask o s) rfl (fun _ => if_neg (by rw [hb]; decide)) fun _ _ => rfl⟩
  · exact push_word h (exec_pset o s) rfl (fun L => by simp only [hm]) (fun _ => rfl) fun _ => Bool.and_false _
  · exact push_word h (exec_pset o s) rfl (fun L => by simp only [hm]) (fun _ => rfl) fun _ => Bool.and_false _
  · exact push_word h (exec_pset o s) rfl (fun L => by simp only [hm]; rfl) (fun L => by rw [bne_eq_decide]) fun _ => rfl
  · exact push_word h (exec_pset o s) rfl (fun L => by simp only [hm]) (fun _ => rfl) fun _ => rfl

theorem taintOf_eq (o : OpF) (e : Env) (L : Nat) : taintOf o e L =
    if o.low2 = 0 then (e.v32 L o.a).t else if o.low2 = 1 then (e.v64 L o.a).t
    else if o.low2 = 2 then ((e.th L).xreg o.a.toNat).t else (e.th L).ct := by
  unfold taintOf
  split
  case h_4 h0 h1 h2 => rw [if_neg h0, if_neg h1, if_neg h2]
  all_goals simp only [*]; rfl

/-- Settles O27: TAINT is a push of a taint, whose own source is none. -/
theorem taintPushes : Obligations.TaintPushes := by
  intro s e o h
  refine push_word h (exec_taint o s) rfl (fun _ => rfl) (fun L => ?_) fun _ => Bool.and_false _
  rw [taintOf_eq]

/-! ### The paired form (02 R36 to R39) -/

/-- The lane write of a slot that does `q`. -/
def slotWrite (e : Env) (d : BitVec 8) (L : Nat) (q : SlotOut) : LaneWrite :=
  { lane := L, v := (q.val.map fun v => (d.toNat, { w := v, t := e.dt L q.t })).toList, preds := (q.push.map PredOp.push).toList,
    raise := q.fl, ct := q.push.isSome && (e.det && q.t) }

/-- A slot with a result of a value other than the model's own spelling of it. -/
theorem put32_slotWrite (e : Env) (d : BitVec 8) (L : Nat) {w v : Word32} {t : Bool} (h : w = v) :
    e.put32 L d { w := w, t := t } = slotWrite e d L { val := some v, t := t } := by rw [h]; rfl
theorem pushP_slotWrite (e : Env) (d : BitVec 8) (L : Nat) {b c : Bool} {t : Bool} (h : b = c) :
    e.pushP L false b t = slotWrite e d L { push := some c, t := t } := by rw [h]; rfl
theorem fcmp_slotWrite (e : Env) (d : BitVec 8) (L : Nat) (x y : FVal) (b t : Bool) :
    { e.pushP L false b t with raise := snanFlag [x, y] } =
      slotWrite e d L { push := some b, t := t, fl := if x.isSNaN || y.isSNaN then fIV else 0 } := by
  have hf : snanFlag [x, y] = if x.isSNaN || y.isSNaN then fIV else 0 := by simp [snanFlag, flagIf]
  rw [hf]; rfl

theorem intLt_unsigned {w : Nat} (a b : BitVec w) : intLt false a b = decide (a < b) := by
  simp only [intLt, Bool.false_eq_true, if_false, BitVec.ult, BitVec.lt_def]

/-- A shift count of eight bits, taken as it is or sign-extended: the same, or past the width both ways. -/
theorem slot_count (b : BitVec 8) : (b.signExtend 32).toNat = b.toNat ∨ (32 ≤ b.toNat ∧ 32 ≤ (b.signExtend 32).toNat) := by
  have hb := b.isLt
  rw [BitVec.toNat_signExtend, BitVec.toNat_setWidth, Nat.mod_eq_of_lt (by omega)]
  by_cases hm : b.msb = true
  · have := BitVec.msb_eq_true_iff_two_mul_ge.mp hm
    rw [if_pos hm]; omega
  · rw [if_neg hm]; omega

theorem slot_shift (f : Nat → Word32) (b : BitVec 8) :
    (if 32 ≤ b.toNat then 0 else f b.toNat) = if 32 ≤ (b.signExtend 32).toNat then 0 else f (b.signExtend 32).toNat := by
  obtain h | ⟨h, h'⟩ := slot_count b
  · rw [h]
  · rw [if_pos h, if_pos h']

theorem slot_min (b : BitVec 8) : min b.toNat 32 = min (b.signExtend 32).toNat 32 := by
  have := slot_count b
  omega

/-- A slot does in a lane what its operation says (R38, R39). -/
theorem slotLane_eq (x : Slot) (e : Env) (L : Nat) :
    slotLane x e L = slotWrite e x.d L (slotOut x.op.toNat (e.v32 L x.a) (e.v32 L x.b) (x.b.signExtend 32)) := by
  unfold slotLane
  generalize x.op.toNat = n
  split
  case h_6 => exact put32_slotWrite e x.d L (by simp only [minI, intLt_unsigned, decide_eq_true_eq])
  case h_7 => exact put32_slotWrite e x.d L (by simp only [maxI, intLt_unsigned, decide_eq_true_eq])
  case h_21 => exact put32_slotWrite e x.d L (slot_shift _ x.b)
  case h_22 => exact put32_slotWrite e x.d L (slot_shift _ x.b)
  case h_23 => exact put32_slotWrite e x.d L (congrArg ((e.v32 L x.a).w.sshiftRight) (slot_min x.b))
  case h_30 => exact pushP_slotWrite e x.d L (bne_eq_decide _ _)
  case h_32 => exact pushP_slotWrite e x.d L (BitVec.sle_eq_not_slt ..).symm
  case h_34 =>
    exact pushP_slotWrite e x.d L (by simp only [condI, intLt_unsigned, ← decide_not, BitVec.not_lt])
  case h_35 => exact fcmp_slotWrite e x.d L _ _ _ _
  case h_36 => exact fcmp_slotWrite e x.d L _ _ _ _
  case h_37 => exact fcmp_slotWrite e x.d L _ _ _ _
  case h_38 =>
    simp only [imp_false] at *
    simp only [slotOut, *, if_false]; rfl
  all_goals rfl

theorem bool_regroup (p r d s t : Bool) : ((p && (d && s)) || (r && (d && t))) = (d && ((p && s) || (r && t))) := by
  cases d <;> simp

/-- The registers and the predicates after a slot of a lane. -/
theorem pairLane_does (o : OpP) (e : Env) (L : Nat) {q r : SlotOut} (h0 : slotLane o.s0 e L = slotWrite e o.s0.d L q)
    (h1 : slotLane o.s1 e L = slotWrite e o.s1.d L r) :
    LaneDoes e (pairLane o e L) L
      (fun n => (r.val.bind fun v => reg32 o.s1.d v (e.dt L r.t) n).or (q.val.bind fun v => reg32 o.s0.d v (e.dt L q.t) n))
      (((r.push.map (pushed false (((q.push.map (pushed false (e.th L).pred)).getD (e.th L).pred)))).getD
        (((q.push.map (pushed false (e.th L).pred)).getD (e.th L).pred)))) (q.fl ||| r.fl)
      (e.det && ((q.push.isSome && q.t) || (r.push.isSome && r.t))) := by
  obtain ⟨qv, qp, qf, qt⟩ := q
  obtain ⟨rv, rp, rf, rt⟩ := r
  unfold pairLane
  rw [h0, h1]
  refine ⟨rfl, rfl, rfl, rfl, rfl, ?_, ?_, fun n => ?_⟩
  · exact bool_regroup qp.isSome rp.isSome e.det qt rt
  · cases qp <;> cases rp <;> rfl
  · simp only [slotWrite, Thread.vreg, Thread.apply]
    cases qv <;> cases rv <;>
      simp only [Option.map_none, Option.map_some, Option.toList_none, Option.toList_some, List.append_nil, List.nil_append, List.cons_append,
        List.foldl_cons, List.foldl_nil, Option.bind_none, Option.bind_some, Option.or_none, Option.none_or, Option.getD_none, Table.get_set, reg32]
    case refine_3.none.some => split <;> rfl
    case refine_3.some.none => split <;> rfl
    case refine_3.some.some => split <;> [rfl; (split <;> rfl)]

/-- Settles O38: what each slot does, and the law of words that write lanes. -/
theorem pairedWordResults : Obligations.PairedWordResults := by
  intro s e o h q w p
  exact lane_word_all h (e.exec_nodup false false 0) ((exec_pairedWord o s).trans (word_eq h _ _)) fun L =>
    pairLane_does o e L (slotLane_eq o.s0 e L) (slotLane_eq o.s1 e L)

end Sys2Proof.Machine
end

section
/-!
PROOF. Invalid targets (07 R161, 18 R444), traps and TRET (18 R458), the futures' words (15 R390 to R394), the control registers (18 R445) and
the other system words (18 R454, R458, R459; 16 R409).
-/
namespace Sys2Proof.Machine
open Sys2Proof

/-! ### Masks of lanes -/

theorem lanesMask_foldl (l : List Nat) (m : LaneMask) (L : Nat) (hL : L < 128) :
    (l.foldl (fun m t => m ||| (1#128 <<< t)) m).getLsbD L = (m.getLsbD L || decide (L ∈ l)) := by
  induction l generalizing m with
  | nil => simp
  | cons t l ih =>
    rw [List.foldl_cons, ih]
    have hbit : (1#128 <<< t).getLsbD L = decide (L = t) := by
      rw [BitVec.getLsbD_shiftLeft, BitVec.getLsbD_one]
      by_cases h : L = t
      · simp [h ▸ hL, h]
      · by_cases h' : L < t
        · simp [h', h]
        · simp [h, show ¬L - t = 0 by omega]
    rw [BitVec.getLsbD_or, hbit, Bool.or_assoc, ← Bool.decide_or]
    simp only [List.mem_cons]

/-- A lane is in the mask of a list where the list holds it. -/
theorem getLsbD_lanesMask (l : List Nat) {L : Nat} (hL : L < 128) : (lanesMask l).getLsbD L = decide (L ∈ l) := by
  rw [lanesMask, lanesMask_foldl l 0 L hL]; simp

theorem mem_maskLanes (m : LaneMask) (L : Nat) : L ∈ maskLanes m ↔ m.getLsbD L = true := by
  simp only [maskLanes, List.mem_filter, List.mem_range, and_iff_right_iff_imp]
  exact BitVec.lt_of_getLsbD

/-- The lanes of E are active. -/
theorem Env.mem_active_of_setE {e : Env} {o : OpF} {L : Nat} (h : L ∈ e.setE o) : L ∈ e.active := by
  unfold Env.setE Env.exec at h
  split at h
  · exact List.mem_of_mem_filter h
  · exact h

/-! ### Invalid targets (R161) -/

theorem targetOk_iff (a : Word64) : targetOk a = true ↔ a.toNat < 2 ^ 57 ∧ a.toNat % 8 = 0 := by
  simp only [targetOk, bits, Bool.and_eq_true, decide_eq_true_eq, Nat.shiftRight_eq_div_pow]
  have := a.isLt
  omega

/-- The lanes with an invalid target: the lowest of them decides the fault. -/
theorem goTo_invalid (e : Env) {E : List Nat} {target : Nat → Word64} (d : Delta) {L : Nat} {rest : List Nat}
    (h : (E.filter fun t => !targetOk (target t)) = L :: rest) :
    goTo e E target d = .fault e (targetCause (target L)) (target L) (lanesMask (L :: rest)) 0 {} := by
  simp only [goTo, h]

/-- Where every lane goes to the same invalid target, all of them fail. -/
theorem goTo_invalid_all (e : Env) {E : List Nat} {a : Word64} (d : Delta) (ha : targetOk a = false) (hE : E ≠ []) :
    goTo e E (fun _ => a) d = .fault e (targetCause a) a (lanesMask E) 0 {} := by
  obtain ⟨L, rest, rfl⟩ := List.exists_cons_of_ne_nil hE
  exact goTo_invalid e d (by simp [ha])

/-- The control writes of a run leave the level as it is. -/
@[simp] theorem CtlWrite.apply_level (g : Group) (c : CtlWrite) : (CtlWrite.apply g c).level = g.level := by
  cases c <;> simp only [CtlWrite.apply, Group.setBank] <;> (try split) <;> rfl
@[simp] theorem Group.withCtl_level (g : Group) (l : List CtlWrite) : (g.withCtl l).level = g.level := by
  unfold Group.withCtl
  induction l generalizing g with
  | nil => rfl
  | cons c l ih => rw [List.foldl_cons, ih, CtlWrite.apply_level]
@[simp] theorem Env.ctl_level (e : Env) : e.ctl.level = e.g.level := by
  simp only [Env.ctl, Round.ctl, Group.withCtl_level]
  split
  · exact Group.withCtl_level _ _
  · rfl

/-- The bank of the level. -/
theorem bank_level (g : Group) (l : BitVec 2) : g.bank l.toNat = if l = 2 then g.bank2 else g.bank1 := by
  unfold Group.bank
  exact if_congr ⟨fun h => BitVec.eq_of_toNat_eq h, fun h => by rw [h]; rfl⟩ rfl rfl

theorem resumePc_eq (e : Env) (skip : Bool) : resumePc e.ctl skip =
    (let b := if e.g.level = 2 then e.ctl.bank2 else e.ctl.bank1
     if b.tstate.getLsbD 7 then b.taddr else if skip then b.tpc + 8 else b.tpc) := by
  unfold resumePc
  rw [Env.ctl_level, bank_level]

/-- Settles O18: the law of an invalid target for each transfer; TRET checks its resume PC. -/
theorem invalidTargetsFault : Obligations.InvalidTargetsFault := by
  intro s e o k h cause there c b resume
  refine ⟨fun L rest hbad => ⟨?_, ?_⟩, fun hno hE => ⟨?_, ?_⟩, fun hno hE htaken => ?_, fun hlevel hno => ?_, targetOk_iff⟩
  · exact faults_at h (exec_brx o s) (goTo_invalid e _ hbad)
  · exact faults_at h (exec_ret o s) (goTo_invalid e _ hbad)
  · exact faults_at h (exec_bra k s) (goTo_invalid_all e _ hno hE)
  · exact faults_at h (exec_call k s) (goTo_invalid_all e _ hno hE)
  · have ht : bruTaken k e = true := by
      rw [bruTaken_eq]
      obtain h0 | ⟨h1, hc⟩ | ⟨h0, h1, hc⟩ := htaken
      · rw [if_pos h0]
      · rw [if_neg (by rw [h1]; decide), if_pos h1]; exact decide_eq_true hc
      · rw [if_neg h0, if_neg h1]; exact decide_eq_true hc
    refine faults_at h (exec_bru k s) (k := 0) ?_
    simp only [ht, if_true]
    exact goTo_invalid_all e _ hno hE
  · have hr : resumePc e.ctl (o.bit 0) = resume := resumePc_eq e (o.bit 0)
    refine faults_at h (exec_tret o s) (k := 0) ?_
    simp only [if_neg hlevel, hr, hno, Bool.not_false, if_true]
    rfl

/-! ### Traps (R458) -/

/-- The one law of a trap: the run ends before the word, the lanes of E stay, and the other active lanes go on. -/
theorem trap_word {s : State} {e : Env} (h : env? s = some e) {i : Instr} {c k : Nat} {a : Word64} {o : OpF} {l : List (Nat × Word64)}
    (hi : exec i s = .next (faultWord e c a (lanesMask (e.setE o)) k { pcs := some l })) (hk : k = 0) : TrapsIn s e i c a (e.setE o) := by
  obtain ⟨hs, hc, hg, -⟩ := env?_inv h
  unfold faultWord at hi
  subst hk
  refine ⟨_, _, hi, env?_close (by exact hs ▸ hc) (by exact hs ▸ hg), ?_, fun r hr => ?_, rfl, rfl, rfl, fun L hL => ?_⟩
  · rw [← hs]; rfl
  · rw [← hs]; exact State.setGroup_group?_other _ _ _ hr
  · have hlane := movePcs_lane e.g (e.r.active &&& ~~~lanesMask (e.setE o)) (e.r.at_ + 8) none hL
    refine Eq.trans hlane ?_
    have hmask : (e.r.active &&& ~~~lanesMask (e.setE o)).getLsbD L = true ↔ e.r.active.getLsbD L = true ∧ L ∉ e.setE o := by
      rw [BitVec.getLsbD_and, Bool.and_eq_true]
      refine and_congr_right fun hact => ?_
      have hlt := BitVec.lt_of_getLsbD hact
      rw [BitVec.getLsbD_not, getLsbD_lanesMask _ hlt]
      simp [hlt]
    by_cases hL' : e.r.active.getLsbD L = true ∧ L ∉ e.setE o
    · rw [if_pos (hmask.mpr hL'), if_pos hL']; rfl
    · rw [if_neg (fun hm => hL' (hmask.mp hm)), if_neg hL']; rfl

theorem trapWord_traps {e : Env} {o : OpF} {c : Nat} (hE : e.setE o ≠ []) :
    trapWord e o c = .fault e c (o.m.zeroExtend 64) (lanesMask (e.setE o)) 0 { pcs := some [] } :=
  if_neg (by rwa [List.isEmpty_iff])
theorem trapWord_idle {e : Env} {o : OpF} {c : Nat} (hE : e.setE o = []) : trapWord e o c = .retire e {} :=
  if_pos (by rwa [List.isEmpty_iff])

/-- TRET with a valid resume PC sends every active lane there, and notes it. -/
theorem tret_word {s : State} {e : Env} (h : env? s = some e) {o : OpF} {pc : Word64}
    (hi : exec (.tret o) s = .next (retire o.rb { e with r := { e.r with tret := some pc } } { pcs := some (e.active.map fun t => (t, pc)) })) :
    ∃ t e', exec (.tret o) s = .next t ∧ Retires s t { e with r := { e.r with tret := some pc } } e' o.rb ∧ KeepsLanes e e' ∧ KeepsS e e' ∧
      KeepsBoundary e e' ∧ ∀ L, L < e.g.lanes.length → (e'.th L).pc = if e.r.active.getLsbD L then pc else (e.th L).pc := by
  obtain ⟨hs, hc, hg, -⟩ := env?_inv h
  have key := retire_spec (e := { e with r := { e.r with tret := some pc } }) (g0 := e.g) o.rb
    { pcs := some (e.active.map fun t => (t, pc)) } (by exact hs ▸ hc) (by exact hs ▸ hg)
  obtain ⟨e', hret, hth, hS, hW, hdef, heff, hctl, hpause, hexit, htf, -⟩ := key
  have hlane : ∀ L, L < e.g.lanes.length →
      e'.th L = { e.th L with pc := if e.r.active.getLsbD L then pc else (e.th L).pc } := by
    intro L hL
    rw [hth L hL]
    simp only [afterWord, onLane, List.foldl_nil, Option.getD_some, find?_target e.active (fun _ => pc)]
    by_cases hact : e.r.active.getLsbD L = true
    · simp only [hact, if_true, if_pos ((e.mem_active L).2 hact)]; rfl
    · simp only [hact, if_false, Bool.false_eq_true]; rfl
  refine ⟨_, e', hi, hs ▸ hret, fun L => ?_, ⟨by simpa using hS, by simpa using hW⟩,
    ⟨by simpa using hdef, by simpa using heff, by simpa using hctl, by simpa using hpause, by simpa using hexit, by simpa using htf⟩,
    fun L hL => by rw [hlane L hL]⟩
  by_cases hL : L < e.g.lanes.length
  · rw [hlane L hL]; exact ⟨rfl, rfl, rfl, rfl, rfl, rfl⟩
  · have before : e.th L = {} := Group.lane_of_ge _ (Nat.le_of_not_lt hL)
    have after : e'.th L = {} := Group.lane_of_ge _ (by rw [hret.count]; exact Nat.le_of_not_lt hL)
    rw [before, after]; exact ⟨rfl, rfl, rfl, rfl, rfl, rfl⟩

/-- Settles O35: TRAP and BRKPT by the law of a trap, TRET by that of a return, and the two ILLEGAL cases. -/
theorem trapWords : Obligations.TrapWords := by
  intro s e o h resume
  have hbrk : e.r.be = true → exec (.brkpt o) s = word o.rb s fun e => if e.r.be then trapWord e o 20 else .retire e {} := fun _ => rfl
  refine ⟨fun hE => ?_, fun hE => ⟨?_, ?_⟩, fun hbe hE => ?_, fun hbe => ?_, fun hlevel hok => ?_, fun hlevel => ?_, fun hlevel => ?_⟩
  · exact trap_word h (word_faults h (exec_trap o s) (trapWord_traps hE)) rfl
  · exact idle_word h _ (word_retires h (exec_trap o s) (trapWord_idle hE))
  · refine idle_word h _ (word_retires h (exec_brkpt o s) ?_)
    split
    · exact trapWord_idle hE
    · rfl
  · exact trap_word h (word_faults h (exec_brkpt o s) (by rw [if_pos hbe]; exact trapWord_traps hE)) rfl
  · exact idle_word h _ (word_retires h (exec_brkpt o s) (if_neg (by rw [hbe]; decide)))
  · have hr : resumePc e.ctl (o.bit 0) = resume := resumePc_eq e (o.bit 0)
    refine tret_word h (word_retires h (exec_tret o s) ?_)
    simp only [if_neg hlevel, hr, hok, Bool.not_true, Bool.false_eq_true, if_false]
  · exact faults_at h (exec_exit o s) (if_pos hlevel)
  · exact faults_at h (exec_tret o s) (if_pos hlevel)

/-! ### Futures (R390 to R394) -/

/-- Settles O31: each word by the law of its shape. -/
theorem futureWords : Obligations.FutureWords := by
  intro s e o h x st
  have hs : e.s = s := (env?_inv h).1
  refine ⟨?_, fun hd => idle_word h _ (word_retires h (exec_fmov o s) (by simp only [if_pos hd])), fun hd => ?_,
    defers_word h _ _ (word_retires h (exec_fwait o s) rfl), boundary_word_same h (exec_fcancel o s) rfl,
    defers_word h _ _ (word_retires h (exec_fstat o s) rfl)⟩
  · have hb : decide (bits (e.statusOf (e.us o.a).w) 0 3 ≠ 0) = decide (st.toNat % 8 ≠ 0) := by
      simp only [bits, Nat.shiftRight_zero, Env.statusOf, hs]
      rfl
    refine predicate_word h (e.exec_nodup false false 0) (word_retires h (exec_ftest o s) rfl) (fun _ => rfl) fun L => ?_
    rw [hb]
    exact ⟨rfl, rfl, rfl, rfl, rfl, Bool.and_true _, rfl, fun _ => rfl⟩
  · refine uniform_word h _ _ (word_retires h (exec_fmov o s) rfl) _ fun n => ?_
    simp only [if_neg hd, List.foldl_cons, List.foldl_nil, Table.get_set, Env.scell, mkS]
    split <;> rfl

/-! ### Control registers (R445) -/

theorem csrBank_eq (g : Group) (k : Nat) (hk : k < 4) (h3 : k ≠ 3) (hl : g.level ≠ 3) : crBank g k =
    if k = 1 ∨ (k = 0 ∧ g.level = 1) then g.bank1 else if k = 2 ∨ (k = 0 ∧ g.level = 2) then g.bank2 else {} := by
  have hlevel : g.level = 0 ∨ g.level = 1 ∨ g.level = 2 := by
    generalize g.level = l at hl
    revert l; decide
  obtain rfl | rfl | rfl : k = 0 ∨ k = 1 ∨ k = 2 := by omega
  · obtain h | h | h := hlevel <;> simp [crBank, h, Group.bank]
  · simp [crBank, Group.bank]
  · simp [crBank, Group.bank]

/-- CSRR writes what the register that it names holds. -/
theorem csrr_word {s : State} {e : Env} (h : env? s = some e) (o : OpF) {c : Word64} {t : Bool}
    (hc : e.csr (o.field 0 12) (o.field 12 2) = c) (ht : csrTimed (o.field 0 12) = t) : UniformWord s e (.csrr o) (uniform e o.d c t) :=
  putS_word h (by rw [← hc, ← ht]; exact word_retires h (exec_csrr o s) rfl)

/-- CSRW leaves what the write of its register does. -/
theorem csrw_ctl {s : State} {e : Env} (h : env? s = some e) (o : OpF) {l : List CtlWrite}
    (hl : csrWrite e.g.level (o.field 0 12) (o.field 12 2) (e.us o.a).w = l) : CtlWord s e (.csrw o) l :=
  ctl_word h (by rw [← hl]; exact word_retires h (exec_csrw o s) rfl)
theorem csrw_idle {s : State} {e : Env} (h : env? s = some e) (o : OpF)
    (hl : csrWrite e.g.level (o.field 0 12) (o.field 12 2) (e.us o.a).w = []) : IdleWord s e (.csrw o) :=
  idle_word h _ (by rw [word_retires h (exec_csrw o s) rfl, hl])

theorem csrWrite_none {level : BitVec 2} {n k : Nat} {v : Word64} (h1 : n ≠ 1) (h2 : n ≠ 2) (h3 : n ≠ 0x20) :
    csrWrite level n k v = [] := by
  unfold csrWrite
  split
  · exact absurd rfl h1
  · exact absurd rfl h2
  · exact absurd rfl h3
  · rfl

/-- A write of a bank at or below the level, and one of no bank or of a bank above it. -/
theorem csrWrite_tpc {level : BitVec 2} {k : Nat} {v : Word64} (h0 : 1 ≤ k) (hl : k ≤ level.toNat) :
    csrWrite level 1 k v = [.tpc k (v &&& 0x01FFFFFFFFFFFFF8#64)] ∧ csrWrite level 2 k v = [.taddr k v] := by
  simp [csrWrite, hl, Nat.one_le_iff_ne_zero.mp h0]
theorem csrWrite_closed {level : BitVec 2} {k : Nat} {v : Word64} (h : k = 0 ∨ level.toNat < k) :
    csrWrite level 1 k v = [] ∧ csrWrite level 2 k v = [] := by
  have : ¬(k ≠ 0 ∧ k ≤ level.toNat) := by omega
  simp only [csrWrite, ← Bool.decide_and, decide_eq_true_eq, if_neg this, and_self]

/-- Settles O36: CSRR register by register, CSRW by what its write does. -/
theorem controlRegisterWords : Obligations.ControlRegisterWords := by
  intro s e o h n k v b reads
  have hs : e.s = s := (env?_inv h).1
  have hreads (m : Nat) (hn : n = m) {c : Word64} {t : Bool} (hc : e.csr m k = c) (ht : csrTimed m = t) : reads c t :=
    csrr_word h o (by rw [show o.field 0 12 = m from hn]; exact hc) (by rw [show o.field 0 12 = m from hn]; exact ht)
  refine ⟨fun hk hl => ?_, fun hn => hreads _ hn rfl rfl, fun hn => hreads _ hn rfl rfl, fun hn => hreads _ hn rfl rfl,
    fun hn => hreads _ hn rfl rfl, fun hn => hreads _ hn rfl rfl, fun x hx => ?_, fun hn => hreads _ hn rfl rfl,
    fun hn => hreads _ hn rfl rfl, fun h1 hl => ⟨fun hn => ?_, fun hn => ?_⟩, fun hn => ?_, fun h1 h2 h3 => ?_, fun hk hn => ?_,
    fun g => ⟨rfl, rfl, rfl, rfl, rfl, rfl⟩⟩
  · have hbank : crBank e.ctl k = b := by
      rw [csrBank_eq e.ctl k (Nat.mod_lt _ (by decide)) hk (by rwa [Env.ctl_level]), Env.ctl_level]
    exact ⟨fun hn => hreads _ hn (congrArg Bank.tpc hbank) rfl, fun hn => hreads _ hn (congrArg Bank.taddr hbank) rfl,
      fun hn => hreads _ hn (congrArg (·.tcause.zeroExtend 64) hbank) rfl, fun hn => hreads _ hn (congrArg (·.tstate.zeroExtend 64) hbank) rfl,
      fun hn => hreads _ hn (congrArg (·.tlanes.extractLsb' 0 64) hbank) rfl,
      fun hn => hreads _ hn (congrArg (·.tlanes.extractLsb' 64 64) hbank) rfl⟩
  · have hgrid : (e.s.grid? e.g.ref.grid).getD { id := 0, slot := 0, asid := 0, pkt := 0 } = x := by rw [hs, hx]; rfl
    exact ⟨fun hn => hreads _ hn (congrArg (fun y : Grid => crSaveArea e.ctx y.slot e.team.frame e.g.ref.group) hgrid) rfl,
      fun hn => hreads _ hn (congrArg (fun y : Grid => crBfSave e.ctx y.slot e.team.frame (if e.team.quad then e.g.core % 4 else 0)) hgrid) rfl,
      fun hn => hreads _ hn (congrArg (fun y : Grid => BitVec.ofNat 64 (y.id.toNat + y.slot * 2 ^ 32 + y.asid * 2 ^ 40)) hgrid) rfl⟩
  · exact csrw_ctl h o (by rw [show o.field 0 12 = 1 from hn]; exact (csrWrite_tpc h1 hl).1)
  · exact csrw_ctl h o (by rw [show o.field 0 12 = 2 from hn]; exact (csrWrite_tpc h1 hl).2)
  · exact csrw_ctl h o (by rw [show o.field 0 12 = 0x20 from hn]; rfl)
  · exact csrw_idle h o (csrWrite_none h1 h2 h3)
  · obtain hn | hn := hn
    · exact csrw_idle h o (by rw [show o.field 0 12 = 1 from hn]; exact (csrWrite_closed hk).1)
    · exact csrw_idle h o (by rw [show o.field 0 12 = 2 from hn]; exact (csrWrite_closed hk).2)

/-! ### The other system words (R454, R458, R459, R409) -/

/-- FLAGR: a word that writes the sticky flags of the lanes of E, and V registers. -/
theorem flagr_word {s : State} {e : Env} (h : env? s = some e) {o : OpF} {g : Env → Nat → LaneWrite} {w : Nat → LaneWrite}
    {val : Nat → Nat → Option VCell} {f : Nat → BitVec 6} (hg : exec (.flagr o) s = laneFixed o g s) (hgw : ∀ L, g e L = w L)
    (hw : ∀ L, w L = { lane := L, v := (w L).v, flags := (w L).flags }) (hf : ∀ L, ((w L).flags.getD (e.th L).flags) = f L)
    (hv : ∀ L n, ((e.th L).apply (w L)).vreg n = (val L n).getD ((e.th L).vreg n)) :
    ∃ t e', exec (.flagr o) s = .next t ∧ Retires s t e e' o.rb ∧ WritesV e e' (e.setE o) val ∧ KeepsX e e' ∧ KeepsP e e' ∧ KeepsC e e' ∧
      NextPcs e e' ∧ KeepsS e e' ∧ KeepsBoundary e e' ∧
      ∀ L, L < e.g.lanes.length → (e'.th L).flags = if L ∈ e.setE o then f L else (e.th L).flags := by
  obtain rfl : g e = w := funext hgw
  obtain ⟨t, e', hex, hret, hth, hpc, hs, hb, -⟩ :=
    lanes_word h (.flagr o) _ (e.setE_nodup o) (g e) (fun L => by rw [hw L]) (hg.trans (laneFixed_eq h o g))
  refine ⟨t, e', hex, hret, fun L hL n => ?_, fun L hL => ?_, fun L hL => ?_, fun L hL => ?_, hpc, hs, hb, fun L hL => ?_⟩ <;> rw [hth L hL]
  case refine_1 =>
    by_cases hE : L ∈ e.setE o
    · simp only [hE, if_true]; split <;> exact hv L n
    · simp only [hE, if_false]; split <;> rfl
  all_goals
    by_cases hE : L ∈ e.setE o
    · simp only [hE, if_true]
      rw [hw L]
      split <;> simp [Thread.apply, hf L]
    · simp only [hE, if_false]; split <;> first | rfl | exact ⟨rfl, rfl⟩

theorem tlbq_word {s : State} {e : Env} (h : env? s = some e) {o : OpF} {w : Word64} (hw : e.tlbq (e.us o.a).w = w)
    (hopen : s.linesOpen e.ctx.asid (pkClass e.pkt) (s.xlatReads e.g.core e.ctx (e.us o.a).w) = true) :
    BoundaryWord s (e.walked (s.xlatReads e.g.core e.ctx (e.us o.a).w)) (.tlbq o)
      [.ready [] [(o.d.toNat, mkS w (e.ut (e.us o.a).t))]] [] := by
  obtain rfl := (env?_inv h).1
  refine boundary_word ((live_of_env? h).charged (State.chargeLines_eq ..)) (word_retires h (exec_tlbq o _) ?_)
  simp only [hopen, Bool.not_true, Bool.false_eq_true, if_false, hw]
  rfl

/-- TLBQ at a page that is still to be zeroed answers with its entry. -/
theorem tlbq_zeroing {e : Env} {va : Word64} {l : Leaf} (hl : e.s.leafAt e.g.core e.ctx va = .zero) (hw : e.s.walk e.ctx va = some l) :
    e.tlbq va = tlbqWord l.pte (ptePa l.pte + va.toNat % 2 ^ pageBits (if l.size = 1 then 0 else l.size)) l.size := by
  rw [Env.tlbq, hl]
  simp only [hw, bits, Nat.shiftRight_zero]

/-- Settles O37: each word by the law of its shape. -/
theorem otherSystemWords : Obligations.OtherSystemWords := by
  intro s e o h E a walk tlbq answer flags read
  have hs : e.s = s := (env?_inv h).1
  have hsetE := e.setE_nodup o
  refine ⟨boundary_word_same h (exec_kill o s) rfl, fun hm => ?_, fun hm => ?_, fun hm => ?_, ?_, fun hb => ?_, fun hb => ?_,
    fun hl => ?_, fun pa pte size hl => ?_, fun l hl hw => ?_⟩
  · exact flagr_word h (exec_flagr o s) (fun L => by simp only [hm]; rfl) (fun _ => rfl) (fun _ => rfl) fun L => apply_put32 e L o.d _
  · exact flagr_word (w := fun L => { e.put32 L o.d { w := (e.th L).flags.zeroExtend 32 } with flags := some 0 }) h (exec_flagr o s)
      (fun L => by simp only [hm]) (fun _ => rfl) (fun _ => rfl) fun L => apply_put32 e L o.d _
  · refine flagr_word (w := fun L => { lane := L, flags := some ((e.v32 L o.a).w.extractLsb' 0 6) }) h (exec_flagr o s) (fun L => ?_)
      (fun _ => rfl) (fun _ => rfl) fun L n => rfl
    split
    · omega
    · omega
    · rfl
  · exact putS_word h (word_retires h (exec_clock o s) (by rw [hs]; rfl))
  · exact putS_word h (word_retires h (exec_digest o s) (if_pos hb))
  · exact put_word h hsetE (word_retires h (exec_digest o s) (if_neg (by rw [hb]; decide))) fun L => .inr ⟨o.d, _, rfl, fun _ => rfl⟩
  · exact fun hopen => tlbq_word h (by rw [Env.tlbq, hs, hl]) hopen
  · exact fun hopen => tlbq_word h (by rw [Env.tlbq, hs, hl]; rfl) hopen
  · exact fun hopen => tlbq_word h (tlbq_zeroing (hs ▸ hl) (hs ▸ hw)) hopen

end Sys2Proof.Machine
end

section
/-!
PROOF. EXIT and the hints (07 R162 to R164): a refutation by the check of an exit at a lane number past the last; the ordering words (14 R364 to
R366, 07 R178 to R185) and what TFENCE does at the end of a round (18 R449, R450).
-/
namespace Sys2Proof.Machine
open Sys2Proof

/-! ### A smallest machine with a word in execution -/

def soleRun : Run := { begun := 0, at_ := 0, active := 0, s := [], last := 0 }
def soleRound : Round := { startS := [], start := [], begun := 0, a := some soleRun, b := none }
def soleGroup : Group := { ref := { grid := 0, team := 0, group := 0 }, role := 0, lanes := [], round := some soleRound }
def soleState : State := { State.reset with groups := [soleGroup], cur := some (soleGroup.ref, .a) }

theorem soleState_env : ∃ e, env? soleState = some e := ⟨_, rfl⟩

/-! ### EXIT at the end of the round (R449) -/

/-- A lone run that ended with an EXIT of lane 128, which no mask of 128 lanes can name. -/
def exitRun128 : Run := { soleRun with exit := some (0, 0, [128]) }
/-- Lane 128 holds the flag NX. -/
def lanes129 : Group := { soleGroup with lanes := List.replicate 128 {} ++ [{ flags := fNX }] }

/-- The mask of its failing lanes is empty, so the check finds none and takes no fault. -/
theorem exit128_noFault : (endChecks fNX lanes129 { soleRound with a := some exitRun128 }).fault = none := rfl
theorem exit128_fails : ([128].filter fun L => (lanes129.lane L).flags &&& fNX ≠ 0) ≠ [] := by decide +kernel

/-- Refutes O19: at the end of the round of a lone run the statement asks for ARITH in the lanes of E that hold an enabled flag, for every
list of lanes; for an EXIT of lane 128 alone the mask of the failing lanes is empty, and the model takes no fault. -/
theorem not_exitAndHints : ¬ Obligations.ExitAndHints := by
  intro h
  obtain ⟨e, he⟩ := soleState_env
  obtain ⟨-, -, -, -, -, -, -, -, -, -, hround⟩ := h soleState e default default he
  obtain ⟨-, hfault, -⟩ := (hround fNX lanes129 { soleRound with a := some exitRun128 } exitRun128 0 0 [128] rfl rfl rfl rfl rfl rfl rfl
    rfl).1 exit128_fails
  rw [exit128_noFault] at hfault
  cases hfault

/-! ### TFENCE and the flag record at the end of a round (R449, R450) -/

/-- The least element by a key is in the list, and no other has a lesser key. -/
theorem argMin_spec {α : Type} (key : α → Nat) (l : List α) (hl : l ≠ []) : ∃ x ∈ l, argMin key l = some x ∧ ∀ y ∈ l, key x ≤ key y := by
  induction l with
  | nil => exact absurd rfl hl
  | cons x rest ih =>
    by_cases hr : rest = []
    · subst hr; exact ⟨x, by simp, rfl, by simp⟩
    · obtain ⟨y, hy, hmin, hle⟩ := ih hr
      simp only [argMin, hmin]
      by_cases hxy : key x ≤ key y
      · refine ⟨x, by simp, by rw [if_pos hxy], fun z hz => ?_⟩
        obtain rfl | hz := List.mem_cons.mp hz
        · exact Nat.le_refl _
        · exact Nat.le_trans hxy (hle z hz)
      · refine ⟨y, by simp [hy], by rw [if_neg hxy], fun z hz => ?_⟩
        obtain rfl | hz := List.mem_cons.mp hz
        · omega
        · exact hle z hz

/-- Noting raised flags changes the flag record and the list of raised flags alone. -/
theorem noteRaised_keeps (g : Group) (begun : Nat) (p : Raised → Bool) : g.noteRaised begun p =
    { g with raised := g.raised.filter fun r => !p r, flagV := (g.noteRaised begun p).flagV, flagPc := (g.noteRaised begun p).flagPc,
             flagLane := (g.noteRaised begun p).flagLane, flagAt := (g.noteRaised begun p).flagAt } := by
  unfold Group.noteRaised
  split
  · rfl
  · dsimp only; split <;> rfl

theorem noteRaised_lane (g : Group) (begun : Nat) (p : Raised → Bool) (L : Nat) : (g.noteRaised begun p).lane L = g.lane L := by
  rw [noteRaised_keeps]; rfl

theorem noteRaised_none (g : Group) (begun : Nat) {p : Raised → Bool} (h : g.raised.filter p = []) :
    g.noteRaised begun p = { g with raised := g.raised.filter fun r => !p r } := by
  simp only [Group.noteRaised, h, argMin]

/-- An age changes nothing else of a lane. -/
theorem ageStep_lane (rd : Round) (g : Group) (L : Nat) : ∃ a, (ageStep rd g).lane L = { g.lane L with age := a } := by
  unfold ageStep
  rw [Group.mapLanes_lane]
  split
  · split
    · exact ⟨0, rfl⟩
    · split
      · exact ⟨_, rfl⟩
      · exact ⟨_, rfl⟩
  · case isFalse h => exact ⟨0, by rw [Group.lane_of_ge g (Nat.le_of_not_lt h)]⟩

/-- The flags raised up to the TFENCE of a run are noted before its check (R450). -/
def notedUpTo (rd : Round) (r : Run) (g : Group) : Group :=
  match r.tfence with
  | some (_, pos) => g.noteRaised rd.begun fun x => x.b == .a && decide (x.pos ≤ pos)
  | none => g

theorem endRun_a (en : BitVec 6) (g : Group) {rd : Round} {r : Run} (ha : rd.a = some r) (hexit : r.exit = none) (hfault : r.fault = none) :
    endRun en rd .a g =
      (((tfenceStep en (notedUpTo rd r g) .a r).1.noteRaised rd.begun fun x => x.b == .a), (tfenceStep en (notedUpTo rd r g) .a r).2, none) := by
  simp only [endRun, Round.run?, ha, exitStep, hexit, hfault, notedUpTo] <;> rfl

theorem endRun_b (en : BitVec 6) (g : Group) {rd : Round} (hb : rd.b = none) : endRun en rd .b g = (g, none, none) := by
  simp only [endRun, Round.run?, hb]

/-- What is left of a round of stream A alone, once its flags are noted, with the trap that its TFENCE takes. -/
def loneEnd (rd : Round) (r : Run) (noted : Group) (trap : Option FaultInfo) : RoundEnd :=
  let aged := ageStep rd noted
  let clean : Group := { aged with round := none, raised := [], afters := [], answers := [] }
  { g := clean, fault := none
    trap := trap.or ((argMin (fun (f : FaultInfo) => (if f.stream then 64 else 0) + f.pos) aged.afters).or (debugTrap clean r)) }

/-- The end of a round that ran stream A alone, with no EXIT, no fault and no TRET. -/
theorem endChecks_lone {en : BitVec 6} {g : Group} {rd : Round} {r : Run} (ha : rd.a = some r) (hb : rd.b = none) (hexit : r.exit = none)
    (hfault : r.fault = none) (htret : r.tret = none) {g1 : Group} {trap : Option FaultInfo}
    (ht : tfenceStep en (notedUpTo rd r g) .a r = (g1, trap)) :
    endChecks en g rd = loneEnd rd r (g1.noteRaised rd.begun fun x => x.b == .a) trap := by
  simp only [endChecks, endRun_a en g ha hexit hfault, endRun_b _ _ hb, ha, hb, htret, Option.bind_some, Option.bind_none, Option.or_none, ht]
  rfl

theorem notedUpTo_lane (rd : Round) (r : Run) (g : Group) (L : Nat) : (notedUpTo rd r g).lane L = g.lane L := by
  unfold notedUpTo
  split
  · exact noteRaised_lane _ _ _ _
  · rfl
theorem notedUpTo_afters (rd : Round) (r : Run) (g : Group) : (notedUpTo rd r g).afters = g.afters := by
  unfold notedUpTo
  split
  · rw [noteRaised_keeps]
  · rfl

/-! ### The check of TFENCE (R449) -/

/-- The active lanes of a run that hold an enabled flag. -/
def flagged (en : BitVec 6) (g : Group) (m : LaneMask) : List Nat := (maskLanes m).filter fun L => (g.lane L).flags &&& en ≠ 0
/-- The union of their enabled flags. -/
def flagUnion (en : BitVec 6) (g : Group) (l : List Nat) : BitVec 6 := l.foldl (fun f L => f ||| ((g.lane L).flags &&& en)) 0

theorem flagCheck_eq (en : BitVec 6) {g g1 : Group} (h : ∀ L, g1.lane L = g.lane L) (m : LaneMask) :
    flagCheck en g1 (maskLanes m) = (lanesMask (flagged en g m), flagUnion en g (flagged en g m)) := by
  simp only [flagCheck, flagged, flagUnion, h, bne_eq_decide]

theorem maskLanes_lanesMask (m : LaneMask) (q : Nat → Bool) : maskLanes (lanesMask ((maskLanes m).filter q)) = (maskLanes m).filter q := by
  conv_lhs => unfold maskLanes
  rw [maskLanes, List.filter_filter]
  refine List.filter_congr fun L hL => ?_
  rw [getLsbD_lanesMask _ (List.mem_range.mp hL)]
  simp only [List.mem_filter, hL, true_and, Bool.decide_eq_true]

theorem lanesMask_eq_zero {m : LaneMask} {q : Nat → Bool} : lanesMask ((maskLanes m).filter q) = 0 ↔ (maskLanes m).filter q = [] := by
  refine ⟨fun h => ?_, fun h => by rw [h]; rfl⟩
  rw [← maskLanes_lanesMask, h]
  rfl

theorem tfenceStep_none (en : BitVec 6) (g : Group) (b : Stream) {r : Run} (h : r.tfence = none) : tfenceStep en g b r = (g, none) := by
  simp only [tfenceStep, h]
theorem tfenceStep_clean {en : BitVec 6} {g g1 : Group} (hg : ∀ L, g1.lane L = g.lane L) (b : Stream) {r : Run} {pc : Word64} {pos : Nat}
    (h : r.tfence = some (pc, pos)) (hbad : flagged en g r.active = []) : tfenceStep en g1 b r = (g1.clearFlagRecord, none) := by
  simp only [tfenceStep, h, flagCheck_eq en hg, hbad]
  rfl
theorem tfenceStep_traps {en : BitVec 6} {g g1 : Group} (hg : ∀ L, g1.lane L = g.lane L) {r : Run} {pc : Word64} {pos : Nat}
    (h : r.tfence = some (pc, pos)) (hbad : flagged en g r.active ≠ []) : tfenceStep en g1 .a r = (g1, some
      { cause := 16, pc := pc, addr := 0, lanes := lanesMask (flagged en g r.active), pos := pos, stream := false,
        flags := flagUnion en g (flagged en g r.active), after := true }) := by
  have hz : lanesMask (flagged en g r.active) ≠ 0 := mt lanesMask_eq_zero.mp hbad
  simp only [tfenceStep, h, flagCheck_eq en hg, if_neg hz]
  rfl

/-! ### The resume PC of an after-run trap (R443) -/

theorem and_flagUnion (en : BitVec 6) (g : Group) (l : List Nat) :
    (l.foldl (fun x t => x ||| (g.lane t).flags) 0) &&& flagUnion en g l = flagUnion en g l := by
  suffices ∀ a b : BitVec 6, a &&& b = b → (l.foldl (fun x t => x ||| (g.lane t).flags) a) &&&
      l.foldl (fun f L => f ||| ((g.lane L).flags &&& en)) b = l.foldl (fun f L => f ||| ((g.lane L).flags &&& en)) b from this 0 0 rfl
  induction l with
  | nil => exact fun a b h => h
  | cons t l ih =>
    intro a b h
    rw [List.foldl_cons, List.foldl_cons]
    refine ih _ _ ?_
    generalize (g.lane t).flags = x
    rw [← h]
    ext i
    simp only [BitVec.getElem_and, BitVec.getElem_or]
    cases a[i] <;> cases b[i] <;> cases x[i] <;> cases en[i] <;> rfl

/-- Where the lanes of an after-run trap of ARITH all live and stand at one place, they all enter there. -/
theorem afterTrap_together {en : BitVec 6} {g : Group} {f : FaultInfo} {m : LaneMask} {p : Word64} (hne : flagged en g m ≠ [])
    (hlanes : f.lanes = lanesMask (flagged en g m)) (hcause : f.cause = 16) (hflags : f.flags = flagUnion en g (flagged en g m))
    (hafter : f.after = true) (hp : ∀ L ∈ flagged en g m, (g.lane L).st = .live ∧ (g.lane L).pc = p) :
    afterTrap g f = some { f with addr := p, pos := 0 } := by
  have hlive : ((maskLanes f.lanes).filter fun t => (g.lane t).live) = flagged en g m := by
    rw [hlanes, flagged, maskLanes_lanesMask]
    exact List.filter_eq_self.mpr fun L hL => by simp [Thread.live, (hp L hL).1]
  have hpcs : (flagged en g m).map (fun t => (g.lane t).pc.toNat) = (flagged en g m).map fun _ => p.toNat :=
    List.map_congr_left fun L hL => by rw [(hp L hL).2]
  obtain ⟨x, hx, hmin, -⟩ := argMin_spec id ((flagged en g m).map fun _ => p.toNat) (by simpa using hne)
  obtain ⟨-, -, rfl⟩ := List.mem_map.mp hx
  have hhere : ((flagged en g m).filter fun t => decide ((g.lane t).pc.toNat = p.toNat)) = flagged en g m :=
    List.filter_eq_self.mpr fun L hL => by simp [(hp L hL).2]
  simp only [afterTrap, hlive, hpcs, hmin, Option.map_some, hhere, if_pos hcause, hflags, and_flagUnion]
  rw [← hlanes, ← hflags, ← hafter, BitVec.ofNat_toNat, BitVec.setWidth_eq]

/-! ### The flag record without a check (R450) -/

/-- Of the flags raised in stream A, that of the first word, and of its lowest lane, is recorded, where nothing is. -/
theorem noteRaised_first {g : Group} {begun : Nat} (hv : g.flagV = false) (hr : g.raised ≠ []) (hall : ∀ y ∈ g.raised, y.b = .a ∧ y.lane < 128) :
    ∃ y ∈ g.raised, (g.noteRaised begun fun x => x.b == .a).flagV = true ∧ (g.noteRaised begun fun x => x.b == .a).flagPc = y.pc ∧
      (g.noteRaised begun fun x => x.b == .a).flagLane = BitVec.ofNat 7 y.lane ∧
      ∀ w ∈ g.raised, y.pos < w.pos ∨ (y.pos = w.pos ∧ y.lane ≤ w.lane) := by
  have hfilter : (g.raised.filter fun x => x.b == .a) = g.raised := List.filter_eq_self.mpr fun y hy => by rw [(hall y hy).1]; rfl
  obtain ⟨y, hy, hmin, hle⟩ := argMin_spec (fun (r : Raised) => flagKey 0 r.b r.pos * 128 + r.lane) g.raised hr
  have hnote : g.noteRaised begun (fun x => x.b == .a) =
      { g with raised := g.raised.filter fun r => !(r.b == .a), flagV := true, flagPc := y.pc, flagLane := BitVec.ofNat 7 y.lane
               flagAt := flagKey begun y.b y.pos } := by
    simp only [Group.noteRaised, hfilter, hmin, hv, Bool.false_and, Bool.false_eq_true, if_false]
  refine ⟨y, hy, by rw [hnote], by rw [hnote], by rw [hnote], fun w hw => ?_⟩
  have hyw := hle w hw
  obtain ⟨hya, hyl⟩ := hall y hy
  obtain ⟨hwa, hwl⟩ := hall w hw
  simp only [flagKey, hya, hwa, Nat.mul_zero, reduceCtorEq, if_false, Nat.zero_add] at hyw
  omega

/-- A record that an earlier word made stands. -/
theorem noteRaised_stands {g : Group} {begun : Nat} (p : Raised → Bool) (hv : g.flagV = true) (hat : g.flagAt ≤ 64 * begun) :
    g.noteRaised begun p = { g with raised := g.raised.filter fun r => !p r } := by
  unfold Group.noteRaised
  split
  · rfl
  · next r _ =>
    have : g.flagAt ≤ flagKey begun r.b r.pos := by unfold flagKey; omega
    simp only [hv, Bool.true_and, decide_eq_true this, if_true]

/-! ### The ordering words (14 R364 to R366, 07 R178 to R185) -/

theorem barrierOf_eq (o : OpF) : barrierOf o = if o.low2 = 0 then .team else if o.low2 = 1 then .role (o.field 2 2) else .grid := by
  unfold barrierOf
  split
  case h_3 h0 h1 => rw [if_neg h0, if_neg h1]
  all_goals simp only [*]; rfl

/-- A word that is one boundary effect. -/
theorem effect_word {s : State} {e : Env} (h : env? s = some e) {i : Instr} {o : OpF} {f : Effect} (hi : exec i s = effectWord o f s)
    (hrb : rbOf i = o.rb) : BoundaryWord s e i [] [f] :=
  boundary_word_same h (by rw [hi, hrb, effectWord]) rfl

/-- The effect of a word that blocks the lanes of E. -/
theorem block_word {s : State} {e : Env} (h : env? s = some e) {i : Instr} {f : Env → WordOut} {o : OpF} {w : Wait}
    (hi : exec i s = word (rbOf i) s f) (hf : f e = blockWord e o w) :
    BoundaryWord s e i [] (if (e.setE o).isEmpty then [] else [.block (e.r.pos + 1) w (e.setE o)]) :=
  boundary_word_same h hi hf

/-- CNTWAIT of a counter that can be read leaves its wait (R185). -/
theorem cntwait_word {s : State} {e : Env} (h : env? s = some e) {o : OpF} {v : Word64} (hE : e.setE o ≠ [])
    (ha : (e.us o.a).w.toNat % 8 = 0) (hb : e.behindA = false) (hv : s.readCounter e.g.core e.ctx (e.us o.a).w = .val v)
    (hw : s.vaWaits e.g.core e.ctx (pkClass e.pkt) .read (e.us o.a).w 8 = none) :
    BoundaryWord s { e with s := s.chargeVa e.g.core e.ctx (pkClass e.pkt) (e.us o.a).w } (.cntwait o)
      [.wait (.cnt (e.us o.a).w (e.us o.b).w e.r.at_) ((e.setE o).map fun L => (L, false))] [] := by
  obtain rfl := (env?_inv h).1
  refine boundary_word ((live_of_env? h).charged (State.chargeVa_eq ..)) (word_retires h (exec_cntwait o _) ?_)
  simp only [List.isEmpty_iff, if_neg hE, ha, hb, hv, hw, ne_eq, not_true_eq_false, Bool.false_eq_true, if_false]
  rfl

/-- Settles O29: each word by the law of its shape, and the checks of the round's end by those of a lone run. -/
theorem orderingWords : Obligations.OrderingWords := by
  intro s e o h E b a
  refine ⟨effect_word h (exec_phase o s) rfl, effect_word h (exec_fence o s) rfl, effect_word h (exec_cfence o s) rfl,
    effect_word h (exec_ordd o s) rfl, fun h1 h2 => faults_at h (exec_bar o s) (if_pos ⟨h1, h2⟩), fun hno => ?_,
    block_word h (exec_ordw o s) rfl, fun hE => ?_, fun hE ha => ?_, fun hE ha hb v hv hw => cntwait_word h hE ha hb hv hw, ?_,
    fun en g rd r ha hb hexit hfault htret => ⟨fun pc pos htf hpos => ⟨fun hbad hafters hstep => ?_, fun hbad => ?_⟩, fun htf hall => ⟨?_, ?_⟩⟩⟩
  · exact block_word h (exec_bar o s) ((if_neg hno).trans (by rw [barrierOf_eq]; rfl))
  · exact boundary_word_same h (exec_cntwait o s) (if_pos (List.isEmpty_iff.mpr hE))
  · exact faults_at h (exec_cntwait o s) ((if_neg (by rwa [List.isEmpty_iff])).trans (if_pos ha))
  · obtain ⟨t, e', hex, hret, hth, hs, hw, hdef, heff, hctl, hpause, hexit, htf, -⟩ :=
      retire_next h (i := .tfence o) (word_retires h (exec_tfence o s) rfl)
    obtain ⟨hlanes, hpcs⟩ := keepsLanes_of_none rfl rfl hret.count hth
    refine ⟨t, e', hex, hret, hlanes, ⟨by simpa using hs, by simpa using hw⟩, hpcs, ?_, by simpa using hdef, by simpa using heff,
      by simpa using hctl⟩
    rw [htf]
    cases e.r.tfence <;> rfl
  · have hx := endChecks_lone ha hb hexit hfault htret (tfenceStep_clean (notedUpTo_lane rd r g) .a htf hbad)
    have hnone : ((notedUpTo rd r g).clearFlagRecord.raised.filter fun x => x.b == .a) = [] := by
      have : (notedUpTo rd r g).raised = g.raised.filter fun x => !(x.b == .a && decide (x.pos ≤ pos)) := by
        simp only [notedUpTo, htf]; rw [noteRaised_keeps]
      simp only [Group.clearFlagRecord, this, List.filter_filter, List.filter_eq_nil_iff]
      intro y hy
      simp [hpos y hy]
    rw [noteRaised_none _ _ hnone] at hx
    have haft : (notedUpTo rd r g).afters = [] := (notedUpTo_afters rd r g).trans hafters
    rw [hx]
    refine ⟨rfl, ?_, rfl⟩
    simp [loneEnd, ageStep, Group.mapLanes, Group.clearFlagRecord, haft, argMin, debugTrap, hstep]
  · have hx := endChecks_lone ha hb hexit hfault htret (tfenceStep_traps (notedUpTo_lane rd r g) htf hbad)
    have hlane (L : Nat) : ∃ n, (endChecks en g rd).g.lane L = { g.lane L with age := n } := by
      rw [hx]
      obtain ⟨n, hn⟩ := ageStep_lane rd ((notedUpTo rd r g).noteRaised rd.begun fun x => x.b == .a) L
      rw [noteRaised_lane, notedUpTo_lane] at hn
      exact ⟨n, hn⟩
    have hflags (L : Nat) : ((endChecks en g rd).g.lane L).flags = (g.lane L).flags := by obtain ⟨n, hn⟩ := hlane L; rw [hn]
    have hsame : flagged en (endChecks en g rd).g r.active = flagged en g r.active := by simp only [flagged, hflags]
    have htrap : (endChecks en g rd).trap = some _ := congrArg RoundEnd.trap hx
    refine ⟨congrArg RoundEnd.fault hx, htrap, fun L _ => hflags L, fun f p hf hp => ?_⟩
    obtain rfl := Option.some.inj (htrap.symm.trans hf)
    refine afterTrap_together (m := r.active) (en := en) (by rw [hsame]; exact hbad) (by rw [hsame]) rfl ?_ rfl fun L hL => ?_
    · simp only [flagUnion, hsame, hflags]
    · obtain ⟨n, hn⟩ := hlane L
      rw [hn]
      exact hp L (by rwa [hsame] at hL)
  · intro hv hr
    have hx := endChecks_lone ha hb hexit hfault htret (g := g) (tfenceStep_none en _ .a htf)
    rw [show notedUpTo rd r g = g by simp only [notedUpTo, htf]] at hx
    rw [hx]
    exact noteRaised_first hv hr hall
  · intro hv hat
    have hx := endChecks_lone ha hb hexit hfault htret (g := g) (tfenceStep_none en _ .a htf)
    rw [show notedUpTo rd r g = g by simp only [notedUpTo, htf], noteRaised_stands _ hv hat] at hx
    rw [hx]
    exact ⟨hv, rfl, rfl⟩

end Sys2Proof.Machine
end

section
/-!
PROOF. Words that issue a command or leave work for an engine: COPY, GATHER, COLL and LAUNCH (15 R374 to R376), the butterfly words (11 R274 to
R296) and the sheet words (06 R150 to R154).
-/
namespace Sys2Proof.Machine
open Sys2Proof

/-! ### The parts of an issuing word -/

/-- A key taken keeps the environment live. -/
theorem Env.Live.nextKey {e : Env} (h : e.Live) : e.nextKey.Live := ⟨h.cur, h.group⟩

theorem aligned_all {e : Env} {l : List (Word64 × Nat)} (h : AlignedAll l) (k : WordOut) : aligned e l k = k := by
  have hf : (l.find? fun p => decide (p.1.toNat % p.2 ≠ 0)) = none :=
    List.find?_eq_none.mpr fun p hp => by simp [h p hp]
  simp only [aligned, hf]

/-- The first misaligned address decides. -/
theorem aligned_fault {e : Env} {l : List (Word64 × Nat)} {a : Word64} {n : Nat}
    (h : (l.find? fun p => decide (p.1.toNat % p.2 ≠ 0)) = some (a, n)) (k : WordOut) : aligned e l k = groupFault e 3 a := by
  simp only [aligned, h]

/-- A record that can be read is read, and the word goes on with the rest (R376). -/
theorem withRecs_cons {e e1 : Env} {n : Nat} {lost : Option (Env → WordOut)} {va : Word64} {v : Nat} {t : Bool}
    (h : ReadsRec e lost.isSome va n e1 v t) (rest : List Word64) (k : Env → List Nat → Bool → WordOut) :
    withRecs e n lost (va :: rest) k = withRecs e1 n lost rest fun e l u => k e (v :: l) (t || u) := by
  obtain ⟨hb, lines, hr, hopen, rfl⟩ := h
  rw [withRecs]
  simp only [hb, hr, hopen, Bool.false_eq_true, if_false, Bool.not_true]

/-- A record read keeps the environment live, its group, its run and its packet. -/
theorem ReadsRec.live {e e1 : Env} {p : Bool} {va : Word64} {n v : Nat} {t : Bool} (h : ReadsRec e p va n e1 v t) (hl : e.Live) : e1.Live := by
  obtain ⟨-, lines, -, -, rfl⟩ := h
  obtain ⟨c, hc⟩ := e.s.chargeLines_eq e.ctx.asid (pkClass e.pkt) lines
  rw [hc]
  exact hl.of_groups rfl rfl
theorem ReadsRec.eq {e e1 : Env} {p : Bool} {va : Word64} {n v : Nat} {t : Bool} (h : ReadsRec e p va n e1 v t) : ∃ x, e1 = { e with s := x } := by
  obtain ⟨-, lines, -, -, rfl⟩ := h
  exact ⟨_, rfl⟩

/-- A word whose meaning is the issue of a command (R375). -/
theorem issue_word {s : State} {e e1 : Env} (h : env? s = some e) (hl : e1.Live) {i : Instr} {f : Env → WordOut} {d : BitVec 8} {k : CmdKind}
    {ctr : Word64} {t : Bool} (hi : exec i s = word (rbOf i) s f) (hf : f e = issueCommand e1 d k ctr t) :
    BoundaryWord s e1.nextKey i [.uniform d.toNat e1.g.keys .pending (e1.ut t)] [.command k d.toNat ctr e1.g.keys (e1.ut t)] :=
  boundary_word hl.nextKey (word_retires h hi hf)

/-- Settles O30: the addresses are aligned, each record is read, and the command is issued. -/
theorem engineCommandsComplete : Obligations.EngineCommandsComplete := by
  intro s e o h u tt issues half
  have hl := live_of_env? h
  refine ⟨fun x y tx ty e1 e2 hal h1 h2 => ?_, fun x y tx ty e1 e2 hal h1 h2 hrec => ?_, fun x tx e1 hal h1 => ?_, fun x tx e1 hal h1 => ?_⟩
  · obtain ⟨x1, rfl⟩ := h1.eq
    obtain ⟨x2, rfl⟩ := h2.eq
    refine issue_word h (h2.live (h1.live hl)) (exec_copy o s) ?_
    refine (aligned_all hal _).trans ?_
    refine (withRecs_cons (lost := some _) h1 _ _).trans ((withRecs_cons (lost := some _) h2 _ _).trans ?_)
    simp only [withRecs, ← Bool.or_assoc]
    rfl
  · obtain ⟨x1, rfl⟩ := h1.eq
    obtain ⟨x2, rfl⟩ := h2.eq
    refine issue_word h (h2.live (h1.live hl)) (exec_gather o s) ?_
    refine (aligned_all hal _).trans ?_
    refine (withRecs_cons (lost := none) h1 _ _).trans ((withRecs_cons (lost := none) h2 _ _).trans ?_)
    exact aligned_all (fun p hp => by rcases List.mem_singleton.mp hp with rfl; exact hrec) _
  · obtain ⟨x1, rfl⟩ := h1.eq
    refine issue_word h (h1.live hl) (exec_coll o s) ?_
    refine (aligned_all hal _).trans ?_
    refine (withRecs_cons (lost := some _) h1 _ _).trans ?_
    simp only [withRecs, ← Bool.or_assoc]
    rfl
  · obtain ⟨x1, rfl⟩ := h1.eq
    refine issue_word h (h1.live hl) (exec_launch o s) ?_
    refine (aligned_all hal _).trans ?_
    exact withRecs_cons (lost := none) h1 _ _

/-! ### Which address decides a fault -/

theorem aligned_skip {e : Env} {a : Word64} {n : Nat} (h : a.toNat % n = 0) (l : List (Word64 × Nat)) (k : WordOut) :
    aligned e ((a, n) :: l) k = aligned e l k := by
  have hf : (((a, n) :: l).find? fun p => decide (p.1.toNat % p.2 ≠ 0)) = l.find? fun p => decide (p.1.toNat % p.2 ≠ 0) := by
    rw [List.find?_cons]
    simp [h]
  simp only [aligned, hf]

theorem aligned_first {e : Env} {a : Word64} {n : Nat} (h : a.toNat % n ≠ 0) (l : List (Word64 × Nat)) (k : WordOut) :
    aligned e ((a, n) :: l) k = groupFault e 3 a :=
  aligned_fault (n := n) (by rw [List.find?_cons]; simp [h]) k

/-! ### The butterfly words (R277) -/

section
variable {s : State} {e : Env} {i : Instr} {o : OpF}

/-- A team that holds the engine runs the word. -/
theorem bfWord_held (h : env? s = some e) (hh : s.holdsBf e.g.core e.g.ref.tref = true) (hrb : rbOf i = o.rb) {f : Env → WordOut} {e1 : Env} {d : Delta}
    (hi : exec i s = bfWord o f s) (hf : f e = .retire e1 d) : exec i s = .next (retire (rbOf i) e1 d) := by
  obtain ⟨hs, -⟩ := env?_inv h
  refine word_retires h (hi.trans (by rw [hrb]; rfl)) ?_
  rw [hs, if_pos hh, hf]

theorem bfWord_held_fault (h : env? s = some e) (hh : s.holdsBf e.g.core e.g.ref.tref = true) {f : Env → WordOut} {c : Nat} {a : Word64} {m : LaneMask}
    (hi : exec i s = bfWord o f s) (hf : f e = .fault e c a m 0 {}) : FaultsAt s e i c a m := by
  obtain ⟨hs, -⟩ := env?_inv h
  refine faults_at h (rb := o.rb) (k := 0) hi ?_
  rw [hs, if_pos hh, hf]

/-- One that does not takes BF_NOT_HELD. -/
theorem bfWord_not_held (h : env? s = some e) (hh : s.holdsBf e.g.core e.g.ref.tref = false) {f : Env → WordOut} (hi : exec i s = bfWord o f s) :
    FaultsAt s e i 10 0 e.r.active := by
  obtain ⟨hs, -⟩ := env?_inv h
  refine faults_at h (rb := o.rb) (k := 0) hi ?_
  rw [hs, if_neg (by simp [hh])]
  rfl

theorem bfEffect_word (h : env? s = some e) (hh : s.holdsBf e.g.core e.g.ref.tref = true) (hrb : rbOf i = o.rb) {f : Env → BfOp}
    (hi : exec i s = bfEffect o f s) : BoundaryWord s e i [] [.bf (f e)] :=
  boundary_word (live_of_env? h) (bfWord_held h hh hrb hi rfl)

theorem bfAnswer_word (h : env? s = some e) (hh : s.holdsBf e.g.core e.g.ref.tref = true) (hrb : rbOf i = o.rb) {f : Env → Nat → BfOp}
    (hi : exec i s = bfAnswer o f s) :
    BoundaryWord s e.nextKey i [.uniform o.d.toNat e.g.keys .none (e.ut false)] [.bf (f e e.g.keys)] :=
  boundary_word (live_of_env? h).nextKey (bfWord_held h hh hrb hi rfl)

/-- A word with a future issues its command once its addresses are aligned (R278). -/
theorem bfCommand_word (h : env? s = some e) (hh : s.holdsBf e.g.core e.g.ref.tref = true) (hrb : rbOf i = o.rb) {al : Env → List (Word64 × Nat)}
    {k : Env → CmdKind} {ctr : Env → Word64} {t : Env → Bool} (hi : exec i s = bfCommand o al k ctr t s) (hal : AlignedAll (al e ++ [(ctr e, 8)])) :
    BoundaryWord s e.nextKey i [.uniform o.d.toNat e.g.keys .pending (e.ut (t e))] [.command (k e) o.d.toNat (ctr e) e.g.keys (e.ut (t e))] :=
  boundary_word (live_of_env? h).nextKey (bfWord_held h hh hrb hi (aligned_all hal _))

theorem bfCommand_fault (h : env? s = some e) (hh : s.holdsBf e.g.core e.g.ref.tref = true) {al : Env → List (Word64 × Nat)}
    {k : Env → CmdKind} {ctr : Env → Word64} {t : Env → Bool} {a : Word64} (hi : exec i s = bfCommand o al k ctr t s)
    (hal : ∀ w, aligned e (al e ++ [(ctr e, 8)]) w = groupFault e 3 a) : FaultsAt s e i 3 a e.r.active :=
  bfWord_held_fault h hh hi (hal _)
end

/-- BFDRAIN by its form (R294). -/
theorem execBfdrain_slot {o : OpF} (h : o.field 9 2 = 0) (s : State) : execBfdrain o s =
    bfCommand o (fun _ => []) (fun e => .drainSlot o.ty (o.field 3 3) (rmOf o) (bits (e.us o.a).w 0 5)) (fun e => (e.us o.b).w)
      (fun e => (e.us o.a).t || (e.us o.b).t) s := by
  simp only [execBfdrain, h]
theorem execBfdrain_mem {o : OpF} (h : o.field 9 2 = 1) (s : State) : execBfdrain o s =
    bfCommand o (fun e => [((e.us o.a).w, 64)]) (fun e => .drainMem o.ty (o.field 3 3) (rmOf o) (o.field 7 2) (e.us o.a).w (e.us o.c).w)
      (fun e => (e.us o.b).w) (fun e => (e.us o.a).t || (e.us o.b).t || (e.us o.c).t) s := by
  simp only [execBfdrain, h]
theorem execBfdrain_v {o : OpF} (h : 2 ≤ o.field 9 2) (s : State) : execBfdrain o s =
    bfWord o (fun e => .retire e.nextKey { defer := [.drainV o.d.toNat o.b.toNat e.g.keys e.active (e.ut (e.us o.a).t)],
                                           effs := [.bf (.drainV o.ty (o.field 3 3) (rmOf o) (e.us o.a).w e.g.keys)] }) s := by
  obtain ⟨n, hn⟩ := Nat.exists_eq_add_of_le' h
  simp only [execBfdrain, hn]
  rfl

/-- Every form of BFDRAIN needs the engine. -/
theorem execBfdrain_bfWord (o : OpF) (s : State) : ∃ f, execBfdrain o s = bfWord o f s := by
  rcases h : o.field 9 2 with _ | _ | n
  · exact ⟨_, execBfdrain_slot h s⟩
  · exact ⟨_, execBfdrain_mem h s⟩
  · exact ⟨_, execBfdrain_v (by omega) s⟩

/-- Settles O32: one law of a word that needs the engine, and one for each shape of its effect. -/
theorem butterflyOperations : Obligations.ButterflyOperations := by
  intro s e o h key x
  have hl := live_of_env? h
  refine ⟨boundary_word hl.nextKey (word_retires h (exec_bfacq o s) rfl), boundary_word_same h (exec_bfrel o s) rfl, fun hh => ?_, fun hh i hi => ?_⟩
  · exact ⟨bfAnswer_word h hh rfl (exec_osclaim o s), bfEffect_word h hh rfl (exec_osrel o s), bfEffect_word h hh rfl (exec_bstset o s),
      bfEffect_word h hh rfl (exec_gangset o s), bfAnswer_word h hh rfl (exec_bfscale o s),
      fun hn => boundary_word hl.nextKey (bfWord_held h hh rfl ((exec_bfdrain o s).trans (execBfdrain_v hn s)) rfl)⟩
  · have hw : ∃ f, exec i s = bfWord o f s := by
      simp only [List.mem_cons, List.not_mem_nil, or_false] at hi
      rcases hi with rfl | rfl | rfl | rfl | rfl | rfl | rfl | rfl | rfl | rfl | rfl
      case inr.inr.inr.inr.inr.inr.inr.inr.inl => exact execBfdrain_bfWord o s
      all_goals exact ⟨_, rfl⟩
    obtain ⟨f, hf⟩ := hw
    exact bfWord_not_held h hh hf

/-! ### The butterfly words with a future -/

/-- The addresses of OSFILL and OSSAVE, in the order of their checks: memory, scale bytes of a scaled form, counter. -/
theorem xferAligned_all {o : OpF} {e : Env} (hx : (e.us o.a).w.toNat % 64 = 0) (hy : (e.us o.b).w.toNat % 8 = 0)
    (hc : o.ty = 13 → (e.uAt o.c 1).toNat % 8 = 0) : AlignedAll (xferAligned o e ++ [((e.us o.b).w, 8)]) := by
  intro p hp
  simp only [xferAligned, List.cons_append, List.mem_cons, List.mem_append, List.not_mem_nil, or_false] at hp
  rcases hp with rfl | hp | rfl
  · exact hx
  · by_cases ht : o.ty = 13
    · rw [if_pos ht, List.mem_singleton] at hp
      subst hp
      exact hc ht
    · rw [if_neg ht] at hp
      cases hp
  · exact hy

theorem xferAligned_scale {o : OpF} {e : Env} (hx : (e.us o.a).w.toNat % 64 = 0) (ht : o.ty = 13) (hc : (e.uAt o.c 1).toNat % 8 ≠ 0) (w : WordOut) :
    aligned e (xferAligned o e ++ [((e.us o.b).w, 8)]) w = groupFault e 3 (e.uAt o.c 1) := by
  rw [xferAligned, if_pos ht]
  exact (aligned_skip hx _ w).trans (aligned_first hc _ w)

theorem xferAligned_counter {o : OpF} {e : Env} (hx : (e.us o.a).w.toNat % 64 = 0) (hy : (e.us o.b).w.toNat % 8 ≠ 0)
    (hc : o.ty = 13 → (e.uAt o.c 1).toNat % 8 = 0) (w : WordOut) :
    aligned e (xferAligned o e ++ [((e.us o.b).w, 8)]) w = groupFault e 3 (e.us o.b).w := by
  by_cases ht : o.ty = 13
  · rw [xferAligned, if_pos ht]
    exact (aligned_skip hx _ w).trans ((aligned_skip (hc ht) _ w).trans (aligned_first hy _ w))
  · rw [xferAligned, if_neg ht]
    exact (aligned_skip hx _ w).trans (aligned_first hy _ w)

theorem alignedAll_one {a : Word64} {n : Nat} (h : a.toNat % n = 0) : AlignedAll [(a, n)] := fun p hp => by
  rcases List.mem_singleton.mp hp with rfl
  exact h

/-- Settles O33: each command is issued with aligned addresses; the first address of its list that is not decides its fault. -/
theorem butterflyCommands : Obligations.ButterflyCommands := by
  intro s e o h hh issues x y c ct stage
  have hslot (h0 : o.field 9 2 = 0) := (exec_bfdrain o s).trans (execBfdrain_slot h0 s)
  have hmem (h1 : o.field 9 2 = 1) := (exec_bfdrain o s).trans (execBfdrain_mem h1 s)
  refine ⟨fun hx hy hc => ?_, fun hx => ?_, fun h0 hy => ?_, fun h1 hx hy => ?_, fun hx => ?_, fun hx ht hc => ?_, fun hy => ?_, fun hx => ?_⟩
  · exact ⟨bfCommand_word h hh rfl (exec_osfill o s) (xferAligned_all hx hy hc), bfCommand_word h hh rfl (exec_ossave o s) (xferAligned_all hx hy hc)⟩
  · have ha : AlignedAll [(x.w, 8)] := alignedAll_one hx
    exact ⟨bfCommand_word h hh rfl (exec_bfstage o s) ha, bfCommand_word h hh rfl (exec_bfchain o s) ha, bfCommand_word h hh rfl (exec_bfzero o s) ha⟩
  · exact bfCommand_word h hh rfl (hslot h0) (alignedAll_one hy)
  · refine bfCommand_word h hh rfl (hmem h1) fun p hp => ?_
    rcases List.mem_cons.mp hp with rfl | hp
    · exact hx
    · exact alignedAll_one hy p hp
  · exact ⟨bfCommand_fault h hh (exec_osfill o s) (aligned_first hx _), bfCommand_fault h hh (exec_ossave o s) (aligned_first hx _),
      fun h1 => bfCommand_fault h hh (hmem h1) (aligned_first hx _)⟩
  · exact ⟨bfCommand_fault h hh (exec_osfill o s) (xferAligned_scale hx ht hc), bfCommand_fault h hh (exec_ossave o s) (xferAligned_scale hx ht hc)⟩
  · refine ⟨fun hx hc => ?_, fun hd => ?_⟩
    · exact ⟨bfCommand_fault h hh (exec_osfill o s) (xferAligned_counter hx hy hc), bfCommand_fault h hh (exec_ossave o s) (xferAligned_counter hx hy hc)⟩
    · rcases hd with h0 | ⟨h1, hx⟩
      · exact bfCommand_fault h hh (hslot h0) (aligned_first hy _)
      · exact bfCommand_fault h hh (hmem h1) fun w => (aligned_skip hx _ w).trans (aligned_first hy _ w)
  · exact ⟨bfCommand_fault h hh (exec_bfstage o s) (aligned_first hx _), bfCommand_fault h hh (exec_bfchain o s) (aligned_first hx _),
      bfCommand_fault h hh (exec_bfzero o s) (aligned_first hx _)⟩

/-! ### The sheet words -/

theorem withSheet_some {e : Env} {w : Word64} {x : Sheet} (h : e.sheet? w = some x) (f : Sheet → WordOut) : withSheet e w f = f x := by
  simp only [withSheet, h]
theorem withSheet_none {e : Env} {w : Word64} (h : e.sheet? w = none) (f : Sheet → WordOut) : withSheet e w f = groupFault e 9 0 := by
  simp only [withSheet, h]

/-- Settles O34: the handle is looked up first; SWBIND reads its record, and the others leave their part for the boundary. -/
theorem sheetWords : Obligations.SheetWords := by
  intro s e o h key w entry
  have hl := live_of_env? h
  obtain ⟨hs, -⟩ := env?_inv h
  refine ⟨fun v t e1 hb hal h1 => ?_, fun hn => ?_, fun x hx => ⟨fun hb => ?_, fun hy hz => ?_, ?_, ?_, ?_⟩⟩
  · obtain ⟨x1, rfl⟩ := h1.eq
    refine boundary_word (h1.live hl).nextKey (word_retires h (exec_swbind o s) ?_)
    simp only [hb, Bool.false_eq_true, if_false]
    exact (aligned_all (alignedAll_one hal) _).trans (withRecs_cons (lost := none) h1 _ _)
  · refine ⟨fun hb => faults_at h (k := 0) (exec_swbind o s) ?_, faults_at h (k := 0) (exec_swrun o s) (withSheet_none hn _),
      faults_at h (k := 0) (exec_swwake o s) (withSheet_none hn _), faults_at h (k := 0) (exec_swpoke o s) (withSheet_none hn _),
      faults_at h (k := 0) (exec_swstat o s) (withSheet_none hn _)⟩
    simp only [hb, if_true]
    exact withSheet_none hn _
  · refine boundary_word_same h (exec_swbind o s) ?_
    simp only [hb, if_true]
    exact withSheet_some hx _
  · refine boundary_word hl.nextKey (word_retires h (exec_swrun o s) ((withSheet_some hx _).trans (aligned_all ?_ _)))
    intro p hp
    rcases List.mem_cons.mp hp with rfl | hp
    · exact hy
    · exact alignedAll_one hz p hp
  · refine boundary_word_same h (exec_swwake o s) ((withSheet_some hx _).trans ?_)
    rw [hs]
    rfl
  · refine boundary_word_same h (exec_swpoke o s) ((withSheet_some hx _).trans ?_)
    rw [hs]
    rfl
  · refine defers_word h _ _ (word_retires h (exec_swstat o s) ((withSheet_some hx _).trans ?_))
    rcases hn : o.low2 with _ | _ | _ | n <;> simp [hn, w]

end Sys2Proof.Machine
end

section
/-!
PROOF. What every step does around the words: a write at the homes (13 R322, R323), the turn of a step (02 R27, R44), the entry into an exception
and the return from it (18 R441, R444), and the completion of a future (15 R370).
-/
namespace Sys2Proof.Machine
open Sys2Proof

/-! ### A write at the homes (R322, R323) -/

theorem Home.byte_write_covered (h : Home) (m : TaintMode) (pa i : Nat) (bs : List Byte) (hi : i < bs.length) :
    (h.write m pa bs).byte (pa + i) = bs[i] := by
  rw [Home.byte_write, if_pos (Nat.le_add_right _ _), Nat.add_sub_cancel_left, List.getElem?_eq_getElem hi, Option.getD_some]

theorem Home.byte_write_outside (h : Home) (m : TaintMode) (pa a : Nat) (bs : List Byte) (ha : a < pa ∨ pa + bs.length ≤ a) :
    (h.write m pa bs).byte a = h.byte a := by
  rw [Home.byte_write]
  split
  · rw [List.getElem?_eq_none (by omega), Option.getD_none]
  · rfl

/-- What a write covers is kept as it was, at the place before it. -/
theorem Home.past_write (h : Home) (m : TaintMode) (pa a : Nat) (bs : List Byte) (hp : ∀ p ∈ h.past, p.seq ≤ h.seq) :
    (h.write m pa bs).byteAt h.seq a = h.byte a := by
  have hold : (h.past.find? fun p => p.pa == a && decide (h.seq < p.seq)) = none :=
    List.find?_eq_none.mpr fun p hm => by simp [Nat.not_lt.mpr (hp p hm)]
  rw [Home.byteAt, show (h.write m pa bs).past = h.past ++ _ from rfl, List.find?_append, hold, Option.none_or, List.find?_map]
  split
  case h_1 p hf =>
    obtain ⟨i, hi, rfl⟩ := Option.map_eq_some_iff.mp hf
    have hc := List.find?_some hi
    simp only [Function.comp_apply, Bool.and_eq_true, beq_iff_eq] at hc
    rw [hc.1]
  case h_2 hf =>
    refine h.byte_write_outside m pa a bs ?_
    by_contra hc
    have hnone := List.find?_eq_none.mp (Option.map_eq_none_iff.mp hf) (a - pa) (List.mem_range.mpr (by omega))
    exact hnone (by simp; omega)

/-- Settles O55: one law for the covered bytes, one for the others, one for the past. -/
theorem homeWrites : Obligations.HomeWrites := by
  intro h m pa bs t
  refine ⟨rfl, fun i hi => ?_, fun a ha => h.byte_write_outside m pa a bs ha, fun hp a => h.past_write m pa a bs hp, Home.write_wf m pa bs⟩
  rw [show t.byte (pa + i) = bs[i] from h.byte_write_covered m pa i bs hi, List.getElem?_eq_getElem hi]

/-! ### The turn of a step (log 1) -/

theorem step_turn {s : State} {x : Turn} {rest : List Turn} (h : s.turns = x :: rest) : step s = take x { s with turns := rest } := by
  simp only [step, State.nextTurn, h]

/-- A run that no check stops runs its word (R44, R97, R370). -/
theorem checkWord_run {s : State} {g : Group} {r : Run} {w : Word64} {i : Instr} (hd : decode w = .ok i)
    (h24 : r.pos + 1 = 24 → w.getLsbD 63 = true ∨ r.step = true) (hctl : isControl i = true → rbOf i = true ∨ r.step = true)
    (hund : undeclared (s.pkt g.ref.grid) g.role i = false) (hpoison : g.poison = []) (hfail : failedRead r i = none) :
    checkWord s g r w = .run i := by
  have h1 : (decide (r.pos + 1 = 24) && !w.getLsbD 63 && !r.step) = false := by
    by_cases h : r.pos + 1 = 24
    · rcases h24 h with h | h <;> simp [h]
    · simp [h]
  have h2 : (isControl i && !rbOf i && !r.step) = false := by
    cases h : isControl i
    · rfl
    · rcases hctl h with h | h <;> simp [h]
  simp only [checkWord, h1, hd, h2, hund, hpoison, hfail, List.any_nil, Bool.false_eq_true, if_false]

/-- The environment of a state whose run in execution is named. -/
theorem env?_of_cur {s : State} {gr : GRef} {b : Stream} {g : Group} {rd : Round} {r : Run} (hc : s.cur = some (gr, b))
    (hg : s.group? gr = some g) (hrd : g.round = some rd) (hr : rd.run? b = some r) :
    ∃ e, env? s = some e ∧ e.s = s ∧ e.g = g ∧ e.rd = rd ∧ e.r = r ∧ e.b = b ∧ e.pkt = s.pkt gr.grid ∧ e.log0 = e.team.log ∧
      (∀ x, s.gridCtx? gr.grid = some x → e.ctx = x) ∧
      e.team = s.liveTeam g.core e.ctx ((s.team? gr.tref).getD { ref := gr.tref }) := by
  have href : g.ref = gr := State.group?_ref hg
  refine ⟨_, by simp only [env?, hc, hg, hrd, hr, Option.bind_some, Option.map_some]; rfl, rfl, rfl, rfl, rfl, rfl, ?_, rfl, fun x hx => ?_, ?_⟩
  · rw [href]
  · simp only [href, hx, Option.getD_some]
  · simp only [href]

/-- Settles O56: the head of the schedule is taken, and a word that is fetched and passes its checks is executed with its run in execution. -/
theorem stepRunsTheTurn : Obligations.StepRunsTheTurn := by
  intro s rest s1
  refine ⟨fun n ht => by rw [step_turn ht]; rfl, fun i ht hw => ?_, fun gr b g rd ht hg hrd hm => ?_, ?_⟩
  · rw [step_turn ht]
    simp only [take, hw, Bool.false_eq_true, if_false]
    rfl
  · have hg1 : s1.group? gr = some g := hg
    rw [step_turn ht]
    simp only [take, issue, show ({ s with turns := rest } : State) = s1 from rfl, hg1, hrd]
    cases rd.run? b <;> simp [hm]
  · intro gr b g rd r w pa i ht hg hrd hr hend hmiss hfetch hd h24 hctl hund hpoison hfail hm c cls cached lines
    have hg1 : s1.group? gr = some g := hg
    have href : g.ref = gr := State.group?_ref hg
    have hrun : step s = match issue s1 gr b with | .done s => .next s | .exec i s => exec i s := by rw [step_turn ht]; rfl
    have hissue : issue s1 gr b = if !s1.linesOpen c.asid cls lines then .done s1.bump else
        let x := ((s1.chargeLines c.asid cls lines).codeHold g.core pa ((s1.chargeLines c.asid cls lines).codeMoment g.core pa)).bump
        match checkWord x g r w with
        | .fault k a d => .done (refuseWord x g rd r b k a d)
        | .run i => .exec i { x with cur := some (gr, b) } := by
      simp only [issue, hg1, hrd, hr, hend, hm, hmiss, List.isEmpty_nil, Bool.not_true, Bool.or_self, Bool.false_eq_true, if_false]
      simp only [show s1.gridCtx? gr.grid = s.gridCtx? gr.grid from rfl]
      rw [hfetch]
      rfl
    refine ⟨fun hclosed => ?_, fun hopen => ?_⟩
    · rw [hrun, hissue, hclosed]
      rfl
    · obtain ⟨l, hl⟩ := s1.chargeLines_eq c.asid cls lines
      intro s2 s3
      have hcheck : checkWord (s2.codeHold g.core pa (s2.codeMoment g.core pa)).bump g r w = .run i := by
        refine checkWord_run hd h24 hctl ?_ hpoison hfail
        rw [href]
        simp only [s2, hl]
        exact hund
      refine ⟨?_, ?_⟩
      · rw [hrun, hissue, hopen]
        simp only [Bool.not_true, Bool.false_eq_true, if_false]
        rw [show checkWord _ g r w = .run i from hcheck]
      · have hg3 : s3.group? gr = some g := by simp only [s3, s2, hl]; exact hg
        obtain ⟨e, he, h1, h2, h3, h4, h5, h6, h7, h8, h9⟩ := env?_of_cur (s := s3) rfl hg3 hrd hr
        refine ⟨e, he, h1, h2, h3, h4, h5, h6.trans ?_, h7, h8, h9⟩
        simp only [s3, s2, hl]
        rfl

/-! ### Exceptions (R441, R444) -/

/-- A group put back in place of one of its name. -/
theorem State.group?_setGroup {s : State} {g x : Group} (h : s.group? g.ref = some g) (hr : x.ref = g.ref) : (s.setGroup x).group? g.ref = some x := by
  rw [← hr, s.setGroup_group?_self x, hr, h, Option.map_some]

@[simp] theorem Group.setBank_level (g : Group) (n : Nat) (b : Bank) : (g.setBank n b).level = g.level := by unfold Group.setBank; split <;> rfl
@[simp] theorem Group.setBank_ref (g : Group) (n : Nat) (b : Bank) : (g.setBank n b).ref = g.ref := by unfold Group.setBank; split <;> rfl
@[simp] theorem Group.setBank_s (g : Group) (n : Nat) (b : Bank) : (g.setBank n b).s = g.s := by unfold Group.setBank; split <;> rfl
@[simp] theorem Group.setBank_lanes (g : Group) (n : Nat) (b : Bank) : (g.setBank n b).lanes = g.lanes := by unfold Group.setBank; split <;> rfl
@[simp] theorem Group.setBank_lane (g : Group) (n : Nat) (b : Bank) (t : Nat) : (g.setBank n b).lane t = g.lane t := by simp [Group.lane]

/-- The group that stands in the handler (R441). -/
def entered (trapPc : Word64) (g : Group) (f : FaultInfo) : Group :=
  { (g.setBank (g.level.toNat + 1) { tpc := f.pc, taddr := f.addr, tcause := mkTcause f, tstate := mkTstate f, tlanes := f.lanes }).mapLanes
      fun t th => if f.lanes.getLsbD t then { th with pc := trapPc } else th with level := g.level + 1 }

theorem trapEntry_some {trapPc : Word64} {g : Group} (f : FaultInfo) (hp : trapPc ≠ 0) (hl : g.level.toNat < 2) :
    trapEntry trapPc g f = some (entered trapPc g f) := by
  rw [trapEntry, if_neg (by rintro (h | h); exacts [hp h, absurd hl (Nat.not_lt.mpr h)])]
  simp only [entered, Group.mapLanes, Group.setBank_level]

theorem trapEntry_none {trapPc : Word64} {g : Group} (f : FaultInfo) (h : trapPc = 0 ∨ 2 ≤ g.level.toNat) : trapEntry trapPc g f = none := by
  rw [trapEntry, if_pos h]

theorem entered_lane (trapPc : Word64) (g : Group) (f : FaultInfo) {L : Nat} (hL : L < g.lanes.length) :
    (entered trapPc g f).lane L = if f.lanes.getLsbD L then { g.lane L with pc := trapPc } else g.lane L := by
  refine (Group.mapLanes_lane _ _ L).trans ?_
  rw [Group.setBank_lanes, if_pos hL, Group.setBank_lane]

/-- Below level 2 the level names the next bank: 1 from level 0, 2 from level 1. -/
theorem entered_banks (trapPc : Word64) (g : Group) (f : FaultInfo) (hl : g.level.toNat < 2) :
    (entered trapPc g f).bank (g.level + 1).toNat = { tpc := f.pc, taddr := f.addr, tcause := mkTcause f, tstate := mkTstate f, tlanes := f.lanes } ∧
    (g.level = 1 → (entered trapPc g f).bank1 = g.bank1) ∧ (g.level = 0 → (entered trapPc g f).bank2 = g.bank2) := by
  have h01 : g.level = 0 ∨ g.level = 1 := by
    rcases Nat.lt_succ_iff_lt_or_eq.mp hl with h | h
    · exact .inl (BitVec.eq_of_toNat_eq (Nat.lt_one_iff.mp h))
    · exact .inr (BitVec.eq_of_toNat_eq h)
  rcases h01 with h | h
  · refine ⟨?_, fun h1 => absurd (h.symm.trans h1) (by decide), fun _ => ?_⟩ <;>
      simp [entered, Group.bank, Group.setBank, Group.mapLanes, h]
  · refine ⟨?_, fun _ => ?_, fun h0 => absurd (h.symm.trans h0) (by decide)⟩ <;>
      simp [entered, Group.bank, Group.setBank, Group.mapLanes, h]

/-- Settles O53: the entry and the return, lane by lane. -/
theorem trapEntryAndReturn : Obligations.TrapEntryAndReturn := by
  refine ⟨fun s g f c hc hg => ⟨fun hp hl => ?_, fun h => ?_⟩, fun g skip hl => ?_⟩
  · have htake : s.takeTrap g f = s.setGroup (entered c.trapPc g f) := by
      simp only [State.takeTrap, hc, Option.map_some, Option.getD_some, trapEntry_some f hp hl]
    obtain ⟨hbank, h1, h2⟩ := entered_banks c.trapPc g f hl
    refine ⟨entered c.trapPc g f, ?_, htake, rfl, hbank, h1, h2, Group.setBank_s _ _ _, ?_, fun L hL => entered_lane _ _ _ hL⟩
    · rw [htake]
      exact State.group?_setGroup hg (Group.setBank_ref _ _ _)
    · exact (Group.mapLanes_length _ _).trans (by rw [Group.setBank_lanes])
  · simp only [State.takeTrap, hc, Option.map_some, Option.getD_some, trapEntry_none f h]
  · intro b pc x
    refine ⟨rfl, rfl, rfl, rfl, Group.mapLanes_length _ _, fun L hL => ?_⟩
    refine (Group.mapLanes_lane _ _ L).trans ?_
    have hst : (g.lane L).live = decide ((g.lane L).st = .live) := by rw [Thread.live, Bool.eq_iff_iff, beq_iff_eq, decide_eq_true_iff]
    rw [if_pos hL, hst]
    rfl

/-! ### A completed future wakes a lane that has an earlier wait (R391) -/

def waitHandle : Word64 := mkHandle 0 1 0 0
/-- A lane whose ORDW has not come to an end, and whose next word waits for the future. -/
def waitLane : Thread := { st := .live, waits := [(0, .ordw 0), (1, .fut waitHandle)] }
def waitGroup : Group := { soleGroup with lanes := [waitLane], futures := [(0, { isDone := false, eng := 1 })] }
def waitState : State := { State.reset with groups := [waitGroup], grids := [{ id := 0, slot := 0, asid := 1, pkt := 1 <<< 128, nextTeam := 1 }] }

/-- A wait for an ordered counter has no push, so the push of the future does not wait behind it. -/
theorem waitState_completed :
    ((waitState.completeFuture waitGroup.ref 0 0 1).group? waitGroup.ref).map (fun x => (x.lane 0).waits) = some [(0, .ordw 0)] := by decide +kernel

/-- Refutes O54: a lane of a live group waits at an ORDW word and, behind it, for the future. As the future completes, the model makes the push at
once, since the wait of an ORDW word ends without one; the statement keeps the push behind it. -/
theorem not_futureCompletion : ¬ Obligations.FutureCompletion := by
  intro h
  obtain ⟨-, -, hdone⟩ := h waitState waitGroup.ref waitGroup 0 1 rfl
  obtain ⟨x, hx, -, -, -, -, -, hlanes, -⟩ := hdone rfl
  obtain ⟨-, -, hboth⟩ := hlanes 0 (by decide)
  have hnew := hboth 0 0 1 waitHandle rfl
  rw [if_pos (by decide +kernel)] at hnew
  have hw := waitState_completed
  rw [show (waitState.completeFuture waitGroup.ref 0 0 1).group? waitGroup.ref = some x from hx, Option.map_some, hnew] at hw
  exact absurd hw (by decide)

end Sys2Proof.Machine
end

section
/-!
PROOF. What a group holds once the runs of a round have committed (04 R89), the boundary of a wait for a counter (07 R185), and the registers of
a queue (05 R101, R103).
-/
namespace Sys2Proof.Machine
open Sys2Proof

/-! ### The control state of a group (R89, R445) -/

/-- Two groups hold the same control state. -/
structure SameCtl (g h : Group) : Prop where
  prio  : g.prio = h.prio
  mark  : g.mark = h.mark
  bank1 : g.bank1 = h.bank1
  bank2 : g.bank2 = h.bank2
  ss    : g.ss = h.ss
  be    : g.be = h.be

theorem SameCtl.bank {g h : Group} (k : SameCtl g h) (n : Nat) : g.bank n = h.bank n := by
  simp only [Group.bank, k.bank1, k.bank2]
theorem SameCtl.setBank {g h : Group} (k : SameCtl g h) (n : Nat) (b : Bank) : SameCtl (g.setBank n b) (h.setBank n b) := by
  obtain ⟨h1, h2, h3, h4, h5, h6⟩ := k
  unfold Group.setBank
  split
  · exact ⟨h1, h2, h3, rfl, h5, h6⟩
  · exact ⟨h1, h2, rfl, h4, h5, h6⟩

/-- A control write makes of the same control state the same control state. -/
theorem SameCtl.apply {g h : Group} (k : SameCtl g h) (w : CtlWrite) : SameCtl (w.apply g) (w.apply h) := by
  cases w with
  | tpc n v => simp only [CtlWrite.apply, k.bank n]; exact k.setBank n _
  | taddr n v => simp only [CtlWrite.apply, k.bank n]; exact k.setBank n _
  | debug ss be => exact ⟨k.prio, k.mark, k.bank1, k.bank2, rfl, rfl⟩
  | prio v => exact ⟨rfl, k.mark, k.bank1, k.bank2, k.ss, k.be⟩
  | mark v => exact ⟨k.prio, rfl, k.bank1, k.bank2, k.ss, k.be⟩

theorem SameCtl.withCtl {g h : Group} (k : SameCtl g h) (l : List CtlWrite) : SameCtl (g.withCtl l) (h.withCtl l) := by
  induction l generalizing g h with
  | nil => exact k
  | cons w l ih => exact ih (k.apply w)

theorem Group.withCtl_append (g : Group) (l m : List CtlWrite) : g.withCtl (l ++ m) = (g.withCtl l).withCtl m := List.foldl_append

/-- Control writes leave the registers, the lanes and the effects. -/
theorem CtlWrite.apply_keeps (g : Group) (w : CtlWrite) : (w.apply g).s = g.s ∧ (w.apply g).lanes = g.lanes ∧ (w.apply g).outbox = g.outbox := by
  cases w with
  | tpc n v => simp only [CtlWrite.apply, Group.setBank]; split <;> exact ⟨rfl, rfl, rfl⟩
  | taddr n v => simp only [CtlWrite.apply, Group.setBank]; split <;> exact ⟨rfl, rfl, rfl⟩
  | debug | prio | mark => exact ⟨rfl, rfl, rfl⟩
theorem Group.withCtl_lanes (g : Group) (l : List CtlWrite) : (g.withCtl l).lanes = g.lanes := by
  induction l generalizing g with
  | nil => rfl
  | cons w l ih => exact (ih _).trans (w.apply_keeps g).2.1

/-! ### The commit of a run (R89, R96, R439) -/

/-- The registers that a run wrote take its values; the others stay. -/
theorem get_commitRegs (t : Table SCell) (r : Run) (n : Nat) :
    Table.get {} (commitRegs t r) n = if n ∈ r.written then Table.get {} r.s n else Table.get {} t n := by
  unfold commitRegs
  generalize r.written = l
  induction l generalizing t with
  | nil => simp
  | cons k l ih =>
    rw [List.foldl_cons, ih, Table.get_set]
    by_cases hl : n ∈ l
    · simp [hl]
    · by_cases hk : n = k <;> simp [hl, hk]

theorem commitRun_ctl (g : Group) (rd : Round) (b : Stream) (r : Run) : SameCtl (commitRun g rd b r) (g.withCtl r.ctl) := ⟨rfl, rfl, rfl, rfl, rfl, rfl⟩
theorem commitRun_lanes (g : Group) (rd : Round) (b : Stream) (r : Run) : (commitRun g rd b r).lanes = g.lanes := g.withCtl_lanes r.ctl

theorem nextCommit_both {rd : Round} {a b : Run} (ha : rd.a = some a) (hb : rd.b = some b) :
    rd.nextCommit = if !a.committed then (if a.ended then some .a else none) else if b.ended && !b.committed then some .b else none := by
  simp only [Round.nextCommit, ha, hb, Option.map_some, Option.getD_some]

/-- Settles O41: the laws of one commit, used twice. -/
theorem runsCommitTogether : Obligations.RunsCommitTogether := by
  intro g a b rd ha hb one c k mine
  have hk : SameCtl c k := by
    have h1 := commitRun_ctl one ((one.round).getD rd) .b b
    have h2 := (commitRun_ctl g rd .a a).withCtl b.ctl
    rw [← Group.withCtl_append] at h2
    exact ⟨h1.prio.trans h2.prio, h1.mark.trans h2.mark, h1.bank1.trans h2.bank1, h1.bank2.trans h2.bank2, h1.ss.trans h2.ss, h1.be.trans h2.be⟩
  have hone (n : Nat) : Table.get {} one.s n = if n ∈ a.written then Table.get {} a.s n else Table.get {} g.s n := get_commitRegs g.s a n
  have hc (n : Nat) : Table.get {} c.s n = if n ∈ b.written then Table.get {} b.s n else Table.get {} one.s n := get_commitRegs one.s b n
  refine ⟨hone, rfl, commitRun_lanes _ _ _ _, fun n hn => by rw [hc, if_pos hn], fun n hn hm => by rw [hc, if_neg hn, hone, if_pos hm],
    fun n hn hm => by rw [hc, if_neg hn, hone, if_neg hm], hk.prio, hk.mark, hk.bank1, hk.bank2, hk.ss, hk.be, rfl,
    (commitRun_lanes _ _ _ _).trans (commitRun_lanes _ _ _ _), ?_, ?_⟩
  · rw [nextCommit_both ha hb]
    cases a.committed <;> cases a.ended <;> simp
  · rw [nextCommit_both ha hb]
    cases a.committed <;> cases a.ended <;> simp

/-! ### A counter that has come to its threshold (R185) -/

/-- A lane whose ORDW has not come to an end, and whose next word waits for a counter. -/
def counterLane : Thread := { st := .live, waits := [(0, .ordw 0), (1, .cnt 0x1000 1 0)] }
def counterGroup : Group := { soleGroup with lanes := [counterLane], round := none }
def counterCtx : Context := { asid := 4095, desc := 1 }
/-- The state in which the counter, on a mapped page, holds its threshold. -/
def counterState : State :=
  { State.reset with
    groups := [counterGroup], ctxs := [counterCtx], tlb := [{ unit := 0, asid := 4095, vpn := 1, size := 0, pte := 0x101F#64 }]
    grids := [{ id := 0, slot := 0, asid := 4095, pkt := 1 <<< 128, nextTeam := 1 }], home := { mem := [(0x1000, 1)] } }

/-- The push of the counter does not wait behind the ORDW word. -/
theorem counterState_rechecked :
    (match exec (.cntwaitRecheck counterGroup.ref) counterState with
     | .next t => (t.group? counterGroup.ref).map fun x => (x.lane 0).waits
     | _ => none) = some [(0, .ordw 0)] := by decide +kernel

/-- Refutes O42: a lane waits at an ORDW word and, behind it, for a counter that has reached its threshold. The model makes the push of the counter
at once, since the wait of an ORDW word ends without one; the statement keeps the push behind it. -/
theorem not_boundaryEvents : ¬ Obligations.BoundaryEvents := by
  intro h
  obtain ⟨-, -, -, -, -, hcnt, -⟩ := h counterState counterGroup.ref counterGroup rfl
  obtain ⟨hdone, -⟩ := hcnt counterCtx (0x1000, 1, 0) 1 (by decide +kernel) (by decide +kernel) (by decide +kernel) (by decide +kernel)
  obtain ⟨t, x, hex, hx, hlanes⟩ := hdone (by decide +kernel)
  obtain ⟨-, -, hboth⟩ := hlanes 0 (by decide)
  have hnew := hboth 0 1 0 rfl
  have hw := counterState_rechecked
  rw [hex] at hw
  simp only [hx, Option.map_some, hnew] at hw
  exact absurd hw (by decide)

/-! ### The registers of a queue (R101, R103, R413, R431) -/

theorem onQueue_ready {s : State} {n : Nat} (hd : s.dev.state = 3) (hn : n < 64) (f : Queue → Queue) :
    s.onQueue n f = s.setQueue n (f (s.queue n)) := by
  simp [State.onQueue, Device.isReady, hd, hn]

/-- A QWRITE write within the ring (R101), and any other. -/
theorem writeQwrite_takes {q : Queue} {v : Word64} (hm : q.mode = false) (h0 : 0 < (v - q.write).toNat) (h1 : (v - q.write).toNat ≤ 2 ^ q.logn)
    (h2 : (v - q.read).toNat ≤ 2 ^ q.logn) : q.writeQwrite v = { q with write := v } := by
  simp only [Queue.writeQwrite, hm, decide_eq_false (Nat.ne_of_gt h0), decide_eq_false (Nat.not_lt.mpr h1), decide_eq_false (Nat.not_lt.mpr h2),
    Bool.or_self, Bool.false_eq_true, if_false]
theorem writeQwrite_keeps {q : Queue} {v : Word64}
    (h : q.mode = true ∨ (v - q.write).toNat = 0 ∨ 2 ^ q.logn < (v - q.write).toNat ∨ 2 ^ q.logn < (v - q.read).toNat) : q.writeQwrite v = q := by
  rw [Queue.writeQwrite, if_pos]
  rcases h with h | h | h | h <;> simp only [h, decide_true, Bool.true_or, Bool.or_true]

theorem qctlMask_en (v : Word64) : (qctlMask v).getLsbD 18 = v.getLsbD 18 := by
  rw [qctlMask, BitVec.getLsbD_and, show BitVec.getLsbD (0xFFFFF : Word64) 18 = true from rfl, Bool.and_true]

/-- A QCTL write that leaves EN at 1 changes nothing else. -/
theorem writeQctl_enabled {q : Queue} {v : Word64} (he : q.en = true) (hv : v.getLsbD 18 = true) (hm : (q.qctl ^^^ (v &&& 0xFFFFF)) &&& 0xBFFFF ≠ 0) :
    q.writeQctl v = q := by
  have hmoves : qctlMoves q.qctl (qctlMask v) = true := bne_iff_ne.mpr hm
  simp only [Queue.writeQctl, he, qctlMask_en, hv, Bool.and_self, if_true, hmoves]

/-- Any other takes the new value; where the ring moves, both indices go to 0. -/
theorem writeQctl_moved {q : Queue} {v : Word64} (h : (q.en && v.getLsbD 18) = false)
    (hr : decide ((q.qctl ^^^ (v &&& 0xFFFFF)) &&& 0x3FFFF ≠ 0) = true) :
    q.writeQctl v = { q with qctl := v &&& 0xFFFFF, read := 0, write := 0, head := none } := by
  have hmoves : ringMoves q.qctl (qctlMask v) = true := bne_iff_ne.mpr (of_decide_eq_true hr)
  simp only [Queue.writeQctl, qctlMask_en, h, Bool.false_eq_true, if_false, hmoves, if_true]
  rfl
theorem writeQctl_stays {q : Queue} {v : Word64} (h : (q.en && v.getLsbD 18) = false)
    (hr : decide ((q.qctl ^^^ (v &&& 0xFFFFF)) &&& 0x3FFFF ≠ 0) = false) :
    q.writeQctl v = { q with qctl := v &&& 0xFFFFF, head := none } := by
  have hmoves : ringMoves q.qctl (qctlMask v) = false := by
    rw [ringMoves, bne_eq_decide]
    exact hr
  simp only [Queue.writeQctl, qctlMask_en, h, Bool.false_eq_true, if_false, hmoves]
  rfl

section
variable {s : State} {n : Nat} {v : Word64}

/-- A register write of the physical function on a ready device. -/
theorem qwrite_pf (hd : s.dev.state = 3) (hn : n < 64) : exec (.qwriteWrite n ⟨0, v⟩) s = .next (s.setQueue n ((s.queue n).writeQwrite v)) := by
  rw [exec_qwriteWrite, execQwriteWrite]
  simp only [State.mayQwrite, decide_true, Bool.true_or, if_true, onQueue_ready hd hn]
  rfl
theorem qctl_pf (hd : s.dev.state = 3) (hn : n < 64) {c : Bool} (hc : c = true) :
    pfOnly 0 s (if c then some (s.onQueue n (·.writeQctl v)) else none) = .next (s.setQueue n ((s.queue n).writeQctl v)) := by
  simp only [pfOnly, hc, if_true, onQueue_ready hd hn]
  rfl
theorem qbase_pf (hd : s.dev.state = 3) (hn : n < 64) : exec (.qbaseWrite n ⟨0, v⟩) s = .next (s.setQueue n ((s.queue n).writeQbase v)) := by
  rw [exec_qbaseWrite, execQbaseWrite, pfOnly, if_pos rfl, onQueue_ready hd hn]
  rfl
/-- That of a virtual function is discarded (R431). -/
theorem pfOnly_vf {fn : Nat} (h : fn ≠ 0) (o : Option State) : pfOnly fn s o = .next s := by
  rw [pfOnly, if_neg h]
  rfl
end

/-- Settles O46: the write that each event makes, and what each write makes of its queue. -/
theorem queueRegisterWrites : Obligations.QueueRegisterWrites := by
  intro s n v hd hn q w becomes up ring
  have hctl {i : Instr} {c : Bool} (hi : exec i s = pfOnly 0 s (if c then some (s.onQueue n (·.writeQctl v)) else none)) (hc : c = true)
      (h : (q.en && v.getLsbD 18) = false) :
      (ring = false → becomes i { q with qctl := w, head := none }) ∧ (ring = true → becomes i { q with qctl := w, read := 0, write := 0, head := none }) :=
    ⟨fun hr => by rw [← writeQctl_stays h hr]; exact hi.trans (qctl_pf hd hn hc), fun hr => by rw [← writeQctl_moved h hr]; exact hi.trans (qctl_pf hd hn hc)⟩
  refine ⟨fun hm h0 h1 h2 => ?_, fun h => ?_, fun he hv => ?_, fun he hv => ?_, fun he hv => ?_, fun he hv hm => ?_, fun he => ?_, fun he hb => ?_, fun fn hf => ?_⟩
  · refine (qwrite_pf hd hn).trans ?_
    rw [writeQwrite_takes hm h0 h1 h2]
  · refine (qwrite_pf hd hn).trans ?_
    rw [writeQwrite_keeps h]
  · exact hctl (c := q.en && !v.getLsbD 18) rfl (by rw [he, hv]; rfl) (by rw [hv, Bool.and_false])
  · exact hctl (c := !q.en && v.getLsbD 18) rfl (by rw [he, hv]; rfl) (by rw [he, Bool.false_and])
  · exact hctl (c := q.en == v.getLsbD 18) rfl (by rw [he, hv]; rfl) (by rw [he, Bool.false_and])
  · refine (qctl_pf (c := q.en == v.getLsbD 18) hd hn (by rw [he, hv]; rfl)).trans ?_
    rw [writeQctl_enabled he hv hm]
  · refine (qbase_pf hd hn).trans ?_
    rw [Queue.writeQbase, if_pos (by rw [show (s.queue n).en = true from he]; rfl)]
  · refine (qbase_pf hd hn).trans ?_
    rw [Queue.writeQbase, if_neg (by rw [show (s.queue n).en = false from he, Bool.false_or, beq_iff_eq]; exact hb)]
  · refine ⟨pfOnly_vf hf _, pfOnly_vf hf _, pfOnly_vf hf _, pfOnly_vf hf _, fun ho => ?_, fun ho => ?_⟩
    · simp only [exec_qwriteWrite, execQwriteWrite, State.mayQwrite, ho, Bool.or_true, decide_true, Bool.true_or]
    · simp only [exec_qwriteWrite, execQwriteWrite, State.mayQwrite, ho, hf, decide_false, Bool.or_self, Bool.false_eq_true, if_false]
      rfl

end Sys2Proof.Machine
end

section
/-!
PROOF. The distributor: queue heads and the start of grids (05 R106 to R111), the placement of teams and what a new group holds (05 R113 to R117,
04 R75, R77), team swap and the completion of a kill (05 R122 to R126, 18 R451).
-/
namespace Sys2Proof.Machine
open Sys2Proof

/-! ### Finding what has been put back -/

/-- A search through a list of replaced elements, where a replacement keeps what is searched by. -/
theorem find?_map_keeps {α : Type} (l : List α) (f : α → α) (p : α → Bool) (h : ∀ x, p (f x) = p x) : (l.map f).find? p = (l.find? p).map f := by
  rw [List.find?_map]
  congr 1
  exact congrArg (fun q => l.find? q) (funext h)

theorem State.grid?_id {s : State} {n : Nat} {g : Grid} (h : s.grid? n = some g) : g.id.toNat = n := by simpa using List.find?_some h
theorem State.team?_ref {s : State} {r : TRef} {t : Team} (h : s.team? r = some t) : t.ref = r := by simpa using List.find?_some h

theorem State.grid?_setGrid {s : State} {n : Nat} {g x : Grid} (h : s.grid? n = some g) (hx : x.id = g.id) : (s.setGrid x).grid? n = some x := by
  have hid := State.grid?_id h
  have hkeep : ∀ y : Grid, (fun z : Grid => decide (z.id.toNat = n)) (if y.id = x.id then x else y) = (fun z : Grid => decide (z.id.toNat = n)) y := by
    intro y
    by_cases hy : y.id = x.id
    · simp only [hy, if_true]
    · simp only [if_neg hy]
  rw [State.grid?, State.setGrid, find?_map_keeps _ _ _ hkeep, show s.grids.find? _ = some g from h, Option.map_some, if_pos hx.symm]
theorem State.team?_setTeam {s : State} {r : TRef} {t x : Team} (h : s.team? r = some t) (hx : x.ref = t.ref) : (s.setTeam x).team? r = some x := by
  have hkeep : ∀ y : Team, (fun z : Team => decide (z.ref = r)) (if y.ref = x.ref then x else y) = (fun z : Team => decide (z.ref = r)) y := by
    intro y
    by_cases hy : y.ref = x.ref
    · simp only [hy, if_true]
    · simp only [if_neg hy]
  rw [State.team?, State.setTeam, find?_map_keeps _ _ _ hkeep, show s.teams.find? _ = some t from h, Option.map_some, if_pos hx.symm]

/-- A queue set is read back, and every other queue is as it was. -/
theorem State.queue_setQueue (s : State) (n k : Nat) (q : Queue) : (s.setQueue n q).queue k = if k = n then q else s.queue k := by
  simp [State.queue]

/-! ### Contexts after a charge (R428) -/

/-- A charge keeps every valid context valid. -/
theorem State.chargeLine_ctx? (s : State) (a k p asid : Nat) : ((s.chargeLine a k p).ctx? asid).isSome = (s.ctx? asid).isSome := by
  rw [State.chargeLine]
  split
  · rfl
  · simp only [State.ctx?, State.charge]
    rw [find?_map_keeps, Option.isSome_map]
    intro c
    split <;> rfl
theorem State.chargeLines_ctx? (s : State) (a k asid : Nat) (l : List Nat) : ((s.chargeLines a k l).ctx? asid).isSome = (s.ctx? asid).isSome := by
  unfold State.chargeLines
  induction l generalizing s with
  | nil => rfl
  | cons p l ih => exact (ih (s.chargeLine a k p)).trans (s.chargeLine_ctx? a k p asid)

/-! ### Queue heads (R106 to R111) -/

/-- A head without dependences is ready as its dependences are read. -/
theorem checkDeps_none {s : State} {n : Nat} {h : Head} (hh : (s.queue n).head = some h) (hc : (s.ctx? (s.queue n).asid).isSome)
    (hdep : pkDepN h.pkt = 0) (hmet : h.met = []) (hr : h.ready = none) :
    s.checkDeps n = s.setQueue n { s.queue n with head := some { h with met := [], ready := some s.cycle } } := by
  obtain ⟨c, hc⟩ := Option.isSome_iff_exists.mp hc
  simp only [State.checkDeps, hh, hc, hdep, hmet, hr, List.range_zero, List.filter_nil, List.map_nil, List.flatMap_nil, State.linesOpen, List.all_nil,
    Bool.not_true, Bool.false_eq_true, if_false, State.chargeLines, List.foldl_nil, List.find?_nil, List.append_nil, List.length_nil, if_true,
    Option.none_or]

/-- An event that finds its step takes it. -/
theorem event_some {s t : State} {o : Option State} (h : o = some t) : event s o = .next t := by rw [h]; rfl

/-- An enabled queue that has a packet and no head: what its examination comes to. -/
theorem headStep_eq {s : State} {n : Nat} {c : Context} (hc : s.ctx? (s.queue n).asid = some c) (hd : s.dev.state = 3) (he : (s.queue n).en = true)
    (hh : (s.queue n).head = none) (hrw : (s.queue n).read ≠ (s.queue n).write) :
    headStep s n =
      let q := s.queue n
      let va := q.slot q.read.toNat
      match s.waitZero hostUnit c .read va 128 with
      | some s => some s
      | none =>
        match s.readVa hostUnit c va 128 with
        | none =>
          let cls := s.walkClass c.asid
          if !s.linesOpen c.asid cls (s.vaLines hostUnit c .read va) then some s.bump
          else some (((s.chargeVa hostUnit c cls va).consume n).record q.asid { kind := 1, final := 33, addr := va })
        | some bs =>
          let p : Packet := BitVec.ofNat 1024 (leNat bs)
          let lines := s.vaLines hostUnit c .read va ++ s.vaLines hostUnit c .read (va + 64)
          if !s.linesOpen c.asid (pkClass p) lines then some s.bump else
          let s := (s.chargeVa hostUnit c (pkClass p) va).chargeVa hostUnit c (pkClass p) (va + 64)
          if !packetOk p then some (s.rejectHead n 33 va p)
          else some ((s.setQueue n { q with head := some { pkt := p, at_ := va } }).checkDeps n) := by
  simp only [headStep, hc, Option.bind_some, hd, he, hh, ne_eq, not_true_eq_false, decide_false, Bool.not_true, Bool.or_false, Option.isSome_none,
    beq_eq_false_iff_ne.mpr hrw, Bool.false_eq_true, if_false] <;> rfl

/-- The start of the first ready head (R111). -/
theorem gridStartStep_eq {s : State} {n r slot : Nat} {h : Head} (hd : s.dev.state = 3)
    (hm : argMin (fun (x : Nat × Head × Nat) => s.headKey x.1 x.2.1 x.2.2) s.readyHeads = some (n, h, r)) (hslot : s.freeGridSlot = some slot) :
    gridStartStep s = some (({ s.consume n with
      grids := s.grids ++ [{ id := s.dev.gridIds, slot := slot, asid := (s.queue n).asid, pkt := h.pkt }]
      dev := { s.dev with gridIds := s.dev.gridIds + 1 } } : State).fixWish s.dev.gridIds.toNat) := by
  rw [gridStartStep, if_neg (not_not.mpr hd), hm, hslot]
  rfl

/-- Settles O43: each branch of the examination, of the rejection, and of the start. -/
theorem queueHeadEvents : Obligations.QueueHeadEvents := by
  intro s n q va
  refine ⟨fun c hc hd he hh hrw => ?_, fun k a p => ?_, fun h hh hr => ?_, fun h r slot hd hm hslot => ?_⟩
  · have hstep := headStep_eq hc hd he hh hrw
    refine ⟨fun t ht => event_some ?_, fun hw => ⟨fun hv => ⟨fun hcl => event_some ?_, fun hop => event_some ?_⟩, fun bs hbs => ?_⟩⟩
    · simp only [hstep, show s.waitZero hostUnit c .read ((s.queue n).slot (s.queue n).read.toNat) 128 = some t from ht]
    all_goals
      have hw : s.waitZero hostUnit c .read ((s.queue n).slot (s.queue n).read.toNat) 128 = none := hw
    · have hv : s.readVa hostUnit c ((s.queue n).slot (s.queue n).read.toNat) 128 = none := hv
      have hcl : s.linesOpen c.asid (s.walkClass c.asid) (s.vaLines hostUnit c .read ((s.queue n).slot (s.queue n).read.toNat)) = false := hcl
      simp only [hstep, hw, hv, hcl, Bool.not_false, if_true]
    · have hv : s.readVa hostUnit c ((s.queue n).slot (s.queue n).read.toNat) 128 = none := hv
      have hop : s.linesOpen c.asid (s.walkClass c.asid) (s.vaLines hostUnit c .read ((s.queue n).slot (s.queue n).read.toNat)) = true := hop
      simp only [hstep, hw, hv, hop, Bool.not_true, Bool.false_eq_true, if_false]
      rfl
    · intro p open_ s1
      have hbs : s.readVa hostUnit c ((s.queue n).slot (s.queue n).read.toNat) 128 = some bs := hbs
      have hread : headStep s n = if !open_ then some s.bump else if !packetOk p then some (s1.rejectHead n 33 va p)
          else some ((s1.setQueue n { q with head := some { pkt := p, at_ := va } }).checkDeps n) := by
        simp only [hstep, hw, hbs]
        rfl
      refine ⟨fun hcl => event_some ?_, fun hop hp => event_some ?_, fun hop hp hdep => ?_⟩
      · rw [hread, hcl]
        rfl
      · rw [hread, hop, hp]
        rfl
      · obtain ⟨l1, hl1⟩ := s.chargeVa_eq hostUnit c (pkClass p) va
        obtain ⟨l2, hl2⟩ := (s.chargeVa hostUnit c (pkClass p) va).chargeVa_eq hostUnit c (pkClass p) (va + 64)
        have hs1 : s1 = { s with ctxs := l2 } := hl2.trans (by rw [hl1])
        have hq : (s1.setQueue n { q with head := some { pkt := p, at_ := va } }).queue n = { q with head := some { pkt := p, at_ := va } } :=
          (s1.queue_setQueue n n _).trans (if_pos rfl)
        have hctx : (s1.ctx? q.asid).isSome = true := by
          refine ((s.chargeVa hostUnit c (pkClass p) va).chargeLines_ctx? _ _ _ _).trans ((s.chargeLines_ctx? _ _ _ _).trans ?_)
          rw [hc]
          rfl
        have hdeps := checkDeps_none (s := s1.setQueue n { q with head := some { pkt := p, at_ := va } }) (n := n) (h := { pkt := p, at_ := va })
          (by rw [hq]) (by rw [hq]; exact hctx) hdep rfl rfl
        refine ⟨(s1.setQueue n { q with head := some { pkt := p, at_ := va } }).checkDeps n, event_some (hread.trans ?_), ?_, fun k hk => ?_, ?_⟩
        · rw [hop, hp]
          rfl
        · rw [hdeps]
          rfl
        · rw [hdeps, State.queue_setQueue, if_neg hk, State.queue_setQueue, if_neg hk, hs1]
          rfl
        · rw [hdeps, State.queue_setQueue, if_pos rfl, hq, hs1]
          rfl
  · intro t
    refine ⟨fun hp => ?_, fun hp hw => ?_⟩
    · simp only [State.rejectHead, hp, Bool.false_eq_true, if_false]
      rfl
    · simp only [State.rejectHead, hp, if_true]
      rw [hw]
  · refine event_some ?_
    simp only [show (s.queue n).head = some h from hh, Option.map_some, hr, Option.isNone_none, Option.getD_some, if_true]
  · refine ⟨_, event_some (gridStartStep_eq hd hm hslot), rfl, rfl, rfl, ?_, fun k hk => ?_⟩
    · exact (s.queue_setQueue n n _).trans (if_pos rfl)
    · exact (s.queue_setQueue n k _).trans (if_neg hk)

/-! ### Placement (R113 to R117) -/

section
variable {s : State} {grid : Nat} {g : Grid} {c : Context}

theorem State.gridCtx?_of (hg : s.grid? grid = some g) (hc : s.ctx? g.asid = some c) : s.gridCtx? grid = some c := by
  rw [State.gridCtx?, hg]
  exact hc

theorem hasNext_true (hg : s.grid? grid = some g) (hk : g.kill = none) (he : g.ended = false) (hT : g.nextTeam < pkTeams g.pkt)
    (hout : (s.swappedOut grid).any (·.asking) = false) (hser : pkSerial g.pkt = true → s.residents grid = []) : s.hasNext g = true := by
  have hid := State.grid?_id hg
  have hbusy : s.serialBusy g = false := by
    rw [State.serialBusy, hid]
    cases h : pkSerial g.pkt
    · rfl
    · rw [hser h]
      rfl
  simp only [State.hasNext, hk, he, hid, hout, hbusy, Option.isSome_none, decide_eq_false (Nat.not_le.mpr hT), Bool.or_self, Bool.not_false]

/-- The preference of the next team is fixed (R113). -/
theorem fixWish_ok (hg : s.grid? grid = some g) (hc : s.ctx? g.asid = some c) (hw : g.wish = none) (hT : g.nextTeam < pkTeams g.pkt) {f : Pref}
    (hf : s.prefOf c g.pkt g.nextTeam = .ok f) :
    s.fixWish grid = (s.setGrid { g with wish := some { pref := f } }).chargePref c g.pkt g.nextTeam := by
  simp only [State.fixWish, hg, State.gridCtx?_of hg hc, hw, hf, Option.isSome_none, decide_eq_false (Nat.not_le.mpr hT), Bool.or_self,
    Bool.false_eq_true, if_false]

/-- A preference taken counts a line; grids and teams stay. -/
theorem State.chargePref_eq (s : State) (c : Context) (p : Packet) (T : Nat) : ∃ l, s.chargePref c p T = { s with ctxs := l } := by
  rw [State.chargePref]
  split
  · exact s.chargeVa_eq _ _ _ _
  · exact ⟨s.ctxs, rfl⟩

theorem nextAt_none {w : Wish} (h : s.freeFrame g = none ∨ s.findPlace g.pkt [] w.pref w.expired = none) : s.nextAt g w = none := by
  rw [State.nextAt]
  rcases h with h | h
  · rw [h]
    rfl
  · rw [h]
    cases s.freeFrame g <;> rfl
theorem nextAt_some {w : Wish} {frame core : Nat} (hf : s.freeFrame g = some frame) (hp : s.findPlace g.pkt [] w.pref w.expired = some core) :
    s.nextAt g w = some (frame, core) := by
  rw [State.nextAt, hf, hp]
  rfl
end

/-- The wait of a team that has lasted its 2048 cycles is over. -/
theorem Wish.expire_due {w : Wish} {n now : Nat} (hs : w.since = some n) (h : n + 2048 ≤ now) : w.expire now = { w with expired := true } := by
  simp only [Wish.expire, hs, Option.map_some, Option.getD_some, h, decide_true, if_true]

theorem prefOf_linear {s : State} {c : Context} {p : Packet} {T : Nat} (h1 : pkAff p ≠ 1) (h2 : pkAff p ≠ 2) : s.prefOf c p T = .ok (linearPref T) := by
  unfold State.prefOf
  split
  case h_1 h => exact absurd h h1
  case h_2 h => exact absurd h h2
  case h_3 => rfl

/-- A table written once at each of several places. -/
theorem newGroup_lane (p : Packet) (grid T k : Nat) {L : Nat} (hL : L < 128) :
    (newGroup p grid T k).lane L = { st := if 128 * k + L < pkThreads p then .live else .never, pc := pkCode p,
                                      v := Table.set {} [] 0 { w := BitVec.ofNat 32 L } } := by
  have hlen : L < (newGroup p grid T k).lanes.length := by simp [newGroup, hL]
  rw [Group.lane_of_lt _ hlen]
  simp [newGroup]

theorem get_nil {α : Type} (d : α) (n : Nat) : Table.get d [] n = d := rfl

/-- Settles O44: placement by its branches, and the new group register by register. -/
theorem placementEvents : Obligations.PlacementEvents := by
  refine ⟨fun s grid g c hg hc => ?_, fun p grid T k => ?_⟩
  · intro p T
    have hid := State.grid?_id hg
    refine ⟨fun hk he hT hout hser => ?_, fun h1 h2 => prefOf_linear h1 h2, ?_⟩
    · have hnext := hasNext_true hg hk he hT hout hser
      have hstep : placeStep s grid = match g.wish with
          | none => some (s.fixWish grid)
          | some w => match s.nextAt g w with
            | none => some (s.setGrid { g with wish := some { w with since := w.since.or (some s.cycle) } })
            | some (frame, core) =>
              if s.yields g then none
              else
                let t : Team := { ref := { grid := grid, team := T }, tx := (teamXyz p T).1, ty := (teamXyz p T).2.1, tz := (teamXyz p T).2.2,
                                  frame := frame, core := core, quad := pkQuad p, prefDie := w.pref.die, prefSlice := w.pref.slice,
                                  bases := (s.room p [] core).getD [0], size := partBytes p, serial := s.serials }
                let s1 := s.setGrid { g with nextTeam := T + 1, wish := none, waiting := none }
                let s2 : State := { s1 with teams := s1.teams ++ [t], serials := s1.serials + 1,
                                            groups := s1.groups ++ (List.range (pkGroups p)).map (newGroup p grid T) }
                some ((((s2.seat t).freshen t).fixWish grid).tryExitAll t.ref) := by
        rw [placeStep, hg, Option.bind_some, hnext]
        rfl
      refine ⟨fun f hw hf => ?_, fun w hw => ⟨fun h => event_some ?_, fun frame core hfr hpl hy => event_some ?_⟩⟩
      · obtain ⟨l, hl⟩ := (s.setGrid { g with wish := some { pref := f } }).chargePref_eq c p T
        have hfix := (fixWish_ok hg hc hw hT hf).trans hl
        refine ⟨_, event_some (hstep.trans (by rw [hw])), ?_, ?_⟩
        · rw [hfix]
          exact State.grid?_setGrid (x := { g with wish := some { pref := f } }) hg rfl
        · rw [hfix]
          rfl
      · rw [hstep, hw]
        simp only [nextAt_none h]
      · rw [hstep, hw]
        simp only [nextAt_some hfr hpl, hy, Bool.false_eq_true, if_false]
    · refine ⟨_, event_some rfl, fun w n hw hn hle => ?_, fun tm x w n hx htm hw hn hle => ?_⟩
      · have hkeep : ∀ y : Grid, decide ((if y.id.toNat = grid then { y with wish := y.wish.map (Wish.expire s.cycle) } else y).id.toNat = grid) =
            decide (y.id.toNat = grid) := by
          intro y
          split <;> rfl
        refine (find?_map_keeps s.grids _ _ hkeep).trans ?_
        rw [show s.grids.find? _ = some g from hg, Option.map_some, if_pos hid, hw, Option.map_some, Wish.expire_due hn hle]
      · have hkeep : ∀ y : Team, decide ((if y.ref.grid = grid then { y with wish := y.wish.map (Wish.expire s.cycle) } else y).ref = tm) =
            decide (y.ref = tm) := by
          intro y
          split <;> rfl
        have href := State.team?_ref hx
        refine (find?_map_keeps s.teams _ _ hkeep).trans ?_
        rw [show s.teams.find? _ = some x from hx, Option.map_some, if_pos (by rw [href, htm]), hw, Option.map_some, Wish.expire_due hn hle]
  · intro g role xyz
    have hs (n : Nat) : Table.get {} g.s n = if n = 4 then { w := BitVec.ofNat 64 ((T * pkGroups p + k) * 128) } else
        if n = 3 then { w := BitVec.ofNat 64 (k + role * 2 ^ 8 + (k - pkRoleBase p role) * 2 ^ 16) } else
        if n = 2 then { w := BitVec.ofNat 64 (xyz.1 + xyz.2.1 * 2 ^ 21 + xyz.2.2 * 2 ^ 42) } else
        if n = 1 then { w := BitVec.ofNat 64 T } else if n = 0 then { w := BitVec.ofNat 64 (pkArgs p).toNat } else {} := by
      simp only [g, newGroup, Table.get_set, get_nil]
      rfl
    refine ⟨rfl, rfl, by simp [g, newGroup], by rw [hs]; rfl, by rw [hs]; rfl, by rw [hs]; rfl, by rw [hs]; rfl, by rw [hs]; rfl, fun n hn => ?_, fun L hL => ?_⟩
    · rw [hs]
      simp only [show n ≠ 4 by omega, show n ≠ 3 by omega, show n ≠ 2 by omega, show n ≠ 1 by omega, show n ≠ 0 by omega, if_false]
    · rw [newGroup_lane p grid T k hL]
      refine ⟨fun h => if_pos h, rfl, fun h => if_neg (Nat.not_lt.mpr h), ?_, fun n hn => ?_, fun n => rfl, rfl, rfl, rfl, rfl⟩
      · simp [Thread.vreg]
      · simp [Thread.vreg, Nat.ne_of_gt hn, get_nil]

/-! ### Team swap (R122 to R125) -/

/-- The trigger of a grid whose teams have waited long enough. -/
theorem swapTriggerStep_eq {s : State} {grid n : Nat} {g : Grid} (hg : s.grid? grid = some g) (hk : g.kill = none) (hw : g.waiting = some n)
    (hn : n + 65536 ≤ s.cycle) (hl : (s.residents grid).any (·.leaving) = false) (hwait : s.waitingGrid grid = true) :
    swapTriggerStep s grid =
      let out (s' : State) : State := match highestTeam (s.residents grid) with
        | some t => s'.setTeam { t with leaving := true }
        | none => s'
      let s1 := s.setGrid { g with waiting := none }
      if g.nextTeam < pkTeams g.pkt then if (s1.freeFrame g).isSome then some (out s1) else none
      else (lowestTeam (s1.swappedOut grid)).map fun t =>
        if s1.roomAnywhere g t then s1.setTeam { t with asking := true } else out (s1.setTeam { t with asking := true }) := by
  simp only [swapTriggerStep, hg, hw, Option.bind_some, hk, hl, hwait, Option.isSome_none, decide_eq_false (Nat.not_lt.mpr hn), Bool.not_true,
    Bool.or_self, Bool.false_eq_true, if_false] <;> rfl

/-! ### What a write at the homes leaves (R322, R326) -/

theorem State.homeWrite_eq (s : State) (m : TaintMode) (pa : Nat) (bs : List Byte) : ∃ h, s.homeWrite m pa bs = { s with home := h } := by
  unfold State.homeWrite
  split
  · exact ⟨s.home, rfl⟩
  · split
    · exact ⟨_, rfl⟩
    · exact ⟨s.home, rfl⟩

theorem postList_eq (p : GStore → Bool) (s : State) (l : List GStore) : ∃ h, (postList p s l).1 = { s with home := h } := by
  induction l generalizing s with
  | nil => exact ⟨s.home, rfl⟩
  | cons st rest ih =>
    rw [postList]
    split
    · obtain ⟨h1, e1⟩ := s.homeWrite_eq (if st.det then .det st.t else .outside) st.pa st.bytes
      obtain ⟨h2, e2⟩ := ih (s.postOne st).1
      refine ⟨h2, e2.trans ?_⟩
      rw [State.postOne, e1]
    · exact ih s

/-- A posting changes the homes and the stores alone. -/
theorem State.postWhere_eq (s : State) (p : GStore → Bool) : ∃ h l, s.postWhere p = { s with home := h, stores := l } := by
  obtain ⟨h, e⟩ := postList_eq p s s.stores
  refine ⟨h, (postList p s s.stores).2, ?_⟩
  rw [State.postWhere]
  simp only [e]

/-! ### A team leaves (R124) -/

/-- A save without engines changes nothing. -/
theorem saveBf_none {s : State} {c : Context} {g : Grid} {t : Team} (h : s.heldBf t = []) : s.saveBf c g t = (s, t) := by
  rw [State.saveBf, h]
  rfl

/-- The register lines of groups that hold none. -/
theorem linesIn_nil {s : State} {tm : TRef} (h : s.fileLines tm = []) : ∀ x ∈ s.teamGroups tm, x.linesIn = [] :=
  fun x hx => List.map_eq_nil_iff.mp (List.flatMap_eq_nil_iff.mp h x hx)

/-- Groups without lines in the file have nothing to write back. -/
theorem foldl_lines_none {l : List Group} (h : ∀ x ∈ l, x.linesIn = []) (f : Group → State → Nat → State) (s : State) :
    l.foldl (fun s x => x.linesIn.foldl (fun s k => f x s k) s) s = s := by
  induction l generalizing s with
  | nil => rfl
  | cons x l ih =>
    rw [List.foldl_cons, h x List.mem_cons_self]
    exact ih (fun y hy => h y (List.mem_cons_of_mem x hy)) s

section
variable {s : State} {g : Grid} {c : Context} {t : Team}

theorem swapOutStep_stays (hg : s.grid? t.ref.grid = some g) (hc : s.ctx? g.asid = some c) (ht : s.team? t.ref = some t) (hk : g.kill = none)
    (hl : t.leaving = true) (hgo : (s.beginLeave t.ref).mayGo t.ref t = false) : swapOutStep s t.ref = some (s.beginLeave t.ref) := by
  simp only [swapOutStep, ht, hg, hc, Option.bind_some, hl, hk, hgo, Option.isSome_none, Bool.not_true, Bool.or_self, Bool.false_eq_true, if_false,
    Bool.not_false, if_true]

/-- A team that may go, holds no engine and no line in the file, and whose swap slot is reached. -/
theorem swapOutStep_goes (hg : s.grid? t.ref.grid = some g) (hc : s.ctx? g.asid = some c) (ht : s.team? t.ref = some t) (hk : g.kill = none)
    (hl : t.leaving = true) (hgo : (s.beginLeave t.ref).mayGo t.ref t = true) (hbf : (s.beginLeave t.ref).heldBf t = [])
    (hfile : (s.beginLeave t.ref).fileLines t.ref = [])
    (hreach : (s.beginLeave t.ref).reach c t.core .write (pagesOf (swapVa g.pkt t.frame) (pkRangeBytes g.pkt)) = .ok ()) :
    swapOutStep s t.ref =
      let s1 := s.beginLeave t.ref
      let va := swapVa g.pkt t.frame
      let own := s1.regCost c t.core .write va (List.range (pkRangeBytes g.pkt))
      if t.rangePoison g.pkt then some (s1.killTeamAt t.ref 32)
      else if !s1.linesOpen c.asid (pkClass g.pkt) own then some s1.bump
      else
        let s2 := ((s1.postTeam t.ref).chargeLines c.asid (pkClass g.pkt) own).regWrite c t.core va (rangeBytes g.pkt t)
        let s3 := s2.setTeam { t with resident := false, leaving := false, asking := false, wish := none }
        some { s3 with groups := s3.groups.map fun x => if x.ref.tref = t.ref then x.leave else x } := by
  simp only [swapOutStep, ht, hg, hc, Option.bind_some, hl, hk, Option.isSome_none, Bool.not_true, Bool.or_self, Bool.false_eq_true, if_false]
  generalize s.beginLeave t.ref = s1 at hgo hbf hfile hreach ⊢
  generalize hva : swapVa g.pkt t.frame = va at hreach ⊢
  generalize hown : s1.regCost c t.core .write va (List.range (pkRangeBytes g.pkt)) = own
  obtain ⟨h, l, hpost⟩ := s1.postWhere_eq fun st => decide (st.g.tref = t.ref)
  obtain ⟨x, hcharge⟩ := (s1.postTeam t.ref).chargeLines_eq c.asid (pkClass g.pkt) own
  have heq : (s1.postTeam t.ref).chargeLines c.asid (pkClass g.pkt) own = { s1 with home := h, stores := l, ctxs := x } :=
    hcharge.trans (by rw [State.postTeam, hpost])
  have hsave : ((s1.postTeam t.ref).chargeLines c.asid (pkClass g.pkt) own).saveBf c g t =
      ((s1.postTeam t.ref).chargeLines c.asid (pkClass g.pkt) own, t) := saveBf_none (by rw [heq]; exact hbf)
  have hlines : ∀ y ∈ ((s1.postTeam t.ref).chargeLines c.asid (pkClass g.pkt) own).teamGroups t.ref, y.linesIn = [] := by
    rw [heq]
    exact linesIn_nil hfile
  have hbind (f : Unit → Except (Option Word64) Unit) : (Except.ok () : Except (Option Word64) Unit).bind f = f () := rfl
  simp only [hgo, hbf, hfile, hreach, hown, bfSaved, List.map_nil, List.foldl_nil, List.flatMap_nil, List.nil_append, List.append_nil, State.bfCost,
    State.bfReach, hbind, hsave, foldl_lines_none hlines, Bool.not_true, Bool.false_eq_true, if_false]
end

end Sys2Proof.Machine
end

section
/-!
PROOF. Team swap and the completion of a kill (05 R122 to R126, 18 R451).
-/
namespace Sys2Proof.Machine
open Sys2Proof

/-- The branches of a test that a wait makes. -/
theorem bnot_pos {b : Bool} (h : b = false) : (!b) = true := by rw [h]; rfl
theorem bnot_neg {b : Bool} (h : b = true) : ¬(!b) = true := by rw [h]; decide

/-! ### A team comes back (R125) -/

section
variable {s : State} {g : Grid} {c : Context} {t : Team}

/-- The team that comes back next, without engines. -/
theorem comingBack_eq (hk : g.kill = none) (he : g.ended = false) (hs : s.serialBusy g = false) (hid : g.id.toNat = t.ref.grid)
    (hlow : lowestTeam ((s.swappedOut t.ref.grid).filter (·.asking)) = some t) : s.comingBack g = some t := by
  simp only [State.comingBack, hk, he, hs, hid, hlow, Option.isSome_none, Bool.or_self, Bool.false_eq_true, if_false]

theorem resumeStep_eq (hg : s.grid? t.ref.grid = some g) (hc : s.ctx? g.asid = some c) (hback : s.comingBack g = some t) (hbf : t.savedBf = []) :
    resumeStep s t.ref = match t.wish with
      | none => match s.prefOf c g.pkt t.ref.team with
        | .ok f => some ((s.setTeam { t with wish := some { pref := f } }).chargePref c g.pkt t.ref.team)
        | .error s => some s
      | some w => match s.findPlace g.pkt [] w.pref w.expired with
        | none => some (s.setTeam { t with wish := some { w with since := w.since.or (some s.cycle) } })
        | some core =>
          if s.yields g then none
          else
            let va := swapVa g.pkt t.frame
            let l := List.range (pkRangeBytes g.pkt)
            match s.reach c core .read (pagesOf va (pkRangeBytes g.pkt)) with
            | .error (some va) => some (s.startZero c va)
            | .error none => some (s.killTeamAt t.ref 32)
            | .ok _ =>
              let lines := s.regCost c core .read va l
              if s.regPoison c core va l then some (s.killTeamAt t.ref 32)
              else if !s.linesOpen c.asid (pkClass g.pkt) lines then some s.bump
              else
                let t1 : Team := { Team.withRange g.pkt (s.regByte c core va) { t with core := core } with
                  bases := (s.room g.pkt [] core).getD [0], prefDie := w.pref.die, prefSlice := w.pref.slice,
                  resident := true, asking := false, wish := none, savedBf := [] }
                some (((((s.chargeLines c.asid (pkClass g.pkt) lines).setTeam t1).setGrid { g with waiting := none }).seat t1).freshen t1) := by
  have hbind (r : Except (Option Word64) Unit) : ((Except.ok () : Except (Option Word64) Unit).bind fun _ => r) = r := rfl
  have hfilter : (some t).filter (fun x => x.ref == t.ref) = some t := by simp [Option.filter]
  rw [resumeStep, hg, Option.bind_some, hc, Option.bind_some, hback, hfilter, Option.bind_some]
  cases hw : t.wish with
  | none => rfl
  | some w =>
    simp only [State.backAt, hw, Option.bind_some, hbf, List.map_nil]
    cases s.findPlace g.pkt [] w.pref w.expired with
    | none => rfl
    | some core =>
      simp only [State.bfNamed, State.bfCost, State.bfReach, State.restoreWaits, State.restoreBf, Team.withRange, hbf, List.map_nil, List.foldl_nil,
        List.flatMap_nil, List.append_nil, List.any_nil, Bool.or_false, List.findSome?_nil, Option.none_or, hbind] <;> rfl
end

/-! ### The end of a killed grid (R451) -/

theorem killCompleteStep_eq {s : State} {grid : Nat} {g : Grid} {r : FaultRec} (hg : s.grid? grid = some g) (hk : g.kill = some r)
    (he : g.ended = false) (hb : s.killBusy grid = false) (hw : s.killWaits g = false) :
    killCompleteStep s grid = match s.savedCmd grid with
      | some (t, i, c) => some (s.cancelSaved t i c)
      | none => (s.counterWaits g.asid hostUnit (pkClass g.pkt) (pkCcnt g.pkt)).or <| some <|
        let s1 := s.postGrid grid
        let s2 : State := { s1 with
          teams := s1.teams.filter fun t => decide (t.ref.grid ≠ grid)
          groups := s1.groups.filter fun x => decide (x.ref.grid ≠ grid)
          sheets := s1.sheets.filter fun x => decide (x.team.grid ≠ grid)
          grids := s1.grids.filter fun x => decide (x.id ≠ g.id) }
        (s2.gridCounter g.asid g.id (pkCcnt g.pkt) failMark).record g.asid r := by
  rw [killCompleteStep, hg, Option.bind_some, hk, Option.bind_some, he, hb, hw]
  rfl

/-- Settles O45: the trigger, the swap-out, the return and the completion of a kill, each by its branches. -/
theorem swapAndKillEvents : Obligations.SwapAndKillEvents := by
  intro s grid g hg res cls
  refine ⟨fun n t hk hw hn hl hwait => ?_, fun c t hc ht htg hk => ?_, fun r x i q hk he hb hw hsv => event_some ?_, fun r hk he hb hw hsv => ?_⟩
  · have hstep := swapTriggerStep_eq hg hk hw hn hl hwait
    intro s1
    refine ⟨fun hT hf hh => event_some ?_, fun hT hlow => ?_⟩
    · simp only [hstep, hT, if_true, show ((s.setGrid { g with waiting := none }).freeFrame g).isSome = true from hf,
        show highestTeam (s.residents grid) = some t from hh]
      rfl
    · intro s2
      have hlow' : lowestTeam ((s.setGrid { g with waiting := none }).swappedOut grid) = some t := hlow
      refine ⟨fun hroom => event_some ?_, fun x hroom hh => event_some ?_⟩
      · simp only [hstep, if_neg (Nat.not_lt.mpr hT), hlow', Option.map_some,
          show (s.setGrid { g with waiting := none }).roomAnywhere g t = true from hroom, if_true]
        rfl
      · simp only [hstep, if_neg (Nat.not_lt.mpr hT), hlow', Option.map_some,
          show (s.setGrid { g with waiting := none }).roomAnywhere g t = false from hroom, Bool.false_eq_true, if_false,
          show highestTeam (s.residents grid) = some x from hh]
        rfl
  · subst htg
    intro va n
    refine ⟨fun hl => ?_, fun he hser hlow hbf => ?_⟩
    · intro s1
      refine ⟨fun hgo => event_some (swapOutStep_stays hg hc ht hk hl hgo), fun hgo hb hfile hreach => ?_⟩
      have hstep := swapOutStep_goes hg hc ht hk hl hgo hb hfile hreach
      refine ⟨fun hp => event_some (hstep.trans (if_pos hp)), fun hp => ?_⟩
      intro own
      have hstep2 := hstep.trans (if_neg (Bool.eq_false_iff.mp hp))
      refine ⟨fun hcl => event_some (hstep2.trans (if_pos (bnot_pos hcl))), fun hop => ?_⟩
      intro s2 hs2
      obtain ⟨t2, ht2⟩ := Option.isSome_iff_exists.mp hs2
      have hteam : (s2.setTeam { t with resident := false, leaving := false, asking := false, wish := none }).team? t.ref =
          some { t with resident := false, leaving := false, asking := false, wish := none } :=
        State.team?_setTeam ht2 (State.team?_ref ht2).symm
      exact ⟨_, event_some (hstep2.trans (if_neg (bnot_neg hop))), rfl, hteam⟩
    · have hback := comingBack_eq hk he hser (State.grid?_id hg) hlow
      have hstep := resumeStep_eq hg hc hback hbf
      refine ⟨fun f hw hf => event_some ?_, fun w hw => ⟨fun hpl => event_some ?_, fun core hpl hy hreach => ?_⟩⟩
      · rw [hstep, hw]
        simp only [hf]
      · rw [hstep, hw]
        simp only [hpl]
      · rw [hw] at hstep
        have hreach' : s.reach c core .read (pagesOf (swapVa g.pkt t.frame) (pkRangeBytes g.pkt)) = .ok () := hreach
        simp only [hpl, hy, hreach', Bool.false_eq_true, if_false] at hstep
        intro lines
        refine ⟨fun hp => event_some (hstep.trans (if_pos hp)), fun hp => ?_⟩
        have hstep2 := hstep.trans (if_neg (Bool.eq_false_iff.mp hp))
        exact ⟨fun hcl => event_some (hstep2.trans (if_pos (bnot_pos hcl))), fun hop => event_some (hstep2.trans (if_neg (bnot_neg hop)))⟩
  · rw [killCompleteStep_eq hg hk he hb hw, hsv]
  · have hstep := killCompleteStep_eq hg hk he hb hw
    rw [hsv] at hstep
    exact ⟨fun t ht => event_some (hstep.trans (by rw [ht]; rfl)), fun hn => event_some (hstep.trans (by rw [hn]; rfl))⟩

end Sys2Proof.Machine
end

section
/-!
PROOF. Issue slots, promotion, PAUSE and register lines (05 R120 to R122, 04 R79, R95); a held store as it is made (13 R336).
-/
namespace Sys2Proof.Machine
open Sys2Proof

/-! ### Writes at the homes -/

/-- A write that memory takes. -/
theorem homeWrite_taken {s : State} {pa : Nat} (hs : isSystem pa = false) (hw : paWritable pa = true) (m : TaintMode) (bs : List Byte) :
    s.homeWrite m pa bs = { s with home := s.home.write m pa bs } := by
  simp only [State.homeWrite, hs, hw, Bool.false_and, Bool.false_eq_true, if_false, if_true]

theorem lt_of_not_system {pa : Nat} (hs : isSystem pa = false) (hw : paWritable pa = true) : pa < 2 ^ 51 := by
  simp only [isSystem, paWritable, inCaps, Bool.and_eq_true, Bool.and_eq_false_iff, Bool.not_eq_true', decide_eq_false_iff_not,
    Bool.not_eq_false', decide_eq_true_eq] at hs hw
  omega
theorem not_system_of_lt {pa : Nat} (h : pa < 2 ^ 51) : isSystem pa = false := by
  rw [isSystem, decide_eq_false (Nat.not_le.mpr h), Bool.false_and]

/-! ### Issue slots (R120) -/

theorem selectStep_eq {s : State} {core part : Nat} (h : s.busySlots core part < 3) :
    selectStep s core part =
      let here := s.groups.filter fun x => decide (x.core = core) && decide (x.part = part)
      let pick := match argMin (fun (z : Group) => ((z.round.map (·.begun)).getD 0)) (here.filter fun z => (s.beginB z).isSome) with
        | some g => s.beginB g
        | none => (argMin s.slotKey (here.filter fun z => s.eligible z && (s.beginRound z).isSome)).bind s.beginRound
      pick.map fun y => ((s.setGroup y).stopWaiting y).bump := by
  rw [selectStep, if_neg (show ¬issueSlots ≤ s.busySlots core part from Nat.not_le.mpr h)] <;> rfl

/-- The active set of a stream B run (R79). -/
theorem getLsbD_atPc (g : Group) (l : List Nat) (pc : Word64) (L : Nat) (hL : L < 128) :
    (atPc g l pc).getLsbD L = true ↔ L ∈ l ∧ (g.lane L).pc = pc := by
  rw [atPc, getLsbD_lanesMask _ hL]
  simp

theorem stopWaiting_none {s : State} {g : Group} (h : s.waitingGroup g = false) :
    ∀ x ∈ (s.stopWaiting g).grids, x.id.toNat = g.ref.grid → x.waiting = none := by
  intro x hx hid
  rw [State.stopWaiting, if_neg (by rw [h]; decide)] at hx
  obtain ⟨y, -, rfl⟩ := List.mem_map.mp hx
  by_cases hy : y.id.toNat = g.ref.grid
  · rw [if_pos hy]
  · rw [if_neg hy] at hid
    exact absurd hid hy

/-! ### Register lines (R95) -/

/-- The bytes that the two halves of a line leave at its place in the image. -/
theorem line_bytes (h : Home) (m : TaintMode) (pa : Nat) (bs : List Byte) :
    let t := (h.write m pa (bs.take 64)).write m (pa + 64) ((bs.drop 64).take 64)
    (∀ i, i < 128 → i < bs.length → some (t.byte (pa + i)) = bs[i]?) ∧ ∀ a, a < pa ∨ pa + 128 ≤ a → t.byte a = h.byte a := by
  refine ⟨fun i hi hl => ?_, fun a ha => ?_⟩
  · by_cases h64 : i < 64
    · rw [Home.byte_write_outside _ _ _ _ _ (by omega), Home.byte_write_covered _ _ _ _ _ (by simp; omega)]
      simp [hl]
    · obtain ⟨k, rfl⟩ : ∃ k, i = 64 + k := ⟨i - 64, by omega⟩
      rw [← Nat.add_assoc, Home.byte_write_covered _ _ _ _ _ (by simp; omega)]
      simp [hl]
  · rw [Home.byte_write_outside _ _ _ _ _ (by simp; omega), Home.byte_write_outside _ _ _ _ _ (by simp; omega)]

/-- A group whose runs wait for a line no longer. -/
def Group.lineIn (s : State) (rd : Round) (line pa : Nat) (g : Group) : Group :=
  let cut (r : Run) : Run := { r with missing := r.missing.filter (· ≠ line) }
  { g with
    linesIn := if g.linesIn.contains line then g.linesIn else line :: g.linesIn
    poison := if s.poisoned pa 128 && !g.poison.contains line then line :: g.poison else g.poison
    round := some { rd with a := rd.a.map cut, b := rd.b.map cut } }

section
variable {s : State} {gr : GRef} {g : Group} {c : Context} {line pa : Nat}

/-- A line that a run waits for enters the file. -/
theorem fillStep_eq {rd : Round} (hg : s.group? gr = some g) (hc : s.gridCtx? gr.grid = some c) (hrd : g.round = some rd)
    (hm : ∃ r ∈ rd.a.toList ++ rd.b.toList, line ∈ r.missing) (hu : s.linesUsed g.core < 16384)
    (hacc : s.accessImage g.core c .read (s.lineVa g line) = .ok pa)
    (hopen : s.linesOpen c.asid (s.classOf gr.grid) (s.pathLines g.core c (s.lineVa g line) pa ++ [pa + 64]) = true) :
    fillStep s gr line =
      some ((s.chargeLines c.asid (s.classOf gr.grid) (s.pathLines g.core c (s.lineVa g line) pa ++ [pa + 64])).setGroup (g.lineIn s rd line pa)) := by
  have hwait : ((rd.a.map fun r => r.missing.contains line).getD false || (rd.b.map fun r => r.missing.contains line).getD false) = true := by
    obtain ⟨r, hr, hl⟩ := hm
    rcases List.mem_append.mp hr with h | h <;> simp [Option.mem_toList.mp h, hl]
  have hroom : decide (registerLines ≤ s.linesUsed g.core) = false := decide_eq_false (Nat.not_le.mpr hu)
  rw [fillStep, hg, Option.bind_some, hc, Option.bind_some, hrd, Option.bind_some]
  simp only [hwait, hroom, hacc, hopen, Bool.not_true, Bool.or_self, Bool.false_eq_true, if_false]
  rfl

/-- A cut run waits for the line no longer. -/
theorem mem_cut {o : Option Run} {r : Run} (h : (o.map fun r => ({ r with missing := r.missing.filter (· ≠ line) } : Run)) = some r) :
    line ∉ r.missing := by
  obtain ⟨x, -, rfl⟩ := Option.map_eq_some_iff.mp h
  simp

/-- A line that leaves the file lands at its place in the image. -/
theorem saveRegLine_eq (hc : s.gridCtx? g.ref.grid = some c) (hacc : s.accessImage g.core c .write (s.lineVa g line) = .ok pa)
    (h0 : isSystem pa = false) (h1 : paWritable pa = true) (h2 : isSystem (pa + 64) = false) (h3 : paWritable (pa + 64) = true) :
    ∃ h x, s.saveRegLine g line = ({ s with home := h, ctxs := x } : State).setGroup { g with linesIn := g.linesIn.filter (· ≠ line) } ∧
      ∀ a, h.byte a = Home.byte ((s.home.write .outside pa
        ((imageLine (pkVregs (s.pkt g.ref.grid) g.role) (pkXregs (s.pkt g.ref.grid) g.role) (s.blockedLane g) g line).take 64)).write .outside (pa + 64)
        (((imageLine (pkVregs (s.pkt g.ref.grid) g.role) (pkXregs (s.pkt g.ref.grid) g.role) (s.blockedLane g) g line).drop 64).take 64)) a := by
  obtain ⟨x, hx⟩ := s.chargeLines_eq c.asid (s.classOf g.ref.grid) (s.pathLines g.core c (s.lineVa g line) pa ++ [pa + 64])
  rw [State.saveRegLine, hc, Option.map_some]
  simp only [hacc, hx, List.foldl_cons, List.foldl_nil, Nat.add_zero, List.drop_zero]
  rw [homeWrite_taken h0 h1, homeWrite_taken h2 h3]
  split
  · exact ⟨_, _, rfl, fun a => rfl⟩
  · exact ⟨_, _, rfl, fun a => rfl⟩
end

/-- Settles O39: the choice of a slot, promotion and PAUSE by their tests, the lines by what they leave. -/
theorem schedulingEvents : Obligations.SchedulingEvents := by
  intro s gr g core part line hg
  have href := State.group?_ref hg
  refine ⟨?_, fun y rd pc hy hrd hw hlen => ?_, fun hw x hx hid => stopWaiting_none hw x hx (hid.trans (by rw [href])), fun n hn hle he => event_some ?_,
    fun n hn hle => event_some ?_, fun c rd pa hc hrd hm hu hacc hopen => ?_, fun c pa hc hcore hin hpin hacc hal h0 h1 h2 hopen => ?_⟩
  · intro here hbusy
    have hstep := selectStep_eq hbusy
    refine ⟨fun x y hx hy => event_some ?_, fun x y hnone hx hy => event_some ?_⟩
    · have hx' : argMin (fun (z : Group) => ((z.round.map (·.begun)).getD 0)) ((s.groups.filter fun x => decide (x.core = core) && decide (x.part = part)).filter
          fun z => (s.beginB z).isSome) = some x := hx
      simp only [hstep, hx', hy, Option.map_some]
    · have hx' : argMin s.slotKey ((s.groups.filter fun x => decide (x.core = core) && decide (x.part = part)).filter
          fun z => s.eligible z && (s.beginRound z).isSome) = some x := hx
      have hnone' : ((s.groups.filter fun x => decide (x.core = core) && decide (x.part = part)).filter fun z => (s.beginB z).isSome) = [] := hnone
      simp only [hstep, hnone', argMin, hx', hy, Option.bind_some, Option.map_some]
  · simp only [State.beginB, hrd, hw, Option.bind_some] at hy
    split at hy
    · cases hy
    · cases hy
      refine ⟨_, _, rfl, rfl, rfl, rfl, fun L hL => (getLsbD_atPc g _ pc L hL).trans ?_⟩
      have hin : (!rd.inA L) = true ↔ ∀ a, rd.a = some a → a.active.getLsbD L = false := by
        unfold Round.inA
        cases rd.a <;> simp
      rw [List.mem_filter, List.mem_range, Bool.and_eq_true, hin]
      exact ⟨fun ⟨⟨_, ha, hr⟩, hp⟩ => ⟨hp, hr, ha⟩, fun ⟨hp, hr, ha⟩ => ⟨⟨hlen ▸ hL, ha, hr⟩, hp⟩⟩
  · have hage : 4096 ≤ s.eligibleAge g := by
      rw [State.eligibleAge, hn, Option.map_some, Option.getD_some]
      omega
    rw [hg, Option.map_some, if_pos ⟨hage, he⟩]
  · have hp : s.paused g = false := by
      rw [State.paused, hn, Option.map_some, Option.getD_some]
      exact decide_eq_false (Nat.not_lt.mpr hle)
    rw [hg, Option.map_some, hp]
    rfl
  · have hstep := fillStep_eq hg hc hrd hm hu hacc hopen
    obtain ⟨x, hx⟩ := s.chargeLines_eq c.asid (s.classOf gr.grid) (s.pathLines g.core c (s.lineVa g line) pa ++ [pa + 64])
    rw [hx] at hstep
    have hgrp : (({ s with ctxs := x } : State).setGroup (g.lineIn s rd line pa)).group? gr = some (g.lineIn s rd line pa) := by
      rw [← href] at hg ⊢
      exact State.group?_setGroup (s := { s with ctxs := x }) hg rfl
    refine ⟨_, _, event_some hstep, hgrp, ?_, rfl, rfl, fun r hr => mem_cut hr, fun r hr => mem_cut hr, rfl⟩
    by_cases hl : g.linesIn.contains line = true <;> simp_all [Group.lineIn]
  · subst hcore
    have hlt := lt_of_not_system h0 h1
    obtain ⟨h, x, hsave, hbyte⟩ := saveRegLine_eq (href ▸ hc) hacc h0 h1 (not_system_of_lt (by omega)) h2
    have hstep : s.writeBack g line = s.saveRegLine g line := by
      rw [State.writeBack, href, hc]
      simp only [hacc, show s.linesOpen c.asid (s.classOf gr.grid) (s.pathLines g.core c (s.lineVa g line) pa ++ [pa + 64]) = true from hopen,
        Bool.not_true, Bool.false_eq_true, if_false]
    intro bs
    obtain ⟨hcov, hout⟩ := line_bytes s.home .outside pa bs
    rw [href] at hbyte
    refine ⟨_, event_some (show Option.map _ (s.group? gr) = some (s.saveRegLine g line) from ?_), ?_, fun i hi hl => ?_, fun a ha => ?_⟩
    · rw [hg, Option.map_some, if_pos ⟨rfl, List.contains_iff_mem.mpr hin, by rw [hpin]; rfl⟩, hstep]
    · rw [hsave]
      rw [← href] at hg ⊢
      exact State.group?_setGroup (s := { s with home := h, ctxs := x }) hg rfl
    · rw [hsave]
      exact (congrArg some (hbyte _)).trans (hcov i hi hl)
    · rw [hsave]
      exact (hbyte a).trans (hout a ha)

/-! ### A held store as it is made (R336) -/

/-- A round whose stream B has still to begin, so that it does not see a store of stream A. -/
def veiledGroup : Group := { soleGroup with round := some { soleRound with waitB := some 0 } }
/-- A store of the first word of that round. -/
def veiledStore : Held := { n := 0, g := veiledGroup.ref, addr := 0, bytes := [1], t := false, word := 1 }
def veiledTeam : Team := { ref := veiledGroup.ref.tref, held := [veiledStore] }
def veiledState : State := { State.reset with groups := [veiledGroup], teams := [veiledTeam] }

/-- Refutes O40: as a held store of stream A is made, the model veils its bytes from stream B of the same round (04 R89), which changes the round;
the statement leaves every group as it was. -/
theorem not_viewAndPageEvents : ¬ Obligations.ViewAndPageEvents := by
  intro h
  obtain ⟨-, hline, -⟩ := h veiledState
  obtain ⟨-, hheld⟩ := hline veiledGroup.ref.tref 0 rfl
  obtain ⟨hmade, -⟩ := hheld veiledGroup.ref.tref veiledStore veiledTeam (by decide +kernel) rfl rfl
  have heq := congrArg (fun s : State => s.groups) (hmade (by decide +kernel))
  exact absurd heq (by decide +kernel)

end Sys2Proof.Machine
end

section
/-!
PROOF. The operations of the device and their completion (17 R414 to R417, R424, R426, R430, R435).
-/
namespace Sys2Proof.Machine
open Sys2Proof

/-! ### Operations as they start (R413, R414, R431) -/

theorem pfOnly_pf (s : State) (o : Option State) : pfOnly 0 s o = event s o := rfl
theorem queueOp_ready {s : State} (hd : s.dev.state = 3) (op : DevOp) : s.queueOp op = { s with dev := { s.dev with ops := s.dev.ops ++ [op] } } := by
  rw [State.queueOp, Device.isReady, hd]
  rfl
theorem isReady_of {s : State} (hd : s.dev.state = 3) : s.dev.isReady = true := by rw [Device.isReady, hd]; rfl

/-- An INVAL write of its scope is queued. -/
theorem invalWrite_queued {s : State} {v : Word64} {k : Nat} (hd : s.dev.state = 3) (hk : bits v 62 2 = k) :
    invalWrite k 0 v s = .next { s with dev := { s.dev with ops := s.dev.ops ++ [.inval k (bits v 16 16 + 1) (bits v 0 12) s.dev.invAddr] } } := by
  rw [invalWrite, pfOnly_pf, if_pos hk, queueOp_ready hd, invalOp, hk]
  rfl

/-! ### The order of the operations (R414) -/

theorem firstOp_killing {s : State} {o : DevOp} {rest : List DevOp} (p : DevOp → Bool) (ho : s.dev.ops = o :: rest) (hk : s.killing o = true) :
    s.firstOp p = none := by
  rw [State.firstOp, ho, nextOp, if_pos hk]
theorem nextOp_find {killing : DevOp → Bool} (p : DevOp → Bool) {l : List DevOp} (h : ∀ o ∈ l, killing o = false) : nextOp killing p l = l.find? p := by
  induction l with
  | nil => rfl
  | cons o l ih =>
    have ho := h o List.mem_cons_self
    rw [nextOp, ho, ih fun x hx => h x (List.mem_cons_of_mem o hx), List.find?_cons]
    cases p o <;> rfl

/-- Where no walk waits, an invalidation drops none (R422, R424). -/
theorem dropWaiting_owned {s : State} (h : ∀ w ∈ s.zwalks, w.owner = true) (p : Nat → Bool) (covers : Word64 → Bool) :
    s.dropWaiting p covers = s := by
  rw [State.dropWaiting, if_neg]
  rw [List.any_eq_true]
  rintro ⟨w, hw, hc⟩
  simp [h w hw] at hc

/-! ### A sync (R416, R417) -/

/-- What a sync of a context comes to, by the descriptor that it has read. -/
theorem syncStep_eq {s : State} {a : Nat} (h : s.firstOp DevOp.isSync = some (.sync a)) :
    syncStep s = if a = 0 then some (s.endSync a true) else
      let r := s.dev.synced.getD (s.readSync a)
      let s1 : State := { s with dev := { s.dev with synced := some r } }
      let c := newContext s1 a r
      if !c.desc.getLsbD 0 then some (s1.downContext a false)
      else if r.2.isNone || !descValid s1 c then some (s1.downContext a true)
      else match s1.ctx? a with
        | none => some (({ s1 with ctxs := s1.ctxs ++ [c] } : State).endSync a false)
        | some o =>
          if o.root = c.root then some ((s1.setCtx c).endSync a false)
          else
            let t := (s1.dropTlb fun e => e.asid == a).dropWaiting (· == a) fun _ => true
            if t.accessesOf (· == a) (fun _ => true) then some t else some ((t.setCtx c).endSync a false) := by
  rw [syncStep, h] <;> rfl

/-- A valid descriptor passes both tests; any other takes the context down with the result bit of its VALID. -/
theorem syncStep_valid {s : State} {a : Nat} (h : s.firstOp DevOp.isSync = some (.sync a)) (ha : a ≠ 0)
    {r : BitVec 1024 × Option (List (BitVec 32))} (hr : s.dev.synced.getD (s.readSync a) = r)
    (hv : let s1 : State := { s with dev := { s.dev with synced := some r } }
      (newContext s1 a r).desc.getLsbD 0 && r.2.isSome && descValid s1 (newContext s1 a r)) :
    syncStep s =
      let s1 : State := { s with dev := { s.dev with synced := some r } }
      let c := newContext s1 a r
      match s.ctx? a with
        | none => some (({ s1 with ctxs := s1.ctxs ++ [c] } : State).endSync a false)
        | some o =>
          if o.root = c.root then some ((s1.setCtx c).endSync a false)
          else
            let t := (s1.dropTlb fun e => e.asid == a).dropWaiting (· == a) fun _ => true
            if t.accessesOf (· == a) (fun _ => true) then some t else some ((t.setCtx c).endSync a false) := by
  simp only [Bool.and_eq_true] at hv
  obtain ⟨⟨h0, h1⟩, h2⟩ := hv
  rw [syncStep_eq h, if_neg ha]
  have hn : r.2.isNone = false := by rw [← Option.not_isSome, h1]; rfl
  simp only [hr, h0, hn, h2, Bool.not_true, Bool.or_self, Bool.false_eq_true, if_false]
  rfl
theorem syncStep_invalid {s : State} {a : Nat} (h : s.firstOp DevOp.isSync = some (.sync a)) (ha : a ≠ 0)
    {r : BitVec 1024 × Option (List (BitVec 32))} (hr : s.dev.synced.getD (s.readSync a) = r)
    (hv : (let s1 : State := { s with dev := { s.dev with synced := some r } }
      (newContext s1 a r).desc.getLsbD 0 && r.2.isSome && descValid s1 (newContext s1 a r)) = false) :
    syncStep s =
      let s1 : State := { s with dev := { s.dev with synced := some r } }
      some (s1.downContext a ((newContext s1 a r).desc.getLsbD 0)) := by
  rw [syncStep_eq h, if_neg ha]
  simp only [hr]
  cases h0 : (newContext { s with dev := { s.dev with synced := some r } } a r).desc.getLsbD 0
  · rfl
  · simp only [h0, Bool.true_and, ← Option.not_isNone] at hv
    have hbad : (r.2.isNone || !descValid { s with dev := { s.dev with synced := some r } }
        (newContext { s with dev := { s.dev with synced := some r } } a r)) = true := by
      rw [← Bool.not_not (_ || _), Bool.not_or, Bool.not_not, hv]
      rfl
    simp only [Bool.not_true, Bool.false_eq_true, if_false, hbad, if_true]

/-- A property that holds of no grid kills none. -/
theorem killWhere_none {s : State} {p : Grid → Bool} (h : ∀ g ∈ s.grids, p g = false) (cause : Nat) : s.killWhere p cause = s := by
  have hf : (s.grids.filter fun g => p g && !g.ended) = [] := List.filter_eq_nil_iff.mpr fun g hg => by simp [h g hg]
  rw [State.killWhere, hf]
  rfl

/-- Settles O47: the start of each operation, their order, and the completion of each. -/
theorem deviceOperations : Obligations.DeviceOperations := by
  intro s v hd asid id queued queues inval
  have hready := isReady_of hd
  refine ⟨?_, ?_, fun hk => invalWrite_queued hd hk, fun hk => invalWrite_queued hd hk, fun hk => invalWrite_queued hd hk, fun c hc => ?_,
    fun g hg he hid ha => ?_, fun hg => ?_, fun fn hf i hi => ?_, fun o rest p ho hk => firstOp_killing p ho hk, fun p hk => nextOp_find p hk,
    fun k pages a addr hats hop => ?_, fun pasid page pages hats hop hb => ?_, fun a hp => ?_, fun a hop => ?_, fun hop => ?_⟩
  · exact event_some (congrArg some (queueOp_ready hd _))
  · exact event_some (congrArg some (queueOp_ready hd _))
  · refine event_some (o := if s.dev.isReady then some (s.replayNow asid) else none) ?_
    rw [if_pos hready, State.replayNow, hc]
  · refine event_some (o := if s.dev.isReady then some ((s.queueOp (.gridkill asid id)).killWhere
      (fun g => g.id == BitVec.ofNat 32 id && g.asid == asid) 41) else none) ?_
    rw [if_pos hready, queueOp_ready hd, State.killWhere]
    simp [hg, he, hid, ha, queued]
  · refine event_some (o := if s.dev.isReady then some ((s.queueOp (.gridkill asid id)).killWhere
      (fun g => g.id == BitVec.ofNat 32 id && g.asid == asid) 41) else none) ?_
    rw [if_pos hready, queueOp_ready hd, killWhere_none]
    intro g hm
    simp [hg g hm]
  · simp only [List.mem_cons, List.not_mem_nil, or_false] at hi
    rcases hi with rfl | rfl | rfl | rfl | rfl | rfl | rfl <;> exact pfOnly_vf hf _
  · have hstep : invalidationStep s = some (s.endInval k pages a addr) := by
      rw [invalidationStep, hop, State.endAts, hats]
    intro t
    refine ⟨fun hw => ?_, fun hacc => event_some (hstep.trans (congrArg some (if_pos hacc))),
      fun hacc => event_some (hstep.trans (congrArg some (if_neg (Bool.eq_false_iff.mp hacc))))⟩
    have ht : t = s.dropTlb (invCovers k pages a addr) := dropWaiting_owned (s := s.dropTlb _) hw _ _
    rw [ht]
    rfl
  · refine event_some (o := invalidationStep s) ?_
    simp only [invalidationStep, hop, State.endAts, hats, hb, Bool.false_eq_true, if_false]
  · intro d
    rw [State.readSync, hp]
    rfl
  · intro r s1 c valid ends
    refine ⟨fun ha => event_some ((syncStep_eq hop).trans (if_pos ha)), fun ha hv hc => event_some ((syncStep_valid hop ha rfl hv).trans ?_),
      fun x ha hv hc hroot => event_some ((syncStep_valid hop ha rfl hv).trans ?_), fun x ha hv hc hroot => ?_, fun ha hv => ?_⟩
    · rw [hc]
      rfl
    · rw [hc]
      exact if_pos hroot
    · have hstep := syncStep_valid hop ha rfl hv
      rw [hc] at hstep
      replace hstep := hstep.trans (if_neg hroot)
      intro t
      refine ⟨fun hw => ?_, fun hacc => event_some (hstep.trans (if_pos hacc)), fun hacc => event_some (hstep.trans (if_neg (Bool.eq_false_iff.mp hacc)))⟩
      have ht : t = s1.dropTlb fun e => e.asid == a := dropWaiting_owned (s := s1.dropTlb _) hw _ _
      rw [ht]
      rfl
    · have hstep := syncStep_invalid hop ha rfl hv
      intro k
      refine ⟨fun hg => killWhere_none (s := s1) (fun g hm => beq_eq_false_iff_ne.mpr (hg g hm)) 39,
        fun hb => event_some (hstep.trans (congrArg some (if_pos hb))), fun hb => event_some (hstep.trans (congrArg some (if_neg (Bool.eq_false_iff.mp hb))))⟩
  · refine event_some (o := attestStep s) ?_
    rw [attestStep, hop]
    rfl

end Sys2Proof.Machine
end

section
/-!
PROOF. Power, firmware, device registers, budget periods, temperature, and errors (17 R433 to R436, 18 R455, R456).
-/
namespace Sys2Proof.Machine
open Sys2Proof

/-! ### What a kill leaves (R451) -/

theorem State.postWhere_grids (s : State) (p : GStore → Bool) : (s.postWhere p).grids = s.grids := by
  obtain ⟨h, l, e⟩ := s.postWhere_eq p
  rw [e]
theorem State.postWhere_dev (s : State) (p : GStore → Bool) : (s.postWhere p).dev = s.dev := by
  obtain ⟨h, l, e⟩ := s.postWhere_eq p
  rw [e]

/-- A kill of an engine changes the engines alone. -/
theorem killBf_eq (s : State) (grid core : Nat) : ∃ b, killBf s grid core = { s with bf := b } := by
  dsimp only [killBf]
  split
  · exact ⟨s.bf, rfl⟩
  · split
    · exact ⟨s.bf, rfl⟩
    · exact ⟨_, rfl⟩
theorem killBf_foldl_eq (grid : Nat) (l : List Nat) (s : State) : ∃ b, l.foldl (fun s c => killBf s grid c) s = { s with bf := b } := by
  induction l generalizing s with
  | nil => exact ⟨s.bf, rfl⟩
  | cons c l ih =>
    obtain ⟨b1, h1⟩ := killBf_eq s grid c
    obtain ⟨b2, h2⟩ := ih (killBf s grid c)
    exact ⟨b2, h2.trans (by rw [h1])⟩
theorem killBf_foldl_grids (grid : Nat) (l : List Nat) (s : State) : (l.foldl (fun s c => killBf s grid c) s).grids = s.grids := by
  obtain ⟨b, h⟩ := killBf_foldl_eq grid l s
  rw [h]
theorem killBf_foldl_dev (grid : Nat) (l : List Nat) (s : State) : (l.foldl (fun s c => killBf s grid c) s).dev = s.dev := by
  obtain ⟨b, h⟩ := killBf_foldl_eq grid l s
  rw [h]

/-- A kill marks its grid in the list of grids. -/
theorem killGrid_grids {s : State} {n : Nat} {g : Grid} (hg : s.grid? n = some g) (hk : g.kill = none) (he : g.ended = false) (r : FaultRec) :
    (s.killGrid n r).grids = (s.setGrid { g with kill := some r }).grids := by
  rw [State.killGrid, hg]
  simp only [hk, he, Option.isSome_none, Bool.or_self, Bool.false_eq_true, if_false]
  exact (killBf_foldl_grids n _ _).trans (State.postWhere_grids _ _)
/-- Where there is no such grid, or its kill is under way, nothing happens. -/
theorem killGrid_none {s : State} {n : Nat} (h : ∀ g, s.grid? n = some g → (g.kill.isSome || g.ended) = true) (r : FaultRec) : s.killGrid n r = s := by
  rw [State.killGrid]
  cases hg : s.grid? n with
  | none => rfl
  | some g => simp only [h g hg, if_true]
/-- No kill changes the device. -/
theorem killGrid_dev (s : State) (n : Nat) (r : FaultRec) : (s.killGrid n r).dev = s.dev := by
  rw [State.killGrid]
  cases s.grid? n with
  | none => rfl
  | some g =>
    dsimp only
    split
    · rfl
    · exact (killBf_foldl_dev n _ _).trans (State.postWhere_dev _ _)

theorem option_map_keeps {α : Type} {o : Option α} {f : α → α} (h : ∀ x, o = some x → f x = x) : o.map f = o := by
  cases o with
  | none => rfl
  | some x => rw [Option.map_some, h x rfl]

theorem State.grid?_setGrid_other {s : State} {n k : Nat} {x : Grid} (hx : x.id.toNat = n) (hk : k ≠ n) : (s.setGrid x).grid? k = s.grid? k := by
  have hkeep : ∀ y : Grid, (fun z : Grid => decide (z.id.toNat = k)) (if y.id = x.id then x else y) = (fun z : Grid => decide (z.id.toNat = k)) y := by
    intro y
    by_cases hy : y.id = x.id
    · simp only [hy, if_true]
    · simp only [if_neg hy]
  rw [State.grid?, State.setGrid, find?_map_keeps _ _ _ hkeep]
  refine option_map_keeps fun y hy => ?_
  have hyk : y.id.toNat = k := by simpa using List.find?_some hy
  rw [if_neg (fun h => hk (hyk.symm.trans ((congrArg BitVec.toNat h).trans hx)))]

/-- After a kill, the grid of its name is marked, unless it was dead, and every other is as it was. -/
theorem grid?_killGrid (s : State) (n k : Nat) (r : FaultRec) :
    (s.killGrid n r).grid? k = (s.grid? k).map fun g => if k = n ∧ g.kill = none ∧ g.ended = false then { g with kill := some r } else g := by
  by_cases hlive : ∃ g, s.grid? n = some g ∧ g.kill = none ∧ g.ended = false
  · obtain ⟨g, hg, hk, he⟩ := hlive
    have hgrids : (s.killGrid n r).grid? k = (s.setGrid { g with kill := some r }).grid? k :=
      by
      rw [State.grid?, killGrid_grids hg hk he r]
      rfl
    rw [hgrids]
    by_cases hkn : k = n
    · subst hkn
      rw [State.grid?_setGrid (x := { g with kill := some r }) hg rfl, hg, Option.map_some, if_pos ⟨rfl, hk, he⟩]
    · rw [State.grid?_setGrid_other (x := { g with kill := some r }) (show g.id.toNat = n from State.grid?_id hg) hkn]
      simp [hkn]
  · have hdead : ∀ g, s.grid? n = some g → (g.kill.isSome || g.ended) = true := by
      intro g hg
      by_contra hc
      rw [Bool.not_eq_true, Bool.or_eq_false_iff] at hc
      exact hlive ⟨g, hg, by simpa using hc.1, hc.2⟩
    rw [killGrid_none hdead]
    refine (option_map_keeps fun g hg => if_neg ?_).symm
    rintro ⟨rfl, hk, he⟩
    exact hlive ⟨g, hg, hk, he⟩

/-- The kills of some grids, one after the other: a grid that has its kill keeps it, and one that is live is marked where it is among them. -/
theorem killCauses (l : List Grid) (s : State) (cause : Nat) :
    let t := l.foldl (fun s g => s.killCause g.id.toNat cause) s
    t.dev = s.dev ∧ (∀ k g, s.grid? k = some g → g.kill ≠ none → t.grid? k = some g) ∧
    ∀ k g, s.grid? k = some g → g.ended = false → g.kill = none →
      t.grid? k = some (if k ∈ l.map (·.id.toNat) then { g with kill := some { kind := 0, final := cause, grid := BitVec.ofNat 32 k } } else g) := by
  induction l generalizing s with
  | nil => exact ⟨rfl, fun k g hg _ => hg, fun k g hg _ _ => by simpa using hg⟩
  | cons x l ih =>
    obtain ⟨hdev, hdead, hlive⟩ := ih (s.killCause x.id.toNat cause)
    have hone (k : Nat) := grid?_killGrid s x.id.toNat k { kind := 0, final := cause, grid := BitVec.ofNat 32 x.id.toNat }
    refine ⟨hdev.trans (killGrid_dev _ _ _), fun k g hg hk => hdead k g ?_ hk, fun k g hg he hk => ?_⟩
    · refine (hone k).trans ?_
      rw [hg, Option.map_some, if_neg (fun h => hk h.2.1)]
    · have h1 := hone k
      rw [hg, Option.map_some] at h1
      by_cases hx : k = x.id.toNat
      · rw [if_pos ⟨hx, hk, he⟩] at h1
        refine (hdead k _ h1 (Option.some_ne_none _)).trans ?_
        rw [if_pos (by rw [List.map_cons, hx]; exact List.mem_cons_self), ← hx]
      · rw [if_neg (fun h => hx h.1)] at h1
        refine (hlive k g h1 he hk).trans ?_
        simp [hx]

/-- The kills that a property of a grid's identifier picks. -/
theorem killWhere_grids (s : State) (p : Grid → Bool) (cause : Nat) :
    (s.killWhere p cause).dev = s.dev ∧
    ∀ k g, s.grid? k = some g → g.ended = false → g.kill = none → (∀ x : Grid, x.id.toNat = k → p x = p g) →
      (s.killWhere p cause).grid? k = some (if p g then { g with kill := some { kind := 0, final := cause, grid := BitVec.ofNat 32 k } } else g) := by
  obtain ⟨hdev, -, hlive⟩ := killCauses (s.grids.filter fun g => p g && !g.ended) s cause
  refine ⟨hdev, fun k g hg he hk hp => (hlive k g hg he hk).trans ?_⟩
  have hid := State.grid?_id hg
  have hmem : (k ∈ (s.grids.filter fun g => p g && !g.ended).map (·.id.toNat)) ↔ p g = true := by
    rw [List.mem_map]
    constructor
    · rintro ⟨x, hx, hxk⟩
      rw [← hp x hxk]
      exact (Bool.and_eq_true_iff.mp (List.mem_filter.mp hx).2).1
    · intro h
      exact ⟨g, List.mem_filter.mpr ⟨List.mem_of_find?_eq_some hg, by rw [h, he]; rfl⟩, hid⟩
  simp only [hmem]

/-! ### Device registers, firmware (R413, R434) -/

theorem registerWrite_pf {s : State} {v : Word64} {off : Nat} (hd : s.dev.state = 3) :
    exec (.registerWrite off ⟨0, v⟩) s = .next { s with dev := s.dev.writeReg s.ctxs.isEmpty off v } := by
  refine event_some (o := if s.dev.isReady then some { s with dev := s.dev.writeReg s.ctxs.isEmpty off v } else none) ?_
  rw [if_pos (isReady_of hd)]

/-- The register that names the owner of a queue. -/
theorem writeReg_qowner (d : Device) (noCtx : Bool) {n : Nat} (hn : n < 64) (v : Word64) :
    d.writeReg noCtx (0x100 + 8 * n) v = if noCtx then { d with qowner := Table.set 0 d.qowner n (v.extractLsb' 0 6) } else d := by
  rw [Device.writeReg, if_neg (by omega), if_neg (by omega), if_neg (by omega), if_pos (by omega), show (0x100 + 8 * n - 0x100) / 8 = n by omega]

/-- The check of an image that has been read whole. -/
theorem verifyStep_eq {s : State} (h : s.dev.state = 2) :
    verifyStep s =
      let img := if 0x800000 < s.dev.length then [] else (List.range s.dev.length).map (Table.get 0 s.dev.window)
      match imageCause s.dev.length img with
      | 0 => some { s with dev := { s.dev with state := 3, cause := 0, image := img, caps := true }, home := s.home.withCaps }
      | k => some { s with dev := { s.dev with state := 4, cause := k } } := by
  rw [verifyStep, if_neg (not_not.mpr h)] <;> rfl

theorem capRegion_length : capRegion.length = 4096 := by decide +kernel

/-- Bytes put into the memory of the homes. -/
theorem byte_setBytes (h : Home) (pa : Nat) (bs : List Byte) :
    (∀ k, k < bs.length → some (({ h with mem := setBytes h.mem pa bs } : Home).byte (pa + k)) = bs[k]?) ∧
    ∀ a, a < pa → ({ h with mem := setBytes h.mem pa bs } : Home).byte a = h.byte a := by
  have hb (a : Nat) : ({ h with mem := setBytes h.mem pa bs } : Home).byte a = if pa ≤ a then (bs[a - pa]?).getD (h.byte a) else h.byte a :=
    get_setBytes _ _ _ _
  refine ⟨fun k hk => ?_, fun a ha => (hb a).trans (if_neg (Nat.not_le.mpr ha))⟩
  rw [hb, if_pos (Nat.le_add_right _ _), Nat.add_sub_cancel_left, List.getElem?_eq_getElem hk, Option.getD_some]

theorem byte_withCaps (h : Home) :
    (∀ k, k < 4096 → some (h.withCaps.byte (capPa + k)) = capRegion[k]?) ∧ ∀ a, a < capPa → h.withCaps.byte a = h.byte a := by
  have hb := byte_setBytes h capPa capRegion
  rw [capRegion_length] at hb
  unfold Home.withCaps
  exact hb

/-- An image that fails its check for a cause. -/
theorem verifyStep_fails {s : State} {img : List Byte} {k : Nat} (h : s.dev.state = 2)
    (himg : (if 0x800000 < s.dev.length then [] else (List.range s.dev.length).map (Table.get 0 s.dev.window)) = img)
    (hk : imageCause s.dev.length img = k) (h0 : k ≠ 0) : verifyStep s = some { s with dev := { s.dev with state := 4, cause := k } } := by
  obtain ⟨m, rfl⟩ := Nat.exists_eq_succ_of_ne_zero h0
  rw [verifyStep_eq h]
  simp only [himg, hk]

/-! ### Errors (R455, R456) -/

theorem mem_addOnce (l : List Nat) (n k : Nat) : (addOnce l n).contains k = true ↔ k = n ∨ l.contains k = true := by
  unfold addOnce
  split
  case isTrue h => exact ⟨.inr, fun hk => hk.elim (fun e => e ▸ h) id⟩
  case isFalse h => simp

end Sys2Proof.Machine
end

section
/-!
PROOF. The events of the device (17 R433 to R436, 18 R455, R456).
-/
namespace Sys2Proof.Machine
open Sys2Proof

theorem withCaps_eq (h : Home) : h.withCaps = { h with mem := h.withCaps.mem } := by
  have hall (m : Table Byte) : ({ h with mem := m } : Home) = { h with mem := ({ h with mem := m } : Home).mem } := rfl
  exact hall (setBytes h.mem capPa capRegion)

/-- Where there is no grid, no team and no group, nothing waits for a budget. -/
theorem tryWaiting_empty {t : State} (hg : t.groups = []) (ht : t.teams = []) (hr : t.grids = []) : t.tryWaiting = t := by
  cases t
  subst hg ht hr
  rfl

theorem State.bfOf_setBf (s : State) (c : Nat) (e : BfEngine) : (s.setBf c e).bfOf c = e := by
  rw [State.bfOf, State.setBf_bf, Table.get_put, if_pos rfl]
theorem BfEngine.slot_setSlot (e : BfEngine) (k j : Nat) (x : BfSlot) : (e.setSlot k x).slot j = if j = k then x else e.slot j := Table.get_put _ _ _ _ _
theorem BfEngine.acc_setAcc (e : BfEngine) (k j : Nat) (x : BfAcc) : (e.setAcc k x).acc j = if j = k then x else e.acc j := Table.get_put _ _ _ _ _

/-- A structure's error kills the grids that have state in it (R456). -/
theorem dieError_shared {s : State} {u : SharedUnit} (hu : ∀ k, u ≠ .icache k ∧ u ≠ .translation k) :
    dieErrorStep s u = (s.killWhere (inUnit s u) 43).sendMsi 0 0 := by
  cases u with
  | icache k => exact absurd rfl (hu k).1
  | translation k => exact absurd rfl (hu k).2
  | _ => rfl

/-- Settles O48: each event by its test, the kills by their law. -/
theorem deviceEvents : Obligations.DeviceEvents := by
  intro s v bytes n h p dev img
  refine ⟨fun hd => event_some (if_pos hd), fun hd hl => event_some (if_pos (And.intro hd hl)), fun hd hv => event_some (if_pos (And.intro hd hv)),
    fun hd hv => event_some (if_pos (And.intro hd hv)), fun fn hf i hi => ?_, fun hd hl => ?_, fun hd hl => ?_, fun hd => ?_,
    fun hp => ?_, fun hd => ?_, fun hd hc hn => ?_, fun hd hc hn => ?_, ?_, rfl, rfl, rfl, ?_, fun tm x hx => ?_, fun gr x hx => ?_,
    fun core k hk => ?_, fun core k hk => ?_⟩
  · simp only [List.mem_cons, List.not_mem_nil, or_false] at hi
    rcases hi with rfl | rfl | rfl | rfl <;> exact pfOnly_vf hf _
  · exact event_some (verifyStep_fails hd (if_pos hl) (if_pos hl) (by decide))
  · refine ⟨fun hc => ?_, fun hc => event_some (verifyStep_fails hd (if_neg (Nat.not_lt.mpr hl)) rfl hc)⟩
    have hstep := verifyStep_eq hd
    simp only [if_neg (Nat.not_lt.mpr hl), show imageCause s.dev.length ((List.range s.dev.length).map (Table.get 0 s.dev.window)) = 0 from hc] at hstep
    obtain ⟨hin, hout⟩ := byte_withCaps s.home
    exact ⟨_, event_some hstep, congrArg (fun x : Home => ({ s with dev := { s.dev with state := 3, cause := 0, image := img, caps := true }, home := x } : State))
      (withCaps_eq s.home), hin, hout⟩
  · have hw (off : Nat) := registerWrite_pf (v := v) (off := off) hd
    refine ⟨hw 0x028, hw 0x420, fun hc => ?_, fun hc => ?_⟩
    · have he : s.ctxs.isEmpty = true := by rw [hc]; rfl
      exact ⟨(hw 0x010).trans (by rw [he]; rfl), (hw 0x050).trans (by rw [he]; rfl)⟩
    · have he : s.ctxs.isEmpty = false := by simpa using hc
      exact ⟨(hw 0x010).trans (by rw [he]; rfl), (hw 0x050).trans (by rw [he]; rfl)⟩
  · exact ⟨event_some (if_neg (Nat.not_le.mpr hp)), fun hg ht hr => tryWaiting_empty hg ht hr⟩
  · refine ⟨throttled h s.dev.mhz, event_some (if_neg (Nat.not_lt.mpr hd)), fun hh => if_pos hh, fun hh => ?_, fun h1 h2 => ?_⟩
    · rw [throttled, if_neg (by omega), if_pos hh]
    · rw [throttled, if_neg (by omega), if_neg (by omega)]
  · have he : s.ctxs.isEmpty = true := by rw [hc]; rfl
    refine ⟨_, registerWrite_pf hd, ?_, fun k => ?_⟩
    · rw [writeReg_qowner _ _ hn, he]
      rfl
    · rw [writeReg_qowner _ _ hn, he]
      exact Table.get_set _ _ _ _ _
  · have he : s.ctxs.isEmpty = false := by simpa using hc
    exact (registerWrite_pf hd).trans (by rw [writeReg_qowner _ _ hn, he]; rfl)
  · intro killed
    refine ⟨?_, ?_⟩
    · intro ht
      obtain ⟨hdev, hgrids⟩ := killWhere_grids s (fun _ => true) 40
      refine ⟨_, event_some (if_pos ht), rfl, fun k g hg he hk => ⟨_, hgrids k g hg he hk fun _ _ => rfl, rfl⟩, fun hnone => ?_⟩
      refine event_some ((if_pos ht).trans ?_)
      rw [killWhere_none (fun g hg => by rw [hnone] at hg; cases hg)]
    · intro u hu held
      obtain ⟨hdev, hgrids⟩ := killWhere_grids s (inUnit s u) 43
      have hheld (x : Grid) (k : Nat) (hx : x.id.toNat = k) : inUnit s u x = true ↔ held k := by
        cases u with
        | icache c => exact absurd rfl (hu c).1
        | translation c => exact absurd rfl (hu c).2
        | collective d => simp [inUnit, held, hx, and_assoc]
        | queue q =>
          simp only [inUnit, held, hx, List.any_eq_true, Bool.and_eq_true, beq_iff_eq]
          refine exists_congr fun c => and_congr_right fun _ => and_congr_right fun _ => ?_
          split
          case h_1 y b hk => simp [hk]
          case h_2 hk => simpa using fun y => hk y q
        | _ => simp [inUnit, held, hx]
      refine ⟨_, event_some (congrArg some (dieError_shared hu)), ?_, ?_, fun k g hg he hk => ?_⟩
      · rw [State.sendMsi, hdev]
      · rw [State.sendMsi, hdev]
      · have hid := State.grid?_id hg
        have hg' := hgrids k g hg he hk fun x hx => Bool.eq_iff_iff.mpr ((hheld x k hx).trans (hheld g k hid).symm)
        refine ⟨fun hh => ⟨_, hg'.trans (by rw [if_pos ((hheld g k hid).mpr hh)]), rfl⟩, fun hh => hg'.trans ?_⟩
        rw [if_neg (fun c => hh ((hheld g k hid).mp c))]
  · exact ⟨_, event_some rfl, (mem_addOnce _ _ _).mpr (.inl rfl), rfl⟩
  · refine ⟨?_, ?_⟩
    · refine ⟨_, _, event_some (by rw [State.poisonSite, hx]), State.team?_setTeam (x := { x with spPoison := addOnce x.spPoison n }) hx rfl, rfl,
        fun k => mem_addOnce _ _ _⟩
    · refine ⟨_, _, event_some (by rw [State.poisonSite, hx]),
        State.team?_setTeam (x := { x with log := { x.log with poison := addOnce x.log.poison n } }) hx rfl, rfl, fun k => mem_addOnce _ _ _⟩
  · have href := State.group?_ref hx
    subst href
    exact ⟨_, _, event_some (by rw [State.poisonSite, hx]), State.group?_setGroup (x := { x with poison := addOnce x.poison n }) hx rfl, rfl,
      fun k => mem_addOnce _ _ _⟩
  · refine ⟨_, event_some rfl, ?_, fun j hj => ?_⟩
    · rw [State.poisonSite, State.bfOf_setBf, BfEngine.slot_setSlot, if_pos rfl]
    · rw [State.poisonSite, State.bfOf_setBf, BfEngine.slot_setSlot, if_neg hj]
  · refine ⟨_, event_some rfl, ?_, fun j hj => ?_⟩
    · rw [State.poisonSite, State.bfOf_setBf, BfEngine.acc_setAcc, if_pos rfl]
    · rw [State.poisonSite, State.bfOf_setBf, BfEngine.acc_setAcc, if_neg hj]

end Sys2Proof.Machine
end

section
/-!
PROOF. Accesses from outside the device (13 R344, 17 R412, R430 to R432).
-/
namespace Sys2Proof.Machine
open Sys2Proof

/-! ### Scattered bytes (R323) -/

/-- The last of the bytes of a write that a table takes at a place, where they agree. -/
theorem get_scatter_agree {l : List (Nat × Byte)} {a : Nat} {b : Byte} (hall : ∀ p ∈ l, p.1 = a → p.2 = b) (t : Table Byte) :
    Table.get memDefault (l.foldl (fun t p => Table.set memDefault t p.1 p.2) t) a = if a ∈ l.map (·.1) then b else Table.get memDefault t a := by
  induction l generalizing t with
  | nil => rfl
  | cons p l ih =>
    rw [List.foldl_cons, ih fun q hq => hall q (List.mem_cons_of_mem p hq), Table.get_set]
    by_cases hl : a ∈ l.map (·.1)
    · simp [hl]
    · by_cases hp : a = p.1
      · rw [if_neg hl, if_pos hp, if_pos (by rw [hp]; exact List.mem_cons_self), hall p List.mem_cons_self hp.symm]
      · rw [if_neg hl, if_neg hp, if_neg (by rw [List.map_cons, List.mem_cons]; exact not_or.mpr ⟨hp, hl⟩)]

/-- The bytes of a scattered write reach the addresses that take them. -/
theorem byte_homeScatter {s : State} {m : TaintMode} {l : List (Nat × Byte)} {a : Nat} {b : Byte} (hall : ∀ p ∈ l, p.1 = a → p.2 = b) :
    (s.homeScatter m l).home.byte a =
      if a ∈ l.map (·.1) ∧ paWritable a = true ∧ (isSystem a && !s.dev.linkUp) = false then b else s.home.byte a := by
  have hf : ∀ p ∈ l.filter fun p => paWritable p.1 && !(isSystem p.1 && !s.dev.linkUp), p.1 = a → p.2 = b := fun p hp => hall p (List.mem_of_mem_filter hp)
  refine (get_scatter_agree hf s.home.mem).trans ?_
  refine if_congr ?_ rfl rfl
  simp only [List.mem_map, List.mem_filter, Bool.and_eq_true, Bool.not_eq_true']
  constructor
  · rintro ⟨p, ⟨hp, hw, hs⟩, rfl⟩
    exact ⟨⟨p, hp, rfl⟩, hw, hs⟩
  · rintro ⟨⟨p, hp, rfl⟩, hw, hs⟩
    exact ⟨p, ⟨hp, hw, hs⟩, rfl⟩

/-- Several scattered writes, one after the other, that agree on the byte of an address. -/
theorem homeScatter_foldl {ι : Type} (m : TaintMode) (F : ι → List (Nat × Byte)) (L : List ι) (s : State) :
    ∃ h, L.foldl (fun s k => s.homeScatter m (F k)) s = { s with home := h } ∧
      (∀ a, (∀ k ∈ L, a ∉ (F k).map (·.1)) → h.byte a = s.home.byte a) ∧
      ∀ a b, (∀ k ∈ L, ∀ p ∈ F k, p.1 = a → p.2 = b) → (∃ k ∈ L, a ∈ (F k).map (·.1)) → paWritable a = true →
        (isSystem a && !s.dev.linkUp) = false → h.byte a = b := by
  induction L generalizing s with
  | nil => exact ⟨s.home, rfl, fun a _ => rfl, fun a b _ hx => by obtain ⟨k, hk, -⟩ := hx; cases hk⟩
  | cons k L ih =>
    obtain ⟨h, heq, hout, hin⟩ := ih (s.homeScatter m (F k))
    refine ⟨h, heq, fun a ha => ?_, fun a b hall hx hw hs => ?_⟩
    · rw [hout a fun j hj => ha j (List.mem_cons_of_mem k hj)]
      have hk := ha k List.mem_cons_self
      rw [byte_homeScatter (b := 0) fun p hp hpa => absurd (List.mem_map.mpr ⟨p, hp, hpa⟩) hk, if_neg fun c => hk c.1]
    · by_cases hrest : ∃ j ∈ L, a ∈ (F j).map (·.1)
      · exact hin a b (fun j hj => hall j (List.mem_cons_of_mem k hj)) hrest hw hs
      · obtain ⟨j, hj, hja⟩ := hx
        rcases List.mem_cons.mp hj with rfl | hj
        · rw [hout a fun i hi hc => hrest ⟨i, hi, hc⟩, byte_homeScatter (hall j List.mem_cons_self), if_pos ⟨hja, hw, hs⟩]
        · exact absurd ⟨j, hj, hja⟩ hrest

/-! ### Writes, a line at a time (R323, R344) -/

/-- The line of a byte that a write covers is among its lines. -/
theorem mem_linesOf {pa n k : Nat} (hk : k < n) : (pa + k) / 64 ∈ linesOf pa n := by
  rw [linesOf, if_neg (by omega), List.mem_map]
  exact ⟨(pa + k) / 64 - pa / 64, List.mem_range.mpr (by omega), by omega⟩

/-- One line of a write from outside. -/
def lineWrite (pa : Nat) (bs : List Byte) (s : State) (l : Nat) : State :=
  s.homeWrite .outside (max (64 * l) pa) ((bs.drop (max (64 * l) pa - pa)).take (64 * l + 64 - max (64 * l) pa))

theorem outsideWrite_eq (s : State) (pa : Nat) (bs : List Byte) : s.outsideWrite pa bs = (linesOf pa bs.length).foldl (lineWrite pa bs) s := rfl

/-- A line leaves every byte outside the write, and every byte of another line. -/
theorem lineWrite_keeps (pa : Nat) (bs : List Byte) (s : State) (l a : Nat) (h : a / 64 ≠ l ∨ a < pa ∨ pa + bs.length ≤ a) :
    (lineWrite pa bs s l).home.byte a = s.home.byte a := by
  unfold lineWrite State.homeWrite
  split
  · rfl
  · split
    · exact Home.byte_write_outside _ _ _ _ _ (by simp; omega)
    · rfl
theorem lineWrite_covers {pa k : Nat} {bs : List Byte} {s : State} (hk : k < bs.length) (hlt : pa + bs.length ≤ 2 ^ 42)
    (hl : paWritable (64 * ((pa + k) / 64)) = true) (hw : paWritable pa = true) :
    (lineWrite pa bs s ((pa + k) / 64)).home.byte (pa + k) = bs[k] := by
  have hlo : paWritable (max (64 * ((pa + k) / 64)) pa) = true := by
    rcases Nat.le_total (64 * ((pa + k) / 64)) pa with h | h
    · rw [Nat.max_eq_right h]
      exact hw
    · rw [Nat.max_eq_left h]
      exact hl
  rw [lineWrite, homeWrite_taken (not_system_of_lt (by omega)) hlo]
  obtain ⟨i, hi⟩ : ∃ i, pa + k = max (64 * ((pa + k) / 64)) pa + i := ⟨pa + k - max (64 * ((pa + k) / 64)) pa, by omega⟩
  generalize hlo' : max (64 * ((pa + k) / 64)) pa = lo at hi hlo
  rw [hi, Home.byte_write_covered _ _ _ _ _ (by simp; omega)]
  simp only [List.getElem_take, List.getElem_drop]
  congr 1
  omega

/-- A write from outside, a line at a time: what it leaves, and the bytes that it covers. -/
theorem lineWrites (pa : Nat) (bs : List Byte) (L : List Nat) (s : State) :
    ∃ h, L.foldl (lineWrite pa bs) s = { s with home := h } ∧ (∀ a, a / 64 ∉ L ∨ a < pa ∨ pa + bs.length ≤ a → h.byte a = s.home.byte a) ∧
      ∀ k (hk : k < bs.length), pa + bs.length ≤ 2 ^ 42 → paWritable (64 * ((pa + k) / 64)) = true → paWritable pa = true →
        (pa + k) / 64 ∈ L → h.byte (pa + k) = bs[k] := by
  induction L generalizing s with
  | nil => exact ⟨s.home, rfl, fun a _ => rfl, fun k hk _ _ _ hm => by cases hm⟩
  | cons l L ih =>
    obtain ⟨h0, e0⟩ := s.homeWrite_eq .outside (max (64 * l) pa) ((bs.drop (max (64 * l) pa - pa)).take (64 * l + 64 - max (64 * l) pa))
    obtain ⟨h, heq, hout, hin⟩ := ih (lineWrite pa bs s l)
    refine ⟨h, heq.trans (by rw [lineWrite, e0]), fun a ha => ?_, fun k hk hlt hl hw hm => ?_⟩
    · rw [List.mem_cons, not_or] at ha
      exact (hout a (ha.imp_left And.right)).trans (lineWrite_keeps pa bs s l a (ha.imp_left And.left))
    · by_cases hrest : (pa + k) / 64 ∈ L
      · exact hin k hk hlt hl hw hrest
      · rw [hout _ (.inl hrest), ← (List.mem_cons.mp hm).resolve_right hrest]
        exact lineWrite_covers hk hlt hl hw

/-- A write from outside reaches the bytes that it covers, where they can be written, and no others. -/
theorem outsideWrite_spec (s : State) (pa : Nat) (bs : List Byte) (hlt : pa + bs.length ≤ 2 ^ 42) :
    let t := s.outsideWrite pa bs
    t = { s with home := t.home } ∧
      (∀ k, k < bs.length → paWritable (64 * ((pa + k) / 64)) = true → paWritable pa = true → some (t.home.byte (pa + k)) = bs[k]?) ∧
      ∀ a, a < pa ∨ pa + bs.length ≤ a → t.home.byte a = s.home.byte a := by
  obtain ⟨h, heq, hout, hin⟩ := lineWrites pa bs (linesOf pa bs.length) s
  rw [outsideWrite_eq, heq]
  refine ⟨rfl, fun k hk hl hw => ?_, fun a ha => hout a (.inr ha)⟩
  rw [List.getElem?_eq_getElem hk, ← hin k hk hlt hl hw (mem_linesOf hk)]

/-! ### Reads (R344, R412) -/

/-- A read delivers the bytes at the home, and ones where no memory is; nothing else changes but the count of free values. -/
theorem deliver_spec (s : State) (f : Nat → Nat) (n : Nat) :
    let t := s.deliver ((List.range n).map f)
    t = { s with tick := t.tick, dev := { s.dev with readData := t.dev.readData } } ∧ t.dev.readData.length = n ∧
      ∀ k, k < n → (paExists (f k) = false → t.dev.readData[k]? = some 0xFF) ∧
        (paExists (f k) = true → s.poisoned (f k) 1 = false → t.dev.readData[k]? = some (s.home.byte (f k))) := by
  refine ⟨rfl, by simp [State.deliver], fun k hk => ⟨fun hx => ?_, fun hx hp => ?_⟩⟩ <;> simp [State.deliver, hk, hx]
  exact fun hc => absurd hc (by simp [hp])

/-! ### The aperture of a virtual function (R412, R431) -/

/-- No byte of an access waits for zeros. -/
theorem waitZero_none {s : State} {unit : Nat} {c : Context} {need : Need} {va : Word64} {n : Nat}
    (h : ∀ k, k < n → s.access unit c need (va + BitVec.ofNat 64 k) ≠ .zero) : s.waitZero unit c need va n = none := by
  have : s.awaitsZero unit c need va n = none := by
    rw [State.awaitsZero, List.findSome?_eq_none_iff]
    exact fun k hk => if_neg (h k (List.mem_range.mp hk))
  rw [State.waitZero, this]
  rfl

/-- The address that an access reaches, where it does. -/
def Access.ok? : Access → Option Nat
  | .ok pa => some pa
  | _ => none

/-- What a virtual function's access that waits for nothing comes to, from the addresses that it reaches. -/
def vfDone (s : State) (c : Context) (va : Word64) (a : HostAccess) : Option (List Nat) → State
  | none => (s.onesFor a).record c.asid { kind := 1, final := 38, addr := va }
  | some pas =>
    match a with
    | .read _ => s.deliver pas
    | .write bs => (linesOf va.toNat bs.length).foldl (fun s k =>
        s.homeScatter .outside (((pas.zip bs).zipIdx.filter fun x => decide ((va.toNat + x.2) / 64 = k)).map (·.1))) s

theorem vfStep_ready {s : State} {vf : Nat} {va : Word64} {a : HostAccess} {c : Context} (hc : s.vfContext vf = some c)
    (hz : s.waitZero hostUnit c (if accWrites a then .write else .read) va (accLen a) = none) :
    vfStep s vf va a = vfDone s c va a (((List.range (accLen a)).map fun i =>
      s.access hostUnit c (if accWrites a then .write else .read) (va + BitVec.ofNat 64 i)).mapM Access.ok?) := by
  have hf : (fun x : Access => match x with
      | .ok pa => some pa
      | _ => none) = Access.ok? := by
    funext x
    cases x <;> rfl
  simp only [vfStep, hc, hz, vfDone]
  rw [← hf] <;> rfl

theorem mapM_eq_none {α β : Type} {f : α → Option β} {l : List α} {x : α} (hx : x ∈ l) (hf : f x = none) : l.mapM f = none := by
  induction l with
  | nil => cases hx
  | cons y l ih =>
    rcases List.mem_cons.mp hx with rfl | hx
    · simp [List.mapM_cons, hf]
    · simp [List.mapM_cons, ih hx]

theorem mapM_ok_some {f : Nat → Access} {g : Nat → Nat} {n : Nat} (h : ∀ k, k < n → f k = .ok (g k)) :
    ((List.range n).map f).mapM Access.ok? = some ((List.range n).map g) := by
  have : (List.range n).map f = (List.range n).map fun k => .ok (g k) := List.map_congr_left fun k hk => h k (List.mem_range.mp hk)
  rw [this]
  induction List.range n with
  | nil => rfl
  | cons k l ih => simp [Access.ok?, ih]

/-- A write of a virtual function at addresses that it reaches: each takes its byte, and no other address changes. -/
theorem vfWrite_spec (s : State) (va : Nat) (f : Nat → Nat) (bs : List Byte) :
    let t := (linesOf va bs.length).foldl (fun s k =>
      s.homeScatter .outside (((((List.range bs.length).map f).zip bs).zipIdx.filter fun x => decide ((va + x.2) / 64 = k)).map (·.1))) s
    t = { s with home := t.home } ∧
      (∀ k, k < bs.length → (∀ j, j < bs.length → f j = f k → j = k) → paWritable (f k) = true →
        (isSystem (f k) = false ∨ s.dev.linkUp = true) → some (t.home.byte (f k)) = bs[k]?) ∧
      ∀ a, (∀ k, k < bs.length → f k ≠ a) → t.home.byte a = s.home.byte a := by
  generalize hF : (fun k : Nat => ((((List.range bs.length).map f).zip bs).zipIdx.filter fun x => decide ((va + x.2) / 64 = k)).map (·.1)) = F
  have hmem : ∀ k p, p ∈ F k ↔ ∃ i, ∃ hi : i < bs.length, p = (f i, bs[i]) ∧ (va + i) / 64 = k := fun k p => by
    simp only [← hF, List.mem_map, List.mem_filter, decide_eq_true_eq, Prod.exists, List.mem_zipIdx_iff_getElem?]
    constructor
    · rintro ⟨a, b, i, ⟨hi, hk⟩, rfl⟩
      obtain ⟨hi, he⟩ := List.getElem?_eq_some_iff.mp hi
      have hlt : i < bs.length := by simpa using hi
      exact ⟨i, hlt, by simpa using he.symm, hk⟩
    · rintro ⟨i, hi, rfl, hk⟩
      exact ⟨_, _, i, ⟨by simp [hi], hk⟩, rfl⟩
  obtain ⟨h, heq, hout, hin⟩ := homeScatter_foldl .outside F (linesOf va bs.length) s
  have hfold : (linesOf va bs.length).foldl (fun s k =>
      s.homeScatter .outside (((((List.range bs.length).map f).zip bs).zipIdx.filter fun x => decide ((va + x.2) / 64 = k)).map (·.1))) s =
      { s with home := h } := by
    rw [← heq, ← hF]
  simp only [hfold, true_and]
  refine ⟨fun k hk hone hw hs => ?_, fun a ha => hout a fun k _ hm => ?_⟩
  · rw [List.getElem?_eq_getElem hk, hin (f k) bs[k] ?_ ?_ hw ?_]
    · intro j _ p hp hpk
      obtain ⟨i, hi, rfl, -⟩ := (hmem j p).mp hp
      obtain rfl := hone i hi hpk
      rfl
    · exact ⟨(va + k) / 64, mem_linesOf hk, List.mem_map.mpr ⟨_, (hmem _ _).mpr ⟨k, hk, rfl, rfl⟩, rfl⟩⟩
    · rcases hs with hs | hs <;> simp [hs]
  · obtain ⟨p, hp, rfl⟩ := List.mem_map.mp hm
    obtain ⟨i, hi, rfl, -⟩ := (hmem k p).mp hp
    exact ha i hi rfl

/-- The context of a function is the one of the lowest ASID that names it. -/
theorem vfContext_spec {s : State} {vf : Nat} {c : Context} (h : s.vfContext vf = some c) :
    c ∈ s.ctxs ∧ c.vf = vf ∧ ∀ d ∈ s.ctxs, d.vf = vf → c.asid ≤ d.asid := by
  have hne : (s.ctxs.filter fun c => c.vf == vf) ≠ [] := fun hc => by
    rw [State.vfContext, hc] at h
    cases h
  obtain ⟨x, hx, hmin, hle⟩ := argMin_spec (fun (c : Context) => c.asid) _ hne
  obtain rfl := Option.some.inj (hmin.symm.trans h)
  obtain ⟨hm, hv⟩ := List.mem_filter.mp hx
  exact ⟨hm, beq_iff_eq.mp hv, fun d hd hdv => hle d (List.mem_filter.mpr ⟨hd, beq_iff_eq.mpr hdv⟩)⟩

theorem vfContext_none {s : State} {vf : Nat} (h : ∀ c ∈ s.ctxs, c.vf ≠ vf) : s.vfContext vf = none := by
  rw [State.vfContext, List.filter_eq_nil_iff.mpr fun c hc => by simpa using h c hc]
  rfl

/-! ### Registers (R412, R413, R431) -/

theorem readPf_status (s : State) : s.readPf 0 = BitVec.ofNat 64 (s.dev.state + s.dev.cause * 2 ^ 8) := by
  rw [State.readPf, if_pos rfl]

/-- The registers of the physical function that a READY device lists at addresses of their own. -/
theorem readPf_ready {s : State} (h : s.dev.state = 3) :
    s.readPf 0x10 = s.dev.ctxBase ∧ s.readPf 0x28 = s.dev.invAddr ∧ s.readPf 0x38 = s.dev.invDone ∧ s.readPf 0x88 = s.dev.attDone ∧
      s.readPf 0x50 = s.dev.domIdx.zeroExtend 64 ∧ s.readPf 0x420 = s.dev.attAddr ∧
      s.readPf 0x20 = BitVec.ofNat 64 (s.dev.syncs.toNat + (if s.dev.syncBad then 2 ^ 32 else 0)) ∧
      ∀ off, off ∈ [0x08, 0x18, 0x30, 0x40, 0x48, 0x80, 0x400, 0x408, 0x410, 0x418] → s.readPf off = 0 := by
  refine ⟨by simp [State.readPf, Device.isReady, h], by simp [State.readPf, Device.isReady, h], by simp [State.readPf, Device.isReady, h],
    by simp [State.readPf, Device.isReady, h], by simp [State.readPf, Device.isReady, h], by simp [State.readPf, Device.isReady, h],
    by simp [State.readPf, Device.isReady, h], fun off hoff => ?_⟩
  fin_cases hoff <;> simp [State.readPf, Device.isReady, h]

/-- The owner of a queue, and the four registers of its block. -/
theorem readPf_queue {s : State} (h : s.dev.state = 3) {k : Nat} (hk : k < 64) :
    s.readPf (0x100 + 8 * k) = (Table.get 0 s.dev.qowner k).zeroExtend 64 ∧
      s.readPf (0x1000 + 32 * k) = (s.queue k).qctl ∧ s.readPf (0x1008 + 32 * k) = (s.queue k).qbase ∧
      s.readPf (0x1010 + 32 * k) = (s.queue k).write ∧ s.readPf (0x1018 + 32 * k) = (s.queue k).read := by
  have hblock : ∀ j, j < 32 → s.readPf (0x1000 + j + 32 * k) = match j with
      | 0 => (s.queue k).qctl
      | 8 => (s.queue k).qbase
      | 16 => (s.queue k).write
      | 24 => (s.queue k).read
      | _ => 0 := fun j hj => by
    have hq : (0x1000 + j + 32 * k - 0x1000) / 32 = k := by omega
    have hm : (0x1000 + j + 32 * k) % 32 = j := by omega
    rw [State.readPf, if_neg (by omega), if_neg (by omega), if_neg (by simp [Device.isReady, h]), if_neg (by omega), if_neg (by omega),
      if_neg (by omega), if_neg (by omega), if_neg (by omega), if_neg (by omega), if_neg (by omega), if_neg (by omega), if_pos (by omega)]
    simp only [hq, hm] <;> rfl
  refine ⟨?_, hblock 0 (by omega), hblock 8 (by omega), hblock 16 (by omega), hblock 24 (by omega)⟩
  rw [State.readPf, if_neg (by omega), if_neg (by omega), if_neg (by simp [Device.isReady, h]), if_neg (by omega), if_neg (by omega),
    if_neg (by omega), if_neg (by omega), if_neg (by omega), if_neg (by omega), if_pos (by omega), show (0x100 + 8 * k - 0x100) / 8 = k by omega]

/-- A word of the table of grants. -/
theorem readPf_grant {s : State} (h : s.dev.state = 3) {k : Nat} (hk : k < 256) :
    s.readPf (0x1800 + 8 * k) = BitVec.ofNat 64 (leNat ((List.range 8).map fun i => Table.get 0 s.dev.grants (8 * k + i))) := by
  rw [State.readPf, if_neg (by omega), if_neg (by omega), if_neg (by simp [Device.isReady, h]), if_neg (by omega), if_neg (by omega),
    if_neg (by omega), if_neg (by omega), if_neg (by omega), if_neg (by omega), if_neg (by omega), if_neg (by omega), if_neg (by omega),
    if_pos (by omega), show 0x1800 + 8 * k - 0x1800 = 8 * k by omega]

/-- A word of the capability list. -/
theorem readPf_caps {s : State} (h : s.dev.caps = true) {k : Nat} (hk : k < 512) :
    s.readPf (0x2000 + 8 * k) = BitVec.ofNat 64 (leNat ((capRegion.drop (8 * k)).take 8)) := by
  have hread : s.readPf (0x2000 + 8 * k) =
      if s.dev.caps then BitVec.ofNat 64 (leNat ((capRegion.drop (0x2000 + 8 * k - 0x2000)).take 8)) else 0 :=
    (if_neg (by omega)).trans (if_pos ⟨by omega, by omega, by omega⟩)
  rw [hread, if_pos h, Nat.add_sub_cancel_left]

/-- Before the device is READY, only DEVSTAT and the capability list read. -/
theorem readPf_notReady {s : State} (h : s.dev.state ≠ 3) {off : Nat} (h0 : off ≠ 0) (hoff : off < 0x2000 ∨ 0x3000 ≤ off) : s.readPf off = 0 := by
  rw [State.readPf, if_neg h0, if_neg (by omega), if_pos (by simp [Device.isReady, h])]

/-- What a register reads through the BAR of a virtual function. -/
theorem readReg_vf {s : State} {fn off : Nat} (h : fn ≠ 0) :
    s.readReg fn off = if off = 0 ∨ (0x2000 ≤ off ∧ off < 0x3000) ∨
      (0x1000 ≤ off ∧ off < 0x1800 ∧ s.vfOwns fn ((off - 0x1000) / 32) = true) then s.readPf off else 0 := by
  rw [State.readReg]
  refine if_congr ?_ rfl rfl
  simp [State.vfSees, h, or_assoc, and_assoc]

/-! ### The accesses of a virtual function -/

theorem vf_out {s : State} {vf : Nat} {va : Word64} {acc : HostAccess} (h : vf = 0 ∨ 32 < vf ∨ 2 ^ 42 < va.toNat + accLen acc) :
    exec (.vfApertureAccess vf va acc) s = .next s := by
  have hno : inAperture vf va (accLen acc) = false := by
    rcases h with h | h | h <;> simp [inAperture] <;> omega
  exact congrArg (fun o => event s o) (if_pos (by rw [hno]; rfl))

theorem vf_in {s : State} {vf : Nat} {va : Word64} {acc : HostAccess} (h1 : 1 ≤ vf) (h2 : vf ≤ 32) (h3 : va.toNat + accLen acc ≤ 2 ^ 42) :
    exec (.vfApertureAccess vf va acc) s = .next (if s.dev.isReady then vfStep s vf va acc else s.onesFor acc) := by
  have hin : inAperture vf va (accLen acc) = true := by
    rw [inAperture, decide_eq_true h1, decide_eq_true h2, decide_eq_true h3]
    rfl
  refine event_some ((if_neg (by rw [hin]; decide)).trans ?_)
  cases s.dev.isReady <;> rfl

/-- Where the device is not READY or the function has no context, a read gives ones and a write is discarded. -/
theorem vf_noContext {s : State} {vf : Nat} {va : Word64} {acc : HostAccess} (h1 : 1 ≤ vf) (h2 : vf ≤ 32) (h3 : va.toNat + accLen acc ≤ 2 ^ 42)
    (h : s.dev.state ≠ 3 ∨ ∀ c ∈ s.ctxs, c.vf ≠ vf) : exec (.vfApertureAccess vf va acc) s = .next (s.onesFor acc) := by
  rw [vf_in h1 h2 h3]
  rcases h with h | h
  · rw [if_neg (by simp [Device.isReady, h])]
  · rw [vfStep, vfContext_none h]
    exact congrArg _ (ite_self _)

section
variable {s : State} {vf : Nat} {va : Word64} {acc : HostAccess} {c : Context} (h1 : 1 ≤ vf) (h2 : vf ≤ 32)
  (h3 : va.toNat + accLen acc ≤ 2 ^ 42) (hr : s.dev.state = 3) (hc : s.vfContext vf = some c)
include h1 h2 h3 hr hc

theorem vf_waits {t : State} (hz : s.waitZero hostUnit c (if accWrites acc then .write else .read) va (accLen acc) = some t) :
    exec (.vfApertureAccess vf va acc) s = .next t := by
  rw [vf_in h1 h2 h3, if_pos (isReady_of hr)]
  simp only [vfStep, hc, hz]

theorem vf_goes (hz : ∀ k, k < accLen acc → s.access hostUnit c (if accWrites acc then .write else .read) (va + BitVec.ofNat 64 k) ≠ .zero) :
    exec (.vfApertureAccess vf va acc) s = .next (vfDone s c va acc (((List.range (accLen acc)).map fun i =>
      s.access hostUnit c (if accWrites acc then .write else .read) (va + BitVec.ofNat 64 i)).mapM Access.ok?)) := by
  rw [vf_in h1 h2 h3, if_pos (isReady_of hr), vfStep_ready hc (waitZero_none hz)]

theorem vf_fails (hz : ∀ k, k < accLen acc → s.access hostUnit c (if accWrites acc then .write else .read) (va + BitVec.ofNat 64 k) ≠ .zero)
    {k : Nat} (hk : k < accLen acc) (hx : ∀ x, s.access hostUnit c (if accWrites acc then .write else .read) (va + BitVec.ofNat 64 k) ≠ .ok x) :
    exec (.vfApertureAccess vf va acc) s = .next ((s.onesFor acc).record c.asid { kind := 1, final := 38, addr := va }) := by
  have hnone : (s.access hostUnit c (if accWrites acc then .write else .read) (va + BitVec.ofNat 64 k)).ok? = none := by
    cases hf : s.access hostUnit c (if accWrites acc then .write else .read) (va + BitVec.ofNat 64 k) with
    | ok x => exact absurd hf (hx x)
    | _ => rfl
  rw [vf_goes h1 h2 h3 hr hc hz, mapM_eq_none (List.mem_map.mpr ⟨k, List.mem_range.mpr hk, rfl⟩) hnone]
  rfl

theorem vf_reaches {f : Nat → Nat}
    (h : ∀ k, k < accLen acc → s.access hostUnit c (if accWrites acc then .write else .read) (va + BitVec.ofNat 64 k) = .ok (f k)) :
    exec (.vfApertureAccess vf va acc) s = .next (vfDone s c va acc (some ((List.range (accLen acc)).map f))) := by
  rw [vf_goes h1 h2 h3 hr hc fun k hk => (h k hk).symm ▸ Access.noConfusion, mapM_ok_some h]

end

/-- Settles O49: each access, register and link by its own lemma. -/
theorem outsideAccesses : Obligations.OutsideAccesses := by
  unfold Obligations.OutsideAccesses
  intro s pa n bytes
  dsimp only
  refine ⟨fun h => ⟨_, event_some (if_pos h), deliver_spec s (pa + ·) n⟩, fun h => ⟨_, event_some (if_pos h), outsideWrite_spec s pa bytes h⟩,
    fun src => ⟨fun h => ⟨_, event_some (if_pos h), deliver_spec s (pa + ·) n⟩, fun h => congrArg (fun o => event s o) (if_neg (by simp [accLen, accWrites, h])),
      fun h hlt => ⟨_, event_some (if_pos h), outsideWrite_spec s pa bytes hlt⟩, fun h => congrArg (fun o => event s o) (if_neg (by simp [accLen, accWrites, h]))⟩,
    fun vf va acc => ?_, fun vf c h => vfContext_spec h,
    ⟨readPf_status s, fun k h hk => readPf_caps h hk, fun off h0 hoff h => readPf_notReady h h0 hoff, fun h => ?_⟩,
    fun fn off => ⟨rfl, readReg_vf⟩, fun pasid page pages => ⟨_, rfl, rfl, rfl, fun e => ?_⟩, rfl, rfl, fun k => ⟨rfl, rfl⟩⟩
  · cases acc with
    | read m =>
      refine ⟨vf_out (acc := .read m), fun h1 h2 h3 => ⟨vf_noContext (acc := .read m) h1 h2 h3, fun c hr hc => ⟨fun t hz => vf_waits (acc := .read m) h1 h2 h3 hr hc hz,
        fun hz ⟨k, hk, hx⟩ => vf_fails (acc := .read m) h1 h2 h3 hr hc hz hk hx, fun f hf => ⟨fun hn => ?_, fun l hl => by cases hl⟩⟩⟩⟩
      obtain rfl := HostAccess.read.inj hn
      exact ⟨_, vf_reaches (acc := .read m) h1 h2 h3 hr hc hf, deliver_spec s f m⟩
    | write bs =>
      refine ⟨vf_out (acc := .write bs), fun h1 h2 h3 => ⟨vf_noContext (acc := .write bs) h1 h2 h3, fun c hr hc => ⟨fun t hz => vf_waits (acc := .write bs) h1 h2 h3 hr hc hz,
        fun hz ⟨k, hk, hx⟩ => vf_fails (acc := .write bs) h1 h2 h3 hr hc hz hk hx, fun f hf => ⟨fun hn => (by cases hn), fun l hl => ?_⟩⟩⟩⟩
      obtain rfl := HostAccess.write.inj hl
      exact ⟨_, vf_reaches (acc := .write bs) h1 h2 h3 hr hc hf, vfWrite_spec s va.toNat f bs⟩
  · obtain ⟨a, b, c, d, e, f, g, z⟩ := readPf_ready h
    exact ⟨a, b, c, d, e, f, g, z, fun k hk => readPf_queue h hk, fun k hk => readPf_grant h hk⟩
  · simp [State.dropAtc]
    omega

end Sys2Proof.Machine
end

section
/-!
PROOF. The copy, collective, launch and refinement engines (15 R371 to R388, 10 R260 to R262).
-/
namespace Sys2Proof.Machine
open Sys2Proof

/-! ### Lines of a COPY or GATHER (R377, R379) -/

/-- The state that an attempt at a line leaves. -/
def LineOut.after : LineOut → State
  | .done s c => (s.setCmd c).chargeStep c.asid (s.classOf c.g.grid) 27
  | .fail s c => s.setCmd c
  | .stop s c => s.setCmd c
  | .busy s => s

theorem exec_copyLine {s : State} {n : Nat} {c : Command} {ctx : Context} {b : Box} {ln : Option TRef × Nat} (hc : s.cmd? n = some c)
    (hctx : s.ctx? c.asid = some ctx) (hb : boxOf c.kind = some b) (hl : c.lines.find? (fun l => decide (l.2 = ln.2)) = some ln)
    (hg : c.going s 27 = true) (ht : s.copyTurn c.core c.asid = true) :
    exec (.copyLineWrite n ln.2) s = .next (copyLine (s.served (queueAt c.core 1) c.asid) { c with stop := none } ctx b ln).after := by
  refine event_some ?_
  simp only [copyStep, hc, hb, hctx, hl, hg, ht, Option.bind_some, Bool.not_true, Bool.or_self, Bool.false_eq_true, if_false]
  cases copyLine (s.served (queueAt c.core 1) c.asid) { c with stop := none } ctx b ln <;> rfl

/-- A line whose elements all have values and places in this device goes on to its write. -/
theorem copyLine_done {s : State} {c : Command} {ctx : Context} {b : Box} {ln : Option TRef × Nat}
    (hels : ∀ e ∈ (lineView s c (c.path ctx) b ln).els, ∃ va n f t, e.2 = .put va n f t)
    (hds : ∀ d ∈ (lineView s c (c.path ctx) b ln).dests, ∃ t, d.2 = .at_ t)
    (hopen : s.linesOpen c.asid (s.classOf c.g.grid) ((lineView s c (c.path ctx) b ln).walks ++
      s.hbmLines ((lineView s c (c.path ctx) b ln).reads.filterMap EngAt.target? ++
        ((lineView s c (c.path ctx) b ln).dests.map (·.2)).filterMap EngAt.target?)) = true) :
    copyLine s c ctx b ln = .done (putBoxLine s c (c.path ctx) b ln (lineView s c (c.path ctx) b ln)).1
      (putBoxLine s c (c.path ctx) b ln (lineView s c (c.path ctx) b ln)).2 := by
  generalize hv : lineView s c (c.path ctx) b ln = v at *
  have hz : v.zeros c.kind = [] := by
    simp only [LineView.zeros, List.append_eq_nil_iff, List.filterMap_eq_nil_iff]
    refine ⟨fun e he => ?_, fun d hd => ?_⟩
    · obtain ⟨va, n, f, t, h⟩ := hels e he
      simp [h]
    · obtain ⟨t, h⟩ := hds d hd
      simp [h]
  have hf : v.far = false := by
    simp only [LineView.far, List.any_eq_false]
    intro d hd
    obtain ⟨t, h⟩ := hds d hd
    simp [h, EngAt.far]
  have hw : v.waits = false := by
    simp only [LineView.waits, Bool.or_eq_false_iff, List.any_eq_false]
    refine ⟨fun e he => ?_, fun d hd => ?_⟩
    · obtain ⟨va, n, f, t, h⟩ := hels e he
      simp [h]
    · obtain ⟨t, h⟩ := hds d hd
      simp [h]
  have ht : v.turns = [] := by
    simp only [LineView.turns, List.dedup_eq_nil, List.append_eq_nil_iff, List.filterMap_eq_nil_iff]
    refine ⟨fun e he => ?_, fun d hd => ?_⟩
    · obtain ⟨va, n, f, t, h⟩ := hels e he
      simp [h]
    · obtain ⟨t, h⟩ := hds d hd
      simp [h]
  have hb : v.bads s c.kind = [] := by
    simp only [LineView.bads, List.append_eq_nil_iff, List.filterMap_eq_nil_iff]
    refine ⟨fun e he => ?_, fun d hd => ?_⟩
    · obtain ⟨va, n, f, t, h⟩ := hels e he
      simp [h]
    · obtain ⟨t, h⟩ := hds d hd
      simp [h, EngAt.cause?]
  simp only [copyLine, hv, hz, hf, hw, ht, hb, hopen, List.isEmpty_nil, Bool.not_true, Bool.false_and, Bool.or_self, Bool.false_eq_true, if_false]
  rfl

/-! ### Bytes of a line in memory -/

/-- The bytes of a line that memory takes, with their addresses. -/
def memBytes (l : List (Target × List Byte)) : List (Nat × Byte) :=
  l.flatMap fun (at_, bs) => match at_ with
    | .mem pa => (List.range bs.length).map fun i => (pa + i, (bs[i]?).getD 0)
    | _ => []

/-- A line all of whose places are in memory leaves its bytes there. -/
theorem putLine_byte {s : State} {gr : GRef} {m : TaintMode} {l : List (Target × List Byte)} {t : Bool} (hm : ∀ u ∈ l, ∃ pa, u.1 = .mem pa)
    {a : Nat} {b : Byte} (hall : ∀ p ∈ memBytes l, p.1 = a → p.2 = b) :
    (s.putLine gr m l t).home.byte a =
      if a ∈ (memBytes l).map (·.1) ∧ paWritable a = true ∧ (isSystem a && !s.dev.linkUp) = false then b else s.home.byte a := by
  have himg : imageParts l = [] := by
    simp only [imageParts, List.map_eq_nil_iff, List.dedup_eq_nil, List.filterMap_eq_nil_iff]
    rintro ⟨u, bs⟩ hu
    obtain ⟨pa, h⟩ := hm _ hu
    subst h
    rfl
  have hscr : scratchParts l = [] := by
    simp only [scratchParts, List.map_eq_nil_iff, List.dedup_eq_nil, List.filterMap_eq_nil_iff]
    rintro ⟨u, bs⟩ hu
    obtain ⟨pa, h⟩ := hm _ hu
    subst h
    rfl
  have hfold : ∀ (L : List (Target × List Byte)) (s : State), (∀ u ∈ L, ∃ pa, u.1 = .mem pa) → L.foldl (fun s (at_, bs) => match at_ with
      | .mem _ => s
      | .scratch tm a =>
        match s.team? tm with
        | none => s
        | some x => ((s.veilFor gr s.engineWord at_ bs t).setTeam (x.spWrite a bs t)).toSaved at_ bs
      | .image .. => s
      | at_ => s.writeAt gr s.engineWord at_ bs t) s = s := by
    intro L
    induction L with
    | nil => exact fun _ _ => rfl
    | cons u L ih =>
      intro s hu
      obtain ⟨pa, h⟩ := hu u List.mem_cons_self
      obtain ⟨u1, u2⟩ := u
      subst h
      exact ih s fun w hw => hu w (List.mem_cons_of_mem _ hw)
  have heq : s.putLine gr m l t = if (memBytes l).isEmpty then s else s.homeScatter m (memBytes l) := by
    show (scratchParts l).foldl _ ((imageParts l).foldl _ (l.foldl _ _)) = _
    rw [himg, hscr]
    exact hfold l _ hm
  rw [heq]
  split
  · next h => rw [List.isEmpty_iff.mp h, if_neg fun hc => by simp at hc]
  · exact byte_homeScatter hall

/-! ### One value for each address (R379) -/

theorem mem_of_mem_pickOne {n : Nat} {l : List (Word64 × Nat × Bool)} {p : Word64 × Nat × Bool} (h : p ∈ pickOne n l) : p ∈ l := by
  obtain ⟨va, -, hp⟩ := List.mem_filterMap.mp h
  exact List.mem_of_mem_filter (List.mem_of_mem_drop (List.mem_of_head? hp))

/-- An element that no other shares its address with is the one picked there. -/
theorem mem_pickOne {n : Nat} {l : List (Word64 × Nat × Bool)} {p : Word64 × Nat × Bool} (h : p ∈ l) (hone : ∀ q ∈ l, q.1 = p.1 → q = p) :
    p ∈ pickOne n l := by
  refine List.mem_filterMap.mpr ⟨p.1, List.mem_dedup.mpr (List.mem_map.mpr ⟨p, h, rfl⟩), ?_⟩
  have hpos : 0 < (l.filter fun q => q.1 == p.1).length := List.length_pos_of_mem (List.mem_filter.mpr ⟨h, beq_self_eq_true _⟩)
  have hlt := Nat.mod_lt n hpos
  rw [List.head?_drop, List.getElem?_eq_getElem hlt]
  have hmem := List.getElem_mem hlt
  obtain ⟨hl, he⟩ := List.mem_filter.mp hmem
  rw [hone _ hl (beq_iff_eq.mp he)]

/-! ### Bytes and values (00 R2, 09 R240) -/

theorem leBytes_length (v n : Nat) : (leBytes v n).length = n := by
  induction n generalizing v with
  | zero => rfl
  | succ n ih => simp [leBytes, ih]

/-- The bytes of the value that bytes form are those bytes. -/
theorem leBytes_leNat (l : List Byte) : leBytes (leNat l) l.length = l := by
  induction l with
  | nil => rfl
  | cons b l ih =>
    have hb := b.isLt
    have hd : (b.toNat + 256 * leNat l) / 256 = leNat l := by omega
    simp only [leNat, List.length_cons, leBytes, hd, ih, List.cons.injEq, and_true]
    apply BitVec.eq_of_toNat_eq
    simp only [BitVec.toNat_ofNat]
    omega

theorem leNat_lt (l : List Byte) : leNat l < 2 ^ (8 * l.length) := by
  induction l with
  | nil => simp [leNat]
  | cons b l ih =>
    have hb := b.isLt
    have hp : 2 ^ (8 * (b :: l).length) = 256 * 2 ^ (8 * l.length) := by
      rw [List.length_cons, Nat.mul_add, Nat.pow_add]
      omega
    rw [hp, leNat]
    omega

theorem memSize_pos (ty : Nat) : 0 < memSize ty := by
  unfold memSize tyBits
  split
  · omega
  · split <;> omega

/-- A conversion between equal integer formats gives the value back. -/
theorem convert_int_self {ty rm n : Nat} (hty : ty ≤ 7) (hn : n < 2 ^ tyBits ty) : (convert ty ty rm n).1 = n := by
  have hi : isIntTy ty = true := decide_eq_true hty
  simp only [convert, hi, if_true, intOf, Nat.mod_eq_of_lt hn, BitVec.toNat_ofInt]
  have hpow : (2 : Int) ^ tyBits ty = ((2 ^ tyBits ty : Nat) : Int) := by push_cast; rfl
  have hmod : ((n : Int) % (2 ^ tyBits ty : Nat)).toNat = n := by rw [← Int.natCast_mod, Int.toNat_natCast, Nat.mod_eq_of_lt hn]
  split
  · rw [hpow, Int.sub_emod_right, hmod]
  · exact hmod

theorem memSize_bits {ty : Nat} (hty : ty ≤ 7) : 8 * memSize ty = tyBits ty := by
  interval_cases ty <;> rfl

/-! ### A COPY from memory to memory (R379) -/

/-- A read by an engine of memory that is not poisoned, where the command has taken no line yet. -/
theorem engRead_mem {s : State} {x : EngPath} {va : Word64} {n pa : Nat} (h : s.accessPeer x.unit x.ctx .read va = .ok pa)
    (hp : s.poisonAt (.mem pa) n = false) : s.engRead x [] 0 va n = .val (leNat (s.home.read pa n)) (s.home.tainted pa n) := by
  have ht : s.engTarget x 0 false false va n = .at_ (.mem pa) := by simp [State.engTarget, h]
  simp only [State.engRead, ht, EngAt.line?, Option.bind_some, List.find?_nil, hp, Bool.false_eq_true, if_false]
  rfl

theorem engAt_mem {s : State} {x : EngPath} {va : Word64} {n pa : Nat} {l : Bool} (h : s.accessPeer x.unit x.ctx .write va = .ok pa) :
    s.engAt x 0 true l va n = .at_ (.mem pa) := by
  have ht : s.engTarget x 0 true l va n = .at_ (.mem pa) := by simp [State.engTarget, h]
  simp [State.engAt, ht]

/-- The value that an element of a COPY from memory to memory puts, converted from the bytes of its source. -/
def copied (s : State) (src dst : BitVec 512) (rm : Nat) (f : Nat → Nat) (i : Nat) : Nat × Flags :=
  convert (recFmt dst) (recFmt src) rm (leNat (s.home.read (f i) (recSize src)))

/-- The places and bytes that a line puts. -/
def boxPuts (s : State) (x : EngPath) (b : Box) (v : LineView) : List (Target × List Byte) :=
  (pickOne (Config.choice s.tick) (v.vals.map fun y => (y.1, y.2.1, y.2.2.2))).filterMap fun y =>
    (s.engAt x b.dspace true (b.dspace == 1) y.1 (recSize b.dst)).target?.map fun u => (u, leBytes y.2.1 (recSize b.dst))

/-- The box of a COPY from memory to memory. -/
def memBox (src dst : BitVec 512) (rm : Nat) : Box := { count := recCount dst, dst := dst, src := src, sspace := 0, dspace := 0, rm := rm }

section
variable {s : State} {c : Command} {ctx : Context} {src dst : BitVec 512} {sbase dbase : Word64} {coord : List Int} {rm : Nat}
  {ln : Option TRef × Nat} {a : Nat → Word64} {f g : Nat → Nat} {idx : List Nat}
  (hk : c.kind = .copy src dst sbase dbase coord 0 0 rm) (hgot : c.got = [])
  (hidx : idx = (List.range (recCount dst)).filter fun i => decide ((elemDst c.kind i).toNat / 64 = ln.2))
  (hel : ∀ i ∈ idx, elemSrc s (c.path ctx) [] c.kind i = .addr (a i) ∧ s.accessPeer (c.path ctx).unit ctx .read (a i) = .ok (f i) ∧
    s.accessPeer (c.path ctx).unit ctx .write (elemDst c.kind i) = .ok (g i) ∧ s.poisonAt (.mem (f i)) (recSize src) = false)
include hk hgot hidx hel

/-- What the elements of a line of it put. -/
theorem copyEls : (lineView s c (c.path ctx) (memBox src dst rm) ln).els = idx.map fun i => (i, .put (elemDst c.kind i)
    (copied s src dst rm f i).1 (copied s src dst rm f i).2 (s.home.tainted (f i) (recSize src) || elemIndexTaint s (c.path ctx) [] c.kind i)) := by
  rw [hidx]
  refine List.map_congr_left fun i hi => ?_
  obtain ⟨hsrc, hread, -, hpoison⟩ := hel i (hidx ▸ hi)
  simp only [hgot, elemValue, hsrc, memBox, engRead_mem hread hpoison, copied]

theorem copyVals : (lineView s c (c.path ctx) (memBox src dst rm) ln).vals = idx.map fun i => (elemDst c.kind i,
    (copied s src dst rm f i).1, (copied s src dst rm f i).2, (s.home.tainted (f i) (recSize src) || elemIndexTaint s (c.path ctx) [] c.kind i)) := by
  rw [LineView.vals, copyEls hk hgot hidx hel, List.filterMap_map]
  exact List.filterMap_eq_map' (f := fun i => (elemDst c.kind i, (copied s src dst rm f i).1, (copied s src dst rm f i).2,
    (s.home.tainted (f i) (recSize src) || elemIndexTaint s (c.path ctx) [] c.kind i))) ▸ rfl

theorem copyDests (d : Nat × EngAt) (hd : d ∈ (lineView s c (c.path ctx) (memBox src dst rm) ln).dests) : ∃ t, d.2 = .at_ t := by
  obtain ⟨i, hi, rfl⟩ := List.mem_map.mp hd
  obtain ⟨-, -, hwrite, -⟩ := hel i (hidx ▸ hi)
  exact ⟨_, engAt_mem hwrite⟩

/-- The bytes of the line: each byte of an element, at its place. -/
theorem copyBytes (hap : ∀ i ∈ idx, ∀ j ∈ idx, i ≠ j → g i + recSize dst ≤ g j ∨ g j + recSize dst ≤ g i) (p : Nat × Byte) :
    p ∈ memBytes (boxPuts s (c.path ctx) (memBox src dst rm) (lineView s c (c.path ctx) (memBox src dst rm) ln)) ↔
      ∃ i ∈ idx, ∃ k, k < recSize dst ∧ p = (g i + k, ((leBytes (copied s src dst rm f i).1 (recSize dst))[k]?).getD 0) := by
  have hone : ∀ i ∈ idx, ∀ j ∈ idx, elemDst c.kind j = elemDst c.kind i → j = i := fun i hi j hj he => by
    obtain ⟨-, -, hwi, -⟩ := hel i hi
    obtain ⟨-, -, hwj, -⟩ := hel j hj
    rw [he, hwi] at hwj
    have hg := Access.ok.inj hwj
    have hz : 0 < recSize dst := memSize_pos _
    by_contra hne
    rcases hap j hj i hi hne with h | h <;> omega
  have hview : boxPuts s (c.path ctx) (memBox src dst rm) (lineView s c (c.path ctx) (memBox src dst rm) ln) =
      (pickOne (Config.choice s.tick) (idx.map fun i => (elemDst c.kind i, (copied s src dst rm f i).1, (s.home.tainted (f i) (recSize src) ||
        elemIndexTaint s (c.path ctx) [] c.kind i)))).filterMap fun y =>
        (s.engAt (c.path ctx) 0 true false y.1 (recSize dst)).target?.map fun u => (u, leBytes y.2.1 (recSize dst)) := by
    rw [boxPuts, copyVals hk hgot hidx hel, List.map_map]
    rfl
  rw [hview]
  constructor
  · intro hp
    obtain ⟨⟨u, bs⟩, hu, hp⟩ := List.mem_flatMap.mp hp
    obtain ⟨y, hy, hu⟩ := List.mem_filterMap.mp hu
    obtain ⟨i, hi, rfl⟩ := List.mem_map.mp (mem_of_mem_pickOne hy)
    obtain ⟨-, -, hwrite, -⟩ := hel i hi
    simp only [engAt_mem hwrite, EngAt.target?, Option.map_some, Option.some.injEq, Prod.mk.injEq] at hu
    obtain ⟨rfl, rfl⟩ := hu
    obtain ⟨k, hk, rfl⟩ := List.mem_map.mp hp
    exact ⟨i, hi, k, by simpa [leBytes_length] using hk, rfl⟩
  · rintro ⟨i, hi, k, hk, rfl⟩
    obtain ⟨-, -, hwrite, -⟩ := hel i hi
    refine List.mem_flatMap.mpr ⟨(.mem (g i), leBytes (copied s src dst rm f i).1 (recSize dst)), List.mem_filterMap.mpr ⟨_,
      mem_pickOne (List.mem_map.mpr ⟨i, hi, rfl⟩) fun q hq he => ?_, ?_⟩, List.mem_map.mpr ⟨k, by simpa [leBytes_length] using hk, rfl⟩⟩
    · obtain ⟨j, hj, rfl⟩ := List.mem_map.mp hq
      rw [hone i hi j hj he]
    · simp only [engAt_mem hwrite, EngAt.target?, Option.map_some]

/-- Every place of the line is in memory. -/
theorem copyPuts_mem (u : Target × List Byte)
    (hu : u ∈ boxPuts s (c.path ctx) (memBox src dst rm) (lineView s c (c.path ctx) (memBox src dst rm) ln)) : ∃ pa, u.1 = .mem pa := by
  obtain ⟨y, hy, hu⟩ := List.mem_filterMap.mp hu
  have hy := mem_of_mem_pickOne hy
  rw [copyVals hk hgot hidx hel, List.map_map] at hy
  obtain ⟨i, hi, rfl⟩ := List.mem_map.mp hy
  obtain ⟨-, -, hwrite, -⟩ := hel i hi
  have hat : s.engAt (c.path ctx) 0 true false (elemDst c.kind i) (recSize dst) = .at_ (.mem (g i)) := engAt_mem hwrite
  change Option.map _ (s.engAt (c.path ctx) 0 true false (elemDst c.kind i) (recSize dst)).target? = some u at hu
  rw [hat] at hu
  exact ⟨g i, (Option.some.inj hu) ▸ rfl⟩

end

theorem putBoxLine_eq (s : State) (c : Command) (x : EngPath) (b : Box) (ln : Option TRef × Nat) (v : LineView) :
    ∃ lines m t, (putBoxLine s c x b ln v).1 = (State.unmark (if v.far then
      State.charge (((s.chargeLines c.asid (s.classOf c.g.grid) lines).putLine c.g m (boxPuts s x b v) t)) c.asid (s.classOf c.g.grid) 29 1
      else (s.chargeLines c.asid (s.classOf c.g.grid) lines).putLine c.g m (boxPuts s x b v) t) c.serial).bump := ⟨_, _, _, rfl⟩

/-- What a line leaves in memory: nothing is done to memory after it is put. -/
theorem putBoxLine_home (s : State) (c : Command) (x : EngPath) (b : Box) (ln : Option TRef × Nat) (v : LineView) :
    ∃ cs : List Context, ∃ m t, (putBoxLine s c x b ln v).1.home = (State.putLine { s with ctxs := cs } c.g m (boxPuts s x b v) t).home := by
  obtain ⟨lines, m, t, heq⟩ := putBoxLine_eq s c x b ln v
  obtain ⟨cs, hcs⟩ := s.chargeLines_eq c.asid (s.classOf c.g.grid) lines
  refine ⟨cs, m, t, ?_⟩
  rw [heq, hcs]
  generalize State.putLine _ _ _ _ _ = u
  split <;> rfl

/-- The bytes that memory holds after a line of a COPY from memory to memory. -/
theorem copyLine_bytes {s : State} {c : Command} {ctx : Context} {src dst : BitVec 512} {sbase dbase : Word64} {coord : List Int} {rm : Nat}
    {ln : Option TRef × Nat} {a : Nat → Word64} {f g : Nat → Nat} {idx : List Nat}
    (hk : c.kind = .copy src dst sbase dbase coord 0 0 rm) (hgot : c.got = []) (hlink : s.dev.linkUp = true)
    (hidx : idx = (List.range (recCount dst)).filter fun i => decide ((elemDst c.kind i).toNat / 64 = ln.2))
    (hel : ∀ i ∈ idx, elemSrc s (c.path ctx) [] c.kind i = .addr (a i) ∧ s.accessPeer (c.path ctx).unit ctx .read (a i) = .ok (f i) ∧
      s.accessPeer (c.path ctx).unit ctx .write (elemDst c.kind i) = .ok (g i) ∧ s.poisonAt (.mem (f i)) (recSize src) = false)
    (hw : ∀ i ∈ idx, ∀ k, k < recSize dst → paWritable (g i + k) = true)
    (hap : ∀ i ∈ idx, ∀ j ∈ idx, i ≠ j → g i + recSize dst ≤ g j ∨ g j + recSize dst ≤ g i) (x : Nat) :
    (∀ i ∈ idx, ∀ k, k < recSize dst → x = g i + k →
      (putBoxLine s c (c.path ctx) (memBox src dst rm) ln (lineView s c (c.path ctx) (memBox src dst rm) ln)).1.home.byte x =
        ((leBytes (copied s src dst rm f i).1 (recSize dst))[k]?).getD 0) ∧
    ((∀ i ∈ idx, x < g i ∨ g i + recSize dst ≤ x) →
      (putBoxLine s c (c.path ctx) (memBox src dst rm) ln (lineView s c (c.path ctx) (memBox src dst rm) ln)).1.home.byte x = s.home.byte x) := by
  obtain ⟨cs, m, t, hhome⟩ := putBoxLine_home s c (c.path ctx) (memBox src dst rm) ln (lineView s c (c.path ctx) (memBox src dst rm) ln)
  have hbytes := copyBytes (rm := rm) hk hgot hidx hel hap
  have hmem := copyPuts_mem (rm := rm) hk hgot hidx hel
  rw [hhome]
  generalize boxPuts s (c.path ctx) (memBox src dst rm) (lineView s c (c.path ctx) (memBox src dst rm) ln) = puts at hbytes hmem
  have hput : ∀ b : Byte, (∀ p ∈ memBytes puts, p.1 = x → p.2 = b) → (State.putLine { s with ctxs := cs } c.g m puts t).home.byte x =
      if x ∈ (memBytes puts).map (·.1) ∧ paWritable x = true ∧ (isSystem x && !s.dev.linkUp) = false then b else s.home.byte x :=
    fun b hall => putLine_byte hmem hall
  refine ⟨fun i hi k hk' hx => ?_, fun hx => ?_⟩
  · refine (hput _ fun p hp hpx => ?_).trans (if_pos ⟨List.mem_map.mpr ⟨_, (hbytes _).mpr ⟨i, hi, k, hk', rfl⟩, hx.symm⟩, hx ▸ hw i hi k hk', ?_⟩)
    · obtain ⟨j, hj, k', hk'', rfl⟩ := (hbytes p).mp hp
      have hij : j = i := by
        by_contra hne
        rcases hap j hj i hi hne with h | h <;> dsimp only at hpx <;> omega
      subst hij
      have hkk : k' = k := by dsimp only at hpx; omega
      rw [hkk]
    · rw [hlink, Bool.not_true, Bool.and_false]
  · refine (hput 0 fun p hp hpx => ?_).trans (if_neg fun hc => ?_)
    · obtain ⟨j, hj, k, hk', rfl⟩ := (hbytes p).mp hp
      rcases hx j hj with h | h <;> dsimp only at hpx <;> omega
    · obtain ⟨p, hp, rfl⟩ := List.mem_map.mp hc.1
      obtain ⟨j, hj, k, hk', rfl⟩ := (hbytes p).mp hp
      rcases hx j hj with h | h <;> dsimp only at h <;> omega

/-- The bytes that an element of an integer format puts are those of its source. -/
theorem copied_same {s : State} {src dst : BitVec 512} {rm : Nat} {f : Nat → Nat} {i : Nat} (heq : recFmt dst = recFmt src) (hty : recFmt src ≤ 7) :
    leBytes (copied s src dst rm f i).1 (recSize dst) = (List.range (recSize src)).map fun k => s.home.byte (f i + k) := by
  have hlen : (s.home.read (f i) (recSize src)).length = recSize src := by simp [Home.read]
  have hlt := leNat_lt (s.home.read (f i) (recSize src))
  rw [hlen, show 8 * recSize src = tyBits (recFmt src) from memSize_bits hty] at hlt
  have hsize : recSize dst = recSize src := congrArg memSize heq
  rw [copied, heq, convert_int_self hty hlt, hsize]
  have hbytes := leBytes_leNat (s.home.read (f i) (recSize src))
  rw [hlen] at hbytes
  exact hbytes

/-- A line of a COPY from memory to memory. -/
theorem copy_to_memory {s : State} {n : Nat} {c : Command} {ctx : Context} {src dst : BitVec 512} {sbase dbase : Word64} {coord : List Int} {rm : Nat}
    {ln : Option TRef × Nat} {a : Nat → Word64} {f g : Nat → Nat} {idx : List Nat} (hc : s.cmd? n = some c)
    (hctx : s.ctx? c.asid = some ctx) (hl : c.lines.find? (fun l => decide (l.2 = ln.2)) = some ln)
    (hg : c.going s 27 = true) (ht : s.copyTurn c.core c.asid = true)
    (hk : c.kind = .copy src dst sbase dbase coord 0 0 rm) (hgot : c.got = []) (hlink : s.dev.linkUp = true)
    (hidx : idx = (List.range (recCount dst)).filter fun i => decide ((elemDst c.kind i).toNat / 64 = ln.2))
    (hel : ∀ i ∈ idx, elemSrc (s.served (queueAt c.core 1) c.asid) (c.path ctx) [] c.kind i = .addr (a i) ∧
      (s.served (queueAt c.core 1) c.asid).accessPeer (c.path ctx).unit ctx .read (a i) = .ok (f i) ∧
      (s.served (queueAt c.core 1) c.asid).accessPeer (c.path ctx).unit ctx .write (elemDst c.kind i) = .ok (g i) ∧
      (s.served (queueAt c.core 1) c.asid).poisonAt (.mem (f i)) (recSize src) = false ∧ ∀ k, k < recSize dst → paWritable (g i + k) = true)
    (hap : ∀ i ∈ idx, ∀ j ∈ idx, i ≠ j → g i + recSize dst ≤ g j ∨ g j + recSize dst ≤ g i)
    (hopen : (s.served (queueAt c.core 1) c.asid).linesOpen c.asid (s.classOf c.g.grid)
      ((lineView (s.served (queueAt c.core 1) c.asid) { c with stop := none } (c.path ctx) (memBox src dst rm) ln).walks ++
      (s.served (queueAt c.core 1) c.asid).hbmLines
        ((lineView (s.served (queueAt c.core 1) c.asid) { c with stop := none } (c.path ctx) (memBox src dst rm) ln).reads.filterMap EngAt.target? ++
        ((lineView (s.served (queueAt c.core 1) c.asid) { c with stop := none } (c.path ctx) (memBox src dst rm) ln).dests.map (·.2)).filterMap
          EngAt.target?)) = true) :
    ∃ t, exec (.copyLineWrite n ln.2) s = .next t ∧
      (∀ i ∈ idx, (List.range (recSize dst)).map (fun k => t.home.byte (g i + k)) = leBytes (copied s src dst rm f i).1 (recSize dst)) ∧
      ∀ x, (∀ i ∈ idx, x < g i ∨ g i + recSize dst ≤ x) → t.home.byte x = s.home.byte x := by
  have hel' : ∀ i ∈ idx, elemSrc (s.served (queueAt c.core 1) c.asid) (c.path ctx) [] c.kind i = .addr (a i) ∧
      (s.served (queueAt c.core 1) c.asid).accessPeer (c.path ctx).unit ctx .read (a i) = .ok (f i) ∧
      (s.served (queueAt c.core 1) c.asid).accessPeer (c.path ctx).unit ctx .write (elemDst c.kind i) = .ok (g i) ∧
      (s.served (queueAt c.core 1) c.asid).poisonAt (.mem (f i)) (recSize src) = false := fun i hi => by
    obtain ⟨h1, h2, h3, h4, -⟩ := hel i hi
    exact ⟨h1, h2, h3, h4⟩
  have hbox : boxOf c.kind = some (memBox src dst rm) := by rw [hk]; rfl
  have hdone := copyLine_done (s := s.served (queueAt c.core 1) c.asid) (c := { c with stop := none }) (ctx := ctx) (b := memBox src dst rm) (ln := ln)
    (fun e he => by
      have hels := copyEls (rm := rm) (c := { c with stop := none }) (ln := ln) hk hgot hidx hel'
      obtain ⟨i, -, rfl⟩ := List.mem_map.mp (hels ▸ he)
      exact ⟨_, _, _, _, rfl⟩)
    (fun d hd => copyDests (rm := rm) (c := { c with stop := none }) hk hgot hidx hel' d hd) hopen
  have hexec := exec_copyLine hc hctx hbox hl hg ht
  rw [hdone] at hexec
  have hbytes := copyLine_bytes (rm := rm) (s := s.served (queueAt c.core 1) c.asid) (c := { c with stop := none }) (ln := ln) hk hgot hlink hidx hel'
    (fun i hi => (hel i hi).2.2.2.2) hap
  generalize putBoxLine (s.served (queueAt c.core 1) c.asid) { c with stop := none } _ (memBox src dst rm) ln _ = r at hexec hbytes
  have hhome : (LineOut.done r.1 r.2).after.home = r.1.home := rfl
  refine ⟨_, hexec, fun i hi => ?_, fun x hx => hhome ▸ (hbytes x).2 hx⟩
  refine List.ext_getElem (by simp [leBytes_length]) fun k h1 h2 => ?_
  have hk' : k < recSize dst := by simpa using h1
  rw [List.getElem_map, List.getElem_range, hhome]
  refine ((hbytes _).1 i hi k hk' rfl).trans ?_
  show ((leBytes (copied s src dst rm f i).1 (recSize dst))[k]?).getD 0 = _
  rw [List.getElem?_eq_getElem h2]
  rfl

/-! ### Completion of a COPY or GATHER (R340, R371, R401) -/

/-- The completion of a command of the copy or gather engine. -/
theorem exec_copyEnd {s : State} {n : Nat} {c : Command} (hc : s.cmd? n = some c) (he : c.eng = 1 ∨ c.eng = 2) :
    exec (if c.eng = 1 then .copyComplete n else .gatherComplete n) s = event s (copyEnd s c) := by
  rcases he with he | he
  · rw [if_pos he]
    exact congrArg (event s) (by rw [hc, Option.bind_some, if_pos he])
  · rw [if_neg (by omega)]
    exact congrArg (event s) (by rw [hc, Option.bind_some, if_pos he])

theorem taintDest_of_not_det {s : State} {c : Command} (h : c.det = false) : s.taintDest c = s := by simp [State.taintDest, boxDests, h]

theorem command_taint_eq {c : Command} {t : Bool} (h : c.t = t) : { c with t := t } = c := by
  subst h
  rfl

/-- Its outcome, where it may write no more. -/
theorem copyOutcome_some {s : State} {c : Command} (h : (c.failed.isSome = true ∧ s.free c.asid c.after none = true) ∨
    (c.failed = none ∧ (c.cancel = true ∨ c.lines = []))) : ∃ t, copyOutcome s c = some t := by
  rcases h with ⟨hf, hr⟩ | ⟨hf, hx⟩
  · obtain ⟨⟨k, j⟩, hk⟩ := Option.isSome_iff_exists.mp hf
    exact ⟨_, by simp only [copyOutcome, hk, hr]; rfl⟩
  · rcases hx with hx | hx
    · exact ⟨_, by simp only [copyOutcome, hf, hx]; rfl⟩
    · cases hcc : c.cancel
      · exact ⟨_, by simp only [copyOutcome, hf, hx, hcc]; rfl⟩
      · exact ⟨_, by simp only [copyOutcome, hf, hcc]; rfl⟩

section
variable {s : State} {n : Nat} {c : Command} (hc : s.cmd? n = some c) (he : c.eng = 1 ∨ c.eng = 2)
include hc he

theorem copyEnd_waits {t : State} (hw : copyWaits s c = some t) (h : (c.failed.isSome = true ∧ s.free c.asid c.after none = true) ∨
    (c.failed = none ∧ (c.cancel = true ∨ c.lines = []))) : exec (if c.eng = 1 then .copyComplete n else .gatherComplete n) s = .next t := by
  obtain ⟨u, hu⟩ := copyOutcome_some h
  rw [exec_copyEnd hc he, copyEnd, hu, hw]
  rfl

theorem copyEnd_held (hf : c.failed.isSome = true) (hr : s.free c.asid c.after none = false) :
    exec (if c.eng = 1 then .copyComplete n else .gatherComplete n) s = .next s := by
  obtain ⟨⟨k, j⟩, hk⟩ := Option.isSome_iff_exists.mp hf
  have hout : copyOutcome s c = none := by simp only [copyOutcome, hk, hr]; rfl
  rw [exec_copyEnd hc he, copyEnd, hout]
  rfl

theorem copyEnd_goes {t : State} (hw : copyWaits s c = none) (ht : copyOutcome s c = some t) :
    exec (if c.eng = 1 then .copyComplete n else .gatherComplete n) s = .next t := by
  rw [exec_copyEnd hc he, copyEnd, ht, hw]
  rfl

theorem copyEnd_failed {k j : Nat} (hw : copyWaits s c = none) (hf : c.failed = some (k, j)) (hr : s.free c.asid c.after none = true) :
    exec (if c.eng = 1 then .copyComplete n else .gatherComplete n) s =
      .next ((if boxTwice c.kind && !boxBad c.kind then s.taintDest c else s).finishCmd c 3 k (if 2 ≤ k ∧ k ≤ 7 then j else 0)) := by
  refine copyEnd_goes hc he hw ?_
  simp only [copyOutcome, hf, hr, endsTainted]
  rfl

theorem copyEnd_done (hw : copyWaits s c = none) (hf : c.failed = none) (hcc : c.cancel = false) (hl : c.lines = []) :
    exec (if c.eng = 1 then .copyComplete n else .gatherComplete n) s = .next (s.finishCmd c 1 0 0) := by
  refine copyEnd_goes hc he hw ?_
  simp only [copyOutcome, hf, hcc, hl]
  rfl

theorem copyEnd_cancelled (hw : copyWaits s c = none) (hf : c.failed = none) (hcc : c.cancel = true) :
    exec (if c.eng = 1 then .copyComplete n else .gatherComplete n) s = .next ((s.taintDest c).finishCmd { c with t := c.t || c.det } 2 0 0) := by
  refine copyEnd_goes hc he hw ?_
  simp only [copyOutcome, hf, hcc]
  rfl

end

/-! ### LAUNCH (R101, R388) -/

section
variable {s : State} {n : Nat} {c : Command} {ctx : Context} {p : BitVec 1024} {qn : Nat} (hc : s.cmd? n = some c) (hctx : s.ctx? c.asid = some ctx)
  (hk : c.kind = .launch p qn)
include hc hctx hk

theorem launch_cancelled (hw : s.ctrWaits c = none) (hcc : c.cancel = true) (hd : c.det = false) :
    exec (.launchEnqueue n) s = .next (s.finishCmd c 2 0 0) := by
  refine event_some ?_
  have hslot : ∀ unit va, s.taintSlot c unit ctx va = s := fun unit va => by simp [State.taintSlot, hd]
  rcases c with ⟨⟩
  dsimp only at hk hcc hd
  subst hk hcc hd
  simp only [launchStep, hc, hctx, Option.bind_some, if_true, hslot, hw, Bool.false_eq_true, if_false, Option.none_or, Bool.or_false]

theorem launch_refused (hw : s.ctrWaits c = none) (hcc : c.cancel = false) (hf : s.free c.asid c.after c.stop = true)
    (hq : (s.queue qn).en = false ∨ (s.queue qn).mode = false ∨ (s.queue qn).asid ≠ c.asid) :
    exec (.launchEnqueue n) s = .next (s.finishCmd c 3 8 0) := by
  refine event_some ?_
  have hq' : (!(s.queue qn).en || !(s.queue qn).mode || decide ((s.queue qn).asid ≠ c.asid)) = true := by
    rcases hq with h | h | h <;> simp [h]
  simp only [launchStep, hc, hctx, hk, Option.bind_some, hcc, hf, hq', hw]
  rfl

/-- A LAUNCH whose turn has come, at an enabled ring of its context with a free slot, whose two lines can be written. -/
theorem launch_goes {x y : Nat} (hg : c.going s 27 = true) (hen : (s.queue qn).en = true) (hm : (s.queue qn).mode = true)
    (ha : (s.queue qn).asid = c.asid) (hfit : (s.queue qn).write.toNat - (s.queue qn).read.toNat < 2 ^ (s.queue qn).logn)
    (ht : s.copyTurn c.core c.asid = true)
    (hz : (s.served (queueAt c.core 1) c.asid).waitZero (dieUnit (dieOf c.core)) ctx .write ((s.queue qn).slot (s.queue qn).write.toNat) 128 = none)
    (hw : (s.served (queueAt c.core 1) c.asid).ctrWaits c = none)
    (hx : (s.served (queueAt c.core 1) c.asid).access (dieUnit (dieOf c.core)) ctx .write ((s.queue qn).slot (s.queue qn).write.toNat) = .ok x)
    (hy : (s.served (queueAt c.core 1) c.asid).access (dieUnit (dieOf c.core)) ctx .write ((s.queue qn).slot (s.queue qn).write.toNat + 64) = .ok y)
    {lines : List Nat} (hlines : lines = (s.served (queueAt c.core 1) c.asid).xlatReads (dieUnit (dieOf c.core)) ctx ((s.queue qn).slot (s.queue qn).write.toNat) ++
      (s.served (queueAt c.core 1) c.asid).xlatReads (dieUnit (dieOf c.core)) ctx ((s.queue qn).slot (s.queue qn).write.toNat + 64) ++ [x, y]) :
    exec (.launchEnqueue n) s = .next (if (s.served (queueAt c.core 1) c.asid).linesOpen c.asid (s.classOf c.g.grid) lines then
      (launchPut (s.served (queueAt c.core 1) c.asid) c p qn [x, y] lines).chargeStep c.asid (s.classOf c.g.grid) 27
      else (s.served (queueAt c.core 1) c.asid).bump) := by
  refine event_some ?_
  have hnc : c.cancel = false ∧ s.free c.asid c.after c.stop = true := by
    simp only [Command.going, Bool.and_eq_true, Bool.not_eq_true', Bool.or_eq_false_iff] at hg
    exact ⟨hg.1.1.1, hg.1.2⟩
  have hq : (!(s.queue qn).en || !(s.queue qn).mode || decide ((s.queue qn).asid ≠ c.asid)) = false := by simp [hen, hm, ha]
  have hfits : launchFits s c = true := by simp [launchFits, hk, hen, hm, ha, hfit]
  have hplaces : packetPlaces (s.served (queueAt c.core 1) c.asid) (dieUnit (dieOf c.core)) ctx ((s.queue qn).slot (s.queue qn).write.toNat) = .ok [x, y] := by
    have h0 : (s.queue qn).slot (s.queue qn).write.toNat + BitVec.ofNat 64 0 = (s.queue qn).slot (s.queue qn).write.toNat := BitVec.add_zero _
    simp only [packetPlaces, List.mapM_cons, List.mapM_nil, h0, hx]
    rw [show (s.queue qn).slot (s.queue qn).write.toNat + BitVec.ofNat 64 64 = (s.queue qn).slot (s.queue qn).write.toNat + 64 from rfl, hy]
    rfl
  simp only [launchStep, hc, hctx, hk, Option.bind_some, hnc.1, hnc.2, hq, hfits, hg, ht, hz, hw, hplaces, Bool.false_eq_true, if_false,
    Bool.not_true, Bool.or_self, Option.none_or, List.flatMap_cons, List.flatMap_nil, List.append_nil]
  rw [← hlines]
  rfl

end

/-! ### Collectives (R383 to R387) -/

theorem linesOpen_nil (s : State) (a k : Nat) : s.linesOpen a k [] = true := rfl
theorem chargeLines_nil (s : State) (a k : Nat) : s.chargeLines a k [] = s := rfl

section
variable {s : State} {n : Nat} {c : Command} {q : CollReq} (hc : s.cmd? n = some c) (hq : collReq c.kind = some q) (he : c.eng = 3)
include hc hq he

/-- A COLL that has failed completes once nothing holds it. -/
theorem coll_failed {k j : Nat} (hf : c.failed = some (k, j)) (hfree : s.free c.asid c.after none = true) :
    exec (.collComplete n) s = event s (collFailed s c q k j) := by
  refine congrArg (event s) ?_
  simp [collStep, hc, hq, hf, he, hfree]

theorem coll_failed_plain {k j : Nat} (hf : c.failed = some (k, j)) (hfree : s.free c.asid c.after none = true)
    (ht : taintStalls s (instanceOf s q) = none) (hw : collWaits s c q = none) (h9 : k ≠ 9) (h10 : k ≠ 10) :
    exec (.collComplete n) s = .next (s.finishCmd c 3 k j) := by
  rw [coll_failed hc hq he hf hfree]
  refine event_some ?_
  simp only [collFailed, if_neg h9, linesOpen_nil, chargeLines_nil, ht, hw, collRefused, decide_eq_false h9, decide_eq_false h10, Bool.false_and,
    Bool.not_true, Bool.false_eq_true, if_false, Option.none_or]

theorem coll_failed_held {j : Nat} (hf : c.failed = some (9, j)) (hfree : s.free c.asid c.after none = true)
    (ho : s.linesOpen c.asid (s.classOf c.g.grid) (tableLines s c q [commMine q.comm]) = false) :
    exec (.collComplete n) s = .next s.bump := by
  rw [coll_failed hc hq he hf hfree]
  refine event_some ?_
  simp only [collFailed, if_pos, ho, Bool.not_false]

theorem coll_failed_stale {j v : Nat} {t : Bool} (hf : c.failed = some (9, j)) (hfree : s.free c.asid c.after none = true)
    (ht : taintStalls s (instanceOf s q) = none) (hw : collWaits s c q = none)
    (ho : s.linesOpen c.asid (s.classOf c.g.grid) (tableLines s c q [commMine q.comm]) = true)
    (hv : rankEntry (s.chargeLines c.asid (s.classOf c.g.grid) (tableLines s c q [commMine q.comm])) c q (commMine q.comm) = .val v t)
    (hr : wrongEntry (s.chargeLines c.asid (s.classOf c.g.grid) (tableLines s c q [commMine q.comm])) c v = false) :
    exec (.collComplete n) s = .next ((s.chargeLines c.asid (s.classOf c.g.grid) (tableLines s c q [commMine q.comm])).finishCmd c 3 9 j) := by
  rw [coll_failed hc hq he hf hfree]
  refine event_some ?_
  simp only [collFailed, if_pos, ho, ht, hw, collRefused, hv, hr, Option.none_or, Bool.not_true, Bool.false_eq_true, if_false, decide_true, Bool.and_false] <;> rfl

/-- The ranks of a collective have all issued, and its turn has come. -/
theorem coll_goes (hf : c.failed = none) (hg : c.going s 28 = true) (hm : tableMiss s c q = none) (hr : wrongRank s (instanceOf s q) = (none, false))
    (hi : collIssued s c q = true) (ht : s.turnOf (queueAt (40 * dieOf c.core) 3) c.asid (collReady s (dieOf c.core)) = true)
    (hw : collWaits (s.served (queueAt (40 * dieOf c.core) 3) c.asid) c q = none) :
    exec (.collComplete n) s = event s (collOutcome (s.served (queueAt (40 * dieOf c.core) 3) c.asid) c q (instanceOf s q)) := by
  refine congrArg (event s) ?_
  simp [collStep, hc, hq, he, hf, hg, hm, hr, hi, ht, hw]

/-- A collective ends early, by the cancellation of the only rank of it that has issued. -/
theorem coll_aborts (hf : c.failed = none) (hcc : c.cancel = true) (hab : c.abort = false) (hd : c.det = false)
    (hone : instanceOf s q = [(commMine q.comm, c, q)]) (hl : localRanks s c q = none) (hw : collWaits s c q = none) :
    exec (.collAbort n) s = .next (if s.linesOpen c.asid (s.classOf c.g.grid) (wholeTable s (commMine q.comm, c, q)) then
      (((s.chargeLines c.asid (s.classOf c.g.grid) (wholeTable s (commMine q.comm, c, q))).finishCmd c 2 0 0).retireSeq q).bump else s.bump) := by
  refine event_some ?_
  have hserial : c.serial = n := of_decide_eq_true (List.find?_some (p := fun x : Command => decide (x.serial = n)) hc)
  have hstall : taintStalls s [(commMine q.comm, c, q)] = none := by simp [taintStalls, hd]
  have htaint : ∀ t : State, t.taintRank c = t := fun t => by simp [State.taintRank, hq, hd]
  have ht : { c with t := c.t || c.det } = c := command_taint_eq (by simp [hd])
  have hheld : ∀ lines : Nat × Command × CollReq → List Nat, ranksHeld s [(commMine q.comm, c, q)] lines =
      !s.linesOpen c.asid (s.classOf c.g.grid) (lines (commMine q.comm, c, q)) := fun lines => by simp [ranksHeld]
  have hcharge : ∀ lines : Nat × Command × CollReq → List Nat, chargeRanks s [(commMine q.comm, c, q)] lines =
      s.chargeLines c.asid (s.classOf c.g.grid) (lines (commMine q.comm, c, q)) := fun lines => rfl
  simp only [collAbortStep, hc, Option.bind_some, hq, he, hf, hone, hl, Option.map_none, Option.getD_none, Bool.false_and, Bool.false_eq_true, if_false,
    List.append_nil, hheld, hcharge, hstall, hw, Option.none_or]
  cases ho : s.linesOpen c.asid (s.classOf c.g.grid) (wholeTable s (commMine q.comm, c, q))
  · rw [hcc]
    rfl
  · rw [hcc]
    simp only [List.foldl_cons, List.foldl_nil, List.nil_append, Bool.not_false, if_true, Bool.false_eq_true, if_false, htaint, ht]
    simp [hserial, hab, hcc]

end

/-- A collective that agrees and meets nothing in its way is performed. -/
theorem collOutcome_performs {s : State} {c : Command} {q : CollReq} {cmds : Ranks} (hfar : remoteDevs s c q = [])
    (htable : ranksHeld s cmds (wholeTable s) = false) (hagree : ∀ x ∈ cmds, collAgree q x.2.2 = true) (hstall : collStalls s cmds = none)
    (hfail : collFails s cmds = []) :
    collOutcome s c q cmds = some (if ranksHeld s cmds (rankLines s cmds) then s.bump
      else ((collPerform s cmds).retireSeq q).chargeStep c.asid (s.classOf c.g.grid) 28) := by
  have hag : (cmds.any fun x => !collAgree q x.2.2) = false := by
    rw [List.any_eq_false]
    intro x hx
    simp [hagree x hx]
  simp only [collOutcome, hfar, htable, hag, hstall, hfail]
  cases ranksHeld s cmds (rankLines s cmds) <;> rfl

/-- Of a collective of one rank, that rank's destination is written and that rank completes. -/
theorem collPerform_one (s : State) (r : Nat × Command × CollReq) :
    collPerform s [r] = (writeRank s (chargeRanks s [r] fun x => wholeTable s x ++ rankLines s [r] x) [r] r.2.1 r.2.2 fun _ => true).1.finishCmd
      (writeRank s (chargeRanks s [r] fun x => wholeTable s x ++ rankLines s [r] x) [r] r.2.1 r.2.2 fun _ => true).2 1 0 0 := rfl

/-! ### Referrals (R260 to R262) -/

/-- The referral that is served next stands in the queue of its core. -/
theorem nextReferral_mem {s : State} {core : Nat} {r : Referral} (h : nextReferral s core = some r) : r ∈ s.referrals ∧ r.core = core := by
  obtain ⟨x, hx, rfl⟩ := Option.map_eq_some_iff.mp h
  have hne : ((referralsAt s core).filter fun x => s.turnOf (queueAt core 5) x.1 ((referralsAt s core).map (·.1))) ≠ [] := fun hc => by
    rw [hc] at hx
    cases hx
  obtain ⟨y, hy, hmin, -⟩ := argMin_spec (fun (x : Nat × Referral) => 3 - x.2.prio) _ hne
  obtain rfl := Option.some.inj (hmin.symm.trans hx)
  obtain ⟨r, hr, hsome⟩ := List.mem_filterMap.mp (List.mem_of_mem_filter hy)
  split at hsome
  · cases hsome
  · next hno =>
    obtain ⟨c, -, hc⟩ := Option.bind_eq_some_iff.mp hsome
    split at hc
    · obtain rfl := Option.some.inj hc
      exact ⟨hr, not_not.mp (not_or.mp hno).1⟩
    · cases hc

section
variable {s : State} {core : Nat} {r : Referral} {tm : Team} {g : Group} {c : Context} (hn : nextReferral s core = some r)
  (htm : s.team? r.g.tref = some tm) (hg : s.group? r.g = some g) (hc : s.gridCtx? r.g.grid = some c)
include hn htm hg hc

theorem referral_spill {t : State}
    (h : reachSpill (s.served (queueAt core 5) c.asid) g c tm (reachFrom r.nodes (r.a :: r.b.toList)) [] = .dead t ∨
      reachSpill (s.served (queueAt core 5) c.asid) g c tm (reachFrom r.nodes (r.a :: r.b.toList)) [] = .wait t) :
    exec (.referralDecide core) s = .next t := by
  refine event_some ?_
  rcases h with h | h <;> simp only [referralStep, hn, htm, hg, hc, h, Option.bind_some, Option.map_some]

theorem referral_answered (h : reachSpill (s.served (queueAt core 5) c.asid) g c tm (reachFrom r.nodes (r.a :: r.b.toList)) [] = .ok)
    (ha : (referralAnswer (s.det r.g.grid) r).2 = none) :
    exec (.referralDecide core) s = .next ((State.answer { (s.served (queueAt core 5) c.asid).chargeSpill core c tm (reachFrom r.nodes (r.a :: r.b.toList)) with
      referrals := s.referrals.erase r } r.g (referralAnswer (s.det r.g.grid) r).1).chargeStep c.asid (s.classOf r.g.grid) 26) := by
  refine event_some ?_
  have hdet : (s.served (queueAt core 5) c.asid).det r.g.grid = s.det r.g.grid := rfl
  simp only [referralStep, hn, htm, hg, hc, h, hdet, markWaits, ha, Option.bind_some, Option.map_some, Option.isSome_none, Bool.false_eq_true, if_false] <;> rfl

theorem referral_zero (h : reachSpill (s.served (queueAt core 5) c.asid) g c tm (reachFrom r.nodes (r.a :: r.b.toList)) [] = .ok) {i : Nat}
    (ha : (referralAnswer (s.det r.g.grid) r).2 = some i) :
    exec (.referralDecide core) s = .next (match (s.served (queueAt core 5) c.asid).logWaits r.g.tref none with
      | some x => x.bump
      | none => ((markInvalid { (s.served (queueAt core 5) c.asid).chargeSpill core c tm (reachFrom r.nodes (r.a :: r.b.toList)) with
          referrals := s.referrals.erase r } core c r i).answer r.g (referralAnswer (s.det r.g.grid) r).1).chargeStep c.asid (s.classOf r.g.grid) 26) := by
  refine event_some ?_
  have hdet : (s.served (queueAt core 5) c.asid).det r.g.grid = s.det r.g.grid := rfl
  simp only [referralStep, hn, htm, hg, hc, h, hdet, markWaits, ha, Option.bind_some, Option.map_some, Option.isSome_some, if_true]
  cases (s.served (queueAt core 5) c.asid).logWaits r.g.tref none <;> rfl

end

/-- Settles O50: the lines, completions, launches, collectives and referrals, each by its own lemma. -/
theorem engineEvents : Obligations.EngineEvents := by
  unfold Obligations.EngineEvents
  refine ⟨fun s n c ctx hc hctx => ?_, fun s n c q hc hq he hf => ?_, fun s core r tm g c hn htm hg hc => ?_⟩
  · dsimp only
    refine ⟨fun b ln hb hl hg ht => ?_, fun he => ?_, fun p qn hk hw => ?_, fun q k j hq he hf hstall hwait hfree => ?_⟩
    · have hexec := exec_copyLine hc hctx hb hl hg ht
      refine ⟨fun t x h => by rw [hexec, h]; rfl, fun t x h => by rw [hexec]; rcases h with h | h <;> rw [h] <;> rfl,
        fun t h => by rw [hexec, h]; rfl, fun src dst sbase dbase coord rm hk hgot hlink a f g hel hap hopen => ?_⟩
      obtain rfl : memBox src dst rm = b := Option.some.inj (by rw [← hb, hk]; rfl)
      obtain ⟨t, hx, hbytes, hrest⟩ := copy_to_memory hc hctx hl hg ht hk hgot hlink rfl hel hap hopen
      exact ⟨t, hx, fun i hi => ⟨hbytes i hi, fun h7 h8 => (hbytes i hi).trans (copied_same h7 h8)⟩, hrest⟩
    · refine ⟨fun t hw h => copyEnd_waits hc he hw h, fun hf hr => copyEnd_held hc he hf hr, fun hw => ⟨fun k j hf hr => ⟨fun h2 => ?_, fun h2 hb => ?_⟩,
        fun hf hcc hl => copyEnd_done hc he hw hf hcc hl, fun hf hcc hd => ?_, fun hf hcc hd => ?_⟩⟩
      · rw [copyEnd_failed hc he hw hf hr, h2]
        rfl
      · rw [copyEnd_failed hc he hw hf hr, h2, hb]
        rfl
      · rw [copyEnd_cancelled hc he hw hf hcc, taintDest_of_not_det hd, command_taint_eq (by rw [hd, Bool.or_false])]
      · rw [copyEnd_cancelled hc he hw hf hcc, hd, Bool.or_true]
    · refine ⟨fun hcc hd => launch_cancelled hc hctx hk hw hcc hd, fun hcc hf hq => launch_refused hc hctx hk hw hcc hf hq,
        fun x y hg hen hm ha hfit ht hz hcw hx hy => ?_⟩
      have hgo := launch_goes hc hctx hk hg hen hm ha hfit ht hz hcw hx hy rfl
      refine ⟨fun ho => hgo.trans (by rw [ho]; rfl), fun ho => ?_⟩
      rw [ho, if_pos rfl] at hgo
      exact ⟨_, hgo⟩
    · refine ⟨fun h9 h10 => coll_failed_plain hc hq he hf hfree hstall hwait h9 h10, fun h9 => ?_⟩
      subst h9
      exact ⟨fun ho => coll_failed_held hc hq he hf hfree ho, fun v t ho hv hr => coll_failed_stale hc hq he hf hfree hstall hwait ho hv hr⟩
  · refine ⟨fun hg hm hr hi ht hw hfar htable hag hstall hfail => ?_, fun hcc hab hd hone hl hw => ?_⟩
    · have hgo := (coll_goes hc hq he hf hg hm hr hi ht hw).trans (congrArg (event s) (collOutcome_performs hfar htable hag hstall hfail))
      exact ⟨fun hh => hgo.trans (by rw [hh]; rfl), fun hh => hgo.trans (by rw [hh]; rfl), fun r hr => by rw [hr]; exact collPerform_one _ r⟩
    · have hgo := coll_aborts hc hq he hf hcc hab hd hone hl hw
      exact ⟨fun ho => hgo.trans (by rw [ho]; rfl), fun ho => hgo.trans (by rw [ho]; rfl)⟩
  · refine ⟨fun t h => referral_spill hn htm hg hc h, fun h => ?_⟩
    obtain ⟨hmem, hcore⟩ := nextReferral_mem hn
    refine ⟨hmem, hcore, fun ha => referral_answered hn htm hg hc h ha, fun i ha => ?_⟩
    have hgo := referral_zero hn htm hg hc h ha
    exact ⟨fun x hx => hgo.trans (by rw [hx]), fun hx => hgo.trans (by rw [hx])⟩

end Sys2Proof.Machine
end

section
/-!
PROOF. The butterfly engine: commands, stages and transfers (11 R281 to R303).
-/
namespace Sys2Proof.Machine
open Sys2Proof

/-! ### Completion (R276, R278, R371) -/

/-- The group of a future that completes, put back, and then the threads of its team that wait for it. -/
theorem completeFuture_eq {s : State} {g : Group} {k : Nat} (w : Word64) (hg : s.group? g.ref = some g) (hd : (g.future k).isDone = false) :
    ∃ x p b, s.completeFuture g.ref k (g.future k).gen w = { s.setGroup x with
        serials := s.serials + 1, groups := (s.setGroup x).groups.map fun y => if y.ref.tref = g.ref.tref then wakeFuture p b y else y } ∧
      x.ref = g.ref ∧ x.futures = Table.set {} g.futures k { g.future k with isDone := true, word := w, order := s.serials } := by
  refine ⟨?x, ?p, ?b, ?step, ?ref, ?futures⟩
  case step =>
    rw [State.completeFuture, hg]
    exact if_neg (not_or.mpr ⟨not_not.mpr rfl, Bool.eq_false_iff.mp hd⟩)
  case ref => rfl
  case futures => rfl

/-- A pending future completes with its word, and nothing but the groups and the count of serials changes. -/
theorem completeFuture_spec {s : State} {gr : GRef} {g : Group} {k : Nat} (w : Word64) (hg : s.group? gr = some g)
    (hd : (g.future k).isDone = false) :
    ∃ gs n x, s.completeFuture gr k (g.future k).gen w = { s with groups := gs, serials := n } ∧
      (s.completeFuture gr k (g.future k).gen w).group? gr = some x ∧ (x.future k).isDone = true ∧ (x.future k).word = w := by
  have href : g.ref = gr := of_decide_eq_true (List.find?_some (p := fun x : Group => decide (x.ref = gr)) hg)
  subst href
  have hkeep : ∀ (p : Word64 → Bool) (b : Bool) (x : Group),
      decide ((if x.ref.tref = g.ref.tref then wakeFuture p b x else x).ref = g.ref) = decide (x.ref = g.ref) := fun p b x => by
    split <;> rfl
  have hfut : ∀ (p : Word64 → Bool) (b : Bool) (x : Group),
      (if x.ref.tref = g.ref.tref then wakeFuture p b x else x).future k = x.future k := fun p b x => by
    split <;> rfl
  obtain ⟨x, p, b, heq, hx, hf⟩ := completeFuture_eq w hg hd
  have hword : x.future k = { g.future k with isDone := true, word := w, order := s.serials } := by rw [Group.future, hf, Table.get_set, if_pos rfl]
  rw [heq]
  refine ⟨_, _, _, rfl, (find?_map_keeps _ _ _ (hkeep p b)).trans (congrArg (Option.map _) (State.group?_setGroup hg hx)), ?_, ?_⟩
  · exact (congrArg Future.isDone (hfut p b x)).trans (by rw [hword])
  · exact (congrArg Future.word (hfut p b x)).trans (by rw [hword])

theorem forget_bfOf (s : State) (n core : Nat) : (s.forget n).bfOf core = s.bfOf core := by
  unfold State.forget
  split <;> rfl
theorem forget_groups (s : State) (n : Nat) : (s.forget n).groups = s.groups := by
  unfold State.forget
  split <;> rfl

/-- A lone command that leaves its engine: the engine keeps all but its queue, and the command's future is DONE with its flags. -/
theorem bfFinish_alone {s : State} {core : Nat} {c : BfCmd} {g : Group} {slot : Nat} {k : CmdKind} {e : BfEngine} (he : s.bfOf core = e)
    (hq : ∀ x ∈ e.queue, x.serial = c.serial) (hl : e.leaving = false) (hp : c.peers = []) (hctr : c.ctr = 0) (hk : c.kind = .inl k)
    (hdig : bfDigests k = false) (hf : c.fut = some (slot, (g.future slot).gen)) (hg : s.group? c.g = some g) (hd : (g.future slot).isDone = false) :
    (bfFinish s core c 1 0).bfOf core = { e with queue := [] } ∧
      ∃ x, (bfFinish s core c 1 0).group? c.g = some x ∧ (x.future slot).isDone = true ∧ (x.future slot).word = statusWord 1 5 c.flags 0 0 := by
  have hdrop : (bfDrop s core c.serial).bfOf core = { e with queue := [] } := by
    rw [bfDrop, State.bfOf_setBf, forget_bfOf, he, List.filter_eq_nil_iff.mpr fun x hx => by simp [hq x hx]]
  have hgroup : (bfDrop s core c.serial).group? c.g = some g :=
    (congrArg (fun l : List Group => l.find? fun x : Group => decide (x.ref = c.g)) (forget_groups s c.serial)).trans hg
  have hparts : c.parts = [{ g := c.g, serial := c.serial, slot := slot, gen := (g.future slot).gen, ctr := c.ctr, kind := k, flags := c.flags }] := by
    simp [BfCmd.parts, hp, hk, hf]
  have hdone : bfDoneAll (bfDrop s core c.serial) core c 1 0 =
      (bfDrop s core c.serial).completeFuture c.g slot (g.future slot).gen (statusWord 1 5 c.flags 0 0) := by
    simp only [bfDoneAll, hparts, List.foldl_cons, List.foldl_nil, bfDone, hdig, hctr, Bool.and_false, Bool.false_eq_true, if_false, State.bumpCounter, if_true]
  obtain ⟨gs, n, x, heq, hx, hxd, hxw⟩ := completeFuture_spec (statusWord 1 5 c.flags 0 0) hgroup hd
  have hbf : (bfDoneAll (bfDrop s core c.serial) core c 1 0).bfOf core = { e with queue := [] } := by
    rw [hdone, heq]
    exact hdrop
  have htidy : bfFinish s core c 1 0 = bfDoneAll (bfDrop s core c.serial) core c 1 0 := by
    rw [bfFinish, bfTidy, hbf]
    exact if_neg (by simp [hl])
  rw [htidy, hbf, hdone]
  exact ⟨rfl, x, hx, hxd, hxw⟩

/-! ### BF_COMMAND_PERFORM (R284, R300) -/

section
variable {s : State} {core : Nat} {c : BfCmd} (hn : (s.bfOf core).next = some c) (hh : bfHeldUp s core [c] = none)
  (hstop : ((s.bfOf core).queue.any fun x => x.stop && !x.begun) = false) (hlatch : latchBroken s core = false)
include hn hstop hlatch

theorem bfPerform_waits (hb : s.mayBegin c = false) : exec (.bfCommandPerform core) s = .next s := by
  have hnone : ((s.bfOf core).queue.find? fun x => x.stop && !x.begun) = none := List.find?_eq_none.mpr (by simpa using hstop)
  have : bfPerformStep s core = none := by simp [bfPerformStep, hnone, hlatch, hn, hb]
  exact congrArg (event s) this

include hh in
theorem bfPerform_begins (hb : s.mayBegin c = true) : exec (.bfCommandPerform core) s = .next (bfBegin s core c) := by
  have hnone : ((s.bfOf core).queue.find? fun x => x.stop && !x.begun) = none := List.find?_eq_none.mpr (by simpa using hstop)
  refine event_some ?_
  simp [bfPerformStep, hnone, hlatch, hn, hb, hh]

end

theorem bfBegin_stage {s : State} {core : Nat} {c : BfCmd} {ch : Bool} {k f m tag : Nat} (hheld : c.held = true) (hp : c.peers = [])
    (hk : c.kind = .inl (.stage ch k f m false tag)) :
    bfBegin s core c = match planStage (s.bfOf core) ch k f m with
      | .error cause => bfFinish s core c 3 cause
      | .ok _ => bfKeep s core { c with begun := true } := by
  simp only [bfBegin, hk, hheld, hp, Bool.not_true, List.isEmpty_nil, Bool.false_eq_true, if_false] <;> rfl

/-- A transfer's checks. -/
theorem bfBegin_transfer {s : State} {core : Nat} {c : BfCmd} {k : CmdKind} (hk : c.kind = .inl k) (hs : stageOf c.kind = none)
    (hz : ∀ m, k ≠ .zero m) (hd : ∀ ty m rm f, k ≠ .drainSlot ty m rm f) :
    bfBegin s core c = match planXfer (s.bfOf core) c.held k with
      | .error cause => bfFinish s core c 3 cause
      | .ok _ => bfKeep s core { c with begun := true } := by
  rw [hk] at hs
  cases k with
  | stage ch r f m gg tag => cases hs
  | zero m => exact absurd rfl (hz m)
  | drainSlot ty m rm f => exact absurd rfl (hd ty m rm f)
  | _ => simp only [bfBegin, hk] <;> rfl

/-! ### BF_STAGE_PASS (R290, R299) -/

section
variable {s : State} {core : Nat} {c : BfCmd} {ch : Bool} {k f m tag : Nat} {p : StagePlan} (hn : (s.bfOf core).next = some c)
  (hh : bfHeldUp s core [c] = none) (hb : c.begun = true) (hp : c.peers = []) (hk : c.kind = .inl (.stage ch k f m false tag))
  (ho : s.passOpen c = true) (hplan : planStage (s.bfOf core) ch k f m = .ok p)
include hn hh hb hp hk ho

theorem bfPass_exec : exec (.bfStagePass core) s = .next (bfPass s core c ch k f m) := by
  refine event_some ?_
  have hpart : c.peers[c.part]? = none := by rw [hp]; rfl
  simp [bfPassStep, hn, hb, hpart, hk, stageOf, ho, hh]

include hplan

/-- The first pass of a stage. -/
theorem bfPass_first (h0 : c.pass = 0) :
    ∃ cost, exec (.bfStagePass core) s = .next
      (if (runPass (s.bfOf core) p m c.mid c.stage c.pass).done then
        bfFinish ((s.setBf core (runPass (s.bfOf core) p m c.mid c.stage c.pass).e).charge c.asid (s.classOf c.g.grid) 24 cost) core
          { c with flags := c.flags ||| (runPass (s.bfOf core) p m c.mid c.stage c.pass).flags } 1 0
      else if c.stop then
        bfFinish ((s.setBf core (runPass (s.bfOf core) p m c.mid c.stage c.pass).e).charge c.asid (s.classOf c.g.grid) 24 cost) core
          { c with flags := c.flags ||| (runPass (s.bfOf core) p m c.mid c.stage c.pass).flags } 2 0
      else
        bfKeep ((s.setBf core (runPass (s.bfOf core) p m c.mid c.stage c.pass).e).charge c.asid (s.classOf c.g.grid) 24 cost) core
          { c with flags := c.flags ||| (runPass (s.bfOf core) p m c.mid c.stage c.pass).flags
                   mid := (runPass (s.bfOf core) p m c.mid c.stage c.pass).mid
                   stage := (runPass (s.bfOf core) p m c.mid c.stage c.pass).stage
                   pass := (runPass (s.bfOf core) p m c.mid c.stage c.pass).pass }) := by
  refine ⟨if decide (2048 < planCycles (s.bfOf core) p c.stage) then (planCycles (s.bfOf core) p c.stage + 1) / 2
    else planCycles (s.bfOf core) p c.stage, (bfPass_exec hn hh hb hp hk ho).trans (congrArg _ ?_)⟩
  have hpoison : ¬ (c.pass ≠ 0 ∧ ((p.accs m).any fun a => ((s.bfOf core).acc a).poison) = true) := fun hc => hc.1 h0
  simp only [bfPass, hplan, if_neg hpoison]
  split
  · simp only [partEnd, hp, if_true]
  · rfl

end

/-- A plan of one stage alone names its one register. -/
theorem planStage_regs {e : BfEngine} {k f m : Nat} {p : StagePlan} (h : planStage e false k f m = .ok p) : p.regs = [Table.get 0 e.bst k] := by
  simp only [planStage] at h
  split at h
  · cases h
  · generalize (((enabledRegs e false k).head?.map stXt).getD false) = xt at h
    generalize (if xt = true then [m, m + 1] else [m]) = accs at h
    generalize (if xt = true then [f, secondTile f (e.slot f).tag] else [f]) = tiles at h
    generalize (if (enabledRegs e false k).length = 1 then _ else _) = fac at h
    split at h
    · cases h
    · split at h
      · cases h
      · obtain rfl := Except.ok.inj h
        rfl

/-- One pass of a lone stage of at most 2048 cycles: its accumulator takes what the stage leaves. -/
theorem runPass_whole {e : BfEngine} {p : StagePlan} {m : Nat} {mid : List (Table Word32)} (hreg : p.regs.length = 1)
    (hc : planCycles e p 0 ≤ 2048) (hx : stXt (stageIn e p mid 0).r = false) :
    ∃ a t, (runStage (stageIn e p mid 0) [e.acc m] (stAdd (stageIn e p mid 0).r) true (List.range p.rows)).1 = [a] ∧
      runPass e p m mid 0 0 = PassOut.mk (e.setAcc m { a with t := t }) mid
        (runStage (stageIn e p mid 0) [e.acc m] (stAdd (stageIn e p mid 0).r) true (List.range p.rows)).2 0 1 true := by
  obtain ⟨a, ha⟩ : ∃ a, (runStage (stageIn e p mid 0) [e.acc m] (stAdd (stageIn e p mid 0).r) true (List.range p.rows)).1 = [a] := ⟨_, rfl⟩
  refine ⟨a, p.slots.any (fun s => (e.slot s).t) || (stAdd (stageIn e p mid 0).r && (e.acc m).t), ha, ?_⟩
  have htwo : decide (2048 < planCycles e p 0) = false := decide_eq_false (by omega)
  have hlast : decide (0 + 1 = p.regs.length) = true := decide_eq_true (by omega)
  simp only [runPass, htwo, hlast, hx, Bool.not_false, if_true, Bool.false_eq_true, if_false, List.map_cons, List.map_nil, decide_true, Bool.true_or]
  rw [ha]
  rfl

/-- The first of the two passes of a longer one. -/
theorem runPass_half {e : BfEngine} {p : StagePlan} {m : Nat} {mid : List (Table Word32)} (hreg : p.regs.length = 1)
    (hc : 2048 < planCycles e p 0) :
    ∃ es, (runPass e p m mid 0 0).e = { e with accs := es } ∧ (runPass e p m mid 0 0).done = false ∧ (runPass e p m mid 0 0).stage = 0 ∧
      (runPass e p m mid 0 0).pass = 1 := by
  have htwo : decide (2048 < planCycles e p 0) = true := decide_eq_true hc
  have hlast : decide (0 + 1 = p.regs.length) = true := decide_eq_true (by omega)
  have haccs : ∀ (l : List (Nat × BfAcc)) (f : Nat × BfAcc → BfAcc) (x : BfEngine), ∃ es,
      l.foldl (fun x na => x.setAcc na.1 (f na)) x = { x with accs := es } := by
    intro l f
    induction l with
    | nil => exact fun x => ⟨x.accs, rfl⟩
    | cons y l ih =>
      intro x
      obtain ⟨es, h⟩ := ih (x.setAcc y.1 (f y))
      exact ⟨es, h⟩
  simp only [runPass, htwo, hlast, Bool.not_true, if_true, Bool.false_eq_true, if_false, decide_true]
  obtain ⟨es, h⟩ := haccs _ (fun na => { na.2 with t := p.slots.any (fun s => (e.slot s).t) || (stAdd (stageIn e p mid 0).r && (e.acc na.1).t) }) e
  exact ⟨es, h, rfl, trivial, trivial⟩

/-! ### The bytes of a fill (R280, R282) -/

/-- A change of slots alone. -/
def BfEngine.withSlots (e : BfEngine) (l : Table BfSlot) : BfEngine := { e with slots := l }

/-- Slots that are set one after another by a change of themselves. -/
theorem setSlots_eq {ι : Type} (at_ : ι → Nat) (f : ι → BfSlot → BfSlot) (L : List ι) (e : BfEngine) :
    ∃ l, L.foldl (fun e i => e.setSlot (at_ i) (f i (e.slot (at_ i)))) e = e.withSlots l := by
  induction L generalizing e with
  | nil => exact ⟨e.slots, rfl⟩
  | cons i L ih =>
    obtain ⟨l, h⟩ := ih (e.setSlot (at_ i) (f i (e.slot (at_ i))))
    exact ⟨l, h⟩

/-- What no such change touches stays. -/
theorem setSlots_keeps {ι α : Type} (get : BfSlot → α) (at_ : ι → Nat) (f : ι → BfSlot → BfSlot) (L : List ι) (e : BfEngine) (j : Nat)
    (h : ∀ i ∈ L, at_ i = j → ∀ x, get (f i x) = get x) :
    get ((L.foldl (fun e i => e.setSlot (at_ i) (f i (e.slot (at_ i)))) e).slot j) = get (e.slot j) := by
  induction L generalizing e with
  | nil => rfl
  | cons i L ih =>
    rw [List.foldl_cons, ih _ fun k hk => h k (List.mem_cons_of_mem i hk), BfEngine.slot_setSlot]
    split
    · next hj => rw [h i List.mem_cons_self hj.symm, ← hj]
    · rfl

/-- What one of such changes gives, and none takes away, holds. -/
theorem setSlots_gives {ι α : Type} (get : BfSlot → α) (v : α) (at_ : ι → Nat) (f : ι → BfSlot → BfSlot) (L : List ι) (e : BfEngine) (j : Nat)
    (h : ∀ i ∈ L, at_ i = j → ∀ x, get (f i x) = v ∨ get (f i x) = get x) {i : ι} (hi : i ∈ L) (hij : at_ i = j) (hv : ∀ x, get (f i x) = v) :
    get ((L.foldl (fun e i => e.setSlot (at_ i) (f i (e.slot (at_ i)))) e).slot j) = v := by
  have hstay : ∀ (L : List ι) (e : BfEngine), (∀ i ∈ L, at_ i = j → ∀ x, get (f i x) = v ∨ get (f i x) = get x) → get (e.slot j) = v →
      get ((L.foldl (fun e i => e.setSlot (at_ i) (f i (e.slot (at_ i)))) e).slot j) = v := by
    intro L
    induction L with
    | nil => exact fun _ _ hv => hv
    | cons k L ih =>
      intro e h hv
      refine ih _ (fun i hi => h i (List.mem_cons_of_mem k hi)) ?_
      rw [BfEngine.slot_setSlot]
      split
      · next hj =>
        rcases h k List.mem_cons_self hj.symm (e.slot (at_ k)) with hk | hk
        · exact hk
        · rw [hk, ← hj, hv]
      · exact hv
  induction L generalizing e with
  | nil => cases hi
  | cons k L ih =>
    rcases List.mem_cons.mp hi with rfl | hi
    · refine hstay L _ (fun n hn => h n (List.mem_cons_of_mem _ hn)) ?_
      rw [BfEngine.slot_setSlot, if_pos hij.symm, hv]
    · exact ih _ (fun n hn => h n (List.mem_cons_of_mem _ hn)) hi

/-- A byte of the elements of a slot. -/
def BfSlot.dataAt (q : Nat) (x : BfSlot) : Byte := Table.get 0 x.data q

theorem BfSlot.read_one (x : BfSlot) (q : Nat) : x.read false q 1 = [x.dataAt q] := rfl

theorem BfSlot.dataAt_write (x : BfSlot) (q r : Nat) (b : Byte) (t : Bool) : (x.write false r [b] t).dataAt q = if q = r then b else x.dataAt q := by
  have := Table.get_set memDefault x.data r q b
  exact this

/-- The byte that a fill stores for one read: of an LNS6 byte its bits 5:0. -/
def fillByte (x : Xfer) (side : Bool) (b : Byte) : Byte := if isLnsTag x.ty && !side then b &&& 0x3F else b

theorem fillBytes_eq (x : Xfer) (e : BfEngine) (side : Bool) (off : Nat) (bs : List Byte) (t : Bool) :
    ∃ e1, e1 = (List.range bs.length).foldl (fun e i => e.setSlot (x.place side (off + i)).1
        ((e.slot (x.place side (off + i)).1).write side (x.place side (off + i)).2 [fillByte x side ((bs[i]?).getD 0)] false)) e ∧
      fillBytes x e side off bs t = if !t then e1 else (List.range (slotsFor x.ty (256 * x.rows))).foldl (fun e i =>
        e.setSlot (x.f + i) { e.slot (x.f + i) with t := true }) e1 := ⟨_, rfl, rfl⟩

/-- A fill of a line changes slots alone. -/
theorem fillBytes_slots (x : Xfer) (e : BfEngine) (side : Bool) (off : Nat) (bs : List Byte) (t : Bool) :
    ∃ l, fillBytes x e side off bs t = e.withSlots l := by
  obtain ⟨e1, h1, h⟩ := fillBytes_eq x e side off bs t
  obtain ⟨l, hl⟩ := setSlots_eq (fun i => (x.place side (off + i)).1)
    (fun i y => y.write side (x.place side (off + i)).2 [fillByte x side ((bs[i]?).getD 0)] false) (List.range bs.length) e
  rw [h]
  cases t
  · exact ⟨l, h1.trans hl⟩
  · obtain ⟨l', hl'⟩ := setSlots_eq (fun i => x.f + i) (fun _ y => { y with t := true }) (List.range (slotsFor x.ty (256 * x.rows))) e1
    refine ⟨l', hl'.trans ?_⟩
    rw [h1, hl]
    rfl

/-- The taint that a fill leaves touches no byte. -/
theorem fillBytes_dataAt (x : Xfer) (e : BfEngine) (side : Bool) (off : Nat) (bs : List Byte) (t : Bool) (j q : Nat) :
    ((fillBytes x e side off bs t).slot j).dataAt q = (((List.range bs.length).foldl (fun e i => e.setSlot (x.place side (off + i)).1
      ((e.slot (x.place side (off + i)).1).write side (x.place side (off + i)).2 [fillByte x side ((bs[i]?).getD 0)] false)) e).slot j).dataAt q := by
  obtain ⟨e1, h1, h⟩ := fillBytes_eq x e side off bs t
  rw [h, ← h1]
  cases t
  · rfl
  · exact setSlots_keeps (BfSlot.dataAt q) (fun i => x.f + i) (fun _ y => { y with t := true }) _ e1 j fun _ _ _ _ => rfl

/-- Scale bytes touch no element. -/
theorem fillBytes_side (x : Xfer) (e : BfEngine) (off : Nat) (bs : List Byte) (t : Bool) (j q : Nat) :
    ((fillBytes x e true off bs t).slot j).dataAt q = (e.slot j).dataAt q :=
  (fillBytes_dataAt x e true off bs t j q).trans
    (setSlots_keeps (BfSlot.dataAt q) (fun i => (x.place true (off + i)).1)
      (fun i y => y.write true (x.place true (off + i)).2 [fillByte x true ((bs[i]?).getD 0)] false) _ e j fun _ _ _ _ => rfl)

/-- Bytes of a run have places of their own. -/
theorem place_inj {x : Xfer} {side : Bool} {a b : Nat} (h1 : (x.place side a).1 = (x.place side b).1) (h2 : (x.place side a).2 = (x.place side b).2) :
    a = b := by
  simp only [Xfer.place] at h1 h2
  generalize (if side = true then 512 else tagCap x.ty * tagBytes x.ty) = n at h1 h2
  have ha := Nat.div_add_mod a n
  have hb := Nat.div_add_mod b n
  have hd : a / n = b / n := by omega
  rw [hd, h2] at ha
  omega

/-- Each byte of a line of the rows stands in the slots. -/
theorem fillBytes_covers {x : Xfer} {e : BfEngine} {off : Nat} {bs : List Byte} {t : Bool} {k : Nat} (hk : k < bs.length) :
    ((fillBytes x e false off bs t).slot (x.place false (off + k)).1).dataAt (x.place false (off + k)).2 = fillByte x false bs[k] := by
  refine (fillBytes_dataAt x e false off bs t _ _).trans ?_
  have hb : (bs[k]?).getD 0 = bs[k] := by rw [List.getElem?_eq_getElem hk]; rfl
  refine setSlots_gives (BfSlot.dataAt (x.place false (off + k)).2) (fillByte x false bs[k]) (fun i => (x.place false (off + i)).1)
    (fun i y => y.write false (x.place false (off + i)).2 [fillByte x false ((bs[i]?).getD 0)] false) _ e _ (fun i _ hi y => ?_)
    (List.mem_range.mpr hk) rfl fun y => ?_
  · rw [BfSlot.dataAt_write]
    split
    · next hq =>
      have hik := place_inj hi hq.symm
      obtain rfl : i = k := by omega
      rw [hb]
      exact .inl rfl
    · exact .inr rfl
  · rw [BfSlot.dataAt_write, if_pos rfl, hb]

/-- A fill that has moved everything: the tag and the rows of its first slot, and every byte as it stood. -/
theorem fillEnd_spec {x : Xfer} {e : BfEngine} {t : Bool} (hr : 1 ≤ x.rows) :
    ∃ l, fillEnd x e t = e.withSlots l ∧ ((fillEnd x e t).slot x.f).tag = x.ty ∧ ((fillEnd x e t).slot x.f).rows = x.rows ∧
      ((fillEnd x e t).slot x.f).data = (e.slot x.f).data := by
  have hn : 0 < slotsFor x.ty (256 * x.rows) := by
    have hc : 0 < tagCap x.ty := by unfold tagCap; split <;> [omega; split <;> omega]
    exact Nat.div_pos (by omega) hc
  generalize hL : List.range (slotsFor x.ty (256 * x.rows)) = L
  have h0 : 0 ∈ L := hL ▸ List.mem_range.mpr hn
  obtain ⟨l, hl⟩ := setSlots_eq (fun i => x.f + i) (fun _ y => { y with tag := x.ty, rows := 0, t := t }) L e
  have htag := setSlots_gives BfSlot.tag x.ty (fun i => x.f + i) (fun _ y => { y with tag := x.ty, rows := 0, t := t }) L e x.f
    (fun _ _ _ _ => .inl rfl) h0 rfl fun _ => rfl
  have hdata := setSlots_keeps BfSlot.data (fun i => x.f + i) (fun _ y => { y with tag := x.ty, rows := 0, t := t }) L e x.f fun _ _ _ _ => rfl
  have heq : fillEnd x e t = (L.foldl (fun e i => e.setSlot (x.f + i) { e.slot (x.f + i) with tag := x.ty, rows := 0, t := t }) e).setSlot x.f
      { (L.foldl (fun e i => e.setSlot (x.f + i) { e.slot (x.f + i) with tag := x.ty, rows := 0, t := t }) e).slot x.f with rows := x.rows } := by
    rw [← hL]
    rfl
  generalize hE : L.foldl (fun e i => e.setSlot (x.f + i) { e.slot (x.f + i) with tag := x.ty, rows := 0, t := t }) e = E at *
  rw [heq, BfEngine.slot_setSlot, if_pos rfl]
  exact ⟨Table.put E.slots x.f { E.slot x.f with rows := x.rows }, by rw [hl]; rfl, htag, rfl, hdata⟩

/-! ### BF_TRANSFER_COMPLETE (R282, R299) -/

section
variable {s : State} {core : Nat} {c : BfCmd} {ctx : Context} {k : CmdKind} (hctx : s.ctx? c.asid = some ctx) (hk : c.kind = .inl k)
  (hx : s.xferGoing core = some c) (ht : s.copyTurn core c.asid = true) (hh : bfHeldUp (s.served (queueAt core 1) c.asid) core [c] = none)
include hctx hk hx ht hh

theorem transfer_exec :
    exec (.bfTransferComplete core) s = .next (match planXfer (s.bfOf core) true k with
      | .error cause => bfFinish ((s.served (queueAt core 1) c.asid).unmark c.serial) core c 3 cause
      | .ok x =>
        match x.span c.stage with
        | some (va, n, side, off) => xferLine (s.served (queueAt core 1) c.asid) core c ctx x va n side off
        | none => bfFinish (if x.fill then (s.served (queueAt core 1) c.asid).setBf core (fillEnd x (s.bfOf core) c.readT)
            else s.served (queueAt core 1) c.asid) core c 1 0) := by
  refine event_some ?_
  simp only [bfTransferStep, hx, hctx, hk, ht, hh, Option.bind_some, Bool.not_true, Bool.false_eq_true, if_false, Option.none_or] <;> rfl

end

/-- A table whose entries are changed, but for those that hold what it gives at a key. -/
theorem get_map_keeps {α : Type} {d : α} {F : Nat × α → Nat × α} {k : Nat} {t : Table α} (hkey : ∀ p, (F p).1 = p.1)
    (hval : ∀ p, p.2 = Table.get d t k → (F p).2 = p.2) : Table.get d (t.map F) k = Table.get d t k := by
  generalize hv : Table.get d t k = v at hval
  induction t with
  | nil => exact hv
  | cons p t ih =>
    rw [Table.get] at hv
    rw [List.map_cons, Table.get, hkey]
    split at hv
    · next h => rw [if_pos h, hval p hv, hv]
    · next h => rw [if_neg h, ih hv]

/-- No place in engine order stands for a command whose engine's commands are no window accesses. -/
theorem unmark_bfOf {s : State} {core n : Nat} (h : ∀ x ∈ (s.bfOf core).queue, ∃ k, x.kind = .inl k) : (s.unmark n).bfOf core = s.bfOf core := by
  refine get_map_keeps (fun p => rfl) fun p hp => if_pos (List.all_eq_true.mpr fun x hx => ?_)
  obtain ⟨k, hk⟩ := h x (by rw [State.bfOf, ← hp]; exact hx)
  rw [hk]

theorem unmark_home (s : State) (n : Nat) : (s.unmark n).home = s.home := rfl

/-- A command that is kept in the engine where it stands alone. -/
theorem bfKeep_alone {s : State} {core : Nat} {c y : BfCmd} {e : BfEngine} (he : s.bfOf core = e) (hq : e.queue = [c]) (hy : y.serial = c.serial) :
    (bfKeep s core y).bfOf core = { e with queue := [y] } := by
  rw [bfKeep, State.bfOf_setBf, he, hq, List.map_cons, List.map_nil, if_pos hy.symm]

theorem bfKeep_eq (s : State) (core : Nat) (y : BfCmd) : ∃ b, bfKeep s core y = { s with bf := b } := ⟨_, rfl⟩

/-- The slots that a line of a fill leaves: the line's own bytes, and beside them scale bytes that it holds. -/
theorem fillLine_spec {s : State} {core : Nat} {c : BfCmd} {x : Xfer} {va : Word64} {pa n off : Nat} {e : BfEngine} (he : s.bfOf core = e)
    (hq : e.queue = [c]) :
    ∃ l y, (fillLine s core c x va (.mem pa) n false off).bfOf core = { e.withSlots l with queue := [y] } ∧ y.stage = c.stage + 1 ∧ y.begun = c.begun ∧
      (fillLine s core c x va (.mem pa) n false off).home = s.home ∧
      ∀ i, i < n → ((e.withSlots l).slot (x.place false (off + i)).1).dataAt (x.place false (off + i)).2 = fillByte x false (s.home.byte (pa + i)) := by
  have hlen : (s.home.read pa n).length = n := by simp [Home.read]
  generalize htt : (s.det c.g.grid && s.home.tainted pa n) = tt
  have hside : ∀ (L : List (Word64 × Nat)) (a : BfEngine), ∃ l, L.foldl (fun e p => fillBytes x e true (x.sideAt p)
        (((s.home.read pa n).drop (p.1 - va).toNat).take p.2) tt) a = a.withSlots l ∧
      ∀ j q, ((a.withSlots l).slot j).dataAt q = (a.slot j).dataAt q := by
    intro L
    induction L with
    | nil => exact fun a => ⟨a.slots, rfl, fun _ _ => rfl⟩
    | cons p L ih =>
      intro a
      obtain ⟨l0, h0⟩ := fillBytes_slots x a true (x.sideAt p) (((s.home.read pa n).drop (p.1 - va).toNat).take p.2) tt
      have hs := fillBytes_side x a (x.sideAt p) (((s.home.read pa n).drop (p.1 - va).toNat).take p.2) tt
      rw [h0] at hs
      obtain ⟨l, h1, h2⟩ := ih (a.withSlots l0)
      exact ⟨l, by rw [List.foldl_cons, h0, h1]; rfl, fun j q => (h2 j q).trans (hs j q)⟩
  obtain ⟨l0, h0⟩ := fillBytes_slots x e false off (s.home.read pa n) tt
  obtain ⟨l, h1, h2⟩ := hside (x.shared va) (e.withSlots l0)
  have hline : fillLine s core c x va (.mem pa) n false off = bfKeep (s.setBf core (e.withSlots l)) core
      { c with stage := c.stage + 1, hold := none, readT := c.readT || tt, t := c.t || tt } := by
    have hl : (e.withSlots l0).withSlots l = e.withSlots l := rfl
    rw [← hl, ← h1, ← h0, ← htt, ← he]
    rfl
  refine ⟨l, { c with stage := c.stage + 1, hold := none, readT := c.readT || tt, t := c.t || tt }, ?_, rfl, rfl, ?_, fun i hi => ?_⟩
  · rw [hline]
    exact bfKeep_alone (State.bfOf_setBf _ _ _) hq rfl
  · rw [hline]
    rfl
  · have hc := fillBytes_covers (x := x) (e := e) (off := off) (bs := s.home.read pa n) (t := tt) (k := i) (by omega)
    rw [h0] at hc
    refine (h2 _ _).trans (hc.trans (congrArg _ ?_))
    simp [Home.read]

/-- An address that a path reaches where it may not meet peer pages is reached the same where it may. -/
theorem accessPeer_of_access {s : State} {unit : Nat} {ctx : Context} {need : Need} {va : Word64} {pa : Nat}
    (h : s.access unit ctx need va = .ok pa) : s.accessPeer unit ctx need va = .ok pa := by
  unfold State.access at h
  unfold State.accessPeer
  cases hx : s.xlat unit ctx va with
  | fault => rw [hx] at h; cases h
  | zero => rw [hx] at h; cases h
  | ok p pte sz =>
    rw [hx] at h
    dsimp only at h ⊢
    split at h
    · cases h
    · next hc =>
      simp only [Bool.or_eq_true, not_or, Bool.not_eq_true, Bool.not_eq_true', Bool.not_eq_false] at hc
      obtain ⟨⟨himg, hpeer⟩, hperm⟩ := hc
      simp only [himg, hpeer, hperm, Bool.false_eq_true, if_false, Bool.not_true, Bool.or_self]
      exact h

/-- A line of a fill from memory that nothing holds up. -/
theorem xferLine_fill {s : State} {core : Nat} {c : BfCmd} {ctx : Context} {x : Xfer} {k : CmdKind} {va : Word64} {pa m off : Nat} {e : BfEngine}
    (he : s.bfOf core = e) (hq : e.queue = [c]) (hk : c.kind = .inl k) (hf : x.fill = true) (h0 : x.space = 0)
    (ha : s.access core ctx .read va = .ok pa) (hp : s.poisonAt (.mem pa) m = false)
    (ho : s.linesOpen c.asid (s.classOf c.g.grid) (s.walkLines { unit := core, ctx := ctx, tm := c.team, own := [c.serial] } 0 [va] ++
      s.hbmLines [.mem pa]) = true) :
    ∃ l y, (xferLine s core c ctx x va m false off).bfOf core = { e.withSlots l with queue := [y] } ∧ y.stage = c.stage + 1 ∧ y.begun = c.begun ∧
      (xferLine s core c ctx x va m false off).home = s.home ∧
      ∀ i, i < m → ((e.withSlots l).slot (x.place false (off + i)).1).dataAt (x.place false (off + i)).2 = fillByte x false (s.home.byte (pa + i)) := by
  obtain ⟨cs, hcs⟩ := s.chargeLines_eq c.asid (s.classOf c.g.grid)
    (s.walkLines { unit := core, ctx := ctx, tm := c.team, own := [c.serial] } 0 [va] ++ s.hbmLines [.mem pa])
  have hat : s.engAt { unit := core, ctx := ctx, tm := c.team, own := [c.serial] } 0 false false va m = .at_ (.mem pa) := by
    have ht : s.engTarget { unit := core, ctx := ctx, tm := c.team, own := [c.serial] } 0 false false va m = .at_ (.mem pa) := by
      simp [State.engTarget, accessPeer_of_access ha]
    simp [State.engAt, ht, hp]
  have hline : xferLine s core c ctx x va m false off =
      (fillLine (State.unmark { s with ctxs := cs } c.serial) core c x va (.mem pa) m false off).chargeStep c.asid (s.classOf c.g.grid) 27 := by
    have hs : (x.space == 1 && !x.fill) = false := by simp [hf]
    simp only [xferLine, hf, h0, Bool.not_true, Bool.and_false, hat, ho, Bool.false_and, Bool.false_eq_true, if_false, if_true, hcs]
  have hbf : (State.unmark { s with ctxs := cs } c.serial).bfOf core = e :=
    (unmark_bfOf (s := { s with ctxs := cs }) fun y hy => ⟨k, by
      rw [show (State.bfOf { s with ctxs := cs } core) = e from he, hq, List.mem_singleton] at hy
      rw [hy, hk]⟩).trans he
  obtain ⟨l, y, h1, h2, h3, h4, h5⟩ := fillLine_spec (x := x) (va := va) (pa := pa) (n := m) (off := off) hbf hq
  rw [hline]
  exact ⟨l, y, h1, h2, h3, h4, h5⟩

/-- A transfer that fills writes no memory. -/
theorem planXfer_fill {e : BfEngine} {b : Bool} {k : CmdKind} {x : Xfer} (h : planXfer e b k = .ok x) (hf : x.fill = true) : bfDigests k = false := by
  cases k with
  | ossave ty sp f a d sc =>
    simp only [planXfer] at h
    repeat' split at h
    all_goals cases h
    cases hf
  | drainMem ty n rm sp a d =>
    simp only [planXfer] at h
    repeat' split at h
    all_goals cases h
    cases hf
  | _ => rfl

/-- Settles O51: the beginning of a command, the passes of a stage and the lines of a transfer, each by its own lemma. -/
theorem butterflyEvents : Obligations.ButterflyEvents := by
  unfold Obligations.ButterflyEvents
  intro s core c hn hh
  dsimp only
  refine ⟨fun hb hstop hlatch => ⟨fun hf => ?_, fun ch k f m tag hk ha => ?_, fun k hk ha hx => ?_⟩, fun hb hstop hlatch => ?_,
    fun ch k f m tag p hb hp hk ho hplan => ?_, fun ctx k x hctx hk hb hst hx ht hh1 => ?_⟩
  · exact bfPerform_waits hn hstop hlatch (by simp [State.mayBegin, hf])
  · exact bfPerform_waits hn hstop hlatch (by simp [State.mayBegin, BfCmd.entry?, hk, ha])
  · refine bfPerform_waits hn hstop hlatch ?_
    cases k with
    | osfill => simp [State.mayBegin, BfCmd.entry?, hk, ha]
    | ossave => simp [State.mayBegin, BfCmd.entry?, hk, ha]
    | drainMem => simp [State.mayBegin, BfCmd.entry?, hk, ha]
    | _ => exact absurd hx id
  · have hbegin := bfPerform_begins hn hh hstop hlatch hb
    refine ⟨fun op hk => hbegin.trans (by simp only [bfBegin, hk]), fun k hk hs hheld => ?_, fun m g slot hheld hk ha => ?_, fun hheld m hk => ?_,
      fun ch k f m tag hheld hp hk => ?_, fun ty m rm f hheld hk hrun hpoison => ?_, fun k hk hs hz hd => ?_⟩
    · refine hbegin.trans (congrArg _ ?_)
      rcases hs with hs | ⟨m, rfl⟩
      · rw [hk] at hs
        cases k with
        | stage => simp [bfBegin, hk, hheld]
        | _ => cases hs
      · simp [bfBegin, hk, hheld]
    · obtain ⟨hq, hl, -, -, hp, hctr, hfut, hg, hd⟩ := ha
      have hzero : bfBegin s core c = bfFinish (s.setBf core ((s.bfOf core).setAcc m {})) core c 1 0 := by simp [bfBegin, hk, hheld]
      obtain ⟨hbf, hdone⟩ := bfFinish_alone (s := s.setBf core ((s.bfOf core).setAcc m {})) (State.bfOf_setBf _ _ _)
        (fun x hx => by rw [show ((s.bfOf core).setAcc m {}).queue = [c] from hq, List.mem_singleton] at hx; rw [hx]) hl hp hctr hk rfl hfut hg hd
      refine ⟨_, hbegin.trans (congrArg _ hzero), ⟨by rw [hbf], hdone⟩, ?_, fun k hk => ?_, by rw [hbf]; rfl⟩
      · rw [hbf]
        exact (BfEngine.acc_setAcc _ _ _ _).trans (if_pos rfl)
      · rw [hbf]
        exact (BfEngine.acc_setAcc _ _ _ _).trans (if_neg hk)
    · exact hbegin.trans (by simp [bfBegin, hk, hheld])
    · have hst := hbegin.trans (congrArg _ (bfBegin_stage hheld hp hk))
      exact ⟨fun cause h => hst.trans (by rw [h]), fun p h => hst.trans (by rw [h])⟩
    · exact hbegin.trans (by simp [bfBegin, hk, hheld, hrun, hpoison])
    · have hxf := hbegin.trans (congrArg _ (bfBegin_transfer hk hs hz hd))
      exact ⟨fun cause h => hxf.trans (by rw [h]), fun x h => hxf.trans (by rw [h])⟩
  · refine ⟨fun h0 hr hs => ?_, fun h0 hr => ?_, fun g slot hch h1 h0 ha => ?_⟩
    · obtain ⟨cost, hx⟩ := bfPass_first hn hh hb hp hk ho hplan h0
      exact ⟨cost, hx.trans (by rw [hr, hs]; rfl)⟩
    · obtain ⟨cost, hx⟩ := bfPass_first hn hh hb hp hk ho hplan h0
      exact ⟨cost, hx.trans (by rw [hr]; rfl)⟩
    · subst hch
      obtain ⟨hq, hl, -, hstop, -, hctr, hfut, hg, hd⟩ := ha
      have hregs : p.regs.length = 1 := by rw [planStage_regs hplan]; rfl
      obtain ⟨cost, hx⟩ := bfPass_first hn hh hb hp hk ho hplan h0
      have hpass0 : runPass (s.bfOf core) p m c.mid c.stage c.pass = runPass (s.bfOf core) p m c.mid 0 0 := by rw [h0, h1]
      refine ⟨fun hc hxt => ?_, fun hc => ?_⟩
      · obtain ⟨a, t, ha, hrun⟩ := runPass_whole (mid := c.mid) (m := m) hregs hc hxt
        simp only [hpass0, hrun, if_true] at hx
        obtain ⟨hbf, hdone⟩ := bfFinish_alone
          (s := (s.setBf core ((s.bfOf core).setAcc m { a with t := t })).charge c.asid (s.classOf c.g.grid) 24 cost)
          (c := { c with flags := c.flags ||| (runStage (stageIn (s.bfOf core) p c.mid 0) [(s.bfOf core).acc m]
            (stAdd (stageIn (s.bfOf core) p c.mid 0).r) true (List.range p.rows)).2 })
          (State.bfOf_setBf s core _)
          (fun x hx => by rw [show ((s.bfOf core).setAcc m { a with t := t }).queue = [c] from hq, List.mem_singleton] at hx; rw [hx]) hl hp hctr hk rfl hfut hg hd
        have hacc : ∀ j, BfEngine.acc { (s.bfOf core).setAcc m { a with t := t } with queue := [] } j =
            if j = m then { a with t := t } else (s.bfOf core).acc j := fun j => BfEngine.acc_setAcc _ _ _ _
        refine ⟨_, a, hx, ⟨by rw [hbf], hdone⟩, ha, ?_⟩
        rw [hbf]
        simp only [hacc, if_true]
        exact ⟨trivial, trivial, trivial, trivial, fun j hj => if_neg hj, rfl⟩
      · obtain ⟨es, he, hd, hs, hpass⟩ := runPass_half (mid := c.mid) (m := m) hregs hc
        simp only [hpass0, hd, hstop, he, hs, hpass, Bool.false_eq_true, if_false] at hx
        refine ⟨_, ?y, hx, ?queue, ?begun, ?pass, ?stage, hg⟩
        case queue =>
          refine congrArg BfEngine.queue (bfKeep_alone (c := c) (e := { s.bfOf core with accs := es }) ?_ hq ?_)
          · exact State.bfOf_setBf s core _
          · rfl
        case begun => exact hb
        case pass => rfl
        case stage => rfl
  · have hst' := transfer_exec hctx hk hx ht hh1
    refine ⟨fun cause h => hst'.trans (by rw [h]), fun h hspan => ⟨hst'.trans (by rw [h]; simp only [hspan]), fun g slot ha hf hr => ?_⟩,
      fun va m side off h hspan => ⟨hst'.trans (by rw [h]; simp only [hspan]), fun pa hq hf h0 hside hacc hpo hop => ?_⟩⟩
    · obtain ⟨hq, hl, -, -, hp, hctr, hfut, hg, hd⟩ := ha
      obtain ⟨l, hfill, htag, hrows, hdata⟩ := fillEnd_spec (x := x) (e := s.bfOf core) (t := c.readT) hr
      have hdig := planXfer_fill h hf
      obtain ⟨hbf, hdone⟩ := bfFinish_alone (s := (s.served (queueAt core 1) c.asid).setBf core (fillEnd x (s.bfOf core) c.readT))
        (e := fillEnd x (s.bfOf core) c.readT) (State.bfOf_setBf _ _ _)
        (fun y hy => by rw [hfill, show ((s.bfOf core).withSlots l).queue = [c] from hq, List.mem_singleton] at hy; rw [hy])
        (by rw [hfill]; exact hl) hp hctr hk hdig hfut hg hd
      have hslot : ∀ j, BfEngine.slot { fillEnd x (s.bfOf core) c.readT with queue := [] } j = (fillEnd x (s.bfOf core) c.readT).slot j := fun _ => rfl
      refine ⟨_, hst'.trans (by rw [h]; simp only [hspan, hf, if_true]), ⟨by rw [hbf], hdone⟩, ?_⟩
      rw [hbf, hslot]
      exact ⟨htag, hrows, hdata⟩
    · subst hside
      obtain ⟨l, y, hbf, hstage, hbegun, hhome, hbytes⟩ := xferLine_fill (s := s.served (queueAt core 1) c.asid) (off := off) rfl hq hk hf h0 hacc hpo hop
      refine ⟨_, y, hst'.trans (by rw [h]; simp only [hspan]), by rw [hbf], hstage, hbegun.trans hb, hhome, fun i hi => ?_⟩
      rw [hbf, BfSlot.read_one]
      refine congrArg (fun b => [b]) ((hbytes i hi).trans ?_)
      simp [fillByte, isLnsTag]

end Sys2Proof.Machine
end

section
/-!
PROOF. Sheets: the start of a run and its sweeps (06 R135 to R152).
-/
namespace Sys2Proof.Machine
open Sys2Proof

/-! ### Nothing queued (R141) -/

theorem wordLines_nil (s : State) (x : Sheet) (c : Context) : s.wordLines x c [] = [] := rfl
theorem flushElems_nil (s : State) (x : Sheet) (c : Context) : s.flushElems x c [] = s := rfl

/-- A sheet with nothing queued applies nothing. -/
theorem drainQueue_nil {x : Sheet} (hq : x.queue = []) (hp : x.pendW = []) (io : SheetIo) (w : Elems) : x.drainQueue io w = (x, w, none) := by
  cases x
  dsimp only at hq hp
  subst hq hp
  rfl

/-- An element in RUN or SLEEP keeps a sheet going. -/
theorem waitsStop_none {l : List Nat} (h : 0 ∈ l ∨ 2 ∈ l) : waitsStop l = none := by
  have hall : l.all (· == 4) = false := by
    rw [List.all_eq_false]
    rcases h with h | h <;> exact ⟨_, h, by decide⟩
  have hany : l.any waitLive = true := by
    rw [List.any_eq_true]
    rcases h with h | h <;> exact ⟨_, h, by decide⟩
  rw [waitsStop, hall, hany]
  rfl

/-- A sheet put back in place of itself. -/
theorem sheetAt?_setSheet {s : State} {core slot : Nat} {x y : Sheet} (h : s.sheetAt? core slot = some x) (hc : y.core = x.core) (hs : y.slot = x.slot) :
    (s.setSheet y).sheetAt? core slot = some y := by
  have hx := List.find?_some h
  simp only [Bool.and_eq_true, decide_eq_true_eq] at hx
  have hkeep : ∀ z : Sheet, (decide ((if z.core = y.core ∧ z.slot = y.slot then y else z).core = core) &&
      decide ((if z.core = y.core ∧ z.slot = y.slot then y else z).slot = slot)) = (decide (z.core = core) && decide (z.slot = slot)) := fun z => by
    split
    · next hz => rw [hz.1, hz.2]
    · rfl
  refine (find?_map_keeps _ _ _ hkeep).trans ?_
  rw [show s.sheets.find? _ = some x from h, Option.map_some, if_pos ⟨hc.symm, hs.symm⟩]

theorem putRun_head {x : Sheet} {r z : SwRun} (h : x.runs.head? = some r) (hz : z.serial = r.serial) : (x.putRun z).runs.head? = some z := by
  rw [Sheet.putRun, List.head?_map, h, Option.map_some, if_pos hz.symm]

/-! ### SWRUN_START and SWEEP -/

section
variable {s : State} {core slot : Nat} {x : Sheet} {r : SwRun} {c : Context} (h : s.headRun core slot = some (x, r, c))
include h

/-- The run at the head of a sheet. -/
theorem headRun_spec : s.sheetAt? core slot = some x ∧ x.runs.head? = some r := by
  obtain ⟨y, hy, h⟩ := Option.bind_eq_some_iff.mp h
  obtain ⟨q, hq, h⟩ := Option.bind_eq_some_iff.mp h
  obtain ⟨d, -, h⟩ := Option.bind_eq_some_iff.mp h
  split at h
  · obtain ⟨rfl, rfl, rfl⟩ := Option.some.inj h
    exact ⟨hy, hq⟩
  · cases h

theorem start_cancelled (hs : r.started = false) (ho : (s.orphans.any fun o => decide (o.sheet.core = core) && decide (o.sheet.slot = slot)) = false)
    (hc : r.cancel = true) : exec (.swrunStart core slot) s = .next (s.endCancelled core slot x.runs.length) := by
  have hfind : (s.orphans.find? fun o => decide (o.sheet.core = core) && decide (o.sheet.slot = slot)) = none :=
    List.find?_eq_none.mpr (List.any_eq_false.mp ho)
  refine event_some ?_
  simp only [swStartStep, State.orphanStep, hfind, Option.bind_none, Option.none_or, h, Option.bind_some, hs, hc, Bool.false_eq_true, if_false, if_true]

theorem start_exec (hs : r.started = false) (ho : (s.orphans.any fun o => decide (o.sheet.core = core) && decide (o.sheet.slot = slot)) = false)
    (hc : r.cancel = false) (ht : s.sweepTurn x = true) :
    exec (.swrunStart core slot) s = .next (s.sweepLines x r c (List.range (shCount x.record)) fun s => s.startRun x r c) := by
  have hfind : (s.orphans.find? fun o => decide (o.sheet.core = core) && decide (o.sheet.slot = slot)) = none :=
    List.find?_eq_none.mpr (List.any_eq_false.mp ho)
  refine event_some ?_
  simp only [swStartStep, State.orphanStep, hfind, Option.bind_none, Option.none_or, h, Option.bind_some, hs, hc, ht, Bool.false_eq_true, if_false, Bool.not_true]

theorem sweep_exec (hs : r.started = true) (ha : s.admitted x.asid (s.classOf x.team.grid) 25 = true) (ht : s.sweepTurn x = true) :
    exec (.sweep core slot) s = .next (s.sweepLines x r c ((List.range (shCount x.record)).filter fun i => Table.get false x.deckle (i / 64)) fun t =>
      match t.sweepOnce x r c with
      | .next u => .next (u.chargeStep x.asid (s.classOf x.team.grid) 25)
      | o => o) := by
  refine event_some ?_
  simp only [sweepStep, h, Option.bind_some, hs, ha, ht, Bool.not_true, Bool.or_self, Bool.false_eq_true, if_false] <;> rfl

end

/-- A start with nothing queued, where an element is in RUN: the run is the one in progress. -/
theorem startRun_plain {s : State} {x : Sheet} {r : SwRun} {c : Context} {tc : List Word64 × List (List Word64)} {ws : List Nat}
    (hcode : s.stepCode x c = .ok tc) (ho : s.sheetOpen x (s.codeLines x c tc.1) = true) (hq : x.queue = []) (hp : x.pendW = [])
    (hw : allWaits ((s.chargeSheet x (s.codeLines x c tc.1)).sheetIo x c) x.record [] = .ok ws) (h0 : 0 ∈ ws) :
    s.startRun x r c = .next ((s.chargeSheet x (s.codeLines x c tc.1)).setSheet
      { x.putRun { r with started := true, table := tc.1, code := tc.2, stop := none } with deckle := deckleOf ws }) := by
  have hopen : ∀ t : State, t.sheetOpen x [] = true := fun _ => rfl
  have hcharge : ∀ t : State, t.chargeSheet x [] = t := fun _ => rfl
  have hnote : ∀ io : SheetIo, noteChanged io r.changed [] = r.changed := fun _ => rfl
  simp only [State.startRun, hcode, Except.toOption, Option.map_some, Option.getD_some, ho, Bool.not_true, Bool.false_eq_true, if_false,
    drainQueue_nil hq hp, hw, State.commitElems, wordLines_nil, flushElems_nil, hopen, hcharge, hnote, waitsStop_none (.inl h0), hq, List.isEmpty_nil,
    List.any_nil, Bool.or_false]

/-- A sweep in which no slab faults, after which nothing is queued, and which the sheet goes on from. -/
theorem sweepOnce_plain {s : State} {x : Sheet} {r : SwRun} {c : Context} {outs : List SlabOut} {w : Elems} {ws : List Nat}
    (houts : outs = sweepAll (s.sheetIo x c) x.record r.table r.code x.deckle)
    (hw : w = outs.foldl (fun w o => o.w.foldl (fun w p => Table.put w p.1 p.2) w) []) (hf : ∀ o ∈ outs, o.fault = none)
    (hb : boundaryEffects x.record outs = []) (hq : x.queue = []) (hp : x.pendW = []) (hws : allWaits (s.sheetIo x c) x.record w = .ok ws)
    (hrun : 0 ∈ ws ∨ 2 ∈ ws) (hl : r.sweeps + 1 < shLimit x.record) (hc : r.cancel = false) (ho : s.sheetOpen x (s.wordLines x c w) = true) :
    ∃ z : SwRun, z.sweeps = r.sweeps + 1 ∧ z.started = r.started ∧ z.serial = r.serial ∧
      s.sweepOnce x r c = .next (((s.chargeSheet x (s.wordLines x c w)).flushElems x c w).setSheet
        { x.putRun z with deckle := deckleOf ws, sweepNo := x.sweepNo + 1, runnable := countRunnable ws }) := by
  have herr : outs.filterMap (·.fault) = [] := List.filterMap_eq_nil_iff.mpr hf
  subst houts
  refine ⟨{ r with sweeps := r.sweeps + 1, flags := (sweepAll (s.sheetIo x c) x.record r.table r.code x.deckle).foldl (fun f (o : SlabOut) => f ||| o.flags) r.flags
                   stop := none, changed := noteChanged (s.sheetIo x c) r.changed w, wroteT := r.wroteT || w.any fun p => p.2.2 }, rfl, rfl, rfl, ?_⟩
  have hentries : ∀ io : SheetIo, applyEntries io x.record w [] = { w := w, left := [], fail := none } := fun _ => rfl
  have hrec : ∀ z, (x.putRun z).record = x.record := fun _ => rfl
  simp only [State.sweepOnce, hrec, herr, List.find?_nil, List.head?_nil, ← hw, State.sweepBoundary, hb, hentries, drainQueue_nil hq hp, hws,
    State.commitElems, ho, Bool.not_true, Bool.false_eq_true, if_false, waitsStop_none hrun, if_neg (Nat.not_le.mpr hl), hc]

/-- A fold whose steps leave the sheets leaves the sheets. -/
theorem foldl_sheets {ι : Type} {F : State → ι → State} (hF : ∀ s i, (F s i).sheets = s.sheets) (L : List ι) (s : State) :
    (L.foldl F s).sheets = s.sheets := by
  induction L generalizing s with
  | nil => rfl
  | cons k L ih => exact (ih _).trans (hF s k)

theorem flushElems_sheets (s : State) (x : Sheet) (c : Context) (w : Elems) : (s.flushElems x c w).sheets = s.sheets := by
  unfold State.flushElems
  refine foldl_sheets (fun t k => ?_) _ s
  rfl
theorem chargeSheet_sheets (s : State) (x : Sheet) (l : List Nat) : (s.chargeSheet x l).sheets = s.sheets := by
  obtain ⟨c, h⟩ := s.chargeLines_eq x.asid (s.classOf x.team.grid) l
  rw [State.chargeSheet, h]
theorem chargeLines_sheets (s : State) (a k : Nat) (l : List Nat) : (s.chargeLines a k l).sheets = s.sheets := by
  obtain ⟨c, h⟩ := s.chargeLines_eq a k l
  rw [h]

/-- A step of the engine that reads elements goes on where the budgets of their stacks have room. -/
theorem sweepLines_eq (s : State) (x : Sheet) (r : SwRun) (c : Context) (l : List Nat) (f : State → SwOut) :
    s.sweepLines x r c l f =
      if (s.served (queueAt x.core 4) x.asid).linesOpen x.asid (s.classOf x.team.grid) ((s.served (queueAt x.core 4) x.asid).elemLines x c l) then
        (f ((s.served (queueAt x.core 4) x.asid).chargeLines x.asid (s.classOf x.team.grid)
          ((s.served (queueAt x.core 4) x.asid).elemLines x c l))).settle (s.served (queueAt x.core 4) x.asid) x r c
      else (s.served (queueAt x.core 4) x.asid).bump := by
  have hcls : (s.served (queueAt x.core 4) x.asid).classOf x.team.grid = s.classOf x.team.grid := rfl
  simp only [State.sweepLines, hcls]
  cases (s.served (queueAt x.core 4) x.asid).linesOpen x.asid (s.classOf x.team.grid) ((s.served (queueAt x.core 4) x.asid).elemLines x c l) <;> rfl

/-- The sheet and its run after such a sweep. -/
theorem sweep_goes {s s2 : State} {core slot : Nat} {x : Sheet} {r : SwRun} {c : Context} {outs : List SlabOut} {w : Elems} {ws : List Nat}
    (hx : s.sheetAt? core slot = some x) (hr : x.runs.head? = some r) (hs2 : s2.sheets = s.sheets)
    (houts : outs = sweepAll (s2.sheetIo x c) x.record r.table r.code x.deckle)
    (hw : w = outs.foldl (fun w o => o.w.foldl (fun w p => Table.put w p.1 p.2) w) []) (hf : ∀ o ∈ outs, o.fault = none)
    (hb : boundaryEffects x.record outs = []) (hq : x.queue = []) (hp : x.pendW = []) (hws : allWaits (s2.sheetIo x c) x.record w = .ok ws)
    (hrun : 0 ∈ ws ∨ 2 ∈ ws) (hl : r.sweeps + 1 < shLimit x.record) (hc : r.cancel = false) (ho : s2.sheetOpen x (s2.wordLines x c w) = true) :
    ∃ t y z, s2.sweepOnce x r c = .next t ∧ t.sheetAt? core slot = some y ∧ y.runs.head? = some z ∧
      z.sweeps = r.sweeps + 1 ∧ z.started = r.started ∧ y.sweepNo = x.sweepNo + 1 ∧ y.runnable = countRunnable ws ∧
      y.deckle = deckleOf ws ∧ t.home = ((s2.chargeSheet x (s2.wordLines x c w)).flushElems x c w).home := by
  obtain ⟨z, hz, hst, hser, hsweep⟩ := sweepOnce_plain houts hw hf hb hq hp hws hrun hl hc ho
  have hsheets := (flushElems_sheets (s2.chargeSheet x (s2.wordLines x c w)) x c w).trans ((chargeSheet_sheets ..).trans hs2)
  generalize (s2.chargeSheet x (s2.wordLines x c w)).flushElems x c w = F at hsweep hsheets
  have hF : F.sheetAt? core slot = some x :=
    (congrArg (fun l : List Sheet => l.find? fun z : Sheet => decide (z.core = core) && decide (z.slot = slot)) hsheets).trans hx
  exact ⟨_, _, z, hsweep, sheetAt?_setSheet hF rfl rfl, putRun_head hr hser, hz, hst, rfl, rfl, rfl, rfl⟩

/-- Settles O52: the start of a run and a sweep, and the plain case of each. -/
theorem sheetEvents : Obligations.SheetEvents := by
  unfold Obligations.SheetEvents
  intro s core slot x r c h
  obtain ⟨hx, hr⟩ := headRun_spec h
  have hat : ∀ {t : State} (y : Sheet), t.sheets = s.sheets → y.core = x.core → y.slot = x.slot → (t.setSheet y).sheetAt? core slot = some y :=
    fun y ht hc hs => sheetAt?_setSheet ((congrArg (fun l : List Sheet => l.find? fun z : Sheet => decide (z.core = core) && decide (z.slot = slot)) ht).trans hx) hc hs
  dsimp only
  refine ⟨hx, hr, fun hs ho hc => start_cancelled h hs ho hc, fun hs ho hc ht => ?_, fun hs ha ht => ?_⟩
  · have hexec := (start_exec h hs ho hc ht).trans (congrArg _ (sweepLines_eq ..))
    refine ⟨fun hl => hexec.trans (by rw [hl]; rfl), fun hl => ?_⟩
    rw [if_pos hl] at hexec
    refine ⟨hexec, fun tc ws hcode hop hq hp hw h0 => ?_⟩
    simp only [startRun_plain hcode hop hq hp hw h0] at hexec
    refine ⟨_, _, hexec, hat _ ((chargeSheet_sheets ..).trans (chargeLines_sheets ..)) rfl rfl, putRun_head hr rfl, rfl, rfl, ?_⟩
    exact (State.chargeLines_home ..).trans (State.chargeLines_home ..)
  · have hexec := (sweep_exec h hs ha ht).trans (congrArg _ (sweepLines_eq ..))
    refine ⟨fun hl => hexec.trans (by rw [hl] <;> rfl), fun hl => ?_⟩
    rw [if_pos hl] at hexec
    refine ⟨fun t ht => hexec.trans (by rw [ht]; rfl), fun o ho hne => hexec.trans ?_, fun ws hf hb hq hp hws hrun hlim hc hop => ?_⟩
    · subst ho
      congr 2
      cases hsw : State.sweepOnce _ x r c with
      | next t => exact absurd hsw (hne t)
      | _ => rfl
    · obtain ⟨t, y, z, hgo, hy, hz, hn, hst, hno, hrun', hd, hh⟩ := sweep_goes hx hr (chargeLines_sheets (s.served (queueAt x.core 4) x.asid) ..) rfl rfl hf hb hq hp hws hrun hlim hc hop
      refine ⟨t.chargeStep x.asid (s.classOf x.team.grid) 25, y, z, hexec.trans (by rw [hgo]; rfl), hy, hz, hn, hst.trans hs, hno, hrun', hd, hh⟩

end Sys2Proof.Machine
end

section
/-!
PROOF. The interval words: those of fixed latency, XDIV, XLD and XST, and the decisions of XCMP, XSGN and XREF (10 R245 to R273).
-/
namespace Sys2Proof.Machine
open Sys2Proof

/-! ### The machine under a change of the log (R250, R428) -/

/-- A step over the machine that keeps its groups and its run in execution. -/
def SameRuns (s t : State) : Prop := t.cur = s.cur ∧ t.groups = s.groups

theorem SameRuns.refl (s : State) : SameRuns s s := ⟨rfl, rfl⟩
theorem SameRuns.trans {s t u : State} (h : SameRuns s t) (k : SameRuns t u) : SameRuns s u := ⟨k.1.trans h.1, k.2.trans h.2⟩
theorem SameRuns.foldl {α : Type} {f : State → α → State} (hf : ∀ s x, SameRuns s (f s x)) (l : List α) (s : State) :
    SameRuns s (l.foldl f s) := by
  induction l generalizing s with
  | nil => exact .refl s
  | cons x l ih => exact (hf s x).trans (ih _)

theorem sameRuns_chargeLines (s : State) (a k : Nat) (l : List Nat) : SameRuns s (s.chargeLines a k l) :=
  by
  obtain ⟨c, hc⟩ := State.chargeLines_eq s a k l
  rw [hc]; exact .refl s
theorem sameRuns_homeWrite (s : State) (a : TaintMode) (pa : Nat) (l : List (BitVec 8)) : SameRuns s (s.homeWrite a pa l) := by
  obtain ⟨w, hw⟩ := State.homeWrite_eq s a pa l
  rw [hw]; exact .refl s

theorem sameRuns_chargeSpill (s : State) (core : Nat) (c : Context) (tm : Team) (l : List Nat) : SameRuns s (s.chargeSpill core c tm l) :=
  SameRuns.foldl (fun t _ => sameRuns_chargeLines t _ _ _) _ s
theorem sameRuns_putSpill (s : State) (core : Nat) (c : Context) (tm : Team) (l : List Nat) : SameRuns s (s.putSpill core c tm l) := by
  refine SameRuns.foldl (fun t i => ?_) _ s
  split
  · exact (sameRuns_homeWrite t _ _ _).trans (sameRuns_chargeLines _ _ _ _)
  · exact .refl t
theorem sameRuns_setLog (s : State) (core : Nat) (c : Context) (tm : Team) (l : ExprLog) : SameRuns s (s.setLog core c tm l) :=
  SameRuns.trans ⟨rfl, rfl⟩ (sameRuns_putSpill _ _ _ _ _)

theorem Env.Live.same {e : Env} (h : e.Live) {t : State} (ht : SameRuns e.s t) : ({ e with s := t } : Env).Live := h.of_groups ht.1 ht.2

/-- A word that reads and changes nodes leaves its environment live. -/
theorem Env.Live.logged {e : Env} (h : e.Live) (reads : List Nat) (l : ExprLog) : ((e.readNodes reads).withTeamLog l).Live := by
  have read : (e.readNodes reads).Live := h.same (sameRuns_chargeSpill _ _ _ _ _)
  obtain ⟨hc, hg⟩ := read.same (sameRuns_setLog (e.readNodes reads).s e.g.core e.ctx e.team l)
  exact ⟨hc, hg⟩

/-! ### A change of the log that nothing is in the way of (R251, R256) -/

theorem withLog_open {e : Env} {l : ExprLog} {reads fresh : List Nat} (h : LogOpen e l reads fresh) (k : Env → WordOut) :
    withLog e l reads fresh k = k ((e.readNodes reads).withTeamLog l) := by
  obtain ⟨hfree, hclean, hreach⟩ := h
  have nobody : (if l != e.team.log then e.logWaits else none) = none := by
    split
    · next hne => exact hfree (by simpa using hne)
    · rfl
  unfold withLog
  rw [nobody]
  simp only [hclean, hreach]
  rfl

/-! ### Fixed-latency interval words (R247, R253, R255) -/

theorem placeAll_lanes (scr : Nat) (outs : List (Nat × XOut)) (is : List Nat) : (placeAll scr outs is).map (·.1) = outs.map (·.1) := by
  induction outs generalizing is with
  | nil => rfl
  | cons x rest ih =>
    unfold placeAll
    split <;> simp [ih]

theorem outsOf_lanes (e : Env) (o : OpF) (out : Nat → XOut) : (outsOf e o out).map (·.1) = e.setE o := by
  simp [outsOf, Function.comp_def]

/-- In a list without repetition the entry of a lane is the one found there. -/
theorem find_lane {α : Type} {l : List (Nat × α)} (hn : (l.map (·.1)).Nodup) {x : Nat × α} (hx : x ∈ l) :
    (l.find? fun y => decide (y.1 = x.1)) = some x := by
  induction l with
  | nil => simp at hx
  | cons y l ih =>
    simp only [List.map_cons, List.nodup_cons] at hn
    rcases List.mem_cons.mp hx with rfl | hl
    · simp
    · have hne : y.1 ≠ x.1 := fun h => hn.1 (h ▸ List.mem_map_of_mem hl)
      rw [List.find?_cons_of_neg (by simpa using hne), ih hn.2 hl]

/-- The lane write of an interval word. -/
def xWrite (d : BitVec 8) (placed : List (Nat × XCell × Option (Nat × Node))) (fl : Nat → Flags) (L : Nat) : LaneWrite :=
  { lane := L, x := [(d.toNat, ((placed.find? fun x => decide (x.1 = L)).map (·.2.1)).getD {})], raise := fl L }

/-- The writes of an interval word, lane by lane of E. -/
theorem map_xWrite (d : BitVec 8) {placed : List (Nat × XCell × Option (Nat × Node))} (hn : (placed.map (·.1)).Nodup) (fl : Nat → Flags) :
    (placed.map fun x => ({ lane := x.1, x := [(d.toNat, x.2.1)], raise := fl x.1 } : LaneWrite)) =
      (placed.map (·.1)).map (xWrite d placed fl) := by
  rw [List.map_map]
  refine List.map_congr_left fun x hx => ?_
  simp only [Function.comp_apply, xWrite, find_lane hn hx, Option.map_some, Option.getD_some]

theorem xreg_apply_xWrite (e : Env) {d : BitVec 8} {placed : List (Nat × XCell × Option (Nat × Node))} (fl : Nat → Flags) {L : Nat}
    (hL : L ∈ placed.map (·.1)) (n : Nat) :
    ((e.th L).apply (xWrite d placed fl L)).xreg n = (regX d placed L n).getD ((e.th L).xreg n) := by
  obtain ⟨x, hx, rfl⟩ := List.mem_map.mp hL
  have some_ : (placed.find? fun y => decide (y.1 = x.1)).isSome := by
    rw [List.find?_isSome]; exact ⟨x, hx, by simp⟩
  obtain ⟨y, hy⟩ := Option.isSome_iff_exists.mp some_
  simp only [Thread.xreg, Thread.apply, xWrite, regX, hy, List.foldl_cons, List.foldl_nil, Table.get_set, Option.map_some, Option.getD_some]
  split <;> simp

/-- A word that writes the X registers and raises flags in the lanes of a set, over an environment that it may have changed. -/
theorem x_word {s : State} {e1 : Env} (hl : e1.Live) {i : Instr} {d : BitVec 8} {placed : List (Nat × XCell × Option (Nat × Node))}
    {E : List Nat} (hE : placed.map (·.1) = E) (hn : E.Nodup) {fl : Nat → Flags}
    (hi : exec i s = .next (retire (rbOf i) e1
      { lanes := placed.map fun x => { lane := x.1, x := [(d.toNat, x.2.1)], raise := fl x.1 } })) :
    ∃ t e', exec i s = .next t ∧ Retires e1.s t e1 e' (rbOf i) ∧ WritesX e1 e' E (regX d placed) ∧ RaisesF e1 e' E fl ∧ KeepsV e1 e' ∧
      KeepsP e1 e' ∧ KeepsC e1 e' ∧ NextPcs e1 e' ∧ KeepsS e1 e' ∧ KeepsBoundary e1 e' := by
  obtain ⟨hc, g, hg⟩ := hl
  rw [map_xWrite d (hE ▸ hn) fl, hE] at hi
  obtain ⟨e', hret, hth, hs, hw, hdef, heff, hctl, hpause, hexit, htf, hraised, -⟩ :=
    retire_spec (rbOf i) { lanes := E.map (xWrite d placed fl) } hc hg
  have lane : ∀ L, L < e1.g.lanes.length → e'.th L =
      (let t := if L ∈ E then (e1.th L).apply (xWrite d placed fl L) else e1.th L
       if e1.r.active.getLsbD L then { t with pc := e1.r.at_ + 8 } else t) := fun L hL => by
    rw [hth L hL, afterWord_lanes e1 E (xWrite d placed fl) (fun _ _ => rfl) hn L]
  refine ⟨_, e', hi, hret, fun L hL n => ?x, ⟨fun L hL => ?f, ?raised⟩, fun L hL => ?v, fun L hL => ?p, fun L hL => ?c, fun L hL => ?pc,
    ⟨by simpa using hs, by simpa using hw⟩, by simpa using hdef, by simpa using heff, by simpa using hctl, by simpa using hpause,
    by simpa using hexit, by simpa using htf⟩
  case raised => rw [hraised, raisedBy_map _ _ _ _ _ E _ fl (fun _ => rfl) fun _ => rfl]
  case pc => rw [hth L hL]; exact afterWord_pc e1 _ rfl L
  case x =>
    rw [lane L hL]
    by_cases hmem : L ∈ E
    · simp only [hmem, if_true]
      split <;> exact xreg_apply_xWrite e1 fl (hE ▸ hmem) n
    · simp only [hmem, if_false]; split <;> rfl
  all_goals
    rw [lane L hL]
    by_cases hmem : L ∈ E
    · simp only [hmem, if_true]; split <;> simp [Thread.apply, xWrite]
    · simp only [hmem, if_false]; split <;> first | rfl | exact ⟨rfl, rfl⟩

/-- An interval word whose meaning is `writeX` of its results. -/
theorem interval_word {s : State} {e : Env} (h : env? s = some e) {i : Instr} {o : OpF} {f : Env → WordOut} {out : Nat → XOut}
    {fl : Nat → BitVec 6} (hi : exec i s = word (rbOf i) s f) (hf : f e = writeX e o.d (outsOf e o out) fl) : IntervalWord s e i o out fl := by
  intro is l hres hopen e1
  have lanes : (placeAll (pkLogScr e.pkt) (outsOf e o out) is).map (·.1) = e.setE o :=
    (placeAll_lanes _ _ _).trans (outsOf_lanes e o out)
  have live : e1.Live := (live_of_env? h).logged _ _
  have retires : f e = .retire e1
      { lanes := (placeAll (pkLogScr e.pkt) (outsOf e o out) is).map fun x => { lane := x.1, x := [(o.d.toNat, x.2.1)], raise := fl x.1 } } := by
    have reserved : ExprLog.reserve (pkLogScr e.pkt) (spillCap e.pkt) ((outsOf e o out).filter fun x => x.2.isFresh).length e.team.log
        = some (is, l) := hres
    rw [hf]
    unfold writeX
    simp only [reserved]
    exact withLog_open hopen _
  exact x_word live lanes (e.setE_nodup o) (word_retires h hi retires)

theorem xFixed_word {s : State} {e : Env} (h : env? s = some e) {i : Instr} {o : OpF} {f : Env → Nat → XOut} (hi : exec i s = xFixed o f s)
    (hrb : rbOf i = o.rb) {out : Nat → XOut} (hf : ∀ L, f e L = out L) : IntervalWord s e i o out noFlag := by
  obtain rfl : f e = out := funext hf
  exact interval_word h (hi.trans (by rw [hrb]; rfl)) rfl

/-- An arithmetic interval word: its operands are the first of A, B and C (R266, R267). -/
theorem xArith_word {s : State} {e : Env} (h : env? s = some e) {i : Instr} {o : OpF} {op : Nat} (hi : exec i s = xArith op o s)
    (hrb : rbOf i = o.rb) {args : Nat → List XCell} {t : Nat → Bool} (hargs : ∀ L, xArgs o (opArity op) e L = args L)
    (ht : ∀ L, (args L).any (·.t) = t L) : IntervalWord s e i o (fun L => xResult op (args L) (e.dt L (t L))) noFlag :=
  xFixed_word h hi hrb fun L => by simp only [xTaint, hargs, ht]

theorem any_taint_two (x y : XCell) : [x, y].any (·.t) = (x.t || y.t) := by simp
theorem any_taint_three (x y z : XCell) : [x, y, z].any (·.t) = (x.t || y.t || z.t) := by simp [Bool.or_assoc]
theorem any_taint_one (x : XCell) : [x].any (·.t) = x.t := by simp

theorem flagIf_not (b : Bool) (f : Flags) : flagIf (!b) f = if b then 0 else f := by cases b <;> rfl

/-- Settles O12, by the two laws of `writeX` and the laws of the words that write a V or an S register. -/
theorem intervalWordResults : Obligations.IntervalWordResults := by
  unfold Obligations.IntervalWordResults
  intro s e o h x y z own pin
  refine ⟨xArith_word h (exec_xadd o s) rfl (fun _ => rfl) fun _ => any_taint_two _ _,
    xArith_word h (exec_xsub o s) rfl (fun _ => rfl) fun _ => any_taint_two _ _,
    xArith_word h (exec_xmul o s) rfl (fun _ => rfl) fun _ => any_taint_two _ _,
    xArith_word h (exec_xfma o s) rfl (fun _ => rfl) fun _ => any_taint_three _ _ _,
    xArith_word h (exec_xneg o s) rfl (fun _ => rfl) fun _ => any_taint_one _,
    xArith_word h (exec_xabs o s) rfl (fun _ => rfl) fun _ => any_taint_one _,
    xArith_word h (exec_xmin o s) rfl (fun _ => rfl) fun _ => any_taint_two _ _,
    xArith_word h (exec_xmax o s) rfl (fun _ => rfl) fun _ => any_taint_two _ _,
    xFixed_word h (exec_xmovv o s) rfl fun _ => rfl, xFixed_word h (exec_xmov o s) rfl fun _ => rfl,
    xFixed_word h (exec_xsever o s) rfl fun _ => rfl, interval_word h (exec_xpin o s) ?_,
    fixed32_word h (exec_xlo o s) rfl (fun _ => rfl) fun _ _ => rfl, fixed32_word h (exec_xhi o s) rfl (fun _ => rfl) fun _ _ => rfl,
    fixed32_word h (exec_xstg o s) rfl (fun _ => rfl) fun _ _ => rfl, fun hk => putS_word h (word_retires h (exec_xlogq o s) (by simp only [hk] <;> rfl)),
    fun hk => putS_word h (word_retires h (exec_xlogq o s) (by simp only [hk] <;> rfl)),
    fun hk => putS_word h (word_retires h (exec_xlogq o s) (by simp only [hk] <;> rfl)),
    fun hk => putS_word h (word_retires h (exec_xlogq o s) (by simp only [hk] <;> rfl))⟩
  dsimp only
  rw [show (fun L => if pin L then (0 : BitVec 6) else fIV) = fun L => flagIf (!pin L) fIV from funext fun L => (flagIf_not _ _).symm]
  rfl

/-! ### What a load changes of its environment (R329, R330) -/

/-- A load changes the machine, but no run, and of its group only the releases that it has seen. -/
structure Env.Reads (e e' : Env) : Prop where
  runs : SameRuns e.s e'.s
  env  : ∃ seen, e' = { e with s := e'.s, g := { e.g with seen := seen } }

theorem Env.Reads.refl (e : Env) : e.Reads e := ⟨.refl _, e.g.seen, rfl⟩
theorem Env.Reads.trans {e f g : Env} (h : e.Reads f) (k : f.Reads g) : e.Reads g := by
  obtain ⟨hr, x, hx⟩ := h
  obtain ⟨kr, y, hy⟩ := k
  refine ⟨hr.trans kr, y, ?_⟩
  rw [hx] at hy
  exact hy
theorem Env.Reads.machine (e : Env) {t : State} (h : SameRuns e.s t) : e.Reads { e with s := t } := ⟨h, e.g.seen, rfl⟩
theorem Env.Live.reads {e e' : Env} (h : e.Live) (k : e.Reads e') : e'.Live := by
  obtain ⟨hr, x, hx⟩ := k
  obtain ⟨hc, hg⟩ := h.same hr
  rw [hx]; exact ⟨hc, hg⟩

theorem sameRuns_postWhere (s : State) (p : GStore → Bool) : SameRuns s (s.postWhere p) := by
  obtain ⟨h, l, e⟩ := s.postWhere_eq p
  rw [e]; exact .refl s
theorem sameRuns_growView (s : State) (core line n : Nat) : SameRuns s (s.growView core line n) := by
  dsimp only [State.growView]
  split <;> exact .refl s

theorem readMem_reads (e : Env) (acq : Nat) (scopes : List Nat) (home : Bool) (pa n : Nat) : e.Reads (readMem e acq scopes home pa n).1 := by
  refine .trans (f := if home then { e with s := e.s.postLine e.g.ref (pa / 64) } else e) ?_ ?_
  · cases home
    · exact .refl e
    · exact .machine e (sameRuns_postWhere _ _)
  · unfold readMem
    generalize (if home then { e with s := e.s.postLine e.g.ref (pa / 64) } else e : Env) = e1
    refine ⟨?_, _, rfl⟩
    refine .trans (.trans ?_ (.foldl (fun t x => ?_) _ _)) ⟨rfl, rfl⟩
    · cases home
      · exact .foldl (fun t _ => sameRuns_growView t _ _ _) _ _
      · exact .trans (.foldl (fun t _ => sameRuns_growView t _ _ _) _ _) (sameRuns_growView _ _ _ _)
    · split
      · exact .refl t
      · exact .refl t

theorem loadLane_reads (acq : Nat) (scopes : List Nat) (home : Bool) (n : Nat) (acc : Env × List LoadLane) (l : Nat × Word64 × Target) :
    acc.1.Reads (loadLane acq scopes home n acc l).1 := by
  obtain ⟨e, done⟩ := acc
  obtain ⟨L, va, at_⟩ := l
  cases at_ with
  | mem pa => exact .trans (.machine e (sameRuns_chargeLines _ _ _ _)) (readMem_reads _ _ _ _ _ _)
  | _ => exact .machine e (sameRuns_chargeLines _ _ _ _)

theorem loadAll_reads (e : Env) (acq : Nat) (home : Bool) (n : Nat) (ats : Nat → Bool) (l : List (Nat × Word64 × Target)) :
    e.Reads (loadAll e acq home n ats l).1 := by
  suffices h : ∀ acc : Env × List LoadLane, acc.1.Reads (l.foldl (loadLane acq (lookScopes e acq) home n) acc).1 from h (e, [])
  induction l with
  | nil => exact fun acc => .refl acc.1
  | cons x l ih => exact fun acc => (loadLane_reads _ _ _ _ acc x).trans (ih _)

/-! ### XDIV, XLD and XST (R255, R268) -/

/-- An XLD that has its nodes and whose bytes can be read loads them. -/
theorem xldLoad_loads {o : OpF} {is : List Nat} {bumps : Nat × Nat} {l : List (Nat × Word64 × Target)} {e : Env} (hp : e.r.probe = none)
    (hw : ({ e with r := { e.r with probe := some { key := none, lanes := l, nodes := some is, bumps := bumps } } } : Env).loadWait
      (if o.bit 10 then 8 else 4) l = none) :
    xldLoad o is bumps l e = .retire (loadAll e 0 false (if o.bit 10 then 8 else 4) (fun t => (xldAddr o e t).t) l).1
      { defer := [.xload o.d.toNat (o.bit 10) is (loadAll e 0 false (if o.bit 10 then 8 else 4) (fun t => (xldAddr o e t).t) l).2] } := by
  simp only [xldLoad, hp, Option.bind_none, hw]

/-- Settles O14: the nodes are taken by the law of `withLog`, the writes left for the boundary by that of a word that defers. -/
theorem intervalMemoryWords : Obligations.IntervalMemoryWords := by
  unfold Obligations.IntervalMemoryWords
  intro s e o h
  refine ⟨?_, ?_, ?_⟩
  · intro outs is l hres hopen
    refine boundary_word ((live_of_env? h).logged _ _) (word_retires h (exec_xdiv o s) ?_)
    have reserved : ExprLog.reserve (pkLogScr e.pkt) (spillCap e.pkt) (outs.filter fun x => x.2.isFresh).length e.team.log = some (is, l) :=
      hres
    simp only [outs, outsOf] at reserved
    simp only [reserved]
    exact withLog_open hopen _
  · intro z lanes is l hp hcheck hres reads hopen e1 held hwait r
    refine boundary_word (((live_of_env? h).logged reads l).reads (loadAll_reads _ _ _ _ _ _)) (word_retires h (exec_xld o s) ?_)
    simp only [z] at hcheck
    simp only [hcheck, hp, Option.bind_none, hres]
    exact (withLog_open hopen _).trans (xldLoad_loads hp hwait)
  · intro lanes hcheck
    exact boundary_word_same h (exec_xst o s) (by simp only [hcheck]; rfl)

/-! ### Decisions (R259, R260, R271, R272) -/

/-- The referral of a lane that the filter does not decide. -/
def referralOf (e : Env) (stage : Option Nat) (L : Nat) (a : XCell) (b : Option XCell) (t : Bool) : Referral :=
  { g := e.g.ref, core := e.g.core, key := e.g.keys, lane := L, prio := e.ctl.prio.toNat, a := refArg a, b := b.map refArg, stage := stage,
    nodes := e.team.log.nodes, t := t }

/-- The lanes of a set that are referred. -/
def referred (e : Env) (stage : Option Nat) (E : List Nat) (d : Nat → Option Decision) (a : Nat → XCell) (b : Nat → Option XCell)
    (t : Nat → Bool) : List Referral :=
  (E.filter fun L => (d L).isNone).map fun L => referralOf e stage L (a L) (b L) (t L)

/-- The answers of the lanes that the filter decides. -/
def answered (e : Env) (E : List Nat) (d : Nat → Option Decision) (t : Nat → Bool) : List Answer :=
  E.filterMap fun L => (d L).map fun x => decisionAnswer e.g.keys L x e.det (t L)

/-- The nodes that a decision reads: the handles of its operands that are no points, and all below the referred ones. -/
def decisionReads (nodes : Table Node) (marked : List XCell) (refs : List Referral) : List Nat :=
  (((marked.filter fun c => !c.isPoint).map fun c => c.h.toNat) ++ refs.flatMap fun r => reachFrom nodes (r.a :: r.b.toList)).dedup

theorem filterMap_unless {α β : Type} (p : α → Bool) (f : α → β) (l : List α) :
    (l.filterMap fun x => if p x then none else some (f x)) = (l.filter fun x => !p x).map f := by
  induction l with
  | nil => rfl
  | cons x l ih => cases hp : p x <;> simp [hp, ih]

/-- The lanes of a decision, each answered or referred, where nothing is in the way of the nodes that it reads. -/
theorem decideWord_lanes {e : Env} (form : Nat → DForm) (stage : Option Nat) (E : List Nat) (d : Nat → Option Decision) (a : Nat → XCell)
    (b : Nat → Option XCell) (t : Nat → Bool)
    (hopen : LogOpen e e.team.log (decisionReads e.team.log.nodes (E.map a) (referred e stage E d a b t)) []) :
    decideWord e form stage (E.map fun L => (L, d L, a L, b L, t L)) =
      let e1 := (e.readNodes (decisionReads e.team.log.nodes (E.map a) (referred e stage E d a b t))).withTeamLog e.team.log
      .retire { e1 with s := { e1.s with referrals := e1.s.referrals ++ referred e stage E d a b t }
                        g := { e1.g with keys := e.g.keys + 1, answers := e1.g.answers ++ answered e E d t } } { defer := [form e.g.keys] } := by
  have refs : ((E.map fun L => (L, d L, a L, b L, t L)).filterMap fun x => if x.2.1.isSome then none else
      some (referralOf e stage x.1 x.2.2.1 x.2.2.2.1 x.2.2.2.2)) = referred e stage E d a b t := by
    simp only [List.filterMap_map, Function.comp_def, filterMap_unless, referred, Option.not_isSome]
  have answers : ((E.map fun L => (L, d L, a L, b L, t L)).filterMap fun x => x.2.1.map fun y =>
      decisionAnswer e.g.keys x.1 y e.det x.2.2.2.2) = answered e E d t := by
    simp only [List.filterMap_map, Function.comp_def, answered]
  have marked : ((E.map fun L => (L, d L, a L, b L, t L)).filterMap fun x => if x.2.2.1.isPoint then none else some x.2.2.1.h.toNat) =
      ((E.map a).filter fun c => !c.isPoint).map fun c => c.h.toNat := by
    simp only [List.filterMap_map, Function.comp_def, filterMap_unless, List.filter_map, List.map_map]
  rw [decisionReads, ← refs, ← marked] at hopen ⊢
  rw [← answers]
  unfold decideWord
  exact withLog_open hopen _

theorem Env.Live.decided {e : Env} (h : e.Live) (refs : List Referral) (k : Nat) (ans : List Answer) :
    ({ e with s := { e.s with referrals := refs }, g := { e.g with keys := k, answers := ans } } : Env).Live := ⟨h.cur, h.group⟩

/-- Settles O15: each word is a decision over the lanes that it asks about. -/
theorem intervalDecisions : Obligations.IntervalDecisions := by
  unfold Obligations.IntervalDecisions
  intro s e o h key nodes ask after reads
  have live := live_of_env? h
  refine ⟨?_, ?_, ?_⟩
  · intro x y tt refs ans rs hopen
    exact boundary_word ((live.logged _ _).decided _ _ _) (word_retires h (exec_xcmp o s)
      (decideWord_lanes _ none (e.setE o) (fun L => filterCmp nodes (x L) (y L)) x (fun L => some (y L)) tt hopen))
  · intro x tt refs ans rs hopen
    exact boundary_word ((live.logged _ _).decided _ _ _) (word_retires h (exec_xsgn o s)
      (decideWord_lanes _ none (e.setE o) (fun L => filterSgn nodes (x L)) x (fun _ => none) tt hopen))
  · intro own open_ refs drops e1 rs hdrops hopen
    have hrefs : referred e1 (some (o.low2 + 1)) open_ (fun _ => none) own (fun _ => none) (fun L => (own L).t) = refs := by
      simp only [referred, Option.isNone_none, List.filter_true]; rfl
    have hans : answered e1 open_ (fun _ => none) (fun L => (own L).t) = [] := by simp [answered]
    have hlanes : ((((e.setE o).map fun L => (L, own L)).filter fun x => !x.2.isPoint).map fun x =>
        (x.1, (none : Option Decision), x.2, (none : Option XCell), x.2.t)) = open_.map fun L => (L, none, own L, none, (own L).t) := by
      simp only [List.filter_map, List.map_map, open_, Function.comp_def]
    have word := decideWord_lanes (e := e1) (fun key => .xref o.d.toNat key ((e.setE o).map fun L => (L, own L))) (some (o.low2 + 1)) open_
      (fun _ => none) own (fun _ => none) (fun L => (own L).t) (by rw [hrefs]; exact hopen)
    rw [hrefs, hans, ← hlanes] at word
    exact boundary_word (((live.logged drops _).logged rs _).decided _ _ _) (word_retires h (exec_xref o s)
      ((withLog_open hdrops _).trans word))

end Sys2Proof.Machine
end

section
/-!
PROOF. round_to is correct (08 R195): the parts of `roundTo`, and what they say of the real number that is rounded.
-/
namespace Sys2Proof.Machine
open Sys2Proof

/-! ### A multiple of a spacing, and what lies above it -/

/-- A remainder below `2^sh` and a tail: the tail is nothing where it is not sticky, and less than one unit of the remainder where it is. -/
structure Below (rem sh : Nat) (δ : ℝ) (sticky : Bool) : Prop where
  rem_lt : rem < 2 ^ sh
  nonneg : 0 ≤ δ
  lt_one : δ < 1
  sticky : sticky = decide (δ ≠ 0)
  shifts : δ ≠ 0 → 0 < sh

/-- The part of the spacing that lies above the multiple below. -/
noncomputable def fracOf (rem sh : Nat) (δ : ℝ) : ℝ := (rem + δ) / 2 ^ sh

/-- The multiple that a mode picks. -/
def stepUp (rm : Nat) (neg : Bool) (y rem sh : Nat) (sticky : Bool) : Nat := if roundUp rm neg y rem sh sticky then y + 1 else y

/-- How a signed multiple of the spacing stands to a number, in units of the spacing. -/
structure Picks (rm : Nat) (neg : Bool) (y : Nat) (a : ℝ) : Prop where
  near : rm = 0 → |(y : ℝ) - a| ≤ 1 / 2 ∧ (|(y : ℝ) - a| = 1 / 2 → y % 2 = 0)
  down : rm = 1 ∨ (rm = 2 ∧ neg = false) ∨ (rm = 3 ∧ neg = true) → (y : ℝ) ≤ a ∧ a < y + 1
  up   : (rm = 2 ∧ neg = true) ∨ (rm = 3 ∧ neg = false) → a ≤ y ∧ (y : ℝ) < a + 1

section
variable {y rem sh : Nat} {δ : ℝ} {sticky : Bool}

theorem Below.shift_zero (h : Below rem sh δ sticky) (hs : sh = 0) : δ = 0 := by
  by_contra hδ
  exact absurd (h.shifts hδ) (by omega)

theorem Below.frac_nonneg (h : Below rem sh δ sticky) : 0 ≤ fracOf rem sh δ := by
  have := h.nonneg
  unfold fracOf
  positivity

theorem Below.frac_lt_one (h : Below rem sh δ sticky) : fracOf rem sh δ < 1 := by
  have hlt := h.rem_lt
  have hle : (rem : ℝ) + 1 ≤ 2 ^ sh := by exact_mod_cast hlt
  have := h.lt_one
  rw [fracOf, div_lt_one (by positivity)]
  linarith

theorem Below.inexact (h : Below rem sh δ sticky) : (decide (rem ≠ 0) || sticky) = decide (fracOf rem sh δ ≠ 0) := by
  have hδ := h.nonneg
  have key : fracOf rem sh δ = 0 ↔ rem = 0 ∧ δ = 0 := by
    rw [fracOf, div_eq_zero_iff]
    constructor
    · rintro (h0 | h0)
      · have hr : (0 : ℝ) ≤ rem := Nat.cast_nonneg _
        exact ⟨by exact_mod_cast (by linarith : (rem : ℝ) = 0), by linarith⟩
      · exact absurd h0 (by positivity)
    · rintro ⟨hr, hd⟩
      left; rw [hr, hd]; simp
  rw [h.sticky, Bool.eq_iff_iff]
  simp only [Bool.or_eq_true, decide_eq_true_eq, ne_eq, key]
  tauto

/-- Rounding to nearest goes up above the middle, and in the middle from an odd multiple. -/
theorem roundUp_nearest (h : Below rem sh δ sticky) (neg : Bool) :
    roundUp 0 neg (y) (rem) (sh) sticky = true ↔
      1 / 2 < fracOf rem sh δ ∨ (fracOf rem sh δ = 1 / 2 ∧ y % 2 = 1) := by
  have hδ := h.nonneg
  have hδ1 := h.lt_one
  have hpos : (0 : ℝ) < 2 ^ sh := by positivity
  have gt : 1 / 2 < fracOf rem sh δ ↔ (2 : ℝ) ^ sh < 2 * (rem + δ) := by
    rw [fracOf, lt_div_iff₀ hpos]; constructor <;> intro hh <;> linarith
  have eq : fracOf rem sh δ = 1 / 2 ↔ (2 : ℝ) ^ sh = 2 * (rem + δ) := by
    rw [fracOf, div_eq_iff hpos.ne']; constructor <;> intro hh <;> linarith
  have hst : sticky = true ↔ δ ≠ 0 := by rw [h.sticky]; simp
  simp only [roundUp, Bool.or_eq_true, Bool.and_eq_true, decide_eq_true_eq, hst, beq_iff_eq, gt, eq]
  by_cases hs : sh = 0
  · have hd := h.shift_zero hs
    have hrem : rem = 0 := by have := h.rem_lt; rw [hs, pow_zero] at this; omega
    rw [hrem, hs, hd]
    norm_num
  · obtain ⟨k, hk⟩ := Nat.exists_eq_succ_of_ne_zero hs
    rw [hk, pow_succ, pow_succ]
    by_cases hd : δ = 0
    · subst hd
      have c1 : (2 : ℝ) ^ k * 2 < 2 * (rem + 0) ↔ 2 ^ k * 2 < 2 * rem := by
        rw [add_zero]; exact_mod_cast Iff.rfl
      have c2 : (2 : ℝ) ^ k * 2 = 2 * (rem + 0) ↔ 2 * rem = 2 ^ k * 2 := by
        rw [add_zero, eq_comm]; exact_mod_cast Iff.rfl
      rw [c1, c2]
      simp
    · have hd0 : 0 < δ := lt_of_le_of_ne hδ (Ne.symm hd)
      have c1 : (2 : ℝ) ^ k * 2 < 2 * (rem + δ) ↔ 2 ^ k ≤ rem := by
        constructor
        · intro hh
          have h1 : (2 : ℝ) ^ k < (rem + 1 : ℕ) := by push_cast; linarith
          have h2 : 2 ^ k < rem + 1 := by exact_mod_cast h1
          omega
        · intro hh
          have h1 : (2 : ℝ) ^ k ≤ rem := by exact_mod_cast hh
          linarith
      have c2 : ¬ (2 : ℝ) ^ k * 2 = 2 * (rem + δ) := by
        intro hh
        rcases Nat.lt_or_ge (rem) (2 ^ k) with hlt | hge
        · have h1 : (rem : ℝ) + 1 ≤ 2 ^ k := by exact_mod_cast hlt
          linarith
        · have h1 : (2 : ℝ) ^ k ≤ rem := by exact_mod_cast hge
          linarith
      rw [c1]
      simp only [c2, false_and, or_false]
      have hd' : δ ≠ 0 := hd
      simp only [hd', not_false_eq_true, true_or, and_true, ne_eq]
      omega

/-- A directed mode keeps the multiple below. -/
theorem stepUp_floor {rm : Nat} {neg : Bool} (hm : rm = 1 ∨ (rm = 2 ∧ neg = false) ∨ (rm = 3 ∧ neg = true)) :
    stepUp rm neg y rem sh sticky = y := by
  unfold stepUp
  rw [if_neg]
  rcases hm with rfl | ⟨rfl, rfl⟩ | ⟨rfl, rfl⟩ <;> simp [roundUp]

/-- The other directed mode goes to the multiple above, unless the magnitude is a multiple. -/
theorem stepUp_ceil (h : Below rem sh δ sticky) {rm : Nat} {neg : Bool} (hm : (rm = 2 ∧ neg = true) ∨ (rm = 3 ∧ neg = false)) :
    stepUp rm neg y rem sh sticky = if fracOf rem sh δ = 0 then y else y + 1 := by
  have key := h.inexact
  have up : roundUp rm neg (y) (rem) (sh) sticky = decide (fracOf rem sh δ ≠ 0) := by
    rw [← key]
    rcases hm with ⟨rfl, rfl⟩ | ⟨rfl, rfl⟩ <;> simp [roundUp]
  unfold stepUp
  rw [up]
  by_cases hz : fracOf rem sh δ = 0 <;> simp [hz]

theorem stepUp_nearest (h : Below rem sh δ sticky) (neg : Bool) :
    |(stepUp 0 neg y rem sh sticky : ℝ) - (y + fracOf rem sh δ)| ≤ 1 / 2 ∧
      (|(stepUp 0 neg y rem sh sticky : ℝ) - (y + fracOf rem sh δ)| = 1 / 2 → stepUp 0 neg y rem sh sticky % 2 = 0) := by
  have h0 := h.frac_nonneg
  have h1 := h.frac_lt_one
  have key := roundUp_nearest (y := y) h neg
  unfold stepUp
  by_cases hup : roundUp 0 neg (y) (rem) (sh) sticky = true
  · rw [if_pos hup]
    push_cast
    rw [show (y : ℝ) + 1 - (y + fracOf rem sh δ) = 1 - fracOf rem sh δ by ring, abs_of_nonneg (by linarith)]
    rcases key.mp hup with hgt | ⟨heq, hodd⟩
    · exact ⟨by linarith, fun hh => by linarith⟩
    · exact ⟨by linarith, fun _ => by omega⟩
  · rw [if_neg hup]
    have hno : ¬ (1 / 2 < fracOf rem sh δ ∨ (fracOf rem sh δ = 1 / 2 ∧ y % 2 = 1)) := fun hh => hup (key.mpr hh)
    push Not at hno
    obtain ⟨hle, hne⟩ := hno
    rw [show (y : ℝ) - (y + fracOf rem sh δ) = -fracOf rem sh δ by ring, abs_neg, abs_of_nonneg h0]
    exact ⟨hle, fun hh => by have := hne hh; omega⟩

theorem roundUp_exact (rm : Nat) (neg : Bool) (y sh : Nat) : roundUp rm neg y 0 sh false = false := by
  have hpow : ¬ 0 = 2 ^ sh := by positivity
  unfold roundUp
  split <;> simp [hpow]

/-- The multiple is the number itself where no part of a unit is left. -/
theorem stepUp_exact (h : Below rem sh δ sticky) (rm : Nat) (neg : Bool) :
    (stepUp rm neg y rem sh sticky : ℝ) = y + fracOf rem sh δ ↔ fracOf rem sh δ = 0 := by
  have h1 := h.frac_lt_one
  have key := h.inexact
  constructor
  · intro heq
    unfold stepUp at heq
    split at heq
    · push_cast at heq; linarith
    · linarith
  · intro hz
    have hno : rem = 0 ∧ sticky = false := by simpa [hz] using key
    rw [hz, stepUp, hno.1, hno.2, roundUp_exact]
    simp

theorem stepUp_picks (h : Below rem sh δ sticky) (rm : Nat) (neg : Bool) :
    Picks rm neg (stepUp rm neg y rem sh sticky) (y + fracOf rem sh δ) := by
  have h0 := h.frac_nonneg
  have h1 := h.frac_lt_one
  refine ⟨fun hrm => ?_, fun hrm => ?_, fun hrm => ?_⟩
  · subst hrm; exact stepUp_nearest h neg
  · rw [stepUp_floor hrm]; exact ⟨by linarith, by linarith⟩
  · rw [stepUp_ceil h hrm]
    split
    · next hz => rw [hz]; exact ⟨by linarith, by linarith⟩
    · next hz =>
      have : 0 < fracOf rem sh δ := lt_of_le_of_ne h0 (Ne.symm hz)
      push_cast
      exact ⟨by linarith, by linarith⟩

end

/-! ### The parts of `roundTo` -/

/-- The exponent of the spacing at `m · 2^e`. -/
def roundQ (f : FloatFmt) (m : Nat) (e : ℤ) : ℤ := max ((m.log2 : ℤ) + e - f.fbits) f.qmin
/-- How many bits of `m` lie below the spacing. -/
def roundSh (f : FloatFmt) (m : Nat) (e : ℤ) : Nat := (roundQ f m e - e).toNat
/-- The multiple of the spacing at or below the magnitude. -/
def roundFloor (f : FloatFmt) (m : Nat) (e : ℤ) : Nat :=
  if e < roundQ f m e then m >>> roundSh f m e else m <<< (e - roundQ f m e).toNat
/-- What lies above that multiple, in units of `2^e`. -/
def roundRem (f : FloatFmt) (m : Nat) (e : ℤ) : Nat := m % 2 ^ roundSh f m e
/-- The multiple of the spacing that the mode picks. -/
def roundY (f : FloatFmt) (rm : Nat) (neg : Bool) (m : Nat) (e : ℤ) (sticky : Bool) : Nat :=
  stepUp rm neg (roundFloor f m e) (roundRem f m e) (roundSh f m e) sticky
/-- The bits, without the sign, of `y` units of `2^q`. -/
def magBits (f : FloatFmt) (q : ℤ) (y : Nat) : Nat := (q - f.qmin).toNat * 2 ^ f.fbits + y
/-- The bits of a rounded number, and of an overflow. -/
def encode (f : FloatFmt) (rm : Nat) (neg : Bool) (q : ℤ) (y : Nat) : Nat :=
  if (2 ^ f.ebits - 1) * 2 ^ f.fbits ≤ magBits f q y then
    if rm = 0 ∨ (rm = 3 ∧ neg = false) ∨ (rm = 2 ∧ neg = true) then f.infBits neg else f.maxBits neg
  else f.signBit neg + magBits f q y

theorem roundTo_eq {f : FloatFmt} {rm : Nat} {neg : Bool} {m : Nat} {e : ℤ} {sticky : Bool} (hm : m ≠ 0) :
    roundTo f rm neg m e sticky = (encode f rm neg (roundQ f m e) (roundY f rm neg m e sticky),
      if (2 ^ f.ebits - 1) * 2 ^ f.fbits ≤ magBits f (roundQ f m e) (roundY f rm neg m e sticky) then fOF ||| fNX
      else flagIf (decide (roundRem f m e ≠ 0) || sticky) (fNX ||| flagIf (decide ((m.log2 : ℤ) + e < f.emin)) fUF)) := by
  have away : (rm == 0 || (rm == 3 && !neg) || (rm == 2 && neg)) = decide (rm = 0 ∨ (rm = 3 ∧ neg = false) ∨ (rm = 2 ∧ neg = true)) := by
    cases neg <;> simp [beq_eq_decide, Bool.decide_or]
  have shape : roundTo f rm neg m e sticky =
      if (2 ^ f.ebits - 1) * 2 ^ f.fbits ≤ magBits f (roundQ f m e) (roundY f rm neg m e sticky) then
        (if rm == 0 || (rm == 3 && !neg) || (rm == 2 && neg) then f.infBits neg else f.maxBits neg, fOF ||| fNX)
      else (f.signBit neg + magBits f (roundQ f m e) (roundY f rm neg m e sticky),
        flagIf (decide (roundRem f m e ≠ 0) || sticky) (fNX ||| flagIf (decide ((m.log2 : ℤ) + e < f.emin)) fUF)) := by
    unfold roundTo
    rw [if_neg hm]
    rfl
  rw [shape, encode, away]
  split <;> simp only [decide_eq_true_eq]

theorem roundTo_zero (f : FloatFmt) (rm : Nat) (neg : Bool) (e : ℤ) (sticky : Bool) : roundTo f rm neg 0 e sticky = (f.signBit neg, 0) := rfl

/-! ### A magnitude in units of the spacing -/

/-- The fraction of a unit above the multiple below. -/
noncomputable def roundFrac (f : FloatFmt) (m : Nat) (e : ℤ) (δ : ℝ) : ℝ := fracOf (roundRem f m e) (roundSh f m e) δ

/-- A tail below the magnitude: nothing where it is not sticky; where it is, less than one unit, below some bits of `m` that go. -/
structure Tail (f : FloatFmt) (m : Nat) (δ : ℝ) (sticky : Bool) : Prop where
  nonneg : 0 ≤ δ
  lt_one : δ < 1
  sticky : sticky = decide (δ ≠ 0)
  below  : δ ≠ 0 → f.fbits < m.log2

theorem Tail.none (f : FloatFmt) (m : Nat) : Tail f m 0 false := ⟨le_refl 0, one_pos, by simp, by simp⟩

section
variable {f : FloatFmt} {m : Nat} {e : ℤ} {δ : ℝ} {sticky : Bool}

theorem Tail.shifts (h : Tail f m δ sticky) (hδ : δ ≠ 0) : 0 < roundSh f m e := by
  have := h.below hδ
  unfold roundSh roundQ
  omega

theorem Tail.parts (h : Tail f m δ sticky) (e : ℤ) : Below (roundRem f m e) (roundSh f m e) δ sticky :=
  ⟨Nat.mod_lt _ (by positivity), h.nonneg, h.lt_one, h.sticky, h.shifts⟩

theorem roundFrac_nonneg (h : Tail f m δ sticky) : 0 ≤ roundFrac f m e δ := (h.parts e).frac_nonneg
theorem roundFrac_lt_one (h : Tail f m δ sticky) : roundFrac f m e δ < 1 := (h.parts e).frac_lt_one

/-- The magnitude is the multiple below and the fraction of a unit above it. -/
theorem magnitude_eq (h : Tail f m δ sticky) :
    ((m : ℝ) + δ) * (2 : ℝ) ^ e = (roundFloor f m e + roundFrac f m e δ) * (2 : ℝ) ^ roundQ f m e := by
  have two : (2 : ℝ) ≠ 0 := two_ne_zero
  by_cases hq : e < roundQ f m e
  · have hsh : (roundSh f m e : ℤ) = roundQ f m e - e := by unfold roundSh; omega
    have hpow : (2 : ℝ) ^ roundQ f m e = (2 : ℝ) ^ roundSh f m e * (2 : ℝ) ^ e := by
      rw [← zpow_natCast, ← zpow_add₀ two, hsh, sub_add_cancel]
    have hdiv : (m : ℝ) = roundFloor f m e * (2 : ℝ) ^ roundSh f m e + roundRem f m e := by
      rw [roundFloor, if_pos hq, Nat.shiftRight_eq_div_pow, roundRem]
      exact_mod_cast (Nat.div_add_mod' m _).symm
    rw [hpow, roundFrac, fracOf, hdiv]
    field_simp
    ring
  · have hsh : roundSh f m e = 0 := by unfold roundSh; omega
    have hrem : roundRem f m e = 0 := by rw [roundRem, hsh]; simp [Nat.mod_one]
    have hpow : (2 : ℝ) ^ e = (2 : ℝ) ^ (e - roundQ f m e).toNat * (2 : ℝ) ^ roundQ f m e := by
      rw [← zpow_natCast, ← zpow_add₀ two, Int.toNat_of_nonneg (by omega), sub_add_cancel]
    rw [roundFrac, fracOf, hrem, (h.parts e).shift_zero hsh, roundFloor, if_neg hq, Nat.shiftLeft_eq, hpow]
    push_cast
    ring

/-! ### The range of the multiple -/

theorem magnitude_bounds (h : Tail f m δ sticky) (hm : m ≠ 0) :
    (2 : ℝ) ^ ((m.log2 : ℤ) + e) ≤ (m + δ) * (2 : ℝ) ^ e ∧ (m + δ) * (2 : ℝ) ^ e < (2 : ℝ) ^ ((m.log2 : ℤ) + e + 1) := by
  have low : (2 : ℝ) ^ m.log2 ≤ m := by exact_mod_cast Nat.log2_self_le hm
  have high : (m : ℝ) + 1 ≤ 2 ^ (m.log2 + 1) := by exact_mod_cast Nat.lt_log2_self (n := m)
  have h0 := h.nonneg
  have h1 := h.lt_one
  have hpos : (0 : ℝ) < (2 : ℝ) ^ e := by positivity
  rw [zpow_add₀ two_ne_zero, zpow_natCast, show (m.log2 : ℤ) + e + 1 = ((m.log2 + 1 : ℕ) : ℤ) + e by push_cast; ring,
    zpow_add₀ two_ne_zero, zpow_natCast]
  exact ⟨mul_le_mul_of_nonneg_right (by linarith) hpos.le, mul_lt_mul_of_pos_right (by linarith) hpos⟩

/-- The multiple below has at most as many bits as the significand, and as many above the subnormals. -/
theorem roundFloor_range (h : Tail f m δ sticky) (hm : m ≠ 0) :
    roundFloor f m e < 2 ^ (f.fbits + 1) ∧ (f.qmin < roundQ f m e → 2 ^ f.fbits ≤ roundFloor f m e) := by
  obtain ⟨low, high⟩ := magnitude_bounds (e := e) h hm
  have h0 := roundFrac_nonneg (e := e) h
  have h1 := roundFrac_lt_one (e := e) h
  rw [magnitude_eq h] at low high
  have hpos : (0 : ℝ) < (2 : ℝ) ^ roundQ f m e := by positivity
  constructor
  · have hle : (m.log2 : ℤ) + e + 1 ≤ ((f.fbits + 1 : ℕ) : ℤ) + roundQ f m e := by unfold roundQ; push_cast; omega
    have hlt : (roundFloor f m e + roundFrac f m e δ) * (2 : ℝ) ^ roundQ f m e < (2 : ℝ) ^ (f.fbits + 1) * (2 : ℝ) ^ roundQ f m e := by
      calc _ < (2 : ℝ) ^ ((m.log2 : ℤ) + e + 1) := high
        _ ≤ (2 : ℝ) ^ (((f.fbits + 1 : ℕ) : ℤ) + roundQ f m e) := zpow_le_zpow_right₀ (by norm_num) hle
        _ = _ := by rw [zpow_add₀ two_ne_zero, zpow_natCast]
    have hlt' := lt_of_mul_lt_mul_right hlt hpos.le
    exact_mod_cast (by linarith : (roundFloor f m e : ℝ) < 2 ^ (f.fbits + 1))
  · intro hq
    have heq : (m.log2 : ℤ) + e = (f.fbits : ℤ) + roundQ f m e := by unfold roundQ at hq ⊢; omega
    rw [heq, zpow_add₀ two_ne_zero, zpow_natCast] at low
    have hle := le_of_mul_le_mul_right low hpos
    have hlt : (2 : ℝ) ^ f.fbits < (roundFloor f m e + 1 : ℕ) := by push_cast; linarith
    have : 2 ^ f.fbits < roundFloor f m e + 1 := by exact_mod_cast hlt
    omega

theorem roundY_range (h : Tail f m δ sticky) (hm : m ≠ 0) (rm : Nat) (neg : Bool) :
    roundY f rm neg m e sticky ≤ 2 ^ (f.fbits + 1) ∧ (f.qmin < roundQ f m e → 2 ^ f.fbits ≤ roundY f rm neg m e sticky) := by
  obtain ⟨hlt, hge⟩ := roundFloor_range (e := e) h hm
  unfold roundY stepUp
  split
  · exact ⟨hlt, fun hq => (hge hq).trans (Nat.le_succ _)⟩
  · exact ⟨hlt.le, hge⟩

end

/-! ### The bits of a multiple -/

/-- What the proofs need of a format: a fraction, and at least two exponents for numbers. -/
structure RealFmt (f : FloatFmt) : Prop where
  frac : 1 ≤ f.fbits
  expo : 2 ≤ f.ebits

theorem RealFmt.of_mem {f : FloatFmt} (hf : f ∈ [f16, bf16, f32, f64]) : RealFmt f := by
  simp only [List.mem_cons, List.not_mem_nil, or_false] at hf
  rcases hf with rfl | rfl | rfl | rfl <;> exact ⟨by decide, by decide⟩

theorem RealFmt.emax_pow {f : FloatFmt} (hf : RealFmt f) : (2 : ℤ) ^ f.ebits = 2 * f.emax + 2 := by
  obtain ⟨k, hk⟩ := Nat.exists_eq_add_of_le hf.expo
  rw [FloatFmt.emax, hk, show 2 + k - 1 = k + 1 by omega]
  ring

/-- The place of the greatest exponent among the spacings. -/
theorem RealFmt.top {f : FloatFmt} (hf : RealFmt f) : f.emax - f.fbits - f.qmin = 2 ^ f.ebits - 3 := by
  have := hf.emax_pow
  rw [this]
  unfold FloatFmt.qmin FloatFmt.emin
  ring

/-- A multiple of a spacing that the format has. -/
structure Multiple (f : FloatFmt) (q : ℤ) (y : Nat) : Prop where
  spacing : f.qmin ≤ q
  le      : y ≤ 2 ^ (f.fbits + 1)
  ge      : f.qmin < q → 2 ^ f.fbits ≤ y

section
variable {f : FloatFmt} {q : ℤ} {y : Nat}

/-- The bits reach those of an infinity exactly where the number passes the greatest finite one. -/
theorem overflow_iff (hf : RealFmt f) (h : Multiple f q y) :
    (2 ^ f.ebits - 1) * 2 ^ f.fbits ≤ magBits f q y ↔ ((2 : ℝ) ^ (f.fbits + 1) - 1) * (2 : ℝ) ^ (f.emax - f.fbits) < y * (2 : ℝ) ^ q := by
  obtain ⟨hq, hle, hge⟩ := h
  obtain ⟨j, hj⟩ := Int.eq_ofNat_of_zero_le (sub_nonneg.mpr hq)
  have hE : 4 ≤ 2 ^ f.ebits := by
    calc 4 = 2 ^ 2 := rfl
      _ ≤ 2 ^ f.ebits := Nat.pow_le_pow_right (by norm_num) hf.expo
  obtain ⟨J, hJ⟩ : ∃ J : Nat, 2 ^ f.ebits = J + 3 := ⟨2 ^ f.ebits - 3, by omega⟩
  have hJ' : (2 : ℤ) ^ f.ebits = J + 3 := by exact_mod_cast hJ
  have hemax : f.emax - f.fbits = f.qmin + J := by have := hf.top; rw [hJ'] at this; linarith
  have hq' : q = f.qmin + j := by linarith
  have hpos : (0 : ℝ) < (2 : ℝ) ^ f.qmin := by positivity
  have units : ((2 : ℝ) ^ (f.fbits + 1) - 1) * (2 : ℝ) ^ (f.emax - f.fbits) < y * (2 : ℝ) ^ q ↔
      (2 ^ (f.fbits + 1) - 1) * 2 ^ J < y * 2 ^ j := by
    rw [hemax, hq', zpow_add₀ two_ne_zero, zpow_add₀ two_ne_zero, zpow_natCast, zpow_natCast]
    have hone : 1 ≤ 2 ^ (f.fbits + 1) := Nat.one_le_two_pow
    have cast : (((2 ^ (f.fbits + 1) - 1) * 2 ^ J : ℕ) : ℝ) = ((2 : ℝ) ^ (f.fbits + 1) - 1) * 2 ^ J := by push_cast [hone]; ring
    have cast' : ((y * 2 ^ j : ℕ) : ℝ) = y * 2 ^ j := by push_cast; ring
    rw [← @Nat.cast_lt ℝ, cast, cast',
      show ((2 : ℝ) ^ (f.fbits + 1) - 1) * ((2 : ℝ) ^ f.qmin * 2 ^ J) = (((2 : ℝ) ^ (f.fbits + 1) - 1) * 2 ^ J) * (2 : ℝ) ^ f.qmin by ring,
      show (y : ℝ) * ((2 : ℝ) ^ f.qmin * 2 ^ j) = (y * 2 ^ j) * (2 : ℝ) ^ f.qmin by ring]
    exact mul_lt_mul_iff_left₀ hpos
  rw [units, magBits, hj, Int.toNat_natCast, hJ, show J + 3 - 1 = J + 2 by omega]
  have hB : 2 ≤ 2 ^ f.fbits := by
    calc 2 = 2 ^ 1 := rfl
      _ ≤ 2 ^ f.fbits := Nat.pow_le_pow_right (by norm_num) hf.frac
  rw [pow_succ] at hle ⊢
  generalize 2 ^ f.fbits = B at *
  rcases Nat.lt_trichotomy j J with hlt | rfl | hgt
  · obtain ⟨d, rfl⟩ := Nat.exists_eq_add_of_lt hlt
    have hp : y * 2 ^ j * 2 ≤ (B * 2) * 2 ^ (j + d + 1) := by
      calc y * 2 ^ j * 2 ≤ (B * 2) * 2 ^ j * 2 := by gcongr
        _ = (B * 2) * 2 ^ (j + 1) := by ring
        _ ≤ (B * 2) * 2 ^ (j + d + 1) := by gcongr <;> omega
    have h2 : 1 ≤ 2 ^ (j + d + 1) := Nat.one_le_two_pow
    constructor
    · intro hh; nlinarith
    · intro hh
      exfalso
      have : 2 * (B * 2 - 1) * 2 ^ (j + d + 1) < (B * 2) * 2 ^ (j + d + 1) := by nlinarith
      have := lt_of_mul_lt_mul_right this (Nat.zero_le _)
      omega
  · rw [mul_lt_mul_iff_left₀ (by positivity)]
    rw [add_mul]
    constructor
    · intro hh; omega
    · intro hh; omega
  · obtain ⟨d, rfl⟩ := Nat.exists_eq_add_of_lt hgt
    have hyB : B ≤ y := hge (by rw [hq']; push_cast; omega)
    constructor
    · intro _
      calc (B * 2 - 1) * 2 ^ J < (B * 2) * 2 ^ J := by gcongr; omega
        _ = B * 2 ^ (J + 1) := by ring
        _ ≤ y * 2 ^ (J + d + 1) := by gcongr <;> omega
    · intro _; nlinarith

/-- The value of bits given by their sign, exponent and fraction (R191). -/
theorem unpackF_parts (f : FloatFmt) (neg : Bool) {ex fr : Nat} (hex : ex < 2 ^ f.ebits) (hfr : fr < 2 ^ f.fbits) :
    unpackF f (f.signBit neg + (ex * 2 ^ f.fbits + fr)) =
      if ex = 2 ^ f.ebits - 1 then (if fr = 0 then .inf neg else .nan (decide (fr < 2 ^ (f.fbits - 1))))
      else if ex = 0 then .fin neg fr f.qmin else .fin neg (2 ^ f.fbits + fr) (f.qmin + (ex - 1)) := by
  have hB : 0 < 2 ^ f.fbits := by positivity
  have hE : 0 < 2 ^ f.ebits := by positivity
  obtain ⟨sg, hsg, hs⟩ : ∃ sg : Nat, f.signBit neg = sg * 2 ^ f.ebits * 2 ^ f.fbits ∧ neg = decide (sg % 2 = 1) := by
    cases neg
    · exact ⟨0, by simp [FloatFmt.signBit], rfl⟩
    · exact ⟨1, by simp [FloatFmt.signBit, pow_add], rfl⟩
  have bits : f.signBit neg + (ex * 2 ^ f.fbits + fr) = fr + 2 ^ f.fbits * (ex + 2 ^ f.ebits * sg) := by rw [hsg]; ring
  have frac : (fr + 2 ^ f.fbits * (ex + 2 ^ f.ebits * sg)) % 2 ^ f.fbits = fr := by rw [Nat.add_mul_mod_self_left, Nat.mod_eq_of_lt hfr]
  have rest : (fr + 2 ^ f.fbits * (ex + 2 ^ f.ebits * sg)) / 2 ^ f.fbits = ex + 2 ^ f.ebits * sg := by
    rw [Nat.add_mul_div_left _ _ hB, Nat.div_eq_of_lt hfr, zero_add]
  have expo : (ex + 2 ^ f.ebits * sg) % 2 ^ f.ebits = ex := by rw [Nat.add_mul_mod_self_left, Nat.mod_eq_of_lt hex]
  have sign : (ex + 2 ^ f.ebits * sg) / 2 ^ f.ebits = sg := by rw [Nat.add_mul_div_left _ _ hE, Nat.div_eq_of_lt hex, zero_add]
  rw [bits]
  simp only [unpackF, pow_add, ← Nat.div_div_eq_div_mul, frac, rest, expo, sign, ← hs]

/-- Bits below those of an infinity stand for their number. -/
theorem unpack_magBits (h : Multiple f q y) (neg : Bool) (hov : magBits f q y < (2 ^ f.ebits - 1) * 2 ^ f.fbits) :
    ∃ m e, unpackF f (f.signBit neg + magBits f q y) = .fin neg m e ∧ (m : ℝ) * (2 : ℝ) ^ e = y * (2 : ℝ) ^ q := by
  obtain ⟨hq, hle, hge⟩ := h
  obtain ⟨j, hj⟩ := Int.eq_ofNat_of_zero_le (sub_nonneg.mpr hq)
  have hq' : q = f.qmin + j := by linarith
  have hmag : magBits f q y = j * 2 ^ f.fbits + y := by rw [magBits, hj, Int.toNat_natCast]
  have hB : 0 < 2 ^ f.fbits := by positivity
  rw [hmag] at hov ⊢
  rw [pow_succ] at hle
  have expo : ∀ k fr : Nat, k * 2 ^ f.fbits + fr = j * 2 ^ f.fbits + y → k < 2 ^ f.ebits - 1 := fun k fr hk =>
    lt_of_mul_lt_mul_right (lt_of_le_of_lt (by omega) hov : k * 2 ^ f.fbits < _) (Nat.zero_le _)
  rcases Nat.lt_or_ge y (2 ^ f.fbits) with hy | hy
  · have hj0 : j = 0 := by
      by_contra hne
      exact absurd (hge (by rw [hq']; omega)) (by omega)
    have hk := expo 0 y (by rw [hj0])
    refine ⟨y, f.qmin, ?_, by rw [hq', hj0]; simp⟩
    rw [hj0, unpackF_parts f neg (by omega) hy, if_neg (by omega), if_pos rfl]
  · rcases Nat.lt_or_ge y (2 ^ f.fbits * 2) with hy2 | hy2
    · have heq : (j + 1) * 2 ^ f.fbits + (y - 2 ^ f.fbits) = j * 2 ^ f.fbits + y := by rw [add_mul]; omega
      have hk := expo _ _ heq
      refine ⟨2 ^ f.fbits + (y - 2 ^ f.fbits), f.qmin + ((j + 1 : ℕ) - 1 : ℤ), ?_, ?_⟩
      · rw [← heq, unpackF_parts f neg (by omega) (by omega), if_neg (by omega), if_neg (by omega)]
      · rw [hq', show 2 ^ f.fbits + (y - 2 ^ f.fbits) = y by omega]; push_cast; ring_nf
    · have hy3 : y = 2 ^ f.fbits * 2 := le_antisymm hle hy2
      have heq : (j + 2) * 2 ^ f.fbits + 0 = j * 2 ^ f.fbits + y := by rw [hy3]; ring
      have hk := expo _ _ heq
      refine ⟨2 ^ f.fbits + 0, f.qmin + ((j + 2 : ℕ) - 1 : ℤ), ?_, ?_⟩
      · rw [← heq, unpackF_parts f neg (by omega) hB, if_neg (by omega), if_neg (by omega)]
      · rw [hq', hy3, show f.qmin + ((j + 2 : ℕ) - 1 : ℤ) = f.qmin + j + 1 by push_cast; ring, zpow_add₀ two_ne_zero _ 1, zpow_one]
        push_cast
        ring

end

/-! ### round_to is correct (R195) -/

/-- The number that a sign and a magnitude stand for. -/
def signed (neg : Bool) (x : ℝ) : ℝ := if neg then -x else x

theorem abs_signed (neg : Bool) {x : ℝ} (hx : 0 ≤ x) : |signed neg x| = x := by
  cases neg <;> simp [signed, abs_of_nonneg hx]

/-- From units of a spacing to the numbers, with their sign: what R195 says of the multiple that a mode picks. -/
theorem Picks.signed {rm : Nat} {neg : Bool} {y : Nat} {a q : ℝ} (h : Picks rm neg y a) (hq : 0 < q) (ha : 0 ≤ a) (hrm : rm < 4) :
    let n : ℤ := if neg then -(y : ℤ) else y
    let x := Machine.signed neg (a * q)
    (rm = 0 → |n * q - x| ≤ q / 2 ∧ (|n * q - x| = q / 2 → n % 2 = 0)) ∧ (rm = 1 → |n * q| ≤ |x| ∧ |x| < |n * q| + q ∧ 0 ≤ n * x) ∧
      (rm = 2 → n * q ≤ x ∧ x < n * q + q) ∧ (rm = 3 → x ≤ n * q ∧ n * q < x + q) := by
  obtain ⟨near, down, up⟩ := h
  have hy : (0 : ℝ) ≤ y := Nat.cast_nonneg y
  have scale : ∀ u v : ℝ, u ≤ v → u * q ≤ v * q := fun u v huv => mul_le_mul_of_nonneg_right huv hq.le
  have scale' : ∀ u v : ℝ, u < v → u * q < v * q := fun u v huv => mul_lt_mul_of_pos_right huv hq
  intro n x
  have hn : (n : ℝ) * q = Machine.signed neg (y * q) := by cases neg <;> simp [n, Machine.signed]
  have hdist : |(n : ℝ) * q - x| = |(y : ℝ) - a| * q := by
    rw [hn]
    cases neg
    · simp only [x, Machine.signed, Bool.false_eq_true, if_false]
      rw [← sub_mul, abs_mul, abs_of_pos hq]
    · simp only [x, Machine.signed, if_true]
      rw [show -(↑y * q) - -(a * q) = (a - y) * q by ring, abs_mul, abs_of_pos hq, abs_sub_comm]
  have hpar : y % 2 = 0 → n % 2 = 0 := by cases neg <;> simp only [n, if_true, Bool.false_eq_true, if_false] <;> omega
  refine ⟨fun h0 => ?_, fun h1 => ?_, fun h2 => ?_, fun h3 => ?_⟩
  · obtain ⟨hle, htie⟩ := near h0
    rw [hdist]
    refine ⟨by linarith [scale _ _ hle], fun heq => hpar (htie ?_)⟩
    have : (|(y : ℝ) - a| - 1 / 2) * q = 0 := by linarith
    rcases mul_eq_zero.mp this with h | h
    · linarith
    · exact absurd h hq.ne'
  · obtain ⟨hle, hlt⟩ := down (.inl h1)
    rw [hn, abs_signed neg (by positivity), abs_signed neg (by positivity)]
    refine ⟨scale _ _ hle, by linarith [scale' _ _ hlt], ?_⟩
    have : (n : ℝ) * x = y * (a * q) := by cases neg <;> simp [n, x, Machine.signed]
    rw [this]; positivity
  · rw [hn]
    cases neg
    · obtain ⟨hle, hlt⟩ := down (.inr (.inl ⟨h2, rfl⟩))
      exact ⟨scale _ _ hle, by simp only [x, Machine.signed, Bool.false_eq_true, if_false]; linarith [scale' _ _ hlt]⟩
    · obtain ⟨hle, hlt⟩ := up (.inl ⟨h2, rfl⟩)
      simp only [x, Machine.signed, if_true]
      exact ⟨by linarith [scale _ _ hle], by linarith [scale' _ _ hlt]⟩
  · rw [hn]
    cases neg
    · obtain ⟨hle, hlt⟩ := up (.inr ⟨h3, rfl⟩)
      simp only [x, Machine.signed, Bool.false_eq_true, if_false]
      exact ⟨scale _ _ hle, by linarith [scale' _ _ hlt]⟩
    · obtain ⟨hle, hlt⟩ := down (.inr (.inr ⟨h3, rfl⟩))
      simp only [x, Machine.signed, if_true]
      exact ⟨by linarith [scale _ _ hle], by linarith [scale' _ _ hlt]⟩

/-- A multiple that a mode picks, as bits and flags, rounds its number as R195 says. -/
theorem encode_rounds {f : FloatFmt} (hf : RealFmt f) {rm : Nat} (hrm : rm < 4) {neg : Bool} {k : ℤ} {y : Nat} {a : ℝ} (ha : 0 < a)
    (hk : (2 : ℝ) ^ k ≤ a * (2 : ℝ) ^ (max k f.emin - f.fbits)) (hk1 : a * (2 : ℝ) ^ (max k f.emin - f.fbits) < (2 : ℝ) ^ (k + 1))
    (hpick : Picks rm neg y a) (hmul : Multiple f (max k f.emin - f.fbits) y) {r : Nat × Flags}
    (hbits : r.1 = encode f rm neg (max k f.emin - f.fbits) y)
    (hflags : r.2 = if (2 ^ f.ebits - 1) * 2 ^ f.fbits ≤ magBits f (max k f.emin - f.fbits) y then fOF ||| fNX
      else if (y : ℝ) = a then 0 else if k < f.emin then fNX ||| fUF else fNX) :
    RoundsTo f rm (signed neg (a * (2 : ℝ) ^ (max k f.emin - f.fbits))) r := by
  generalize hq : max k f.emin - f.fbits = q at *
  have hpos : (0 : ℝ) < (2 : ℝ) ^ q := by positivity
  have hx : 0 < a * (2 : ℝ) ^ q := by positivity
  have hsign : decide (signed neg (a * (2 : ℝ) ^ q) < 0) = neg := by
    cases neg
    · simpa [signed] using hx.le
    · simpa [signed] using hx
  have hneg : (0 < signed neg (a * (2 : ℝ) ^ q) ↔ neg = false) ∧ (signed neg (a * (2 : ℝ) ^ q) < 0 ↔ neg = true) := by
    cases neg
    · simp only [signed, Bool.false_eq_true, if_false, iff_true, iff_false, not_lt]; exact ⟨hx, hx.le⟩
    · simp only [signed, if_true, Bool.true_eq_false, iff_false, not_lt, iff_true]; exact ⟨by linarith, by linarith⟩
  have hn : |((if neg then -(y : ℤ) else y : ℤ) : ℝ) * (2 : ℝ) ^ q| = y * (2 : ℝ) ^ q := by
    rw [abs_mul, abs_of_pos hpos]
    cases neg <;> simp
  obtain ⟨near, zero, down, up⟩ := hpick.signed hpos ha.le hrm
  have hov := overflow_iff hf hmul
  refine ⟨k, if neg then -(y : ℤ) else y, (2 : ℝ) ^ q, ?_, ?_, by rw [hq], near, zero, down, up, ?_, ?_⟩
  · rwa [abs_signed neg hx.le]
  · rwa [abs_signed neg hx.le]
  · rw [hn]
    intro hbig
    have hreach := hov.mpr hbig
    rw [hbits, hflags, encode, if_pos hreach, if_pos hreach, hsign]
    refine ⟨rfl, ?_⟩
    simp only [hneg.1, hneg.2]
  · rw [hn]
    intro hbig
    have hreach : ¬ (2 ^ f.ebits - 1) * 2 ^ f.fbits ≤ magBits f q y := fun hh => absurd (hov.mp hh) (not_lt.mpr hbig)
    rw [hbits, hflags, encode, if_neg hreach, if_neg hreach, hsign, abs_signed neg hx.le]
    refine ⟨unpack_magBits hmul neg (not_le.mp hreach), ?_⟩
    have hval : ((if neg then -(y : ℤ) else y : ℤ) : ℝ) * (2 : ℝ) ^ q = signed neg (a * (2 : ℝ) ^ q) ↔ (y : ℝ) = a := by
      cases neg <;> simp [signed, hpos.ne']
    have hsub : a * (2 : ℝ) ^ q < (2 : ℝ) ^ f.emin ↔ k < f.emin := by
      constructor
      · intro hlt
        by_contra hge
        exact absurd (lt_of_le_of_lt hk hlt) (not_lt.mpr (zpow_le_zpow_right₀ (by norm_num) (not_lt.mp hge)))
      · intro hlt
        exact lt_of_lt_of_le hk1 (zpow_le_zpow_right₀ (by norm_num) hlt)
    simp only [hval, hsub]

/-- round_to gives the multiple of the spacing that the mode picks, or what an overflow gives, with its flags (R195). -/
theorem roundTo_rounds {f : FloatFmt} (hf : RealFmt f) {rm : Nat} (hrm : rm < 4) (neg : Bool) {m : Nat} (hm : m ≠ 0) (e : ℤ) {δ : ℝ}
    {sticky : Bool} (h : Tail f m δ sticky) :
    RoundsTo f rm (signed neg ((m + δ) * (2 : ℝ) ^ e)) (roundTo f rm neg m e sticky) := by
  have hq : roundQ f m e = max ((m.log2 : ℤ) + e) f.emin - f.fbits := by unfold roundQ FloatFmt.qmin; omega
  have hmag := magnitude_eq (e := e) h
  obtain ⟨low, high⟩ := magnitude_bounds (e := e) h hm
  obtain ⟨hle, hge⟩ := roundY_range (e := e) h hm rm neg
  have h0 := roundFrac_nonneg (e := e) h
  have h1 := roundFrac_lt_one (e := e) h
  rw [hmag] at low high ⊢
  rw [hq] at low high hge ⊢
  have ha : 0 < (roundFloor f m e : ℝ) + roundFrac f m e δ := by
    by_contra hneg
    have := mul_nonpos_of_nonpos_of_nonneg (not_lt.mp hneg) (by positivity : (0 : ℝ) ≤ (2 : ℝ) ^ (max ((m.log2 : ℤ) + e) f.emin - f.fbits))
    have := (by positivity : (0 : ℝ) < (2 : ℝ) ^ ((m.log2 : ℤ) + e))
    linarith
  have eq := roundTo_eq (f := f) (rm := rm) (neg := neg) (e := e) (sticky := sticky) hm
  rw [hq] at eq
  refine encode_rounds (y := roundY f rm neg m e sticky) hf hrm ha low high (stepUp_picks (h.parts e) rm neg) ⟨by unfold FloatFmt.qmin; omega, hle, hge⟩ (by rw [eq]) ?_
  rw [eq]
  dsimp only
  split
  · rfl
  · have hexact : (roundY f rm neg m e sticky : ℝ) = roundFloor f m e + roundFrac f m e δ ↔ roundFrac f m e δ = 0 :=
      stepUp_exact (h.parts e) rm neg
    have inexact : (decide (roundRem f m e ≠ 0) || sticky) = decide (roundFrac f m e δ ≠ 0) := (h.parts e).inexact
    rw [inexact]
    by_cases hz : roundFrac f m e δ = 0
    · rw [if_pos (hexact.mpr hz)]; simp [hz, flagIf]
    · rw [if_neg (fun hh => hz (hexact.mp hh))]
      by_cases hs : (m.log2 : ℤ) + e < f.emin <;> simp [hz, hs, flagIf]

end Sys2Proof.Machine
end

section
/-!
PROOF. Packed 16-bit words and conversions: between integers, binary formats and LNS6 (08 R198, R200, R202, 09 R237, R240 to R243).
-/
namespace Sys2Proof.Machine
open Sys2Proof

/-! ### Finite values as numbers -/

theorem cast_ratOf (neg : Bool) (m : Nat) (e : ℤ) : ((ratOf (.fin neg m e) : ℚ) : ℝ) = signed neg (m * (2 : ℝ) ^ e) := by
  cases neg <;> simp [ratOf, signed]

theorem ratOf_ne_zero {neg : Bool} {m : Nat} {e : ℤ} (h : ratOf (.fin neg m e) ≠ 0) : m ≠ 0 := by
  rintro rfl
  simp [ratOf] at h

theorem ratOf_intVal (i : ℤ) : ratOf (intVal i) = i := by
  have habs : ((i.natAbs : ℤ) : ℚ) = |(i : ℚ)| := by rw [Int.natCast_natAbs, Int.cast_abs]
  simp only [intVal, ratOf]
  rw [zpow_zero, mul_one, ← Int.cast_natCast (R := ℚ), habs]
  by_cases h : i < 0
  · have : (i : ℚ) < 0 := by exact_mod_cast h
    simp [h, abs_of_neg this]
  · have : (0 : ℚ) ≤ i := by exact_mod_cast not_lt.mp h
    simp [h, abs_of_nonneg this]

/-- An exact number that is not zero is rounded as R195 says. -/
theorem roundTo_ratOf {f : FloatFmt} (hf : RealFmt f) {rm : Nat} (hrm : rm < 4) {neg : Bool} {m : Nat} (hm : m ≠ 0) (e : ℤ) :
    RoundsTo f rm ((ratOf (.fin neg m e) : ℚ) : ℝ) (roundTo f rm neg m e false) := by
  have h := roundTo_rounds hf hrm neg hm e (Tail.none f m)
  rwa [add_zero, ← cast_ratOf] at h

theorem encode_lt {f : FloatFmt} (rm : Nat) (neg : Bool) (q : ℤ) (y : Nat) : encode f rm neg q y < 2 ^ (f.ebits + f.fbits + 1) := by
  have hsign : f.signBit neg ≤ 2 ^ (f.ebits + f.fbits) := by cases neg <;> simp [FloatFmt.signBit]
  have htop : (2 ^ f.ebits - 1) * 2 ^ f.fbits < 2 ^ (f.ebits + f.fbits) := by
    rw [pow_add]
    exact Nat.mul_lt_mul_of_pos_right (Nat.sub_lt (by positivity) one_pos) (by positivity)
  rw [pow_succ]
  unfold encode FloatFmt.maxBits FloatFmt.infBits
  split
  · split <;> omega
  · omega

theorem roundTo_lt (f : FloatFmt) (rm : Nat) (neg : Bool) (m : Nat) (e : ℤ) (sticky : Bool) :
    (roundTo f rm neg m e sticky).1 < 2 ^ (f.ebits + f.fbits + 1) := by
  by_cases hm : m = 0
  · rw [hm, roundTo_zero]
    cases neg
    · simp [FloatFmt.signBit]
    · simpa [FloatFmt.signBit] using Nat.pow_lt_pow_right (a := 2) one_lt_two (Nat.lt_succ_self (f.ebits + f.fbits))
  · rw [roundTo_eq hm]; exact encode_lt rm neg _ _

/-! ### Rounding to an integer (R198) -/

/-- The magnitude is rounded to a multiple of 1 in the mode, and is exact where it is one. -/
theorem roundInt_picks (rm : Nat) (neg : Bool) (m : Nat) (e : ℤ) :
    ∃ y : Nat, (roundInt rm neg m e).1 = (if neg then -(y : ℤ) else y) ∧
      ((roundInt rm neg m e).2 = true ↔ (y : ℝ) ≠ m * (2 : ℝ) ^ e) ∧ Picks rm neg y (m * (2 : ℝ) ^ e) := by
  have parts : Below (if 0 ≤ e then 0 else m % 2 ^ (-e).toNat) (-e).toNat 0 false :=
    ⟨by split <;> [positivity; exact Nat.mod_lt _ (by positivity)], le_refl 0, one_pos, by simp, by simp⟩
  have value : (m : ℝ) * (2 : ℝ) ^ e = scaleDown m e + fracOf (if 0 ≤ e then 0 else m % 2 ^ (-e).toNat) (-e).toNat 0 := by
    by_cases he : 0 ≤ e
    · obtain ⟨k, rfl⟩ := Int.eq_ofNat_of_zero_le he
      rw [scaleDown, if_pos he, if_pos he, Nat.shiftLeft_eq, zpow_natCast, fracOf, Int.toNat_natCast]
      push_cast
      simp
    · obtain ⟨k, hk⟩ := Int.eq_ofNat_of_zero_le (by omega : 0 ≤ -e)
      have he' : e = -(k : ℤ) := by omega
      rw [scaleDown, if_neg he, if_neg he, hk, Int.toNat_natCast, Nat.shiftRight_eq_div_pow, he', zpow_neg, zpow_natCast, fracOf, add_zero]
      have hdiv : (m : ℝ) = (m / 2 ^ k : ℕ) * (2 : ℝ) ^ k + (m % 2 ^ k : ℕ) := by exact_mod_cast (Nat.div_add_mod' m _).symm
      rw [← div_eq_mul_inv, div_eq_iff (by positivity), add_mul, div_mul_cancel₀ _ (by positivity)]
      exact hdiv
  refine ⟨stepUp rm neg (scaleDown m e) (if 0 ≤ e then 0 else m % 2 ^ (-e).toNat) (-e).toNat false, rfl, ?_, ?_⟩
  · rw [value, Ne, stepUp_exact parts rm neg]
    have := parts.inexact
    rw [Bool.or_false, decide_eq_decide] at this
    rw [← Ne, ← this]
    simp only [roundInt, decide_eq_true_eq]
  · rw [value]; exact stepUp_picks parts rm neg

/-- What R198 says of a number rounded to an integer. -/
theorem roundInt_rounds {rm : Nat} (hrm : rm < 4) (neg : Bool) (m : Nat) (e : ℤ) :
    let i := (roundInt rm neg m e).1
    let v := ratOf (.fin neg m e)
    (rm = 0 → |(i : ℚ) - v| ≤ 1 / 2 ∧ (|(i : ℚ) - v| = 1 / 2 → i % 2 = 0)) ∧ (rm = 1 → |(i : ℚ)| ≤ |v| ∧ |v| < |(i : ℚ)| + 1 ∧ 0 ≤ i * v) ∧
      (rm = 2 → i ≤ v ∧ v < i + 1) ∧ (rm = 3 → v ≤ i ∧ i < v + 1) ∧ ((roundInt rm neg m e).2 = true ↔ (i : ℚ) ≠ v) := by
  obtain ⟨y, hy, hex, hpick⟩ := roundInt_picks rm neg m e
  have h := hpick.signed one_pos (by positivity) hrm
  intro i v
  have hi : i = if neg then -(y : ℤ) else y := hy
  have hv : ((v : ℚ) : ℝ) = signed neg (m * (2 : ℝ) ^ e) := cast_ratOf neg m e
  have hcast : (roundInt rm neg m e).2 = true ↔ (i : ℚ) ≠ v := by
    rw [hex, not_iff_not, ← Rat.cast_inj (α := ℝ), hv, hi]
    cases neg <;> simp [signed]
  simp only [mul_one, ← hv, ← hi, show (1 / 2 : ℝ) = ((1 / 2 : ℚ) : ℝ) by norm_num] at h
  obtain ⟨h0, h1, h2, h3⟩ := h
  exact ⟨fun hr => by exact_mod_cast h0 hr, fun hr => by exact_mod_cast h1 hr, fun hr => by exact_mod_cast h2 hr,
    fun hr => by exact_mod_cast h3 hr, hcast⟩

/-! ### The values of LNS6 (R200) -/

/-- The magnitude of index `k`. -/
def lnsQ (k : Nat) : ℚ := lnsL (k % 4) * (2 : ℚ) ^ ((k / 4 : Nat) - 19 : ℤ)

theorem lnsQ_pos (k : Nat) : 0 < lnsQ k := by
  have : 0 < lnsL (k % 4) := by unfold lnsL; split <;> decide
  unfold lnsQ
  positivity

theorem lnsQ_lt_succ (k : Nat) : lnsQ k < lnsQ (k + 1) := by
  obtain ⟨j, r, hr, rfl⟩ : ∃ j r, r < 4 ∧ k = 4 * j + r := ⟨k / 4, k % 4, Nat.mod_lt _ (by decide), by omega⟩
  have hpos : (0 : ℚ) < (2 : ℚ) ^ (j - 19 : ℤ) := by positivity
  have next : (2 : ℚ) ^ ((j + 1 : ℕ) - 19 : ℤ) = 2 * (2 : ℚ) ^ (j - 19 : ℤ) := by
    rw [show ((j + 1 : ℕ) - 19 : ℤ) = (j - 19) + 1 by push_cast; ring, zpow_add₀ two_ne_zero, zpow_one, mul_comm]
  unfold lnsQ
  interval_cases r
  · rw [show (4 * j + 0) % 4 = 0 by omega, show (4 * j + 0) / 4 = j by omega, show (4 * j + 0 + 1) % 4 = 1 by omega,
      show (4 * j + 0 + 1) / 4 = j by omega]
    exact mul_lt_mul_of_pos_right (by norm_num [lnsL]) hpos
  · rw [show (4 * j + 1) % 4 = 1 by omega, show (4 * j + 1) / 4 = j by omega, show (4 * j + 1 + 1) % 4 = 2 by omega,
      show (4 * j + 1 + 1) / 4 = j by omega]
    exact mul_lt_mul_of_pos_right (by norm_num [lnsL]) hpos
  · rw [show (4 * j + 2) % 4 = 2 by omega, show (4 * j + 2) / 4 = j by omega, show (4 * j + 2 + 1) % 4 = 3 by omega,
      show (4 * j + 2 + 1) / 4 = j by omega]
    exact mul_lt_mul_of_pos_right (by norm_num [lnsL]) hpos
  · rw [show (4 * j + 3) % 4 = 3 by omega, show (4 * j + 3) / 4 = j by omega, show (4 * j + 3 + 1) % 4 = 0 by omega,
      show (4 * j + 3 + 1) / 4 = j + 1 by omega, next, ← mul_assoc]
    exact mul_lt_mul_of_pos_right (by norm_num [lnsL]) hpos

theorem lnsQ_strictMono : StrictMono lnsQ := strictMono_nat_of_lt_succ lnsQ_lt_succ

/-- The value of a code, of the sign and index that it holds. -/
def lnsValue (c : Nat) : ℚ := if c = 0x20 then 0 else if 32 ≤ c then -lnsQ (c % 32) else lnsQ (c % 32)

theorem ratOf_lnsVal {c : Nat} (hc : c < 64) : ratOf (lnsVal c) = lnsValue c := by
  rw [lnsVal, Nat.mod_eq_of_lt hc, lnsValue]
  by_cases h0 : c = 0x20
  · rw [if_pos h0, if_pos h0]; simp [ratOf]
  · rw [if_neg h0, if_neg h0]
    by_cases hn : 32 ≤ c <;> simp [ratOf, hn, lnsQ, show c % 32 % 4 = c % 4 by omega]

/-- The value as the tables of R200 write it. -/
theorem lnsValue_eq {c : Nat} (hc : c < 64) : lnsValue c = if c = 0x20 then 0 else
    (if 32 ≤ c then -1 else 1) * ([0x8000, 0x9838, 0xB505, 0xD745].getD (c % 4) 0 / 32768) * 2 ^ ((c % 32 / 4 : Nat) - 4 : ℤ) := by
  have table : ([0x8000, 0x9838, 0xB505, 0xD745] : List ℚ).getD (c % 4) 0 = lnsL (c % 4) := by
    have : c % 4 < 4 := Nat.mod_lt _ (by decide)
    generalize c % 4 = r at this
    interval_cases r <;> norm_num [lnsL]
  have pow : (2 : ℚ) ^ ((c % 32 / 4 : Nat) - 4 : ℤ) = 32768 * (2 : ℚ) ^ ((c % 32 / 4 : Nat) - 19 : ℤ) := by
    rw [show ((c % 32 / 4 : Nat) - 4 : ℤ) = 15 + ((c % 32 / 4 : Nat) - 19) by ring, zpow_add₀ two_ne_zero]
    norm_num
  unfold lnsValue
  by_cases h0 : c = 0x20
  · rw [if_pos h0, if_pos h0]
  · rw [if_neg h0, if_neg h0, table, pow, lnsQ, show c % 32 % 4 = c % 4 by omega]
    by_cases hn : 32 ≤ c
    · rw [if_pos hn, if_pos hn]; ring
    · rw [if_neg hn, if_neg hn]; ring

/-- The only zero of LNS6 is positive. -/
theorem lnsVal_zero {c : Nat} {neg : Bool} {m : Nat} {e : ℤ} (hc : lnsVal c = .fin neg m e) (h0 : ratOf (.fin neg m e) = 0) :
    neg = false ∧ m = 0 := by
  unfold lnsVal at hc
  split at hc
  · cases hc; exact ⟨rfl, rfl⟩
  · cases hc
    have hpos : 0 < lnsL (c % 4) := by unfold lnsL; split <;> decide
    have hq : (lnsL (c % 4) : ℚ) ≠ 0 := by exact_mod_cast hpos.ne'
    simp only [ratOf, mul_eq_zero, hq, or_false] at h0
    rcases h0 with h | h
    · split at h <;> norm_num at h
    · exact absurd h (by positivity)

/-- The sign and index of a code that is not zero; of zero, none. -/
theorem lnsCode_cases {c : Nat} (hc : c < 64) : c = lnsCode false none ∨ ∃ n k, k < 32 ∧ (n = true → 1 ≤ k) ∧ c = lnsCode n (some k) := by
  by_cases h0 : c = 0x20
  · exact .inl h0
  · by_cases hn : 32 ≤ c
    · exact .inr ⟨true, c - 32, by omega, fun _ => by omega, by simp only [lnsCode, if_true]; omega⟩
    · exact .inr ⟨false, c, by omega, by simp, by simp [lnsCode]⟩

/-- The value of a sign and an index, where no index is that of zero. -/
def lnsAt (n : Bool) : Option Nat → ℚ
  | none => 0
  | some k => if n then -lnsQ k else lnsQ k

theorem lnsValue_code (n : Bool) {i : Option Nat} (hi : ∀ k, i = some k → k < 32 ∧ (n = true → 1 ≤ k)) : lnsValue (lnsCode n i) = lnsAt n i := by
  match i, hi with
  | none, _ => rfl
  | some k, hi =>
    obtain ⟨hk, hn⟩ := hi k rfl
    cases n
    · simp only [lnsCode, lnsAt, lnsValue, Bool.false_eq_true, if_false, if_neg (by omega : ¬k = 0x20), if_neg (by omega : ¬32 ≤ k),
        Nat.mod_eq_of_lt hk]
    · have := hn rfl
      simp only [lnsCode, lnsAt, lnsValue, if_true, if_neg (by omega : ¬32 + k = 0x20), if_pos (by omega : 32 ≤ 32 + k),
        show (32 + k) % 32 = k by omega]

theorem lnsCode_lt (n : Bool) {i : Option Nat} (hi : ∀ k, i = some k → k < 32) : lnsCode n i < 64 := by
  match i, hi with
  | none, _ => exact (by decide : 0x20 < 64)
  | some k, hi => have := hi k rfl; cases n <;> simp only [lnsCode, Bool.false_eq_true, if_false, if_true] <;> omega

/-! ### Comparing magnitudes -/

theorem cmpMag_eq (m : Nat) (e : ℤ) (n : Nat) (f : ℤ) : cmpMag m e n f = compare ((m : ℚ) * (2 : ℚ) ^ e) (n * (2 : ℚ) ^ f) := by
  have step : ∀ (a b c : Nat) (g h k : ℤ), k = min g h → (c : ℤ) = h - g → 0 < (2 : ℚ) ^ g →
      compare a (b <<< c) = compare ((a : ℚ) * (2 : ℚ) ^ g) (b * (2 : ℚ) ^ h) := by
    intro a b c g h _ _ hc hpos
    have hb : (b : ℚ) * (2 : ℚ) ^ h = (b <<< c : ℕ) * (2 : ℚ) ^ g := by
      rw [Nat.shiftLeft_eq, show h = (c : ℤ) + g by omega, zpow_add₀ two_ne_zero, zpow_natCast]; push_cast; ring
    rw [hb]
    rcases Nat.lt_trichotomy a (b <<< c) with hlt | heq | hgt
    · rw [compare_lt_iff_lt.mpr hlt, compare_lt_iff_lt.mpr (mul_lt_mul_of_pos_right (by exact_mod_cast hlt) hpos)]
    · rw [compare_eq_iff_eq.mpr heq, compare_eq_iff_eq.mpr (by rw [heq])]
    · rw [compare_gt_iff_gt.mpr hgt, compare_gt_iff_gt.mpr (mul_lt_mul_of_pos_right (by exact_mod_cast hgt) hpos)]
  unfold cmpMag
  split
  · next h => exact step m n _ e f _ rfl (by omega) (by positivity)
  · next h =>
    have hs := step n m (e - f).toNat f e _ rfl (by omega) (by positivity)
    rcases hc : compare (m <<< (e - f).toNat) n with _ | _ | _
    · rw [compare_lt_iff_lt] at hc
      rw [compare_gt_iff_gt.mpr hc] at hs
      exact (compare_lt_iff_lt.mpr (compare_gt_iff_gt.mp hs.symm)).symm
    · rw [compare_eq_iff_eq] at hc
      rw [compare_eq_iff_eq.mpr hc.symm] at hs
      exact (compare_eq_iff_eq.mpr (compare_eq_iff_eq.mp hs.symm).symm).symm
    · rw [compare_gt_iff_gt] at hc
      rw [compare_lt_iff_lt.mpr hc] at hs
      exact (compare_gt_iff_gt.mpr (compare_lt_iff_lt.mp hs.symm)).symm

theorem lnsMag_value (k : Nat) : ((lnsMag k).1 : ℚ) * (2 : ℚ) ^ (lnsMag k).2 = lnsQ k := rfl

theorem cmpMag_lns_le (k m : Nat) (e : ℤ) : cmpMag (lnsMag k).1 (lnsMag k).2 m e ≠ .gt ↔ lnsQ k ≤ m * (2 : ℚ) ^ e := by
  rw [cmpMag_eq, lnsMag_value, Ne, compare_gt_iff_gt, not_lt]

/-- The greatest index whose magnitude does not pass the number. -/
theorem lnsBelow_spec (m : Nat) (e : ℤ) (lo k : Nat) :
    (∀ j, lnsBelow m e lo k = some j → lo ≤ j ∧ j ≤ k ∧ lnsQ j ≤ m * (2 : ℚ) ^ e ∧ ∀ i, j < i → i ≤ k → m * (2 : ℚ) ^ e < lnsQ i) ∧
      (lnsBelow m e lo k = none → ∀ i, lo ≤ i → i ≤ k → m * (2 : ℚ) ^ e < lnsQ i) := by
  induction k with
  | zero =>
    unfold lnsBelow
    by_cases h : lo = 0 ∧ cmpMag (lnsMag 0).1 (lnsMag 0).2 m e ≠ .gt
    · rw [if_pos h]
      refine ⟨fun j hj => ?_, fun hc => by cases hc⟩
      cases hj
      exact ⟨by omega, le_refl 0, (cmpMag_lns_le _ _ _).mp h.2, fun i h1 h2 => by omega⟩
    · rw [if_neg h]
      refine ⟨fun j hj => (by cases hj), fun _ i h1 h2 => ?_⟩
      obtain rfl : i = 0 := by omega
      by_contra hle
      exact h ⟨by omega, (cmpMag_lns_le _ _ _).mpr (not_lt.mp hle)⟩
  | succ k ih =>
    unfold lnsBelow
    by_cases h : lo ≤ k + 1 ∧ cmpMag (lnsMag (k + 1)).1 (lnsMag (k + 1)).2 m e ≠ .gt
    · rw [if_pos h]
      refine ⟨fun j hj => ?_, fun hc => by cases hc⟩
      cases hj
      exact ⟨h.1, le_refl _, (cmpMag_lns_le _ _ _).mp h.2, fun i h1 h2 => by omega⟩
    · rw [if_neg h]
      have top : lo ≤ k + 1 → m * (2 : ℚ) ^ e < lnsQ (k + 1) := fun hlo => by
        by_contra hle
        exact h ⟨hlo, (cmpMag_lns_le _ _ _).mpr (not_lt.mp hle)⟩
      refine ⟨fun j hj => ?_, fun hn i h1 h2 => ?_⟩
      · obtain ⟨a, b, c, d⟩ := ih.1 j hj
        refine ⟨a, by omega, c, fun i h1 h2 => ?_⟩
        rcases Nat.lt_or_ge i (k + 1) with hi | hi
        · exact d i h1 (by omega)
        · obtain rfl : i = k + 1 := by omega
          exact top (by omega)
      · rcases Nat.lt_or_ge i (k + 1) with hi | hi
        · exact ih.2 hn i h1 (by omega)
        · obtain rfl : i = k + 1 := by omega
          exact top h1

/-! ### Conversion to LNS6 (R202) -/

/-- What R202 says of a number converted to LNS6. -/
def ToLns6 (rm : Nat) (v : ℚ) (r : Nat × Flags) : Prop :=
  (v = 0 → r = (0x20, 0)) ∧ (lnsValue 31 < |v| → r = (if v < 0 then 63 else 31, fOF ||| fNX)) ∧
  (v ≠ 0 → |v| ≤ lnsValue 31 →
    r.1 < 64 ∧ r.2 = (if lnsValue r.1 = v then 0 else if r.1 = 0x20 then fNX ||| fUF else fNX) ∧ ∀ c, c < 64 →
    (rm = 0 → |lnsValue r.1 - v| ≤ |lnsValue c - v| ∧
      (|lnsValue r.1 - v| = |lnsValue c - v| → c = r.1 ∨ r.1 = 0x20 ∨ (c ≠ 0x20 ∧ r.1 % 2 = 0))) ∧
    (rm = 1 → |lnsValue r.1| ≤ |v| ∧ 0 ≤ lnsValue r.1 * v ∧ (|lnsValue c| ≤ |v| → 0 ≤ lnsValue c * v → |lnsValue c| ≤ |lnsValue r.1|)) ∧
    (rm = 2 → lnsValue r.1 ≤ v ∧ (lnsValue c ≤ v → lnsValue c ≤ lnsValue r.1)) ∧
    (rm = 3 → v ≤ lnsValue r.1 ∧ (v ≤ lnsValue c → lnsValue r.1 ≤ lnsValue c)))

/-- The magnitude of an index, none for zero. -/
def lnsSize : Option Nat → ℚ
  | none => 0
  | some k => lnsQ k

/-- A number with a sign. -/
def signedQ (n : Bool) (x : ℚ) : ℚ := if n then -x else x

theorem lnsAt_eq (n : Bool) (i : Option Nat) : lnsAt n i = signedQ n (lnsSize i) := by
  cases i <;> cases n <;> simp [lnsAt, lnsSize, signedQ]

theorem signedQ_mul_self (n : Bool) (x y : ℚ) : signedQ n x * signedQ n y = x * y := by cases n <;> simp [signedQ]
theorem abs_signedQ (n : Bool) {x : ℚ} (hx : 0 ≤ x) : |signedQ n x| = x := by cases n <;> simp [signedQ, abs_of_nonneg hx]
theorem abs_signedQ_sub (n : Bool) (x y : ℚ) : |signedQ n x - signedQ n y| = |x - y| := by
  cases n
  · simp [signedQ]
  · simp only [signedQ, if_true]; rw [show -x - -y = -(x - y) by ring, abs_neg]

/-- A number strictly between two neighbouring magnitudes of its sign: the lower one may be zero, and no other code lies between. -/
structure Between (n : Bool) (x : ℚ) (dn : Option Nat) (up : Nat) : Prop where
  above   : lnsSize dn < x
  below   : x < lnsQ up
  up_lt   : up < 32
  up_sign : n = true → 1 ≤ up
  next    : ∀ k, dn = some k → up = k + 1 ∧ (n = true → 1 ≤ k)
  first   : dn = none → ∀ k, (n = true → 1 ≤ k) → up ≤ k

section
variable {n : Bool} {x : ℚ} {dn : Option Nat} {up : Nat}

theorem Between.pos (h : Between n x dn up) : 0 < x := by
  refine lt_of_le_of_lt ?_ h.above
  cases dn with
  | none => exact le_refl 0
  | some k => exact (lnsQ_pos k).le

theorem Between.size_nonneg (_ : Between n x dn up) : 0 ≤ lnsSize dn := by
  cases dn with
  | none => exact le_refl 0
  | some k => exact (lnsQ_pos k).le

theorem Between.dn_ok (h : Between n x dn up) : ∀ k, dn = some k → k < 32 ∧ (n = true → 1 ≤ k) := fun k hk => by
  obtain ⟨hup, hs⟩ := h.next k hk
  have := h.up_lt
  exact ⟨by omega, hs⟩
theorem Between.up_ok (h : Between n x dn up) : ∀ k, some up = some k → k < 32 ∧ (n = true → 1 ≤ k) := fun k hk => by
  cases hk; exact ⟨h.up_lt, h.up_sign⟩

theorem Between.value_dn (h : Between n x dn up) : lnsValue (lnsCode n dn) = signedQ n (lnsSize dn) := by
  rw [lnsValue_code n h.dn_ok, lnsAt_eq]
theorem Between.value_up (h : Between n x dn up) : lnsValue (lnsCode n (some up)) = signedQ n (lnsQ up) := by
  rw [lnsValue_code n h.up_ok, lnsAt_eq]; rfl

/-- Where a code lies: at the lower neighbour or on the other side of it, or at the upper neighbour or beyond. -/
theorem Between.code (h : Between n x dn up) {c : Nat} (hc : c < 64) :
    ∃ y, lnsValue c = signedQ n y ∧ ((y ≤ lnsSize dn ∧ (y = lnsSize dn → c = lnsCode n dn)) ∨
      (lnsQ up ≤ y ∧ (y = lnsQ up → c = lnsCode n (some up)))) := by
  rcases lnsCode_cases hc with rfl | ⟨n', k, hk, hs, rfl⟩
  · refine ⟨0, by rw [lnsValue_code false (by simp), lnsAt]; cases n <;> simp [signedQ], .inl ⟨h.size_nonneg, fun heq => ?_⟩⟩
    cases dn with
    | none => rfl
    | some k => exact absurd heq (lnsQ_pos k).ne
  · have hval : lnsValue (lnsCode n' (some k)) = signedQ n' (lnsQ k) := by
      rw [lnsValue_code n' (fun j hj => by cases hj; exact ⟨hk, hs⟩), lnsAt_eq]; rfl
    have hpos := lnsQ_pos k
    by_cases hn : n' = n
    · subst hn
      refine ⟨lnsQ k, hval, ?_⟩
      cases dn with
      | none =>
        right
        exact ⟨lnsQ_strictMono.monotone (h.first rfl k hs), fun heq => by rw [lnsQ_strictMono.injective heq]⟩
      | some j =>
        obtain ⟨hup, -⟩ := h.next j rfl
        rcases Nat.lt_or_ge j k with hjk | hjk
        · right
          exact ⟨lnsQ_strictMono.monotone (by omega), fun heq => by rw [lnsQ_strictMono.injective heq]⟩
        · left
          exact ⟨lnsQ_strictMono.monotone hjk, fun heq => by rw [lnsQ_strictMono.injective heq]⟩
    · refine ⟨-lnsQ k, ?_, .inl ⟨by linarith [h.size_nonneg], fun heq => by linarith [h.size_nonneg]⟩⟩
      rw [hval]
      cases n <;> cases n' <;> simp_all [signedQ]

end

/-- In the middle between two neighbours: the one with the even code. -/
def lnsTie (up : Nat) : Option Nat → Option Nat
  | none => none
  | some k => if k % 2 = 0 then some k else some up

/-- The neighbour that a mode picks, where the number stands between them as `lt` and `gt` say of its double and their sum. -/
def lnsPick (rm : Nat) (n : Bool) (dn : Option Nat) (up : Nat) (lt gt : Prop) [Decidable lt] [Decidable gt] : Option Nat :=
  match rm with
  | 1 => dn
  | 2 => if n then some up else dn
  | 3 => if n then dn else some up
  | _ => if lt then dn else if gt then some up else lnsTie up dn

theorem lnsPick_mem (rm : Nat) (n : Bool) (dn : Option Nat) (up : Nat) (lt gt : Prop) [Decidable lt] [Decidable gt] :
    lnsPick rm n dn up lt gt = dn ∨ lnsPick rm n dn up lt gt = some up := by
  unfold lnsPick
  split
  · exact .inl rfl
  · cases n <;> simp
  · cases n <;> simp
  · split
    · exact .inl rfl
    · split
      · exact .inr rfl
      · cases dn with
        | none => exact .inl rfl
        | some k => by_cases hk : k % 2 = 0 <;> simp [lnsTie, hk]

theorem lnsCode_none_iff (n : Bool) {i : Option Nat} (hi : ∀ k, i = some k → k < 32 ∧ (n = true → 1 ≤ k)) :
    lnsCode n i = 0x20 ↔ i = none := by
  cases i with
  | none => exact ⟨fun _ => rfl, fun _ => rfl⟩
  | some k =>
    obtain ⟨hk, hs⟩ := hi k rfl
    cases n
    · simp only [lnsCode, Bool.false_eq_true, if_false, reduceCtorEq, iff_false]; omega
    · have := hs rfl
      simp only [lnsCode, if_true, reduceCtorEq, iff_false]; omega

theorem lnsCode_parity (n : Bool) (k : Nat) : lnsCode n (some k) % 2 = k % 2 := by
  cases n <;> simp only [lnsCode, Bool.false_eq_true, if_false, if_true] <;> omega

section
variable {n : Bool} {x : ℚ} {dn : Option Nat} {up : Nat}

/-- The lower neighbour is as near as any code where the number is not past the middle; only the upper one may be as near. -/
theorem Between.nearest_dn (h : Between n x dn up) (hle : 2 * x ≤ lnsSize dn + lnsQ up) {c : Nat} (hc : c < 64) :
    |lnsSize dn - x| ≤ |lnsValue c - signedQ n x| ∧
      (|lnsSize dn - x| = |lnsValue c - signedQ n x| → c = lnsCode n dn ∨ (2 * x = lnsSize dn + lnsQ up ∧ c = lnsCode n (some up))) := by
  obtain ⟨y, hy, hcase⟩ := h.code hc
  have habove := h.above
  have hbelow := h.below
  rw [hy, abs_signedQ_sub, abs_sub_comm, abs_of_pos (by linarith : 0 < x - lnsSize dn)]
  rcases hcase with ⟨hle', heq⟩ | ⟨hge, heq⟩
  · rw [abs_sub_comm, abs_of_pos (by linarith : 0 < x - y)]
    exact ⟨by linarith, fun hd => .inl (heq (by linarith))⟩
  · rw [abs_of_pos (by linarith : 0 < y - x)]
    exact ⟨by linarith, fun hd => .inr ⟨by linarith, heq (by linarith)⟩⟩

/-- The same for the upper neighbour. -/
theorem Between.nearest_up (h : Between n x dn up) (hge : lnsSize dn + lnsQ up ≤ 2 * x) {c : Nat} (hc : c < 64) :
    |lnsQ up - x| ≤ |lnsValue c - signedQ n x| ∧
      (|lnsQ up - x| = |lnsValue c - signedQ n x| → c = lnsCode n (some up) ∨ (2 * x = lnsSize dn + lnsQ up ∧ c = lnsCode n dn)) := by
  obtain ⟨y, hy, hcase⟩ := h.code hc
  have habove := h.above
  have hbelow := h.below
  rw [hy, abs_signedQ_sub, abs_of_pos (by linarith : 0 < lnsQ up - x)]
  rcases hcase with ⟨hle', heq⟩ | ⟨hge, heq⟩
  · rw [abs_sub_comm, abs_of_pos (by linarith : 0 < x - y)]
    exact ⟨by linarith, fun hd => .inr ⟨by linarith, heq (by linarith)⟩⟩
  · rw [abs_of_pos (by linarith : 0 < y - x)]
    exact ⟨by linarith, fun hd => .inl (heq (by linarith))⟩

/-- The neighbour toward zero is the greatest code not beyond the number. -/
theorem Between.toward (h : Between n x dn up) {c : Nat} (hc : c < 64) :
    |lnsSize dn| ≤ |signedQ n x| ∧ 0 ≤ signedQ n (lnsSize dn) * signedQ n x ∧
      (|lnsValue c| ≤ |signedQ n x| → 0 ≤ lnsValue c * signedQ n x → |lnsValue c| ≤ |signedQ n (lnsSize dn)|) := by
  have hpos := h.pos
  have hsize := h.size_nonneg
  obtain ⟨y, hy, hcase⟩ := h.code hc
  rw [hy, abs_signedQ n hpos.le, abs_signedQ n hsize, signedQ_mul_self, signedQ_mul_self, abs_of_nonneg hsize]
  refine ⟨h.above.le, mul_nonneg hsize hpos.le, fun habs hsame => ?_⟩
  have hy0 : 0 ≤ y := by
    by_contra hneg
    exact absurd (mul_neg_of_neg_of_pos (not_le.mp hneg) hpos) (not_lt.mpr hsame)
  rw [abs_signedQ n hy0] at habs ⊢
  rcases hcase with ⟨hle, -⟩ | ⟨hge, -⟩
  · exact hle
  · exact absurd habs (not_le.mpr (lt_of_lt_of_le h.below hge))

/-- The neighbour below a number is the greatest code not above it. -/
theorem Between.floor (h : Between n x dn up) {c : Nat} (hc : c < 64) :
    let y := if n then lnsQ up else lnsSize dn
    signedQ n y ≤ signedQ n x ∧ (lnsValue c ≤ signedQ n x → lnsValue c ≤ signedQ n y) := by
  obtain ⟨y, hy, hcase⟩ := h.code hc
  have habove := h.above
  have hbelow := h.below
  rw [hy]
  cases n
  · refine ⟨habove.le, fun hle => ?_⟩
    rcases hcase with ⟨hle', -⟩ | ⟨hge, -⟩
    · exact hle'
    · exact absurd (le_trans hge hle) (not_le.mpr hbelow)
  · refine ⟨by simp only [signedQ, if_true]; linarith, fun hle => ?_⟩
    simp only [signedQ, if_true] at hle ⊢
    rcases hcase with ⟨hle', -⟩ | ⟨hge, -⟩ <;> linarith

/-- The neighbour above a number is the least code not below it. -/
theorem Between.ceil (h : Between n x dn up) {c : Nat} (hc : c < 64) :
    let y := if n then lnsSize dn else lnsQ up
    signedQ n x ≤ signedQ n y ∧ (signedQ n x ≤ lnsValue c → signedQ n y ≤ lnsValue c) := by
  obtain ⟨y, hy, hcase⟩ := h.code hc
  have habove := h.above
  have hbelow := h.below
  rw [hy]
  cases n
  · refine ⟨hbelow.le, fun hle => ?_⟩
    simp only [signedQ, Bool.false_eq_true, if_false] at hle ⊢
    rcases hcase with ⟨hle', -⟩ | ⟨hge, -⟩ <;> linarith
  · refine ⟨by simp only [signedQ, if_true]; linarith, fun hle => ?_⟩
    simp only [signedQ, if_true] at hle ⊢
    rcases hcase with ⟨hle', -⟩ | ⟨hge, -⟩ <;> linarith

/-- Between two neighbours, the picked one is what R202 says. -/
theorem Between.rounds (h : Between n x dn up) {rm : Nat} (hrm : rm < 4) {lt gt : Prop} [Decidable lt] [Decidable gt]
    (hlt : lt ↔ 2 * x < lnsSize dn + lnsQ up) (hgt : gt ↔ lnsSize dn + lnsQ up < 2 * x) :
    ToLns6 rm (signedQ n x) (lnsCode n (lnsPick rm n dn up lt gt), fNX ||| flagIf (lnsPick rm n dn up lt gt).isNone fUF) := by
  have hpos := h.pos
  have hle31 : lnsQ up ≤ lnsQ 31 := lnsQ_strictMono.monotone (by have := h.up_lt; omega)
  have hv : signedQ n x ≠ 0 := by cases n <;> simp [signedQ, hpos.ne']
  have habs : |signedQ n x| = x := abs_signedQ n hpos.le
  have ok : ∀ k, lnsPick rm n dn up lt gt = some k → k < 32 ∧ (n = true → 1 ≤ k) := by
    rcases lnsPick_mem rm n dn up lt gt with he | he <;> rw [he]
    · exact h.dn_ok
    · exact h.up_ok
  refine ⟨fun h0 => absurd h0 hv, fun hbig => ?_, fun _ _ => ⟨lnsCode_lt n fun k hk => (ok k hk).1, ?_, fun c hc => ⟨?_, ?_, ?_, ?_⟩⟩⟩
  · rw [habs] at hbig
    exact absurd (lt_of_lt_of_le h.below hle31) (not_lt.mpr hbig.le)
  · have hne : lnsValue (lnsCode n (lnsPick rm n dn up lt gt)) ≠ signedQ n x := by
      have inj : ∀ y, y ≠ x → signedQ n y ≠ signedQ n x := fun y hy => by cases n <;> simpa [signedQ] using hy
      rcases lnsPick_mem rm n dn up lt gt with he | he <;> rw [he]
      · rw [h.value_dn]; exact inj _ h.above.ne
      · rw [h.value_up]; exact inj _ h.below.ne'
    rw [if_neg hne]
    simp only [lnsCode_none_iff n ok]
    cases lnsPick rm n dn up lt gt <;> simp [flagIf]
  · rintro rfl
    dsimp only
    have near : lnsPick 0 n dn up lt gt = if lt then dn else if gt then some up else lnsTie up dn := rfl
    by_cases hl : lt
    · rw [near, if_pos hl, h.value_dn, abs_signedQ_sub]
      obtain ⟨a, b⟩ := h.nearest_dn (hlt.mp hl).le hc
      refine ⟨a, fun heq => ?_⟩
      rcases b heq with hb | ⟨ht, -⟩
      · exact .inl hb
      · exact absurd ht (hlt.mp hl).ne
    · by_cases hg : gt
      · rw [near, if_neg hl, if_pos hg, h.value_up, abs_signedQ_sub]
        obtain ⟨a, b⟩ := h.nearest_up (hgt.mp hg).le hc
        refine ⟨a, fun heq => ?_⟩
        rcases b heq with hb | ⟨ht, -⟩
        · exact .inl hb
        · exact absurd ht (hgt.mp hg).ne'
      · have tie : 2 * x = lnsSize dn + lnsQ up :=
          le_antisymm (not_lt.mp fun hh => hg (hgt.mpr hh)) (not_lt.mp fun hh => hl (hlt.mpr hh))
        rw [near, if_neg hl, if_neg hg]
        cases dn with
        | none =>
          rw [lnsTie, h.value_dn, abs_signedQ_sub]
          exact ⟨(h.nearest_dn tie.le hc).1, fun _ => .inr (.inl rfl)⟩
        | some k =>
          obtain ⟨hup, -⟩ := h.next k rfl
          rw [lnsTie]
          by_cases hk : k % 2 = 0
          · rw [if_pos hk, h.value_dn, abs_signedQ_sub]
            obtain ⟨a, b⟩ := h.nearest_dn tie.le hc
            refine ⟨a, fun heq => ?_⟩
            rcases b heq with hb | ⟨-, hb⟩
            · exact .inl hb
            · refine .inr (.inr ⟨?_, by rw [lnsCode_parity]; exact hk⟩)
              rw [hb, Ne, lnsCode_none_iff n h.up_ok]; simp
          · rw [if_neg hk, h.value_up, abs_signedQ_sub]
            obtain ⟨a, b⟩ := h.nearest_up tie.ge hc
            refine ⟨a, fun heq => ?_⟩
            rcases b heq with hb | ⟨-, hb⟩
            · exact .inl hb
            · refine .inr (.inr ⟨?_, by rw [lnsCode_parity]; omega⟩)
              rw [hb, Ne, lnsCode_none_iff n h.dn_ok]; simp
  · rintro rfl
    have hpick : lnsPick 1 n dn up lt gt = dn := rfl
    dsimp only
    rw [hpick, h.value_dn, abs_signedQ n h.size_nonneg, ← abs_of_nonneg h.size_nonneg]
    obtain ⟨a, b, c⟩ := h.toward hc
    refine ⟨a, by rw [abs_of_nonneg h.size_nonneg]; exact b, fun h1 h2 => ?_⟩
    have := c h1 h2
    rwa [abs_signedQ n h.size_nonneg, ← abs_of_nonneg h.size_nonneg] at this
  · rintro rfl
    have hval : lnsValue (lnsCode n (lnsPick 2 n dn up lt gt)) = signedQ n (if n then lnsQ up else lnsSize dn) := by
      cases n
      · exact h.value_dn
      · exact h.value_up
    dsimp only
    rw [hval]; exact h.floor hc
  · rintro rfl
    have hval : lnsValue (lnsCode n (lnsPick 3 n dn up lt gt)) = signedQ n (if n then lnsSize dn else lnsQ up) := by
      cases n
      · exact h.value_up
      · exact h.value_dn
    dsimp only
    rw [hval]; exact h.ceil hc

end

theorem lnsValue_inj {c : Nat} (hc : c < 64) {n : Bool} {k : Nat} (hk : k < 32) (hs : n = true → 1 ≤ k)
    (h : lnsValue c = lnsValue (lnsCode n (some k))) : c = lnsCode n (some k) := by
  have hpos := lnsQ_pos k
  rw [lnsValue_code n (fun j hj => by cases hj; exact ⟨hk, hs⟩)] at h
  rcases lnsCode_cases hc with rfl | ⟨n', j, hj, hjs, rfl⟩
  · rw [lnsValue_code false (by simp)] at h
    cases n
    · exact absurd h hpos.ne
    · simp only [lnsAt, if_true] at h; linarith
  · have hpos' := lnsQ_pos j
    rw [lnsValue_code n' (fun i hi => by cases hi; exact ⟨hj, hjs⟩)] at h
    cases n <;> cases n' <;> simp only [lnsAt, Bool.false_eq_true, if_false, if_true, neg_inj] at h
    · rw [lnsQ_strictMono.injective h]
    · linarith
    · linarith
    · rw [lnsQ_strictMono.injective h]

/-- A number that is the value of a code. -/
theorem toLns6_exact {n : Bool} {k : Nat} (hk : k < 32) (hs : n = true → 1 ≤ k) (rm : Nat) :
    ToLns6 rm (signedQ n (lnsQ k)) (lnsCode n (some k), 0) := by
  have hpos := lnsQ_pos k
  have ok : ∀ j, some k = some j → j < 32 ∧ (n = true → 1 ≤ j) := fun j hj => by cases hj; exact ⟨hk, hs⟩
  have hval : lnsValue (lnsCode n (some k)) = signedQ n (lnsQ k) := by rw [lnsValue_code n ok, lnsAt_eq]; rfl
  have hv : signedQ n (lnsQ k) ≠ 0 := by cases n <;> simp [signedQ, hpos.ne']
  have habs : |signedQ n (lnsQ k)| = lnsQ k := abs_signedQ n hpos.le
  refine ⟨fun h0 => absurd h0 hv, fun hbig => ?_, fun _ _ => ⟨lnsCode_lt n fun j hj => (ok j hj).1, by rw [if_pos hval], fun c hc => ?_⟩⟩
  · rw [habs] at hbig
    exact absurd hbig (not_lt.mpr (lnsQ_strictMono.monotone (by omega)))
  · have same : |lnsValue (lnsCode n (some k)) - signedQ n (lnsQ k)| = 0 := by rw [hval, sub_self, abs_zero]
    refine ⟨fun _ => ⟨by rw [same]; exact abs_nonneg _, fun heq => .inl ?_⟩, fun _ => ?_, fun _ => ?_, fun _ => ?_⟩
    · rw [same, eq_comm, abs_eq_zero, sub_eq_zero] at heq
      exact lnsValue_inj hc hk hs (heq.trans hval.symm)
    · dsimp only
      rw [hval]; exact ⟨le_refl _, mul_self_nonneg _, fun h _ => h⟩
    · dsimp only
      rw [hval]; exact ⟨le_refl _, id⟩
    · dsimp only
      rw [hval]; exact ⟨le_refl _, id⟩

/-- The index above a neighbour. -/
def lnsNext (n : Bool) : Option Nat → Nat
  | some k => k + 1
  | none => if n then 1 else 0

/-- A number in the range of LNS6 that is no value of a code lies between two neighbours. -/
theorem between_of_below {n : Bool} {m : Nat} {e : ℤ} (hm : m ≠ 0) (hle : m * (2 : ℚ) ^ e ≤ lnsQ 31)
    (hne : ∀ k, lnsBelow m e (if n then 1 else 0) 31 = some k → lnsQ k ≠ m * (2 : ℚ) ^ e) :
    Between n (m * (2 : ℚ) ^ e) (lnsBelow m e (if n then 1 else 0) 31)
      (lnsNext n (lnsBelow m e (if n then 1 else 0) 31)) := by
  have hx : 0 < (m : ℚ) * (2 : ℚ) ^ e := by
    have : (0 : ℚ) < m := by exact_mod_cast Nat.pos_of_ne_zero hm
    positivity
  obtain ⟨hsome, hnone⟩ := lnsBelow_spec m e (if n then 1 else 0) 31
  have hlo : (if n then 1 else 0 : Nat) ≤ 1 := by cases n <;> decide
  have hsign : n = true → 1 ≤ (if n then 1 else 0 : Nat) := fun h => by rw [if_pos h]
  cases hd : lnsBelow m e (if n then 1 else 0) 31 with
  | none =>
    have hall := hnone hd
    refine ⟨hx, hall _ (le_refl _) (hlo.trans (by decide)), by cases n <;> decide, hsign, fun k hk => (by cases hk), fun _ k hk => ?_⟩
    cases n
    · exact Nat.zero_le k
    · exact hk rfl
  | some k =>
    obtain ⟨h1, h2, h3, h4⟩ := hsome k hd
    have hlt : lnsQ k < m * (2 : ℚ) ^ e := lt_of_le_of_ne h3 (hne k hd)
    have hk31 : k < 31 := by
      by_contra hge
      obtain rfl : k = 31 := by omega
      linarith
    exact ⟨hlt, h4 (k + 1) (by omega) (by omega), by rw [lnsNext]; omega, fun _ => Nat.le_add_left _ _,
      fun j hj => (by cases hj; exact ⟨rfl, fun hn => (hsign hn).trans h1⟩), fun hc => (by cases hc)⟩

/-- Double a magnitude against the sum of two, all in the lowest of their units. -/
theorem doubled_iff (m : Nat) (e : ℤ) (a c : Nat × ℤ) :
    let b := min (min a.2 c.2) e
    let sum := a.1 <<< (a.2 - b).toNat + c.1 <<< (c.2 - b).toNat
    let twice := (2 * m) <<< (e - b).toNat
    (twice < sum ↔ 2 * (m * (2 : ℚ) ^ e) < a.1 * (2 : ℚ) ^ a.2 + c.1 * (2 : ℚ) ^ c.2) ∧
      (sum < twice ↔ a.1 * (2 : ℚ) ^ a.2 + c.1 * (2 : ℚ) ^ c.2 < 2 * (m * (2 : ℚ) ^ e)) := by
  intro b sum twice
  have hpos : (0 : ℚ) < (2 : ℚ) ^ b := by positivity
  have shifted : ∀ (x : Nat) (g : ℤ), b ≤ g → ((x <<< (g - b).toNat : ℕ) : ℚ) * (2 : ℚ) ^ b = x * (2 : ℚ) ^ g := fun x g hg => by
    rw [Nat.shiftLeft_eq]
    push_cast
    rw [mul_assoc, ← zpow_natCast, ← zpow_add₀ two_ne_zero, Int.toNat_of_nonneg (by omega), sub_add_cancel]
  have hsum : (sum : ℚ) * (2 : ℚ) ^ b = a.1 * (2 : ℚ) ^ a.2 + c.1 * (2 : ℚ) ^ c.2 := by
    simp only [sum]
    push_cast
    rw [add_mul, shifted _ _ (by omega), shifted _ _ (by omega)]
  have htwice : (twice : ℚ) * (2 : ℚ) ^ b = 2 * (m * (2 : ℚ) ^ e) := by
    simp only [twice]
    rw [shifted _ _ (by omega)]
    push_cast
    ring
  rw [← hsum, ← htwice, mul_lt_mul_iff_left₀ hpos, mul_lt_mul_iff_left₀ hpos]
  exact ⟨by norm_cast, by norm_cast⟩

/-- A finite number is converted to LNS6 as R202 says. -/
theorem toLns_rounds {rm : Nat} (hrm : rm < 4) (n : Bool) (m : Nat) (e : ℤ) : ToLns6 rm (ratOf (.fin n m e)) (toLns rm (.fin n m e)) := by
  have hv : ratOf (.fin n m e) = signedQ n (m * (2 : ℚ) ^ e) := by cases n <;> simp [ratOf, signedQ]
  have h31 : lnsValue 31 = lnsQ 31 := rfl
  by_cases hm : m = 0
  · have h0 : ratOf (.fin n m e) = 0 := by rw [hm]; simp [ratOf]
    rw [h0, hm]
    exact ⟨fun _ => rfl, fun hbig => absurd hbig (by rw [abs_zero, h31]; exact not_lt.mpr (lnsQ_pos 31).le), fun hne => absurd rfl hne⟩
  have hx : 0 < (m : ℚ) * (2 : ℚ) ^ e := by
    have : (0 : ℚ) < m := by exact_mod_cast Nat.pos_of_ne_zero hm
    positivity
  rw [hv]
  by_cases hover : cmpMag m e (lnsMag 31).1 (lnsMag 31).2 = .gt
  · have hbig : lnsQ 31 < m * (2 : ℚ) ^ e := by rwa [cmpMag_eq, lnsMag_value, compare_gt_iff_gt] at hover
    have hr : toLns rm (.fin n m e) = (lnsCode n (some 31), fOF ||| fNX) := by simp only [toLns, if_neg hm, if_pos hover]
    have habs : |signedQ n ((m : ℚ) * (2 : ℚ) ^ e)| = m * (2 : ℚ) ^ e := abs_signedQ n hx.le
    rw [hr]
    refine ⟨fun h0 => ?_, fun _ => ?_, fun _ hle => absurd hle (by rw [habs, h31]; exact not_le.mpr hbig)⟩
    · rw [h0, abs_zero] at habs
      exact absurd habs hx.ne
    · have hneg : signedQ n ((m : ℚ) * (2 : ℚ) ^ e) < 0 ↔ n = true := by
        cases n
        · simpa [signedQ] using hx.le
        · simpa [signedQ] using hx
      simp only [hneg, lnsCode]
  · have hle : (m : ℚ) * (2 : ℚ) ^ e ≤ lnsQ 31 := by
      rw [cmpMag_eq, lnsMag_value, compare_gt_iff_gt] at hover
      exact not_lt.mp hover
    obtain ⟨hsome, -⟩ := lnsBelow_spec m e (if n then 1 else 0) 31
    by_cases hex : ∃ k, lnsBelow m e (if n then 1 else 0) 31 = some k ∧ lnsQ k = m * (2 : ℚ) ^ e
    · obtain ⟨k, hk, heq⟩ := hex
      obtain ⟨h1, h2, -⟩ := hsome k hk
      have hcmp : cmpMag (lnsMag k).1 (lnsMag k).2 m e = .eq := by rw [cmpMag_eq, lnsMag_value, compare_eq_iff_eq, heq]
      have hr : toLns rm (.fin n m e) = (lnsCode n (some k), 0) := by simp only [toLns, if_neg hm, if_neg hover, hk, hcmp]; rfl
      rw [hr, ← heq]
      exact toLns6_exact (by omega) (fun hn => by rw [if_pos hn] at h1; exact h1) rm
    · have hb := between_of_below hm hle fun k hk heq => hex ⟨k, hk, heq⟩
      cases hd : lnsBelow m e (if n then 1 else 0) 31 with
      | none =>
        rw [hd] at hb
        obtain ⟨hlt, hgt⟩ := doubled_iff m e (0, 0) (lnsMag (lnsNext n none))
        have hr := hb.rounds hrm (hlt.trans (by simp [lnsSize, lnsMag_value])) (hgt.trans (by simp [lnsSize, lnsMag_value]))
        rw [show toLns rm (.fin n m e) = _ by simp only [toLns, if_neg hm, if_neg hover, hd]; rfl]
        exact hr
      | some k =>
        rw [hd] at hb
        obtain ⟨hlt, hgt⟩ := doubled_iff m e (lnsMag k) (lnsMag (lnsNext n (some k)))
        have hr := hb.rounds hrm (hlt.trans (by simp [lnsSize, lnsMag_value])) (hgt.trans (by simp [lnsSize, lnsMag_value]))
        have hcmp : (cmpMag (lnsMag k).1 (lnsMag k).2 m e == .eq) = false := by
          rw [beq_eq_false_iff_ne, cmpMag_eq, lnsMag_value, Ne, compare_eq_iff_eq]
          exact fun heq => hex ⟨k, hd, heq⟩
        rw [show toLns rm (.fin n m e) = _ by simp only [toLns, if_neg hm, if_neg hover, hd, Option.isSome_some, hcmp, Bool.and_false]; rfl]
        exact hr

/-! ### The types of R33 -/

theorem signedTy_iff {ty : Nat} (h : ty < 8) : signedTy ty = decide (ty ∉ [1, 3, 5, 7]) := by interval_cases ty <;> rfl
theorem isIntTy_iff (ty : Nat) : isIntTy ty = true ↔ ty < 8 := by simp [isIntTy]; omega
theorem isIntTy_of_lt {ty : Nat} (h : ty < 8) : isIntTy ty = true := (isIntTy_iff ty).mpr h
theorem isIntTy_of_ge {ty : Nat} (h : 8 ≤ ty) : isIntTy ty = false := by rw [Bool.eq_false_iff, Ne, isIntTy_iff]; omega

/-- The format of a floating type. -/
theorem tyFmt_eq (ty : Nat) (h : 8 ≤ ty ∧ ty ≤ 11) :
    tyFmt ty = if ty = 8 then f32 else if ty = 9 then f16 else if ty = 10 then bf16 else f64 := by
  obtain ⟨h1, h2⟩ := h
  interval_cases ty <;> rfl
theorem tyFmt_real (ty : Nat) : RealFmt (tyFmt ty) := by
  unfold tyFmt
  split
  · exact .of_mem (by simp)
  · split
    · exact .of_mem (by simp)
    · split <;> exact .of_mem (by simp)
theorem tyFmt_bits {ty : Nat} (h : 8 ≤ ty ∧ ty ≤ 11) : (tyFmt ty).ebits + (tyFmt ty).fbits + 1 = tyBits ty := by
  obtain ⟨h1, h2⟩ := h
  interval_cases ty <;> rfl

/-- A value of an integer type, from its low bits. -/
theorem intOf_eq {src : Nat} (h : src < 8) (bits : Nat) :
    intOf src bits = if src ∈ [1, 3, 5, 7] ∨ bits % 2 ^ tyBits src < 2 ^ (tyBits src - 1) then ((bits % 2 ^ tyBits src : ℕ) : ℤ)
      else ((bits % 2 ^ tyBits src : ℕ) : ℤ) - 2 ^ tyBits src := by
  unfold intOf
  rw [signedTy_iff h]
  by_cases hs : src ∈ [1, 3, 5, 7]
  · rw [if_neg (by simp only [hs, not_true_eq_false, decide_false, Bool.false_eq_true, false_and, not_false_eq_true]), if_pos (.inl hs)]
  · by_cases hlt : bits % 2 ^ tyBits src < 2 ^ (tyBits src - 1)
    · rw [if_neg (fun hh => absurd hh.2 (not_le.mpr hlt)), if_pos (.inr hlt)]
    · rw [if_pos ⟨by simp only [hs, not_false_eq_true, decide_true], not_lt.mp hlt⟩, if_neg (by tauto)]

/-- The bits of an integer, modulo `2^w`. -/
theorem toNat_ofInt_pow (w : Nat) (k : ℤ) : (BitVec.ofInt w k).toNat = (k % 2 ^ w).toNat := by
  rw [BitVec.toNat_ofInt]; push_cast; rfl

/-- A number to an integer type (R198): rounded by the mode, and clamped with IV. -/
theorem fToInt_rounds {rm : Nat} (hrm : rm < 4) (w : Nat) (sg neg : Bool) (m : Nat) (e : ℤ) :
    ∃ y : ℤ, let v := ratOf (.fin neg m e)
      (rm = 0 → |(y : ℚ) - v| ≤ 1 / 2 ∧ (|(y : ℚ) - v| = 1 / 2 → y % 2 = 0)) ∧ (rm = 1 → |(y : ℚ)| ≤ |v| ∧ |v| < |(y : ℚ)| + 1 ∧ 0 ≤ y * v) ∧
      (rm = 2 → y ≤ v ∧ v < y + 1) ∧ (rm = 3 → v ≤ y ∧ y < v + 1) ∧
      fToInt w sg rm (.fin neg m e) = if y < intMin w sg then (intMin w sg, fIV) else if intMax w sg < y then (intMax w sg, fIV)
        else (y, if (y : ℚ) = v then 0 else fNX) := by
  obtain ⟨h0, h1, h2, h3, hex⟩ := roundInt_rounds hrm neg m e
  refine ⟨(roundInt rm neg m e).1, h0, h1, h2, h3, ?_⟩
  unfold fToInt
  dsimp only
  by_cases hexact : (roundInt rm neg m e).2 = true
  · rw [if_neg (hex.mp hexact), hexact]; rfl
  · have hno : (roundInt rm neg m e).2 = false := by simpa using hexact
    rw [if_pos (not_not.mp fun hne => hexact (hex.mpr hne)), hno]; rfl

/-! ### The bits of a conversion fit its type -/

theorem canonNaN_lt {ty : Nat} (h : 8 ≤ ty ∧ ty ≤ 11) : (tyFmt ty).canonNaN < 2 ^ tyBits ty := by
  obtain ⟨h1, h2⟩ := h
  interval_cases ty <;> decide
theorem infBits_lt {ty : Nat} (h : 8 ≤ ty ∧ ty ≤ 11) (n : Bool) : (tyFmt ty).infBits n < 2 ^ tyBits ty := by
  obtain ⟨h1, h2⟩ := h
  interval_cases ty <;> cases n <;> decide

theorem roundVal_lt {ty : Nat} (h : 8 ≤ ty ∧ ty ≤ 11) (rm : Nat) (x : FVal) : (roundVal (tyFmt ty) rm x).1 < 2 ^ tyBits ty := by
  cases x with
  | nan s => exact canonNaN_lt h
  | inf n => exact infBits_lt h n
  | fin n m e => rw [← tyFmt_bits h]; exact roundTo_lt _ _ _ _ _ _

theorem toLns_lt (rm : Nat) (hrm : rm < 4) (x : FVal) : (toLns rm x).1 < 64 := by
  cases x with
  | nan s => exact (by decide : 0x20 < 64)
  | inf n => exact (by cases n <;> decide : lnsCode n (some 31) < 64)
  | fin n m e =>
    obtain ⟨h0, h1, h2⟩ := toLns_rounds hrm n m e
    by_cases hz : ratOf (.fin n m e) = 0
    · rw [h0 hz]; decide
    · rcases lt_or_ge (lnsValue 31) |ratOf (.fin n m e)| with hb | hb
      · rw [h1 hb]; split <;> decide
      · exact (h2 hz hb).1

theorem convert_lt {dst src : Nat} (hd : dst < 13) {rm : Nat} (hrm : rm < 4) (bits : Nat) (h12 : dst ≠ 12) :
    (convert dst src rm bits).1 < 2 ^ tyBits dst := by
  by_cases hdi : dst < 8
  · have hi := isIntTy_of_lt hdi
    simp only [convert, hi, if_true]
    split <;> exact BitVec.isLt _
  · have hf : 8 ≤ dst ∧ dst ≤ 11 := by omega
    have hi := isIntTy_of_ge hf.1
    simp only [convert, hi, Bool.false_eq_true, if_false, if_neg h12]
    split
    · exact roundVal_lt hf rm _
    · split
      · exact canonNaN_lt hf
      · split
        · next heq => rw [heq]; exact Nat.mod_lt _ (by positivity)
        · exact roundVal_lt hf rm _

theorem convert_lns_lt {src : Nat} {rm : Nat} (hrm : rm < 4) (bits : Nat) : (convert 12 src rm bits).1 < 64 := by
  have hi : isIntTy 12 = false := rfl
  simp only [convert, hi, Bool.false_eq_true, if_false, if_true]
  split
  · exact toLns_lt rm hrm _
  · split
    · exact Nat.mod_lt _ (by decide)
    · exact toLns_lt rm hrm _

/-- The register form of a result (R240): a narrow signed integer with its sign, all else with zeros. -/
theorem regForm_signed {dst : Nat} (hd : dst = 4 ∨ dst = 6) (x : Nat) :
    regForm dst x = ((BitVec.ofNat (tyBits dst) x).signExtend 32).toNat := by
  have key : intOf dst x = (BitVec.ofNat (tyBits dst) x).toInt := by
    rw [intOf_eq (by omega), BitVec.toInt_eq_toNat_cond, BitVec.toNat_ofNat]
    rcases hd with rfl | rfl
    · simp only [tyBits]
      have hx : x % 2 ^ 16 < 2 ^ 16 := Nat.mod_lt _ (by decide)
      split <;> split <;> simp_all <;> omega
    · simp only [tyBits]
      have hx : x % 2 ^ 8 < 2 ^ 8 := Nat.mod_lt _ (by decide)
      split <;> split <;> simp_all <;> omega
  rw [BitVec.signExtend, ← key]
  rcases hd with rfl | rfl <;> rfl

theorem regForm_self {dst : Nat} (hd : dst < 13) (h4 : dst ≠ 4) (h6 : dst ≠ 6) {x : Nat} (hx : x < if dst = 12 then 64 else 2 ^ tyBits dst) :
    regForm dst x = x := by
  by_cases h12 : dst = 12
  · subst h12; exact Nat.mod_eq_of_lt hx
  · rw [if_neg h12] at hx
    have narrow : (isIntTy dst && signedTy dst && decide (tyBits dst < 32)) = false := by interval_cases dst <;> first | rfl | omega
    simp only [regForm, if_neg h12, narrow, Bool.false_eq_true, if_false]
    exact Nat.mod_eq_of_lt hx

/-! ### A conversion by the kinds of its types (R198) -/

section
variable {dst src rm bits : Nat}

theorem convert_int_int (hs : src < 8) (hd : dst < 8) :
    convert dst src rm bits = ((BitVec.ofInt (tyBits dst) (intOf src bits)).toNat, 0) := by
  simp only [convert, isIntTy_of_lt hs, isIntTy_of_lt hd, if_true]
theorem convert_int_float (hs : src < 8) (hd : 8 ≤ dst ∧ dst ≤ 11) :
    convert dst src rm bits = roundVal (tyFmt dst) rm (intVal (intOf src bits)) := by
  simp only [convert, isIntTy_of_lt hs, isIntTy_of_ge hd.1, if_true, Bool.false_eq_true, if_false, if_neg (by omega : ¬dst = 12)]
theorem convert_int_lns (hs : src < 8) : convert 12 src rm bits = toLns rm (intVal (intOf src bits)) := by
  have h12 : isIntTy 12 = false := rfl
  simp only [convert, isIntTy_of_lt hs, h12, if_true, Bool.false_eq_true, if_false]
theorem convert_to_int (hs : 8 ≤ src) (hd : dst < 8) :
    convert dst src rm bits = ((BitVec.ofInt (tyBits dst) (fToInt (tyBits dst) (signedTy dst) rm (fvalOf src bits)).1).toNat,
      (fToInt (tyBits dst) (signedTy dst) rm (fvalOf src bits)).2) := by
  simp only [convert, isIntTy_of_ge hs, isIntTy_of_lt hd, if_true, Bool.false_eq_true, if_false]
theorem convert_to_lns (hs : 8 ≤ src) (h12 : src ≠ 12) : convert 12 src rm bits = toLns rm (fvalOf src bits) := by
  have h : isIntTy 12 = false := rfl
  simp only [convert, isIntTy_of_ge hs, h, if_true, Bool.false_eq_true, if_false, if_neg h12]
theorem convert_to_float (hs : 8 ≤ src) (hd : 8 ≤ dst ∧ dst ≤ 11) :
    convert dst src rm bits = if (fvalOf src bits).isNaN then nanOut (tyFmt dst) (fvalOf src bits).isSNaN
      else if dst = src then (bits % 2 ^ tyBits src, 0) else roundVal (tyFmt dst) rm (fvalOf src bits) := by
  simp only [convert, isIntTy_of_ge hs, isIntTy_of_ge hd.1, Bool.false_eq_true, if_false, if_neg (by omega : ¬dst = 12)]

/-- A finite number to an integer type: rounded, and clamped with IV, as bits. -/
theorem convert_clamped (hs : 8 ≤ src) (hd : dst < 8) (hrm : rm < 4) {neg : Bool} {m : Nat} {e : ℤ} (hx : fvalOf src bits = .fin neg m e) :
    ∃ y : ℤ, let v := ratOf (.fin neg m e)
      (rm = 0 → |(y : ℚ) - v| ≤ 1 / 2 ∧ (|(y : ℚ) - v| = 1 / 2 → y % 2 = 0)) ∧ (rm = 1 → |(y : ℚ)| ≤ |v| ∧ |v| < |(y : ℚ)| + 1 ∧ 0 ≤ y * v) ∧
      (rm = 2 → y ≤ v ∧ v < y + 1) ∧ (rm = 3 → v ≤ y ∧ y < v + 1) ∧
      convert dst src rm bits = if y < intMin (tyBits dst) (signedTy dst) then ((intMin (tyBits dst) (signedTy dst) % 2 ^ tyBits dst).toNat, fIV)
        else if intMax (tyBits dst) (signedTy dst) < y then ((intMax (tyBits dst) (signedTy dst) % 2 ^ tyBits dst).toNat, fIV)
        else ((y % 2 ^ tyBits dst).toNat, if (y : ℚ) = v then 0 else fNX) := by
  obtain ⟨y, h0, h1, h2, h3, hval⟩ := fToInt_rounds hrm (tyBits dst) (signedTy dst) neg m e
  refine ⟨y, h0, h1, h2, h3, ?_⟩
  rw [convert_to_int hs hd, hx, hval]
  split
  · rw [toNat_ofInt_pow]
  · split <;> rw [toNat_ofInt_pow]

end

theorem intMin_eq {dst : Nat} (h : dst < 8) (w : Nat) : intMin w (signedTy dst) = if dst ∈ [1, 3, 5, 7] then 0 else -2 ^ (w - 1) := by
  rw [intMin, signedTy_iff h]
  by_cases hm : dst ∈ [1, 3, 5, 7]
  · rw [if_pos hm, if_neg (by simp only [hm, not_true_eq_false, decide_false, Bool.false_eq_true, not_false_eq_true])]
  · rw [if_neg hm, if_pos (by simp only [hm, not_false_eq_true, decide_true])]
theorem intMax_eq {dst : Nat} (h : dst < 8) (w : Nat) : intMax w (signedTy dst) = if dst ∈ [1, 3, 5, 7] then 2 ^ w - 1 else 2 ^ (w - 1) - 1 := by
  rw [intMax, signedTy_iff h]
  by_cases hm : dst ∈ [1, 3, 5, 7]
  · rw [if_pos hm, if_neg (by simp only [hm, not_true_eq_false, decide_false, Bool.false_eq_true, not_false_eq_true])]
  · rw [if_neg hm, if_pos (by simp only [hm, not_false_eq_true, decide_true])]

/-! ### The words (R237, R240 to R243) -/

theorem half_zero (w : Word32) : half w.toNat 0 = w.toNat % 65536 := by simp [half]
theorem half_one (w : Word32) : half w.toNat 1 = w.toNat / 65536 := by
  have := w.isLt
  simp only [half, mul_one]
  omega

/-- A word that writes 32 bits with flags in its lanes. -/
theorem putF_word {s : State} {e : Env} (h : env? s = some e) {i : Instr} {o : OpF} {f : Env → Nat → LaneWrite}
    (hi : exec i s = laneFixed o f s) (hrb : rbOf i = o.rb) {r : Nat → Nat × Flags} {t : Nat → Bool}
    (hf : ∀ L, f e L = e.putF L o.d (r L) (t L)) : FloatWord s e i o r t :=
  fixed_word h hi hrb fun L => .inl ⟨o.d, ⟨BitVec.ofNat 32 (r L).1, t L⟩, by rw [hf L]; rfl, fun _ => rfl⟩

/-- A word that writes 64 bits with flags in its lanes. -/
theorem putD_word {s : State} {e : Env} (h : env? s = some e) {i : Instr} {o : OpF} {f : Env → Nat → LaneWrite}
    (hi : exec i s = laneFixed o f s) (hrb : rbOf i = o.rb) {r : Nat → Nat × Flags} {t : Nat → Bool}
    (hf : ∀ L, f e L = e.putD L o.d (r L) (t L)) : DoubleWord s e i o r t :=
  fixed_word h hi hrb fun L => .inr ⟨o.d, ⟨BitVec.ofNat 64 (r L).1, t L⟩, by rw [hf L]; rfl, fun _ => rfl⟩

/-- Settles O10: the words by the laws of their shapes; the conversions by `roundTo_ratOf`, `fToInt_rounds` and `toLns_rounds`. -/
theorem packedAndConversionResults : Obligations.PackedAndConversionResults := by
  refine ⟨fun s e o h => ?words, rfl, fun dst src rm bits hd hs hrm => ?conv⟩
  case words =>
    intro f lo hi both
    refine ⟨putF_word h (exec_hadd2 o s) rfl fun L => ?_, putF_word h (exec_hmul2 o s) rfl fun L => ?_,
      putF_word h (exec_hfma2 o s) rfl fun L => ?_, fun hw => putF_word h (exec_cvt o s) rfl fun L => if_neg (by rw [hw]; decide),
      fun hw => putD_word h (exec_cvt o s) rfl fun L => if_pos hw, fun hw => putF_word h (exec_pack o s) rfl fun L => if_pos hw,
      fun hw => putF_word h (exec_pack o s) rfl fun L => (if_neg hw).trans ?_, putF_word h (exec_unpack o s) rfl fun L => rfl⟩
    · simp only [f32op2, halves, half_zero, half_one]; rfl
    · simp only [f32op2, halves, half_zero, half_one]; rfl
    · simp only [f32op3, halves, half_zero, half_one]; rfl
    · simp only [half_zero, half_one]; rfl
  case conv =>
    intro r float f g x natural w n i lo hi code lns toFloat toInt toL6
    have hf : float dst → tyFmt dst = f := tyFmt_eq dst
    have hi' : src < 8 → intOf src bits = i := fun h => intOf_eq h bits
    have hlo : dst < 8 → intMin w (signedTy dst) = lo := fun h => intMin_eq h w
    have hhi : dst < 8 → intMax w (signedTy dst) = hi := fun h => intMax_eq h w
    have hlns : ∀ c, c < 64 → lns c = lnsValue c := fun c hc => (lnsValue_eq hc).symm
    have toL6_of : ∀ v, ToLns6 rm v r → toL6 v := by
      rintro v ⟨h0, hbig, hin⟩
      refine ⟨h0, by rw [hlns 31 (by decide)]; exact hbig, fun hne hle => ?_⟩
      rw [hlns 31 (by decide)] at hle
      obtain ⟨hlt, hfl, hc⟩ := hin hne hle
      refine ⟨hlt, by rw [hlns _ hlt]; exact hfl, fun c hc' => ?_⟩
      rw [hlns _ hlt, hlns _ hc']
      exact hc c hc'
    have toFloat_of : ∀ neg m e, float dst → r = roundTo f rm neg m e false → toFloat (ratOf (.fin neg m e)) := by
      intro neg m e hfl hr hne
      rw [hr, ← hf hfl]
      exact roundTo_ratOf (tyFmt_real dst) hrm (ratOf_ne_zero hne) e
    have toInt_of : 8 ≤ src → dst < 8 → ∀ neg m e, fvalOf src bits = .fin neg m e → toInt (ratOf (.fin neg m e)) := by
      intro h8 hd8 neg m e hx
      obtain ⟨y, h0, h1, h2, h3, hval⟩ := convert_clamped h8 hd8 hrm hx
      exact ⟨y, h0, h1, h2, h3, by rw [← hlo hd8, ← hhi hd8]; exact hval⟩
    have hfin : ∀ neg m e, float dst → fvalOf src bits = .fin neg m e → 8 ≤ src → dst ≠ src → r = roundTo f rm neg m e false := by
      intro neg m e hfl hx h8 hne
      have hr := convert_to_float (rm := rm) (bits := bits) h8 hfl
      rw [hx, if_neg (by simp [FVal.isNaN]), if_neg hne, hf hfl] at hr
      exact hr
    refine ⟨fun h1 h2 => ?_, fun h1 h2 => ?_, fun h1 h2 => ?_, fun h1 => ?_, fun h1 => ?_, rfl, fun h => ?_, fun h4 h6 => ?_⟩
    · show convert dst src rm bits = _
      rw [convert_int_int h1 h2, toNat_ofInt_pow, hi' h1]
    · have hr : r = roundTo f rm (decide (i < 0)) i.natAbs 0 false := by
        show convert dst src rm bits = _
        rw [convert_int_float h1 h2, hi' h1, hf h2]; rfl
      refine ⟨fun h0 => by rw [hr, h0]; rfl, ?_⟩
      have hfl := toFloat_of _ _ _ h2 hr
      rwa [show ratOf (.fin (decide (i < 0)) i.natAbs 0) = i from ratOf_intVal i] at hfl
    · refine toL6_of i ?_
      have hr : r = toLns rm (intVal i) := by
        show convert dst src rm bits = _
        rw [h2, convert_int_lns h1, hi' h1]
      rw [hr, ← ratOf_intVal i]
      exact toLns_rounds hrm _ _ _
    · have h8 : 8 ≤ src := h1.1
      have h12 : src ≠ 12 := fun h => absurd h1.2 (by omega)
      have hx : fvalOf src bits = x := by
        show fvalOf src bits = unpackF g _
        rw [fvalOf, if_neg h12, tyFmt_eq src h1]
      refine ⟨?nan, ?same, ?inf, ?fin⟩
      case nan =>
        intro sg hsg iv
        have hv := hx.trans hsg
        refine ⟨fun hd => ?_, fun hd => ?_, fun hd => ?_⟩
        · show convert dst src rm bits = _
          rw [convert_to_float h8 hd, hv, hf hd]; rfl
        · show convert dst src rm bits = _
          rw [convert_to_int h8 hd, hv]; simp [fToInt]
        · show convert dst src rm bits = _
          rw [hd, convert_to_lns h8 h12, hv]; rfl
      case same =>
        intro hnan heq
        show convert dst src rm bits = _
        rw [convert_to_float h8 (heq ▸ h1), hx, if_neg (by rw [hnan]; decide), if_pos heq]
      case inf =>
        intro neg hinf hne
        have hv := hx.trans hinf
        refine ⟨fun hd => ?_, fun hd => ?_, fun hd => ?_⟩
        · show convert dst src rm bits = _
          rw [convert_to_float h8 hd, hv, if_neg (by simp [FVal.isNaN]), if_neg hne, hf hd]; rfl
        · show convert dst src rm bits = _
          rw [convert_to_int h8 hd, hv]
          simp only [fToInt, toNat_ofInt_pow]
          rw [hlo hd, hhi hd]
        · show convert dst src rm bits = _
          rw [hd, convert_to_lns h8 h12, hv]
          cases neg <;> rfl
      case fin =>
        intro neg m e hfv hne
        have hv := hx.trans hfv
        rw [hfv]
        refine ⟨fun hd => ⟨fun h0 => ?_, toFloat_of neg m e hd (hfin neg m e hd hv h8 hne)⟩, fun hd => toInt_of h8 hd neg m e hv,
          fun hd => toL6_of _ ?_⟩
        · rw [hfin neg m e hd hv h8 hne, h0, roundTo_zero]
        · have hr : r = toLns rm (.fin neg m e) := by
            show convert dst src rm bits = _
            rw [hd, convert_to_lns h8 h12, hv]
          rw [hr]; exact toLns_rounds hrm _ _ _
    · have h8 : 8 ≤ src := by omega
      have hc : bits % 64 < 64 := Nat.mod_lt _ (by decide)
      intro v
      have hv : v = ratOf (lnsVal bits) := by
        rw [show lnsVal bits = lnsVal (bits % 64) by
          simp only [lnsVal, Nat.mod_mod, show bits % 64 % 4 = bits % 4 by omega, show bits % 64 % 32 = bits % 32 by omega], ratOf_lnsVal hc]
        exact hlns _ hc
      obtain ⟨neg, m, e, hx⟩ : ∃ neg m e, lnsVal bits = .fin neg m e := by
        unfold lnsVal
        split <;> exact ⟨_, _, _, rfl⟩
      have hfv : fvalOf src bits = .fin neg m e := by rw [fvalOf, if_pos h1, hx]
      rw [hv, hx]
      refine ⟨fun hd => ?_, fun hd => toInt_of h8 hd neg m e hfv, fun hd => ?_⟩
      · have hne : dst ≠ src := fun h => absurd hd.2 (by omega)
        have hr := hfin neg m e hd hfv h8 hne
        refine ⟨fun h0 => ?_, toFloat_of neg m e hd hr⟩
        obtain ⟨rfl, rfl⟩ := lnsVal_zero hx h0
        rw [hr, roundTo_zero]; rfl
      · show convert dst src rm bits = _
        subst hd; subst h1
        have h : isIntTy 12 = false := rfl
        simp only [convert, h, Bool.false_eq_true, if_false, if_true]
    · show regForm dst r.1 = _
      exact regForm_signed h _
    · refine regForm_self hd h4 h6 ?_
      split
      · next h12 => subst h12; exact convert_lns_lt hrm bits
      · next h12 => exact convert_lt hd hrm bits h12

end Sys2Proof.Machine
end

section
/-!
PROOF. Sums, differences, products and multiply-adds of points (10 R257): an exact number rounded to 64 bits and then to binary32, both times in
one direction, is the number rounded once.
-/
namespace Sys2Proof.Machine
open Sys2Proof

/-! ### Rounding twice in one direction -/

/-- The number of units that a directed mode picks, from the number in units `J` times as small, rounded the same way. -/
theorem Picks.twice {rm : Nat} (hrm : rm = 2 ∨ rm = 3) {neg : Bool} {y w y' J : Nat} {a : ℝ} (hJ : 0 < J) (hy : Picks rm neg y a)
    (hw : Picks rm neg w (a * J)) (hy' : Picks rm neg y' ((w : ℝ) / J)) : y' = y := by
  have hJ' : (0 : ℝ) < J := by exact_mod_cast hJ
  have hup : ((rm = 2 ∧ neg = true) ∨ (rm = 3 ∧ neg = false)) ∨ (rm = 1 ∨ (rm = 2 ∧ neg = false) ∨ (rm = 3 ∧ neg = true)) := by
    rcases hrm with rfl | rfl <;> cases neg <;> simp
  rcases hup with h | h
  · obtain ⟨y1, y2⟩ := hy.up h
    obtain ⟨w1, w2⟩ := hw.up h
    obtain ⟨z1, z2⟩ := hy'.up h
    have hwy : w ≤ y * J := by
      have h1 : a * J ≤ y * J := mul_le_mul_of_nonneg_right y1 hJ'.le
      have h2 : (w : ℝ) < (y * J + 1 : ℕ) := by push_cast; linarith
      have : w < y * J + 1 := by exact_mod_cast h2
      omega
    have a1 : (w : ℝ) / J ≤ y := by rw [div_le_iff₀ hJ']; exact_mod_cast hwy
    have a2 : a ≤ (w : ℝ) / J := by rw [le_div_iff₀ hJ']; exact w1
    have l1 : (y' : ℝ) < (y + 1 : ℕ) := by push_cast; linarith
    have l2 : (y : ℝ) < (y' + 1 : ℕ) := by push_cast; linarith
    have l1' : y' < y + 1 := by exact_mod_cast l1
    have l2' : y < y' + 1 := by exact_mod_cast l2
    omega
  · obtain ⟨y1, y2⟩ := hy.down h
    obtain ⟨w1, w2⟩ := hw.down h
    obtain ⟨z1, z2⟩ := hy'.down h
    have hwy : y * J ≤ w := by
      have h1 : (y : ℝ) * J ≤ a * J := mul_le_mul_of_nonneg_right y1 hJ'.le
      have h2 : ((y * J : ℕ) : ℝ) < (w + 1 : ℕ) := by push_cast; linarith
      have : y * J < w + 1 := by exact_mod_cast h2
      omega
    have a1 : (y : ℝ) ≤ (w : ℝ) / J := by rw [le_div_iff₀ hJ']; exact_mod_cast hwy
    have a2 : (w : ℝ) / J ≤ a := by rw [div_le_iff₀ hJ']; exact w1
    have l1 : (y : ℝ) < (y' + 1 : ℕ) := by push_cast; linarith
    have l2 : (y' : ℝ) < (y + 1 : ℕ) := by push_cast; linarith
    have l1' : y < y' + 1 := by exact_mod_cast l1
    have l2' : y' < y + 1 := by exact_mod_cast l2
    omega

/-- A directed mode keeps an integer. -/
theorem Picks.integer {rm : Nat} (hrm : rm = 2 ∨ rm = 3) {neg : Bool} {y k : Nat} (hy : Picks rm neg y k) : y = k := by
  have hup : ((rm = 2 ∧ neg = true) ∨ (rm = 3 ∧ neg = false)) ∨ (rm = 1 ∨ (rm = 2 ∧ neg = false) ∨ (rm = 3 ∧ neg = true)) := by
    rcases hrm with rfl | rfl <;> cases neg <;> simp
  rcases hup with h | h
  · obtain ⟨y1, y2⟩ := hy.up h
    have h1 : k ≤ y := by exact_mod_cast y1
    have h2 : y < k + 1 := by exact_mod_cast y2
    omega
  · obtain ⟨y1, y2⟩ := hy.down h
    have h1 : y ≤ k := by exact_mod_cast y1
    have h2 : k < y + 1 := by exact_mod_cast y2
    omega

theorem Picks.self (rm : Nat) (neg : Bool) (k : Nat) (hrm : rm = 2 ∨ rm = 3) : Picks rm neg k k :=
  ⟨fun h => by omega, fun _ => ⟨le_refl _, lt_add_one _⟩, fun _ => ⟨le_refl _, lt_add_one _⟩⟩

/-- A directed mode keeps a number between powers of two between them. -/
theorem Picks.range {rm : Nat} (hrm : rm = 2 ∨ rm = 3) {neg : Bool} {w p : Nat} {a : ℝ} (hw : Picks rm neg w a) (hlo : (2 : ℝ) ^ p ≤ a)
    (hhi : a < (2 : ℝ) ^ (p + 1)) : 2 ^ p ≤ w ∧ w ≤ 2 ^ (p + 1) := by
  have hup : ((rm = 2 ∧ neg = true) ∨ (rm = 3 ∧ neg = false)) ∨ (rm = 1 ∨ (rm = 2 ∧ neg = false) ∨ (rm = 3 ∧ neg = true)) := by
    rcases hrm with rfl | rfl <;> cases neg <;> simp
  rcases hup with h | h
  · obtain ⟨w1, w2⟩ := hw.up h
    have h1 : ((2 ^ p : ℕ) : ℝ) ≤ w := by push_cast; linarith
    have h2 : (w : ℝ) < (2 ^ (p + 1) + 1 : ℕ) := by push_cast; linarith
    have h2' : w < 2 ^ (p + 1) + 1 := by exact_mod_cast h2
    exact ⟨by exact_mod_cast h1, by omega⟩
  · obtain ⟨w1, w2⟩ := hw.down h
    have h1 : ((2 ^ p : ℕ) : ℝ) < (w + 1 : ℕ) := by push_cast; linarith
    have h2 : (w : ℝ) < (2 ^ (p + 1) : ℕ) := by push_cast; linarith
    have h1' : 2 ^ p < w + 1 := by exact_mod_cast h1
    have h2' : w < 2 ^ (p + 1) := by exact_mod_cast h2
    omega

/-- The multiple that `roundTo` picks, in units of the spacing of its number. -/
theorem roundY_picks (f : FloatFmt) (rm : Nat) (neg : Bool) (m : Nat) (e : ℤ) :
    Picks rm neg (roundY f rm neg m e false) ((m : ℝ) * (2 : ℝ) ^ (e - roundQ f m e)) := by
  have h := stepUp_picks (y := roundFloor f m e) ((Tail.none f m).parts e) rm neg
  have hval := magnitude_eq (e := e) (Tail.none f m)
  have hpos : (0 : ℝ) < (2 : ℝ) ^ roundQ f m e := by positivity
  have : (m : ℝ) * (2 : ℝ) ^ (e - roundQ f m e) = roundFloor f m e + roundFrac f m e 0 := by
    rw [zpow_sub₀ two_ne_zero, ← mul_div_assoc, div_eq_iff hpos.ne', ← hval, add_zero]
  rw [this]
  exact h

/-- The bits of a number rounded in a direction are those of the number first rounded in the same direction to `p` bits, at least one more
than the format has. -/
theorem encode_twice {f : FloatFmt} {rm : Nat} (hrm : rm = 2 ∨ rm = 3) {neg : Bool} {m w p : Nat} {e g : ℤ} (hm : m ≠ 0)
    (hp : f.fbits < p) (hg : g = (m.log2 : ℤ) + e - p) (hw : Picks rm neg w ((m : ℝ) * (2 : ℝ) ^ (e - g))) :
    encode f rm neg (roundQ f w g) (roundY f rm neg w g false) = encode f rm neg (roundQ f m e) (roundY f rm neg m e false) := by
  obtain ⟨l1, l2⟩ := magnitude_bounds (e := e - g) (Tail.none f m) hm
  rw [add_zero] at l1 l2
  rw [show (m.log2 : ℤ) + (e - g) = (p : ℤ) by rw [hg]; ring, zpow_natCast] at l1
  rw [show (m.log2 : ℤ) + (e - g) + 1 = ((p + 1 : ℕ) : ℤ) by rw [hg]; push_cast; ring, zpow_natCast] at l2
  obtain ⟨w1, w2⟩ := hw.range hrm l1 l2
  obtain ⟨j, hj⟩ := Int.eq_ofNat_of_zero_le (by unfold roundQ; omega : 0 ≤ roundQ f m e - g)
  have hJ : 0 < 2 ^ j := by positivity
  have hpow : ∀ k : ℤ, (2 : ℝ) ^ (k - g) = (2 : ℝ) ^ (k - roundQ f m e) * ((2 ^ j : ℕ) : ℝ) := fun k => by
    push_cast
    rw [← zpow_natCast, ← zpow_add₀ two_ne_zero, ← hj]
    ring_nf
  have hw' : Picks rm neg w ((m : ℝ) * (2 : ℝ) ^ (e - roundQ f m e) * ((2 ^ j : ℕ) : ℝ)) := by rwa [mul_assoc, ← hpow]
  have hdiv : (w : ℝ) / ((2 ^ j : ℕ) : ℝ) = w * (2 : ℝ) ^ (g - roundQ f m e) := by
    have := hpow g
    rw [sub_self, zpow_zero] at this
    rw [div_eq_iff (by positivity), mul_assoc, ← this, mul_one]
  have hy := roundY_picks f rm neg m e
  have once : roundQ f w g = roundQ f m e →
      encode f rm neg (roundQ f w g) (roundY f rm neg w g false) = encode f rm neg (roundQ f m e) (roundY f rm neg m e false) := fun hq => by
    have hy' := roundY_picks f rm neg w g
    rw [hq, ← hdiv] at hy'
    rw [hq, hy.twice hrm hJ hw' hy']
  rcases Nat.lt_or_ge w (2 ^ (p + 1)) with hlt | hge
  · have hlog : w.log2 = p := by
      have hw0 : w ≠ 0 := by have : 0 < 2 ^ p := by positivity
                             omega
      exact (Nat.log2_eq_iff hw0).mpr ⟨w1, hlt⟩
    exact once (by unfold roundQ; rw [hlog, hg]; ring_nf)
  · obtain rfl : w = 2 ^ (p + 1) := le_antisymm w2 hge
    have hlog : (2 ^ (p + 1)).log2 = p + 1 := Nat.log2_two_pow
    by_cases hq : (m.log2 : ℤ) + e + 1 - f.fbits ≤ f.qmin
    · exact once (by unfold roundQ; rw [hlog, hg]; push_cast; omega)
    · have hQ : roundQ f m e = (m.log2 : ℤ) + e - f.fbits := by unfold roundQ; omega
      have hQ' : roundQ f (2 ^ (p + 1)) g = roundQ f m e + 1 := by rw [hQ]; unfold roundQ; rw [hlog, hg]; push_cast; omega
      have whole : ∀ k : ℤ, ∀ n : Nat, (p : ℤ) + 1 + g - k = n → ((2 ^ (p + 1) : ℕ) : ℝ) * (2 : ℝ) ^ (g - k) = ((2 ^ n : ℕ) : ℝ) := by
        intro k n hn
        push_cast
        rw [← zpow_natCast, ← zpow_natCast, ← zpow_add₀ two_ne_zero, ← hn]
        push_cast
        ring_nf
      have hy1 : roundY f rm neg m e false = 2 ^ (f.fbits + 1) := by
        have h1 : ((2 ^ (p + 1) : ℕ) : ℝ) / ((2 ^ j : ℕ) : ℝ) = ((2 ^ (f.fbits + 1) : ℕ) : ℝ) := by
          rw [hdiv]; exact whole _ _ (by rw [hQ, hg]; push_cast; ring)
        exact (hy.twice hrm hJ hw' (by rw [h1]; exact Picks.self rm neg _ hrm)).symm
      have hy2 : roundY f rm neg (2 ^ (p + 1)) g false = 2 ^ f.fbits := by
        have h2 := roundY_picks f rm neg (2 ^ (p + 1)) g
        rw [whole _ f.fbits (by rw [hQ', hQ, hg]; ring)] at h2
        exact h2.integer hrm
      have hmag : magBits f (roundQ f m e + 1) (2 ^ f.fbits) = magBits f (roundQ f m e) (2 ^ (f.fbits + 1)) := by
        unfold magBits
        rw [show (roundQ f m e + 1 - f.qmin).toNat = (roundQ f m e - f.qmin).toNat + 1 by omega]
        ring
      rw [hy1, hy2, hQ']
      unfold encode
      rw [hmag]

/-! ### An exact number as a binary32 bound (R257) -/

/-- The logarithm of an integer. -/
theorem quotLog_one {n : Nat} (hn : n ≠ 0) : quotLog n 1 = n.log2 := by
  have hlt : ¬ n < 1 <<< n.log2 := by rw [Nat.one_shiftLeft]; exact not_lt.mpr (Nat.log2_self_le hn)
  have h1 : Nat.log2 1 = 0 := rfl
  unfold quotLog
  simp [h1, hlt]

/-- The rounding mode of a bound. -/
def boundMode (up : Bool) : Nat := if up then 3 else 2

theorem boundMode_directed (up : Bool) : boundMode up = 2 ∨ boundMode up = 3 := by cases up <;> simp [boundMode]

theorem stepUp_bound (up neg : Bool) (y rem sh : Nat) :
    stepUp (boundMode up) neg y rem sh false = y + (if up != neg && decide (rem ≠ 0) then 1 else 0) := by
  unfold stepUp
  cases up <;> cases neg <;> by_cases h : rem = 0 <;> simp [boundMode, roundUp, h]

/-- An integer times a power of two, rounded to `p + 1` bits in a direction. -/
theorem Exact.round_int {num : ℤ} (e : ℤ) (hn : num ≠ 0) (p : Nat) (up : Bool) :
    ∃ w : Nat, Exact.round (p + 1) up { num := num, den := 1, e := e } =
      { num := if num < 0 then -(w : ℤ) else w, den := 1, e := (num.natAbs.log2 : ℤ) + e - p } ∧
      Picks (boundMode up) (decide (num < 0)) w (num.natAbs * (2 : ℝ) ^ (e - ((num.natAbs.log2 : ℤ) + e - p))) := by
  have hn' : num.natAbs ≠ 0 := by omega
  generalize hm : num.natAbs = m at *
  generalize hneg : decide (num < 0) = neg
  have hs : e - ((m.log2 : ℤ) + e - p) = p - m.log2 := by ring
  have hparts : ∃ x k : Nat, (if (0 : ℤ) ≤ p - m.log2 then m <<< (p - m.log2 : ℤ).toNat else m) = x ∧
      (if (0 : ℤ) ≤ p - m.log2 then 1 else 1 <<< (-(p - m.log2 : ℤ)).toNat) = 2 ^ k ∧ (m : ℝ) * (2 : ℝ) ^ (p - m.log2 : ℤ) = x / 2 ^ k := by
    by_cases h : (0 : ℤ) ≤ p - m.log2
    · obtain ⟨d, hd⟩ := Int.eq_ofNat_of_zero_le h
      refine ⟨_, 0, rfl, by rw [if_pos h, pow_zero], ?_⟩
      rw [if_pos h, hd, Int.toNat_natCast, Nat.shiftLeft_eq, zpow_natCast]
      push_cast
      simp
    · obtain ⟨d, hd⟩ := Int.eq_ofNat_of_zero_le (by omega : 0 ≤ -((p : ℤ) - m.log2))
      refine ⟨m, d, by rw [if_neg h], by rw [if_neg h, hd, Int.toNat_natCast, Nat.one_shiftLeft], ?_⟩
      rw [show ((p : ℤ) - m.log2) = -(d : ℤ) by omega, zpow_neg, zpow_natCast, div_eq_mul_inv]
  obtain ⟨x, k, hx, hy, hval⟩ := hparts
  have parts : Below (x % 2 ^ k) k 0 false := ⟨Nat.mod_lt _ (by positivity), le_refl 0, one_pos, by simp, by simp⟩
  refine ⟨stepUp (boundMode up) neg (x / 2 ^ k) (x % 2 ^ k) k false, ?_, ?_⟩
  · rw [stepUp_bound]
    have key : (p : ℤ) + 1 - 1 - m.log2 = p - m.log2 := by ring
    have hp1 : ((p + 1 : ℕ) : ℤ) - 1 - m.log2 = p - m.log2 := by push_cast; ring
    unfold Exact.round
    simp only [hm, if_neg hn', quotLog_one hn', hp1, hx, hy, hneg]
    rw [← hneg]
    simp only [decide_eq_true_eq]
    congr 1
    ring
  · have hdiv : (x : ℝ) / 2 ^ k = (x / 2 ^ k : ℕ) + fracOf (x % 2 ^ k) k 0 := by
      have h : (x : ℝ) = (x / 2 ^ k : ℕ) * (2 : ℝ) ^ k + (x % 2 ^ k : ℕ) := by exact_mod_cast (Nat.div_add_mod' x _).symm
      rw [fracOf, add_zero, div_eq_iff (by positivity), add_mul, div_mul_cancel₀ _ (by positivity)]
      exact h
    rw [hs, hval, hdiv]
    exact stepUp_picks parts _ neg

/-- The bits of an integer times a power of two as a bound: those of round_to in the direction of the bound. -/
theorem Exact.bits32_int {num : ℤ} (e : ℤ) (hn : num ≠ 0) (up : Bool) :
    Exact.bits32 up { num := num, den := 1, e := e } =
      BitVec.ofNat 32 (roundTo f32 (boundMode up) (decide (num < 0)) num.natAbs e false).1 := by
  obtain ⟨w, hr, hpick⟩ := Exact.round_int e hn 63 up
  have hn' : num.natAbs ≠ 0 := by omega
  obtain ⟨l1, l2⟩ := magnitude_bounds (e := e - ((num.natAbs.log2 : ℤ) + e - (63 : ℕ))) (Tail.none f32 num.natAbs) hn'
  rw [add_zero] at l1 l2
  rw [show (num.natAbs.log2 : ℤ) + (e - ((num.natAbs.log2 : ℤ) + e - (63 : ℕ))) = ((63 : ℕ) : ℤ) by ring, zpow_natCast] at l1
  rw [show (num.natAbs.log2 : ℤ) + (e - ((num.natAbs.log2 : ℤ) + e - (63 : ℕ))) + 1 = ((63 + 1 : ℕ) : ℤ) by push_cast; ring,
    zpow_natCast] at l2
  have hw : w ≠ 0 := by
    have := (hpick.range (boundMode_directed up) l1 l2).1
    have : 0 < 2 ^ 63 := by positivity
    omega
  have hsign : decide ((if num < 0 then -(w : ℤ) else w) < 0) = decide (num < 0) := by
    by_cases h : num < 0
    · simp only [h, if_true, decide_true, decide_eq_true_eq]; omega
    · simp only [h, if_false, decide_false, decide_eq_false_iff_not]; omega
  have habs : (if num < 0 then -(w : ℤ) else w).natAbs = w := by split <;> omega
  have twice := encode_twice (f := f32) (boundMode_directed up) hn' (by decide : f32.fbits < 63) rfl hpick
  have hbits : Exact.bits32 up { num := num, den := 1, e := e } = BitVec.ofNat 32 (roundTo f32 (boundMode up)
      (decide ((Exact.round 64 up { num := num, den := 1, e := e }).num < 0)) (Exact.round 64 up { num := num, den := 1, e := e }).num.natAbs
      (Exact.round 64 up { num := num, den := 1, e := e }).e false).1 := rfl
  rw [hbits, show (64 : Nat) = 63 + 1 from rfl, hr]
  dsimp only
  rw [hsign, habs, roundTo_eq hw, roundTo_eq hn', twice]

/-! ### The exact results on points -/

/-- A finite number as an end. -/
def numEnd (n : Bool) (m : Nat) (e : ℤ) : End := .num { num := if n then -(m : ℤ) else m, den := 1, e := e }

theorem numEnd_bits {n : Bool} {m : Nat} (hm : m ≠ 0) (e : ℤ) (up : Bool) :
    (numEnd n m e).bits32 up = BitVec.ofNat 32 (roundTo f32 (boundMode up) n m e false).1 := by
  have hn : (if n then -(m : ℤ) else m) ≠ 0 := by split <;> omega
  have hsign : decide ((if n then -(m : ℤ) else m) < 0) = n := by
    cases n
    · simp only [Bool.false_eq_true, if_false, decide_eq_false_iff_not]; omega
    · simp only [if_true, decide_eq_true_eq]; omega
  have habs : (if n then -(m : ℤ) else m).natAbs = m := by split <;> omega
  have h := Exact.bits32_int e hn up
  rw [hsign, habs] at h
  exact h

theorem numEnd_isZero {n : Bool} {m : Nat} (hm : m ≠ 0) (e : ℤ) : (numEnd n m e).isZero = false := by
  cases n <;> simp [numEnd, End.isZero, hm]

/-- The number that an operation gives under every mode, with the end of its exact value. -/
structure Gives (f : Nat → Nat × Flags) (x : End) : Prop where
  num : ∃ n m e, m ≠ 0 ∧ (∀ rm, f rm = roundTo f32 rm n m e false) ∧ x = numEnd n m e

theorem Gives.bits {f : Nat → Nat × Flags} {x : End} (h : Gives f x) (up : Bool) : x.bits32 up = BitVec.ofNat 32 (f (boundMode up)).1 := by
  obtain ⟨n, m, e, hm, hf, rfl⟩ := h
  rw [numEnd_bits hm, hf]
theorem Gives.isZero {f : Nat → Nat × Flags} {x : End} (h : Gives f x) : x.isZero = false := by
  obtain ⟨n, m, e, hm, -, rfl⟩ := h
  exact numEnd_isZero hm e

/-- No flag is no NX. -/
theorem zero_nx : (0 : Flags) &&& fNX = 0 := by decide
theorem nan_exact (f : FloatFmt) (b : Bool) : (nanOut f b).2 &&& fNX = 0 := by
  cases b
  · exact zero_nx
  · exact (by decide : fIV &&& fNX = 0)

/-- A sum that is not exact is one of numbers, and not zero. -/
theorem gives_add {x y : FVal} (hnx : (fAdd f32 0 x y).2 &&& fNX ≠ 0) : Gives (fun rm => fAdd f32 rm x y) ((endOf x).add (endOf y)) := by
  cases x with
  | nan s => exact absurd (nan_exact _ _) hnx
  | inf a =>
    cases y with
    | nan s => exact absurd (nan_exact _ _) hnx
    | inf b =>
      simp only [fAdd] at hnx
      split at hnx
      · exact absurd zero_nx hnx
      · exact absurd (nan_exact _ _) hnx
    | fin n m e => exact absurd zero_nx hnx
  | fin n1 m1 e1 =>
    cases y with
    | nan s => exact absurd (nan_exact _ _) hnx
    | inf b => exact absurd zero_nx hnx
    | fin n2 m2 e2 =>
      generalize hs : (if n1 then -(((m1 <<< (e1 - min e1 e2).toNat : ℕ)) : ℤ) else ((m1 <<< (e1 - min e1 e2).toNat : ℕ) : ℤ)) +
        (if n2 then -(((m2 <<< (e2 - min e1 e2).toNat : ℕ)) : ℤ) else ((m2 <<< (e2 - min e1 e2).toNat : ℕ) : ℤ)) = sum
      have hadd : ∀ rm, addFin rm n1 m1 e1 n2 m2 e2 = if sum = 0 then (if m1 = 0 ∧ m2 = 0 ∧ n1 = n2 then .fin n1 0 0 else .fin (rm == 2) 0 0)
          else .fin (decide (sum < 0)) sum.natAbs (min e1 e2) := fun rm => by rw [← hs]; rfl
      by_cases h0 : sum = 0
      · simp only [fAdd, hadd, if_pos h0] at hnx
        split at hnx <;> exact absurd zero_nx hnx
      · refine ⟨decide (sum < 0), sum.natAbs, min e1 e2, by omega, fun rm => by simp only [fAdd, hadd, if_neg h0, roundVal], ?_⟩
        have hval : (if decide (sum < 0) then -(sum.natAbs : ℤ) else sum.natAbs) = sum := by
          by_cases h : sum < 0
          · simp only [h, decide_true, if_true]; omega
          · simp only [h, decide_false, Bool.false_eq_true, if_false]; omega
        rw [numEnd, hval]
        simp only [endOf, End.add, Exact.add, Exact.align, ← hs, Nat.shiftLeft_eq, mul_one, Nat.cast_one]
        congr 2
        cases n1 <;> cases n2 <;> push_cast <;> simp

theorem gives_mul {x y : FVal} (hnx : (fMul f32 0 x y).2 &&& fNX ≠ 0) : Gives (fun rm => fMul f32 rm x y) ((endOf x).mul (endOf y)) := by
  cases x with
  | nan s => exact absurd (nan_exact _ _) hnx
  | inf a =>
    cases y with
    | nan s => exact absurd (nan_exact _ _) hnx
    | inf b => exact absurd zero_nx hnx
    | fin n m e =>
      simp only [fMul] at hnx
      split at hnx
      · exact absurd (nan_exact _ _) hnx
      · exact absurd zero_nx hnx
  | fin n1 m1 e1 =>
    cases y with
    | nan s => exact absurd (nan_exact _ _) hnx
    | inf b =>
      simp only [fMul] at hnx
      split at hnx
      · exact absurd (nan_exact _ _) hnx
      · exact absurd zero_nx hnx
    | fin n2 m2 e2 =>
      refine ⟨n1 != n2, m1 * m2, e1 + e2, fun h0 => ?_, fun rm => rfl, ?_⟩
      · simp only [fMul, h0] at hnx
        exact absurd zero_nx hnx
      · simp only [endOf, End.mul, Exact.mul, numEnd]
        congr 2
        cases n1 <;> cases n2 <;> simp

theorem endOf_mulVal (n1 : Bool) (m1 : Nat) (e1 : ℤ) (n2 : Bool) (m2 : Nat) (e2 : ℤ) :
    endOf (mulVal (.fin n1 m1 e1) (.fin n2 m2 e2)) = (endOf (.fin n1 m1 e1)).mul (endOf (.fin n2 m2 e2)) := by
  simp only [mulVal, endOf, End.mul, Exact.mul]
  congr 2
  cases n1 <;> cases n2 <;> simp

/-- A multiply-add that is not exact is one of numbers, and not zero. -/
theorem gives_fma {x y z : FVal} (hnx : (fFma f32 0 x y z).2 &&& fNX ≠ 0) :
    Gives (fun rm => fFma f32 rm x y z) (((endOf x).mul (endOf y)).add (endOf z)) := by
  by_cases hz : zeroTimesInf x y = true
  · rw [fFma, if_pos hz] at hnx
    exact absurd (nan_exact _ _) hnx
  by_cases hn : (x.isNaN || y.isNaN || z.isNaN) = true
  · rw [fFma, if_neg hz, if_pos hn] at hnx
    exact absurd (nan_exact _ _) hnx
  have hf : ∀ rm, fFma f32 rm x y z = fAdd f32 rm (mulVal x y) z := fun rm => by rw [fFma, if_neg hz, if_neg hn]
  rw [hf] at hnx
  have hadd := gives_add hnx
  have inf_exact : ∀ a, mulVal x y ≠ .inf a := fun a ha => by
    rw [ha] at hnx
    cases z with
    | nan s => exact absurd (nan_exact _ _) hnx
    | inf b =>
      simp only [fAdd] at hnx
      split at hnx
      · exact absurd zero_nx hnx
      · exact absurd (nan_exact _ _) hnx
    | fin n m e => exact absurd zero_nx hnx
  have nan_exact' : ∀ s, mulVal x y ≠ .nan s := fun s ha => by
    rw [ha] at hnx
    exact absurd (nan_exact _ _) hnx
  have hend : endOf (mulVal x y) = (endOf x).mul (endOf y) := by
    cases x with
    | nan s => exact absurd rfl (nan_exact' s)
    | inf a =>
      cases y with
      | nan s => exact absurd rfl (nan_exact' s)
      | inf b => exact absurd rfl (inf_exact _)
      | fin n m e =>
        by_cases hm : m = 0
        · exact absurd (if_pos hm) (nan_exact' false)
        · exact absurd (if_neg hm) (inf_exact (a != n))
    | fin n1 m1 e1 =>
      cases y with
      | nan s => exact absurd rfl (nan_exact' s)
      | inf b =>
        by_cases hm : m1 = 0
        · exact absurd (if_pos hm) (nan_exact' false)
        · exact absurd (if_neg hm) (inf_exact (n1 != b))
      | fin n2 m2 e2 => exact endOf_mulVal n1 m1 e1 n2 m2 e2
  rw [show (fun rm => fFma f32 rm x y z) = fun rm => fAdd f32 rm (mulVal x y) z from funext hf, ← hend]
  exact hadd

theorem endOf_neg {y : FVal} (hy : y.isNaN = false) : endOf y.neg = (endOf y).neg := by
  cases y with
  | nan s => cases hy
  | inf n => cases n <;> rfl
  | fin n m e => cases n <;> simp [FVal.neg, endOf, End.neg, Exact.neg]

theorem Iv.mul_point (x y : End) : (Iv.point x).mul (Iv.point y) = Iv.point (x.mul y) := by
  have least : ∀ a : End, a.min a = a := fun a => ite_self a
  have greatest : ∀ a : End, a.max a = a := fun a => ite_self a
  simp only [Iv.mul, Iv.point, least, greatest]

/-! ### The results of the words (R257) -/

/-- A zero upper bound is +0. -/
def plusZero (w : Word32) : Word32 := if w = 0x80000000 then 0 else w

theorem highBits_eq (x : End) : highBits x = plusZero (x.bits32 true) := rfl

theorem lowBits_of (op : Nat) (a b c : XCell) {x : End} (hx : x.isZero = false) : lowBits op a b c x = x.bits32 false := by
  rw [lowBits, hx]; rfl

theorem isPoint_pointCell (w : Word32) (t : Bool) : (pointCell w t).isPoint = true := (by decide : pointH.getLsbD 31 = true)
theorem isNaN_pointCell (w : Word32) (t : Bool) : (pointCell w t).isNaN = (u32 w.toNat).isNaN := rfl
theorem iv_pointCell (w : Word32) (t : Bool) : (pointCell w t).iv = Iv.point (endOf (u32 w.toNat)) := rfl

/-- What an operation on points gives: its exact value where it has one, the canonical NaN, or a node with its bounds. -/
def pointResult (op inl : Nat) (t : Bool) (r : Nat × Flags) (bounds : Word32 × Word32) (a b c : Word32) : XOut :=
  if (u32 r.1).isNaN then .cell (pointCell nan32 t)
  else if r.2 &&& fNX = 0 then .cell (pointCell (BitVec.ofNat 32 r.1) t)
  else .fresh { lo := bounds.1, hi := bounds.2, h := 0, t := t } op inl a b c

/-- The bounds of a node: those of the exact interval, or all numbers. -/
def boundsOf (op : Nat) (a b c : XCell) : Word32 × Word32 :=
  match Iv.op op a.iv b.iv c.iv with
  | some v => (lowBits op a b c v.lo, highBits v.hi)
  | none => (0xFF800000, 0x7F800000)

theorem xResult_two (op : Nat) {a b : Word32} (t : Bool) (ha : (u32 a.toNat).isNaN = false) (hb : (u32 b.toNat).isNaN = false) :
    xResult op [pointCell a t, pointCell b t] t =
      pointResult op 3 t (pointOp op a b 0) (boundsOf op (pointCell a t) (pointCell b t) {}) a b 0 := by
  have inl : (List.range 2).foldl (fun n k => if (([pointCell a t, pointCell b t][k]?).getD {}).isPoint then n + 2 ^ k else n) 0 = 3 := by
    simp [List.range_succ, isPoint_pointCell]
  simp only [xResult, pointResult, boundsOf, List.getElem?_cons_zero, List.getElem?_cons_succ, List.getElem?_nil, Option.getD_some,
    Option.getD_none, List.all_cons, List.all_nil, List.any_cons, List.any_nil, isPoint_pointCell, isNaN_pointCell, ha, hb, Bool.and_false,
    Bool.or_false, Bool.and_true, Bool.true_and, Bool.not_true, Bool.false_and, Bool.false_eq_true, if_false, decide_eq_true_eq,
    Option.map_some, Option.map_none, if_true, List.length_cons, List.length_nil, Nat.reduceAdd, inl]
  rfl

theorem xResult_three (op : Nat) {a b c : Word32} (t : Bool) (ha : (u32 a.toNat).isNaN = false) (hb : (u32 b.toNat).isNaN = false)
    (hc : (u32 c.toNat).isNaN = false) :
    xResult op [pointCell a t, pointCell b t, pointCell c t] t =
      pointResult op 7 t (pointOp op a b c) (boundsOf op (pointCell a t) (pointCell b t) (pointCell c t)) a b c := by
  have inl : (List.range 3).foldl (fun n k => if (([pointCell a t, pointCell b t, pointCell c t][k]?).getD {}).isPoint then n + 2 ^ k else n) 0
      = 7 := by
    simp [List.range_succ, isPoint_pointCell]
  simp only [xResult, pointResult, boundsOf, List.getElem?_cons_zero, List.getElem?_cons_succ, Option.getD_some,
    List.all_cons, List.all_nil, List.any_cons, List.any_nil, isPoint_pointCell, isNaN_pointCell, ha, hb, hc, Bool.and_false,
    Bool.or_false, Bool.and_true, Bool.true_and, Bool.not_true, Bool.false_and, Bool.false_eq_true, if_false, decide_eq_true_eq,
    Option.map_some, if_true, List.length_cons, List.length_nil, Nat.reduceAdd, inl]
  rfl

/-- A NaN among the points gives the canonical NaN. -/
theorem xResult_nan (op : Nat) {l : List XCell} (t : Bool) (h : (l.any fun x => x.isPoint && x.isNaN) = true) :
    xResult op l t = .cell (pointCell nan32 t) := by
  simp only [xResult, h, Bool.true_or, if_true]

/-- The two forms of a result that is no NaN. -/
theorem pointResult_gives {op inl : Nat} {t : Bool} {f : Nat → Nat × Flags} {bounds : Word32 × Word32} {a b c : Word32}
    (hb : (f 0).2 &&& fNX ≠ 0 → bounds = (BitVec.ofNat 32 (f 2).1, plusZero (BitVec.ofNat 32 (f 3).1))) :
    ((u32 (f 0).1).isNaN = false → (f 0).2 &&& fNX = 0 →
      pointResult op inl t (f 0) bounds a b c = .cell (pointCell (BitVec.ofNat 32 (f 0).1) t)) ∧
    ((u32 (f 0).1).isNaN = false → (f 0).2 &&& fNX ≠ 0 → pointResult op inl t (f 0) bounds a b c =
      .fresh { lo := BitVec.ofNat 32 (f 2).1, hi := plusZero (BitVec.ofNat 32 (f 3).1), h := 0, t := t } op inl a b c) := by
  refine ⟨fun hn h0 => ?_, fun hn h0 => ?_⟩
  · rw [pointResult, if_neg (by rw [hn]; decide), if_pos h0]
  · rw [pointResult, if_neg (by rw [hn]; decide), if_neg h0, hb h0]

/-- The bounds of an interval of one end that is the exact value of an operation. -/
theorem Gives.bounds {f : Nat → Nat × Flags} {x : End} (h : Gives f x) (op : Nat) (a b c : XCell) :
    (lowBits op a b c x, highBits x) = (BitVec.ofNat 32 (f 2).1, plusZero (BitVec.ofNat 32 (f 3).1)) := by
  rw [lowBits_of op a b c h.isZero, highBits_eq, h.bits false, h.bits true]
  rfl

theorem u32_nanOut (b : Bool) : (u32 (nanOut f32 b).1).isNaN = true := by cases b <;> decide

theorem pointResult_nan {op inl : Nat} {t : Bool} {r : Nat × Flags} {bounds : Word32 × Word32} {a b c : Word32} {s : Bool}
    (hr : r = nanOut f32 s) : pointResult op inl t r bounds a b c = .cell (pointCell nan32 t) := by
  rw [pointResult, hr, if_pos (u32_nanOut s)]

theorem zero_times_inf {n : Bool} {x y : FVal} (h : (x = .inf n ∧ y.isZero = true) ∨ (x.isZero = true ∧ y = .inf n)) :
    fMul f32 0 x y = nanOut f32 true ∧ zeroTimesInf x y = true := by
  have zero : ∀ {v : FVal}, v.isZero = true → ∃ s e, v = .fin s 0 e := fun {v} hv => by
    cases v with
    | fin s m e => exact ⟨s, e, by rw [beq_iff_eq.mp hv]⟩
    | _ => cases hv
  rcases h with ⟨rfl, hy⟩ | ⟨hx, rfl⟩
  · obtain ⟨s, e, rfl⟩ := zero hy
    exact ⟨rfl, rfl⟩
  · obtain ⟨s, e, rfl⟩ := zero hx
    exact ⟨rfl, rfl⟩

/-- An infinite product is of no NaN, and not of zero and infinity. -/
theorem mulVal_inf {x y : FVal} {n : Bool} (h : mulVal x y = .inf n) : x.isNaN = false ∧ y.isNaN = false ∧ zeroTimesInf x y = false := by
  cases x with
  | nan s => cases h
  | inf a =>
    cases y with
    | nan s => cases h
    | inf b => exact ⟨rfl, rfl, rfl⟩
    | fin k m e =>
      by_cases hm : m = 0
      · rw [mulVal, if_pos hm] at h; cases h
      · exact ⟨rfl, rfl, beq_eq_false_iff_ne.mpr hm⟩
  | fin k m e =>
    cases y with
    | nan s => cases h
    | inf b =>
      by_cases hm : m = 0
      · rw [mulVal, if_pos hm] at h; cases h
      · exact ⟨rfl, rfl, beq_eq_false_iff_ne.mpr hm⟩
    | fin k' m' e' => cases h

/-- Settles O13: the exact cases by the equation of `xResult` on points, the bounds by rounding twice in one direction. -/
theorem pointResults : Obligations.PointResults := by
  unfold Obligations.PointResults
  intro a b c t p x y z nan word up gives
  have ne : ∀ {v : FVal}, (∃ n, v = .inf n) ∨ v.isZero = true → v.isNaN = false := by
    rintro v (⟨n, rfl⟩ | h)
    · rfl
    · cases v <;> first | rfl | exact absurd h (by simp [FVal.isZero])
  have two : ∀ op, x.isNaN = false → y.isNaN = false →
      xResult op [p a, p b] t = pointResult op 3 t (pointOp op a b 0) (boundsOf op (p a) (p b) {}) a b 0 := fun op => xResult_two op t
  have three : x.isNaN = false → y.isNaN = false → z.isNaN = false →
      xResult opFMA [p a, p b, p c] t = pointResult opFMA 7 t (fFma f32 0 x y z) (boundsOf opFMA (p a) (p b) (p c)) a b c := xResult_three opFMA t
  have nan3 : x.isNaN = true ∨ y.isNaN = true ∨ z.isNaN = true → xResult opFMA [p a, p b, p c] t = nan := fun h => xResult_nan opFMA t (by
    simp only [List.any_cons, List.any_nil, p, isPoint_pointCell, isNaN_pointCell, Bool.true_and, Bool.or_false]
    rcases h with h | h | h <;> simp only [x, y, z] at h <;> simp [h])
  have fma_nan : ∀ s, (z.isNaN = false → fFma f32 0 x y z = nanOut f32 s) → x.isNaN = false → y.isNaN = false →
      xResult opFMA [p a, p b, p c] t = nan := fun s hr hx hy => by
    by_cases hz : z.isNaN = true
    · exact nan3 (.inr (.inr hz))
    · have hz' : z.isNaN = false := by simpa using hz
      rw [three hx hy hz', pointResult_nan (hr hz')]
  have points : ∀ w, (p w).iv = Iv.point (endOf (u32 w.toNat)) := fun w => iv_pointCell w t
  refine ⟨fun hx hy => ⟨?add, ?sub, ?mul, fun hz => ?fma⟩, fun h => ⟨?_, ?_, ?_⟩, nan3, fun n hx hy => ?_, fun n hx hy => ?_, fun n h => ⟨?_, ?_⟩,
    fun n hm hz => ?_⟩
  case add =>
    simp only [gives, two opADD hx hy]
    exact pointResult_gives (f := fun rm => fAdd f32 rm x y) (bounds := boundsOf opADD (p a) (p b) {}) fun h0 =>
      (gives_add h0).bounds opADD (p a) (p b) {}
  case sub =>
    simp only [gives, two opSUB hx hy]
    refine pointResult_gives (f := fun rm => fAdd f32 rm x y.neg) (bounds := boundsOf opSUB (p a) (p b) {}) fun h0 => ?_
    have hb := (gives_add h0).bounds opSUB (p a) (p b) {}
    rw [endOf_neg hy] at hb
    exact hb
  case mul =>
    simp only [gives, two opMUL hx hy]
    refine pointResult_gives (f := fun rm => fMul f32 rm x y) (bounds := boundsOf opMUL (p a) (p b) {}) fun h0 => ?_
    have hop : Iv.op opMUL (p a).iv (p b).iv ({} : XCell).iv = some (Iv.point ((endOf x).mul (endOf y))) := by
      rw [points, points, ← Iv.mul_point]; rfl
    rw [boundsOf, hop]
    exact (gives_mul h0).bounds opMUL (p a) (p b) {}
  case fma =>
    simp only [gives, three hx hy hz]
    refine pointResult_gives (f := fun rm => fFma f32 rm x y z) (bounds := boundsOf opFMA (p a) (p b) (p c)) fun h0 => ?_
    have hop : Iv.op opFMA (p a).iv (p b).iv (p c).iv = some (Iv.point (((endOf x).mul (endOf y)).add (endOf z))) := by
      rw [points, points, points]
      show some (((Iv.point _).mul (Iv.point _)).add _) = _
      rw [Iv.mul_point]; rfl
    rw [boundsOf, hop]
    exact (gives_fma h0).bounds opFMA (p a) (p b) (p c)
  iterate 3
    refine xResult_nan _ t ?_
    simp only [List.any_cons, List.any_nil, p, isPoint_pointCell, isNaN_pointCell, Bool.true_and, Bool.or_false]
    rcases h with h | h <;> simp only [x, y] at h <;> simp [h]
  · rw [two opADD (ne (.inl ⟨n, hx⟩)) (ne (.inl ⟨!n, hy⟩))]
    refine pointResult_nan (s := true) ?_
    show fAdd f32 0 x y = _
    rw [hx, hy]; cases n <;> rfl
  · rw [two opSUB (ne (.inl ⟨n, hx⟩)) (ne (.inl ⟨n, hy⟩))]
    refine pointResult_nan (s := true) ?_
    show fAdd f32 0 x y.neg = _
    rw [hx, hy]; cases n <;> rfl
  · have hxy : x.isNaN = false ∧ y.isNaN = false := by
      rcases h with ⟨h1, h2⟩ | ⟨h1, h2⟩
      · exact ⟨ne (.inl ⟨n, h1⟩), ne (.inr h2)⟩
      · exact ⟨ne (.inr h1), ne (.inl ⟨n, h2⟩)⟩
    rw [two opMUL hxy.1 hxy.2]
    exact pointResult_nan (s := true) (zero_times_inf h).1
  · have hxy : x.isNaN = false ∧ y.isNaN = false := by
      rcases h with ⟨h1, h2⟩ | ⟨h1, h2⟩
      · exact ⟨ne (.inl ⟨n, h1⟩), ne (.inr h2)⟩
      · exact ⟨ne (.inr h1), ne (.inl ⟨n, h2⟩)⟩
    exact fma_nan true (fun _ => by rw [fFma, if_pos (zero_times_inf h).2]) hxy.1 hxy.2
  · obtain ⟨hx, hy, hzero⟩ := mulVal_inf hm
    refine fma_nan true (fun hz' => ?_) hx hy
    rw [fFma, if_neg (by rw [hzero]; decide), hx, hy, hz', if_neg (by decide), hm, hz]
    cases n <;> rfl

end Sys2Proof.Machine
end

section
/-!
PROOF. The sums, products, quotients and roots are round_to of their exact values (08 R195, 09 R231, R232, R236).
-/
namespace Sys2Proof.Machine
open Sys2Proof

/-! ### Sums and products (R231) -/

theorem ratOf_fin (n : Bool) (m : Nat) (e : ℤ) : ratOf (.fin n m e) = signedQ n (m * (2 : ℚ) ^ e) := by cases n <;> simp [ratOf, signedQ]

theorem ratOf_eq_zero {n : Bool} {m : Nat} {e : ℤ} : ratOf (.fin n m e) = 0 ↔ m = 0 := by
  have hpow : (2 : ℚ) ^ e ≠ 0 := by positivity
  rw [ratOf_fin]
  cases n <;> simp [signedQ, hpow]

/-- An integer of either sign, shifted. -/
def addend (n : Bool) (m : Nat) (d : Nat) : ℤ := if n then -((m <<< d : ℕ) : ℤ) else (m <<< d : ℕ)

theorem addend_value (n : Bool) (m : Nat) {e g : ℤ} (h : g ≤ e) : (addend n m (e - g).toNat : ℚ) * (2 : ℚ) ^ g = ratOf (.fin n m e) := by
  have hs : ((m <<< (e - g).toNat : ℕ) : ℚ) * (2 : ℚ) ^ g = m * (2 : ℚ) ^ e := by
    rw [Nat.shiftLeft_eq]
    push_cast
    rw [mul_assoc, ← zpow_natCast, ← zpow_add₀ two_ne_zero, Int.toNat_of_nonneg (by omega), sub_add_cancel]
  rw [ratOf_fin, ← hs]
  cases n
  · simp only [addend, signedQ, Bool.false_eq_true, if_false, Int.cast_natCast]
  · simp only [addend, signedQ, if_true, Int.cast_neg, Int.cast_natCast, neg_mul]

/-- The exact sum of two finite values. -/
theorem addFin_eq (rm : Nat) (n1 : Bool) (m1 : Nat) (e1 : ℤ) (n2 : Bool) (m2 : Nat) (e2 : ℤ) :
    ∃ s : ℤ, (s : ℚ) * (2 : ℚ) ^ (min e1 e2) = ratOf (.fin n1 m1 e1) + ratOf (.fin n2 m2 e2) ∧
      addFin rm n1 m1 e1 n2 m2 e2 = if s = 0 then .fin (if m1 = 0 ∧ m2 = 0 ∧ n1 = n2 then n1 else rm == 2) 0 0
        else .fin (decide (s < 0)) s.natAbs (min e1 e2) := by
  refine ⟨addend n1 m1 (e1 - min e1 e2).toNat + addend n2 m2 (e2 - min e1 e2).toNat, ?_, ?_⟩
  · push_cast
    rw [add_mul, addend_value n1 m1 (min_le_left _ _), addend_value n2 m2 (min_le_right _ _)]
  · have h : ∀ s, addend n1 m1 (e1 - min e1 e2).toNat + addend n2 m2 (e2 - min e1 e2).toNat = s → addFin rm n1 m1 e1 n2 m2 e2 =
        if s = 0 then (if m1 = 0 ∧ m2 = 0 ∧ n1 = n2 then .fin n1 0 0 else .fin (rm == 2) 0 0)
        else .fin (decide (s < 0)) s.natAbs (min e1 e2) := fun s hs => by rw [← hs]; rfl
    rw [h _ rfl]
    split
    · split <;> rfl
    · rfl

/-- An integer times a power of two, as a finite value. -/
theorem ratOf_int (s e : ℤ) : ratOf (.fin (decide (s < 0)) s.natAbs e) = s * (2 : ℚ) ^ e := by
  have h := ratOf_intVal s
  rw [intVal, ratOf_fin, zpow_zero, mul_one] at h
  rw [ratOf_fin, ← h]
  by_cases hs : s < 0 <;> simp [signedQ, hs]

section
variable {f : FloatFmt} {rm : Nat}

theorem fAdd_rounds (hf : RealFmt f) (hrm : rm < 4) (n1 : Bool) (m1 : Nat) (e1 : ℤ) (n2 : Bool) (m2 : Nat) (e2 : ℤ)
    (h : ratOf (.fin n1 m1 e1) + ratOf (.fin n2 m2 e2) ≠ 0) :
    RoundsTo f rm ((ratOf (.fin n1 m1 e1) + ratOf (.fin n2 m2 e2) : ℚ) : ℝ) (fAdd f rm (.fin n1 m1 e1) (.fin n2 m2 e2)) := by
  obtain ⟨s, hs, hadd⟩ := addFin_eq rm n1 m1 e1 n2 m2 e2
  have hs0 : s ≠ 0 := by
    rintro rfl
    rw [Int.cast_zero, zero_mul] at hs
    exact h hs.symm
  rw [if_neg hs0] at hadd
  rw [fAdd, hadd, ← hs, ← ratOf_int]
  exact roundTo_ratOf hf hrm (by omega) _

theorem fAdd_zero (n1 : Bool) (m1 : Nat) (e1 : ℤ) (n2 : Bool) (m2 : Nat) (e2 : ℤ)
    (h : ratOf (.fin n1 m1 e1) + ratOf (.fin n2 m2 e2) = 0) :
    fAdd f rm (.fin n1 m1 e1) (.fin n2 m2 e2) = (f.signBit (if m1 = 0 ∧ m2 = 0 ∧ n1 = n2 then n1 else rm == 2), 0) := by
  obtain ⟨s, hs, hadd⟩ := addFin_eq rm n1 m1 e1 n2 m2 e2
  have hs0 : s = 0 := by
    rw [h] at hs
    have hpos : (2 : ℚ) ^ (min e1 e2) ≠ 0 := by positivity
    exact_mod_cast (mul_eq_zero.mp hs).resolve_right hpos
  rw [if_pos hs0] at hadd
  rw [fAdd, hadd]
  rfl

/-- The product of two finite values is a finite value. -/
theorem ratOf_mul (n1 : Bool) (m1 : Nat) (e1 : ℤ) (n2 : Bool) (m2 : Nat) (e2 : ℤ) :
    ratOf (.fin n1 m1 e1) * ratOf (.fin n2 m2 e2) = ratOf (.fin (n1 != n2) (m1 * m2) (e1 + e2)) := by
  simp only [ratOf_fin, zpow_add₀ (two_ne_zero (α := ℚ))]
  cases n1 <;> cases n2 <;> simp [signedQ] <;> ring

theorem fMul_rounds (hf : RealFmt f) (hrm : rm < 4) (n1 : Bool) (m1 : Nat) (e1 : ℤ) (n2 : Bool) (m2 : Nat) (e2 : ℤ)
    (h : ratOf (.fin n1 m1 e1) * ratOf (.fin n2 m2 e2) ≠ 0) :
    RoundsTo f rm ((ratOf (.fin n1 m1 e1) * ratOf (.fin n2 m2 e2) : ℚ) : ℝ) (fMul f rm (.fin n1 m1 e1) (.fin n2 m2 e2)) := by
  rw [ratOf_mul] at h ⊢
  exact roundTo_ratOf hf hrm (ratOf_ne_zero h) _

theorem fMul_zero (n1 : Bool) (m1 : Nat) (e1 : ℤ) (n2 : Bool) (m2 : Nat) (e2 : ℤ)
    (h : ratOf (.fin n1 m1 e1) * ratOf (.fin n2 m2 e2) = 0) : fMul f rm (.fin n1 m1 e1) (.fin n2 m2 e2) = (f.signBit (n1 != n2), 0) := by
  rw [ratOf_mul, ratOf_eq_zero] at h
  rw [fMul, h, roundTo_zero]

theorem fFma_fin (n1 : Bool) (m1 : Nat) (e1 : ℤ) (n2 : Bool) (m2 : Nat) (e2 : ℤ) (n3 : Bool) (m3 : Nat) (e3 : ℤ) :
    fFma f rm (.fin n1 m1 e1) (.fin n2 m2 e2) (.fin n3 m3 e3) = fAdd f rm (.fin (n1 != n2) (m1 * m2) (e1 + e2)) (.fin n3 m3 e3) := rfl

/-! ### Quotients and roots (R232) -/

/-- The bits of a large quotient. -/
theorem log2_ge {k m : Nat} (h : 2 ^ k ≤ m) : k ≤ m.log2 := by
  have hpos : 0 < 2 ^ k := by positivity
  exact (Nat.le_log2 (by omega)).mpr h

theorem fDiv_rounds (hf : RealFmt f) (hrm : rm < 4) (n1 : Bool) (m1 : Nat) (e1 : ℤ) (n2 : Bool) (m2 : Nat) (e2 : ℤ)
    (h1 : ratOf (.fin n1 m1 e1) ≠ 0) (h2 : ratOf (.fin n2 m2 e2) ≠ 0) :
    RoundsTo f rm ((ratOf (.fin n1 m1 e1) / ratOf (.fin n2 m2 e2) : ℚ) : ℝ) (fDiv f rm (.fin n1 m1 e1) (.fin n2 m2 e2)) := by
  have hm1 := ratOf_ne_zero h1
  have hm2 := ratOf_ne_zero h2
  have hm2' : 0 < m2 := Nat.pos_of_ne_zero hm2
  generalize hk : 2 * f.prec + 10 + m2.log2 = k
  have hdiv : fDiv f rm (.fin n1 m1 e1) (.fin n2 m2 e2) =
      roundTo f rm (n1 != n2) (m1 <<< k / m2) (e1 - e2 - k) (decide (m1 <<< k % m2 ≠ 0)) := by
    rw [fDiv, if_neg hm2, if_neg hm1, ← hk]; rfl
  have hbig : 2 ^ (2 * f.prec + 9) ≤ m1 <<< k / m2 := by
    rw [Nat.le_div_iff_mul_le hm2', Nat.shiftLeft_eq]
    calc 2 ^ (2 * f.prec + 9) * m2 ≤ 2 ^ (2 * f.prec + 9) * 2 ^ (m2.log2 + 1) := by gcongr; exact Nat.lt_log2_self.le
      _ = 2 ^ k := by rw [← pow_add, ← hk]; congr 1; ring
      _ ≤ m1 * 2 ^ k := Nat.le_mul_of_pos_left _ (Nat.pos_of_ne_zero hm1)
  have hpos : 0 < 2 ^ (2 * f.prec + 9) := by positivity
  have hq : m1 <<< k / m2 ≠ 0 := by omega
  have hm2r : (0 : ℝ) < m2 := by exact_mod_cast hm2'
  have hrem : m1 <<< k % m2 < m2 := Nat.mod_lt _ hm2'
  have tail : Tail f (m1 <<< k / m2) ((m1 <<< k % m2 : ℕ) / (m2 : ℝ)) (decide (m1 <<< k % m2 ≠ 0)) := by
    refine ⟨by positivity, by rw [div_lt_one hm2r]; exact_mod_cast hrem, ?_, fun _ => ?_⟩
    · rw [decide_eq_decide, not_iff_not, div_eq_zero_iff]
      simp [hm2]
    · have := log2_ge hbig
      have : f.prec = f.fbits + 1 := rfl
      omega
  have hval : (((m1 <<< k / m2 : ℕ) : ℝ) + (m1 <<< k % m2 : ℕ) / (m2 : ℝ)) * (2 : ℝ) ^ (e1 - e2 - k) =
      (m1 * (2 : ℝ) ^ e1) / (m2 * (2 : ℝ) ^ e2) := by
    have hn : ((m1 <<< k / m2 : ℕ) : ℝ) * m2 + (m1 <<< k % m2 : ℕ) = m1 * (2 : ℝ) ^ k := by
      have : m1 <<< k / m2 * m2 + m1 <<< k % m2 = m1 * 2 ^ k := by rw [Nat.div_add_mod', Nat.shiftLeft_eq]
      exact_mod_cast this
    rw [zpow_sub₀ two_ne_zero, zpow_sub₀ two_ne_zero, zpow_natCast]
    field_simp
    linarith
  have hx : ((ratOf (.fin n1 m1 e1) / ratOf (.fin n2 m2 e2) : ℚ) : ℝ) = signed (n1 != n2) ((m1 * (2 : ℝ) ^ e1) / (m2 * (2 : ℝ) ^ e2)) := by
    rw [Rat.cast_div, cast_ratOf, cast_ratOf]
    cases n1 <;> cases n2 <;> simp [signed, neg_div, div_neg]
  rw [hdiv, hx, ← hval]
  exact roundTo_rounds hf hrm _ hq _ tail

theorem isqrtFrom_spec (n : Nat) (k r : Nat) (hle : r * r ≤ n) (hlt : n < (r + 2 ^ (k + 1)) * (r + 2 ^ (k + 1))) :
    isqrtFrom n k r * isqrtFrom n k r ≤ n ∧ n < (isqrtFrom n k r + 1) * (isqrtFrom n k r + 1) := by
  induction k generalizing r with
  | zero =>
    unfold isqrtFrom
    split
    · next h => exact ⟨h, hlt⟩
    · next h => exact ⟨hle, not_le.mp h⟩
  | succ k ih =>
    unfold isqrtFrom
    split
    · next h => exact ih _ h (by rw [add_assoc, ← two_mul, ← pow_succ']; exact hlt)
    · next h => exact ih _ hle (not_le.mp h)

theorem isqrt_eq (n : Nat) : isqrt n = Nat.sqrt n := by
  have hlog : n < 2 ^ (n.log2 + 1) := Nat.lt_log2_self
  have h := isqrtFrom_spec n (n.log2 / 2 + 1) 0 (Nat.zero_le _) (by
    rw [zero_add, ← pow_add]
    exact hlog.trans_le (Nat.pow_le_pow_right (by decide) (by omega)))
  exact Nat.eq_sqrt.mpr h

/-- The fraction of a root above its integer part. -/
theorem sqrt_tail (n : Nat) : 0 ≤ Real.sqrt n - Nat.sqrt n ∧ Real.sqrt n - Nat.sqrt n < 1 ∧
    (Real.sqrt n - Nat.sqrt n = 0 ↔ Nat.sqrt n * Nat.sqrt n = n) := by
  have h1 : (Nat.sqrt n : ℝ) ≤ Real.sqrt n := Real.nat_sqrt_le_real_sqrt
  have h2 : Real.sqrt n < Nat.sqrt n + 1 := Real.real_sqrt_lt_nat_sqrt_succ
  refine ⟨by linarith, by linarith, fun h => ?_, fun h => ?_⟩
  · have heq : Real.sqrt n = Nat.sqrt n := by linarith
    have hself := Real.mul_self_sqrt (Nat.cast_nonneg (α := ℝ) n)
    rw [heq] at hself
    exact_mod_cast hself
  · have : Real.sqrt n = Nat.sqrt n := by
      rw [Real.sqrt_eq_iff_mul_self_eq (Nat.cast_nonneg _) (Nat.cast_nonneg _)]
      exact_mod_cast h.symm
    linarith

theorem signed_false (x : ℝ) : signed false x = x := rfl

theorem fSqrt_rounds (hf : RealFmt f) (hrm : rm < 4) {m : Nat} (hm : m ≠ 0) (e : ℤ) :
    RoundsTo f rm (Real.sqrt (ratOf (.fin false m e) : ℚ)) (fSqrt f rm (.fin false m e)) := by
  obtain ⟨k, hk, hk4, heven⟩ : ∃ k : Nat, k = (if (e - (4 * f.prec + 10 : ℕ)) % 2 = 0 then 4 * f.prec + 10 else 4 * f.prec + 10 + 1) ∧
      4 * f.prec + 10 ≤ k ∧ (e - k) % 2 = 0 := by
    refine ⟨_, rfl, ?_, ?_⟩
    · split <;> omega
    · split
      · assumption
      · push_cast; push_cast at *; omega
  have hsqrt : fSqrt f rm (.fin false m e) =
      roundTo f rm false (Nat.sqrt (m <<< k)) ((e - k) / 2) (decide (Nat.sqrt (m <<< k) * Nat.sqrt (m <<< k) ≠ m <<< k)) := by
    rw [fSqrt, if_neg hm, hk, ← isqrt_eq]; rfl
  have hbig : 2 ^ (2 * f.prec + 5) ≤ Nat.sqrt (m <<< k) := by
    rw [Nat.le_sqrt, Nat.shiftLeft_eq, ← pow_add]
    calc 2 ^ (2 * f.prec + 5 + (2 * f.prec + 5)) ≤ 2 ^ k := Nat.pow_le_pow_right (by decide) (by omega)
      _ ≤ m * 2 ^ k := Nat.le_mul_of_pos_left _ (Nat.pos_of_ne_zero hm)
  have hpos : 0 < 2 ^ (2 * f.prec + 5) := by positivity
  obtain ⟨t0, t1, tz⟩ := sqrt_tail (m <<< k)
  have tail : Tail f (Nat.sqrt (m <<< k)) (Real.sqrt (m <<< k : ℕ) - Nat.sqrt (m <<< k))
      (decide (Nat.sqrt (m <<< k) * Nat.sqrt (m <<< k) ≠ m <<< k)) := by
    refine ⟨t0, t1, by rw [decide_eq_decide, not_iff_not, tz], fun _ => ?_⟩
    have := log2_ge hbig
    have : f.prec = f.fbits + 1 := rfl
    omega
  have h := roundTo_rounds hf hrm false (by omega : Nat.sqrt (m <<< k) ≠ 0) ((e - k) / 2) tail
  have hval : Real.sqrt (ratOf (.fin false m e) : ℚ) = Real.sqrt (m <<< k : ℕ) * (2 : ℝ) ^ ((e - k) / 2) := by
    have he : e = (k : ℤ) + ((e - k) / 2 + (e - k) / 2) := by omega
    have hr : ((ratOf (.fin false m e) : ℚ) : ℝ) = (m <<< k : ℕ) * ((2 : ℝ) ^ ((e - k) / 2) * (2 : ℝ) ^ ((e - k) / 2)) := by
      rw [cast_ratOf, signed_false, ← zpow_add₀ two_ne_zero, Nat.shiftLeft_eq]
      push_cast
      rw [mul_assoc, ← zpow_natCast, ← zpow_add₀ two_ne_zero, ← he]
    rw [hr, Real.sqrt_mul (Nat.cast_nonneg _), Real.sqrt_mul_self (by positivity)]
  rw [hsqrt, hval]
  rwa [add_sub_cancel, signed_false] at h

/-- The root of a quotient, as the integer root of the integer quotient and the fraction above it. -/
theorem sqrt_div_tail {m : Nat} (hm : m ≠ 0) (n : Nat) :
    0 ≤ Real.sqrt (n / m) - Nat.sqrt (n / m) ∧ Real.sqrt (n / m) - Nat.sqrt (n / m) < 1 ∧
      (Real.sqrt (n / m) - Nat.sqrt (n / m) = 0 ↔ Nat.sqrt (n / m) * Nat.sqrt (n / m) * m = n) := by
  have hmr : (0 : ℝ) < m := by exact_mod_cast Nat.pos_of_ne_zero hm
  have h1 := Nat.sqrt_le (n / m)
  have h2 := Nat.lt_succ_sqrt (n / m)
  generalize Nat.sqrt (n / m) = r at *
  have low : r * r * m ≤ n := (Nat.le_div_iff_mul_le (Nat.pos_of_ne_zero hm)).mp h1
  have high : n < (r + 1) * (r + 1) * m := (Nat.div_lt_iff_lt_mul (Nat.pos_of_ne_zero hm)).mp h2
  have low' : (r : ℝ) * r ≤ n / m := by rw [le_div_iff₀ hmr]; exact_mod_cast low
  have high' : (n : ℝ) / m < (r + 1) * (r + 1) := by rw [div_lt_iff₀ hmr]; exact_mod_cast high
  have l : (r : ℝ) ≤ Real.sqrt (n / m) := by
    rw [← Real.sqrt_mul_self (Nat.cast_nonneg (α := ℝ) r)]; exact Real.sqrt_le_sqrt low'
  have u : Real.sqrt (n / m) < r + 1 := by
    rw [Real.sqrt_lt' (by positivity), pow_two]; exact high'
  refine ⟨by linarith, by linarith, fun h => ?_, fun h => ?_⟩
  · have heq : Real.sqrt (n / m) = r := by linarith
    have hself := Real.mul_self_sqrt (by positivity : (0 : ℝ) ≤ n / m)
    rw [heq, eq_div_iff hmr.ne'] at hself
    exact_mod_cast hself
  · have heq : Real.sqrt (n / m) = r := by
      rw [Real.sqrt_eq_iff_mul_self_eq (by positivity) (Nat.cast_nonneg _), div_eq_iff hmr.ne']
      exact_mod_cast h.symm
    linarith

theorem fRsqrt_even (hf : RealFmt f) (hrm : rm < 4) {m : Nat} (hm : m ≠ 0) {e : ℤ} (he : e % 2 = 0) {k : Nat} (hk : k = 3 * f.prec + m.log2) :
    RoundsTo f rm (1 / Real.sqrt (m * (2 : ℝ) ^ e)) (roundTo f rm false (isqrt (2 ^ (2 * k) / m)) (-(e / 2) - k)
      (decide (isqrt (2 ^ (2 * k) / m) * isqrt (2 ^ (2 * k) / m) * m ≠ 2 ^ (2 * k)))) := by
  have hmr : (0 : ℝ) < m := by exact_mod_cast Nat.pos_of_ne_zero hm
  rw [isqrt_eq]
  have hprec : f.prec = f.fbits + 1 := rfl
  have hbig : 2 ^ (3 * f.prec - 1) ≤ Nat.sqrt (2 ^ (2 * k) / m) := by
    rw [Nat.le_sqrt, Nat.le_div_iff_mul_le (Nat.pos_of_ne_zero hm), ← pow_add]
    calc 2 ^ (3 * f.prec - 1 + (3 * f.prec - 1)) * m ≤ 2 ^ (3 * f.prec - 1 + (3 * f.prec - 1)) * 2 ^ (m.log2 + 1) := by
          gcongr; exact Nat.lt_log2_self.le
      _ = 2 ^ (3 * f.prec - 1 + (3 * f.prec - 1) + (m.log2 + 1)) := (pow_add _ _ _).symm
      _ ≤ 2 ^ (2 * k) := Nat.pow_le_pow_right (by decide) (by omega)
  have hpos : 0 < 2 ^ (3 * f.prec - 1) := by positivity
  obtain ⟨t0, t1, tz⟩ := sqrt_div_tail hm (2 ^ (2 * k))
  have tail : Tail f (Nat.sqrt (2 ^ (2 * k) / m)) (Real.sqrt ((2 ^ (2 * k) : ℕ) / m) - Nat.sqrt (2 ^ (2 * k) / m))
      (decide (Nat.sqrt (2 ^ (2 * k) / m) * Nat.sqrt (2 ^ (2 * k) / m) * m ≠ 2 ^ (2 * k))) := by
    refine ⟨t0, t1, by rw [decide_eq_decide, not_iff_not, tz], fun _ => ?_⟩
    have := log2_ge hbig
    omega
  have h := roundTo_rounds hf hrm false (by omega : Nat.sqrt (2 ^ (2 * k) / m) ≠ 0) (-(e / 2) - k) tail
  have hval : 1 / Real.sqrt (m * (2 : ℝ) ^ e) = Real.sqrt ((2 ^ (2 * k) : ℕ) / m) * (2 : ℝ) ^ (-(e / 2) - k) := by
    have hn : ((2 ^ (2 * k) : ℕ) : ℝ) = (2 : ℝ) ^ k * (2 : ℝ) ^ k := by push_cast; rw [← pow_add]; congr 1; ring
    have hpe : (2 : ℝ) ^ e = (2 : ℝ) ^ (e / 2) * (2 : ℝ) ^ (e / 2) := by rw [← zpow_add₀ two_ne_zero]; congr 1; omega
    rw [hn, hpe, Real.sqrt_mul hmr.le, Real.sqrt_mul_self (by positivity), Real.sqrt_div (by positivity), Real.sqrt_mul_self (by positivity),
      zpow_sub₀ two_ne_zero, zpow_neg, zpow_natCast]
    have hs : Real.sqrt m ≠ 0 := (Real.sqrt_pos.mpr hmr).ne'
    field_simp
  rw [hval]
  rwa [add_sub_cancel, signed_false] at h

theorem fRsqrt_rounds (hf : RealFmt f) (hrm : rm < 4) {m : Nat} (hm : m ≠ 0) (e : ℤ) :
    RoundsTo f rm (1 / Real.sqrt (ratOf (.fin false m e) : ℚ)) (fRsqrt f rm (.fin false m e)) := by
  rw [cast_ratOf, signed_false]
  have shape : ∀ (m' : Nat) (e' : ℤ), (if e % 2 = 0 then (m, e) else (2 * m, e - 1)) = (m', e') → fRsqrt f rm (.fin false m e) =
      roundTo f rm false (isqrt (2 ^ (2 * (3 * f.prec + m'.log2)) / m')) (-(e' / 2) - (3 * f.prec + m'.log2 : ℕ))
        (decide (isqrt (2 ^ (2 * (3 * f.prec + m'.log2)) / m') * isqrt (2 ^ (2 * (3 * f.prec + m'.log2)) / m') * m' ≠
          2 ^ (2 * (3 * f.prec + m'.log2)))) := fun m' e' h => by
    simp only [fRsqrt, if_neg hm, Bool.false_eq_true, if_false, h]
  by_cases he : e % 2 = 0
  · rw [shape m e (if_pos he)]
    exact fRsqrt_even hf hrm hm he rfl
  · have hval : (m : ℝ) * (2 : ℝ) ^ e = (2 * m : ℕ) * (2 : ℝ) ^ (e - 1) := by
      rw [show e = (e - 1) + 1 by ring, zpow_add₀ two_ne_zero, zpow_one]
      push_cast
      ring_nf
    rw [shape (2 * m) (e - 1) (if_neg he), hval]
    exact fRsqrt_even hf hrm (by omega) (by omega) rfl

/-- A number that is a multiple of the spacing at it, and no greater than the greatest finite number, is its own rounding. -/
theorem roundTo_exact (hf : RealFmt f) (neg : Bool) {m : Nat} {e : ℤ} (hm : m ≠ 0) (hrem : roundRem f m e = 0)
    (hbig : (m : ℝ) * (2 : ℝ) ^ e ≤ ((2 : ℝ) ^ (f.fbits + 1) - 1) * (2 : ℝ) ^ (f.emax - f.fbits)) :
    ∃ m' e', unpackF f (roundTo f rm neg m e false).1 = .fin neg m' e' ∧ (m' : ℝ) * (2 : ℝ) ^ e' = m * (2 : ℝ) ^ e := by
  have hy : roundY f rm neg m e false = roundFloor f m e := by rw [roundY, stepUp, hrem, roundUp_exact]; rfl
  have hfrac : roundFrac f m e 0 = 0 := by rw [roundFrac, fracOf, hrem]; simp
  have hval := magnitude_eq (e := e) (Tail.none f m)
  rw [hfrac, add_zero, add_zero] at hval
  obtain ⟨hle, hge⟩ := roundY_range (e := e) (Tail.none f m) hm rm neg
  rw [hy] at hle hge
  have hmul : Multiple f (roundQ f m e) (roundFloor f m e) := ⟨le_max_right _ _, hle, hge⟩
  have hno : ¬ (2 ^ f.ebits - 1) * 2 ^ f.fbits ≤ magBits f (roundQ f m e) (roundFloor f m e) := fun h => by
    have := (overflow_iff hf hmul).mp h
    rw [← hval] at this
    linarith
  rw [roundTo_eq hm, hy, encode, if_neg hno, hval]
  exact unpack_magBits hmul neg (not_le.mp hno)

end

/-! ### FRND and FSCL (R236) -/

theorem f32_real : RealFmt f32 := .of_mem (by simp)

/-- A finite binary32 word: its significand and exponent. -/
theorem unpack_fin_f32 {w : Word32} {n : Bool} {m : Nat} {e : ℤ} (h : unpackF f32 w.toNat = .fin n m e) :
    n = w.msb ∧ m < 2 ^ 24 ∧ -149 ≤ e ∧ e ≤ 104 := by
  rw [unpackF_f32] at h
  split at h
  · cases h
  · split at h
    · cases h
    · next h1 h2 =>
      cases h
      have h3 : mag32 w < 0x7F800000 := by omega
      refine ⟨rfl, sig32_lt _, ?_, ?_⟩ <;> unfold exp32 <;> omega

theorem f32_big : ((2 : ℝ) ^ (f32.fbits + 1) - 1) * (2 : ℝ) ^ (f32.emax - f32.fbits) = (2 ^ 24 - 1) * (2 : ℝ) ^ (104 : ℤ) := by
  have h : f32.emax - f32.fbits = 104 := by decide
  rw [h]; rfl

/-- The integer that a finite binary32 number rounds to has its value in the format. -/
theorem roundInt_fits {w : Word32} {n : Bool} {m : Nat} {e : ℤ} (h : unpackF f32 w.toNat = .fin n m e) (rm : Nat) :
    roundRem f32 (roundInt rm n m e).1.natAbs 0 = 0 ∧
      ((roundInt rm n m e).1.natAbs : ℝ) * (2 : ℝ) ^ (0 : ℤ) ≤ ((2 : ℝ) ^ (f32.fbits + 1) - 1) * (2 : ℝ) ^ (f32.emax - f32.fbits) := by
  obtain ⟨-, hm, he1, he2⟩ := unpack_fin_f32 h
  have small : ∀ y : Nat, y < 2 ^ 24 → roundRem f32 y 0 = 0 ∧ (y : ℝ) * (2 : ℝ) ^ (0 : ℤ) ≤ (2 ^ 24 - 1) * (2 : ℝ) ^ (104 : ℤ) := by
    intro y hy
    have hlog : y.log2 ≤ 23 := by
      by_cases h0 : y = 0
      · rw [h0]; decide
      · have := (Nat.log2_lt h0).mpr hy
        omega
    have hq : f32.qmin = -149 := by decide
    have hfb : f32.fbits = 23 := rfl
    refine ⟨?_, ?_⟩
    · rw [roundRem, show roundSh f32 y 0 = 0 by unfold roundSh roundQ; omega, pow_zero, Nat.mod_one]
    · have hle : (y : ℝ) ≤ 2 ^ 24 - 1 := by
        have : (y : ℝ) + 1 ≤ 2 ^ 24 := by exact_mod_cast hy
        linarith
      rw [zpow_zero, mul_one]
      have h1 : (1 : ℝ) ≤ (2 : ℝ) ^ (104 : ℤ) := one_le_zpow₀ (by norm_num) (by norm_num)
      nlinarith
  rw [f32_big]
  have habs : (roundInt rm n m e).1.natAbs = stepUp rm n (scaleDown m e) (if 0 ≤ e then 0 else m % 2 ^ (-e).toNat) (-e).toNat false := by
    have : ∀ y : Nat, (if n then -(y : ℤ) else y).natAbs = y := fun y => by split <;> omega
    exact this _
  rw [habs]
  by_cases he : 0 < e
  · obtain ⟨k, hk⟩ := Int.eq_ofNat_of_zero_le he.le
    have hstep : stepUp rm n (scaleDown m e) (if 0 ≤ e then 0 else m % 2 ^ (-e).toNat) (-e).toNat false = m * 2 ^ k := by
      rw [if_pos he.le, stepUp, roundUp_exact, scaleDown, if_pos he.le, hk, Int.toNat_natCast, Nat.shiftLeft_eq]; rfl
    rw [hstep]
    by_cases hm0 : m = 0
    · rw [hm0, zero_mul]; exact small 0 (by decide)
    have hlog : (m * 2 ^ k).log2 < 24 + k := by
      rw [Nat.log2_lt (by positivity), pow_add]
      exact Nat.mul_lt_mul_of_pos_right hm (by positivity)
    have hq : f32.qmin = -149 := by decide
    have hfb : f32.fbits = 23 := rfl
    constructor
    · have hsh : roundSh f32 (m * 2 ^ k) 0 ≤ k := by unfold roundSh roundQ; omega
      rw [roundRem]
      exact Nat.mod_eq_zero_of_dvd ((Nat.pow_dvd_pow 2 hsh).trans (Dvd.intro_left m rfl))
    · have hle : (m : ℝ) ≤ 2 ^ 24 - 1 := by
        have : (m : ℝ) + 1 ≤ 2 ^ 24 := by exact_mod_cast hm
        linarith
      have hpow : (2 : ℝ) ^ k ≤ (2 : ℝ) ^ (104 : ℤ) := by
        rw [← zpow_natCast]; exact zpow_le_zpow_right₀ (by norm_num) (by omega)
      rw [zpow_zero, mul_one]
      push_cast
      exact mul_le_mul hle hpow (by positivity) (by norm_num)
  · refine small _ ?_
    have hle : scaleDown m e < 2 ^ 24 ∧ (e < 0 → scaleDown m e < 2 ^ 23) := by
      by_cases h0 : e = 0
      · subst h0
        rw [scaleDown, if_pos (le_refl 0)]
        exact ⟨by simpa using hm, fun h => absurd h (lt_irrefl 0)⟩
      · obtain ⟨k, hk⟩ := Int.eq_ofNat_of_zero_le (by omega : 0 ≤ -e - 1)
        rw [scaleDown, if_neg (by omega), show (-e).toNat = k + 1 by omega, Nat.shiftRight_eq_div_pow]
        have : m / 2 ^ (k + 1) < 2 ^ 23 := by
          rw [Nat.div_lt_iff_lt_mul (by positivity)]
          calc m < 2 ^ 24 := hm
            _ = 2 ^ 23 * 2 ^ 1 := by norm_num
            _ ≤ 2 ^ 23 * 2 ^ (k + 1) := by gcongr <;> omega
        exact ⟨by omega, fun _ => this⟩
    by_cases h0 : e = 0
    · rw [if_pos (by omega), stepUp, roundUp_exact]
      exact hle.1
    · have := hle.2 (by omega)
      rw [if_neg (by omega : ¬0 ≤ e), stepUp]
      split <;> omega

theorem signBit_unpack (n : Bool) : unpackF f32 (f32.signBit n) = .fin n 0 f32.qmin := by cases n <;> decide

/-- FRND gives the integer that the mode picks, in the format, with the sign of its operand. -/
theorem fRnd_rounds {rm : Nat} (hrm : rm < 4) {w : Word32} {n : Bool} {m : Nat} {e : ℤ} (h : unpackF f32 w.toNat = .fin n m e) (hm : m ≠ 0) :
    let r := fRnd f32 rm w.toNat
    r.2 = 0 ∧ ∃ m' e', unpackF f32 r.1 = .fin n m' e' ∧ ratOf (.fin n m' e') = (roundInt rm n m e).1 := by
  have hr : fRnd f32 rm w.toNat = ((roundTo f32 rm n (roundInt rm n m e).1.natAbs 0 false).1, 0) := by
    rw [fRnd, h]
    exact if_neg hm
  intro r
  refine ⟨by simp only [r, hr], ?_⟩
  simp only [r, hr]
  obtain ⟨y, hy, -⟩ := roundInt_picks rm n m e
  have habs : (roundInt rm n m e).1.natAbs = y := by rw [hy]; split <;> omega
  obtain ⟨hrem, hbig⟩ := roundInt_fits h rm
  rw [habs] at hrem hbig ⊢
  by_cases h0 : y = 0
  · refine ⟨0, f32.qmin, by rw [h0, roundTo_zero]; exact signBit_unpack n, ?_⟩
    rw [hy, h0, ratOf_eq_zero.mpr rfl]
    cases n <;> simp
  · obtain ⟨m', e', hu, hv⟩ := roundTo_exact (rm := rm) f32_real n h0 hrem hbig
    refine ⟨m', e', hu, ?_⟩
    rw [zpow_zero, mul_one] at hv
    have hv' : (m' : ℚ) * (2 : ℚ) ^ e' = y := by
      have : (((m' : ℚ) * (2 : ℚ) ^ e' : ℚ) : ℝ) = ((y : ℚ) : ℝ) := by push_cast; exact hv
      exact_mod_cast this
    rw [ratOf_fin, hv', hy]
    cases n <;> simp [signedQ]

end Sys2Proof.Machine
end

section
/-!
PROOF. The cross-lane words read their lanes at the word and write at the boundary (07 R165 to R177).
-/
namespace Sys2Proof.Machine
open Sys2Proof

/-! ### The image lines that a shuffle reads (R95, R97, R165) -/

/-- What a read of image lines comes to leaves a live environment live. -/
theorem outerLine_charged {s t : State} {g : Group} {c : Context} {line : Nat} (h : s.outerLine g c line = .ok t ∨ s.outerLine g c line = .poison t) :
    ∃ cs, t = { s with ctxs := cs } := by
  unfold State.outerLine at h
  dsimp only at h
  have same : ∃ cs, s = { s with ctxs := cs } := ⟨s.ctxs, rfl⟩
  split at h
  · simp only [reduceCtorEq, false_or, Outer.poison.injEq] at h; exact h ▸ same
  · split at h
    · simp only [reduceCtorEq, or_false, Outer.ok.injEq] at h; exact h ▸ same
    · split at h
      · simp at h
      · split at h
        · simp at h
        · split at h <;> simp only [reduceCtorEq, false_or, or_false, Outer.ok.injEq, Outer.poison.injEq] at h <;>
            exact h ▸ State.chargeLines_eq ..
      · simp at h

theorem State.outerLines_nil (s : State) (g : Group) (c : Context) : s.outerLines g c [] = .ok s := rfl

/-- Lines after a first one: what the first comes to, and where its values can be taken, the rest. -/
theorem State.outerLines_cons (s : State) (g : Group) (c : Context) (a : Nat) (l : List Nat) :
    s.outerLines g c (a :: l) = match s.outerLine g c a with
      | .ok t => t.outerLines g c l
      | .poison t => .poison t
      | .wait t => .wait t := by
  unfold State.outerLines
  rw [List.foldl_cons]
  dsimp only
  cases s.outerLine g c a with
  | ok t => rfl
  | poison t => induction l with
    | nil => rfl
    | cons _ _ ih => exact ih
  | wait t => induction l with
    | nil => rfl
    | cons _ _ ih => exact ih

theorem outerLines_charged {s t : State} {g : Group} {c : Context} {l : List Nat}
    (h : s.outerLines g c l = .ok t ∨ s.outerLines g c l = .poison t) : ∃ cs, t = { s with ctxs := cs } := by
  induction l generalizing s with
  | nil =>
    rw [State.outerLines_nil] at h
    simp only [reduceCtorEq, or_false, Outer.ok.injEq] at h
    exact ⟨s.ctxs, h ▸ rfl⟩
  | cons a l ih =>
    rw [State.outerLines_cons] at h
    cases ha : s.outerLine g c a with
    | ok u =>
      rw [ha] at h
      obtain ⟨c1, rfl⟩ := outerLine_charged (.inl ha)
      obtain ⟨c2, rfl⟩ := ih h
      exact ⟨c2, rfl⟩
    | poison u =>
      rw [ha] at h
      simp only [reduceCtorEq, false_or, Outer.poison.injEq] at h
      exact h ▸ outerLine_charged (.inr ha)
    | wait u => rw [ha] at h; simp at h

/-- Lines in the file are taken from there, without a look at the machine; the first poisoned one is a fault (R97). -/
theorem outerLines_in {s : State} {g : Group} {c : Context} {l : List Nat} (h : ∀ a ∈ l, a ∈ g.linesIn) :
    s.outerLines g c l = if ∃ a ∈ l, a ∈ g.poison then .poison s else .ok s := by
  induction l with
  | nil => simp [State.outerLines_nil]
  | cons a l ih =>
    have hin : g.linesIn.contains a = true := by simpa using h a (by simp)
    rw [State.outerLines_cons, State.outerLine, hin]
    by_cases hp : a ∈ g.poison
    · simp [hp]
    · simp [hp, ih fun b hb => h b (by simp [hb])]

theorem mem_shflLines {o : OpF} {e : Env} {line : Nat} :
    line ∈ shflLines o e ↔ ∃ L ∈ e.setE o, ∃ j, (shflSource o.low2 (128 / 2 ^ o.cond) L (e.v32 L o.b).w = some j ∧ j / 32 ∉ quires e.r.active) ∧
      vLine o.a.toNat (j / 32) = line := by
  simp only [shflLines, shflSources, List.mem_map, List.mem_filter, List.mem_dedup, List.mem_filterMap, Bool.not_eq_true',
    List.contains_eq_mem, decide_eq_false_iff_not]
  constructor
  · rintro ⟨_, ⟨⟨j, ⟨L, hL, hj⟩, rfl⟩, hq⟩, rfl⟩
    exact ⟨L, hL, j, ⟨hj, hq⟩, rfl⟩
  · rintro ⟨L, hL, j, ⟨hj, hq⟩, rfl⟩
    exact ⟨_, ⟨⟨j, ⟨L, hL, hj⟩, rfl⟩, hq⟩, rfl⟩

/-! ### What the words answer (R168, R170, R174) -/

theorem all_id_map {α : Type} (l : List α) (f : α → Bool) : (l.map f).all id = decide (∀ x ∈ l, f x = true) := by
  rw [List.all_map, Bool.eq_iff_iff]; simp
theorem all_not_map {α : Type} (l : List α) (f : α → Bool) : ((l.map f).all fun b => !b) = decide (∀ x ∈ l, f x = false) := by
  rw [List.all_map, Bool.eq_iff_iff]; simp
theorem any_id_map {α : Type} (l : List α) (f : α → Bool) : (l.map f).any id = decide (∃ x ∈ l, f x = true) := by
  rw [List.any_map, Bool.eq_iff_iff]; simp

theorem voteResult_spec (form : Nat) (l : List Nat) (f : Nat → Bool) : voteResult form (l.map f) = match form with
    | 0 => decide (∀ L ∈ l, f L = true)
    | 1 => decide (∃ L ∈ l, f L = true)
    | 2 => decide (∀ L ∈ l, f L = true) || decide (∀ L ∈ l, f L = false)
    | _ => decide ((l.filter f).length % 2 = 1) := by
  match form with
  | 0 => exact all_id_map l f
  | 1 => exact any_id_map l f
  | 2 =>
    show ((l.map f).all id || (l.map f).all fun b => !b) = _
    rw [all_id_map, all_not_map]
    rfl
  | _ + 3 =>
    show (((l.map f).filter id).length % 2 == 1) = _
    rw [List.filter_map, List.length_map, Bool.eq_iff_iff]
    simp

/-- What SHFL writes in a lane: the value of its source lane, or its own. -/
theorem shflLane_eq (o : OpF) (e : Env) (L : Nat) :
    let x : Val 32 := match shflSource o.low2 (128 / 2 ^ o.cond) L (e.v32 L o.b).w with
      | none => e.v32 L o.a
      | some j => e.supply32 j o.a
    shflLane o e L = { lane := L, v := [(o.d.toNat, { w := x.w, t := e.dt L (x.t || (e.v32 L o.b).t) })] } := by
  dsimp only
  unfold shflLane
  dsimp only
  cases shflSource o.low2 (128 / 2 ^ o.cond) L (e.v32 L o.b).w <;> rfl

/-- What COMPACT writes at the place of a lane. -/
theorem compactLane_eq (o : OpF) (e : Env) (src : Option Nat) (t : Nat) (ct : Bool) :
    (match src with
      | some u => { e.put32 t o.d { e.v32 u o.a with t := (e.v32 u o.a).t || ct } with preds := [.push true], ct := ct }
      | none => ({ lane := t, preds := [.push false], ct := ct } : LaneWrite)) =
    match src with
      | some u => { lane := t, v := [(o.d.toNat, { w := (e.v32 u o.a).w, t := e.dt t ((e.v32 u o.a).t || ct) })],
                    preds := [.push true], ct := ct }
      | none => { lane := t, preds := [.push false], ct := ct } := by
  cases src <;> rfl

/-- A word that pushes one predicate in each of its lanes and writes S registers (R174). -/
theorem push_uniform_word {s : State} {e : Env} (h : env? s = some e) {i : Instr} {E : List Nat} (hn : E.Nodup) {b : Nat → Bool} {ct : Bool}
    {sregs : List (Nat × SCell)} (hct : ct = (e.det && ct))
    (hi : exec i s = .next (retire (rbOf i) e { lanes := E.map fun t => e.pushP t false (b t) ct, sregs := sregs }))
    {val : Nat → Option SCell} (hv : ∀ n, Table.get {} (sregs.foldl (fun s p => Table.set {} s p.1 p.2) e.r.s) n = (val n).getD (e.scell n)) :
    ∃ t e', exec i s = .next t ∧ Retires s t e e' (rbOf i) ∧ WritesP e e' E (fun L => pushed false (e.th L).pred (b L)) ∧
      SetsCt e e' E (fun _ => ct) ∧ KeepsV e e' ∧ KeepsX e e' ∧ KeepsF e e' ∧ KeepsD e e' ∧ NextPcs e e' ∧ KeepsBoundary e e' ∧
      WritesS e e' val := by
  obtain ⟨t, e', hex, hret, hth, hs, hw, hdef, heff, hctl, hpause, hexit, htf, -⟩ := retire_next h hi
  have hlane : ∀ L, L < e.g.lanes.length → e'.th L =
      (let t := if L ∈ E then (e.th L).apply (e.pushP L false (b L) ct) else e.th L
       if e.r.active.getLsbD L then { t with pc := e.r.at_ + 8 } else t) := by
    intro L hL
    rw [hth L hL]
    exact afterWord_lanes e E _ (fun _ _ => rfl) hn L
  refine ⟨t, e', hex, hret, fun L hL => ?_, fun L hL => ?_, fun L hL => ?_, fun L hL => ?_, fun L hL => ?_, fun L hL => ?_, fun L hL => ?_,
    ⟨by simpa using hdef, by simpa using heff, by simpa using hctl, by simpa using hpause, by simpa using hexit, by simpa using htf⟩,
    fun n => by rw [Env.scell, hs]; exact hv n⟩ <;> rw [hlane L hL]
  all_goals
    by_cases hE : L ∈ E
    · simp only [hE, if_true]
      split <;> simp [Thread.apply, Env.pushP, predOp, pushed, ← hct]
    · simp only [hE, if_false]; split <;> rfl

/-- Settles O21: E is shuffled, asked and counted at the word; what a shuffle takes from outside the active set is what its image lines come
to (R95, R97, R165). -/
theorem crossLaneResults : Obligations.CrossLaneResults := by
  unfold Obligations.CrossLaneResults
  intro s e o h E ct P from_ vote pick src val tt first shuffled source
  have hs : s = e.s := (env?_inv h).1.symm
  have hdefer : (DForm.ready ((e.setE o).map (shflLane o e)) []) = shuffled := by
    refine congrArg (DForm.ready · []) (List.map_congr_left fun L _ => ?_)
    exact shflLane_eq o e L
  have completes : ∀ x, e.s.outerLines e.g e.ctx (shflLines o e) = .ok x → exec (.shfl o) s = .next (retire (rbOf (.shfl o)) { e with s := x } { defer := [shuffled] }) := by
    intro x hx
    refine word_retires h (exec_shfl o s) ?_
    simp only [hx, hdefer]
  have poisons : ∀ x, e.s.outerLines e.g e.ctx (shflLines o e) = .poison x → FaultsAt s { e with s := x } (.shfl o) 8 0 e.r.active := by
    intro x hx
    refine fault_word ((live_of_env? h).charged (outerLines_charged (.inr hx))) (word_faults h (exec_shfl o s) ?_) (k := 0)
    simp only [hx]
  have inFile : (∀ L ∈ E, ∀ j, source L j → vLine o.a.toNat (j / 32) ∈ e.g.linesIn) → ∀ a ∈ shflLines o e, a ∈ e.g.linesIn := by
    intro hall a ha
    obtain ⟨L, hL, j, hj, rfl⟩ := mem_shflLines.mp ha
    exact hall L hL j hj
  refine ⟨fun hall => ?_, fun hall hsome => ?_, fun x => ⟨fun hx => ?_, poisons x, fun hx => ?_⟩, ?_, ?_, ?_, ?_, ?_⟩
  · refine defers_word h _ _ (completes e.s ?_)
    rw [outerLines_in (inFile fun L hL j hj => (hall L hL j hj).1), if_neg]
    rintro ⟨a, ha, hp⟩
    obtain ⟨L, hL, j, hj, rfl⟩ := mem_shflLines.mp ha
    exact (hall L hL j hj).2 hp
  · refine poisons e.s ?_
    obtain ⟨L, hL, j, hj, hp⟩ := hsome
    rw [outerLines_in (inFile hall), if_pos ⟨_, mem_shflLines.mpr ⟨L, hL, j, hj, rfl⟩, hp⟩]
  · exact boundary_word ((live_of_env? h).charged (outerLines_charged (.inl hx))) (completes x hx)
  · rw [exec_shfl, execShfl, word_eq h]
    simp only [hx]
  · refine defers_word h _ _ (word_retires h (exec_vote o s) ?_)
    have answer : voteResult o.low2 (E.map P) = vote := voteResult_spec o.low2 E P
    rw [← answer]
    rfl
  · exact defers_word h _ _ (word_retires h (exec_ballot o s) rfl)
  · exact defers_word h _ _ (word_retires h (exec_matchLanes o s) rfl)
  · refine defers_word h _ _ (word_retires h (exec_compact o s) ?_)
    simp only [compactLane_eq]
    rfl
  · refine push_uniform_word h (e.setE_nodup o) (by simp [Env.ctIn, ct]) (word_retires h (exec_elect o s) rfl) fun n => ?_
    by_cases hb : o.bit 0 = true
    · simp only [hb, if_true, true_and, List.foldl_cons, List.foldl_nil, Table.get_set, Env.scell]
      split
      · rfl
      · rfl
    · simp [hb, Env.scell]

end Sys2Proof.Machine
end

section
/-!
PROOF. REDUX, SCAN, ISECT and MERGE (07 R171 to R173, R175 to R177): MERGE orders the keys of a segment, and what the four words leave for
the boundary.
-/
namespace Sys2Proof.Machine
open Sys2Proof

/-! ### The order of MERGE (R177) -/

theorem insertKey_perm (x : Nat × Bool) (l : List (Nat × Bool)) : (insertKey x l).Perm (x :: l) := by
  induction l with
  | nil => exact .refl _
  | cons y rest ih =>
    unfold insertKey
    split
    · exact .refl _
    · exact (ih.cons y).trans (.swap x y rest)

/-- One key stands before another: by key, and of equal keys those of a first. -/
def KeyLe (x y : Nat × Bool) : Prop := x.1 < y.1 ∨ (x.1 = y.1 ∧ (y.2 = true → x.2 = true))

theorem insertKey_sorted {x : Nat × Bool} {l : List (Nat × Bool)} (hl : l.Pairwise KeyLe) (hx : ∀ y ∈ l, x.2 = true → y.2 = true) :
    (insertKey x l).Pairwise KeyLe := by
  induction l with
  | nil => exact List.pairwise_singleton _ _
  | cons y rest ih =>
    obtain ⟨hy, hrest⟩ := List.pairwise_cons.mp hl
    unfold insertKey
    split
    · next hlt =>
      refine List.pairwise_cons.mpr ⟨fun z hz => .inl ?_, hl⟩
      obtain rfl | hz := List.mem_cons.mp hz
      · exact hlt
      · obtain h | ⟨h, -⟩ := hy z hz
        · exact hlt.trans h
        · exact h ▸ hlt
    · next hge =>
      refine List.pairwise_cons.mpr ⟨fun z hz => ?_, ih hrest fun z hz => hx z (by simp [hz])⟩
      obtain rfl | hz := List.mem_cons.mp ((insertKey_perm x rest).mem_iff.mp hz)
      · obtain h | h := Nat.lt_or_eq_of_le (Nat.le_of_not_lt hge)
        · exact .inl h
        · exact .inr ⟨h, hx y (by simp)⟩
      · exact hy z hz

theorem foldl_insertKey_perm (acc l : List (Nat × Bool)) : (l.foldl (fun l x => insertKey x l) acc).Perm (acc ++ l) := by
  induction l generalizing acc with
  | nil => simp
  | cons x l ih => exact (ih _).trans (((insertKey_perm x acc).append_right l).trans List.perm_middle.symm)

/-- Keys of which those of a come first are inserted in order. -/
theorem foldl_insertKey_sorted {acc l : List (Nat × Bool)} (hacc : acc.Pairwise KeyLe) (hbefore : ∀ y ∈ acc, ∀ x ∈ l, x.2 = true → y.2 = true)
    (hl : l.Pairwise fun y x => x.2 = true → y.2 = true) : (l.foldl (fun l x => insertKey x l) acc).Pairwise KeyLe := by
  induction l generalizing acc with
  | nil => exact hacc
  | cons x l ih =>
    obtain ⟨hx, hrest⟩ := List.pairwise_cons.mp hl
    refine ih (insertKey_sorted hacc fun y hy => hbefore y hy x (by simp)) (fun y hy z hz => ?_) hrest
    obtain rfl | hy := List.mem_cons.mp ((insertKey_perm x acc).mem_iff.mp hy)
    · exact hx z hz
    · exact hbefore y hy z (by simp [hz])

theorem mergeOrder_perm (a b : List Nat) : (mergeOrder a b).Perm (a.map (·, true) ++ b.map (·, false)) :=
  foldl_insertKey_perm [] _

theorem mergeOrder_sorted (a b : List Nat) : (mergeOrder a b).Pairwise KeyLe := by
  refine foldl_insertKey_sorted List.Pairwise.nil (fun y hy => absurd hy List.not_mem_nil) ?_
  simp only [List.pairwise_append, List.pairwise_map]
  exact ⟨List.pairwise_of_forall fun _ _ h => h, List.pairwise_of_forall fun _ _ h => h, by simp⟩

/-! ### The keys of a segment (R175) -/

/-- A key of a segment is a 32-bit word. -/
theorem segKeys_lt {e : Env} {es : List Nat} {seg : Nat} {a : BitVec 8} {n : Nat} (h : n ∈ segKeys e es seg a) : n < 2 ^ 32 := by
  simp only [segKeys, List.mem_map] at h
  obtain ⟨i, -, rfl⟩ := h
  split
  · exact (e.v32 _ a).w.isLt
  · decide

theorem mergeOrder_getD_lt {a b : List Nat} (ha : ∀ n ∈ a, n < 2 ^ 32) (hb : ∀ n ∈ b, n < 2 ^ 32) (i : Nat) :
    ((mergeOrder a b).getD i (0, false)).1 < 2 ^ 32 := by
  rw [List.getD_eq_getElem?_getD]
  cases h : (mergeOrder a b)[i]? with
  | none => decide
  | some x =>
    have hx := (mergeOrder_perm a b).mem_iff.mp (List.mem_of_getElem? h)
    simp only [List.mem_append, List.mem_map] at hx
    obtain ⟨n, hn, rfl⟩ | ⟨n, hn, rfl⟩ := hx
    · exact ha n hn
    · exact hb n hn

/-- The two halves of a register pair written from two 32-bit words. -/
theorem pair_low (lo hi : Nat) : (BitVec.ofNat 64 (lo + 2 ^ 32 * hi)).extractLsb' 0 32 = BitVec.ofNat 32 lo := by
  apply BitVec.eq_of_toNat_eq
  simp only [BitVec.extractLsb'_toNat, BitVec.toNat_ofNat, Nat.shiftRight_zero]
  omega
theorem pair_high {lo : Nat} (h : lo < 2 ^ 32) (hi : Nat) : (BitVec.ofNat 64 (lo + 2 ^ 32 * hi)).extractLsb' 32 32 = BitVec.ofNat 32 hi := by
  apply BitVec.eq_of_toNat_eq
  simp only [BitVec.extractLsb'_toNat, BitVec.toNat_ofNat, Nat.shiftRight_eq_div_pow]
  omega

/-- The place of the first element of a list that has a property is that of the first index whose element has it. -/
theorem findIdx?_map_range (n : Nat) (f : Nat → Nat) (p : Nat → Bool) :
    ((List.range n).map f).findIdx? p = (List.range n).find? fun j => p (f j) := by
  rw [List.findIdx?_map, List.find?_eq_bind_findIdx?_getElem?]
  change (List.range n).findIdx? (fun j => p (f j)) = _
  cases h : (List.range n).findIdx? fun j => p (f j) with
  | none => rfl
  | some j =>
    obtain ⟨hj, -⟩ := List.findIdx?_eq_some_iff_getElem.mp h
    exact (List.getElem?_range (by simpa using hj)).symm

/-- Settles O22: E is read at the word; ISECT and MERGE look at the 16 lanes of the segment (R175 to R177). -/
theorem reductionsAreDeferred : Obligations.ReductionsAreDeferred := by
  unfold Obligations.ReductionsAreDeferred
  intro s e o h E l tt r upTo op sg
  refine ⟨defers_word h _ _ (word_retires h (exec_redux o s) ?_), fun hw => ?_, fun hw => ?_, ?_⟩
  · have width : (if o.wide = true then BitVec.ofNat 64 r.1 else if o.ty = 0 then (BitVec.ofNat 32 r.1).signExtend 64 else BitVec.ofNat 64 r.1) =
        if o.wide = false ∧ o.ty = 0 then (BitVec.ofNat 32 r.1).signExtend 64 else BitVec.ofNat 64 r.1 := by
      cases o.wide <;> simp
    rw [← width]
  · refine defers_word h _ _ (word_retires h (exec_scan o s) ?_)
    simp only [hw, if_true, upTo, E, op, sg]
  · refine defers_word h _ _ (word_retires h (exec_scan o s) ?_)
    simp only [hw, Bool.false_eq_true, if_false, upTo, E, op, sg]
  intro seg key ct least upToLeast place merged fromA cell
  have keys : ∀ (a : BitVec 8) (L : Nat), segKeys e E (L / 16) a = seg.map (key a L) := by
    intro a L
    simp only [segKeys, seg, key, List.contains_eq_mem, decide_eq_true_eq]
  have upToEq : ∀ (a : BitVec 8) (L : Nat), (((seg.map (key a L)).filter fun x => decide (x ≤ least L)).length) = upToLeast a L := by
    intro a L
    rw [List.filter_map, List.length_map]
    rfl
  have ranked : ∀ L ∈ E, L % 16 < 16 := fun L _ => Nat.mod_lt _ (by decide)
  refine ⟨?_, ?_⟩
  · refine defers_word h _ _ (word_retires h (exec_isect o s) ?_)
    have lanes : E.map (isectLane o e E) = E.map fun L => { lane := L, v :=
        [(o.d.toNat, cell (place L) L), (o.c.toNat, cell (upToLeast o.a L + 256 * upToLeast o.b L) L)] } := by
      refine List.map_congr_left fun L hL => ?_
      have own : (seg.map (key o.a L)).getD (L % 16) 0 = key o.a L (L % 16) := by
        rw [List.getD_eq_getElem?_getD, List.getElem?_map, List.getElem?_range (ranked L hL)]
        rfl
      simp only [isectLane, keys, own]
      rw [upToEq, upToEq, findIdx?_map_range]
      simp only [place, seg]
      cases (List.range 16).find? fun j => key o.b L j == key o.a L (L % 16) <;> rfl
    exact congrArg (fun l => WordOut.retire e { defer := [.ready l []] }) lanes
  · refine defers_word h _ _ (word_retires h (exec_merge o s) ?_)
    have lanes : E.map (mergeLane o e E) = E.map fun L => { lane := L, v :=
        [(o.d.toNat, cell ((merged L).getD (L % 16) (0, false)).1 L), (o.d.toNat + 1, cell ((merged L).getD (16 + L % 16) (0, false)).1 L),
         (o.c.toNat, cell (fromA L + 256 * (16 - fromA L)) L)] } := by
      refine List.map_congr_left fun L hL => ?_
      simp only [mergeLane, keys, Env.put64, Env.put32, pair_low, List.cons_append, List.nil_append]
      rw [pair_high (mergeOrder_getD_lt (fun n hn => segKeys_lt ((keys o.a L).symm ▸ hn)) (fun n hn => segKeys_lt ((keys o.b L).symm ▸ hn)) _)]
      rfl
    exact congrArg (fun l => WordOut.retire e { defer := [.ready l []] }) lanes

end Sys2Proof.Machine
end

section
/-!
PROOF. The values of SCAN, SHFL and REDUX (07 R166, R167, R171 to R173; 08 R193; 14 R357).
-/
namespace Sys2Proof.Machine
open Sys2Proof

/-! ### The order of integers -/

/-- The place of an integer in the order of its type. -/
def rankI {w : Nat} (sg : Bool) (a : BitVec w) : ℤ := if sg then a.toInt else a.toNat

theorem intLt_iff {w : Nat} (sg : Bool) (a b : BitVec w) : intLt sg a b = true ↔ rankI sg a < rankI sg b := by
  cases sg
  · simp [intLt, rankI, BitVec.ult_eq_decide]
  · simp [intLt, rankI, BitVec.slt_eq_decide]

theorem rankI_inj {w : Nat} {sg : Bool} {a b : BitVec w} (h : rankI sg a = rankI sg b) : a = b := by
  cases sg
  · exact BitVec.eq_of_toNat_eq (by simpa [rankI] using h)
  · exact BitVec.eq_of_toInt_eq (by simpa [rankI] using h)

theorem minI_le {w : Nat} (sg : Bool) (a b : BitVec w) :
    (minI sg w a b = a ∨ minI sg w a b = b) ∧ rankI sg (minI sg w a b) ≤ rankI sg a ∧ rankI sg (minI sg w a b) ≤ rankI sg b := by
  unfold minI
  split
  · next h => exact ⟨.inr rfl, ((intLt_iff sg b a).mp h).le, le_rfl⟩
  · next h => exact ⟨.inl rfl, le_rfl, not_lt.mp fun hlt => h ((intLt_iff sg b a).mpr hlt)⟩

theorem maxI_ge {w : Nat} (sg : Bool) (a b : BitVec w) :
    (maxI sg w a b = a ∨ maxI sg w a b = b) ∧ rankI sg a ≤ rankI sg (maxI sg w a b) ∧ rankI sg b ≤ rankI sg (maxI sg w a b) := by
  unfold maxI
  split
  · next h => exact ⟨.inr rfl, ((intLt_iff sg a b).mp h).le, le_rfl⟩
  · next h => exact ⟨.inl rfl, le_rfl, not_lt.mp fun hlt => h ((intLt_iff sg a b).mpr hlt)⟩

/-- The identities of the least and the greatest are the ends of the order. -/
theorem rankI_le_unit {w : Nat} (hw : 0 < w) (sg : Bool) (x : BitVec w) : rankI sg x ≤ rankI sg (scanUnit 1 sg w) := by
  cases sg
  · simp only [rankI, scanUnit, Bool.false_eq_true, if_false, BitVec.toNat_allOnes]
    have := x.isLt
    omega
  · simp only [rankI, scanUnit, if_true, BitVec.toInt_intMax]
    have := BitVec.toInt_lt (x := x)
    omega

theorem unit_le_rankI {w : Nat} (hw : 0 < w) (sg : Bool) (x : BitVec w) : rankI sg (scanUnit 2 sg w) ≤ rankI sg x := by
  cases sg
  · simp [rankI, scanUnit]
  · simp only [rankI, scanUnit, if_true, BitVec.toInt_intMin_of_pos hw]
    exact BitVec.le_toInt x

/-- The identity of an operation leaves every operand as it is (R173). -/
theorem reduxOp_unit {w : Nat} (hw : 0 < w) {op : Nat} (hop : op < 6) (sg : Bool) (x : BitVec w) : reduxOp op sg w (scanUnit op sg w) x = x := by
  match op, hop with
  | 0, _ => exact BitVec.zero_add x
  | 1, _ =>
    obtain ⟨h | h, -, hle⟩ := minI_le sg (scanUnit 1 sg w) x
    · exact rankI_inj (le_antisymm hle ((rankI_le_unit hw sg x).trans_eq (congrArg (rankI sg) h.symm)))
    · exact h
  | 2, _ =>
    obtain ⟨h | h, -, hle⟩ := maxI_ge sg (scanUnit 2 sg w) x
    · exact rankI_inj (le_antisymm ((congrArg (rankI sg) h).trans_le (unit_le_rankI hw sg x)) hle)
    · exact h
  | 3, _ => exact BitVec.allOnes_and
  | 4, _ => exact BitVec.zero_or
  | 5, _ => exact BitVec.zero_xor

/-! ### Scans (R173) -/

theorem scanFrom_get {w : Nat} (f : BitVec w → BitVec w → BitVec w) (excl : Bool) (acc : BitVec w) (l : List (BitVec w)) {i : Nat} (hi : i < l.length) :
    (scanFrom f excl acc l)[i]? = some ((l.take (if excl then i else i + 1)).foldl f acc) := by
  induction l generalizing acc i with
  | nil => simp at hi
  | cons x rest ih =>
    match i with
    | 0 => cases excl <;> rfl
    | i + 1 =>
      rw [scanFrom, List.getElem?_cons_succ, ih _ (by simpa using hi)]
      cases excl <;> rfl

/-! ### Folds that choose -/

/-- A fold that always keeps one of two operands, not after either, ends with one that is not after any. -/
theorem foldl_choice {α : Type} {f : α → α → α} {le : α → α → Prop} (hrefl : ∀ a, le a a) (htrans : ∀ a b c, le a b → le b c → le a c)
    (hf : ∀ a b, (f a b = a ∨ f a b = b) ∧ le (f a b) a ∧ le (f a b) b) (x : α) (rest : List α) :
    rest.foldl f x ∈ x :: rest ∧ ∀ y ∈ x :: rest, le (rest.foldl f x) y := by
  induction rest generalizing x with
  | nil => simp [hrefl]
  | cons b rest ih =>
    obtain ⟨hmem, hle⟩ := ih (f x b)
    obtain ⟨hsel, ha, hb⟩ := hf x b
    have first := hle _ List.mem_cons_self
    refine ⟨?_, fun y hy => ?_⟩
    · obtain h | h := List.mem_cons.mp hmem
      · rw [List.foldl_cons, h]
        obtain h | h := hsel <;> simp [h]
      · exact List.mem_cons_of_mem _ (List.mem_cons_of_mem _ h)
    · obtain rfl | rfl | hy := List.mem_cons.mp hy |>.imp_right List.mem_cons.mp
      · exact htrans _ _ _ first ha
      · exact htrans _ _ _ first hb
      · exact hle y (List.mem_cons_of_mem _ hy)

/-! ### The integer operations of REDUX (R171) -/

theorem foldl_add_toNat {w : Nat} (x : BitVec w) (rest : List (BitVec w)) :
    (rest.foldl (· + ·) x).toNat = ((x :: rest).map BitVec.toNat).sum % 2 ^ w := by
  induction rest generalizing x with
  | nil => simp
  | cons b rest ih =>
    rw [List.foldl_cons, ih]
    simp only [List.map_cons, List.sum_cons, BitVec.toNat_add, Nat.mod_add_mod, Nat.add_assoc]

theorem foldl_and_bit {w : Nat} (x : BitVec w) (rest : List (BitVec w)) (i : Nat) :
    (rest.foldl (· &&& ·) x).getLsbD i = (x :: rest).all fun y => y.getLsbD i := by
  induction rest generalizing x with
  | nil => simp
  | cons b rest ih => simp [ih, Bool.and_assoc]

theorem foldl_or_bit {w : Nat} (x : BitVec w) (rest : List (BitVec w)) (i : Nat) :
    (rest.foldl (· ||| ·) x).getLsbD i = (x :: rest).any fun y => y.getLsbD i := by
  induction rest generalizing x with
  | nil => simp
  | cons b rest ih => simp [ih, Bool.or_assoc]

theorem foldl_xor_bit {w : Nat} (x : BitVec w) (rest : List (BitVec w)) (i : Nat) :
    (rest.foldl (· ^^^ ·) x).getLsbD i = decide (((x :: rest).filter fun y => y.getLsbD i).length % 2 = 1) := by
  induction rest generalizing x with
  | nil => cases h : x.getLsbD i <;> simp [h]
  | cons b rest ih =>
    rw [List.foldl_cons, ih]
    cases hx : x.getLsbD i <;> cases hb : b.getLsbD i <;> simp [hx, hb, Nat.add_mod, List.filter_cons]
    all_goals omega

/-- The operands of an integer REDUX at the width of its type. -/
def operands (w : Nat) (l : List Word64) : List (BitVec w) := l.map fun x => x.extractLsb' 0 w

theorem operands_toNat (w : Nat) (l : List Word64) : (operands w l).map BitVec.toNat = l.map fun x => x.toNat % 2 ^ w := by
  simp [operands, Function.comp_def]

/-- Operations 0 to 5 fold the operands from the first one, and raise no flag. -/
theorem reduxOne_int {o : OpF} {l : List Word64} {x : Word64} {rest : List Word64} (hl : l = x :: rest) (hop : o.field 3 4 < 6) {w : Nat}
    (hw : w = if o.wide then 64 else 32) :
    reduxOne o l (reduxVal o l) =
      (((operands w rest).foldl (reduxOp (o.field 3 4) (signedTy o.ty) w) (x.extractLsb' 0 w)).toNat, 0) := by
  subst hl
  rw [reduxOne, if_neg (by omega), reduxVal]
  split
  · omega
  · omega
  · omega
  · omega
  · cases hwide : o.wide
    · simp only [hwide, Bool.false_eq_true, if_false] at hw ⊢
      subst hw
      rw [operands, List.foldl_map]
      rfl
    · simp only [hwide, if_true] at hw ⊢
      subst hw
      have full : ∀ y : Word64, y.extractLsb' 0 64 = y := fun y => BitVec.extractLsb'_eq_self
      simp only [operands, full, List.map_id']
      rfl

/-- The rank of the statement is the place in the order of the type. -/
theorem rank_toNat {w : Nat} (hw : 0 < w) (sg : Bool) (y : BitVec w) :
    (if sg = true ∧ 2 ^ (w - 1) ≤ y.toNat then (y.toNat : ℤ) - 2 ^ w else y.toNat) = rankI sg y := by
  cases sg
  · simp [rankI]
  · have hpow : 2 ^ w = 2 * 2 ^ (w - 1) := by rw [← pow_succ', Nat.sub_add_cancel hw]
    simp only [rankI, true_and, if_true, BitVec.toInt_eq_toNat_cond]
    push_cast
    by_cases h : 2 ^ (w - 1) ≤ y.toNat
    · rw [if_pos h, if_neg (by omega)]
    · rw [if_neg h, if_pos (by omega)]

/-- What the integer operations of REDUX give (R171). -/
theorem redux_int {w : Nat} (hw : 0 < w) (op : Nat) (hop : op < 6) (sg : Bool) (x : BitVec w) (rest : List (BitVec w)) :
    let r := rest.foldl (reduxOp op sg w) x
    let xs := (x :: rest).map BitVec.toNat
    let rank (n : Nat) : ℤ := if sg = true ∧ 2 ^ (w - 1) ≤ n then (n : ℤ) - 2 ^ w else n
    (op = 0 → r.toNat = xs.sum % 2 ^ w) ∧
    (op = 1 → r.toNat ∈ xs ∧ ∀ n ∈ xs, rank r.toNat ≤ rank n) ∧
    (op = 2 → r.toNat ∈ xs ∧ ∀ n ∈ xs, rank n ≤ rank r.toNat) ∧
    ∀ i, i < w → (op = 3 → r.toNat.testBit i = xs.all fun n => n.testBit i) ∧ (op = 4 → r.toNat.testBit i = xs.any fun n => n.testBit i) ∧
      (op = 5 → r.toNat.testBit i = decide ((xs.filter fun n => n.testBit i).length % 2 = 1)) := by
  intro r xs rank
  have ranks : ∀ y : BitVec w, rank y.toNat = rankI sg y := rank_toNat hw sg
  refine ⟨?_, ?_, ?_, fun i _ => ⟨?_, ?_, ?_⟩⟩ <;> rintro rfl
  · exact foldl_add_toNat x rest
  · obtain ⟨hmem, hle⟩ := foldl_choice (f := minI sg w) (le := fun a b => rankI sg a ≤ rankI sg b) (fun _ => le_rfl)
      (fun _ _ _ => le_trans) (minI_le sg) x rest
    refine ⟨List.mem_map_of_mem hmem, fun n hn => ?_⟩
    obtain ⟨y, hy, rfl⟩ := List.mem_map.mp hn
    exact (ranks r).trans_le ((hle y hy).trans_eq (ranks y).symm)
  · obtain ⟨hmem, hle⟩ := foldl_choice (f := maxI sg w) (le := fun a b => rankI sg b ≤ rankI sg a) (fun _ => le_rfl)
      (fun _ _ _ h g => le_trans g h) (maxI_ge sg) x rest
    refine ⟨List.mem_map_of_mem hmem, fun n hn => ?_⟩
    obtain ⟨y, hy, rfl⟩ := List.mem_map.mp hn
    exact (ranks y).trans_le ((hle y hy).trans_eq (ranks r).symm)
  · exact (foldl_and_bit x rest i).trans (by rw [List.all_map]; rfl)
  · exact (foldl_or_bit x rest i).trans (by rw [List.any_map]; rfl)
  · exact (foldl_xor_bit x rest i).trans (by rw [List.filter_map, List.length_map]; rfl)

/-! ### SHFL stays in its segment (R167) -/

theorem shflSource_segment {mode k t j : Nat} {b : Word32} (h : shflSource mode (2 ^ k) t b = some j) : j / 2 ^ k = t / 2 ^ k := by
  have hpos : 0 < 2 ^ k := by positivity
  have within : ∀ r : Nat, r < 2 ^ k → (t / 2 ^ k * 2 ^ k + r) / 2 ^ k = t / 2 ^ k := fun r hr => by
    rw [Nat.mul_comm, Nat.mul_add_div hpos, Nat.div_eq_of_lt hr, add_zero]
  unfold shflSource at h
  dsimp only at h
  split at h
  · split at h <;> simp only [reduceCtorEq, Option.some.injEq] at h
    next hr => exact h ▸ within _ hr
  · simp only [Option.some.injEq] at h
    refine h ▸ within _ ?_
    have h1 := Int.emod_lt_of_pos ((t : ℤ) - (t / 2 ^ k * 2 ^ k : ℕ) + b.toInt) (show (0 : ℤ) < (2 ^ k : ℕ) by exact_mod_cast hpos)
    have h2 := Int.emod_nonneg ((t : ℤ) - (t / 2 ^ k * 2 ^ k : ℕ) + b.toInt) (show ((2 ^ k : ℕ) : ℤ) ≠ 0 by positivity)
    omega
  · split at h <;> simp only [reduceCtorEq, Option.some.injEq] at h
    next hin =>
      obtain ⟨r, hr⟩ : ∃ r, j = t / 2 ^ k * 2 ^ k + r := Nat.exists_eq_add_of_le (by omega)
      exact hr ▸ within r (by omega)
  · split at h <;> simp only [reduceCtorEq, Option.some.injEq] at h
    next hr =>
      rw [← h, ← Nat.shiftRight_eq_div_pow, ← Nat.shiftRight_eq_div_pow, Nat.shiftRight_xor_distrib, Nat.shiftRight_eq_div_pow b.toNat,
        Nat.div_eq_of_lt hr, Nat.xor_zero]

end Sys2Proof.Machine
end

section
/-!
PROOF. The float operations of REDUX (07 R172, 08 R193, 14 R357).
-/
namespace Sys2Proof.Machine
open Sys2Proof
open Sys2Proof renaming nan32 → nanBits

/-! ### REDUX.fadd: the exact sum, rounded once (R172) -/

/-- The value is finite. -/
def finiteVal (x : FVal) : Prop := ∃ n m e, x = .fin n m e

theorem foldl_min_le (e : ℤ) (l : List ℤ) : l.foldl min e ≤ e ∧ ∀ k ∈ l, l.foldl min e ≤ k := by
  obtain ⟨-, hle⟩ := foldl_choice (f := min) (le := (· ≤ ·)) (fun a : ℤ => le_rfl) (fun _ _ _ => le_trans)
    (fun a b => ⟨min_choice a b, min_le_left a b, min_le_right a b⟩) e l
  exact ⟨hle e List.mem_cons_self, fun k hk => hle k (List.mem_cons_of_mem _ hk)⟩

/-- One more value in an exact sum at the scale `e`. -/
def addScaled (e n : ℤ) : FVal → ℤ
  | .fin neg m k => n + (if neg then -1 else 1) * ((m : ℤ) * 2 ^ (k - e).toNat)
  | _ => n

theorem exactSum_eq (l : List FVal) : (exactSum l).1 = l.foldl (addScaled (exactSum l).2) 0 := by
  unfold exactSum
  dsimp only
  congr 1

theorem addScaled_value (n : ℤ) {e k : ℤ} (hk : e ≤ k) (neg : Bool) (m : Nat) :
    (addScaled e n (.fin neg m k) : ℚ) * (2 : ℚ) ^ e = n * (2 : ℚ) ^ e + ratOf (.fin neg m k) := by
  obtain ⟨j, rfl⟩ : ∃ j : ℕ, k = e + j := ⟨(k - e).toNat, by omega⟩
  have hj : (e + (j : ℤ) - e).toNat = j := by omega
  rw [ratOf, addScaled, hj, zpow_add₀ two_ne_zero, zpow_natCast]
  cases neg <;> push_cast <;> simp <;> ring

theorem foldl_addScaled {e : ℤ} (n : ℤ) {l : List FVal} (hl : ∀ x ∈ l, ∃ neg m k, x = .fin neg m k ∧ e ≤ k) :
    ((l.foldl (addScaled e) n : ℤ) : ℚ) * (2 : ℚ) ^ e = n * (2 : ℚ) ^ e + (l.map ratOf).sum := by
  induction l generalizing n with
  | nil => simp
  | cons x rest ih =>
    obtain ⟨neg, m, k, rfl, hk⟩ := hl x List.mem_cons_self
    rw [List.foldl_cons, ih _ fun y hy => hl y (List.mem_cons_of_mem _ hy), addScaled_value n hk, List.map_cons, List.sum_cons, add_assoc]

/-- The exact sum of finite values is their sum. -/
theorem exactSum_value {l : List FVal} (hl : ∀ x ∈ l, finiteVal x) : ((exactSum l).1 : ℚ) * (2 : ℚ) ^ (exactSum l).2 = (l.map ratOf).sum := by
  rw [exactSum_eq, foldl_addScaled 0, Int.cast_zero, zero_mul, zero_add]
  intro x hx
  obtain ⟨neg, m, k, rfl⟩ := hl x hx
  exact ⟨neg, m, k, rfl, (foldl_min_le 0 _).2 k (List.mem_map.mpr ⟨_, hx, rfl⟩)⟩

theorem finiteVal_of_number {x : FVal} (h : (x.isZero || x.isFinNZ) = true) : finiteVal x := by
  cases x with
  | nan s => simp [FVal.isZero, FVal.isFinNZ] at h
  | inf n => simp [FVal.isZero, FVal.isFinNZ] at h
  | fin n m e => exact ⟨n, m, e, rfl⟩

/-- The zero of a finite word that has its sign set is −0. -/
theorem negZero_iff {w : Word32} (h : finiteVal (u32 w.toNat)) :
    ((u32 w.toNat).isZero && (u32 w.toNat).sign) = true ↔ w = 0x80000000 := by
  obtain ⟨n, m, e, he⟩ := h
  have hmag : mag32 w < 0x7F800000 := by
    rw [u32, unpackF_f32] at he
    split at he
    · cases he
    · split at he
      · cases he
      · omega
  rw [u32, unpackF_f32_fin hmag]
  simp only [FVal.isZero, FVal.sign, Bool.and_eq_true, beq_iff_eq, sig32_eq_zero]
  constructor
  · rintro ⟨hm, hs⟩
    exact eq_of_msb_mag32 (hs.trans (by decide)) (hm.trans (by decide))
  · rintro rfl
    decide

/-- Without a NaN and without infinities of both signs, an infinity is the sum; a NaN or infinities of both signs give the canonical NaN. -/
theorem reduxFadd_special (rm : Nat) (l : List FVal) :
    let both : Prop := FVal.inf false ∈ l ∧ FVal.inf true ∈ l
    ((l.any FVal.isNaN) ∨ both → reduxFadd rm l = (0x7FC00000, if (l.any FVal.isSNaN) ∨ both then fIV else 0)) ∧
      ∀ n, l.any FVal.isNaN = false → ¬both → FVal.inf n ∈ l → reduxFadd rm l = (f32.infBits n, 0) := by
  intro both
  have hcanon : f32.canonNaN = 0x7FC00000 := by decide
  have hboth : (l.contains (.inf false) && l.contains (.inf true)) = true ↔ both := by simp [both]
  refine ⟨fun h => ?_, fun n hnan hnot hinf => ?_⟩
  · have hc : (l.any FVal.isNaN || (l.contains (.inf false) && l.contains (.inf true))) = true := by
      rw [Bool.or_eq_true, hboth]; exact h
    have hflag : flagIf (l.any FVal.isSNaN || (l.contains (.inf false) && l.contains (.inf true))) fIV =
        if (l.any FVal.isSNaN) ∨ both then fIV else 0 := by
      unfold flagIf
      exact if_congr (by rw [Bool.or_eq_true, hboth]) rfl rfl
    rw [reduxFadd, if_pos hc, hflag, hcanon]
  · have hc : ¬(l.any FVal.isNaN || (l.contains (.inf false) && l.contains (.inf true))) = true := by
      rw [Bool.or_eq_true, hboth, hnan]; simpa using hnot
    rw [reduxFadd, if_neg hc]
    cases n
    · rw [if_pos (by simpa using hinf)]
    · rw [if_neg (by simpa using fun h => hnot ⟨h, hinf⟩), if_pos (by simpa using hinf)]

/-- Of finite values REDUX.fadd is the exact sum, rounded once; a zero sum takes its sign by R194. -/
theorem reduxFadd_finite {rm : Nat} (hrm : rm < 4) {l : List FVal} (hl : ∀ x ∈ l, finiteVal x) :
    ((l.map ratOf).sum ≠ 0 → RoundsTo f32 rm (((l.map ratOf).sum : ℚ) : ℝ) (reduxFadd rm l)) ∧
    ((l.map ratOf).sum = 0 → reduxFadd rm l = (f32.signBit ((l.all fun x => x.isZero && x.sign) || rm == 2), 0)) := by
  have no : ∀ x : FVal, ¬finiteVal x → x ∉ l := fun x hx hmem => hx (hl x hmem)
  have hnan : l.any FVal.isNaN = false := List.any_eq_false.mpr fun x hx => by obtain ⟨n, m, e, rfl⟩ := hl x hx; simp [FVal.isNaN]
  have hpos : l.contains (.inf false) = false := by simpa using no _ (by rintro ⟨_, _, _, h⟩; cases h)
  have hneg : l.contains (.inf true) = false := by simpa using no _ (by rintro ⟨_, _, _, h⟩; cases h)
  have hval := exactSum_value hl
  have hpow : (2 : ℚ) ^ (exactSum l).2 ≠ 0 := by positivity
  simp only [reduxFadd, hnan, hpos, hneg, Bool.false_and, Bool.or_self, Bool.false_eq_true, if_false]
  rw [← hval]
  refine ⟨fun h => ?_, fun h => ?_⟩
  · have hn : (exactSum l).1 ≠ 0 := by rintro h0; simp [h0] at h
    rw [if_neg hn, ← ratOf_int]
    exact roundTo_ratOf f32_real hrm (by simpa using hn) _
  · have hn : (exactSum l).1 = 0 := by simpa [hpow] using h
    rw [if_pos hn]

/-! ### REDUX.fmin and fmax (R172, 08 R193) -/

/-- `a` comes no later than `b` in the order of fmin, or of fmax. -/
def NoLater (mx : Bool) (a b : Word32) : Prop := if mx then place32 b ≤ place32 a else place32 a ≤ place32 b

/-- What a reduction by fmin or fmax has come to: a NaN while it has met nothing else, else the first of the numbers that it has met. -/
def Reduced (mx : Bool) (l : List Word32) (a : Word32) : Prop :=
  (nanBits a = true ∧ ∀ y ∈ l, nanBits y = true) ∨ (nanBits a = false ∧ a ∈ l ∧ ∀ y ∈ l, nanBits y = false → NoLater mx a y)

theorem NoLater.refl (mx : Bool) (a : Word32) : NoLater mx a a := by unfold NoLater; split <;> exact le_rfl

theorem minMax32_nan {mx : Bool} {a b : Word32} (ha : nanBits a = true) (hb : nanBits b = true) : minMax32 mx a b = (0x7FC00000 : Word32).toNat := by
  simp [minMax32, ha, hb]
theorem minMax32_left {mx : Bool} {a b : Word32} (ha : nanBits a = false) (hb : nanBits b = true) : minMax32 mx a b = a.toNat := by
  simp [minMax32, ha, hb]
theorem minMax32_right {mx : Bool} {a b : Word32} (ha : nanBits a = true) (hb : nanBits b = false) : minMax32 mx a b = b.toNat := by
  simp [minMax32, ha, hb]
theorem minMax32_numbers {mx : Bool} {a b : Word32} (ha : nanBits a = false) (hb : nanBits b = false) :
    (minMax32 mx a b = a.toNat ∧ NoLater mx a b) ∨ (minMax32 mx a b = b.toNat ∧ NoLater mx b a) := by
  unfold minMax32 NoLater
  simp only [ha, hb, Bool.and_self, Bool.false_eq_true, if_false]
  cases mx <;> simp only [Bool.false_eq_true, if_false, if_true] <;> split <;> simp <;> omega

/-- One more operand. -/
theorem Reduced.step {mx : Bool} {l : List Word32} {a : Word32} (h : Reduced mx l a) (b : Word32) :
    ∃ c : Word32, minMax32 mx a b = c.toNat ∧ Reduced mx (l ++ [b]) c := by
  have older : ∀ {y : Word32}, y ∈ l ++ [b] → y ∈ l ∨ y = b := fun h => by simpa using h
  obtain ⟨ha, hall⟩ | ⟨ha, hmem, hle⟩ := h
  · cases hb : nanBits b
    · refine ⟨b, minMax32_right ha hb, .inr ⟨hb, by simp, fun y hy hn => ?_⟩⟩
      obtain hy | rfl := older hy
      · exact absurd (hall y hy) (by simp [hn])
      · exact .refl mx y
    · refine ⟨_, minMax32_nan ha hb, .inl ⟨by decide, fun y hy => ?_⟩⟩
      obtain hy | rfl := older hy
      · exact hall y hy
      · exact hb
  · cases hb : nanBits b
    · obtain ⟨hv, hab⟩ | ⟨hv, hba⟩ := minMax32_numbers (mx := mx) ha hb
      · refine ⟨a, hv, .inr ⟨ha, by simp [hmem], fun y hy hn => ?_⟩⟩
        obtain hy | rfl := older hy
        · exact hle y hy hn
        · exact hab
      · refine ⟨b, hv, .inr ⟨hb, by simp, fun y hy hn => ?_⟩⟩
        obtain hy | rfl := older hy
        · have hay := hle y hy hn
          unfold NoLater at hay hba ⊢
          split at hay <;> simp_all <;> omega
        · exact .refl mx y
    · refine ⟨a, minMax32_left ha hb, .inr ⟨ha, by simp [hmem], fun y hy hn => ?_⟩⟩
      obtain hy | rfl := older hy
      · exact hle y hy hn
      · exact absurd hb (by simp [hn])

theorem foldl_minMax {mx : Bool} {done : List Word32} {a : Word32} (h : Reduced mx done a) (fl : Flags) (rest : List Word32) :
    ∃ c : Word32, ((rest.map (·.zeroExtend 64)).foldl (fun r x => let q := fMinMax f32 mx r.1 x.toNat; (q.1, r.2 ||| q.2)) (a.toNat, fl)).1 = c.toNat ∧
      Reduced mx (done ++ rest) c := by
  induction rest generalizing done a fl with
  | nil => exact ⟨a, rfl, by simpa using h⟩
  | cons b rest ih =>
    obtain ⟨c, hc, hred⟩ := h.step b
    have hb : (b.zeroExtend 64).toNat = b.toNat := by simp; omega
    obtain ⟨d, hd, hfin⟩ := ih hred (fl ||| (fMinMax f32 mx a.toNat b.toNat).2)
    refine ⟨d, ?_, by simpa using hfin⟩
    rw [List.map_cons, List.foldl_cons]
    simp only [hb, fMinMax_f32_value, hc]
    exact hd

/-- The number that a reduction by fmin or fmax gives, and its flags. -/
theorem redux_minMax {o : OpF} {l : List Word32} (hne : l ≠ []) {mx : Bool} (hop : o.field 3 4 = if mx then 8 else 7) :
    let r := reduxOne o (l.map (·.zeroExtend 64)) (reduxVal o (l.map (·.zeroExtend 64)))
    r.2 = (if l.any fun w => (u32 w.toNat).isSNaN then fIV else 0) ∧ ((l.all fun w => (u32 w.toNat).isNaN) = true → r.1 = 0x7FC00000) ∧
      ((l.all fun w => (u32 w.toNat).isNaN) = false → ∃ w ∈ l, r.1 = w.toNat ∧ nanBits w = false ∧ ∀ y ∈ l, nanBits y = false → NoLater mx w y) := by
  intro r
  have widened : ∀ w : Word32, (w.zeroExtend 64).toNat = w.toNat := fun w => by simp; omega
  have vals : (l.map (·.zeroExtend 64)).map (fun x : Word64 => u32 x.toNat) = l.map fun w => u32 w.toNat := by
    simp only [List.map_map, Function.comp_def, widened]
  obtain ⟨x, rest, rfl⟩ := List.exists_cons_of_ne_nil hne
  have first : Reduced mx [x] x := by
    cases hx : nanBits x
    · exact .inr ⟨hx, by simp, fun y hy _ => by rw [List.mem_singleton.mp hy]; exact .refl mx x⟩
    · exact .inl ⟨hx, fun y hy => by rw [List.mem_singleton.mp hy]; exact hx⟩
  obtain ⟨c, hc, hred⟩ := foldl_minMax first 0 rest
  have folded : (reduxVal o ((x :: rest).map (·.zeroExtend 64))).1 = c.toNat := by
    rw [← hc]
    cases mx <;> simp only [Bool.false_eq_true, if_false, if_true] at hop <;> simp only [reduxVal, hop, List.map_cons, List.drop_succ_cons,
      List.drop_zero, List.head?_cons, Option.getD_some, widened]
  have hr : r = (if (((x :: rest).map fun w => u32 w.toNat).all FVal.isNaN) = true then 0x7FC00000 else c.toNat,
      snanFlag ((x :: rest).map fun w => u32 w.toNat)) := by
    rw [← vals, ← folded]
    exact if_pos (by cases mx <;> simp [hop])
  rw [List.all_map] at hr
  refine ⟨?_, fun hall => ?_, fun hsome => ?_⟩
  · rw [hr, snanFlag, List.any_map]
    rfl
  · rw [hr]; exact if_pos hall
  · have notNaN : ¬∀ y ∈ x :: rest, nanBits y = true := by
      intro h
      exact Bool.false_ne_true (hsome.symm.trans (List.all_eq_true.mpr fun y hy => (isNaN_f32 y).trans (h y hy)))
    obtain ⟨-, hall⟩ | ⟨hnan, hmem, hle⟩ := hred
    · exact absurd hall notNaN
    · exact ⟨c, hmem, by rw [hr]; exact if_neg (by simpa using hsome), hnan, hle⟩

/-! ### FMAXI (14 R357): the order of binary16 numbers -/

/-- The magnitude bits of a binary16 operand, and its sign. -/
def mag16 (h : Nat) : Nat := h % 2 ^ 15
def neg16 (h : Nat) : Bool := decide (2 ^ 15 ≤ h)
/-- The exponent of a finite magnitude above that of the subnormals, and its significand with the hidden bit of the normals. -/
def exp16 (m : Nat) : Nat := m / 2 ^ 10 - 1
def sig16 (m : Nat) : Nat := m - exp16 m * 2 ^ 10
/-- The value of a finite magnitude in units of the least subnormal. -/
def units16 (m : Nat) : Nat := sig16 m * 2 ^ exp16 m
/-- The signed magnitude: equal for the two zeros. -/
def signed16 (h : Nat) : ℤ := if neg16 h then -(mag16 h : ℤ) else mag16 h
/-- The place of a number, −0 below +0. -/
def place16 (h : Nat) : ℤ := if neg16 h then -(mag16 h : ℤ) - 1 else mag16 h

theorem sig16_eq_zero {m : Nat} : sig16 m = 0 ↔ m = 0 := by unfold sig16 exp16; omega

theorem units16_strictMono : StrictMono units16 := by
  refine strictMono_nat_of_lt_succ fun m => ?_
  unfold units16
  have hpos : 0 < 2 ^ exp16 m := by positivity
  by_cases h : exp16 (m + 1) = exp16 m
  · have hs : sig16 (m + 1) = sig16 m + 1 := by unfold sig16; rw [h]; unfold exp16; omega
    rw [h, hs]
    exact Nat.mul_lt_mul_of_pos_right (Nat.lt_succ_self _) hpos
  · have he : exp16 (m + 1) = exp16 m + 1 := by unfold exp16 at h ⊢; omega
    have hs : sig16 m < 2 * sig16 (m + 1) := by unfold sig16 exp16 at *; omega
    rw [he, pow_succ, Nat.mul_comm (2 ^ exp16 m) 2, ← Nat.mul_assoc]
    exact Nat.mul_lt_mul_of_pos_right (by rwa [Nat.mul_comm _ 2]) hpos

theorem cmpMag_f16 (m n : Nat) : cmpMag (sig16 m) (exp16 m - 24) (sig16 n) (exp16 n - 24) = compare m n := by
  have scaled : ∀ k : Nat, (sig16 k : ℚ) * (2 : ℚ) ^ ((exp16 k : ℤ) - 24) = units16 k * (2 : ℚ) ^ (-24 : ℤ) := fun k => by
    rw [units16, sub_eq_add_neg, zpow_add₀ two_ne_zero, zpow_natCast]
    push_cast
    ring
  have hpow : (0 : ℚ) < (2 : ℚ) ^ (-24 : ℤ) := by positivity
  rw [cmpMag_eq, scaled, scaled]
  rcases Nat.lt_trichotomy m n with h | rfl | h
  · rw [compare_lt_iff_lt.mpr h, compare_lt_iff_lt.mpr (mul_lt_mul_of_pos_right (by exact_mod_cast units16_strictMono h) hpow)]
  · rw [compare_eq_iff_eq.mpr rfl, compare_eq_iff_eq.mpr rfl]
  · rw [compare_gt_iff_gt.mpr h, compare_gt_iff_gt.mpr (mul_lt_mul_of_pos_right (by exact_mod_cast units16_strictMono h) hpow)]

/-- The value that binary16 bits encode, by sign and magnitude. -/
theorem unpackF_f16 {h : Nat} (hh : h < 65536) : unpackF f16 h =
    if 0x7C00 < mag16 h then .nan (decide (mag16 h % 2 ^ 10 < 2 ^ 9))
    else if mag16 h = 0x7C00 then .inf (neg16 h)
    else .fin (neg16 h) (sig16 (mag16 h)) (exp16 (mag16 h) - 24) := by
  have hq : f16.qmin = -24 := by decide
  have hfrac : h % 2 ^ 10 = mag16 h % 2 ^ 10 := by unfold mag16; omega
  have hexp : h / 2 ^ 10 % 2 ^ 5 = mag16 h / 2 ^ 10 := by unfold mag16; omega
  have hneg : decide (h / 2 ^ 15 % 2 = 1) = neg16 h := decide_eq_decide.mpr (by omega)
  have hm : mag16 h < 2 ^ 15 := Nat.mod_lt _ (by decide)
  have fields : unpackF f16 h = if mag16 h / 2 ^ 10 = 31 then
      if mag16 h % 2 ^ 10 = 0 then .inf (neg16 h) else .nan (decide (mag16 h % 2 ^ 10 < 2 ^ 9))
    else if mag16 h / 2 ^ 10 = 0 then .fin (neg16 h) (mag16 h % 2 ^ 10) (-24)
    else .fin (neg16 h) (2 ^ 10 + mag16 h % 2 ^ 10) (-24 + ((mag16 h / 2 ^ 10 : Nat) - 1)) := by
    rw [← hfrac, ← hexp, ← hneg, ← hq]
    rfl
  rw [fields]
  by_cases hn : 0x7C00 < mag16 h
  · rw [if_pos (by omega), if_neg (by omega), if_pos hn]
  · by_cases hi : mag16 h = 0x7C00
    · rw [if_pos (by omega), if_pos (by omega), if_neg hn, if_pos hi]
    · rw [if_neg (by omega), if_neg hn, if_neg hi]
      by_cases h0 : mag16 h < 2 ^ 10
      · rw [if_pos (by omega)]
        congr 1
        · unfold sig16 exp16; omega
        · unfold exp16; omega
      · rw [if_neg (by omega)]
        congr 1
        · unfold sig16 exp16; omega
        · unfold exp16; omega

/-- The operand is a NaN. -/
def nan16 (h : Nat) : Bool := decide (0x7C00 < mag16 h)

theorem isNaN_f16 {h : Nat} (hh : h < 65536) : (unpackF f16 h).isNaN = nan16 h := by
  rw [unpackF_f16 hh, nan16]
  split
  · simp [FVal.isNaN, *]
  · split <;> simp [FVal.isNaN, *]

theorem sign_f16 {h : Nat} (hh : h < 65536) (hn : nan16 h = false) : (unpackF f16 h).sign = neg16 h := by
  rw [unpackF_f16 hh, if_neg (by simpa [nan16] using hn)]
  split <;> rfl

/-- Finite values compare as their signed magnitudes. -/
theorem cmpVal_sig16 (s t : Bool) (m n : Nat) :
    cmpVal (.fin s (sig16 m) (exp16 m - 24)) (.fin t (sig16 n) (exp16 n - 24)) =
      compare (if s then -(m : Int) else m) (if t then -(n : Int) else n) := by
  simp only [cmpVal, sig16_eq_zero, cmpMag_f16, Nat.compare_eq_ite_lt, Int.compare_eq_ite_lt]
  cases s <;> cases t <;> grind

/-- Two binary16 numbers compare as their signed magnitudes; an infinity lies beyond every finite number on its side. -/
theorem cmpVal_f16 {a b : Nat} (ha : a < 65536) (hb : b < 65536) (na : nan16 a = false) (nb : nan16 b = false) :
    cmpVal (unpackF f16 a) (unpackF f16 b) = compare (signed16 a) (signed16 b) := by
  have ha' : mag16 a ≤ 0x7C00 := by simpa [nan16] using na
  have hb' : mag16 b ≤ 0x7C00 := by simpa [nan16] using nb
  rw [unpackF_f16 ha, unpackF_f16 hb, if_neg (not_lt.mpr ha'), if_neg (not_lt.mpr hb'), signed16, signed16]
  by_cases ia : mag16 a = 0x7C00 <;> by_cases ib : mag16 b = 0x7C00
  · rw [if_pos ia, if_pos ib, ia, ib]
    cases neg16 a <;> cases neg16 b <;> decide
  · rw [if_pos ia, if_neg ib]
    cases neg16 a
    · exact (compare_gt_iff_gt.mpr (by simp only [Bool.false_eq_true, if_false]; split <;> omega)).symm
    · exact (compare_lt_iff_lt.mpr (by simp only [if_true]; split <;> omega)).symm
  · rw [if_neg ia, if_pos ib]
    cases neg16 b
    · exact (compare_lt_iff_lt.mpr (by simp only [Bool.false_eq_true, if_false]; split <;> omega)).symm
    · exact (compare_gt_iff_gt.mpr (by simp only [if_true]; split <;> omega)).symm
  · rw [if_neg ia, if_neg ib]
    exact cmpVal_sig16 _ _ _ _

theorem place16_lt_iff (a b : Nat) :
    place16 a < place16 b ↔ signed16 a < signed16 b ∨ signed16 a = signed16 b ∧ (neg16 a && !neg16 b) = true := by
  unfold place16 signed16
  cases neg16 a <;> cases neg16 b <;> simp <;> omega

theorem place16_inj {a b : Nat} (ha : a < 65536) (hb : b < 65536) (h : place16 a = place16 b) : a = b := by
  unfold place16 at h
  have bits : ∀ x : Nat, x < 65536 → x = mag16 x + if neg16 x then 2 ^ 15 else 0 := fun x hx => by
    unfold mag16 neg16
    by_cases hn : 2 ^ 15 ≤ x
    · simp only [hn, decide_true, if_true]; omega
    · simp only [hn, decide_false, Bool.false_eq_true, if_false]; omega
  rw [bits a ha, bits b hb]
  cases hna : neg16 a <;> cases hnb : neg16 b <;> simp only [hna, hnb, Bool.false_eq_true, if_false, if_true] at h ⊢ <;> omega

/-! ### FMAXI: the key that wins -/

/-- A key wins over another: a number over a NaN, the greater number over the lesser, and of equal ones, or of two NaNs, the lesser word. -/
def Beats (p q : Nat) : Prop :=
  (nan16 (q % 65536) = true ∧ nan16 (p % 65536) = false) ∨ (nan16 (p % 65536) = nan16 (q % 65536) ∧
    ((nan16 (p % 65536) = true ∧ p ≤ q) ∨ (nan16 (p % 65536) = false ∧
      (place16 (q % 65536) < place16 (p % 65536) ∨ (q % 65536 = p % 65536 ∧ p ≤ q)))))

theorem Beats.refl (p : Nat) : Beats p p := by
  unfold Beats
  cases nan16 (p % 65536) <;> simp

theorem Beats.trans {p q r : Nat} (h : Beats p q) (g : Beats q r) : Beats p r := by
  unfold Beats at *
  cases hp : nan16 (p % 65536) <;> cases hq : nan16 (q % 65536) <;> cases hr : nan16 (r % 65536) <;> simp only [hp, hq, hr] at h g ⊢ <;>
    simp at h g ⊢
  · obtain h | ⟨h, hle⟩ := h <;> obtain g | ⟨g, gle⟩ := g
    · exact .inl (g.trans h)
    · exact .inl (g ▸ h)
    · exact .inl (h ▸ g)
    · exact .inr ⟨g.trans h, hle.trans gle⟩
  · exact h.trans g

/-- Of two keys with numbers, the one at the greater place wins, and at one place the lesser word. -/
theorem fmaxiWinner_numbers {p q : Nat} (hp : nan16 (p % 65536) = false) (hq : nan16 (q % 65536) = false) :
    fmaxiWinner p q = if place16 (p % 65536) < place16 (q % 65536) then q
      else if place16 (q % 65536) < place16 (p % 65536) then p else min p q := by
  have bp : p % 65536 < 65536 := Nat.mod_lt _ (by decide)
  have bq : q % 65536 < 65536 := Nat.mod_lt _ (by decide)
  have hindex : (if p / 65536 < q / 65536 then p else if q / 65536 < p / 65536 then q else min p q) = min p q := by
    split
    · omega
    · split <;> omega
  simp only [fmaxiWinner, isNaN_f16 bp, isNaN_f16 bq, hp, hq, Bool.and_self, Bool.false_eq_true, if_false, cmpVal_f16 bp bq hp hq,
    sign_f16 bp hp, sign_f16 bq hq, hindex, place16_lt_iff]
  rcases lt_trichotomy (signed16 (p % 65536)) (signed16 (q % 65536)) with h | h | h
  · simp [compare_lt_iff_lt.mpr h, h]
  · simp only [compare_eq_iff_eq.mpr h, h, lt_irrefl, false_or, true_and]
    cases neg16 (p % 65536) <;> cases neg16 (q % 65536) <;> simp
  · simp [compare_gt_iff_gt.mpr h, h.not_gt, h.ne', h.ne, h]

/-- The winner of two keys is one of them, and wins over both. -/
theorem fmaxiWinner_beats (p q : Nat) :
    (fmaxiWinner p q = p ∨ fmaxiWinner p q = q) ∧ Beats (fmaxiWinner p q) p ∧ Beats (fmaxiWinner p q) q := by
  have bp : p % 65536 < 65536 := Nat.mod_lt _ (by decide)
  have bq : q % 65536 < 65536 := Nat.mod_lt _ (by decide)
  have least : (min p q = p ∧ p ≤ q) ∨ (min p q = q ∧ q ≤ p) := by omega
  cases hp : nan16 (p % 65536) <;> cases hq : nan16 (q % 65536)
  · rw [fmaxiWinner_numbers hp hq]
    split
    · next h => exact ⟨.inr rfl, .inr ⟨hq.trans hp.symm, .inr ⟨hq, .inl h⟩⟩, .refl q⟩
    · split
      · next h => exact ⟨.inl rfl, .refl p, .inr ⟨hp.trans hq.symm, .inr ⟨hp, .inl h⟩⟩⟩
      · next h1 h2 =>
        have same : p % 65536 = q % 65536 := place16_inj bp bq (le_antisymm (not_lt.mp h2) (not_lt.mp h1))
        obtain ⟨h, hle⟩ | ⟨h, hle⟩ := least <;> rw [h]
        · exact ⟨.inl rfl, .refl p, .inr ⟨hp.trans hq.symm, .inr ⟨hp, .inr ⟨same.symm, hle⟩⟩⟩⟩
        · exact ⟨.inr rfl, .inr ⟨hq.trans hp.symm, .inr ⟨hq, .inr ⟨same, hle⟩⟩⟩, .refl q⟩
  · have h : fmaxiWinner p q = p := by simp [fmaxiWinner, isNaN_f16 bp, isNaN_f16 bq, hp, hq]
    rw [h]
    exact ⟨.inl rfl, .refl p, .inl ⟨hq, hp⟩⟩
  · have h : fmaxiWinner p q = q := by simp [fmaxiWinner, isNaN_f16 bp, isNaN_f16 bq, hp, hq]
    rw [h]
    exact ⟨.inr rfl, .inl ⟨hp, hq⟩, .refl q⟩
  · have h : fmaxiWinner p q = min p q := by
      simp only [fmaxiWinner, isNaN_f16 bp, isNaN_f16 bq, hp, hq, Bool.and_self, if_true]
      split
      · omega
      · split <;> omega
    rw [h]
    obtain ⟨h, hle⟩ | ⟨h, hle⟩ := least <;> rw [h]
    · exact ⟨.inl rfl, .refl p, .inr ⟨hp.trans hq.symm, .inl ⟨hp, hle⟩⟩⟩
    · exact ⟨.inr rfl, .inr ⟨hq.trans hp.symm, .inl ⟨hq, hle⟩⟩, .refl q⟩

/-- The key that REDUX.fmaxi gives is one of those offered and wins over each of them. -/
theorem redux_fmaxi {o : OpF} {l : List Word32} (hne : l ≠ []) (hop : o.field 3 4 = 9) :
    let r := reduxOne o (l.map (·.zeroExtend 64)) (reduxVal o (l.map (·.zeroExtend 64)))
    r.2 = 0 ∧ ∃ w ∈ l, r.1 = w.toNat ∧ ∀ y ∈ l, Beats w.toNat y.toNat := by
  obtain ⟨x, rest, rfl⟩ := List.exists_cons_of_ne_nil hne
  have widened : ∀ w : Word32, (w.zeroExtend 64).toNat = w.toNat := fun w => by simp; omega
  intro r
  have hr : r = ((rest.map BitVec.toNat).foldl fmaxiWinner x.toNat, 0) := by
    refine (if_neg (by omega)).trans ?_
    simp only [reduxVal, hop, List.map_cons, List.drop_succ_cons, List.drop_zero, List.head?_cons, Option.getD_some, List.foldl_map, widened]
  obtain ⟨hmem, hall⟩ := foldl_choice Beats.refl (fun _ _ _ => Beats.trans) fmaxiWinner_beats x.toNat (rest.map BitVec.toNat)
  have hr1 : r.1 = (rest.map BitVec.toNat).foldl fmaxiWinner x.toNat := congrArg Prod.fst hr
  rw [← List.map_cons, ← hr1] at hmem
  rw [← List.map_cons, ← hr1] at hall
  obtain ⟨w, hw, heq⟩ := List.mem_map.mp hmem
  exact ⟨by rw [hr], w, hw, heq.symm, fun y hy => by rw [heq]; exact hall _ (List.mem_map_of_mem hy)⟩

/-! ### The statement's own orders -/

/-- The place of a word, as a number of a width whose half is `top`. -/
theorem place32_toNat (w : Word32) : (if 2 ^ 31 ≤ w.toNat then -((w.toNat - 2 ^ 31 : Nat) : ℤ) - 1 else w.toNat) = place32 w := by
  have hw := w.isLt
  rw [place32, BitVec.msb_eq_decide, mag32]
  by_cases h : 2 ^ 31 ≤ w.toNat
  · rw [if_pos h, if_pos (by simpa using h)]
    omega
  · rw [if_neg h, if_neg (by simpa using h)]
    omega

theorem place16_eq {h : Nat} (hh : h < 65536) : (if 2 ^ 15 ≤ h then -((h - 2 ^ 15 : Nat) : ℤ) - 1 else h) = place16 h := by
  rw [place16, neg16, mag16]
  by_cases hn : 2 ^ 15 ≤ h
  · rw [if_pos hn, if_pos (by simpa using hn)]
    omega
  · rw [if_neg hn, if_neg (by simpa using hn)]
    omega

/-- Settles O23. -/
theorem crossLaneValues : Obligations.CrossLaneValues := by
  unfold Obligations.CrossLaneValues
  refine ⟨fun op sg w x hw hop => reduxOp_unit hw hop sg x, fun w f unit l i hi => ⟨scanFrom_get f false unit l hi, scanFrom_get f true unit l hi⟩,
    fun a b => ⟨mergeOrder_perm a b, mergeOrder_sorted a b⟩, ?_, fun mode k t j b _ _ h => shflSource_segment h, ?_⟩
  · intro o l hne hop w r xs rank
    obtain ⟨x, rest, hl⟩ := List.exists_cons_of_ne_nil hne
    have hw : 0 < w := by simp only [w]; split <;> decide
    have hr : r = _ := reduxOne_int hl hop (w := w) rfl
    have hxs : xs = (x.extractLsb' 0 w :: operands w rest).map BitVec.toNat := by
      rw [show x.extractLsb' 0 w :: operands w rest = operands w l by rw [hl]; rfl]
      exact (operands_toNat w l).symm
    obtain ⟨h0, h1, h2, hbits⟩ := redux_int hw (o.field 3 4) hop (signedTy o.ty) (x.extractLsb' 0 w) (operands w rest)
    rw [← hxs] at h0 h1 h2 hbits
    rw [hr]
    exact ⟨rfl, BitVec.isLt _, h0, h1, h2, hbits⟩
  · intro o l hne r val place
    have places : ∀ w : Word32, place w.toNat (2 ^ 31) = place32 w := place32_toNat
    refine ⟨fun hop => ?_, fun hop => ?_, fun hop => ?_⟩
    · intro sum both iv
      have hr : r = reduxFadd o.low2 (l.map val) := by
        refine (if_neg (by omega)).trans ?_
        simp only [reduxVal, hop, List.map_map, Function.comp_def]
        exact congrArg _ (List.map_congr_left fun w _ => congrArg u32 (by simp; omega))
      obtain ⟨hnan, hinf⟩ := reduxFadd_special o.low2 (l.map val)
      rw [List.any_map, List.any_map] at hnan
      rw [List.any_map] at hinf
      rw [hr]
      refine ⟨hnan, hinf, fun hfin => ?_⟩
      have finite : ∀ w ∈ l, finiteVal (val w) := fun w hw => finiteVal_of_number (List.all_eq_true.mp hfin w hw)
      have hsum : sum = ((l.map val).map ratOf).sum := by rw [List.map_map]; rfl
      have hsign : ((l.map val).all fun x => x.isZero && x.sign) = decide (∀ w ∈ l, w = 0x80000000) := by
        rw [List.all_map, Bool.eq_iff_iff, List.all_eq_true, decide_eq_true_eq]
        exact forall₂_congr fun w hw => negZero_iff (finite w hw)
      have hrm : o.low2 < 4 := Nat.mod_lt _ (by decide)
      obtain ⟨hround, hzero⟩ := reduxFadd_finite hrm (l := l.map val) fun x hx => by
        obtain ⟨w, hw, rfl⟩ := List.mem_map.mp hx
        exact finite w hw
      rw [hsum, ← hsign]
      exact ⟨hround, hzero⟩
    · have hmx : ∃ mx : Bool, o.field 3 4 = if mx then 8 else 7 := hop.elim (fun h => ⟨false, h⟩) fun h => ⟨true, h⟩
      obtain ⟨mx, hmx⟩ := hmx
      obtain ⟨hflags, hall, hsome⟩ := redux_minMax hne hmx
      refine ⟨hflags, hall, fun h => ?_⟩
      obtain ⟨w, hw, hv, hn, hle⟩ := hsome h
      refine ⟨w, hw, hv, (isNaN_f32 w).trans hn, fun y hy hyn => ?_⟩
      have later := hle y hy ((isNaN_f32 y).symm.trans hyn)
      rw [places, places]
      cases mx
      · exact ⟨fun _ => by simpa [NoLater] using later, fun h8 => absurd (hmx.symm.trans h8) (by decide)⟩
      · exact ⟨fun h7 => absurd (hmx.symm.trans h7) (by decide), fun _ => by simpa [NoLater] using later⟩
    · intro nan index beats
      obtain ⟨hflag, w, hw, hv, hall⟩ := redux_fmaxi hne hop
      refine ⟨hflag, w, hw, hv, fun y hy => ?_⟩
      have half : ∀ w : Word32, w.toNat % 65536 < 65536 := fun w => Nat.mod_lt _ (by decide)
      have hnan : ∀ w : Word32, nan w = nan16 (w.toNat % 65536) := fun w => decide_eq_decide.mpr (by unfold mag16; omega)
      have hindex : ∀ w y : Word32, w.toNat ≤ y.toNat → index w y := fun w y h => by simp only [index]; omega
      have hplace : ∀ w : Word32, place (w.toNat % 65536) (2 ^ 15) = place16 (w.toNat % 65536) := fun w => place16_eq (half w)
      simp only [beats, hnan, hplace]
      obtain h | ⟨heq, ⟨h1, h2⟩ | ⟨h1, h2 | ⟨h2, h3⟩⟩⟩ := hall y hy
      · exact .inl h
      · exact .inr ⟨heq, .inl ⟨h1, hindex w y h2⟩⟩
      · exact .inr ⟨heq, .inr ⟨h1, .inl h2⟩⟩
      · exact .inr ⟨heq, .inr ⟨h1, .inr ⟨h2, hindex w y h3⟩⟩⟩

end Sys2Proof.Machine
end

section
/-!
PROOF. Atomics (14 R352 to R357, R361): the requests that the words leave, and what a press unit does with one.
-/
namespace Sys2Proof.Machine
open Sys2Proof

/-! ### The requests of the words (R352, R354, R361) -/

theorem atom_word {s : State} {e : Env} (h : env? s = some e) (o : OpF) {l : List (Nat × Word64 × Target)}
    (hc : e.checkAtom o ((e.setE o).map fun L => (L, (atomAddr o e L).w)) = .ok l) :
    let c (L : Nat) : Val 64 := if o.opn = 7 then e.vsrc L o.wide o.d else { w := 0 }
    let v (L : Nat) : Val 64 := e.vsrc L o.wide o.c
    BoundaryWord s e.nextKey (.atom o) [.atom o.d.toNat (if o.opn = 11 then 1 else o.ty) e.g.keys (l.map fun x => (x.1, e.dt x.1 (atomAddr o e x.1).t))]
      (.atoms (l.map fun x => atomReq o e (some e.g.keys) (v x.1) (c x.1) (e.dt x.1 ((v x.1).t || (c x.1).t)) x) false ::
        (if e.det && o.bit 4 then [.block (e.r.pos + 1) (.det e.g.keys e.r.at_) (l.map (·.1))] else [])) := by
  refine boundary_word (live_of_env? h).nextKey (word_retires h (exec_atom o s) ?_)
  simp only [hc, lanesOr, true_and, if_true, Bool.true_and]
  rfl

theorem red_word {s : State} {e : Env} (h : env? s = some e) (o : OpF) {l : List (Nat × Word64 × Target)}
    (hc : e.checkAtom o ((e.setE o).map fun L => (L, (atomAddr o e L).w)) = .ok l) :
    let v (L : Nat) : Val 64 := e.vsrc L o.wide o.c
    BoundaryWord s e.nextKey (.red o) [] [.atoms (l.map fun x => atomReq o e none (v x.1) { w := 0 } (e.dt x.1 (v x.1).t) x) false] := by
  refine boundary_word (live_of_env? h).nextKey (word_retires h (exec_red o s) ?_)
  simp only [hc, lanesOr, Bool.false_eq_true, false_and, if_false, Bool.false_and, Bool.or_false]
  rfl

theorem atomu_word {s : State} {e : Env} (h : env? s = some e) (o : OpF) {l : List (Nat × Word64 × Target)}
    (hc : e.checkAtom o [((e.active.head?).getD 0, (e.us o.a).w)] = .ok l) :
    let cut (x : Val 64) : Val 64 := if o.wide then x else { x with w := x.w &&& 0xFFFFFFFF#64 }
    let v := cut (e.us o.c)
    let c : Val 64 := if o.opn = 7 then cut (e.us o.d) else { w := 0 }
    BoundaryWord s e.nextKey (.atomu o)
      [.atomu o.d.toNat (if o.opn = 11 then 1 else o.ty) e.g.keys ((e.active.head?).getD 0) (e.ut (e.us o.a).t) e.active]
      (.atoms (l.map (atomReq o e (some e.g.keys) v c (e.ut (v.t || c.t)))) true ::
        (if e.det && o.bit 4 then [.block (e.r.pos + 1) (.det e.g.keys e.r.at_) e.active] else [])) := by
  refine boundary_word (live_of_env? h).nextKey (word_retires h (exec_atomu o s) ?_)
  simp only [hc, groupOr]
  rfl

/-! ### What each operation gives (R353, R357) -/

theorem tyBits_pos (ty : Nat) : 0 < tyBits ty := by
  unfold tyBits
  split <;> decide

/-- The operations on the two values cut to the width. -/
theorem atomResult_values (op ty rm o v cmp : Nat) :
    let w := if op = 11 then 32 else tyBits ty
    let a := o % 2 ^ w
    let b := v % 2 ^ w
    let rank (n : Nat) : ℤ := if signedTy ty = true ∧ 2 ^ (w - 1) ≤ n then (n : ℤ) - 2 ^ w else n
    let r := atomResult op ty rm o v cmp
    (op = 0 → r = ((a + b) % 2 ^ w, 0)) ∧ (op = 1 → r = (if rank b < rank a then b else a, 0)) ∧
    (op = 2 → r = (if rank a < rank b then b else a, 0)) ∧ (op = 3 → r = (a &&& b, 0)) ∧ (op = 4 → r = (a ||| b, 0)) ∧
    (op = 5 → r = (a ^^^ b, 0)) ∧ (op = 6 → r = (b, 0)) ∧ (op = 7 → r = (if a = cmp then b else a, 0)) ∧
    (op = 8 → r = fAdd f32 rm (unpackF f32 a) (unpackF f32 b)) ∧ (op = 9 → r = fMinMax f32 false a b) ∧ (op = 10 → r = fMinMax f32 true a b) ∧
    (op = 11 → r = (fmaxiWinner a b, 0)) := by
  intro w a b rank r
  have ha : ∀ n : Nat, (BitVec.ofNat w n).toNat = n % 2 ^ w := fun n => BitVec.toNat_ofNat n w
  have hw : 0 < w := by simp only [w]; split; decide; exact tyBits_pos ty
  have hr : ∀ n : Nat, rank (BitVec.ofNat w n).toNat = rankI (signedTy ty) (BitVec.ofNat w n) := fun n => rank_toNat hw _ _
  refine ⟨?_, ?_, ?_, ?_, ?_, ?_, ?_, ?_, ?_, ?_, ?_, ?_⟩ <;> rintro rfl
  · refine congrArg (·, (0 : Flags)) ?_
    rw [BitVec.toNat_add, ha, ha]
  · refine congrArg (·, (0 : Flags)) ?_
    simp only [minI, a, b, ← ha, intLt_iff, apply_ite BitVec.toNat]
    exact if_congr (by rw [hr, hr]) rfl rfl
  · refine congrArg (·, (0 : Flags)) ?_
    simp only [maxI, a, b, ← ha, intLt_iff, apply_ite BitVec.toNat]
    exact if_congr (by rw [hr, hr]) rfl rfl
  · refine congrArg (·, (0 : Flags)) ?_
    rw [BitVec.toNat_and, ha, ha]
  · refine congrArg (·, (0 : Flags)) ?_
    rw [BitVec.toNat_or, ha, ha]
  · refine congrArg (·, (0 : Flags)) ?_
    rw [BitVec.toNat_xor, ha, ha]
  · exact congrArg (·, (0 : Flags)) (ha v)
  · refine congrArg (·, (0 : Flags)) ?_
    simp only [a, b, ← ha]
    rfl
  · simp only [a, b, ← ha]
    rfl
  · simp only [a, b, ← ha]
    rfl
  · simp only [a, b, ← ha]
    rfl
  · refine congrArg (·, (0 : Flags)) ?_
    rw [ha, ha]

/-! ### An atomic is performed (R353, R356) -/

theorem performAtom_poisoned {s : State} {q : AtomReq} (early : Bool) (h : s.poisonAt q.at_ q.size = true) : performAtom s q early = none := by
  rw [performAtom, if_pos h]

/-- The answer of an atomic: the old value with the flags, where it returns one (R353). -/
def atomAnswer (q : AtomReq) (o : Nat) (fl : Flags) (t : Bool) : Option Answer :=
  q.key.map fun k => { key := k, lane := q.lane, w := BitVec.ofNat 64 o, raise := fl, t := t }

theorem atomAnswer_answers (q : AtomReq) (o : Nat) (fl : Flags) (t : Bool) : match q.key, atomAnswer q o fl t with
    | none, none => True
    | some k, some a => a.key = k ∧ a.lane = q.lane ∧ a.w = BitVec.ofNat 64 o ∧ a.raise = fl
    | _, _ => False := by
  unfold atomAnswer
  cases q.key with
  | none => trivial
  | some k => exact ⟨rfl, rfl, rfl, rfl⟩

/-- An atomic on memory writes its result at the home, and nothing else there. -/
theorem performAtom_mem {s : State} {q : AtomReq} (early : Bool) (h : s.poisonAt q.at_ q.size = false) {pa : Nat} (hat : q.at_ = .mem pa)
    (hw : paWritable pa = true) (hl : (isSystem pa && !s.dev.linkUp) = false) :
    let o := leNat ((List.range q.size).map fun i => s.home.byte (pa + i))
    let r := atomResult q.op q.ty q.rm o q.v.toNat q.cmp.toNat
    ∃ t m b, performAtom s q early = some (t, atomAnswer q o r.2 b) ∧ t.home = s.home.write m pa (leBytes r.1 q.size) := by
  intro o r
  have hold : (q.old s).1 = o := by rw [AtomReq.old, hat]; rfl
  let s1 := if q.key.isSome then s.growView q.core (pa / 64) (s.home.lineLast (pa / 64)) else s
  have hgrow : s1.home = s.home ∧ s1.dev = s.dev := by
    simp only [s1]
    split
    · unfold State.growView
      dsimp only
      split <;> exact ⟨rfl, rfl⟩
    · exact ⟨rfl, rfl⟩
  obtain ⟨c, hc⟩ := State.chargeLines_eq s1 (s1.memPath q.g q.va pa).1.asid (s1.classOf q.g.grid) (s1.memPath q.g q.va pa).2
  have hcharge : s1.memCharge q.g q.va pa = { s1 with ctxs := c } := hc
  refine ⟨(s1.memCharge q.g q.va pa).homeWrite (q.mode s1 early) pa (leBytes r.1 q.size), q.mode s1 early,
    s.det q.g.grid && ((q.old s).2 || q.t || early || !q.det), ?_, ?_⟩
  · rw [performAtom, if_neg (by simp [h])]
    simp only [hat, hold]
    rfl
  · rw [State.homeWrite, if_neg (by rw [hcharge]; simp [hgrow.2, hl]), if_pos hw]
    simp only [hcharge, hgrow.1]

/-! ### Scratchpad bytes (R311) -/

theorem get_putSome (m : Table (Option Byte)) (a c : Nat) (bs : List Byte) :
    Table.get none (putSome m a bs) c = if a ≤ c ∧ c < a + bs.length then bs[c - a]? else Table.get none m c := by
  induction bs generalizing m a with
  | nil => rw [putSome, if_neg (by simp)]
  | cons b rest ih =>
    rw [putSome, ih, Table.get_set]
    by_cases h : c = a
    · subst h
      simp
    · by_cases hin : a + 1 ≤ c ∧ c < a + 1 + rest.length
      · rw [if_pos hin, if_pos (by simp only [List.length_cons]; omega), show c - a = (c - (a + 1)) + 1 by omega, List.getElem?_cons_succ]
      · rw [if_neg hin, if_neg (fun hc => h hc), if_neg (by simp only [List.length_cons]; omega)]

theorem Team.spByte_spWrite (t : Team) (a c : Nat) (bs : List Byte) (taint : Bool) :
    (t.spWrite a bs taint).spByte c = if a ≤ c ∧ c < a + bs.length then (bs[c - a]?).getD 0 else t.spByte c := by
  simp only [Team.spByte, Team.spWrite, get_putSome]
  split
  · next h => rw [List.getElem?_eq_getElem (by omega)]; rfl
  · rfl

/-- A store to a scratchpad that nothing keeps waiting, of a resident team: its bytes are there, the homes stay (R313). -/
theorem spStore_made {s : State} {tm : TRef} {x : Team} (hx : s.team? tm = some x) (hres : x.resident = true) {g : GRef}
    (hheld : s.heldBy g = false) {a : Nat} {bs : List Byte} (hready : (linesOf a bs.length).any (s.unready tm) = false) (taint : Bool) (word : Nat) :
    (s.spStore g tm a bs taint word).home = s.home ∧ ∃ y, (s.spStore g tm a bs taint word).team? tm = some y ∧
      ∀ c, y.spByte c = if a ≤ c ∧ c < a + bs.length then (bs[c - a]?).getD 0 else x.spByte c := by
  let y := (x.spWrite a bs taint).spCovered g word a bs.length
  have hyref : y.ref = x.ref := rfl
  have hteam : ((s.veilFor g word (.scratch tm a) bs taint).setTeam y).team? tm = some y := by
    exact State.team?_setTeam (t := x) hx hyref
  have hsaved : ((s.veilFor g word (.scratch tm a) bs taint).setTeam y).savedPa (.scratch tm a) = none := by
    have hat : ((s.veilFor g word (.scratch tm a) bs taint).setTeam y).savedAt (.scratch tm a) = none := by
      simp only [State.savedAt, hteam, Option.bind_some]
      rw [Option.bind_eq_none_iff]
      intro c _
      exact if_pos (by rw [show y.resident = true from hres]; rfl)
    rw [State.savedPa, hat]
    rfl
  have made : s.spStore g tm a bs taint word = (s.veilFor g word (.scratch tm a) bs taint).setTeam y := by
    rw [State.spStore, hx]
    simp only [hheld, hready, Bool.or_self, Bool.false_eq_true, if_false]
    rw [State.toSaved, hsaved]
  rw [made]
  exact ⟨rfl, y, hteam, fun c => Team.spByte_spWrite x a c bs taint⟩

/-- An atomic on a scratchpad that nothing keeps waiting writes its result there, and nothing else. -/
theorem performAtom_scratch {s : State} {q : AtomReq} (early : Bool) (h : s.poisonAt q.at_ q.size = false) {tm : TRef} {b : Nat}
    (hat : q.at_ = .scratch tm b) {x : Team} (hx : s.team? tm = some x) (hres : x.resident = true) (hheld : s.heldBy q.g = false)
    (hready : (linesOf b q.size).any (s.unready tm) = false) :
    let o := leNat ((List.range q.size).map fun i => x.spByte (b + i))
    let r := atomResult q.op q.ty q.rm o q.v.toNat q.cmp.toNat
    ∃ t m y, performAtom s q early = some (t, atomAnswer q o r.2 m) ∧ t.home = s.home ∧ t.team? tm = some y ∧
      ∀ c, y.spByte c = if b ≤ c ∧ c < b + q.size then ((leBytes r.1 q.size)[c - b]?).getD 0 else x.spByte c := by
  intro o r
  have hold : (q.old s).1 = o := by
    simp only [AtomReq.old, hat, State.readAt, hx]
    rfl
  have hlen : (leBytes r.1 q.size).length = q.size := leBytes_length _ _
  obtain ⟨hhome, y, hy, hbytes⟩ := spStore_made hx hres hheld (bs := leBytes r.1 q.size) (by rw [hlen]; exact hready) (s.det q.g.grid) 0
  rw [hlen] at hbytes
  refine ⟨s.spStore q.g tm b (leBytes r.1 q.size) (s.det q.g.grid) 0, s.det q.g.grid && ((q.old s).2 || q.t || early || !q.det), y, ?_, hhome, hy, hbytes⟩
  rw [performAtom, if_neg (by simp [h])]
  simp only [hat, hold]
  rfl

/-- Settles O28: what the words leave, one law for each target, and the operations one by one. -/
theorem atomicWordsComplete : Obligations.AtomicWordsComplete := by
  unfold Obligations.AtomicWordsComplete
  refine ⟨fun s e o h => ?_, fun s q early => ⟨performAtom_poisoned early, fun hp => ?_⟩, fun op ty rm o v cmp _ => ?_⟩
  · intro z key t0 ty cut
    exact ⟨fun l hc => ⟨atom_word h o hc, red_word h o hc⟩, fun l hc => atomu_word h o hc⟩
  · intro answers
    have size : ∀ n : Nat, ∀ i, i < q.size → i < (leBytes n q.size).length := fun n i hi => by rwa [leBytes_length]
    refine ⟨fun pa hat hw hl => ?_, fun tm b x hat hx hres hheld hready => ?_⟩
    · intro o r
      obtain ⟨t, m, a, hperf, hhome⟩ := performAtom_mem early hp hat hw hl
      refine ⟨t, _, hperf, atomAnswer_answers q o r.2 a, fun i hi => ?_, fun b hb => ?_⟩
      · rw [hhome, Home.byte_write_covered _ _ _ _ _ (size _ i hi), List.getElem?_eq_getElem (size _ i hi)]
      · rw [hhome, Home.byte_write_outside _ _ _ _ _ (by rwa [leBytes_length])]
    · intro o r
      obtain ⟨t, m, y, hperf, hhome, hy, hbytes⟩ := performAtom_scratch early hp hat hx hres hheld hready
      refine ⟨t, _, y, hperf, atomAnswer_answers q o r.2 m, hhome, hy, fun i hi => ?_, fun c hc => ?_⟩
      · rw [hbytes, if_pos (by omega), Nat.add_sub_cancel_left, List.getElem?_eq_getElem (size _ i hi), Option.getD_some]
      · rw [hbytes, if_neg (by omega)]
  · intro w a b rank r place nan index beats
    obtain ⟨h0, h1, h2, h3, h4, h5, h6, h7, h8, h9, h10, h11⟩ := atomResult_values op ty rm o v cmp
    refine ⟨h0, h1, h2, h3, h4, h5, h6, h7, h8, h9, h10, fun hop => ?_⟩
    have half : ∀ n : Nat, n % 65536 < 65536 := fun n => Nat.mod_lt _ (by decide)
    have hnan : ∀ n : Nat, nan n = nan16 (n % 65536) := fun n => decide_eq_decide.mpr (by unfold mag16; omega)
    have hindex : ∀ n m : Nat, n ≤ m → index n m := fun n m h => by simp only [index]; omega
    have hplace : ∀ n : Nat, place (n % 65536) (2 ^ 15) = place16 (n % 65536) := fun n => place16_eq (half n)
    have hbeats : ∀ n m : Nat, Beats n m → beats n m := fun n m h => by
      simp only [beats, hnan, hplace]
      obtain h | ⟨heq, ⟨h1, h2⟩ | ⟨h1, h2 | ⟨h2, h3⟩⟩⟩ := h
      · exact .inl h
      · exact .inr ⟨heq, .inl ⟨h1, hindex n m h2⟩⟩
      · exact .inr ⟨heq, .inr ⟨h1, .inl h2⟩⟩
      · exact .inr ⟨heq, .inr ⟨h1, .inr ⟨h2, hindex n m h3⟩⟩⟩
    have hr : r = (fmaxiWinner a b, 0) := h11 hop
    obtain ⟨hone, ha, hb⟩ := fmaxiWinner_beats a b
    rw [hr]
    exact ⟨rfl, hone, hbeats _ _ ha, hbeats _ _ hb⟩

end Sys2Proof.Machine
end

section
/-!
PROOF. Stores (14 R350, 04 R82, 13 R322, R325, R326): what the words leave, how a store is issued, and what a posting does to memory.
-/
namespace Sys2Proof.Machine
open Sys2Proof

/-! ### The lanes of an access that passes its checks (R347) -/

/-- A check that neither fails nor waits for a page has a target. -/
theorem Check.target_of {c : Check} (hz : c ≠ .zero) (hc : c.cause? = none) : ∃ t, c.target? = some t := by
  cases c with
  | ok t => exact ⟨t, rfl⟩
  | wait t => exact ⟨t, rfl⟩
  | fault k => cases hc
  | zero => exact absurd rfl hz

/-- An access that goes on has a target in every lane. -/
theorem gather_lanes {e : Env} {z : Nat} {walks : List Nat} {r : List (Nat × Word64 × Check)} {l : List (Nat × Word64 × Target)}
    (h : e.gather z walks r = .ok l) : l.map (·.1) = r.map (·.1) := by
  unfold Env.gather at h
  dsimp only at h
  split at h
  · cases h
  · split at h
    · cases h
    · split at h <;> cases h
  · next hw hb =>
    cases h
    have hwaits := List.filter_eq_nil_iff.mp hw
    have hbad := List.filterMap_eq_nil_iff.mp hb
    clear hw hb
    induction r with
    | nil => rfl
    | cons x rest ih =>
      obtain ⟨t, ht⟩ := Check.target_of (c := x.2.2) (by simpa using hwaits x List.mem_cons_self)
        (by simpa using hbad x List.mem_cons_self)
      rw [List.filterMap_cons, ht]
      simp only [Option.map_some, List.map_cons, List.cons.injEq, true_and]
      exact ih (fun y hy => hwaits y (List.mem_cons_of_mem _ hy)) fun y hy => hbad y (List.mem_cons_of_mem _ hy)

theorem checkAll_lanes {e : Env} {sp z : Nat} {need : Need} {l : List (Nat × Word64)} {r : List (Nat × Word64 × Target)}
    (h : e.checkAll sp need z l = .ok r) : r.map (·.1) = l.map (·.1) := by
  rw [gather_lanes h, List.map_map]
  rfl

/-! ### The words (R350) -/

/-- A word that leaves an effect and raises flags in its lanes. -/
theorem store_word {s : State} {e : Env} (h : env? s = some e) {i : Instr} {E : List Nat} (hn : E.Nodup) {fl : Nat → BitVec 6} {eff : Effect}
    (hi : exec i s = .next (retire (rbOf i) e { lanes := E.map fun L => { lane := L, raise := fl L }, effs := [eff] })) :
    StoreWord s e i E fl eff := by
  obtain ⟨t, e', hex, hret, hth, hs, hw, hdef, heff, hctl, hpause, hexit, htf, hr, -⟩ := retire_next h hi
  have hlane : ∀ L, L < e.g.lanes.length → e'.th L =
      (let t := if L ∈ E then (e.th L).apply { lane := L, raise := fl L } else e.th L
       if e.r.active.getLsbD L then { t with pc := e.r.at_ + 8 } else t) := by
    intro L hL
    rw [hth L hL]
    exact afterWord_lanes e E (fun L => { lane := L, raise := fl L }) (fun _ _ => rfl) hn L
  have hraised := raisedBy_map (pkTrapEn e.pkt) e.g.level e.b (e.r.pos + 1) e.r.at_ E (fun L => { lane := L, raise := fl L }) fl
    (fun _ => rfl) fun _ => rfl
  refine ⟨t, e', hex, hret, ⟨fun L hL => ?_, by rw [hr, hraised]⟩, fun L hL => ?_, fun L hL => ?_, fun L hL => ?_, fun L hL => ?_,
    fun L hL => by rw [hth L hL]; exact afterWord_pc e _ rfl L, ⟨by simpa using hs, by simpa using hw⟩, by simpa using hdef, heff,
    by simpa using hctl, by simpa using hpause, by simpa using hexit, by simpa using htf⟩ <;> rw [hlane L hL]
  all_goals
    by_cases hE : L ∈ E
    · simp only [hE, if_true]
      split <;> simp [Thread.apply]
    · simp only [hE, if_false]
      split <;> simp

theorem st_word {s : State} {e : Env} (h : env? s = some e) (o : OpF) {l : List (Nat × Word64 × Target)}
    (hc : e.checkAll o.space .write (memSize o.ty) ((e.setE o).map fun L => (L, (loadAddr o e L (memSize o.ty)).w)) = .ok l) :
    let v (L : Nat) := e.vsrc L o.memWide o.d
    StoreWord s e (.st o) (e.setE o) (fun L => (storeBytes o (v L).w).2)
      (.stores (l.map fun x => { lane := x.1, at_ := x.2.2, va := x.2.1, bytes := (storeBytes o (v x.1).w).1, ord := ordOf o,
                                 t := e.dt x.1 (v x.1).t, word := e.wordNo }) false) := by
  intro v
  have hlanes : l.map (·.1) = e.setE o := by rw [checkAll_lanes hc, List.map_map]; exact List.map_id _
  refine store_word h (e.setE_nodup o) (word_retires h (exec_st o s) ?_)
  simp only [hc, lanesOr]
  rw [← hlanes, List.map_map]
  rfl

theorem stu_word {s : State} {e : Env} (h : env? s = some e) (o : OpF) {l : List (Nat × Word64 × Target)}
    (hc : e.checkAll o.space .write (memSize o.ty) [((e.active.head?).getD 0, (memAddr o e ((e.active.head?).getD 0) (memSize o.ty) false 1).w)] = .ok l) :
    StoreWord s e (.stu o) e.active (fun _ => (storeBytes o (e.us o.d).w).2)
      (.stores (l.map fun x => { lane := x.1, at_ := x.2.2, va := x.2.1, bytes := (storeBytes o (e.us o.d).w).1, ord := ordOf o,
                                 t := e.ut (e.us o.d).t, word := e.wordNo }) true) := by
  refine store_word h (List.nodup_range.filter _) (word_retires h (exec_stu o s) ?_)
  simp only [hc, groupOr]
  rfl

/-- The bytes of a store without a conversion: the low bytes of its register, or of a .l6 store its low six bits. -/
theorem leNat_leBytes (v n : Nat) : leNat (leBytes v n) = v % 256 ^ n := by
  induction n generalizing v with
  | zero => simp [leBytes, leNat, Nat.mod_one]
  | succ n ih =>
    rw [leBytes, leNat, ih, BitVec.toNat_ofNat]
    have h := Nat.mod_mul (x := v) (a := 256) (b := 256 ^ n)
    rw [← pow_succ'] at h
    exact h.symm

theorem storeBytes_plain {o : OpF} (hcv : o.cv = false) (v : Word64) :
    (storeBytes o v).1.length = memSize o.ty ∧ (o.ty ≠ 12 → leNat (storeBytes o v).1 = v.toNat % 256 ^ memSize o.ty) ∧
      (o.ty = 12 → leNat (storeBytes o v).1 = v.toNat % 64) := by
  simp only [storeBytes, hcv, Bool.false_eq_true, if_false]
  refine ⟨?_, fun h => ?_, fun h => ?_⟩
  · split <;> exact leBytes_length _ _
  · rw [if_neg h]
    exact leNat_leBytes _ _
  · rw [if_pos h, leNat_leBytes, h]
    exact Nat.mod_eq_of_lt ((Nat.mod_lt _ (by decide)).trans_le (by decide))

/-! ### A store is issued (R322) -/

theorem State.foldDigest_keeps (s : State) (g : GRef) (lane : Nat) (l : List Word64) (t : Bool) :
    (s.foldDigest g lane l t).stores = s.stores ∧ (s.foldDigest g lane l t).home = s.home := by
  unfold State.foldDigest
  split <;> exact ⟨rfl, rfl⟩

/-- The store that a request becomes. -/
def issued (s : State) (g : Group) (q : StoreReq) (pa : Nat) : GStore :=
  { sid := s.sids, g := g.ref, core := g.core, va := q.va, pa := pa, bytes := q.bytes,
    rel := max (if q.ord = 3 then 1 else if q.ord = 4 then 2 else 0) g.fenceRel, t := q.t, det := s.det g.ref.grid, word := q.word }

theorem State.issueStore_keeps (s : State) (g : Group) (q : StoreReq) (pa : Nat) :
    (s.issueStore g q pa).stores = s.stores ++ [issued s g q pa] ∧ (s.issueStore g q pa).home = s.home := by
  obtain ⟨c, hc⟩ := State.chargeLines_eq s (s.memPath g.ref q.va pa).1.asid (s.classOf g.ref.grid) (s.memPath g.ref q.va pa).2
  have hcharge : s.memCharge g.ref q.va pa = { s with ctxs := c } := hc
  unfold State.issueStore
  dsimp only
  rw [(State.foldDigest_keeps _ _ _ _ _).1, (State.foldDigest_keeps _ _ _ _ _).2, hcharge]
  exact ⟨rfl, rfl⟩

/-! ### Stores are posted (R325, R326) -/

/-- The store is one of those that a posting takes. -/
def posts (p : GStore → Bool) (x : GStore) : Bool := x.seq.isNone && p x
/-- Memory takes a store (R430, 01 R20). -/
def taken (s : State) (x : GStore) : Bool := paWritable x.pa && !(isSystem x.pa && !s.dev.linkUp)
/-- The store covers a byte. -/
def coversByte (a : Nat) (x : GStore) : Bool := decide (x.pa ≤ a) && decide (a < x.pa + x.bytes.length)
theorem postOne_keeps (s : State) (x : GStore) :
    (∀ a, (s.postOne x).1.home.byte a = if taken s x && coversByte a x then (x.bytes[a - x.pa]?).getD 0 else s.home.byte a) ∧
      (s.postOne x).1.dev = s.dev ∧ s.home.seq ≤ (s.postOne x).1.home.seq ∧ (s.postOne x).2 = { x with seq := some (s.postOne x).1.home.seq } := by
  unfold State.postOne State.homeWrite taken
  dsimp only
  by_cases hl : (isSystem x.pa && !s.dev.linkUp) = true
  · rw [if_pos hl]
    exact ⟨fun a => by simp [hl, Home.byte], rfl, le_rfl, rfl⟩
  · rw [if_neg hl]
    by_cases hw : paWritable x.pa = true
    · rw [if_pos hw]
      refine ⟨fun a => ?_, rfl, Nat.le_succ _, rfl⟩
      change (s.home.write (if x.det then .det x.t else .outside) x.pa x.bytes).byte a = _
      have hl' : (isSystem x.pa && !s.dev.linkUp) = false := by simpa using hl
      rw [hw, hl']
      simp only [Bool.not_false, Bool.and_self, Bool.true_and, coversByte, Bool.and_eq_true, decide_eq_true_eq]
      by_cases hc : x.pa ≤ a ∧ a < x.pa + x.bytes.length
      · obtain ⟨i, rfl⟩ := Nat.exists_eq_add_of_le hc.1
        rw [if_pos hc, Home.byte_write_covered _ _ _ _ _ (by omega), Nat.add_sub_cancel_left, List.getElem?_eq_getElem (by omega), Option.getD_some]
      · rw [if_neg hc, Home.byte_write_outside _ _ _ _ _ (by omega)]
    · rw [if_neg hw]
      exact ⟨fun a => by simp [hw, Home.byte], rfl, le_rfl, rfl⟩

/-- A posting of a list: each byte is that of the last store taken that covers it; the others stand; what stays unposted stays as it is. -/
theorem postList_spec (p : GStore → Bool) (s : State) (l : List GStore) :
    let r := postList p s l
    (∀ a, ((l.filter fun x => posts p x && taken s x && coversByte a x) = [] → r.1.home.byte a = s.home.byte a) ∧
      ∀ x, (l.filter fun x => posts p x && taken s x && coversByte a x).getLast? = some x → some (r.1.home.byte a) = x.bytes[a - x.pa]?) ∧
    r.1.dev = s.dev ∧ s.home.seq ≤ r.1.home.seq ∧ r.2.length = l.length ∧
    ∀ (i : Nat) (x y : GStore), l[i]? = some x → r.2[i]? = some y →
      (posts p x = false → y = x) ∧ (posts p x = true → ∃ n, n ≤ r.1.home.seq ∧ s.home.seq ≤ n ∧ y = { x with seq := some n }) := by
  induction l generalizing s with
  | nil => exact ⟨fun a => ⟨fun _ => rfl, fun x hx => by cases hx⟩, rfl, le_rfl, rfl, fun i x y hx => by simp at hx⟩
  | cons st rest ih =>
    by_cases hp : posts p st = true
    · obtain ⟨hone, hdev1, hseq1, hst⟩ := postOne_keeps s st
      obtain ⟨hbyte, hdev, hseq, hlen, hkept⟩ := ih (s.postOne st).1
      have hr : postList p s (st :: rest) = ((postList p (s.postOne st).1 rest).1, (s.postOne st).2 :: (postList p (s.postOne st).1 rest).2) :=
        if_pos hp
      have htaken : taken (s.postOne st).1 = taken s := by unfold taken; rw [hdev1]
      rw [htaken] at hbyte
      rw [hr]
      refine ⟨fun a => ⟨fun hnil => ?_, fun x hx => ?_⟩, hdev.trans hdev1, hseq1.trans hseq, by simp [hlen], fun i x y hx hy => ?_⟩
      · simp only [List.filter_cons] at hnil
        split at hnil
        · cases hnil
        · next hno =>
          rw [(hbyte a).1 hnil, hone, if_neg (by simpa [hp] using hno)]
      · simp only [List.filter_cons] at hx
        split at hx
        · next hyes =>
          cases hrest : (rest.filter fun x => posts p x && taken s x && coversByte a x).getLast? with
          | some z =>
            rw [List.getLast?_cons, hrest] at hx
            cases hx
            exact (hbyte a).2 _ hrest
          | none =>
            rw [List.getLast?_cons, hrest] at hx
            obtain rfl : st = x := Option.some.inj hx
            simp only [Bool.and_eq_true, coversByte, decide_eq_true_eq] at hyes
            rw [(hbyte a).1 (List.getLast?_eq_none_iff.mp hrest), hone, if_pos (by simp [coversByte, hyes]), List.getElem?_eq_getElem (by omega)]
            rfl
        · exact (hbyte a).2 x hx
      · match i with
        | 0 =>
          simp only [List.getElem?_cons_zero, Option.some.injEq] at hx hy
          subst hx hy
          exact ⟨fun h => absurd hp (by simp [h]), fun _ => ⟨_, hseq, hseq1, hst⟩⟩
        | i + 1 =>
          obtain ⟨hno, hyes⟩ := hkept i x y hx hy
          refine ⟨hno, fun h => ?_⟩
          obtain ⟨n, h1, h2, h3⟩ := hyes h
          exact ⟨n, h1, hseq1.trans h2, h3⟩
    · obtain ⟨hbyte, hdev, hseq, hlen, hkept⟩ := ih s
      have hr : postList p s (st :: rest) = ((postList p s rest).1, st :: (postList p s rest).2) := if_neg hp
      have hfilter : ∀ a, ((st :: rest).filter fun x => posts p x && taken s x && coversByte a x) =
          rest.filter fun x => posts p x && taken s x && coversByte a x := fun a => List.filter_cons_of_neg (by simp [hp])
      rw [hr]
      refine ⟨fun a => by rw [hfilter a]; exact hbyte a, hdev, hseq, by simp [hlen], fun i x y hx hy => ?_⟩
      match i with
      | 0 =>
        simp only [List.getElem?_cons_zero, Option.some.injEq] at hx hy
        subst hx hy
        exact ⟨fun _ => rfl, fun h => absurd h hp⟩
      | i + 1 => exact hkept i x y hx hy

theorem postWhere_spec (s : State) (p : GStore → Bool) :
    let t := s.postWhere p
    t.stores.length = s.stores.length ∧ ∀ (i : Nat) (x y : GStore), s.stores[i]? = some x → t.stores[i]? = some y →
      (posts p x = false → y = x) ∧ (posts p x = true → ∃ n, n ≤ t.home.seq ∧ s.home.seq ≤ n ∧ y = { x with seq := some n }) := by
  obtain ⟨-, -, -, hlen, hkept⟩ := postList_spec p s s.stores
  exact ⟨hlen, hkept⟩

/-- A posting keeps the stores in their places, and none that it chooses is left unposted. -/
theorem postGroup_stores (s : State) (g : GRef) :
    (s.postGroup g).stores.map (·.sid) = s.stores.map (·.sid) ∧ ∀ y ∈ (s.postGroup g).stores, y.g = g → y.seq.isSome = true := by
  obtain ⟨hlen, hkept⟩ := postWhere_spec s fun st => decide (st.g = g)
  have each : ∀ (i : Nat) (y : GStore), (s.postGroup g).stores[i]? = some y → ∃ x, s.stores[i]? = some x ∧ y.sid = x.sid ∧ (y.g = g → y.seq.isSome = true) := by
    intro i y hy
    obtain ⟨hi, -⟩ := List.getElem?_eq_some_iff.mp hy
    have hi' : i < s.stores.length := by rw [← hlen]; exact hi
    refine ⟨s.stores[i], List.getElem?_eq_getElem hi', ?_⟩
    obtain ⟨hno, hyes⟩ := hkept i _ y (List.getElem?_eq_getElem hi') hy
    cases hp : posts (fun st => decide (st.g = g)) s.stores[i] with
    | true =>
      obtain ⟨n, -, -, rfl⟩ := hyes hp
      exact ⟨rfl, fun _ => rfl⟩
    | false =>
      rw [hno hp]
      refine ⟨rfl, fun hg => ?_⟩
      simpa [posts, hg, Option.isSome_iff_ne_none] using hp
  refine ⟨List.ext_getElem? fun i => ?_, fun y hy hg => ?_⟩
  · rw [List.getElem?_map, List.getElem?_map]
    cases hy : (s.postGroup g).stores[i]? with
    | none =>
      rw [List.getElem?_eq_none_iff] at hy
      rw [List.getElem?_eq_none (by rw [← hlen]; exact hy)]
    | some y =>
      obtain ⟨x, hx, hsid, -⟩ := each i y hy
      rw [hx, Option.map_some, Option.map_some, hsid]
  · obtain ⟨i, hi⟩ := List.mem_iff_getElem?.mp hy
    obtain ⟨-, -, -, hsome⟩ := each i y hi
    exact hsome hg

/-- A plain store leaves: it is issued, and an ST.POST then posts every store of its group. -/
theorem effectStep_store {s : State} {g : Group} {q : StoreReq} {u : Bool} {pa : Nat} {x : Grid} (hg : s.group? g.ref = some g)
    (hx : s.grid? g.ref.grid = some x) (hk : x.kill = none) (hat : q.at_ = .mem pa) (hopen : s.memOpen g.ref q.va pa = true) :
    effectStep s g (.stores [q] u) = .done ((s.issueStore g q pa).postsAfter g.ref q.ord) := by
  have hdead : s.gridDead g.ref.grid = false := by rw [State.gridDead, hx]; simp [hk]
  have hlocal : s.localStores g.ref [q] = (s.issueStore g q pa, []) := by
    rw [State.localStores, hg, hat]
    simp only [hopen, if_true]
    rfl
  simp only [effectStep, hdead, hlocal]
  rfl

/-- Settles O26: the words by the lanes of their checks, the effect by the store that it issues, a posting by induction on the stores. -/
theorem storesComplete : Obligations.StoresComplete := by
  unfold Obligations.StoresComplete
  refine ⟨fun s e o h => ⟨fun l hc => st_word h o hc, fun l hc => stu_word h o hc, fun v hcv => storeBytes_plain hcv v⟩, ?_, ?_⟩
  · intro s g q u pa x hg hx hk hat hopen
    obtain ⟨hstores, hhome⟩ := s.issueStore_keeps g q pa
    refine ⟨_, issued s g q pa, effectStep_store hg hx hk hat hopen, rfl, rfl, rfl, rfl, rfl, fun hord => ?_, fun hord => ?_⟩
    · rw [State.postsAfter, if_neg (by omega)]
      exact ⟨hstores, hhome⟩
    · rw [State.postsAfter, if_pos (Or.inl hord), ← hstores]
      exact postGroup_stores _ _
  · intro s p t posts' open_ covers
    obtain ⟨hbyte, -, -, hlen, hkept⟩ := postList_spec p s s.stores
    exact ⟨hbyte, hlen, hkept⟩

end Sys2Proof.Machine
end

section
/-!
PROOF. Loads (14 R346 to R349, 13 R329, R330, R336): the bytes that they return, and how registers take them.
-/
namespace Sys2Proof.Machine
open Sys2Proof

/-! ### Views grow (R327) -/

theorem State.viewOf_growView (s : State) (core line n c l : Nat) :
    (s.growView core line n).viewOf c l = if c = core ∧ l = line then max (s.viewOf c l) n else s.viewOf c l := by
  unfold State.growView State.viewOf
  dsimp only
  by_cases hn : n ≤ max (Table.get {} s.views core).all (Table.get 0 (Table.get {} s.views core).lines line)
  · rw [if_pos hn]
    split
    · next h => obtain ⟨rfl, rfl⟩ := h; exact (max_eq_left hn).symm
    · rfl
  · rw [if_neg hn]
    simp only [Table.get_set]
    by_cases hc : c = core
    · subst hc
      simp only [if_true, true_and, Table.get_set]
      by_cases hl : l = line
      · subst hl
        simp only [if_true]
        omega
      · simp only [hl, if_false]
    · simp only [hc, false_and, if_false]

/-- A view that has grown to the last writes of some bytes. -/
theorem foldl_growView (s : State) (core line : Nat) (l : List Got) :
    let t := l.foldl (fun s x => s.growView core line x.last) s
    t.home = s.home ∧ (∀ c k, s.viewOf c k ≤ t.viewOf c k) ∧ ∀ x ∈ l, x.last ≤ t.viewOf core line := by
  induction l generalizing s with
  | nil => exact ⟨rfl, fun _ _ => le_rfl, fun x hx => absurd hx List.not_mem_nil⟩
  | cons a rest ih =>
    obtain ⟨hhome, hmono, hlast⟩ := ih (s.growView core line a.last)
    have hstep : ∀ c k, s.viewOf c k ≤ (s.growView core line a.last).viewOf c k := fun c k => by
      rw [State.viewOf_growView]
      split
      · exact le_max_left _ _
      · exact le_rfl
    refine ⟨hhome.trans (State.growView_home _ _ _ _), fun c k => (hstep c k).trans (hmono c k), fun x hx => ?_⟩
    obtain rfl | hx := List.mem_cons.mp hx
    · refine le_trans ?_ (hmono core line)
      rw [State.viewOf_growView, if_pos ⟨rfl, rfl⟩]
      exact le_max_right _ _
    · exact hlast x hx

/-- The releases that a load acquires are published: no view and no home changes. -/
theorem foldl_publish (p : GStore → Bool) (h : GRef) (l : List GStore) (s : State) :
    ∃ st, l.foldl (fun s x => if p x then s.publish x h else s) s = { s with stores := st } := by
  induction l generalizing s with
  | nil => exact ⟨s.stores, rfl⟩
  | cons a rest ih =>
    rw [List.foldl_cons]
    split
    · obtain ⟨st, hst⟩ := ih (s.publish a h)
      exact ⟨st, hst⟩
    · exact ih s

/-! ### A byte of a load (R329, R330) -/

/-- The bytes that a plain load gets. -/
def gotPlain (e : Env) (scopes : List Nat) (pa n : Nat) : List Got :=
  ((List.range n).map (pa + ·)).map fun b => getByte e scopes (max (prefixOf e pa) (floorOf e b)) b

theorem readMem_plain (e : Env) (acq : Nat) (scopes : List Nat) (pa n : Nat) :
    let r := readMem e acq scopes false pa n
    r.2.1 = (gotPlain e scopes pa n).map (·.byte) ∧ r.1.s.home = e.s.home ∧ (∀ c l, e.s.viewOf c l ≤ r.1.s.viewOf c l) ∧
      ∀ x ∈ gotPlain e scopes pa n, x.last ≤ r.1.s.viewOf e.g.core (pa / 64) := by
  intro r
  obtain ⟨hhome, hmono, hlast⟩ := foldl_growView e.s e.g.core (pa / 64) (gotPlain e scopes pa n)
  obtain ⟨st, hst⟩ := foldl_publish (fun x => linked x acq e.g.ref e.g.core) e.g.ref ((gotPlain e scopes pa n).filterMap (·.from_))
    ((gotPlain e scopes pa n).foldl (fun s x => s.growView e.g.core (pa / 64) x.last) e.s)
  generalize hgrown : (gotPlain e scopes pa n).foldl (fun s x => s.growView e.g.core (pa / 64) x.last) e.s = grown at *
  obtain ⟨c, hc⟩ := State.chargeLines_eq { grown with stores := st } e.ctx.asid (pkClass e.pkt) [pa]
  have hs : r.1.s = State.bump { grown with stores := st, ctxs := c } := by
    rw [← hc, ← hst, ← hgrown]
    rfl
  rw [hs]
  exact ⟨rfl, hhome, hmono, hlast⟩

theorem findSome?_eq_find? {α β : Type} {p : α → Bool} {f : α → Option β} (h : ∀ x, (f x).isSome = p x) (l : List α) :
    l.findSome? f = (l.find? p).bind f := by
  induction l with
  | nil => rfl
  | cons x rest ih =>
    cases hp : p x with
    | true =>
      obtain ⟨b, hb⟩ := Option.isSome_iff_exists.mp ((h x).trans hp)
      rw [List.findSome?_cons_of_isSome ((h x).trans hp), List.find?_cons_of_pos hp]
      rfl
    | false =>
      rw [List.findSome?_cons_of_isNone (by rw [← Option.not_isSome, h x, hp]; rfl), List.find?_cons_of_neg (by simp [hp]), ih]

/-- The last value among those that a list gives is that of the last element that gives one. -/
theorem getLast?_filterMap_eq {α β : Type} {p : α → Bool} {f : α → Option β} (h : ∀ x, (f x).isSome = p x) (l : List α) :
    (l.filterMap f).getLast? = (l.filter p).getLast?.bind f := by
  rw [List.getLast?_filterMap, List.getLast?_filter, findSome?_eq_find? h]

/-- A buffered store of the run covers a byte of memory. -/
def ownAt (a : Nat) (q : StoreReq) : Bool := match q.at_ with
  | .mem b => decide (b ≤ a) && decide (a < b + q.bytes.length)
  | _ => false

theorem dist_mem_isSome (a : Nat) (q : StoreReq) : ((q.at_.dist (.mem a)).bind fun d => q.bytes[d]?).isSome = ownAt a q := by
  unfold ownAt
  cases q.at_ with
  | mem b =>
    by_cases h : b ≤ a
    · rw [Bool.eq_iff_iff]
      simp [Target.dist, h]
      omega
    · simp [Target.dist, h]
  | _ => rfl

/-- The byte of the run's own stores: that of the last of them that covers it (R82). -/
theorem ownByte_mem (e : Env) (a : Nat) :
    ownByte e (.mem a) = (e.buffered.filter (ownAt a)).getLast?.bind fun q => (q.at_.dist (.mem a)).bind fun d => q.bytes[d]? :=
  getLast?_filterMap_eq (dist_mem_isSome a) e.buffered

/-- The unposted stores that a plain load of run A may return for a byte (R329, R332). -/
def unposted (e : Env) (scopes : List Nat) (a : Nat) (x : GStore) : Bool :=
  x.seq.isNone && decide (x.pa ≤ a) && decide (a < x.pa + x.bytes.length) &&
    ((x.g == e.g.ref || x.pubs.contains e.g.ref) ||
      (decide (0 < x.rel) && decide (x.core = e.g.core) && scopes.any fun k => linked x k e.g.ref e.g.core))

theorem candidate_eq {e : Env} (hb : e.b = .a) (scopes : List Nat) (a : Nat) (x : GStore) : candidate e scopes a x = unposted e scopes a x := by
  have hhid : e.hidden x = false := by simp [Env.hidden, hb]
  rw [candidate, visible, hhid, unposted, GStore.covers, Bool.eq_iff_iff]
  simp only [Bool.and_eq_true, Bool.or_eq_true, Bool.not_false, decide_eq_true_eq, beq_iff_eq]
  tauto

theorem cutTo_a {e : Env} (hb : e.b = .a) (n a : Nat) : e.cutTo n a = n := by
  have stays : ∀ l : List Past, (l.foldl (fun (r : Nat × Bool) p =>
      if !r.2 || !(p.pa == a) || decide (r.1 < p.seq) then r
      else if e.s.stores.any fun x => x.seq == some p.seq && e.hidden x then (p.seq - 1, true)
      else (r.1, false)) (n, false)) = (n, false) := by
    intro l
    induction l with
    | nil => rfl
    | cons p rest ih => exact ih
  unfold Env.cutTo Env.cutWhere
  rw [hb]
  exact congrArg Prod.fst (stays _)

/-- A byte that neither the run nor an unposted store gives is read at a place of the home order. -/
theorem getByte_home {e : Env} (hb : e.b = .a) {scopes : List Nat} {a : Nat} (hown : ownByte e (.mem a) = none)
    (hun : e.s.stores.filter (unposted e scopes a) = []) (n : Nat) :
    (getByte e scopes n a).byte = e.s.home.byteAt n a ∧ (getByte e scopes n a).last = e.s.home.lastWrite n a := by
  have hcand : e.s.stores.filter (candidate e scopes a) = [] := by
    rw [funext (candidate_eq hb scopes a)]; exact hun
  simp only [getByte, hown, hcand, latest, List.getLast?_nil, cutTo_a hb]
  exact ⟨trivial, trivial⟩

theorem getByte_unposted {e : Env} (hb : e.b = .a) {scopes : List Nat} {a : Nat} (hown : ownByte e (.mem a) = none) {x : GStore}
    (hun : (e.s.stores.filter (unposted e scopes a)).getLast? = some x) (n : Nat) : some (getByte e scopes n a).byte = x.bytes[a - x.pa]? := by
  have hcand : latest (e.s.stores.filter (candidate e scopes a)) = some x := by
    rw [funext (candidate_eq hb scopes a)]; exact hun
  have hx := (List.mem_filter.mp (List.mem_of_getLast? hun)).2
  simp only [unposted, Bool.and_eq_true, decide_eq_true_eq] at hx
  obtain ⟨⟨⟨-, h1⟩, h2⟩, -⟩ := hx
  simp only [getByte, hown, hcand, GStore.at]
  rw [List.getElem?_eq_getElem (by omega)]
  rfl

/-! ### The place in the home order of a plain load (R329) -/

theorem prefixOf_bounds {e : Env} {pa : Nat} (h : e.s.viewOf e.g.core (pa / 64) ≤ e.s.home.seq) :
    e.s.viewOf e.g.core (pa / 64) ≤ prefixOf e pa ∧ prefixOf e pa ≤ e.s.home.seq := by
  unfold prefixOf
  dsimp only
  split
  · exact ⟨h, le_rfl⟩
  · have := Nat.mod_lt (Config.choice e.s.tick) (show 0 < e.s.home.seq - e.s.viewOf e.g.core (pa / 64) + 1 by omega)
    omega

/-- A fold that only grows, takes in the places of some stores, and goes no further than the stores do. -/
theorem foldl_bounds {f : Nat → GStore → Nat} {c : GStore → Bool} (hge : ∀ m x, m ≤ f m x)
    (hin : ∀ m x q, x.seq = some q → c x = true → q ≤ f m x) (hle : ∀ m x n, m ≤ n → (∀ q, x.seq = some q → q ≤ n) → f m x ≤ n)
    (l : List GStore) (m : Nat) :
    m ≤ l.foldl f m ∧ (∀ x ∈ l, ∀ q, x.seq = some q → c x = true → q ≤ l.foldl f m) ∧
      ∀ n, m ≤ n → (∀ x ∈ l, ∀ q, x.seq = some q → q ≤ n) → l.foldl f m ≤ n := by
  induction l generalizing m with
  | nil => exact ⟨le_rfl, fun x hx => absurd hx List.not_mem_nil, fun n h _ => h⟩
  | cons y rest ih =>
    obtain ⟨h1, h2, h3⟩ := ih (f m y)
    refine ⟨(hge m y).trans h1, fun x hx q hq hc => ?_, fun n hm hall => ?_⟩
    · obtain rfl | hx := List.mem_cons.mp hx
      · exact (hin m x q hq hc).trans h1
      · exact h2 x hx q hq hc
    · exact h3 n (hle m y n hm (hall y List.mem_cons_self)) fun x hx => hall x (List.mem_cons_of_mem _ hx)

/-- The stores of the group, or published to it, that bound its place in the home order from below: each is within it, and it is not beyond the last of them. -/
theorem floorOf_bounds {e : Env} (hb : e.b = .a) (a : Nat) :
    (∀ x ∈ e.s.stores, ∀ q, x.seq = some q → (x.covers a && (x.g == e.g.ref || x.pubs.contains e.g.ref)) = true → q ≤ floorOf e a) ∧
      ∀ n, (∀ x ∈ e.s.stores, ∀ q, x.seq = some q → q ≤ n) → floorOf e a ≤ n := by
  have hhid : ∀ x, e.hidden x = false := fun x => by simp [Env.hidden, hb]
  unfold floorOf floorWhere
  simp only [hhid, Bool.not_false, Bool.and_true]
  refine (fun h => ⟨h.2.1, fun n hn => h.2.2 n (Nat.zero_le n) hn⟩) (foldl_bounds
    (c := fun x => x.covers a && (x.g == e.g.ref || x.pubs.contains e.g.ref)) (fun m x => ?_) (fun m x q hq hc => ?_) (fun m x n hm hall => ?_)
    e.s.stores 0)
  · cases x.seq with
    | none => exact le_rfl
    | some q => dsimp only; split; exact le_max_left _ _; exact le_rfl
  · simp only [hq, hc, if_true]
    exact le_max_right _ _
  · cases hx : x.seq with
    | none => exact hm
    | some q => dsimp only; split; exact max_le hm (hall q hx); exact hm

/-! ### A plain load of run A, byte by byte (R82, R329) -/

theorem readMem_byte {e : Env} (hb : e.b = .a) (acq : Nat) (scopes : List Nat) {pa n i : Nat} (hi : i < n) :
    let a := pa + i
    let r := readMem e acq scopes false pa n
    (∀ q, (e.buffered.filter (ownAt a)).getLast? = some q → r.2.1[i]? = ((q.at_.dist (.mem a)).bind fun d => q.bytes[d]?)) ∧
    (e.buffered.filter (ownAt a) = [] →
      (∀ x, (e.s.stores.filter (unposted e scopes a)).getLast? = some x → r.2.1[i]? = x.bytes[a - x.pa]?) ∧
      (e.s.stores.filter (unposted e scopes a) = [] → e.s.viewOf e.g.core (pa / 64) ≤ e.s.home.seq →
        (∀ x ∈ e.s.stores, ∀ q, x.seq = some q → q ≤ e.s.home.seq) →
        ∃ m, e.s.viewOf e.g.core (pa / 64) ≤ m ∧ m ≤ e.s.home.seq ∧
          (∀ x ∈ e.s.stores, ∀ q, x.seq = some q → x.pa ≤ a → a < x.pa + x.bytes.length → (x.g == e.g.ref || x.pubs.contains e.g.ref) = true → q ≤ m) ∧
          r.2.1[i]? = some (e.s.home.byteAt m a) ∧ e.s.home.lastWrite m a ≤ r.1.s.viewOf e.g.core (pa / 64))) := by
  intro a r
  obtain ⟨hbytes, -, -, hlast⟩ := readMem_plain e acq scopes pa n
  have hgot : (gotPlain e scopes pa n)[i]? = some (getByte e scopes (max (prefixOf e pa) (floorOf e a)) a) := by
    simp only [gotPlain, List.getElem?_map, List.getElem?_range hi, Option.map_some]
    rfl
  have hbyte : r.2.1[i]? = some (getByte e scopes (max (prefixOf e pa) (floorOf e a)) a).byte := by
    rw [hbytes, List.getElem?_map, hgot, Option.map_some]
  refine ⟨fun q hq => ?_, fun hnil => ?_⟩
  · have hown := ownByte_mem e a
    rw [hq, Option.bind_some] at hown
    have hsome := (dist_mem_isSome a q).trans (List.mem_filter.mp (List.mem_of_getLast? hq)).2
    obtain ⟨b, hbq⟩ := Option.isSome_iff_exists.mp hsome
    rw [hbyte, hbq]
    simp only [getByte, hown, hbq]
  · have hown : ownByte e (.mem a) = none := by rw [ownByte_mem, hnil]; rfl
    refine ⟨fun x hx => ?_, fun hun hview hposted => ?_⟩
    · rw [hbyte]
      exact getByte_unposted hb hown hx _
    · obtain ⟨hp1, hp2⟩ := prefixOf_bounds hview
      obtain ⟨hf1, hf2⟩ := floorOf_bounds hb a
      obtain ⟨h1, h2⟩ := getByte_home hb hown hun (max (prefixOf e pa) (floorOf e a))
      refine ⟨max (prefixOf e pa) (floorOf e a), hp1.trans (le_max_left _ _), max_le hp2 (hf2 _ hposted), fun x hx q hq hlo hhi hmine => ?_,
        by rw [hbyte, h1], ?_⟩
      · refine (hf1 x hx q hq ?_).trans (le_max_right _ _)
        rw [hmine, Bool.and_true, GStore.covers]
        simp [hlo, hhi]
      · rw [← h2]
        exact hlast _ (List.mem_of_getElem? hgot)

/-- A load at the home, whose group's stores to the line are posted, returns the bytes there (R330). -/
theorem readMem_atHome {e : Env} (hb : e.b = .a) (acq : Nat) (scopes : List Nat) {pa n i : Nat} (hi : i < n)
    (hown : e.buffered.filter (ownAt (pa + i)) = []) :
    let t := e.s.postLine e.g.ref (pa / 64)
    (∀ x ∈ t.stores, x.seq = none → pa + i < x.pa ∨ x.pa + x.bytes.length ≤ pa + i) → (∀ x ∈ t.stores, ∀ q, x.seq = some q → q ≤ t.home.seq) →
      (readMem e acq scopes true pa n).2.1[i]? = some (t.home.byteAt t.home.seq (pa + i)) := by
  intro t hclear hposted
  let e1 : Env := { e with s := t }
  have hb1 : e1.b = .a := hb
  have hbytes : (readMem e acq scopes true pa n).2.1[i]? = some (getByte e1 scopes (max t.home.seq (floorOf e1 (pa + i))) (pa + i)).byte := by
    simp only [readMem, if_true, List.getElem?_map, List.getElem?_range hi, Option.map_some]
    rfl
  have hown1 : ownByte e1 (.mem (pa + i)) = none := by rw [ownByte_mem, show e1.buffered = e.buffered from rfl, hown]; rfl
  have hun : e1.s.stores.filter (unposted e1 scopes (pa + i)) = [] := List.filter_eq_nil_iff.mpr fun x hx hun => by
    simp only [unposted, Bool.and_eq_true, decide_eq_true_eq, Option.isNone_iff_eq_none] at hun
    obtain ⟨⟨⟨hseq, h1⟩, h2⟩, -⟩ := hun
    have := hclear x hx hseq
    omega
  rw [hbytes, (getByte_home hb1 hown1 hun _).1, max_eq_left ((floorOf_bounds hb1 (pa + i)).2 _ hposted)]

/-! ### The lanes of a load -/

/-- A load of memory in one lane. -/
theorem loadAll_mem (e : Env) (acq : Nat) (home : Bool) (n L : Nat) (va : Word64) (ats : Nat → Bool) (pa : Nat) :
    ∃ x, (loadAll e acq home n ats [(L, va, .mem pa)]).2 = [x] ∧ x.lane = L ∧
      let e1 : Env := { e with s := e.s.chargeLines e.ctx.asid (pkClass e.pkt) (e.s.xlatReads e.g.core e.ctx va) }
      x.w = BitVec.ofNat 64 (leNat (readMem e1 acq (lookScopes e acq) home pa n).2.1) :=
  ⟨_, rfl, rfl, rfl⟩

/-- What a target gives run A stands as it is. -/
theorem unveiled_a {e : Env} (hb : e.b = .a) (t : Target) (r : List Byte × Bool) : e.unveiled t r = r := by
  unfold Env.unveiled
  simp [hb]

theorem dist_scratch (tm : TRef) (c : Nat) (q : StoreReq) : ((q.at_.dist (.scratch tm c)).bind fun d => q.bytes[d]?) = match q.at_ with
    | .scratch u b => if u = tm ∧ b ≤ c then q.bytes[c - b]? else none
    | _ => none := by
  cases q.at_ with
  | scratch u b =>
    simp only [Target.dist]
    split <;> rfl
  | _ => rfl

/-- A load of the scratchpad of its team in one lane of run A: the bytes there, under the stores of its own run (R336). -/
theorem loadAll_scratch {e : Env} (hb : e.b = .a) (hp : e.r.probe = none) {tm : Team} (ht : e.s.team? e.g.ref.tref = some tm) (acq : Nat)
    (home : Bool) (n L : Nat) (va : Word64) (ats : Nat → Bool) (a : Nat) :
    ∃ x bs, (loadAll e acq home n ats [(L, va, .scratch e.g.ref.tref a)]).2 = [x] ∧ x.lane = L ∧ x.w = BitVec.ofNat 64 (leNat bs) ∧
      bs.length = n ∧ ∀ i, i < n →
        let own := e.buffered.filterMap fun q => match q.at_ with
          | .scratch u b => if u = e.g.ref.tref ∧ b ≤ a + i then q.bytes[a + i - b]? else none
          | _ => none
        bs[i]? = some (own.getLast?.getD (tm.spByte (a + i))) := by
  have hprobe : e.probeAns L = none := by simp [Env.probeAns, hp]
  have hread : e.s.readAt (.scratch e.g.ref.tref a) n = (tm.spRead a n, tm.spTainted a n) := by simp [State.readAt, ht]
  have hlen : (tm.spRead a n).length = n := by simp [Team.spRead]
  refine ⟨_, overlay e (.scratch e.g.ref.tref a) (tm.spRead a n), rfl, rfl, ?_, by simp [overlay, hlen], fun i hi => ?_⟩
  · simp only [hprobe, hread, unveiled_a hb]
    rfl
  · intro own
    have hown : ownByte e ((Target.scratch e.g.ref.tref a).shift i) = own.getLast? := by
      unfold ownByte
      exact congrArg List.getLast? (List.filterMap_congr fun q _ => dist_scratch _ _ _)
    have hi' : i < (tm.spRead a n).length := by rw [hlen]; exact hi
    simp only [overlay, List.getElem?_map, List.getElem?_range hi', Option.map_some, hown]
    rw [List.getElem?_eq_getElem hi']
    simp [Team.spRead]

/-! ### How a register takes a load (R240, R349) -/

/-- The register form of loaded bits: LNS6 its low six, a narrow signed integer sign-extended, all else its own bits. -/
def placedForm (ty : Nat) (w : Word64) : Nat :=
  if ty = 12 then w.toNat % 64 else if ty = 4 then ((w.extractLsb' 0 16).signExtend 32).toNat
    else if ty = 6 then ((w.extractLsb' 0 8).signExtend 32).toNat else w.toNat % 2 ^ tyBits ty

theorem intOf_signed {ty : Nat} (hs : signedTy ty = true) (w : Word64) : intOf ty w.toNat = (w.extractLsb' 0 (tyBits ty)).toInt := by
  have h := rank_toNat (tyBits_pos ty) true (w.extractLsb' 0 (tyBits ty))
  rw [BitVec.extractLsb'_toNat, Nat.shiftRight_zero] at h
  unfold intOf
  rw [hs]
  exact h

theorem regForm_placed {ty : Nat} (hty : ty < 13) (w : Word64) : regForm ty w.toNat = placedForm ty w := by
  unfold regForm placedForm
  dsimp only
  by_cases h12 : ty = 12
  · rw [if_pos h12, if_pos h12]
  rw [if_neg h12, if_neg h12]
  by_cases h4 : ty = 4
  · subst h4
    rw [if_pos (by decide), if_pos rfl, intOf_signed (by decide)]
    rfl
  by_cases h6 : ty = 6
  · subst h6
    rw [if_pos (by decide), if_neg (by decide), if_pos rfl, intOf_signed (by decide)]
    rfl
  rw [if_neg h4, if_neg h6, if_neg]
  interval_cases ty <;> simp_all <;> decide

/-- The low half of a 64-bit value from a natural number. -/
theorem low_half (n : Nat) : (BitVec.ofNat 64 n).extractLsb' 0 32 = BitVec.ofNat 32 n := by
  apply BitVec.eq_of_toNat_eq
  simp only [BitVec.extractLsb'_toNat, BitVec.toNat_ofNat, Nat.shiftRight_zero]
  omega

theorem placedForm_wide {ty : Nat} (h : tyBits ty = 64) (hty : ty < 13) (w : Word64) : BitVec.ofNat 64 (placedForm ty w) = w := by
  have hp : placedForm ty w = w.toNat := by
    unfold placedForm
    rw [if_neg, if_neg, if_neg, h, Nat.mod_eq_of_lt w.isLt] <;> rintro rfl <;> simp [tyBits] at h
  rw [hp]
  rw [BitVec.ofNat_toNat, BitVec.setWidth_eq]

theorem vwrite_loadForm {ty : Nat} (hty : ty < 13) (r : Nat) (w : Word64) (t : Bool) :
    (tyBits ty ≠ 64 → (vwrite r (!false && tyBits ty == 64) (loadForm ty false w).1 t).map (fun p => (p.1, p.2.w)) = [(r, BitVec.ofNat 32 (placedForm ty w))]) ∧
    (tyBits ty = 64 → (vwrite r (!false && tyBits ty == 64) (loadForm ty false w).1 t).map (fun p => (p.1, p.2.w)) =
      [(r, w.extractLsb' 0 32), (r + 1, w.extractLsb' 32 32)]) := by
  have hform : (loadForm ty false w).1 = BitVec.ofNat 64 (placedForm ty w) := congrArg (BitVec.ofNat 64) (regForm_placed hty w)
  rw [hform]
  refine ⟨fun h => ?_, fun h => ?_⟩
  · rw [show (!false && tyBits ty == 64) = false by simpa using h]
    exact congrArg (fun x => [(r, x)]) (low_half _)
  · rw [placedForm_wide h hty, h]
    rfl

/-- The form that LDU takes: a signed integer sign-extended to 64 bits, all else its register form (R349). -/
theorem loaduForm_plain {ty : Nat} (hty : ty < 13) (w : Word64) : (loaduForm ty false w).1 =
    if ty = 0 ∨ ty = 4 ∨ ty = 6 then (BitVec.ofNat 32 (placedForm ty w)).signExtend 64 else BitVec.ofNat 64 (placedForm ty w) := by
  by_cases hs : (isIntTy ty && signedTy ty) = true
  · have hsg : signedTy ty = true := (Bool.and_eq_true _ _ ▸ hs).2
    have hform : (loaduForm ty false w).1 = BitVec.ofInt 64 (w.extractLsb' 0 (tyBits ty)).toInt := by
      rw [← intOf_signed hsg, loaduForm, if_neg (by decide), if_pos hs]
    rw [hform]
    have hcases : ty = 0 ∨ ty = 2 ∨ ty = 4 ∨ ty = 6 := by
      simp only [isIntTy, signedTy, Bool.and_eq_true, decide_eq_true_eq, beq_iff_eq] at hs
      omega
    obtain rfl | rfl | rfl | rfl := hcases
    · rw [if_pos (by decide)]
      refine congrArg (BitVec.signExtend 64) (?_ : w.extractLsb' 0 32 = _)
      apply BitVec.eq_of_toNat_eq
      simp [placedForm, tyBits]
    · rw [if_neg (by decide), placedForm_wide rfl hty]
      change (w.extractLsb' 0 64).signExtend 64 = w
      rw [BitVec.extractLsb'_eq_self, BitVec.signExtend_eq]
    · rw [if_pos (by decide)]
      change (w.extractLsb' 0 16).signExtend 64 = (BitVec.ofNat 32 ((w.extractLsb' 0 16).signExtend 32).toNat).signExtend 64
      rw [BitVec.ofNat_toNat, BitVec.setWidth_eq]
      apply BitVec.eq_of_toInt_eq
      rw [BitVec.toInt_signExtend_of_le (by decide), BitVec.toInt_signExtend_of_le (by decide), BitVec.toInt_signExtend_of_le (by decide)]
    · rw [if_pos (by decide)]
      change (w.extractLsb' 0 8).signExtend 64 = (BitVec.ofNat 32 ((w.extractLsb' 0 8).signExtend 32).toNat).signExtend 64
      rw [BitVec.ofNat_toNat, BitVec.setWidth_eq]
      apply BitVec.eq_of_toInt_eq
      rw [BitVec.toInt_signExtend_of_le (by decide), BitVec.toInt_signExtend_of_le (by decide), BitVec.toInt_signExtend_of_le (by decide)]
  · have hform : (loaduForm ty false w).1 = BitVec.ofNat 64 (placedForm ty w) := by
      rw [loaduForm, if_neg (by decide), if_neg hs]
      exact congrArg (BitVec.ofNat 64) (regForm_placed hty w)
    rw [hform, if_neg]
    rintro (rfl | rfl | rfl) <;> exact hs rfl

/-! ### The words (R348) -/

theorem Env.Live.renewIf {e : Env} (h : e.Live) (b : Bool) : (renewIf b e).Live := by
  cases b
  · exact h
  · exact h.of_groups rfl rfl

theorem ld_word {s : State} {e : Env} (h : env? s = some e) (o : OpF) {l : List (Nat × Word64 × Target)}
    (hc : e.checkLoad o.space (memSize o.ty) ((e.setE o).map fun L => (L, (loadAddr o e L (memSize o.ty)).w)) = .ok l) :
    let home := decide (o.space = 0) && atHome e o.cond
    let acq := if o.space = 0 then acqOf o.cond else 0
    let r := loadAll e acq home (memSize o.ty) (fun L => (loadAddr o e L (memSize o.ty)).t) l
    BoundaryWord s (renewIf (home && decide (o.cond = 3)) r.1) (.ld o) [.load o.d.toNat o.ty o.cv r.2] [] := by
  intro home acq r
  refine boundary_word (((live_of_env? h).reads (loadAll_reads _ _ _ _ _ _)).renewIf _) (word_retires h (exec_ld o s) ?_)
  simp only [hc, lanesOr]
  rfl

theorem ldu_word {s : State} {e : Env} (h : env? s = some e) (o : OpF) {l : List (Nat × Word64 × Target)}
    (hc : e.checkLoad o.space (memSize o.ty) [((e.active.head?).getD 0, (memAddr o e ((e.active.head?).getD 0) (memSize o.ty) false 1).w)] = .ok l) :
    let home := decide (o.space = 0) && atHome e o.cond
    let acq := if o.space = 0 then acqOf o.cond else 0
    let r := loadAll e acq home (memSize o.ty) (fun _ => (memAddr o e ((e.active.head?).getD 0) (memSize o.ty) false 1).t || e.anyCt) l
    BoundaryWord s (renewIf (home && decide (o.cond = 3)) r.1) (.ldu o) (r.2.map fun x => .loadu o.d.toNat o.ty o.cv x e.active) [] := by
  intro home acq r
  refine boundary_word (((live_of_env? h).reads (loadAll_reads _ _ _ _ _ _)).renewIf _) (word_retires h (exec_ldu o s) ?_)
  simp only [hc, groupOr]
  rfl

/-- Settles O24: the words by what their loads change, a byte by the stores that may give it, the register forms type by type. -/
theorem loadsComplete : Obligations.LoadsComplete := by
  unfold Obligations.LoadsComplete
  refine ⟨fun s e o h => ?_, fun e acq scopes pa n hb _ => ?_, fun e acq home n L va ats =>
    ⟨fun pa => loadAll_mem e acq home n L va ats pa, fun a tm hb hp ht => loadAll_scratch hb hp ht acq home n L va ats a⟩,
    fun s g d r ty w hty => ?_⟩
  · intro z home acq addr tnt t0
    refine ⟨fun l hc => ld_word h o hc, fun l hc => ?_⟩
    intro r
    have ht : (memAddr o e t0 z false 1).t = (e.us o.a).t := by simp [memAddr]
    have hw := ldu_word h o (l := l) hc
    rw [show (fun _ : Nat => (memAddr o e ((e.active.head?).getD 0) (memSize o.ty) false 1).t || e.anyCt) = fun _ => (e.us o.a).t || e.anyCt from
      funext fun _ => congrArg (· || e.anyCt) ht] at hw
    exact hw
  · intro s core mine own byteOf U r
    obtain ⟨hbytes, hhome, hmono, -⟩ := readMem_plain e acq scopes pa n
    refine ⟨by rw [show r.2.1 = _ from hbytes]; simp [gotPlain], hhome, hmono, fun i hi => ?_, fun i hi => ?_⟩
    · intro a
      obtain ⟨h1, h2⟩ := readMem_byte hb acq scopes (pa := pa) hi
      refine ⟨fun q hq => (h1 q hq).trans ?_, h2⟩
      have hcov : ownAt a q = true := (List.mem_filter.mp (List.mem_of_getLast? hq)).2
      simp only [byteOf]
      unfold ownAt at hcov
      cases hat : q.at_ with
      | mem b =>
        simp only [hat, Bool.and_eq_true, decide_eq_true_eq] at hcov
        simp only [Target.dist]
        rw [if_pos hcov.1]
        rfl
      | _ => simp [hat] at hcov
    · intro a t hown hclear hposted
      exact readMem_atHome hb acq scopes hi hown hclear hposted
  · intro placed
    refine ⟨fun l hd => ⟨_, by rw [deferredOut, hd], by rw [List.map_map]; rfl, fun x hx hw => ⟨_, List.mem_map_of_mem hx, rfl, rfl, ?_⟩⟩,
      fun l hd => ⟨_, by rw [deferredOut, hd], by rw [List.map_map]; rfl, fun x hx hw => ⟨_, List.mem_map_of_mem hx, rfl, ?_, ?_⟩⟩,
      fun x l hw hd => ⟨_, _, by rw [deferredOut, hd], ?_⟩, fun x l hw hd => ⟨_, _, by rw [deferredOut, hd], ?_, ?_⟩⟩
    · rw [hw]; exact vwrite_loadForm hty r w _
    · rw [hw]; rfl
    · rw [hw]; exact congrArg (fun x => [(r, x)]) (low_half _)
    · rw [hw]; exact loaduForm_plain hty w
    · rw [hw]; rfl
    · rw [hw]; rfl

end Sys2Proof.Machine
end

section
/-!
PROOF. The faults of an access (14 R347, R354, 12 R306, R311, R316, 15 R376, 01 R20).
-/
namespace Sys2Proof.Machine
open Sys2Proof

/-! ### The check of one lane (R347) -/

theorem check_misaligned (e : Env) (sp : Nat) (need : Need) {z : Nat} (L : Nat) {va : Word64} (h : va.toNat % z ≠ 0) :
    e.check sp need z L va = .fault 3 := by
  rw [Env.check, if_pos h]

theorem check_scratch_outside (e : Env) (need : Need) {z : Nat} (L : Nat) {va : Word64} (h : va.toNat % z = 0) (hout : pkScratch e.pkt < va.toNat + z) :
    e.check 1 need z L va = .fault 6 := by
  rw [Env.check, if_neg (not_not.mpr h)]
  exact if_neg (by omega)

theorem check_window_refused {e : Env} {need : Need} {z L k : Nat} {va : Word64} (h : va.toNat % z = 0) (hp : e.r.probe = none)
    (hw : e.s.window e.g.ref.grid va z (need ≠ .read) = .error k) : e.check 2 need z L va = .fault k := by
  have harr : e.arrived L va = none := by simp [Env.arrived, hp]
  rw [Env.check, if_neg (not_not.mpr h)]
  simp only [harr, hw]

/-- A `.g` access, by what its translation and permission come to. -/
theorem check_memory {e : Env} {need : Need} {z L : Nat} {va : Word64} (h : va.toNat % z = 0) :
    e.check 0 need z L va = match e.s.access e.g.core e.ctx need va with
      | .ok pa => e.checkBytes need L (.mem pa) z
      | .fault c => .fault c
      | .peer .. => .fault 5
      | .zero => .zero := by
  rw [Env.check, if_neg (not_not.mpr h)]
  rfl

theorem checkBytes_mem {e : Env} (hp : e.r.probe = none) (need : Need) (L pa z : Nat) :
    (need ≠ .read → e.checkBytes need L (.mem pa) z = .ok (.mem pa)) ∧
    (need = .read → e.behindA = true → e.checkBytes need L (.mem pa) z = .wait (.mem pa)) ∧
    (need = .read → e.behindA = false →
      (e.s.poisonAt (.mem pa) z = false → e.checkBytes need L (.mem pa) z = .ok (.mem pa)) ∧
      (e.s.poisonAt (.mem pa) z = true → e.checkBytes need L (.mem pa) z = .fault 8)) := by
  have hans : e.probeAns L = none := by simp [Env.probeAns, hp]
  refine ⟨fun h => if_pos h, fun h hb => ?_, fun h hb => ⟨fun hpo => ?_, fun hpo => ?_⟩⟩
  · rw [Env.checkBytes, if_neg (not_not.mpr h), if_pos (by simp [Env.ready, hb])]
  all_goals
    rw [Env.checkBytes, if_neg (not_not.mpr h), if_neg (by simp [Env.ready, hb])]
    simp [Env.loadCause, hans, hpo]

/-- What a page lets an access do (R421), and the capability region no write (R20). -/
def pageAllows (need : Need) (pte : Word64) (pa : Nat) : Prop := match need with
  | .read => pteR pte = true
  | .write => pteW pte = true ∧ pa < 2 ^ 52 - 4096
  | .both => pteR pte = true ∧ pteW pte = true ∧ pa < 2 ^ 52 - 4096
  | .exec => pteX pte = true

theorem permOk_iff (need : Need) (pte : Word64) (pa : Nat) : permOk need pte pa = true ↔ pageAllows need pte pa := by
  have hcap : inCaps pa = false ↔ pa < 2 ^ 52 - 4096 := decide_eq_false_iff_not.trans not_le
  cases need <;> simp [permOk, pageAllows, hcap, and_assoc]

theorem access_page {s : State} {unit : Nat} {c : Context} {need : Need} {va : Word64} {pa : Nat} {pte : Word64} {n : Nat}
    (h : s.xlat unit c va = .ok pa pte n) :
    (pteImg pte = true ∨ ptePeer pte = true ∨ ¬pageAllows need pte pa → s.access unit c need va = .fault 5) ∧
    (pteImg pte = false → ptePeer pte = false → pageAllows need pte pa → s.access unit c need va = .ok pa) := by
  rw [← permOk_iff]
  simp only [State.access, h]
  refine ⟨fun hno => if_pos ?_, fun hi hp hok => if_neg ?_⟩
  · obtain hi | hp | hok := hno
    · simp [hi]
    · simp [hp]
    · simp [hok]
  · simp [hi, hp, hok]

/-! ### The lanes of a word (R347) -/

/-- A check that is decided: it waits for no page and at no target. -/
def decided (c : Check) : Prop := c ≠ .zero ∧ ∀ x, c ≠ .wait x

/-- Where every lane's check is decided and some fail, the lowest decides the cause and the address, and TLANES holds all that fail. -/
theorem gather_fault {e : Env} {z : Nat} {walks : List Nat} {E : List Nat} {at_ : Nat → Word64} {check : Nat → Word64 → Check} {L : Nat}
    {rest : List Nat} {k : Nat} (hset : ∀ t ∈ E, decided (check t (at_ t)))
    (hbad : E.filter (fun t => (check t (at_ t)).cause?.isSome) = L :: rest) (hk : (check L (at_ L)).cause? = some k)
    (hopen : e.s.linesOpen e.ctx.asid (pkClass e.pkt) walks = true) :
    e.gather z walks (E.map fun t => (t, at_ t, check t (at_ t))) = .fault k (at_ L) (lanesMask (L :: rest)) walks := by
  have hwaits : ((E.map fun t => (t, at_ t, check t (at_ t))).filter fun (_, _, c) => c == .zero) = [] := by
    refine List.filter_eq_nil_iff.mpr fun x hx => ?_
    obtain ⟨t, ht, rfl⟩ := List.mem_map.mp hx
    simpa using (hset t ht).1
  have hfails : ((E.map fun t => (t, at_ t, check t (at_ t))).filterMap fun (t, va, c) => c.cause?.map fun k => (t, va, k)) =
      (E.filter fun t => (check t (at_ t)).cause?.isSome).map fun t => (t, at_ t, ((check t (at_ t)).cause?).getD 0) := by
    clear hset hbad hwaits
    induction E with
    | nil => rfl
    | cons t E ih =>
      rw [List.map_cons, List.filterMap_cons, List.filter_cons, ih]
      cases hc : (check t (at_ t)).cause? with
      | none => simp [hc]
      | some c => simp [hc]
  rw [hbad, List.map_cons, hk] at hfails
  unfold Env.gather
  dsimp only
  rw [hwaits, hfails]
  refine (if_neg ?_).trans ((if_neg (by simp [hopen])).trans ?_)
  · rw [List.any_map, List.any_eq_true]
    rintro ⟨t, ht, hlate⟩
    have := (hset t ht).2
    dsimp only [Function.comp_apply] at hlate
    split at hlate
    · next hc => exact this _ hc
    · cases hlate
  · rw [List.map_cons, List.map_map]
    exact congrArg (fun l => Checked.fault k (at_ L) (lanesMask (L :: l)) walks) (List.map_id _)

theorem decided_fault (k : Nat) : decided (.fault k) := ⟨by simp, by simp⟩

theorem fault_of_cause {c : Check} {k : Nat} (h : c.cause? = some k) : c = .fault k := by
  cases c <;> simp [Check.cause?] at h
  exact congrArg Check.fault h

/-- A word with one address. -/
theorem gather_one {e : Env} {z : Nat} {walks : List Nat} {t : Nat} {va : Word64} {check : Nat → Word64 → Check} {k : Nat}
    (hk : (check t va).cause? = some k) (hopen : e.s.linesOpen e.ctx.asid (pkClass e.pkt) walks = true) :
    e.gather z walks [(t, va, check t va)] = .fault k va (lanesMask [t]) walks := by
  have hc := fault_of_cause hk
  refine gather_fault (E := [t]) (at_ := fun _ => va) (check := check) (fun x hx => ?_) (by simp [hk]) hk hopen
  rw [List.mem_singleton.mp hx]
  exact hc ▸ decided_fault k

section
variable {s : State} {e : Env} {i : Instr} {f : Env → WordOut}

/-- A word whose access fails in some lanes: the fault of the lowest, with the walks counted (R347, R428). -/
theorem lanes_fault (h : env? s = some e) (hi : exec i s = word (rbOf i) s f) {walks : List Nat} {k : Nat} {a : Word64} {m : LaneMask} {d : Nat}
    (hf : f e = .fault (e.walked walks) k a m d {}) : FaultsAt s (e.walked walks) i k a m :=
  fault_word ((live_of_env? h).charged (State.chargeLines_eq ..)) (word_faults h hi hf)

theorem checkAll_fault {sp z : Nat} {need : Need} {E : List Nat} {at_ : Nat → Word64} {L : Nat} {rest : List Nat} {k : Nat}
    (hset : ∀ t ∈ E, decided (e.check sp need z t (at_ t)))
    (hbad : E.filter (fun t => (e.check sp need z t (at_ t)).cause?.isSome) = L :: rest) (hk : (e.check sp need z L (at_ L)).cause? = some k)
    (hopen : e.s.linesOpen e.ctx.asid (pkClass e.pkt) (e.walksOf sp (E.map fun t => (t, at_ t))) = true) :
    e.checkAll sp need z (E.map fun t => (t, at_ t)) = .fault k (at_ L) (lanesMask (L :: rest)) (e.walksOf sp (E.map fun t => (t, at_ t))) := by
  rw [Env.checkAll, List.map_map]
  exact gather_fault (check := e.check sp need z) hset hbad hk hopen

theorem checkLoad_fault {sp z : Nat} {l : List (Nat × Word64)} {k : Nat} {a : Word64} {m : LaneMask} {w : List Nat}
    (h : e.checkAll sp .read z l = .fault k a m w) : e.checkLoad sp z l = .fault k a m w := by
  rw [Env.checkLoad, h]

theorem checkAtom_fault {o : OpF} {E : List Nat} {at_ : Nat → Word64} {L : Nat} {rest : List Nat} {k : Nat}
    (hset : ∀ t ∈ E, decided (e.atomCheck o t (at_ t)))
    (hbad : E.filter (fun t => (e.atomCheck o t (at_ t)).cause?.isSome) = L :: rest) (hk : (e.atomCheck o L (at_ L)).cause? = some k)
    (hopen : e.s.linesOpen e.ctx.asid (pkClass e.pkt) (e.walksOf (if o.bit 3 then 1 else 0) (E.map fun t => (t, at_ t))) = true) :
    e.checkAtom o (E.map fun t => (t, at_ t)) =
      .fault k (at_ L) (lanesMask (L :: rest)) (e.walksOf (if o.bit 3 then 1 else 0) (E.map fun t => (t, at_ t))) := by
  rw [Env.checkAtom, List.map_map]
  exact gather_fault (check := e.atomCheck o) hset hbad hk hopen

end

/-! ### Misaligned addresses of commands (R376) -/

theorem misaligned_word {s : State} {e : Env} (h : env? s = some e) {i : Instr} {f : Env → WordOut} (hi : exec i s = word (rbOf i) s f)
    {l : List (Word64 × Nat)} {k : WordOut} (hf : f e = aligned e l k) {a : Word64} {n : Nat}
    (hfirst : (l.find? fun p => decide (p.1.toNat % p.2 ≠ 0)) = some (a, n)) : FaultsAt s e i 3 a e.r.active :=
  faults_at h hi (hf.trans (aligned_fault hfirst k))

/-- The table base of a GATHER is looked at once its records are read. -/
theorem gather_base {s : State} {e e1 e2 : Env} (h : env? s = some e) (o : OpF) {x y : Nat} {tx ty : Bool}
    (hal : AlignedAll [(e.uAt o.a 0, 64), (e.uAt o.b 0, 64), (e.uAt o.c 3, 8), (e.uAt o.c 0, 4)]) (h1 : ReadsRec e false (e.uAt o.a 0) 64 e1 x tx)
    (h2 : ReadsRec e1 false (e.uAt o.b 0) 64 e2 y ty) (hmis : (e.uAt o.a 1).toNat % recSize (BitVec.ofNat 512 x) ≠ 0) :
    FaultsAt s e2 (.gather o) 3 (e.uAt o.a 1) e.r.active := by
  obtain ⟨s1, rfl⟩ := h1.eq
  obtain ⟨s2, rfl⟩ := h2.eq
  refine fault_word (h2.live (h1.live (live_of_env? h))) (word_faults h (exec_gather o s) ?_) (k := 0)
  rw [aligned_all hal, withRecs_cons h1, withRecs_cons h2]
  exact aligned_first hmis [] _

/-- Settles O25. -/
theorem accessFaults : Obligations.AccessFaults := by
  unfold Obligations.AccessFaults
  intro s e o h
  have hs : e.s = s := (env?_inv h).1
  refine ⟨?_, fun need z L va => ⟨fun sp => check_misaligned e sp need L, fun hz => ⟨check_scratch_outside e need L hz, fun k hp hw => ?_, fun hx => ?_,
    fun pa pte n hx => ?_⟩⟩, ?_, ?_⟩
  · intro u first z
    exact ⟨fun a n hf => misaligned_word h (exec_copy o s) rfl hf, fun a n hf => misaligned_word h (exec_gather o s) rfl hf,
      fun a n hf => misaligned_word h (exec_coll o s) rfl hf, fun a n hf => misaligned_word h (exec_launch o s) rfl hf,
      fun x y tx ty e1 e2 hal h1 h2 hmis => gather_base h o hal h1 h2 hmis⟩
  · exact check_window_refused hz hp (by rw [hs]; exact hw)
  · rw [check_memory hz, hs, State.access, hx]
  · intro may
    rw [check_memory hz, hs]
    obtain ⟨hno, hyes⟩ := access_page (need := need) hx
    refine ⟨fun hbad => by rw [hno hbad], fun hi hpeer hmay hp => ?_⟩
    rw [hyes hi hpeer hmay]
    have hbytes := checkBytes_mem hp need L pa z
    rw [hs] at hbytes
    exact hbytes
  · intro settled opens lanes z zx za
    refine ⟨?_, ?_, ?_, ?_, fun hp => ?_, ?_, ?_⟩
    · intro L rest k h1 h2 h3 walks hop
      refine lanes_fault h (exec_ld o s) (d := if k = 4 then 1 else 0) ?_
      have hc := checkLoad_fault (checkAll_fault h1 h2 h3 hop)
      simp only [z] at hc
      simp only [hc, lanesOr]
      rfl
    · intro L rest k h1 h2 h3 walks hop
      refine lanes_fault h (exec_st o s) (d := if k = 4 then 1 else 0) ?_
      have hc := checkAll_fault h1 h2 h3 hop
      simp only [z] at hc
      simp only [hc, lanesOr]
      rfl
    · intro L rest k h1 h2 h3 walks hop
      refine lanes_fault h (exec_atom o s) (d := if k = 4 then 1 else 0) ?_
      simp only [checkAtom_fault h1 h2 h3 hop, lanesOr]
      rfl
    · intro L rest k h1 h2 h3 walks hop
      refine lanes_fault h (exec_red o s) (d := if k = 4 then 1 else 0) ?_
      simp only [checkAtom_fault h1 h2 h3 hop, lanesOr]
      rfl
    · intro L rest k h1 h2 h3 walks hop
      refine lanes_fault h (exec_xld o s) (d := if k = 4 then 1 else 0) ?_
      have hgive : e.giveBack = e := if_pos (by simp [hp])
      have hc := checkAll_fault h1 h2 h3 hop
      simp only [zx] at hc
      simp only [hc, hgive]
      rfl
    · intro L rest k h1 h2 h3 walks hop
      refine lanes_fault h (exec_xst o s) (d := if k = 4 then 1 else 0) ?_
      simp only [checkAll_fault h1 h2 h3 hop, lanesOr]
      rfl
    · intro one va
      have hva : (memAddr o e ((e.active.head?).getD 0) z false 1).w = va := by simp [memAddr, va]
      refine ⟨fun k hk hop => ?_, fun k hk hop => ?_, fun k hk hop => ?_⟩
      · refine lanes_fault h (exec_ldu o s) (d := if k = 4 then 1 else 0) ?_
        have hc : e.checkAll o.space .read z [((e.active.head?).getD 0, va)] = .fault k va (lanesMask [(e.active.head?).getD 0]) _ :=
          gather_one (check := e.check o.space .read z) hk hop
        simp only [z] at hva hc
        simp only [hva, checkLoad_fault hc, groupOr]
      · refine lanes_fault h (exec_stu o s) (d := if k = 4 then 1 else 0) ?_
        have hc : e.checkAll o.space .write z [((e.active.head?).getD 0, va)] = .fault k va (lanesMask [(e.active.head?).getD 0]) _ :=
          gather_one (check := e.check o.space .write z) hk hop
        simp only [z] at hva hc
        simp only [hva, hc, groupOr]
      · refine lanes_fault h (exec_atomu o s) (d := if k = 4 then 1 else 0) ?_
        have hc : e.checkAtom o [((e.active.head?).getD 0, (e.us o.a).w)] = .fault k (e.us o.a).w (lanesMask [(e.active.head?).getD 0]) _ :=
          gather_one (check := e.atomCheck o) hk hop
        simp only [hc, groupOr]
        rfl
  · intro L va pa hok hsys hpos h0 h6 h7
    simp only [Env.atomCheck, hok, hsys, hpos, pcieAtomic, h0, h6, h7]
    rfl

end Sys2Proof.Machine
end

section
/-!
PROOF. Every step keeps the memory at the homes in its canonical form (13 R322, R323). A predicate for each kind of result that holds a
machine, and the rules of the shapes of words and events.
-/
namespace Sys2Proof.Machine
open Sys2Proof

/-! ### The form, in each kind of result -/

/-- The memory at the homes is in its canonical form. -/
abbrev State.Ok (s : State) : Prop := Memory.wf s.home.mem = true
/-- The machine that an optional result holds is in the form. -/
def OptOk (o : Option State) : Prop := ∀ t, o = some t → t.Ok
/-- The machine that a step leads to is in the form. -/
def NextOk (o : Host.Outcome State Fault Refusal) : Prop := ∀ t, o = .next t → t.Ok
/-- The machine with which a word ends is in the form. -/
@[reducible] def WordOut.Ok : WordOut → Prop
  | .retire e _ => e.s.Ok
  | .fault e .. => e.s.Ok
  | .stall s => s.Ok
/-- The machine with which a check waits is in the form. -/
@[reducible] def Checked.Ok : Checked → Prop
  | .stall s => s.Ok
  | _ => True
@[reducible] def Outer.Ok : Outer → Prop
  | .ok s => s.Ok
  | .poison s => s.Ok
  | .wait s => s.Ok
@[reducible] def Left.Ok : Left → Prop
  | .done s => s.Ok
  | .wait s _ => s.Ok
@[reducible] def DRes.Ok : DRes → Prop
  | .retry s => s.Ok
  | _ => True
@[reducible] def SwOut.Ok : SwOut → Prop
  | .next s => s.Ok
  | _ => True
@[reducible] def Spill.Ok : Spill → Prop
  | .dead s => s.Ok
  | .wait s => s.Ok
  | _ => True
@[reducible] def Issue.Ok : Issue → Prop
  | .exec _ s => s.Ok
  | .done s => s.Ok
@[reducible] def LineOut.Ok : LineOut → Prop
  | .done s _ => s.Ok
  | .fail s _ => s.Ok
  | .stop s _ => s.Ok
  | .busy s => s.Ok
@[reducible] def BindOut.Ok : BindOut → Prop
  | .done s _ => s.Ok
  | _ => True
@[reducible] def ExceptOk {α : Type} : Except State α → Prop
  | .error s => s.Ok
  | .ok _ => True
/-- The machine that an end of a sheet run leads to, where there is one, is in the form. -/
def OptSwOk (o : Option SwOut) : Prop := ∀ w, o = some w → w.Ok
/-- The machine beside an answer is in the form. -/
def OptPairOk {α : Type} (o : Option (State × α)) : Prop := ∀ p, o = some p → p.1.Ok

theorem optOk_none : OptOk none := by intro t h; cases h
theorem optOk_some {s : State} (h : s.Ok) : OptOk (some s) := by rintro t ⟨⟩; exact h
theorem OptOk.of_eq {o : Option State} {t : State} (h : OptOk o) (e : o = some t) : t.Ok := h t e
theorem OptOk.getD {o : Option State} {s : State} (h : OptOk o) (hs : s.Ok) : (o.getD s).Ok := by
  cases o with
  | none => exact hs
  | some t => exact h t rfl
theorem optOk_bind {α : Type} {o : Option α} {f : α → Option State} (h : ∀ a, OptOk (f a)) : OptOk (o.bind f) := by
  cases o with
  | none => exact optOk_none
  | some a => exact h a
theorem optOk_map {α : Type} {o : Option α} {f : α → State} (h : ∀ a, (f a).Ok) : OptOk (o.map f) := by
  cases o with
  | none => exact optOk_none
  | some a => exact optOk_some (h a)
theorem optPairOk_none {α : Type} : OptPairOk (none : Option (State × α)) := by intro t h; cases h
theorem optPairOk_some {α : Type} {p : State × α} (h : p.1.Ok) : OptPairOk (some p) := by rintro t ⟨⟩; exact h
theorem OptPairOk.of_eq {α : Type} {o : Option (State × α)} {p : State × α} (h : OptPairOk o) (e : o = some p) : p.1.Ok := h p e
theorem optSwOk_none : OptSwOk none := by intro w h; cases h
theorem optSwOk_some {w : SwOut} (h : w.Ok) : OptSwOk (some w) := by rintro w ⟨⟩; exact h
theorem OptSwOk.of_eq {o : Option SwOut} {w : SwOut} (h : OptSwOk o) (e : o = some w) : w.Ok := h w e
theorem optSwOk_or {o p : Option SwOut} (ho : OptSwOk o) (hp : OptSwOk p) : OptSwOk (o.or p) := by
  cases o with
  | none => exact hp
  | some a => exact ho
theorem optSwOk_map {α : Type} {o : Option α} {f : α → SwOut} (h : ∀ a, (f a).Ok) : OptSwOk (o.map f) := by
  cases o with
  | none => exact optSwOk_none
  | some a => exact optSwOk_some (h a)
theorem nextOk_next {s : State} (h : s.Ok) : NextOk (.next s) := by rintro t ⟨⟩; exact h
theorem nextOk_fault {f : Fault} : NextOk (.fault f) := by intro t h; cases h

theorem foldl_ok {α : Type} {f : State → α → State} (h : ∀ t x, t.Ok → (f t x).Ok) {l : List α} {s : State} (hs : s.Ok) :
    (l.foldl f s).Ok := by
  induction l generalizing s with
  | nil => exact hs
  | cons x l ih => exact ih (h s x hs)
theorem foldl_fst_ok {α β : Type} {f : State × β → α → State × β} (h : ∀ p x, p.1.Ok → (f p x).1.Ok) {l : List α} {p : State × β}
    (hp : p.1.Ok) : (l.foldl f p).1.Ok := by
  induction l generalizing p with
  | nil => exact hp
  | cons x l ih => exact ih (h p x hp)

/-! ### The machine that a result is known to hold -/

theorem WordOut.Ok.of_retire {o : WordOut} {e : Env} {d : Delta} (h : o.Ok) (eq : o = .retire e d) : e.s.Ok := by subst eq; exact h
theorem WordOut.Ok.of_fault {o : WordOut} {e : Env} {c : Nat} {a : Word64} {l : LaneMask} {k : Nat} {d : Delta}
    (h : o.Ok) (eq : o = .fault e c a l k d) : e.s.Ok := by subst eq; exact h
theorem WordOut.Ok.of_stall {o : WordOut} {s : State} (h : o.Ok) (eq : o = .stall s) : s.Ok := by subst eq; exact h
theorem Checked.Ok.of_stall {o : Checked} {s : State} (h : o.Ok) (eq : o = .stall s) : s.Ok := by subst eq; exact h
theorem Outer.Ok.of_ok {o : Outer} {s : State} (h : o.Ok) (eq : o = .ok s) : s.Ok := by subst eq; exact h
theorem Outer.Ok.of_poison {o : Outer} {s : State} (h : o.Ok) (eq : o = .poison s) : s.Ok := by subst eq; exact h
theorem Outer.Ok.of_wait {o : Outer} {s : State} (h : o.Ok) (eq : o = .wait s) : s.Ok := by subst eq; exact h
theorem Left.Ok.of_done {o : Left} {s : State} (h : o.Ok) (eq : o = .done s) : s.Ok := by subst eq; exact h
theorem Left.Ok.of_wait {o : Left} {s : State} {e : Effect} (h : o.Ok) (eq : o = .wait s e) : s.Ok := by subst eq; exact h
theorem DRes.Ok.of_retry {o : DRes} {s : State} (h : o.Ok) (eq : o = .retry s) : s.Ok := by subst eq; exact h
theorem SwOut.Ok.of_next {o : SwOut} {s : State} (h : o.Ok) (eq : o = .next s) : s.Ok := by subst eq; exact h
theorem Spill.Ok.of_dead {o : Spill} {s : State} (h : o.Ok) (eq : o = .dead s) : s.Ok := by subst eq; exact h
theorem Spill.Ok.of_wait {o : Spill} {s : State} (h : o.Ok) (eq : o = .wait s) : s.Ok := by subst eq; exact h
theorem Issue.Ok.of_exec {o : Issue} {i : Instr} {s : State} (h : o.Ok) (eq : o = .exec i s) : s.Ok := by subst eq; exact h
theorem Issue.Ok.of_done {o : Issue} {s : State} (h : o.Ok) (eq : o = .done s) : s.Ok := by subst eq; exact h
theorem LineOut.Ok.of_done {o : LineOut} {s : State} {c : Command} (h : o.Ok) (eq : o = .done s c) : s.Ok := by subst eq; exact h
theorem LineOut.Ok.of_fail {o : LineOut} {s : State} {c : Command} (h : o.Ok) (eq : o = .fail s c) : s.Ok := by subst eq; exact h
theorem LineOut.Ok.of_stop {o : LineOut} {s : State} {c : Command} (h : o.Ok) (eq : o = .stop s c) : s.Ok := by subst eq; exact h
theorem LineOut.Ok.of_busy {o : LineOut} {s : State} (h : o.Ok) (eq : o = .busy s) : s.Ok := by subst eq; exact h
theorem BindOut.Ok.of_done {o : BindOut} {s : State} {x : Word64} (h : o.Ok) (eq : o = .done s x) : s.Ok := by subst eq; exact h
theorem ExceptOk.of_error {α : Type} {o : Except State α} {s : State} (h : ExceptOk o) (eq : o = .error s) : s.Ok := by subst eq; exact h

theorem optOk_bindState {o : Option State} {f : State → Option State} (ho : OptOk o) (h : ∀ t, t.Ok → OptOk (f t)) : OptOk (o.bind f) := by
  cases o with
  | none => exact optOk_none
  | some a => exact h a (ho a rfl)
theorem optOk_or {o p : Option State} (ho : OptOk o) (hp : OptOk p) : OptOk (o.or p) := by
  cases o with
  | none => exact hp
  | some a => exact ho

theorem optOk_findSome? {α : Type} {f : α → Option State} (h : ∀ x, OptOk (f x)) {l : List α} : OptOk (l.findSome? f) := by
  intro t ht
  obtain ⟨x, -, hx⟩ := List.exists_of_findSome?_eq_some ht
  exact h x t hx
theorem foldl_env_ok {α : Type} {f : Env → α → Env} (h : ∀ e x, e.s.Ok → (f e x).s.Ok) {l : List α} {e : Env} (he : e.s.Ok) :
    (l.foldl f e).s.Ok := by
  induction l generalizing e with
  | nil => exact he
  | cons x l ih => exact ih (h e x he)
theorem foldl_envFst_ok {α β : Type} {f : Env × β → α → Env × β} (h : ∀ p x, p.1.s.Ok → (f p x).1.s.Ok) {l : List α} {p : Env × β}
    (hp : p.1.s.Ok) : (l.foldl f p).1.s.Ok := by
  induction l generalizing p with
  | nil => exact hp
  | cons x l ih => exact ih (h p x hp)
theorem foldl_outer_ok {α : Type} {f : Outer → α → Outer} (h : ∀ o x, o.Ok → (f o x).Ok) {l : List α} {o : Outer} (ho : o.Ok) :
    (l.foldl f o).Ok := by
  induction l generalizing o with
  | nil => exact ho
  | cons x l ih => exact ih (h o x ho)
theorem foldl_spill_ok {α : Type} {f : Spill → α → Spill} (h : ∀ o x, o.Ok → (f o x).Ok) {l : List α} {o : Spill} (ho : o.Ok) :
    (l.foldl f o).Ok := by
  induction l generalizing o with
  | nil => exact ho
  | cons x l ih => exact ih (h o x ho)

theorem optOk_ite {c : Prop} [Decidable c] {o p : Option State} (ho : OptOk o) (hp : OptOk p) : OptOk (if c then o else p) := by
  split
  · exact ho
  · exact hp

end Sys2Proof.Machine
end

section
/-!
PROOF. What keeps the memory at the homes in its canonical form: words, the state's operations, the log and the checks of accesses.
-/
namespace Sys2Proof.Machine
open Sys2Proof

/-! ### The time, the posting of stores -/

theorem State.markPoison_wf {s : State} {pa n : ℕ} (hs : s.Ok) : (s.markPoison pa n).Ok := hs
theorem State.growView_wf {s : State} {core line n : ℕ} (hs : s.Ok) : (s.growView core line n).Ok := by
  unfold State.growView
  dsimp only
  split
  · exact hs
  · exact hs
theorem State.renew_wf {s : State} {core : ℕ} (hs : s.Ok) : (s.renew core).Ok := hs
theorem State.setCtx_wf {s : State} {c : Context} (hs : s.Ok) : (s.setCtx c).Ok := hs
theorem State.addCounter_wf {s : State} {unit : ℕ} {c : Context} {va : Word64} {f : Word64 → Word64} {det : Bool} (hs : s.Ok)
    : OptOk (s.addCounter unit c va f det) := by
  unfold State.addCounter
  dsimp only
  split
  · split
    · exact optOk_none
    · exact optOk_some (State.homeWrite_wf _ _ _ hs)
  · exact optOk_none

/-! ### The operations of the state -/

theorem State.setGroup_wf {s : State} {g : Group} (hs : s.Ok) : (s.setGroup g).Ok := hs
theorem State.setTeam_wf {s : State} {t : Team} (hs : s.Ok) : (s.setTeam t).Ok := hs
theorem State.setGrid_wf {s : State} {g : Grid} (hs : s.Ok) : (s.setGrid g).Ok := hs
theorem State.setBf_wf {s : State} {core : ℕ} {e : BfEngine} (hs : s.Ok) : (s.setBf core e).Ok := hs
theorem State.bump_wf {s : State} (hs : s.Ok) : s.bump.Ok := hs
theorem State.charge_wf {s : State} {asid cls entry n : ℕ} (hs : s.Ok) : (s.charge asid cls entry n).Ok := hs
theorem State.chargeLine_wf {s : State} {asid cls pa : ℕ} (hs : s.Ok) : (s.chargeLine asid cls pa).Ok := hs
theorem State.chargeLines_wf {s : State} {asid cls : ℕ} {pas : List ℕ} (hs : s.Ok) : (s.chargeLines asid cls pas).Ok := by
  unfold State.chargeLines
  exact foldl_ok (fun t x h => State.chargeLine_wf h) hs
theorem State.startZero_wf {s : State} {c : Context} {va : Word64} (hs : s.Ok) : (s.startZero c va).Ok := by
  unfold State.startZero
  dsimp only
  split
  · exact hs
  · split
    · exact hs
    · split
      · exact State.bump_wf hs
      · split
        · exact State.chargeLines_wf hs
        · exact State.homeWrite_wf _ _ _ (State.chargeLines_wf hs)
theorem State.waitZero_wf {s : State} {unit : ℕ} {c : Context} {need : Need} {va : Word64} {n : ℕ} (hs : s.Ok)
    : OptOk (s.waitZero unit c need va n) := by
  unfold State.waitZero
  exact optOk_map (fun a => State.startZero_wf hs)
theorem State.chargeVa_wf {s : State} {unit : ℕ} {c : Context} {cls : ℕ} {va : Word64} (hs : s.Ok) : (s.chargeVa unit c cls va).Ok := by
  unfold State.chargeVa
  exact State.chargeLines_wf hs
theorem State.vaWaits_wf {s : State} {unit : ℕ} {c : Context} {cls : ℕ} {need : Need} {va : Word64} {n : ℕ} (hs : s.Ok)
    : OptOk (s.vaWaits unit c cls need va n) := by
  unfold State.vaWaits
  refine optOk_or (State.waitZero_wf hs) ?_
  split
  · exact optOk_none
  · exact optOk_some (State.bump_wf hs)
theorem State.counterWaits_wf {s : State} {asid unit cls : ℕ} {ctr : Word64} (hs : s.Ok) : OptOk (s.counterWaits asid unit cls ctr) := by
  unfold State.counterWaits
  split
  · exact optOk_none
  · exact optOk_bind (fun a => State.vaWaits_wf hs)
theorem State.served_wf {s : State} {q asid : ℕ} (hs : s.Ok) : (s.served q asid).Ok := hs
theorem State.chargeStep_wf {s : State} {asid cls entry : ℕ} (hs : s.Ok) : (s.chargeStep asid cls entry).Ok := hs
theorem Env.close_wf {e : Env} (he : e.s.Ok) : e.close.Ok := he
theorem State.takeBack_wf {s : State} {g : Group} {r : Run} {p : Pre} (hs : s.Ok) : (s.takeBack g r p).Ok := hs
theorem retire_wf {rb : Bool} {e : Env} {d : Delta} (he : e.s.Ok) : (retire rb e d).Ok := he
theorem faultWord_wf {e : Env} {cause : ℕ} {addr : Word64} {lanes : LaneMask} {detail : ℕ} {d : Delta} (he : e.s.Ok)
    : (faultWord e cause addr lanes detail d).Ok := he
/-- A word leaves the form where it ends with it. -/
theorem word_wf {rb : Bool} {s : State} {f : Env → WordOut} (hs : s.Ok) (hf : ∀ e, e.s.Ok → (f e).Ok) : NextOk (word rb s f) := by
  unfold word
  split
  · exact nextOk_fault
  next e he =>
    have h := hf e (by rw [(env?_inv he).1]; exact hs)
    split
    next _ _ he => exact nextOk_next (retire_wf (h.of_retire he))
    next he => exact nextOk_next (faultWord_wf (h.of_fault he))
    next _ he => exact nextOk_next (h.of_stall he)
theorem event_wf {s : State} {o : Option State} (hs : s.Ok) (ho : OptOk o) : NextOk (event s o) := by
  unfold event
  exact nextOk_next (OptOk.getD ho hs)
theorem Env.prefetch_wf {e : Env} {l : List Word64} (he : e.s.Ok) : (e.prefetch l).s.Ok := by
  unfold Env.prefetch
  dsimp only
  refine foldl_ok ?_ he
  intro t x h
  split
  · split
    · exact h
    · exact State.bump_wf (State.chargeLines_wf h)
  · split
    · exact State.bump_wf (State.chargeLines_wf h)
    · exact h
theorem State.sendMsi_wf {s : State} {fn vec : ℕ} (hs : s.Ok) : (s.sendMsi fn vec).Ok := hs
theorem State.record_wf {s : State} {asid : ℕ} {r : FaultRec} (hs : s.Ok) : (s.record asid r).Ok := by
  unfold State.record
  dsimp only
  split
  · exact hs
  · refine State.sendMsi_wf ?_
    split
    · exact State.setCtx_wf (State.homeWrite_wf _ _ _ (State.homeWrite_wf _ _ _ hs))
    · exact State.setCtx_wf (State.homeWrite_wf _ _ _ hs)
theorem State.completeFuture_wf {s : State} {gr : GRef} {slot : ℕ} {gen : BitVec 33} {w : Word64} (hs : s.Ok)
    : (s.completeFuture gr slot gen w).Ok := by
  unfold State.completeFuture
  dsimp only
  split
  · exact hs
  · split
    · exact hs
    · exact hs
theorem State.bumpCounter_wf {s : State} {asid unit grid : ℕ} {ctr : Word64} (hs : s.Ok) : (s.bumpCounter asid unit grid ctr).Ok := by
  unfold State.bumpCounter
  split
  · exact hs
  · split
    · exact hs
    · split
      · exact State.chargeVa_wf (OptOk.of_eq (State.addCounter_wf hs) ‹_›)
      · exact State.record_wf (State.chargeVa_wf hs)
theorem State.answer_wf {s : State} {g : GRef} {a : Answer} (hs : s.Ok) : (s.answer g a).Ok := by
  unfold State.answer
  split
  · exact hs
  · exact State.setGroup_wf hs
theorem cancelBf_wf {core : ℕ} {s : State} {c : BfCmd} (hs : s.Ok) : (cancelBf core s c).Ok := by
  unfold cancelBf
  dsimp only
  refine foldl_ok (fun t x h => State.completeFuture_wf (State.bumpCounter_wf h)) ?_
  split
  · exact hs
  · exact State.completeFuture_wf (State.bumpCounter_wf hs)
theorem killBf_wf {s : State} {grid core : ℕ} (hs : s.Ok) : (killBf s grid core).Ok := by
  unfold killBf
  dsimp only
  split
  · exact hs
  · split
    · exact hs
    · exact State.setBf_wf hs
theorem State.killGrid_wf {s : State} {grid : ℕ} {r : FaultRec} (hs : s.Ok) : (s.killGrid grid r).Ok := by
  unfold State.killGrid
  dsimp only
  split
  · exact hs
  · split
    · exact hs
    · exact foldl_ok (fun t x h => killBf_wf h) (State.postGrid_wf _ hs)
theorem State.takeTrap_wf {s : State} {g : Group} {f : FaultInfo} (hs : s.Ok) : (s.takeTrap g f).Ok := by
  unfold State.takeTrap
  split
  · exact State.setGroup_wf hs
  · exact State.killGrid_wf (State.setGroup_wf hs)
theorem State.killAt_wf {s : State} {g : Group} {cause : ℕ} (hs : s.Ok) : (s.killAt g cause).Ok := by
  unfold State.killAt
  exact State.killGrid_wf hs
theorem State.killTeamAt_wf {s : State} {tm : TRef} {cause : ℕ} (hs : s.Ok) : (s.killTeamAt tm cause).Ok := by
  unfold State.killTeamAt
  exact State.killGrid_wf hs
theorem State.killCause_wf {s : State} {grid cause : ℕ} (hs : s.Ok) : (s.killCause grid cause).Ok := by
  unfold State.killCause
  exact State.killGrid_wf hs

/-! ### The shapes of words -/

theorem laneFixed_wf {o : OpF} {f : Env → ℕ → LaneWrite} {s : State} (hs : s.Ok) : NextOk (laneFixed o f s) := by
  unfold laneFixed
  exact word_wf hs (fun e h => h)
theorem laneVariable_wf {o : OpF} {f : Env → ℕ → LaneWrite} {s : State} (hs : s.Ok) : NextOk (laneVariable o f s) := by
  unfold laneVariable
  exact word_wf hs (fun e h => h)
theorem laneImm_wf {o : OpI} {f : Word32 → Word32 → Word32} {s : State} (hs : s.Ok) : NextOk (laneImm o f s) := by
  unfold laneImm
  dsimp only
  exact word_wf hs (fun e h => h)
theorem uniFixed_wf {o : OpF} {f : Word64 → Word64 → Word64} {s : State} (hs : s.Ok) : NextOk (uniFixed o f s) := by
  unfold uniFixed
  dsimp only
  exact word_wf hs (fun e h => h)
theorem uniImm_wf {o : OpI} {f : Word64 → Word64 → Word64} {s : State} (hs : s.Ok) : NextOk (uniImm o f s) := by
  unfold uniImm
  dsimp only
  exact word_wf hs (fun e h => h)

/-! ### Integer words -/

theorem execMovw_wf {o : OpW} {s : State} (hs : s.Ok) : NextOk (execMovw o s) := word_wf hs (fun e h => h)

/-! ### Uniform words -/

theorem execUmov_wf {o : OpF} {s : State} (hs : s.Ok) : NextOk (execUmov o s) := word_wf hs (fun e h => h)
theorem execUmovw_wf {o : OpW} {s : State} (hs : s.Ok) : NextOk (execUmovw o s) := word_wf hs (fun e h => h)
theorem execUdiv_wf {o : OpF} {s : State} (hs : s.Ok) : NextOk (execUdiv o s) := word_wf hs (fun e h => h)
theorem execUrdv_wf {o : OpF} {s : State} (hs : s.Ok) : NextOk (execUrdv o s) := word_wf hs (fun e h => h)

/-! ### Floating words -/

theorem execQblk_wf {o : OpF} {s : State} (hs : s.Ok) : NextOk (execQblk o s) := word_wf hs (fun e h => h)

/-! ### Control transfer and prefetch -/

theorem predFixed_wf {o : OpF} {f : Env → ℕ → Bool} {s : State} (hs : s.Ok) : NextOk (predFixed o f s) := by
  unfold predFixed
  exact laneFixed_wf hs
theorem goTo_wf {e : Env} {es : List ℕ} {target : ℕ → Word64} {d : Delta} (he : e.s.Ok) : (goTo e es target d).Ok := by
  unfold goTo
  dsimp only
  split
  · exact he
  · exact he
theorem execBra_wf {o : OpI} {s : State} (hs : s.Ok) : NextOk (execBra o s) := word_wf hs (fun e h => goTo_wf h)
theorem execBru_wf {o : OpI} {s : State} (hs : s.Ok) : NextOk (execBru o s) := word_wf hs (fun e h => goTo_wf h)
theorem indirect_wf {o : OpF} {s : State} (hs : s.Ok) : NextOk (indirect o s) := by
  unfold indirect
  exact word_wf hs (fun e h => goTo_wf h)
theorem execCall_wf {o : OpI} {s : State} (hs : s.Ok) : NextOk (execCall o s) := word_wf hs (fun e h => goTo_wf h)
theorem execExit_wf {o : OpF} {s : State} (hs : s.Ok) : NextOk (execExit o s) := by
  unfold execExit
  refine word_wf hs ?_
  intro e h
  split
  · exact h
  · exact h
theorem execNop_wf {o : OpF} {s : State} (hs : s.Ok) : NextOk (execNop o s) := word_wf hs (fun e h => h)
theorem execPause_wf {o : OpF} {s : State} (hs : s.Ok) : NextOk (execPause o s) := word_wf hs (fun e h => h)
theorem execHref_wf {o : OpF} {s : State} (hs : s.Ok) : NextOk (execHref o s) := word_wf hs (fun e h => h)
theorem execHpf_wf {o : OpF} {s : State} (hs : s.Ok) : NextOk (execHpf o s) := word_wf hs (fun e h => Env.prefetch_wf h)
theorem execHsch_wf {o : OpF} {s : State} (hs : s.Ok) : NextOk (execHsch o s) := word_wf hs (fun e h => h)
theorem execHintNop_wf {o : OpH} {s : State} (hs : s.Ok) : NextOk (execHintNop o s) := word_wf hs (fun e h => h)
theorem execPairedWord_wf {o : OpP} {s : State} (hs : s.Ok) : NextOk (execPairedWord o s) := word_wf hs (fun e h => h)

/-! ### The expression log -/

theorem reachSpill_wf {s : State} {g : Group} {c : Context} {tm : Team} {l reads : List ℕ} (hs : s.Ok)
    : (reachSpill s g c tm l reads).Ok := by
  unfold reachSpill
  dsimp only
  refine foldl_spill_ok ?_ trivial
  intro o x h
  split
  · split
    · split
      · exact State.bump_wf hs
      · split
        · exact h
        · exact h
    · exact State.startZero_wf hs
    · exact State.killAt_wf (State.chargeLines_wf hs)
  · exact h
theorem State.chargeSpill_wf {s : State} {core : ℕ} {c : Context} {tm : Team} {l : List ℕ} (hs : s.Ok)
    : (s.chargeSpill core c tm l).Ok := by
  unfold State.chargeSpill
  dsimp only
  exact foldl_ok (fun t x h => State.chargeLines_wf h) hs
theorem State.putSpill_wf {s : State} {core : ℕ} {c : Context} {tm : Team} {l : List ℕ} (hs : s.Ok) : (s.putSpill core c tm l).Ok := by
  unfold State.putSpill
  dsimp only
  refine foldl_ok ?_ hs
  intro t x h
  split
  · exact State.chargeLines_wf (State.homeWrite_wf _ _ _ h)
  · exact h
theorem State.setLog_wf {s : State} {core : ℕ} {c : Context} {tm : Team} {l : ExprLog} (hs : s.Ok) : (s.setLog core c tm l).Ok := by
  unfold State.setLog
  exact State.putSpill_wf (State.setTeam_wf hs)
theorem Env.withTeamLog_wf {e : Env} {l : ExprLog} (he : e.s.Ok) : (e.withTeamLog l).s.Ok := by
  unfold Env.withTeamLog
  dsimp only
  exact State.setLog_wf he
theorem State.giveNodes_wf {s : State} {g : Group} {r : Run} (hs : s.Ok) : (s.giveNodes g r).Ok := by
  unfold State.giveNodes
  dsimp only
  split
  · split
    · exact hs
    · exact State.setLog_wf hs
  · exact hs
theorem State.restoreLog_wf {s : State} {g : Group} {l : Option ExprLog} (hs : s.Ok) : (s.restoreLog g l).Ok := by
  unfold State.restoreLog
  split
  · exact State.setLog_wf hs
  · exact hs
theorem State.logWaits_wf {s : State} {tm : TRef} {me : Option (GRef × Stream)} (hs : s.Ok) : OptOk (s.logWaits tm me) := by
  unfold State.logWaits
  dsimp only
  refine optOk_map ?_
  intro a
  split
  · exact State.restoreLog_wf (State.setGroup_wf (State.takeBack_wf hs))
  · exact hs

/-! ### Fetch, and values from outside the quires -/

theorem State.codeInvalidate_wf {s : State} {core : ℕ} (hs : s.Ok) : (s.codeInvalidate core).Ok := hs
theorem State.lineFails_wf {s : State} {c : Context} {g : Group} {line : ℕ} (hs : s.Ok) : (s.lineFails c g line).Ok := by
  unfold State.lineFails
  dsimp only
  split
  · exact State.killAt_wf (State.chargeLines_wf hs)
  · exact State.bump_wf hs
theorem State.outerLine_wf {s : State} {g : Group} {c : Context} {line : ℕ} (hs : s.Ok) : (s.outerLine g c line).Ok := by
  unfold State.outerLine
  dsimp only
  split
  · exact hs
  · split
    · exact hs
    · split
      · exact State.startZero_wf hs
      · split
        · exact State.bump_wf hs
        · split
          · exact State.chargeLines_wf hs
          · exact State.chargeLines_wf hs
      · exact State.lineFails_wf hs
theorem State.outerLines_wf {s : State} {g : Group} {c : Context} {l : List ℕ} (hs : s.Ok) : (s.outerLines g c l).Ok := by
  unfold State.outerLines
  refine foldl_outer_ok ?_ hs
  intro o x h
  split
  · exact State.outerLine_wf h
  · exact h
theorem refuseWord_wf {s : State} {g : Group} {rd : Round} {r : Run} {b : Stream} {cause : ℕ} {addr : Word64} {detail : ℕ} (hs : s.Ok)
    : (refuseWord s g rd r b cause addr detail).Ok := by
  unfold refuseWord
  dsimp only
  exact State.setGroup_wf (State.giveNodes_wf hs)
theorem issue_wf {s : State} {gr : GRef} {b : Stream} (hs : s.Ok) : (issue s gr b).Ok := by
  unfold issue
  dsimp only
  split
  · exact hs
  · split
    · exact hs
    · split
      · exact hs
      · split
        · exact hs
        · split
          · split
            · exact hs
            · exact refuseWord_wf (State.chargeLines_wf hs)
          · exact State.startZero_wf hs
          · split
            · split
              · exact hs
              · split
                · exact refuseWord_wf (State.chargeLines_wf hs)
                · exact State.chargeLines_wf hs
            · split
              · exact hs
              · split
                · exact refuseWord_wf (State.chargeLines_wf hs)
                · exact State.chargeLines_wf hs
-- FAIL take
theorem State.nextTurn_wf {s : State} (hs : s.Ok) : s.nextTurn.2.Ok := by
  unfold State.nextTurn
  split
  · exact hs
  · exact State.bump_wf hs

/-! ### Cross-lane words -/

theorem execShfl_wf {o : OpF} {s : State} (hs : s.Ok) : NextOk (execShfl o s) := by
  unfold execShfl
  refine word_wf hs ?_
  intro e h
  split
  · exact Outer.Ok.of_wait (State.outerLines_wf h) ‹_›
  · exact Outer.Ok.of_poison (State.outerLines_wf h) ‹_›
  · exact Outer.Ok.of_ok (State.outerLines_wf h) ‹_›
theorem execVote_wf {o : OpF} {s : State} (hs : s.Ok) : NextOk (execVote o s) := word_wf hs (fun e h => h)
theorem execBallot_wf {o : OpF} {s : State} (hs : s.Ok) : NextOk (execBallot o s) := word_wf hs (fun e h => h)
theorem execMatchLanes_wf {o : OpF} {s : State} (hs : s.Ok) : NextOk (execMatchLanes o s) := word_wf hs (fun e h => h)
theorem execCompact_wf {o : OpF} {s : State} (hs : s.Ok) : NextOk (execCompact o s) := word_wf hs (fun e h => h)
theorem execElect_wf {o : OpF} {s : State} (hs : s.Ok) : NextOk (execElect o s) := word_wf hs (fun e h => h)
theorem execRedux_wf {o : OpF} {s : State} (hs : s.Ok) : NextOk (execRedux o s) := word_wf hs (fun e h => h)
theorem execScan_wf {o : OpF} {s : State} (hs : s.Ok) : NextOk (execScan o s) := word_wf hs (fun e h => h)
theorem execIsect_wf {o : OpF} {s : State} (hs : s.Ok) : NextOk (execIsect o s) := word_wf hs (fun e h => h)
theorem execMerge_wf {o : OpF} {s : State} (hs : s.Ok) : NextOk (execMerge o s) := word_wf hs (fun e h => h)

/-! ### The checks of accesses -/

theorem State.toSaved_wf {s : State} {t : Target} {bs : List Byte} (hs : s.Ok) : (s.toSaved t bs).Ok := by
  unfold State.toSaved
  split
  · exact State.homeWrite_wf _ _ _ hs
  · exact hs
theorem State.markTurn_wf {s : State} {core serial asid : ℕ} {g : GRef} (hs : s.Ok) : (s.markTurn core serial asid g).Ok := by
  unfold State.markTurn
  dsimp only
  split
  · exact hs
  · exact hs
theorem State.unmark_wf {s : State} {serial : ℕ} (hs : s.Ok) : (s.unmark serial).Ok := hs
theorem State.veilFor_wf {s : State} {g : GRef} {word : ℕ} {t : Target} {bs : List Byte} {taint : Bool} (hs : s.Ok)
    : (s.veilFor g word t bs taint).Ok := hs
theorem State.spStore_wf {s : State} {g : GRef} {tm : TRef} {a : ℕ} {bs : List Byte} {taint : Bool} {word : ℕ} (hs : s.Ok)
    : (s.spStore g tm a bs taint word).Ok := by
  unfold State.spStore
  dsimp only
  split
  · exact hs
  · split
    · exact hs
    · exact State.toSaved_wf (State.setTeam_wf (State.veilFor_wf hs))
theorem State.makeHeld_wf {s : State} {tm : TRef} {h : Held} (hs : s.Ok) : (s.makeHeld tm h).Ok := by
  unfold State.makeHeld
  dsimp only
  split
  · exact hs
  · exact State.toSaved_wf (State.setTeam_wf (State.veilFor_wf hs))
theorem State.applyHeld_wf {s : State} (hs : s.Ok) : s.applyHeld.Ok := by
  unfold State.applyHeld
  exact foldl_ok (fun t x h => State.makeHeld_wf h) hs
theorem State.putImage_wf {s : State} {from_ : GRef} {word : ℕ} {g : GRef} {l : List (ℕ × Byte)} {taint : Bool} (hs : s.Ok)
    : (s.putImage from_ word g l taint).Ok := by
  unfold State.putImage
  dsimp only
  split
  · exact foldl_ok (fun t x h => State.veilFor_wf h) hs
  · exact foldl_ok (fun t x h => State.toSaved_wf h) (State.setGroup_wf (foldl_ok (fun t x h => State.veilFor_wf h) hs))
theorem State.writeAt_wf {s : State} {from_ : GRef} {word : ℕ} {t : Target} {bs : List Byte} {taint : Bool} (hs : s.Ok)
    : (s.writeAt from_ word t bs taint).Ok := by
  unfold State.writeAt
  dsimp only
  split
  · exact hs
  · exact State.spStore_wf hs
  · exact State.putImage_wf hs
  · exact State.setBf_wf (State.veilFor_wf hs)
  · exact State.setBf_wf (State.veilFor_wf hs)
theorem State.storeOwn_wf {s : State} {g : GRef} {word off : ℕ} {bs : List Byte} {taint : Bool} (hs : s.Ok)
    : (s.storeOwn g word off bs taint).Ok := by
  unfold State.storeOwn
  dsimp only
  split
  · exact State.veilFor_wf hs
  · exact State.setGroup_wf (State.veilFor_wf hs)
theorem State.takeOwn_wf {s : State} {g : GRef} (hs : s.Ok) : (s.takeOwn g).Ok := by
  unfold State.takeOwn
  split
  · exact hs
  · split
    · exact hs
    · exact foldl_ok (fun t x h => State.writeAt_wf h) (State.setGroup_wf hs)

end Sys2Proof.Machine
end

section
/-!
PROOF. What keeps the memory at the homes in its canonical form: loads, stores, atomics and engines.
-/
namespace Sys2Proof.Machine
open Sys2Proof

/-! ### Loads and stores -/

theorem queueRead_wf {n key : ℕ} {e : Env} {l : ℕ × Word64 × Target} (he : e.s.Ok) : (queueRead n key e l).s.Ok := by
  unfold queueRead
  dsimp only
  split
  · exact he
  · exact he
  · exact he
theorem Env.waitAt_wf {e : Env} {n : ℕ} {l : List (ℕ × Word64 × Target)} (he : e.s.Ok) : (e.waitAt n l).Ok := by
  unfold Env.waitAt
  dsimp only
  split
  · exact Env.close_wf (foldl_env_ok (fun e' x h => queueRead_wf h) he)
  · exact Env.close_wf he
theorem Env.gather_wf {e : Env} {z : ℕ} {walks : List ℕ} {r : List (ℕ × Word64 × Check)} (he : e.s.Ok) : (e.gather z walks r).Ok := by
  unfold Env.gather
  dsimp only
  split
  · exact foldl_ok (fun t x h => State.startZero_wf h) he
  · split
    · exact Env.waitAt_wf he
    · split
      · exact State.bump_wf he
      · exact trivial
  · exact trivial
theorem Env.walked_wf {e : Env} {walks : List ℕ} (he : e.s.Ok) : (e.walked walks).s.Ok := by
  unfold Env.walked
  dsimp only
  exact State.chargeLines_wf he
theorem Env.checkAll_wf {e : Env} {space : ℕ} {need : Need} {z : ℕ} {l : List (ℕ × Word64)} (he : e.s.Ok)
    : (e.checkAll space need z l).Ok := by
  unfold Env.checkAll
  dsimp only
  exact Env.gather_wf he
theorem Env.loadWait_wf {e : Env} {z : ℕ} {r : List (ℕ × Word64 × Target)} (he : e.s.Ok) : OptOk (e.loadWait z r) := by
  unfold Env.loadWait
  split
  · exact optOk_some (Env.waitAt_wf he)
  · split
    · exact optOk_none
    · exact optOk_some (State.bump_wf (Env.waitAt_wf he))
theorem Env.checkLoad_wf {e : Env} {space z : ℕ} {l : List (ℕ × Word64)} (he : e.s.Ok) : (e.checkLoad space z l).Ok := by
  unfold Env.checkLoad
  split
  · split
    · exact trivial
    · exact OptOk.of_eq (Env.loadWait_wf he) ‹_›
  · exact Env.checkAll_wf he
theorem lanesOr_wf {e : Env} {c : Checked} {f : List (ℕ × Word64 × Target) → WordOut} (he : e.s.Ok) (hc : c.Ok) (hf : ∀ t, (f t).Ok)
    : (lanesOr e c f).Ok := by
  unfold lanesOr
  split
  · exact hf _
  · exact Env.walked_wf he
  · exact hc
theorem groupOr_wf {e : Env} {c : Checked} {f : List (ℕ × Word64 × Target) → WordOut} (he : e.s.Ok) (hc : c.Ok) (hf : ∀ t, (f t).Ok)
    : (groupOr e c f).Ok := by
  unfold groupOr
  split
  · exact hf _
  · exact Env.walked_wf he
  · exact hc
theorem State.publish_wf {s : State} {st : GStore} {h : GRef} (hs : s.Ok) : (s.publish st h).Ok := hs
theorem readMem_wf {e : Env} {acq : ℕ} {scopes : List ℕ} {home : Bool} {pa n : ℕ} (he : e.s.Ok)
    : ((readMem e acq scopes home pa n).1).s.Ok := by
  unfold readMem
  dsimp only
  refine State.bump_wf ?_
  refine State.chargeLine_wf ?_
  refine foldl_ok ?_ ?_
  · intro t x h
    split
    · split
      · exact State.publish_wf h
      · exact h
    · split
      · exact State.publish_wf h
      · exact h
  · split
    · exact State.growView_wf (foldl_ok (fun t x h => State.growView_wf h) (State.postLine_wf _ _ he))
    · exact foldl_ok (fun t x h => State.growView_wf h) he
theorem loadLane_wf {acq : ℕ} {scopes : List ℕ} {home : Bool} {n : ℕ} {acc : Env × List LoadLane} {l : ℕ × Word64 × Target}
    (hacc : acc.1.s.Ok) : (loadLane acq scopes home n acc l).1.s.Ok := by
  have charged (lines : List ℕ) : (acc.1.s.chargeLines acc.1.ctx.asid (pkClass acc.1.pkt) lines).Ok := State.chargeLines_wf hacc
  unfold loadLane
  dsimp only
  split
  · exact readMem_wf (charged _)
  · exact charged _
theorem loadAll_wf {e : Env} {acq : ℕ} {home : Bool} {n : ℕ} {ats : ℕ → Bool} {l : List (ℕ × Word64 × Target)} (he : e.s.Ok)
    : ((loadAll e acq home n ats l).1).s.Ok := by
  unfold loadAll
  dsimp only
  exact foldl_envFst_ok (fun p x h => loadLane_wf h) he
theorem renewIf_wf {b : Bool} {e : Env} (he : e.s.Ok) : (renewIf b e).s.Ok := by
  unfold renewIf
  split
  · exact State.renew_wf he
  · exact he
theorem execLd_wf {o : OpF} {s : State} (hs : s.Ok) : NextOk (execLd o s) := by
  unfold execLd
  dsimp only
  exact word_wf hs (fun e h => lanesOr_wf h (Env.checkLoad_wf h) (fun t => renewIf_wf (loadAll_wf h)))
theorem execLdu_wf {o : OpF} {s : State} (hs : s.Ok) : NextOk (execLdu o s) := by
  unfold execLdu
  dsimp only
  exact word_wf hs (fun e h => groupOr_wf h (Env.checkLoad_wf h) (fun t => renewIf_wf (loadAll_wf h)))
theorem execSt_wf {o : OpF} {s : State} (hs : s.Ok) : NextOk (execSt o s) :=
  word_wf hs (fun e h => lanesOr_wf h (Env.checkAll_wf h) (fun t => h))
theorem execStu_wf {o : OpF} {s : State} (hs : s.Ok) : NextOk (execStu o s) :=
  word_wf hs (fun e h => groupOr_wf h (Env.checkAll_wf h) (fun t => h))
theorem execPref_wf {o : OpF} {s : State} (hs : s.Ok) : NextOk (execPref o s) := word_wf hs (fun e h => Env.prefetch_wf h)
theorem Env.checkAtom_wf {e : Env} {o : OpF} {l : List (ℕ × Word64)} (he : e.s.Ok) : (e.checkAtom o l).Ok := by
  unfold Env.checkAtom
  dsimp only
  exact Env.gather_wf he
theorem laneAtom_wf {o : OpF} {returns : Bool} {s : State} (hs : s.Ok) : NextOk (laneAtom o returns s) := by
  unfold laneAtom
  dsimp only
  exact word_wf hs (fun e h => lanesOr_wf h (Env.checkAtom_wf h) (fun t => h))
theorem execAtomu_wf {o : OpF} {s : State} (hs : s.Ok) : NextOk (execAtomu o s) :=
  word_wf hs (fun e h => groupOr_wf h (Env.checkAtom_wf h) (fun t => h))

/-! ### Atomics -/

theorem State.foldDigest_wf {s : State} {gr : GRef} {lane : ℕ} {l : List Word64} {t : Bool} (hs : s.Ok)
    : (s.foldDigest gr lane l t).Ok := by
  unfold State.foldDigest
  split
  · exact hs
  · exact State.setGroup_wf hs
theorem State.memCharge_wf {s : State} {g : GRef} {va : Word64} {pa : ℕ} (hs : s.Ok) : (s.memCharge g va pa).Ok := by
  unfold State.memCharge
  exact State.chargeLines_wf hs
theorem performAtom_wf {s : State} {q : AtomReq} {early : Bool} (hs : s.Ok) : OptPairOk (performAtom s q early) := by
  unfold performAtom
  dsimp only
  split
  · exact optPairOk_none
  · refine optPairOk_some ?_
    split
    · refine State.homeWrite_wf _ _ _ ?_
      refine State.memCharge_wf ?_
      split
      · exact State.growView_wf hs
      · exact hs
    · exact State.writeAt_wf hs
theorem State.killPoison_wf {s : State} {g : GRef} (hs : s.Ok) : (s.killPoison g).Ok := by
  unfold State.killPoison
  split
  · exact State.killAt_wf hs
  · exact State.killTeamAt_wf hs
theorem State.postBefore_wf {s : State} {u : HeldUpd} (hs : s.Ok) : (s.postBefore u).Ok := by
  unfold State.postBefore
  split
  · exact State.postWhere_wf _ hs
  · exact hs
theorem applyUpdates_wf {early : Bool} {s : State} {l : List HeldUpd} (hs : s.Ok) : (applyUpdates early s l).1.Ok := by
  induction l generalizing s with
  | nil => exact hs
  | cons u rest ih =>
    unfold applyUpdates
    split
    · exact State.killPoison_wf hs
    next h => exact ih ((performAtom_wf (State.postBefore_wf hs)).of_eq h)
theorem applyEarly_wf {s : State} {l : List HeldUpd} (hs : s.Ok) : (applyEarly s l).Ok := by
  unfold applyEarly
  dsimp only
  exact applyUpdates_wf hs
theorem applyHolds_wf {grid : ℕ} {s : State} {l : List Hold} (hs : s.Ok) : (applyHolds grid s l).1.Ok := by
  induction l generalizing s with
  | nil => exact hs
  | cons h rest ih =>
    unfold applyHolds
    split
    · exact hs
    · exact ih (applyUpdates_wf hs)
theorem State.applyBatches_wf {s : State} {grid : ℕ} (hs : s.Ok) : (s.applyBatches grid).Ok := by
  unfold State.applyBatches
  dsimp only
  exact foldl_ok (fun t x h => State.answer_wf h) (foldl_ok (fun t x h => State.answer_wf h) (applyHolds_wf hs))
theorem State.holdUpdate_wf {s : State} {q : AtomReq} {pa : ℕ} (hs : s.Ok) : (s.holdUpdate q pa).Ok := by
  unfold State.holdUpdate
  dsimp only
  split
  · split
    · split
      · exact hs
      · exact applyEarly_wf hs
    · split
      · exact hs
      · split
        · exact hs
        · exact applyEarly_wf hs
  · split
    · exact hs
    · split
      · exact hs
      · exact applyEarly_wf hs

/-! ### Engines -/

theorem State.arrive_wf {s : State} {x : EngPath} {l : List (ℕ × Bool × Word64 × ℕ)} (hs : s.Ok) : (s.arrive x l).Ok := by
  unfold State.arrive
  refine foldl_ok ?_ hs
  intro t x' h
  split
  · split
    · exact h
    · exact h
  · exact h
theorem State.forget_wf {s : State} {serial : ℕ} (hs : s.Ok) : (s.forget serial).Ok := by
  unfold State.forget
  split
  · exact hs
  · exact hs
theorem State.setCmd_wf {s : State} {c : Command} (hs : s.Ok) : (s.setCmd c).Ok := hs
theorem State.replayRecord_wf {s : State} {asid grid : ℕ} {va : Word64} (hs : s.Ok) : (s.replayRecord asid grid va).Ok := by
  unfold State.replayRecord
  exact State.record_wf hs
theorem State.cleanSectors_wf {s : State} {tm : TRef} {l : List (ℕ × Byte)} {t : Bool} (hs : s.Ok) : (s.cleanSectors tm l t).Ok := by
  unfold State.cleanSectors
  split
  · exact hs
  · exact State.setTeam_wf hs
theorem State.putLine_wf {s : State} {from_ : GRef} {mode : TaintMode} {l : List (Target × List Byte)} {t : Bool} (hs : s.Ok)
    : (s.putLine from_ mode l t).Ok := by
  unfold State.putLine
  dsimp only
  refine foldl_ok (fun t' x h => State.cleanSectors_wf h) ?_
  refine foldl_ok (fun t' x h => State.putImage_wf h) ?_
  refine foldl_ok ?_ ?_
  · intro t' x h
    split
    · exact h
    · split
      · exact h
      · exact State.toSaved_wf (State.setTeam_wf (State.veilFor_wf h))
    · exact h
    · exact State.writeAt_wf h
  · split
    · exact hs
    · exact State.homeScatter_wf _ _ hs
theorem putBoxLine_wf {s : State} {c : Command} {x : EngPath} {b : Box} {ln : Option TRef × ℕ} {v : LineView} (hs : s.Ok)
    : ((putBoxLine s c x b ln v).1).Ok := by
  unfold putBoxLine
  dsimp only
  refine State.bump_wf ?_
  refine State.unmark_wf ?_
  split
  · exact State.charge_wf (State.putLine_wf (State.chargeLines_wf hs))
  · exact State.putLine_wf (State.chargeLines_wf hs)
theorem copyLine_wf {s : State} {c : Command} {ctx : Context} {b : Box} {ln : Option TRef × ℕ} (hs : s.Ok)
    : (copyLine s c ctx b ln).Ok := by
  unfold copyLine
  dsimp only
  split
  · exact foldl_ok (fun t x h => State.startZero_wf h) hs
  · split
    · exact hs
    · split
      · exact foldl_ok (fun t x h => State.markTurn_wf h) (State.arrive_wf hs)
      · split
        · exact State.bump_wf hs
        · split
          · split
            · exact State.replayRecord_wf (State.unmark_wf (State.chargeLines_wf hs))
            · exact State.chargeLines_wf hs
          · exact putBoxLine_wf hs
theorem State.giveDigest_wf {s : State} {gr : GRef} {serial : ℕ} {c : Word64} {t : Bool} (hs : s.Ok)
    : (s.giveDigest gr serial c t).Ok := by
  unfold State.giveDigest
  dsimp only
  split
  · exact hs
  · exact State.setGroup_wf hs
theorem State.setQueue_wf {s : State} {n : ℕ} {q : Queue} (hs : s.Ok) : (s.setQueue n q).Ok := hs
theorem State.finishCmd_wf {s : State} {c : Command} {status cause info : ℕ} (hs : s.Ok) : (s.finishCmd c status cause info).Ok := by
  unfold State.finishCmd
  dsimp only
  refine State.completeFuture_wf ?_
  refine State.bumpCounter_wf ?_
  split
  · exact State.giveDigest_wf (State.forget_wf (State.unmark_wf hs))
  · exact State.forget_wf (State.unmark_wf hs)
theorem State.ctrWaits_wf {s : State} {c : Command} (hs : s.Ok) : OptOk (s.ctrWaits c) := by
  unfold State.ctrWaits
  exact State.counterWaits_wf hs
theorem State.taintAt_wf {s : State} {t : Target} {n : ℕ} (hs : s.Ok) : (s.taintAt t n).Ok := by
  unfold State.taintAt
  dsimp only
  split
  · exact hs
  · split
    · exact State.setTeam_wf hs
    · exact hs
  · split
    · exact State.setGroup_wf hs
    · exact hs
  · exact State.setBf_wf hs
  · exact State.setBf_wf hs
theorem State.taintAll_wf {s : State} {x : EngPath} {space n : ℕ} {l : List Word64} (hs : s.Ok) : (s.taintAll x space n l).Ok := by
  unfold State.taintAll
  exact foldl_ok (fun t x' h => OptOk.getD (optOk_map (fun a => State.taintAt_wf h)) h) hs
theorem State.taintWaits_wf {s : State} {x : EngPath} {space : ℕ} {l : List Word64} (hs : s.Ok) : OptOk (s.taintWaits x space l) := by
  unfold State.taintWaits
  split
  · exact optOk_none
  · exact optOk_map (fun a => State.startZero_wf hs)
theorem State.taintDest_wf {s : State} {c : Command} (hs : s.Ok) : (s.taintDest c).Ok := by
  unfold State.taintDest
  split
  · exact State.taintAll_wf hs
  · exact hs
theorem copyOutcome_wf {s : State} {c : Command} (hs : s.Ok) : OptOk (copyOutcome s c) := by
  unfold copyOutcome
  split
  · split
    · exact optOk_none
    · refine optOk_some ?_
      refine State.finishCmd_wf ?_
      split
      · exact State.taintDest_wf hs
      · exact hs
  · split
    · exact optOk_some (State.finishCmd_wf (State.taintDest_wf hs))
    · split
      · exact optOk_some (State.finishCmd_wf hs)
      · exact optOk_none
theorem copyWaits_wf {s : State} {c : Command} (hs : s.Ok) : OptOk (copyWaits s c) := by
  unfold copyWaits
  dsimp only
  exact optOk_or (optOk_bind (fun a => State.taintWaits_wf hs)) (State.ctrWaits_wf hs)
theorem copyEnd_wf {s : State} {c : Command} (hs : s.Ok) : OptOk (copyEnd s c) := by
  intro t ht
  obtain ⟨u, hu, rfl⟩ := Option.map_eq_some_iff.mp ht
  exact (copyWaits_wf hs).getD ((copyOutcome_wf hs).of_eq hu)
theorem copyStep_wf {s : State} {n line : ℕ} (hs : s.Ok) : OptOk (copyStep s n line) := by
  unfold copyStep
  dsimp only
  refine optOk_bind ?_
  intro a
  refine optOk_bind ?_
  intro a'
  refine optOk_bind ?_
  intro a''
  refine optOk_bind ?_
  intro a'''
  split
  · exact optOk_none
  · split
    · exact optOk_some (State.chargeStep_wf (State.setCmd_wf (LineOut.Ok.of_done (copyLine_wf (State.served_wf hs)) ‹_›)))
    · exact optOk_some (State.setCmd_wf (LineOut.Ok.of_fail (copyLine_wf (State.served_wf hs)) ‹_›))
    · exact optOk_some (State.setCmd_wf (LineOut.Ok.of_stop (copyLine_wf (State.served_wf hs)) ‹_›))
    · exact optOk_some (LineOut.Ok.of_busy (copyLine_wf (State.served_wf hs)) ‹_›)
theorem execCopyComplete_wf {n : ℕ} {s : State} (hs : s.Ok) : NextOk (execCopyComplete n s) := by
  unfold execCopyComplete
  refine event_wf hs ?_
  refine optOk_bind ?_
  intro a
  split
  · exact copyEnd_wf hs
  · exact optOk_none
theorem execGatherComplete_wf {n : ℕ} {s : State} (hs : s.Ok) : NextOk (execGatherComplete n s) := by
  unfold execGatherComplete
  refine event_wf hs ?_
  refine optOk_bind ?_
  intro a
  split
  · exact copyEnd_wf hs
  · exact optOk_none

/-! ### Copies and collectives -/

theorem State.retireSeq_wf {s : State} {q : CollReq} (hs : s.Ok) : (s.retireSeq q).Ok := hs
theorem arriveRank_wf {s0 : State} {cmds : Ranks} {s : State} {x : ℕ × Command × CollReq} (hs0 : s0.Ok) (hs : s.Ok)
    : (arriveRank s0 cmds s x).Ok := by
  unfold arriveRank
  dsimp only
  refine foldl_ok ?_ (State.arrive_wf hs)
  intro t x' h
  split
  · exact State.markTurn_wf h
  · exact h
theorem collStalls_wf {s : State} {cmds : Ranks} (hs : s.Ok) : OptOk (collStalls s cmds) := by
  unfold collStalls
  dsimp only
  split
  · exact optOk_some (foldl_ok (fun t x h => State.startZero_wf h) hs)
  · split
    · exact optOk_some (foldl_ok (fun t x h => arriveRank_wf hs h) hs)
    · exact optOk_none
theorem chargeRanks_wf {s : State} {cmds : Ranks} {lines : ℕ × Command × CollReq → List ℕ} (hs : s.Ok)
    : (chargeRanks s cmds lines).Ok := by
  unfold chargeRanks
  exact foldl_ok (fun t x h => State.chargeLines_wf h) hs
theorem writeRank_wf {s0 s : State} {cmds : Ranks} {c : Command} {q : CollReq} {pick : ℕ → Bool} (hs0 : s0.Ok) (hs : s.Ok)
    : ((writeRank s0 s cmds c q pick).1).Ok := by
  unfold writeRank
  dsimp only
  exact foldl_fst_ok (fun p x h => foldl_ok (fun t x' h' => OptOk.getD (optOk_map (fun a => State.taintAt_wf h')) h')
    (State.putLine_wf h)) hs
theorem endOthers_wf {s : State} {cmds : Ranks} {but : List ℕ} {status cause : ℕ} (hs : s.Ok)
    : (endOthers s cmds but status cause).Ok := by
  unfold endOthers
  exact foldl_ok (fun t x h => State.finishCmd_wf h) hs
theorem State.taintRank_wf {s : State} {c : Command} (hs : s.Ok) : (s.taintRank c).Ok := by
  unfold State.taintRank
  split
  · split
    · exact State.taintAll_wf hs
    · exact hs
  · exact hs
theorem abortOthers_wf {s : State} {cmds : Ranks} {but : List ℕ} (hs : s.Ok) : (abortOthers s cmds but).Ok := by
  unfold abortOthers
  exact endOthers_wf (foldl_ok (fun t x h => State.taintRank_wf h) hs)
theorem taintStalls_wf {s : State} {cmds : Ranks} (hs : s.Ok) : OptOk (taintStalls s cmds) := by
  unfold taintStalls
  refine optOk_findSome? ?_
  intro x
  split
  · exact State.taintWaits_wf hs
  · exact optOk_none
theorem collRefused_wf {s : State} {c : Command} {q : CollReq} {k i : ℕ} (hs : s.Ok) : (collRefused s c q k i).Ok := by
  unfold collRefused
  dsimp only
  refine State.finishCmd_wf ?_
  split
  · split
    · split
      · exact State.retireSeq_wf (abortOthers_wf hs)
      · exact hs
    · split
      · exact State.retireSeq_wf (abortOthers_wf hs)
      · exact hs
  · split
    · split
      · exact State.retireSeq_wf (abortOthers_wf hs)
      · exact hs
    · split
      · exact State.retireSeq_wf (abortOthers_wf hs)
      · exact hs
theorem collPerform_wf {s : State} {cmds : Ranks} (hs : s.Ok) : (collPerform s cmds).Ok := by
  unfold collPerform
  refine foldl_ok (fun t x h => State.finishCmd_wf h) (foldl_fst_ok (fun p x h => ?_) ?_)
  · exact writeRank_wf hs h
  · exact chargeRanks_wf hs
theorem collOutcome_wf {s0 : State} {c : Command} {q : CollReq} {cmds : Ranks} (hs0 : s0.Ok) : OptOk (collOutcome s0 c q cmds) := by
  unfold collOutcome
  dsimp only
  split
  · exact optOk_some (State.bump_wf hs0)
  · split
    · exact optOk_or (taintStalls_wf hs0) (optOk_some (State.retireSeq_wf (State.finishCmd_wf (abortOthers_wf (chargeRanks_wf hs0)))))
    · split
      · exact optOk_some hs0
      · split
        · exact optOk_some (State.bump_wf (State.retireSeq_wf (endOthers_wf (chargeRanks_wf hs0))))
        · split
          · exact optOk_some (OptOk.of_eq (collStalls_wf hs0) ‹_›)
          · split
            · exact optOk_some (State.bump_wf hs0)
            · split
              · exact optOk_or (taintStalls_wf hs0) (optOk_some (State.retireSeq_wf (foldl_ok (fun t x h => State.finishCmd_wf h)
                  (abortOthers_wf (chargeRanks_wf (chargeRanks_wf hs0))))))
              · split
                · exact optOk_some (foldl_ok (fun t x h => State.setCmd_wf (State.replayRecord_wf h)) hs0)
                · split
                  · exact optOk_some (State.bump_wf hs0)
                  · refine optOk_some ?_
                    split
                    · exact State.chargeStep_wf (State.retireSeq_wf (collPerform_wf hs0))
                    · exact State.chargeStep_wf (State.chargeStep_wf (State.retireSeq_wf (collPerform_wf hs0)))
theorem collWaits_wf {s : State} {c : Command} {q : CollReq} (hs : s.Ok) : OptOk (collWaits s c q) := by
  unfold collWaits
  exact optOk_findSome? (fun x => State.ctrWaits_wf hs)
theorem collFailed_wf {s : State} {c : Command} {q : CollReq} {k i : ℕ} (hs : s.Ok) : OptOk (collFailed s c q k i) := by
  unfold collFailed
  dsimp only
  split
  · split
    · exact optOk_some (State.bump_wf hs)
    · exact optOk_or (optOk_or (taintStalls_wf hs) (collWaits_wf hs)) (optOk_some (collRefused_wf (State.chargeLines_wf hs)))
  · split
    · exact optOk_some (State.bump_wf hs)
    · exact optOk_or (optOk_or (taintStalls_wf hs) (collWaits_wf hs)) (optOk_some (collRefused_wf (State.chargeLines_wf hs)))
theorem collStep_wf {s : State} {n : ℕ} (hs : s.Ok) : OptOk (collStep s n) := by
  unfold collStep
  dsimp only
  refine optOk_bind ?_
  intro a
  split
  · exact optOk_none
  · split
    · exact optOk_none
    · exact optOk_or (State.ctrWaits_wf hs) (optOk_some (State.finishCmd_wf hs))
    · exact collFailed_wf hs
    · split
      · exact optOk_none
      · split
        · split
          · exact optOk_some (State.setCmd_wf (State.replayRecord_wf hs))
          · exact optOk_or (optOk_or (taintStalls_wf hs) (collWaits_wf hs)) (optOk_some (State.retireSeq_wf (State.finishCmd_wf
              (abortOthers_wf hs))))
        · exact optOk_some (State.startZero_wf hs)
        · exact optOk_none
        · split
          · split
            · exact optOk_some (State.bump_wf hs)
            · exact optOk_some (State.setCmd_wf (chargeRanks_wf hs))
          · exact optOk_none
          · split
            · exact optOk_none
            · exact optOk_or (collWaits_wf (State.served_wf hs)) (collOutcome_wf (State.served_wf hs))
theorem collAbortStep_wf {s : State} {n : ℕ} (hs : s.Ok) : OptOk (collAbortStep s n) := by
  unfold collAbortStep
  dsimp only
  refine optOk_bind ?_
  intro a
  refine optOk_bind ?_
  intro a'
  split
  · exact optOk_none
  · split
    · split
      · exact optOk_some (State.bump_wf hs)
      · refine optOk_or (optOk_or (taintStalls_wf hs) (collWaits_wf hs)) ?_
        refine optOk_some ?_
        refine State.bump_wf ?_
        refine State.retireSeq_wf ?_
        refine foldl_ok ?_ ?_
        · intro t x h
          split
          · exact State.taintRank_wf h
          · split
            · exact State.finishCmd_wf (State.taintRank_wf h)
            · exact State.finishCmd_wf (State.taintRank_wf h)
        · refine foldl_fst_ok ?_ (chargeRanks_wf hs)
          intro p x h
          split
          · exact h
          · exact writeRank_wf hs h
    · split
      · exact optOk_some (State.bump_wf hs)
      · refine optOk_or (optOk_or (taintStalls_wf hs) (collWaits_wf hs)) ?_
        refine optOk_some ?_
        refine State.bump_wf ?_
        refine State.retireSeq_wf ?_
        refine foldl_ok ?_ ?_
        · intro t x h
          split
          · exact State.taintRank_wf h
          · split
            · exact State.finishCmd_wf (State.taintRank_wf h)
            · exact State.finishCmd_wf (State.taintRank_wf h)
        · refine foldl_fst_ok ?_ (chargeRanks_wf hs)
          intro p x h
          split
          · exact h
          · exact writeRank_wf hs h
theorem launchPut_wf {s : State} {c : Command} {p : BitVec 1024} {qn : ℕ} {pas lines : List ℕ} (hs : s.Ok)
    : (launchPut s c p qn pas lines).Ok := by
  unfold launchPut
  dsimp only
  exact State.finishCmd_wf (State.setQueue_wf (foldl_ok (fun t x h => State.homeWrite_wf _ _ _ h) (State.chargeLines_wf hs)))
theorem State.taintSlot_wf {s : State} {c : Command} {unit : ℕ} {ctx : Context} {va : Word64} (hs : s.Ok)
    : (s.taintSlot c unit ctx va).Ok := by
  unfold State.taintSlot
  split
  · exact foldl_ok (fun t x h => State.taintAt_wf h) hs
  · exact hs
theorem launchStep_wf {s : State} {n : ℕ} (hs : s.Ok) : OptOk (launchStep s n) := by
  unfold launchStep
  dsimp only
  refine optOk_bind ?_
  intro a
  refine optOk_bind ?_
  intro a'
  split
  · split
    · refine optOk_or ?_ (optOk_some (State.finishCmd_wf (State.taintSlot_wf hs)))
      refine optOk_or ?_ (State.ctrWaits_wf hs)
      split
      · exact State.waitZero_wf hs
      · exact optOk_none
    · split
      · exact optOk_none
      · split
        · exact optOk_or (State.ctrWaits_wf hs) (optOk_some (State.finishCmd_wf hs))
        · split
          · exact optOk_none
          · refine optOk_or (optOk_or (State.waitZero_wf (State.served_wf hs)) (State.ctrWaits_wf (State.served_wf hs))) ?_
            split
            · split
              · exact optOk_some (State.setCmd_wf (State.replayRecord_wf (State.served_wf hs)))
              · refine optOk_some ?_
                split
                · exact State.finishCmd_wf (State.chargeLines_wf (State.served_wf hs))
                · exact State.bump_wf (State.served_wf hs)
            · refine optOk_some ?_
              split
              · exact State.chargeStep_wf (launchPut_wf (State.served_wf hs))
              · exact State.bump_wf (State.served_wf hs)
  · exact optOk_none

/-! ### Commands -/

theorem groupFault_wf {e : Env} {cause : ℕ} {addr : Word64} (he : e.s.Ok) : (groupFault e cause addr).Ok := by
  unfold groupFault
  exact he
theorem aligned_wf {e : Env} {l : List (Word64 × ℕ)} {k : WordOut} (he : e.s.Ok) (hk : k.Ok) : (aligned e l k).Ok := by
  unfold aligned
  split
  · exact groupFault_wf he
  · exact hk
/-- What a command does whose record is lost keeps the form. -/
@[reducible] def LostOk : Option (Env → WordOut) → Prop
  | none => True
  | some f => ∀ e, e.s.Ok → (f e).Ok
theorem withRecs_wf {e : Env} {n : ℕ} {lost : Option (Env → WordOut)} {l : List Word64} {k : Env → List ℕ → Bool → WordOut} (he : e.s.Ok)
    (hlost : LostOk lost) (hk : ∀ e v t, e.s.Ok → (k e v t).Ok) : (withRecs e n lost l k).Ok := by
  induction l generalizing e k with
  | nil => exact hk e [] false he
  | cons va rest ih =>
    have failing (f : Env → WordOut) (hf : ∀ e, e.s.Ok → (f e).Ok) :
        (if e.s.linesOpen e.ctx.asid (pkClass e.pkt) (e.recWalk va) then f (e.walked (e.recWalk va)) else .stall (e.waitAt n []).bump).Ok := by
      split
      · exact hf _ (Env.walked_wf he)
      · exact State.bump_wf (Env.waitAt_wf he)
    unfold withRecs
    split
    · exact Env.waitAt_wf he
    · extract_lets fails
      split
      · exact failing (fun e => groupFault e _ va) fun e he => groupFault_wf he
      · exact State.startZero_wf he
      · refine failing (fun e => (lost.map fun f => f { e with s := e.s.bump }).getD (groupFault e 5 va)) fun e he => ?_
        cases lost with
        | none => exact groupFault_wf he
        | some f => exact hlost _ he
      · split
        · exact State.bump_wf (Env.waitAt_wf he)
        · exact ih (State.bump_wf (State.chargeLines_wf he)) fun e v t he => hk _ _ _ he
theorem issueCommand_wf {e : Env} {d : BitVec 8} {k : CmdKind} {ctr : Word64} {t : Bool} (he : e.s.Ok)
    : (issueCommand e d k ctr t).Ok := by
  unfold issueCommand
  dsimp only
  exact he
theorem execCopy_wf {o : OpF} {s : State} (hs : s.Ok) : NextOk (execCopy o s) := by
  unfold execCopy
  exact word_wf hs fun e he => aligned_wf he
    (withRecs_wf he (fun e he => issueCommand_wf he) fun e l t he => issueCommand_wf he)
theorem execGather_wf {o : OpF} {s : State} (hs : s.Ok) : NextOk (execGather o s) :=
  word_wf hs fun e he => aligned_wf he (withRecs_wf he trivial fun e l t he => aligned_wf he (issueCommand_wf he))
theorem execColl_wf {o : OpF} {s : State} (hs : s.Ok) : NextOk (execColl o s) := by
  unfold execColl
  exact word_wf hs fun e he => aligned_wf he
    (withRecs_wf he (fun e he => issueCommand_wf he) fun e l t he => issueCommand_wf he)
theorem execLaunch_wf {o : OpF} {s : State} (hs : s.Ok) : NextOk (execLaunch o s) :=
  word_wf hs fun e he => aligned_wf he (withRecs_wf he trivial fun e l t he => issueCommand_wf he)
theorem execFtest_wf {o : OpF} {s : State} (hs : s.Ok) : NextOk (execFtest o s) := word_wf hs (fun e h => h)
theorem execFwait_wf {o : OpF} {s : State} (hs : s.Ok) : NextOk (execFwait o s) := word_wf hs (fun e h => h)
theorem execFcancel_wf {o : OpF} {s : State} (hs : s.Ok) : NextOk (execFcancel o s) := word_wf hs (fun e h => h)
theorem execFmov_wf {o : OpF} {s : State} (hs : s.Ok) : NextOk (execFmov o s) := word_wf hs (fun e h => h)
theorem execFstat_wf {o : OpF} {s : State} (hs : s.Ok) : NextOk (execFstat o s) := word_wf hs (fun e h => h)

/-! ### Ordering words -/

theorem effectWord_wf {o : OpF} {f : Effect} {s : State} (hs : s.Ok) : NextOk (effectWord o f s) := by
  unfold effectWord
  exact word_wf hs (fun e h => h)
theorem blockWord_wf {e : Env} {o : OpF} {w : Wait} (he : e.s.Ok) : (blockWord e o w).Ok := by
  unfold blockWord
  exact he
theorem execBar_wf {o : OpF} {s : State} (hs : s.Ok) : NextOk (execBar o s) := by
  unfold execBar
  refine word_wf hs ?_
  intro e h
  split
  · exact h
  · exact blockWord_wf h
theorem execOrdw_wf {o : OpF} {s : State} (hs : s.Ok) : NextOk (execOrdw o s) := word_wf hs (fun e h => blockWord_wf h)
theorem execCntwait_wf {o : OpF} {s : State} (hs : s.Ok) : NextOk (execCntwait o s) := by
  unfold execCntwait
  dsimp only
  refine word_wf hs ?_
  intro e h
  split
  · exact h
  · split
    · exact h
    · split
      · exact Env.waitAt_wf h
      · split
        · exact h
        · exact State.startZero_wf h
        · split
          · exact Env.waitAt_wf (OptOk.of_eq (State.vaWaits_wf h) ‹_›)
          · exact State.chargeVa_wf h
theorem execTfence_wf {o : OpF} {s : State} (hs : s.Ok) : NextOk (execTfence o s) := word_wf hs (fun e h => h)

end Sys2Proof.Machine
end

section
/-!
PROOF. What keeps the memory at the homes in its canonical form: the butterfly engine, intervals and sheets.
-/
namespace Sys2Proof.Machine
open Sys2Proof

/-! ### The butterfly engine -/

theorem bfDone_wf {s : State} {core asid : ℕ} {p : BfPart} {status cause : ℕ} {wrote : Table (BitVec 3 × Word64)} {t : Bool} (hs : s.Ok)
    : (bfDone s core asid p status cause wrote t).Ok := by
  unfold bfDone
  dsimp only
  refine State.completeFuture_wf ?_
  refine State.bumpCounter_wf ?_
  split
  · exact State.giveDigest_wf hs
  · exact hs
theorem bfDoneAll_wf {s : State} {core : ℕ} {c : BfCmd} {status cause : ℕ} (hs : s.Ok) : (bfDoneAll s core c status cause).Ok := by
  unfold bfDoneAll
  exact foldl_ok (fun t x h => bfDone_wf h) hs
theorem failLatch_wf {s : State} {core : ℕ} {extra : List BfCmd} (hs : s.Ok) : (failLatch s core extra).Ok := by
  unfold failLatch
  dsimp only
  exact foldl_ok (fun t x h => bfDoneAll_wf h) (State.setBf_wf hs)
theorem bfTidy_wf {s : State} {core : ℕ} (hs : s.Ok) : (bfTidy s core).Ok := by
  unfold bfTidy
  dsimp only
  split
  · exact State.setBf_wf (failLatch_wf hs)
  · exact hs
theorem bfDrop_wf {s : State} {core serial : ℕ} (hs : s.Ok) : (bfDrop s core serial).Ok := by
  unfold bfDrop
  dsimp only
  exact State.setBf_wf (State.forget_wf hs)
theorem bfFinish_wf {s : State} {core : ℕ} {c : BfCmd} {status cause : ℕ} (hs : s.Ok) : (bfFinish s core c status cause).Ok := by
  unfold bfFinish
  exact bfTidy_wf (bfDoneAll_wf (bfDrop_wf hs))
theorem bfKeep_wf {s : State} {core : ℕ} {c : BfCmd} (hs : s.Ok) : (bfKeep s core c).Ok := hs
theorem bfAcquire_wf {s : State} {core : ℕ} {tm : TRef} (hs : s.Ok) : ((bfAcquire s core tm).1).Ok := by
  unfold bfAcquire
  dsimp only
  split
  · split
    · exact State.setBf_wf hs
    · exact hs
  · exact hs
theorem bfEnqueue_wf {s : State} {core : ℕ} {c : BfCmd} (hs : s.Ok) : (bfEnqueue s core c).Ok := hs
theorem bfEnqueueOp_wf {s : State} {core asid : ℕ} {g : GRef} {after : List ℕ} {op : BfOp} (hs : s.Ok)
    : (bfEnqueueOp s core asid g after op).Ok := hs
theorem bfRelease_wf {s : State} {core asid : ℕ} {g : GRef} (hs : s.Ok) : (bfRelease s core asid g).Ok := by
  unfold bfRelease
  dsimp only
  split
  · exact State.setBf_wf (bfEnqueueOp_wf hs)
  · exact hs
theorem bfHeldUp_wf {s : State} {core : ℕ} {l : List BfCmd} (hs : s.Ok) : OptOk (bfHeldUp s core l) := by
  unfold bfHeldUp
  exact optOk_findSome? (fun x => optOk_findSome? (fun x' => State.counterWaits_wf hs))
theorem bfCancel_wf {s : State} {core : ℕ} {g : GRef} {slot : ℕ} (hs : s.Ok) : (bfCancel s core g slot).Ok := by
  unfold bfCancel
  dsimp only
  split
  · exact bfTidy_wf (failLatch_wf hs)
  · exact State.setBf_wf hs
theorem gangArrive_wf {s : State} {core : ℕ} {c : BfCmd} {chain : Bool} {k tag : ℕ} (hs : s.Ok)
    : (gangArrive s core c chain k tag).Ok := by
  unfold gangArrive
  dsimp only
  split
  · exact bfFinish_wf hs
  · split
    · exact bfTidy_wf (failLatch_wf (bfDrop_wf hs))
    · split
      · exact bfTidy_wf (failLatch_wf (State.setBf_wf (bfDrop_wf hs)))
      · split
        · exact bfTidy_wf (State.setBf_wf (bfDrop_wf hs))
        · exact State.setBf_wf (State.setBf_wf (bfDrop_wf hs))
theorem bfOpStep_wf {s : State} {core : ℕ} {c : BfCmd} {op : BfOp} (hs : s.Ok) : (bfOpStep s core c op).Ok := by
  unfold bfOpStep
  dsimp only
  split
  · exact failLatch_wf hs
  · exact hs
  · split
    · exact State.answer_wf (State.setBf_wf hs)
    · exact State.answer_wf hs
  · split
    · exact State.setBf_wf hs
    · exact hs
  · split
    · exact State.setBf_wf hs
    · exact hs
  · split
    · exact bfTidy_wf (failLatch_wf (State.setBf_wf hs))
    · exact hs
  · split
    · exact State.answer_wf hs
    · exact State.answer_wf (State.setBf_wf hs)
  · refine foldl_ok (fun t x h => State.answer_wf h) ?_
    split
    · split
      · exact State.bump_wf hs
      · exact hs
    · split
      · exact State.bump_wf hs
      · exact hs
  · split
    · exact hs
    · exact State.writeAt_wf hs
  · exact State.answer_wf hs
theorem xferFails_wf {s : State} {core : ℕ} {c : BfCmd} {va : Word64} {cause : ℕ} (hs : s.Ok) : (xferFails s core c va cause).Ok := by
  unfold xferFails
  split
  · exact bfKeep_wf (State.replayRecord_wf (State.unmark_wf hs))
  · exact bfFinish_wf (State.unmark_wf hs)
theorem fillLine_wf {s : State} {core : ℕ} {c : BfCmd} {x : Xfer} {va : Word64} {t : Target} {n : ℕ} {side : Bool} {off : ℕ} (hs : s.Ok)
    : (fillLine s core c x va t n side off).Ok := hs
theorem saveLine_wf {s : State} {core : ℕ} {c : BfCmd} {x : Xfer} {va : Word64} {t : Target} {n : ℕ} {side : Bool} {off : ℕ} (hs : s.Ok)
    : (saveLine s core c x va t n side off).Ok := by
  unfold saveLine
  dsimp only
  exact bfKeep_wf (State.putLine_wf hs)
theorem xferLine_wf {s : State} {core : ℕ} {c : BfCmd} {ctx : Context} {x : Xfer} {va : Word64} {n : ℕ} {side : Bool} {off : ℕ}
    (hs : s.Ok) : (xferLine s core c ctx x va n side off).Ok := by
  unfold xferLine
  dsimp only
  split
  · exact State.arrive_wf hs
  · exact State.markTurn_wf (State.arrive_wf hs)
  · exact State.startZero_wf hs
  · split
    · exact State.bump_wf hs
    · exact xferFails_wf (State.chargeLines_wf hs)
  · split
    · exact State.bump_wf hs
    · exact xferFails_wf (State.chargeLines_wf hs)
  · split
    · exact State.bump_wf hs
    · split
      · exact hs
      · refine State.chargeStep_wf ?_
        split
        · exact fillLine_wf (State.unmark_wf (State.chargeLines_wf hs))
        · exact saveLine_wf (State.unmark_wf (State.chargeLines_wf hs))
theorem State.taintXfer_wf {s : State} {core : ℕ} {c : BfCmd} (hs : s.Ok) : (s.taintXfer core c).Ok := by
  unfold State.taintXfer
  split
  · exact State.taintAll_wf hs
  · exact hs
theorem bfCancelled_wf {s : State} {core : ℕ} {c : BfCmd} (hs : s.Ok) : (bfCancelled s core c).Ok := by
  unfold bfCancelled
  split
  · exact bfTidy_wf (bfDrop_wf hs)
  · exact bfFinish_wf (State.taintXfer_wf hs)
theorem bfCancelWaits_wf {s : State} {core : ℕ} {c : BfCmd} (hs : s.Ok) : OptOk (bfCancelWaits s core c) := by
  unfold bfCancelWaits
  exact optOk_bind (fun a => State.taintWaits_wf hs)
theorem bfTransferStep_wf {s : State} {core : ℕ} (hs : s.Ok) : OptOk (bfTransferStep s core) := by
  unfold bfTransferStep
  dsimp only
  refine optOk_bind ?_
  intro a
  refine optOk_bind ?_
  intro a'
  split
  · split
    · exact optOk_none
    · refine optOk_or (bfHeldUp_wf (State.served_wf hs)) ?_
      refine optOk_some ?_
      split
      · exact bfFinish_wf (State.unmark_wf (State.served_wf hs))
      · split
        · exact xferLine_wf (State.served_wf hs)
        · refine bfFinish_wf ?_
          split
          · exact State.setBf_wf (State.served_wf hs)
          · exact State.served_wf hs
  · exact optOk_none
theorem bfBegin_wf {s : State} {core : ℕ} {c : BfCmd} (hs : s.Ok) : (bfBegin s core c).Ok := by
  unfold bfBegin
  dsimp only
  split
  · exact bfTidy_wf (bfOpStep_wf (bfDrop_wf hs))
  · split
    · exact bfFinish_wf hs
    · split
      · exact bfKeep_wf hs
      · split
        · exact gangArrive_wf hs
        · split
          · exact bfFinish_wf hs
          · exact bfKeep_wf hs
  · split
    · exact bfFinish_wf hs
    · exact bfFinish_wf (State.setBf_wf hs)
  · split
    · split
      · exact bfFinish_wf hs
      · split
        · exact bfFinish_wf hs
        · exact bfFinish_wf (State.setBf_wf hs)
    · split
      · exact bfFinish_wf hs
      · split
        · exact bfFinish_wf hs
        · exact bfFinish_wf (State.setBf_wf hs)
  · split
    · exact bfFinish_wf hs
    · exact bfKeep_wf hs
theorem bfPerformStep_wf {s : State} {core : ℕ} (hs : s.Ok) : OptOk (bfPerformStep s core) := by
  unfold bfPerformStep
  dsimp only
  split
  · exact optOk_or (optOk_or (bfCancelWaits_wf hs) (bfHeldUp_wf hs)) (optOk_some (bfCancelled_wf hs))
  · split
    · exact optOk_or (bfHeldUp_wf hs) (optOk_some (bfTidy_wf (failLatch_wf hs)))
    · refine optOk_bind ?_
      intro a
      split
      · exact optOk_none
      · exact optOk_or (bfHeldUp_wf hs) (optOk_some (bfBegin_wf hs))
theorem partEnd_wf {s : State} {core : ℕ} {c : BfCmd} {flags : Flags} {cause : ℕ} (hs : s.Ok) : (partEnd s core c flags cause).Ok := by
  unfold partEnd
  dsimp only
  split
  · exact bfFinish_wf hs
  · split
    · split
      · exact bfFinish_wf hs
      · exact bfKeep_wf hs
    · exact bfTidy_wf (foldl_ok (fun t x h => bfDone_wf h) (bfDrop_wf hs))
theorem bfPass_wf {s : State} {core : ℕ} {c : BfCmd} {chain : Bool} {k f n : ℕ} (hs : s.Ok) : (bfPass s core c chain k f n).Ok := by
  unfold bfPass
  dsimp only
  split
  · exact partEnd_wf hs
  · split
    · exact partEnd_wf hs
    · split
      · exact partEnd_wf (State.charge_wf (State.setBf_wf hs))
      · split
        · exact bfFinish_wf (State.charge_wf (State.setBf_wf hs))
        · exact bfKeep_wf (State.charge_wf (State.setBf_wf hs))
theorem bfPassStep_wf {s : State} {core : ℕ} (hs : s.Ok) : OptOk (bfPassStep s core) := by
  unfold bfPassStep
  dsimp only
  refine optOk_bind ?_
  intro a
  split
  · exact optOk_none
  · refine optOk_bind ?_
    intro a'
    split
    · exact optOk_none
    · exact optOk_or (bfHeldUp_wf hs) (optOk_some (bfPass_wf hs))
theorem bfWord_wf {o : OpF} {f : Env → WordOut} {s : State} (hf : ∀ t, t.s.Ok → (f t).Ok) (hs : s.Ok) : NextOk (bfWord o f s) := by
  unfold bfWord
  refine word_wf hs ?_
  intro e h
  split
  · exact hf _ h
  · exact groupFault_wf h
theorem bfEffect_wf {o : OpF} {f : Env → BfOp} {s : State} (hs : s.Ok) : NextOk (bfEffect o f s) := by
  unfold bfEffect
  exact bfWord_wf (fun t h => h) hs
theorem bfAnswer_wf {o : OpF} {f : Env → ℕ → BfOp} {s : State} (hs : s.Ok) : NextOk (bfAnswer o f s) := by
  unfold bfAnswer
  dsimp only
  exact bfWord_wf (fun t h => h) hs
theorem bfCommand_wf {o : OpF} {al : Env → List (Word64 × ℕ)} {k : Env → CmdKind} {ctr : Env → Word64} {t : Env → Bool} {s : State}
    (hs : s.Ok) : NextOk (bfCommand o al k ctr t s) := by
  unfold bfCommand
  exact bfWord_wf (fun t' h => aligned_wf h (issueCommand_wf h)) hs
theorem execBfacq_wf {o : OpF} {s : State} (hs : s.Ok) : NextOk (execBfacq o s) := word_wf hs (fun e h => h)
theorem execBfrel_wf {o : OpF} {s : State} (hs : s.Ok) : NextOk (execBfrel o s) := word_wf hs (fun e h => h)
theorem stageWord_wf {chain : Bool} {o : OpF} {s : State} (hs : s.Ok) : NextOk (stageWord chain o s) := by
  unfold stageWord
  exact bfCommand_wf hs
theorem execBfdrain_wf {o : OpF} {s : State} (hs : s.Ok) : NextOk (execBfdrain o s) := by
  unfold execBfdrain
  dsimp only
  split
  · exact bfCommand_wf hs
  · exact bfCommand_wf hs
  · exact bfWord_wf (fun t h => h) hs

/-! ### Interval words and their referrals -/

theorem Env.logWaits_wf {e : Env} (he : e.s.Ok) : OptOk e.logWaits := by
  unfold Env.logWaits
  exact State.logWaits_wf he
theorem withLog_wf {e : Env} {l : ExprLog} {reads fresh : List ℕ} {k : Env → WordOut} (he : e.s.Ok) (hk : ∀ t, t.s.Ok → (k t).Ok)
    : (withLog e l reads fresh k).Ok := by
  unfold withLog
  dsimp only
  split
  · refine OptOk.of_eq ?_ ‹_›
    split
    · exact Env.logWaits_wf he
    · exact optOk_none
  · split
    · exact he
    · split
      · exact Spill.Ok.of_dead (reachSpill_wf he) ‹_›
      · exact Spill.Ok.of_wait (reachSpill_wf he) ‹_›
      · exact he
      · exact hk _ (Env.withTeamLog_wf (State.chargeSpill_wf he))
theorem writeX_wf {e : Env} {d : BitVec 8} {outs : List (ℕ × XOut)} {raise : ℕ → Flags} (he : e.s.Ok) : (writeX e d outs raise).Ok := by
  unfold writeX
  dsimp only
  split
  · exact he
  · exact withLog_wf he (fun t h => h)
theorem xFixed_wf {o : OpF} {f : Env → ℕ → XOut} {s : State} (hs : s.Ok) : NextOk (xFixed o f s) := by
  unfold xFixed
  exact word_wf hs (fun e h => writeX_wf h)
theorem xArith_wf {op : ℕ} {o : OpF} {s : State} (hs : s.Ok) : NextOk (xArith op o s) := by
  unfold xArith
  exact xFixed_wf hs
theorem execXdiv_wf {o : OpF} {s : State} (hs : s.Ok) : NextOk (execXdiv o s) := by
  unfold execXdiv
  dsimp only
  refine word_wf hs ?_
  intro e h
  split
  · exact h
  · exact withLog_wf h (fun t h' => h')
theorem execXpin_wf {o : OpF} {s : State} (hs : s.Ok) : NextOk (execXpin o s) := word_wf hs (fun e h => writeX_wf h)
theorem Env.giveBack_wf {e : Env} (he : e.s.Ok) : e.giveBack.s.Ok := by
  unfold Env.giveBack
  split
  · exact he
  · exact Env.withTeamLog_wf he
theorem WordOut.giveBack_wf {x : WordOut} (hx : x.Ok) : x.giveBack.Ok := by
  unfold WordOut.giveBack
  split
  · exact Env.giveBack_wf hx
  · exact hx
theorem xldLoad_wf {o : OpF} {is : List ℕ} {bumps : ℕ × ℕ} {l : List (ℕ × Word64 × Target)} {e : Env} (he : e.s.Ok) :
    (xldLoad o is bumps l e).Ok := by
  unfold xldLoad
  dsimp only
  split
  next h =>
    refine OptOk.of_eq ?_ h
    exact Env.loadWait_wf he
  · exact loadAll_wf he
theorem execXld_wf {o : OpF} {s : State} (hs : s.Ok) : NextOk (execXld o s) := by
  unfold execXld
  dsimp only
  refine word_wf hs ?_
  intro e h
  split
  · exact Checked.Ok.of_stall (Env.checkAll_wf h) ‹_›
  · exact Env.walked_wf (Env.giveBack_wf h)
  · split
    · split
      · exact OptOk.of_eq (Env.logWaits_wf h) ‹_›
      · exact WordOut.giveBack_wf (withLog_wf h (fun t h' => xldLoad_wf h'))
    · split
      · exact h
      · exact withLog_wf h (fun t h' => xldLoad_wf h')
theorem execXst_wf {o : OpF} {s : State} (hs : s.Ok) : NextOk (execXst o s) :=
  word_wf hs (fun e h => lanesOr_wf h (Env.checkAll_wf h) (fun t => h))
theorem decideWord_wf {e : Env} {form : ℕ → DForm} {stage : Option ℕ} {l : List (ℕ × Option Decision × XCell × Option XCell × Bool)}
    (he : e.s.Ok) : (decideWord e form stage l).Ok := by
  unfold decideWord
  dsimp only
  exact withLog_wf he (fun t h => h)
theorem execXcmp_wf {o : OpF} {s : State} (hs : s.Ok) : NextOk (execXcmp o s) := word_wf hs (fun e h => decideWord_wf h)
theorem execXsgn_wf {o : OpF} {s : State} (hs : s.Ok) : NextOk (execXsgn o s) := word_wf hs (fun e h => decideWord_wf h)
theorem execXref_wf {o : OpF} {s : State} (hs : s.Ok) : NextOk (execXref o s) :=
  word_wf hs (fun e h => withLog_wf h (fun t h' => decideWord_wf h'))
theorem markWaits_wf {s : State} {r : Referral} {bad : Option ℕ} (hs : s.Ok) : OptOk (markWaits s r bad) := by
  unfold markWaits
  split
  · exact State.logWaits_wf hs
  · exact optOk_none
theorem markInvalid_wf {s : State} {core : ℕ} {c : Context} {r : Referral} {i : ℕ} (hs : s.Ok) : (markInvalid s core c r i).Ok := by
  unfold markInvalid
  dsimp only
  split
  · exact hs
  · split
    · exact State.setLog_wf hs
    · exact hs
theorem referralStep_wf {s : State} {core : ℕ} (hs : s.Ok) : OptOk (referralStep s core) := by
  unfold referralStep
  dsimp only
  refine optOk_bind ?_
  intro a
  refine optOk_bind ?_
  intro a'
  refine optOk_bind ?_
  intro a''
  refine optOk_map ?_
  intro a'''
  split
  · exact Spill.Ok.of_dead (reachSpill_wf (State.served_wf hs)) ‹_›
  · exact Spill.Ok.of_wait (reachSpill_wf (State.served_wf hs)) ‹_›
  · split
    · exact State.bump_wf (OptOk.of_eq (markWaits_wf (State.served_wf hs)) ‹_›)
    · refine State.chargeStep_wf ?_
      refine State.answer_wf ?_
      split
      · exact markInvalid_wf (State.chargeSpill_wf (State.served_wf hs))
      · exact State.chargeSpill_wf (State.served_wf hs)
theorem execXlogq_wf {o : OpF} {s : State} (hs : s.Ok) : NextOk (execXlogq o s) := word_wf hs (fun e h => h)

/-! ### Sheets -/

theorem State.setSheet_wf {s : State} {x : Sheet} (hs : s.Ok) : (s.setSheet x).Ok := hs
theorem State.reapSheet_wf {s : State} {x : Sheet} (hs : s.Ok) : (s.reapSheet x).Ok := hs
theorem State.flushElems_wf {s : State} {x : Sheet} {c : Context} {w : Elems} (hs : s.Ok) : (s.flushElems x c w).Ok := by
  unfold State.flushElems
  dsimp only
  exact foldl_ok (fun t x' h => State.homeScatter_wf _ _ h) hs
theorem State.chargeSheet_wf {s : State} {x : Sheet} {l : List ℕ} (hs : s.Ok) : (s.chargeSheet x l).Ok := by
  unfold State.chargeSheet
  exact State.chargeLines_wf hs
theorem State.taintElems_wf {s : State} {x : Sheet} {c : Context} (hs : s.Ok) : (s.taintElems x c).Ok := by
  unfold State.taintElems
  refine foldl_ok ?_ hs
  intro t x' h
  split
  · exact State.taintAt_wf h
  · exact h
theorem State.writeDeckle_wf {s : State} {x : Sheet} {c : Context} (hs : s.Ok) : ((s.writeDeckle x c).1).Ok := by
  unfold State.writeDeckle
  dsimp only
  split
  · exact hs
  · refine foldl_ok ?_ hs
    intro t x' h
    split
    · exact State.homeWrite_wf _ _ _ h
    · exact h
theorem State.writeSwRecord_wf {s : State} {x : Sheet} {c : Context} {at_ : Word64} {bs : List Byte} (hs : s.Ok)
    : (s.writeSwRecord x c at_ bs).Ok := by
  unfold State.writeSwRecord
  split
  · exact hs
  · split
    · exact State.homeWrite_wf _ _ _ hs
    · exact State.record_wf hs
theorem State.swEndWaits_wf {s : State} {x : Sheet} {r : SwRun} {c : Context} {status : ℕ} {lines : List ℕ} (hs : s.Ok)
    : OptSwOk (s.swEndWaits x r c status lines) := by
  unfold State.swEndWaits
  dsimp only
  refine optSwOk_or ?_ ?_
  · split
    · exact optSwOk_none
    · split
      · exact optSwOk_some trivial
      · split
        · exact optSwOk_some trivial
        · exact optSwOk_none
      · exact optSwOk_none
  · refine optSwOk_or ?_ ?_
    · split
      · exact optSwOk_none
      · exact optSwOk_map (fun a => trivial)
    · refine optSwOk_or ?_ ?_
      · split
        · exact optSwOk_map (fun a => trivial)
        · exact optSwOk_none
      · split
        · split
          · split
            · exact optSwOk_none
            · exact optSwOk_some trivial
          · split
            · exact optSwOk_none
            · exact optSwOk_some trivial
        · split
          · split
            · exact optSwOk_none
            · exact optSwOk_some trivial
          · split
            · exact optSwOk_none
            · exact optSwOk_some trivial
theorem State.swEnd_wf {s : State} {x : Sheet} {r : SwRun} {c : Context} {status : ℕ} {f : SwFault} {slab : ℕ} (hs : s.Ok)
    : (s.swEnd x r c status f slab).Ok := by
  unfold State.swEnd
  dsimp only
  refine State.completeFuture_wf ?_
  refine State.bumpCounter_wf ?_
  split
  · refine State.giveDigest_wf ?_
    split
    · exact State.taintElems_wf (State.writeSwRecord_wf (State.chargeSheet_wf hs))
    · exact State.writeSwRecord_wf (State.chargeSheet_wf hs)
  · split
    · exact State.taintElems_wf (State.writeSwRecord_wf (State.chargeSheet_wf hs))
    · exact State.writeSwRecord_wf (State.chargeSheet_wf hs)
theorem State.swFinish_wf {s : State} {x : Sheet} {r : SwRun} {c : Context} {status : ℕ} {f : SwFault} (hs : s.Ok)
    : (s.swFinish x r c status f).Ok := by
  unfold State.swFinish
  dsimp only
  split
  · exact OptSwOk.of_eq (State.swEndWaits_wf hs) ‹_›
  · split
    · exact State.reapSheet_wf (State.swEnd_wf (State.setSheet_wf (State.chargeSheet_wf (State.writeDeckle_wf hs))))
    · exact trivial
    · exact trivial
    · split
      · exact State.reapSheet_wf (State.swEnd_wf (State.setSheet_wf (State.chargeSheet_wf (State.writeDeckle_wf hs))))
      · exact State.reapSheet_wf (State.swEnd_wf (State.setSheet_wf (State.chargeSheet_wf (State.writeDeckle_wf hs))))
theorem SwOut.settle_wf {o : SwOut} {s : State} {x : Sheet} {r : SwRun} {c : Context} (ho : o.Ok) (hs : s.Ok)
    : (o.settle s x r c).Ok := by
  unfold SwOut.settle
  split
  · exact ho
  · exact State.bump_wf hs
  · exact State.startZero_wf hs
  · exact State.setSheet_wf (State.replayRecord_wf hs)
theorem State.cancelUnstarted_wf {s : State} {x : Sheet} {r : SwRun} (hs : s.Ok) : (s.cancelUnstarted x r).Ok := by
  unfold State.cancelUnstarted
  dsimp only
  split
  · exact hs
  · exact SwOut.settle_wf (State.swFinish_wf hs) (State.setSheet_wf hs)
theorem State.cancelSwRun_wf {s : State} {x : Sheet} {r : SwRun} (hs : s.Ok) : (s.cancelSwRun x r).Ok := by
  unfold State.cancelSwRun
  split
  · exact State.setSheet_wf hs
  · exact State.cancelUnstarted_wf hs
theorem State.cancelSwRuns_wf {s : State} {x : Sheet} (hs : s.Ok) : (s.cancelSwRuns x).Ok := by
  unfold State.cancelSwRuns
  refine foldl_ok ?_ hs
  intro t x' h
  split
  · exact State.cancelSwRun_wf h
  · exact h
theorem State.releaseSheet_wf {s : State} {x : Sheet} {cancel : Bool} (hs : s.Ok) : (s.releaseSheet x cancel).Ok := by
  unfold State.releaseSheet
  dsimp only
  refine State.reapSheet_wf ?_
  split
  · exact State.cancelSwRuns_wf (State.setSheet_wf hs)
  · exact State.setSheet_wf hs
theorem State.preemptSheet_wf {s : State} {x : Sheet} (hs : s.Ok) : (s.preemptSheet x).Ok := by
  unfold State.preemptSheet
  split
  · exact State.setSheet_wf hs
  · exact State.cancelSwRuns_wf hs
theorem State.bindSheet_wf {s : State} {c : Context} {team : TRef} {core : ℕ} {r : SheetRec} (hs : s.Ok)
    : (s.bindSheet c team core r).Ok := by
  unfold State.bindSheet
  dsimp only
  split
  · exact hs
  · split
    · exact trivial
    · split
      · exact trivial
      · exact State.chargeLines_wf hs
      · split
        · exact State.chargeLines_wf hs
        · split
          · exact trivial
          · split
            · exact trivial
            · exact State.chargeLines_wf hs
            · exact State.chargeLines_wf hs
theorem State.pokeDigest_wf {s : State} {g : GRef} {x : Sheet} {w : Elems} (hs : s.Ok) : (s.pokeDigest g x w).Ok := by
  unfold State.pokeDigest
  dsimp only
  split
  · exact hs
  · exact State.giveDigest_wf hs
theorem State.acceptPokes_wf {s : State} {g : GRef} {core slot serial : ℕ} {l : List Poke} (hs : s.Ok)
    : ((s.acceptPokes g core slot serial l).1).Ok := by
  unfold State.acceptPokes
  dsimp only
  split
  · exact hs
  · split
    · exact hs
    · split
      · split
        · exact State.setSheet_wf hs
        · exact hs
      · split
        · exact hs
        · split
          · exact State.startZero_wf hs
          · split
            · exact State.bump_wf hs
            · split
              · exact State.pokeDigest_wf (State.setSheet_wf (State.flushElems_wf (State.chargeSheet_wf hs)))
              · exact State.setSheet_wf (State.flushElems_wf (State.chargeSheet_wf hs))
theorem State.endCancelled_wf {core slot n : ℕ} {s : State} (hs : s.Ok) : (State.endCancelled core slot n s).Ok := by
  induction n generalizing s with
  | zero => exact hs
  | succ n ih =>
    unfold State.endCancelled
    split
    · exact hs
    · split
      · exact hs
      next x _ _ r _ _ =>
        have h : (s.cancelUnstarted x r).Ok := State.cancelUnstarted_wf hs
        dsimp only
        split
        · exact hs
        · split
          · exact h
          · split
            · exact ih h
            · exact h
theorem State.swStop_wf {s : State} {x : Sheet} {r : SwRun} {c : Context} {status : ℕ} {f : SwFault} (hs : s.Ok)
    : (s.swStop x r c status f).Ok := by
  unfold State.swStop
  split
  · exact State.endCancelled_wf (SwOut.Ok.of_next (State.swFinish_wf (State.setSheet_wf hs)) ‹_›)
  · exact State.swFinish_wf (State.setSheet_wf hs)
theorem State.commitElems_wf {s : State} {x : Sheet} {r : SwRun} {c : Context} {w : Elems} {k : State → SwRun → SwOut} (hs : s.Ok)
    (hk : ∀ t x, t.Ok → (k t x).Ok) : (s.commitElems x r c w k).Ok := by
  unfold State.commitElems
  dsimp only
  split
  · exact trivial
  · exact hk _ _ (State.flushElems_wf (State.chargeSheet_wf hs))
theorem State.startRun_wf {s : State} {x : Sheet} {r : SwRun} {c : Context} (hs : s.Ok) : (s.startRun x r c).Ok := by
  unfold State.startRun
  dsimp only
  split
  · exact trivial
  · split
    · exact trivial
    · exact trivial
    · exact State.swStop_wf (State.chargeSheet_wf hs)
    · split
      · exact trivial
      · exact trivial
      · exact State.commitElems_wf (State.chargeSheet_wf hs) (fun t x' h => State.swStop_wf h)
      · split
        · exact trivial
        · exact trivial
        · exact State.commitElems_wf (State.chargeSheet_wf hs) (fun t x' h => State.swStop_wf h)
        · refine State.commitElems_wf (State.chargeSheet_wf hs) ?_
          intro t x' h
          split
          · exact State.swStop_wf h
          · exact State.setSheet_wf h
theorem State.sweepBoundary_wf {s : State} {x : Sheet} {r : SwRun} {c : Context} {outs : List SlabOut} {w : Elems} (hs : s.Ok)
    : (s.sweepBoundary x r c outs w).Ok := by
  unfold State.sweepBoundary
  dsimp only
  split
  · split
    · exact trivial
    · exact trivial
    · exact State.commitElems_wf hs (fun t x' h => State.swStop_wf h)
  · split
    · split
      · exact trivial
      · exact trivial
      · exact State.commitElems_wf hs (fun t x' h => State.swStop_wf h)
    · split
      · split
        · exact trivial
        · exact trivial
        · exact State.commitElems_wf hs (fun t x' h => State.swStop_wf h)
      · refine State.commitElems_wf hs ?_
        intro t x' h
        split
        · exact State.swStop_wf h
        · split
          · exact State.swStop_wf h
          · split
            · exact State.swStop_wf h
            · exact State.setSheet_wf h
theorem State.sweepOnce_wf {s : State} {x : Sheet} {r : SwRun} {c : Context} (hs : s.Ok) : (s.sweepOnce x r c).Ok := by
  unfold State.sweepOnce
  dsimp only
  split
  · exact trivial
  · exact trivial
  · split
    · exact State.commitElems_wf hs (fun t x' h => State.swStop_wf h)
    · exact State.sweepBoundary_wf hs
theorem State.sweepLines_wf {s : State} {x : Sheet} {r : SwRun} {c : Context} {l : List ℕ} {f : State → SwOut} (hs : s.Ok)
    (hf : ∀ t, t.Ok → (f t).Ok) : (s.sweepLines x r c l f).Ok := by
  unfold State.sweepLines
  dsimp only
  split
  · exact State.bump_wf (State.served_wf hs)
  · exact SwOut.settle_wf (hf _ (State.chargeLines_wf (State.served_wf hs))) (State.served_wf hs)
theorem State.orphanStep_wf {s : State} {core slot : ℕ} (hs : s.Ok) : OptOk (s.orphanStep core slot) := by
  unfold State.orphanStep
  dsimp only
  refine optOk_bind ?_
  intro a
  refine optOk_bind ?_
  intro a'
  split
  · exact optOk_none
  · refine optOk_some ?_
    split
    · exact State.swEnd_wf hs
    · exact State.replayRecord_wf hs
    · exact SwOut.settle_wf (OptSwOk.of_eq (State.swEndWaits_wf hs) ‹_›) hs
theorem swStartStep_wf {s : State} {core slot : ℕ} (hs : s.Ok) : OptOk (swStartStep s core slot) := by
  unfold swStartStep
  dsimp only
  refine optOk_or (State.orphanStep_wf hs) ?_
  refine optOk_bind ?_
  intro a
  split
  · exact optOk_none
  · split
    · exact optOk_some (State.endCancelled_wf hs)
    · split
      · exact optOk_none
      · exact optOk_some (State.sweepLines_wf hs (fun t h => State.startRun_wf h))
theorem sweepStep_wf {s : State} {core slot : ℕ} (hs : s.Ok) : OptOk (sweepStep s core slot) := by
  unfold sweepStep
  dsimp only
  refine optOk_bind ?_
  intro a
  split
  · exact optOk_none
  · refine optOk_some ?_
    refine State.sweepLines_wf hs ?_
    intro t h
    split
    · exact State.chargeStep_wf (SwOut.Ok.of_next (State.sweepOnce_wf h) ‹_›)
    · exact State.sweepOnce_wf h
theorem withSheet_wf {e : Env} {h : Word64} {f : Sheet → WordOut} (he : e.s.Ok) (hf : ∀ t, (f t).Ok) : (withSheet e h f).Ok := by
  unfold withSheet
  split
  · exact groupFault_wf he
  · exact hf _
theorem execSwbind_wf {o : OpF} {s : State} (hs : s.Ok) : NextOk (execSwbind o s) := by
  unfold execSwbind
  refine word_wf hs fun e he => ?_
  dsimp only
  split
  · exact withSheet_wf he fun x => he
  · exact aligned_wf he (withRecs_wf he trivial fun e l t he => he)
theorem execSwrun_wf {o : OpF} {s : State} (hs : s.Ok) : NextOk (execSwrun o s) :=
  word_wf hs (fun e h => withSheet_wf h (fun t => aligned_wf h (issueCommand_wf h)))
theorem pokeWord_wf {o : OpF} {k : Env → ℕ → PokeKind × Bool} {s : State} (hs : s.Ok) : NextOk (pokeWord o k s) := by
  unfold pokeWord
  dsimp only
  exact word_wf hs (fun e h => withSheet_wf h (fun t => h))
theorem execSwstat_wf {o : OpF} {s : State} (hs : s.Ok) : NextOk (execSwstat o s) := word_wf hs (fun e h => withSheet_wf h (fun t => h))

/-! ### System words -/

theorem trapWord_wf {e : Env} {o : OpF} {cause : ℕ} (he : e.s.Ok) : (trapWord e o cause).Ok := by
  unfold trapWord
  split
  · exact he
  · exact he
theorem execTrap_wf {o : OpF} {s : State} (hs : s.Ok) : NextOk (execTrap o s) := word_wf hs (fun e h => trapWord_wf h)
theorem execBrkpt_wf {o : OpF} {s : State} (hs : s.Ok) : NextOk (execBrkpt o s) := by
  unfold execBrkpt
  refine word_wf hs ?_
  intro e h
  split
  · exact trapWord_wf h
  · exact h
theorem execTret_wf {o : OpF} {s : State} (hs : s.Ok) : NextOk (execTret o s) := by
  unfold execTret
  dsimp only
  refine word_wf hs ?_
  intro e h
  split
  · exact h
  · split
    · exact h
    · exact h
theorem execCsrr_wf {o : OpF} {s : State} (hs : s.Ok) : NextOk (execCsrr o s) := word_wf hs (fun e h => h)
theorem execCsrw_wf {o : OpF} {s : State} (hs : s.Ok) : NextOk (execCsrw o s) := word_wf hs (fun e h => h)
theorem execKill_wf {o : OpF} {s : State} (hs : s.Ok) : NextOk (execKill o s) := word_wf hs (fun e h => h)
theorem execClock_wf {o : OpF} {s : State} (hs : s.Ok) : NextOk (execClock o s) := word_wf hs (fun e h => h)
theorem execTlbq_wf {o : OpF} {s : State} (hs : s.Ok) : NextOk (execTlbq o s) := by
  unfold execTlbq
  dsimp only
  refine word_wf hs ?_
  intro e h
  split
  · exact State.bump_wf h
  · exact Env.walked_wf h
theorem execDigest_wf {o : OpF} {s : State} (hs : s.Ok) : NextOk (execDigest o s) := by
  unfold execDigest
  refine word_wf hs ?_
  intro e h
  split
  · exact h
  · exact h

end Sys2Proof.Machine
end

section
/-!
PROOF. What keeps the memory at the homes in its canonical form: the boundary and the end of a round.
-/
namespace Sys2Proof.Machine
open Sys2Proof

/-! ### Deferred writes -/

theorem denv_wf {s : State} {g : Group} (hs : s.Ok) : (denv s g).s.Ok := hs
theorem DEnv.withLog_wf {e : DEnv} {l : ExprLog} {d : DOut} (he : e.s.Ok) : (e.withLog l d).Ok := by
  unfold DEnv.withLog
  split
  · refine OptOk.of_eq ?_ ‹_›
    split
    · exact State.logWaits_wf he
    · exact optOk_none
  · split
    · exact Spill.Ok.of_dead (reachSpill_wf he) ‹_›
    · exact Spill.Ok.of_wait (reachSpill_wf he) ‹_›
    · exact trivial
theorem deferredOut_wf {e : DEnv} {d : Deferred} (he : e.s.Ok) : (deferredOut e d).Ok := by
  unfold deferredOut
  dsimp only
  split
  · exact trivial
  · exact trivial
  · exact trivial
  · exact DEnv.withLog_wf he
  · exact DEnv.withLog_wf he
  · split
    · exact trivial
    · exact trivial
  · split
    · exact trivial
    · exact trivial
  · split
    · exact trivial
    · exact trivial
  · split
    · exact trivial
    · exact trivial
  · split
    · exact trivial
    · exact DEnv.withLog_wf he
  · split
    · exact trivial
    · exact trivial
  · split
    · exact trivial
    · exact trivial
  · split
    · exact trivial
    · exact trivial
  · exact trivial
  · exact trivial
theorem DOut.apply_wf {o : DOut} {e : DEnv} {d : Deferred} (he : e.s.Ok) : (o.apply e d).Ok := by
  unfold DOut.apply
  dsimp only
  split
  · exact State.setGroup_wf he
  · exact State.setLog_wf (State.setGroup_wf he)

/-! ### The end of a round -/

theorem State.releaseOrdw_wf {s : State} {grid : ℕ} (hs : s.Ok) : (s.releaseOrdw grid).Ok := by
  unfold State.releaseOrdw
  dsimp only
  split
  · exact hs
  · exact foldl_ok (fun t x h => State.renew_wf h) hs
theorem State.ordd_wf {s : State} {g : Group} {k : ℕ} (hs : s.Ok) : (s.ordd g k).Ok := by
  unfold State.ordd
  dsimp only
  split
  · exact State.post_wf _ hs
  · split
    · exact State.post_wf _ hs
    · exact State.releaseOrdw_wf (State.setGrid_wf (State.post_wf _ hs))
theorem State.publishAll_wf {s : State} {from_ to_ : GRef} (hs : s.Ok) : (s.publishAll from_ to_).Ok := hs
theorem State.arriveAt_wf {s : State} {g : Group} (hs : s.Ok) : (s.arriveAt g).Ok := by
  unfold State.arriveAt
  dsimp only
  split
  · refine State.postGroup_wf _ ?_
    split
    · exact State.post_wf _ hs
    · exact hs
  · split
    · exact State.post_wf _ hs
    · exact hs
theorem State.releaseTeam_wf {s : State} {tm : TRef} {b : Barrier} {members : List Group} (hs : s.Ok)
    : (s.releaseTeam tm b members).Ok := by
  unfold State.releaseTeam
  dsimp only
  split
  · refine foldl_ok (fun t x h => State.renew_wf h) ?_
    refine foldl_ok ?_ hs
    intro t x h
    refine foldl_ok ?_ h
    intro t' x' h'
    split
    · exact State.publishAll_wf h'
    · exact h'
  · refine foldl_ok ?_ hs
    intro t x h
    refine foldl_ok ?_ h
    intro t' x' h'
    split
    · exact State.publishAll_wf h'
    · exact h'
theorem State.deliverOne_wf {s : State} {gr : GRef} {d : Deferred} (hs : s.Ok) : (s.deliverOne gr d).Ok := by
  unfold State.deliverOne
  dsimp only
  split
  · exact hs
  · split
    · split
      · exact hs
      · exact State.setGroup_wf (DOut.apply_wf (denv_wf hs))
    · exact hs
theorem State.deliverDet_wf {s : State} {g : Group} (hs : s.Ok) : (s.deliverDet g).Ok := by
  unfold State.deliverDet
  dsimp only
  split
  · exact foldl_ok (fun t x h => State.deliverOne_wf h) hs
  · exact State.setGroup_wf (foldl_ok (fun t x h => State.deliverOne_wf h) hs)
theorem State.releaseGrid_wf {s : State} {grid : ℕ} (hs : s.Ok) : (s.releaseGrid grid).Ok := by
  unfold State.releaseGrid
  dsimp only
  split
  · exact State.applyBatches_wf hs
  · exact foldl_ok (fun t x h => State.renew_wf h) (foldl_ok (fun t x h => State.deliverDet_wf h) (State.applyBatches_wf hs))
theorem State.tryBarrier_wf {s : State} {tm : TRef} {b : Barrier} (hs : s.Ok) : (s.tryBarrier tm b).Ok := by
  unfold State.tryBarrier
  split
  · exact hs
  · split
    · exact State.releaseGrid_wf hs
    · exact State.releaseTeam_wf hs
theorem State.barMismatch_wf {s : State} {g : Group} (hs : s.Ok) : (s.barMismatch g).Ok := by
  unfold State.barMismatch
  dsimp only
  split
  · exact hs
  · exact State.takeTrap_wf hs
theorem State.nextBar_wf {s : State} {gr : GRef} (hs : s.Ok) : (s.nextBar gr).Ok := by
  unfold State.nextBar
  dsimp only
  split
  · exact hs
  · split
    · exact State.barMismatch_wf hs
    · exact State.arriveAt_wf (State.barMismatch_wf hs)
theorem State.releaseDue_wf {n : ℕ} {teams : List TRef} {s : State} (hs : s.Ok) : (State.releaseDue n teams s).Ok := by
  induction n generalizing teams s with
  | zero => exact hs
  | succ n ih =>
    unfold State.releaseDue
    split
    · exact hs
    · exact ih (foldl_ok (fun t x h => State.nextBar_wf h) (State.tryBarrier_wf hs))
theorem State.tryBarriers_wf {s : State} {tm : TRef} (hs : s.Ok) : (s.tryBarriers tm).Ok := by
  unfold State.tryBarriers
  exact State.releaseDue_wf hs
theorem State.noteDigest_wf {s : State} {tm : TRef} (hs : s.Ok) : (s.noteDigest tm).Ok := by
  unfold State.noteDigest
  split
  · split
    · exact State.setGrid_wf hs
    · exact hs
  · exact hs
theorem State.endWaits_wf {s : State} {g : Grid} (hs : s.Ok) : OptOk (s.endWaits g) := by
  unfold State.endWaits
  dsimp only
  refine optOk_or ?_ ?_
  · split
    · exact optOk_none
    · exact optOk_some (State.bump_wf hs)
  · refine optOk_or ?_ (State.counterWaits_wf hs)
    refine optOk_or ?_ ?_
    · split
      · exact optOk_none
      · exact optOk_bind (fun a => State.vaWaits_wf hs)
    · split
      · exact optOk_none
      · exact optOk_bind (fun a => State.vaWaits_wf hs)
theorem State.writeWatermark_wf {s : State} {c : Context} {g : Grid} (hs : s.Ok) : ((s.writeWatermark c g).1).Ok := by
  unfold State.writeWatermark
  dsimp only
  split
  · exact hs
  · split
    · split
      · exact State.chargeLines_wf hs
      · exact State.chargeLines_wf (State.homeWrite_wf _ _ _ hs)
    · exact State.chargeLines_wf hs
theorem State.checkWatermark_wf {s : State} {c : Context} {g : Grid} (hs : s.Ok) : ((s.checkWatermark c g).1).Ok := by
  unfold State.checkWatermark
  dsimp only
  split
  · exact State.writeWatermark_wf hs
  · split
    · exact State.writeWatermark_wf hs
    · exact State.chargeVa_wf (State.writeWatermark_wf hs)
theorem State.gridCounter_wf {s : State} {asid : ℕ} {grid : BitVec 32} {ccnt : Word64} {f : Word64 → Word64} (hs : s.Ok)
    : (s.gridCounter asid grid ccnt f).Ok := by
  unfold State.gridCounter
  split
  · exact hs
  · split
    · exact hs
    · split
      · exact State.chargeVa_wf (OptOk.of_eq (State.addCounter_wf hs) ‹_›)
      · exact State.record_wf (State.chargeVa_wf hs)
theorem State.endGrid_wf {s : State} {g : Grid} (hs : s.Ok) : (s.endGrid g).Ok := by
  unfold State.endGrid
  dsimp only
  split
  · exact State.postGrid_wf _ (State.applyBatches_wf hs)
  · split
    · exact State.setGrid_wf (State.postGrid_wf _ (State.applyBatches_wf hs))
    · split
      · refine State.record_wf ?_
        split
        · exact State.checkWatermark_wf (State.setGrid_wf (State.postGrid_wf _ (State.applyBatches_wf hs)))
        · exact State.setGrid_wf (State.postGrid_wf _ (State.applyBatches_wf hs))
      · refine State.gridCounter_wf ?_
        split
        · exact State.checkWatermark_wf (State.setGrid_wf (State.postGrid_wf _ (State.applyBatches_wf hs)))
        · exact State.setGrid_wf (State.postGrid_wf _ (State.applyBatches_wf hs))
theorem State.tryEnd_wf {s : State} {grid : ℕ} (hs : s.Ok) : (s.tryEnd grid).Ok := by
  unfold State.tryEnd
  split
  · exact hs
  · split
    · exact OptOk.getD (State.endWaits_wf hs) (State.endGrid_wf hs)
    · exact hs
theorem State.dropEnded_wf {s : State} (hs : s.Ok) : s.dropEnded.Ok := hs
theorem State.tryEnds_wf {s : State} (hs : s.Ok) : s.tryEnds.Ok := by
  unfold State.tryEnds
  exact State.dropEnded_wf (foldl_ok (fun t x h => State.tryEnd_wf h) hs)
theorem State.wakeSwapped_wf {s : State} (hs : s.Ok) : s.wakeSwapped.Ok := hs
theorem State.exitTeam_wf {s : State} {t : Team} (hs : s.Ok) : (s.exitTeam t).Ok := by
  unfold State.exitTeam
  dsimp only
  split
  · split
    · exact State.applyBatches_wf (foldl_ok (fun t' x h => State.releaseSheet_wf h) (foldl_ok (fun t' x h => bfRelease_wf h)
        (State.wakeSwapped_wf (State.postTeam_wf _ (State.setTeam_wf hs)))))
    · exact foldl_ok (fun t' x h => State.releaseSheet_wf h) (foldl_ok (fun t' x h => bfRelease_wf h) (State.wakeSwapped_wf
        (State.postTeam_wf _ (State.setTeam_wf hs))))
  · split
    · split
      · exact State.applyBatches_wf (foldl_ok (fun t' x h => State.releaseSheet_wf h) (foldl_ok (fun t' x h => bfRelease_wf h)
          (State.wakeSwapped_wf (State.postTeam_wf _ (State.setTeam_wf hs)))))
      · exact foldl_ok (fun t' x h => State.releaseSheet_wf h) (foldl_ok (fun t' x h => bfRelease_wf h) (State.wakeSwapped_wf
          (State.postTeam_wf _ (State.setTeam_wf hs))))
    · refine State.tryEnd_wf ?_
      refine State.noteDigest_wf ?_
      refine State.releaseOrdw_wf ?_
      refine State.setGrid_wf ?_
      split
      · exact State.applyBatches_wf (foldl_ok (fun t' x h => State.releaseSheet_wf h) (foldl_ok (fun t' x h => bfRelease_wf h)
          (State.wakeSwapped_wf (State.postTeam_wf _ (State.setTeam_wf hs)))))
      · exact foldl_ok (fun t' x h => State.releaseSheet_wf h) (foldl_ok (fun t' x h => bfRelease_wf h) (State.wakeSwapped_wf
          (State.postTeam_wf _ (State.setTeam_wf hs))))
theorem State.tryExit_wf {s : State} {g : Group} (hs : s.Ok) : (s.tryExit g).Ok := by
  unfold State.tryExit
  split
  · exact hs
  · split
    · exact hs
    · split
      · exact hs
      · split
        · exact State.exitTeam_wf hs
        · exact hs
theorem State.preciseFault_wf {s : State} {g : Group} {f : FaultInfo} (hs : s.Ok) : (s.preciseFault g f).Ok := by
  unfold State.preciseFault
  split
  · exact State.takeTrap_wf hs
  · split
    · exact State.record_wf (State.setGroup_wf hs)
    · exact State.takeTrap_wf hs
theorem State.roundTrap_wf {s : State} {r : RoundEnd} (hs : s.Ok) : (s.roundTrap r).Ok := by
  unfold State.roundTrap
  split
  · exact State.preciseFault_wf hs
  · exact State.barMismatch_wf hs
  · split
    · exact State.takeTrap_wf hs
    · exact hs
  · exact hs
theorem State.finishRound_wf {s : State} {gr : GRef} (hs : s.Ok) : (s.finishRound gr).Ok := by
  unfold State.finishRound
  dsimp only
  split
  · exact hs
  · split
    · exact hs
    · split
      · exact hs
      · split
        · exact State.roundTrap_wf (State.setGroup_wf hs)
        · exact State.tryBarriers_wf (State.tryExit_wf (State.arriveAt_wf (State.roundTrap_wf (State.setGroup_wf hs))))

/-! ### Effects, commits and events at the boundary -/

theorem State.enqueue_wf {s : State} {c : Context} {g : Group} {serial slot : ℕ} {gen : BitVec 33} {k : CmdKind} {ctr : Word64}
    {t : Bool} (hs : s.Ok) : (s.enqueue c g serial slot gen k ctr t).Ok := by
  unfold State.enqueue
  dsimp only
  split
  · split
    · exact State.setSheet_wf hs
    · exact hs
  · split
    · split
      · exact hs
      · exact hs
    · split
      · exact cancelBf_wf hs
      · exact bfEnqueue_wf hs
theorem State.acceptCommand_wf {s : State} {g : Group} {k : CmdKind} {ctr : Word64} {key : ℕ} {t : Bool} (hs : s.Ok)
    : (s.acceptCommand g k ctr key t).Ok := by
  unfold State.acceptCommand
  dsimp only
  split
  · exact State.enqueue_wf hs
  · exact hs
theorem State.cancelFuture_wf {s : State} {g : Group} {h : Word64} (hs : s.Ok) : (s.cancelFuture g h).Ok := by
  unfold State.cancelFuture
  split
  · exact hs
  · split
    · exact bfCancel_wf hs
    · split
      · split
        · exact State.cancelSwRun_wf hs
        · exact hs
      · exact hs
theorem State.cancelWaits_wf {s : State} {g : Group} {h : Word64} (hs : s.Ok) : OptOk (s.cancelWaits g h) := by
  unfold State.cancelWaits
  dsimp only
  refine optOk_bind ?_
  intro a
  split
  · exact bfHeldUp_wf hs
  · exact optOk_none
theorem State.fence_wf {s : State} {g : Group} {scope : ℕ} (hs : s.Ok) : (s.fence g scope).Ok := by
  unfold State.fence
  dsimp only
  split
  · exact State.postGroup_wf _ hs
  · split
    · refine State.renew_wf ?_
      refine State.postGroup_wf _ ?_
      refine State.setGroup_wf ?_
      refine foldl_ok ?_ hs
      intro t x h
      split
      · exact State.publish_wf h
      · exact h
    · refine State.setGroup_wf ?_
      refine foldl_ok ?_ hs
      intro t x h
      split
      · exact State.publish_wf h
      · exact h
theorem State.cfence_wf {s : State} {g : Group} {a b : ℕ} (hs : s.Ok) : OptOk (s.cfence g a b) := by
  unfold State.cfence
  dsimp only
  split
  · split
    · exact optOk_some (State.postGroup_wf _ hs)
    · split
      · exact optOk_some hs
      · split
        · exact optOk_none
        · refine optOk_some ?_
          split
          · exact State.codeInvalidate_wf (State.postGroup_wf _ hs)
          · exact State.postGroup_wf _ hs
  · split
    · exact optOk_some hs
    · split
      · exact optOk_some (State.renew_wf hs)
      · split
        · exact optOk_some (State.codeInvalidate_wf hs)
        · split
          · exact optOk_some (State.setGroup_wf hs)
          · exact optOk_some hs
theorem State.issueStore_wf {s : State} {g : Group} {q : StoreReq} {pa : ℕ} (hs : s.Ok) : (s.issueStore g q pa).Ok := by
  unfold State.issueStore
  dsimp only
  exact State.foldDigest_wf (State.memCharge_wf hs)
theorem State.localStores_wf {s : State} {gr : GRef} {l : List StoreReq} (hs : s.Ok) : (s.localStores gr l).1.Ok := by
  induction l generalizing s with
  | nil => exact hs
  | cons q rest ih =>
    unfold State.localStores
    split
    · split
      · exact ih (State.issueStore_wf hs)
      · exact hs
    · split
      · exact ih (State.spStore_wf hs)
      · exact hs
    · exact hs
theorem State.postsAfter_wf {s : State} {gr : GRef} {ord : ℕ} (hs : s.Ok) : (s.postsAfter gr ord).Ok := by
  unfold State.postsAfter
  dsimp only
  split
  · exact State.postGroup_wf _ hs
  · exact hs
theorem State.blockLanes_wf {s : State} {g : Group} {pos : ℕ} {w : Wait} {lanes : List ℕ} (hs : s.Ok)
    : (s.blockLanes g pos w lanes).Ok := by
  unfold State.blockLanes
  dsimp only
  split
  · split
    · exact State.renew_wf hs
    · exact State.setGroup_wf hs
  · exact State.setGroup_wf hs
theorem State.commandWaits_wf {s : State} {g : Group} {k : CmdKind} {ctr : Word64} (hs : s.Ok) : OptOk (s.commandWaits g k ctr) := by
  unfold State.commandWaits
  split
  · exact optOk_some hs
  · exact State.counterWaits_wf hs
theorem effectStep_wf {s : State} {g : Group} {e : Effect} (hs : s.Ok) : (effectStep s g e).Ok := by
  unfold effectStep
  dsimp only
  split
  · split
    · refine State.postsAfter_wf ?_
      split
      · exact State.postGroup_wf _ (State.localStores_wf hs)
      · exact State.localStores_wf hs
    · split
      · exact State.postGroup_wf _ (State.localStores_wf hs)
      · exact State.localStores_wf hs
  · exact hs
  · exact hs
  · split
    · split
      · exact hs
      · exact State.post_wf _ hs
    · refine State.renew_wf ?_
      split
      · exact hs
      · exact State.post_wf _ hs
  · exact State.fence_wf hs
  · split
    · exact OptOk.of_eq (State.cfence_wf hs) ‹_›
    · exact hs
  · split
    · exact hs
    · exact State.blockLanes_wf hs
  · exact State.ordd_wf hs
  · split
    · exact OptOk.of_eq (State.commandWaits_wf hs) ‹_›
    · exact State.acceptCommand_wf hs
  · split
    · exact OptOk.of_eq (State.cancelWaits_wf hs) ‹_›
    · exact State.cancelFuture_wf hs
  · refine State.answer_wf ?_
    split
    · exact hs
    · exact bfAcquire_wf hs
  · exact bfRelease_wf hs
  · split
    · exact hs
    · exact bfEnqueueOp_wf hs
  · split
    · split
      · exact State.answer_wf (BindOut.Ok.of_done (State.bindSheet_wf hs) ‹_›)
      · exact State.startZero_wf hs
      · exact State.bump_wf hs
    · exact State.answer_wf hs
  · split
    · exact State.acceptPokes_wf hs
    · exact State.acceptPokes_wf hs
  · split
    · exact State.releaseSheet_wf hs
    · exact hs
  · exact State.killGrid_wf hs
theorem drain_wf {n : ℕ} {s : State} {gr : GRef} (hs : s.Ok) : (drain n s gr).Ok := by
  induction n generalizing s with
  | zero => exact hs
  | succ n ih =>
    unfold drain
    split
    · exact hs
    · split
      · exact hs
      next g _ _ b e rest _ =>
        have h : (effectStep (s.setGroup { g with outbox := rest }) { g with outbox := rest } e).Ok := effectStep_wf hs
        dsimp only
        split
        next h' => exact ih (Left.Ok.of_done h h')
        next h' =>
          have hw := Left.Ok.of_wait h h'
          split <;> exact hw
theorem State.settleGroup_wf {s : State} {gr : GRef} (hs : s.Ok) : (s.settleGroup gr).Ok := by
  unfold State.settleGroup
  exact State.finishRound_wf (drain_wf (State.takeOwn_wf hs))
theorem State.recheckRun_wf {s : State} {g : Group} {rd : Round} {b : Stream} (hs : s.Ok) : (s.recheckRun g rd b).s.Ok := by
  unfold State.recheckRun
  dsimp only
  split
  · exact hs
  · split
    · exact hs
    · split
      · exact State.restoreLog_wf (State.takeBack_wf hs)
      · exact hs
theorem commitStep_wf {s : State} {gr : GRef} (hs : s.Ok) : OptOk (commitStep s gr) := by
  unfold commitStep
  dsimp only
  exact optOk_bind (fun a => optOk_bind (fun a' => optOk_bind (fun a'' => optOk_map (fun a''' => State.settleGroup_wf
    (State.setGroup_wf (State.recheckRun_wf hs))))))
theorem deferredStep_wf {s : State} {gr : GRef} (hs : s.Ok) : OptOk (deferredStep s gr) := by
  unfold deferredStep
  dsimp only
  refine optOk_bind ?_
  intro a
  split
  · exact optOk_some (State.settleGroup_wf hs)
  · split
    · exact optOk_some (State.settleGroup_wf hs)
    · exact optOk_some (DRes.Ok.of_retry (deferredOut_wf (denv_wf hs)) ‹_›)
    · split
      · exact optOk_none
      · exact optOk_some (State.settleGroup_wf (State.setGroup_wf (DOut.apply_wf (denv_wf hs))))
theorem State.foldAtom_wf {s : State} {q : AtomReq} (hs : s.Ok) : (s.foldAtom q).Ok := by
  unfold State.foldAtom
  split
  · exact State.foldDigest_wf hs
  · exact hs
/-- An atomic reaches memory behind the stores of its group to its line. -/
theorem atomPosted_wf {s : State} {gr : GRef} {q : AtomReq} (hs : s.Ok) :
    (match q.at_ with
      | .mem pa => s.postLine gr (pa / 64)
      | _ => s).Ok := by
  split
  · exact State.postLine_wf _ _ hs
  · exact hs
theorem atomicStep_wf {s : State} {gr : GRef} (hs : s.Ok) : OptOk (atomicStep s gr) := by
  unfold atomicStep
  refine optOk_bind fun g => optOk_bind fun x => ?_
  have posted : (match x.1.at_ with
      | .mem pa => ((s.setGroup x.2).foldAtom x.1).postLine gr (pa / 64)
      | _ => (s.setGroup x.2).foldAtom x.1).Ok := atomPosted_wf (State.foldAtom_wf (State.setGroup_wf hs))
  refine optOk_ite optOk_none (optOk_ite optOk_none ?_)
  dsimp only
  split
  · exact optOk_some (State.killPoison_wf posted)
  next h =>
    have done := (performAtom_wf posted).of_eq h
    refine optOk_some (State.settleGroup_wf ?_)
    split
    · exact State.answer_wf done
    · exact done
theorem holdStep_wf {s : State} {gr : GRef} (hs : s.Ok) : OptOk (holdStep s gr) := by
  unfold holdStep
  dsimp only
  refine optOk_bind ?_
  intro a
  refine optOk_bind ?_
  intro a'
  split
  · split
    · exact optOk_some (State.settleGroup_wf (State.setGroup_wf hs))
    · split
      · exact optOk_none
      · exact optOk_some (State.settleGroup_wf (State.holdUpdate_wf (State.foldAtom_wf (State.setGroup_wf hs))))
  · exact optOk_none
theorem State.engineStore_wf {s : State} {g : Group} {q : StoreReq} (hs : s.Ok) : (s.engineStore g q).Ok := by
  unfold State.engineStore
  dsimp only
  split
  · split
    · exact State.writeAt_wf hs
    · exact bfEnqueueOp_wf hs
  · split
    · exact hs
    · exact hs
theorem State.windowStore_wf {s : State} {g : Group} {q : StoreReq} (hs : s.Ok) : OptOk (s.windowStore g q) := by
  unfold State.windowStore
  dsimp only
  split
  · exact optOk_none
  · split
    · exact optOk_none
    · exact optOk_some (State.spStore_wf (State.chargeLines_wf hs))
  · split
    · exact optOk_none
    · refine optOk_some ?_
      split
      · exact State.storeOwn_wf (State.chargeLines_wf hs)
      · exact State.writeAt_wf (State.chargeLines_wf hs)
  · split
    · exact optOk_none
    · exact optOk_some (State.engineStore_wf hs)
  · split
    · exact optOk_none
    · exact optOk_some (State.engineStore_wf hs)
theorem windowStep_wf {s : State} {gr : GRef} (hs : s.Ok) : OptOk (windowStep s gr) := by
  unfold windowStep
  refine optOk_bind ?_
  intro a
  split
  · exact optOk_bindState (State.windowStore_wf hs) (fun t h => optOk_map (fun a' => State.settleGroup_wf (State.setGroup_wf h)))
  · exact optOk_none
theorem State.cntFault_wf {s : State} {g : Group} {w : Word64 × Word64 × Word64} {cause : ℕ} (hs : s.Ok) : (s.cntFault g w cause).Ok := by
  unfold State.cntFault
  dsimp only
  split
  · exact State.setGroup_wf hs
  · exact State.preciseFault_wf hs
theorem State.recheck_wf {s : State} {gr : GRef} {w : Word64 × Word64 × Word64} (hs : s.Ok) : (s.recheck gr w).Ok := by
  unfold State.recheck
  dsimp only
  split
  · split
    · exact State.startZero_wf hs
    · split
      · exact State.cntFault_wf hs
      · exact hs
    · split
      · exact OptOk.of_eq (State.vaWaits_wf hs) ‹_›
      · split
        · exact State.chargeVa_wf hs
        · exact State.setGroup_wf (State.chargeVa_wf hs)
  · exact hs
theorem linePresentStep_wf {s : State} {tm : TRef} {line : ℕ} (hs : s.Ok) : OptOk (linePresentStep s tm line) := by
  unfold linePresentStep
  dsimp only
  split
  · exact optOk_none
  · exact optOk_some (foldl_ok (fun t x h => State.tryBarriers_wf h) (State.applyHeld_wf hs))

/-! ### Scheduling -/

theorem State.pass_wf {s : State} {n : ℕ} (hs : s.Ok) : (s.pass n).Ok := hs
theorem State.stopWaiting_wf {s : State} {g : Group} (hs : s.Ok) : (s.stopWaiting g).Ok := by
  unfold State.stopWaiting
  split
  · exact hs
  · exact hs
theorem selectStep_wf {s : State} {core part : ℕ} (hs : s.Ok) : OptOk (selectStep s core part) := by
  unfold selectStep
  dsimp only
  split
  · exact optOk_none
  · exact optOk_map (fun a => State.bump_wf (State.stopWaiting_wf (State.setGroup_wf hs)))
theorem execGroupPromotion_wf {g : GRef} {s : State} (hs : s.Ok) : NextOk (execGroupPromotion g s) := by
  unfold execGroupPromotion
  refine event_wf hs ?_
  refine optOk_map ?_
  intro a
  split
  · exact State.setGroup_wf hs
  · exact hs
theorem execPauseExpiry_wf {g : GRef} {s : State} (hs : s.Ok) : NextOk (execPauseExpiry g s) := by
  unfold execPauseExpiry
  refine event_wf hs ?_
  refine optOk_map ?_
  intro a
  split
  · exact hs
  · exact State.setGroup_wf hs
theorem fillStep_wf {s : State} {gr : GRef} {line : ℕ} (hs : s.Ok) : OptOk (fillStep s gr line) := by
  unfold fillStep
  dsimp only
  refine optOk_bind ?_
  intro a
  refine optOk_bind ?_
  intro a'
  refine optOk_bind ?_
  intro a''
  split
  · exact optOk_none
  · split
    · exact optOk_some (State.startZero_wf hs)
    · split
      · exact optOk_some (State.bump_wf hs)
      · exact optOk_some (State.setGroup_wf (State.chargeLines_wf hs))
    · exact optOk_some (State.lineFails_wf hs)
theorem State.saveRegLine_wf {s : State} {g : Group} {line : ℕ} (hs : s.Ok) : (s.saveRegLine g line).Ok := by
  unfold State.saveRegLine
  dsimp only
  split
  · refine State.setGroup_wf ?_
    split
    · exact State.markPoison_wf (foldl_ok (fun t x h => State.homeWrite_wf _ _ _ h) (State.chargeLines_wf hs))
    · exact foldl_ok (fun t x h => State.homeWrite_wf _ _ _ h) (State.chargeLines_wf hs)
  · exact hs
theorem State.writeBack_wf {s : State} {g : Group} {line : ℕ} (hs : s.Ok) : (s.writeBack g line).Ok := by
  unfold State.writeBack
  split
  · exact hs
  · split
    · exact State.startZero_wf hs
    · split
      · exact State.bump_wf hs
      · exact State.saveRegLine_wf hs
    · exact State.lineFails_wf hs
theorem execRegLineWriteback_wf {core : ℕ} {g : GRef} {line : ℕ} {s : State} (hs : s.Ok) : NextOk (execRegLineWriteback core g line s)
    := by
  unfold execRegLineWriteback
  refine event_wf hs ?_
  refine optOk_map ?_
  intro a
  split
  · exact State.writeBack_wf hs
  · exact hs
theorem releaseStep_wf {s : State} {tm : TRef} (hs : s.Ok) : OptOk (releaseStep s tm) := by
  unfold releaseStep
  dsimp only
  refine optOk_bind ?_
  intro a
  split
  · exact optOk_none
  · split
    · exact optOk_some (State.tryEnd_wf (State.noteDigest_wf (State.setTeam_wf hs)))
    · exact optOk_some (State.dropEnded_wf (State.tryEnd_wf (State.noteDigest_wf (State.setTeam_wf hs))))

end Sys2Proof.Machine
end

section
/-!
PROOF. What keeps the memory at the homes in its canonical form: distribution, translation and the host.
-/
namespace Sys2Proof.Machine
open Sys2Proof

/-! ### Queues, placement, swap -/

theorem State.consume_wf {s : State} {qn : ℕ} (hs : s.Ok) : (s.consume qn).Ok := hs
theorem State.rejectHead_wf {s : State} {qn cause : ℕ} {addr : Word64} {p : Packet} (hs : s.Ok) : (s.rejectHead qn cause addr p).Ok := by
  unfold State.rejectHead
  dsimp only
  split
  · refine OptOk.of_eq ?_ ‹_›
    split
    · exact State.counterWaits_wf hs
    · exact optOk_none
  · split
    · exact State.gridCounter_wf (State.record_wf (State.consume_wf hs))
    · exact State.record_wf (State.consume_wf hs)
theorem State.checkDeps_wf {s : State} {qn : ℕ} (hs : s.Ok) : (s.checkDeps qn).Ok := by
  unfold State.checkDeps
  dsimp only
  split
  · split
    · exact State.bump_wf hs
    · split
      · exact State.rejectHead_wf (State.chargeLines_wf hs)
      · exact State.setQueue_wf (foldl_ok (fun t x h => State.startZero_wf h) (State.chargeLines_wf hs))
  · exact hs
theorem headStep_wf {s : State} {qn : ℕ} (hs : s.Ok) : OptOk (headStep s qn) := by
  unfold headStep
  dsimp only
  refine optOk_bind ?_
  intro a
  split
  · exact optOk_none
  · split
    · exact optOk_some (OptOk.of_eq (State.waitZero_wf hs) ‹_›)
    · split
      · split
        · exact optOk_some (State.bump_wf hs)
        · exact optOk_some (State.record_wf (State.consume_wf (State.chargeVa_wf hs)))
      · split
        · exact optOk_some (State.bump_wf hs)
        · split
          · exact optOk_some (State.rejectHead_wf (State.chargeVa_wf (State.chargeVa_wf hs)))
          · exact optOk_some (State.checkDeps_wf (State.setQueue_wf (State.chargeVa_wf (State.chargeVa_wf hs))))
theorem execDepCounterRecheck_wf {q : ℕ} {s : State} (hs : s.Ok) : NextOk (execDepCounterRecheck q s) := by
  unfold execDepCounterRecheck
  refine event_wf hs ?_
  split
  · exact optOk_some (State.checkDeps_wf hs)
  · exact optOk_none
theorem State.prefOf_wf {s : State} {c : Context} {p : Packet} {T : ℕ} (hs : s.Ok) : ExceptOk (s.prefOf c p T) := by
  unfold State.prefOf
  dsimp only
  split
  · exact trivial
  · split
    · exact OptOk.of_eq (State.vaWaits_wf hs) ‹_›
    · split
      · exact trivial
      · exact trivial
  · exact trivial
theorem State.chargePref_wf {s : State} {c : Context} {p : Packet} {T : ℕ} (hs : s.Ok) : (s.chargePref c p T).Ok := by
  unfold State.chargePref
  split
  · exact State.chargeVa_wf hs
  · exact hs
theorem State.fixWish_wf {s : State} {grid : ℕ} (hs : s.Ok) : (s.fixWish grid).Ok := by
  unfold State.fixWish
  split
  · split
    · exact hs
    · split
      · exact State.chargePref_wf (State.setGrid_wf hs)
      · exact ExceptOk.of_error (State.prefOf_wf hs) ‹_›
  · exact hs
theorem gridStartStep_wf {s : State} (hs : s.Ok) : OptOk (gridStartStep s) := by
  unfold gridStartStep
  dsimp only
  split
  · exact optOk_none
  · exact optOk_bind (fun a => optOk_map (fun a' => State.fixWish_wf hs))
theorem State.referAgain_wf {s : State} {tm : TRef} (hs : s.Ok) : (s.referAgain tm).Ok := hs
theorem State.seat_wf {s : State} {t : Team} (hs : s.Ok) : (s.seat t).Ok := by
  unfold State.seat
  dsimp only
  refine State.referAgain_wf ?_
  refine foldl_ok ?_ hs
  intro t' x h
  split
  · exact h
  · exact State.setGroup_wf h
theorem State.freshen_wf {s : State} {t : Team} (hs : s.Ok) : (s.freshen t).Ok := by
  unfold State.freshen
  exact foldl_ok (fun t' x h => State.codeInvalidate_wf (State.renew_wf h)) hs
theorem State.tryExitAll_wf {s : State} {tm : TRef} (hs : s.Ok) : (s.tryExitAll tm).Ok := by
  unfold State.tryExitAll
  split
  · split
    · exact State.tryExit_wf hs
    · exact hs
  · exact hs
theorem placeStep_wf {s : State} {grid : ℕ} (hs : s.Ok) : OptOk (placeStep s grid) := by
  unfold placeStep
  dsimp only
  refine optOk_bind ?_
  intro a
  split
  · exact optOk_none
  · split
    · exact optOk_some (State.fixWish_wf hs)
    · split
      · exact optOk_some (State.setGrid_wf hs)
      · split
        · exact optOk_none
        · exact optOk_some (State.tryExitAll_wf (State.fixWish_wf (State.freshen_wf (State.seat_wf hs))))
theorem swapTriggerStep_wf {s : State} {grid : ℕ} (hs : s.Ok) : OptOk (swapTriggerStep s grid) := by
  unfold swapTriggerStep
  dsimp only
  refine optOk_bind ?_
  intro a
  refine optOk_bind ?_
  intro a'
  split
  · exact optOk_none
  · split
    · split
      · refine optOk_some ?_
        split
        · exact State.setTeam_wf (State.setGrid_wf hs)
        · exact State.setGrid_wf hs
      · exact optOk_none
    · refine optOk_map ?_
      intro a''
      split
      · exact State.setTeam_wf (State.setGrid_wf hs)
      · split
        · exact State.setTeam_wf (State.setTeam_wf (State.setGrid_wf hs))
        · exact State.setTeam_wf (State.setGrid_wf hs)
theorem State.regWrite_wf {s : State} {c : Context} {core : ℕ} {va : Word64} {l : List (ℕ × Byte)} (hs : s.Ok)
    : (s.regWrite c core va l).Ok := by
  unfold State.regWrite
  exact foldl_ok (fun t x h => State.homeScatter_wf _ _ h) hs
theorem State.saveBf_wf {s : State} {c : Context} {g : Grid} {t : Team} (hs : s.Ok) : (s.saveBf c g t).1.Ok := by
  unfold State.saveBf
  refine foldl_fst_ok (fun p x h => ?_) hs
  exact State.setBf_wf (State.regWrite_wf h)
theorem State.beginLeave_wf {s : State} {tm : TRef} (hs : s.Ok) : (s.beginLeave tm).Ok := by
  unfold State.beginLeave
  dsimp only
  exact foldl_ok (fun t x h => State.preemptSheet_wf h) hs
theorem swapOutStep_wf {s : State} {tm : TRef} (hs : s.Ok) : OptOk (swapOutStep s tm) := by
  unfold swapOutStep
  refine optOk_bind fun t => optOk_bind fun g => optOk_bind fun c => ?_
  have left : (s.beginLeave tm).Ok := State.beginLeave_wf hs
  dsimp only
  split
  · exact optOk_none
  · split
    · exact optOk_some left
    · split
      · exact optOk_some (State.startZero_wf left)
      · exact optOk_some (State.killTeamAt_wf left)
      · split
        · exact optOk_some (State.killTeamAt_wf left)
        · split
          · exact optOk_some (State.bump_wf left)
          · refine optOk_some (State.regWrite_wf (foldl_ok (fun t x h => foldl_ok (fun u l h => ?_) h) ?_))
            · split
              · exact State.saveRegLine_wf h
              · exact h
            · exact State.saveBf_wf (State.chargeLines_wf (State.postTeam_wf _ left))
theorem State.restoreBf_wf {s : State} {c : Context} {g : Grid} {t : Team} (hs : s.Ok) : (s.restoreBf c g t).Ok := by
  unfold State.restoreBf
  dsimp only
  exact foldl_ok (fun t' x h => foldl_ok (fun t'' x' h' => bfDoneAll_wf h') (State.setBf_wf h)) hs
theorem State.restoreWaits_wf {s : State} {c : Context} {g : Grid} {t : Team} (hs : s.Ok) : OptOk (s.restoreWaits c g t) := by
  unfold State.restoreWaits
  exact optOk_findSome? (fun x => bfHeldUp_wf hs)
theorem resumeStep_wf {s : State} {tm : TRef} (hs : s.Ok) : OptOk (resumeStep s tm) := by
  unfold resumeStep
  dsimp only
  refine optOk_bind ?_
  intro a
  refine optOk_bind ?_
  intro a'
  refine optOk_bind ?_
  intro a''
  split
  · split
    · exact optOk_some (State.chargePref_wf (State.setTeam_wf hs))
    · exact optOk_some (ExceptOk.of_error (State.prefOf_wf hs) ‹_›)
  · split
    · exact optOk_some (State.setTeam_wf hs)
    · split
      · exact optOk_none
      · split
        · exact optOk_some (State.startZero_wf hs)
        · exact optOk_some (State.killTeamAt_wf hs)
        · split
          · exact optOk_some (State.killTeamAt_wf hs)
          · split
            · exact optOk_some (State.bump_wf hs)
            · exact optOk_or (State.restoreWaits_wf hs) (optOk_some (State.freshen_wf (State.seat_wf (State.setGrid_wf
                (State.setTeam_wf (State.restoreBf_wf (State.chargeLines_wf hs)))))))
theorem State.cancelSaved_wf {s : State} {t : Team} {i : ℕ} {c : BfCmd} (hs : s.Ok) : (s.cancelSaved t i c).Ok := by
  unfold State.cancelSaved
  dsimp only
  refine OptOk.getD (optOk_or (bfCancelWaits_wf hs) (bfHeldUp_wf hs)) ?_
  split
  · exact State.setTeam_wf hs
  · exact bfDoneAll_wf (State.taintXfer_wf (State.setTeam_wf hs))
theorem killCompleteStep_wf {s : State} {grid : ℕ} (hs : s.Ok) : OptOk (killCompleteStep s grid) := by
  unfold killCompleteStep
  dsimp only
  refine optOk_bind ?_
  intro a
  refine optOk_bind ?_
  intro a'
  split
  · exact optOk_none
  · split
    · exact optOk_some (State.cancelSaved_wf hs)
    · exact optOk_or (State.counterWaits_wf hs) (optOk_some (State.record_wf (State.gridCounter_wf (State.postGrid_wf _ hs))))

/-! ### Translation and zeroing -/

theorem State.holdHost_wf {s : State} {c : Context} {pa : ℕ} (hs : s.Ok) : (s.holdHost c pa).Ok := by
  unfold State.holdHost
  dsimp only
  split
  · exact hs
  · exact hs
theorem pageWalkStep_wf {s : State} {unit asid : ℕ} {va : Word64} (hs : s.Ok) : OptOk (pageWalkStep s unit asid va) := by
  unfold pageWalkStep
  dsimp only
  refine optOk_bind ?_
  intro a
  refine optOk_map ?_
  intro a'
  split
  · exact State.bump_wf hs
  · split
    · exact State.startZero_wf hs
    · exact State.bump_wf (State.chargeLines_wf hs)
    · refine State.bump_wf ?_
      split
      · exact State.chargeLines_wf hs
      · exact State.holdHost_wf (State.chargeLines_wf hs)
theorem State.dropZwalk_wf {s : State} {n : ℕ} (hs : s.Ok) : (s.dropZwalk n).Ok := hs
theorem zbRecheckStep_wf {s : State} {n : ℕ} (hs : s.Ok) : OptOk (zbRecheckStep s n) := by
  unfold zbRecheckStep
  dsimp only
  refine optOk_bind ?_
  intro a
  split
  · exact optOk_none
  · split
    · exact optOk_some (State.bump_wf hs)
    · split
      · exact optOk_some (State.tryEnds_wf (State.dropZwalk_wf (State.chargeLines_wf hs)))
      · split
        · exact optOk_some (State.chargeLines_wf hs)
        · exact optOk_some (State.homeWrite_wf _ _ _ (State.chargeLines_wf hs))
theorem State.zeroPage_wf {s : State} {asid pa bytes : ℕ} (hs : s.Ok) : (s.zeroPage asid pa bytes).Ok := by
  unfold State.zeroPage
  dsimp only
  exact foldl_ok (fun t x h => foldl_ok (fun t' x' h' => State.growView_wf h') (State.homeWrite_wf _ _ _ h)) hs
theorem pageZeroedStep_wf {s : State} {n : ℕ} (hs : s.Ok) : OptOk (pageZeroedStep s n) := by
  unfold pageZeroedStep
  dsimp only
  refine optOk_bind ?_
  intro a
  split
  · exact optOk_none
  · refine optOk_some ?_
    refine State.tryEnds_wf ?_
    refine State.dropZwalk_wf ?_
    split
    · exact State.homeWrite_wf _ _ _ (State.zeroPage_wf hs)
    · exact State.zeroPage_wf hs

/-! ### The device and its host -/

theorem State.onQueue_wf {s : State} {qn : ℕ} {f : Queue → Queue} (hs : s.Ok) : (s.onQueue qn f).Ok := by
  unfold State.onQueue
  split
  · exact State.setQueue_wf hs
  · exact hs
theorem execQwriteWrite_wf {q : ℕ} {w : BarWrite} {s : State} (hs : s.Ok) : NextOk (execQwriteWrite q w s) := by
  unfold execQwriteWrite
  refine event_wf hs ?_
  split
  · exact optOk_some (State.onQueue_wf hs)
  · exact optOk_none
theorem pfOnly_wf {fn : ℕ} {s : State} {o : Option State} (hs : s.Ok) (ho : OptOk o) : NextOk (pfOnly fn s o) := by
  unfold pfOnly
  refine event_wf hs ?_
  split
  · exact ho
  · exact optOk_none
theorem execQctlDisable_wf {q : ℕ} {w : BarWrite} {s : State} (hs : s.Ok) : NextOk (execQctlDisable q w s) := by
  unfold execQctlDisable
  refine pfOnly_wf hs ?_
  split
  · exact optOk_some (State.onQueue_wf hs)
  · exact optOk_none
theorem execQctlEnable_wf {q : ℕ} {w : BarWrite} {s : State} (hs : s.Ok) : NextOk (execQctlEnable q w s) := by
  unfold execQctlEnable
  refine pfOnly_wf hs ?_
  split
  · exact optOk_some (State.onQueue_wf hs)
  · exact optOk_none
theorem execQctlReconfigure_wf {q : ℕ} {w : BarWrite} {s : State} (hs : s.Ok) : NextOk (execQctlReconfigure q w s) := by
  unfold execQctlReconfigure
  refine pfOnly_wf hs ?_
  split
  · exact optOk_some (State.onQueue_wf hs)
  · exact optOk_none
theorem State.killWhere_wf {s : State} {p : Grid → Bool} {cause : ℕ} (hs : s.Ok) : (s.killWhere p cause).Ok := by
  unfold State.killWhere
  exact foldl_ok (fun t x h => State.killCause_wf h) hs
theorem State.queueOp_wf {s : State} {op : DevOp} (hs : s.Ok) : (s.queueOp op).Ok := by
  unfold State.queueOp
  dsimp only
  split
  · exact hs
  · exact hs
theorem State.popOp_wf {s : State} {op : DevOp} (hs : s.Ok) : (s.popOp op).Ok := hs
theorem State.replayNow_wf {s : State} {asid : ℕ} (hs : s.Ok) : (s.replayNow asid).Ok := by
  unfold State.replayNow
  split
  · exact State.setCtx_wf hs
  · exact hs
theorem execReplay_wf {w : BarWrite} {s : State} (hs : s.Ok) : NextOk (execReplay w s) := by
  unfold execReplay
  refine pfOnly_wf hs ?_
  split
  · exact optOk_some (State.replayNow_wf hs)
  · exact optOk_none
theorem execGridkill_wf {w : BarWrite} {s : State} (hs : s.Ok) : NextOk (execGridkill w s) := by
  unfold execGridkill
  refine pfOnly_wf hs ?_
  split
  · exact optOk_some (State.killWhere_wf (State.queueOp_wf hs))
  · exact optOk_none
theorem invalWrite_wf {scope fn : ℕ} {v : Word64} {s : State} (hs : s.Ok) : NextOk (invalWrite scope fn v s) := by
  unfold invalWrite
  refine pfOnly_wf hs ?_
  split
  · exact optOk_some (State.queueOp_wf hs)
  · exact optOk_none
theorem State.dropTlb_wf {s : State} {p : TlbEntry → Bool} (hs : s.Ok) : (s.dropTlb p).Ok := hs
theorem State.dropWaiting_wf {s : State} {p : ℕ → Bool} {covers : Word64 → Bool} (hs : s.Ok) : (s.dropWaiting p covers).Ok := by
  unfold State.dropWaiting
  split
  · exact State.tryEnds_wf hs
  · exact hs
theorem State.endInval_wf {s : State} {scope pages asid : ℕ} {addr : Word64} (hs : s.Ok) : (s.endInval scope pages asid addr).Ok := by
  unfold State.endInval
  dsimp only
  split
  · exact State.dropWaiting_wf (State.dropTlb_wf hs)
  · exact State.popOp_wf (State.dropWaiting_wf (State.dropTlb_wf hs))
theorem State.endAts_wf {s : State} (hs : s.Ok) : s.endAts.Ok := by
  unfold State.endAts
  split
  · split
    · exact hs
    · exact State.popOp_wf hs
  · exact hs
theorem invalidationStep_wf {s : State} (hs : s.Ok) : OptOk (invalidationStep s) := by
  unfold invalidationStep
  split
  · exact optOk_some (State.endInval_wf (State.endAts_wf hs))
  · exact optOk_some (State.endAts_wf hs)
theorem State.endSync_wf {s : State} {asid : ℕ} {bad : Bool} (hs : s.Ok) : (s.endSync asid bad).Ok := hs
theorem State.dropCtx_wf {s : State} {asid : ℕ} (hs : s.Ok) : (s.dropCtx asid).Ok := hs
theorem State.downContext_wf {s : State} {asid : ℕ} {bad : Bool} (hs : s.Ok) : (s.downContext asid bad).Ok := by
  unfold State.downContext
  dsimp only
  split
  · exact State.killWhere_wf hs
  · exact State.endSync_wf (State.dropCtx_wf (State.killWhere_wf hs))
theorem syncStep_wf {s : State} (hs : s.Ok) : OptOk (syncStep s) := by
  unfold syncStep
  dsimp only
  split
  · split
    · exact optOk_some (State.endSync_wf hs)
    · split
      · exact optOk_some (State.downContext_wf hs)
      · split
        · exact optOk_some (State.downContext_wf hs)
        · split
          · exact optOk_some (State.endSync_wf hs)
          · split
            · exact optOk_some (State.endSync_wf (State.setCtx_wf hs))
            · split
              · exact optOk_some (State.dropWaiting_wf (State.dropTlb_wf hs))
              · exact optOk_some (State.endSync_wf (State.setCtx_wf (State.dropWaiting_wf (State.dropTlb_wf hs))))
  · exact optOk_none
theorem attestStep_wf {s : State} (hs : s.Ok) : OptOk (attestStep s) := by
  unfold attestStep
  dsimp only
  exact optOk_map (fun a => State.popOp_wf (State.outsideWrite_wf _ _ hs))
theorem execPowerOn_wf {s : State} (hs : s.Ok) : NextOk (execPowerOn s) := by
  unfold execPowerOn
  dsimp only
  refine event_wf hs ?_
  split
  · exact optOk_some hs
  · exact optOk_none
theorem execFirmwareWindowWrite_wf {at_ : BarPlace} {bytes : List Byte} {s : State} (hs : s.Ok)
    : NextOk (execFirmwareWindowWrite at_ bytes s) := by
  unfold execFirmwareWindowWrite
  dsimp only
  refine pfOnly_wf hs ?_
  split
  · exact optOk_some hs
  · exact optOk_none
theorem execFwctlVerify_wf {w : BarWrite} {s : State} (hs : s.Ok) : NextOk (execFwctlVerify w s) := by
  unfold execFwctlVerify
  dsimp only
  refine pfOnly_wf hs ?_
  split
  · exact optOk_some hs
  · exact optOk_none
theorem execFwctlRestart_wf {w : BarWrite} {s : State} (hs : s.Ok) : NextOk (execFwctlRestart w s) := by
  unfold execFwctlRestart
  dsimp only
  refine pfOnly_wf hs ?_
  split
  · exact optOk_some hs
  · exact optOk_none
theorem verifyStep_wf {s : State} (hs : s.Ok) : OptOk (verifyStep s) := by
  unfold verifyStep
  dsimp only
  split
  · exact optOk_none
  · split
    · exact optOk_some (Home.withCaps_wf hs)
    · exact optOk_some hs
theorem execRegisterWrite_wf {off : ℕ} {w : BarWrite} {s : State} (hs : s.Ok) : NextOk (execRegisterWrite off w s) := by
  unfold execRegisterWrite
  refine pfOnly_wf hs ?_
  split
  · exact optOk_some hs
  · exact optOk_none
theorem State.deliver_wf {s : State} {pas : List ℕ} (hs : s.Ok) : (s.deliver pas).Ok := hs
theorem State.outsideAccess_wf {s : State} {pa : ℕ} {a : HostAccess} (hs : s.Ok) : (s.outsideAccess pa a).Ok := by
  unfold State.outsideAccess
  split
  · exact State.outsideWrite_wf _ _ hs
  · exact State.deliver_wf hs
theorem execHostMemoryWrite_wf {pa : ℕ} {bytes : List Byte} {s : State} (hs : s.Ok) : NextOk (execHostMemoryWrite pa bytes s) := by
  unfold execHostMemoryWrite
  refine event_wf hs ?_
  split
  · exact optOk_some (State.outsideAccess_wf hs)
  · exact optOk_none
theorem execHostMemoryRead_wf {pa n : ℕ} {s : State} (hs : s.Ok) : NextOk (execHostMemoryRead pa n s) := by
  unfold execHostMemoryRead
  refine event_wf hs ?_
  split
  · exact optOk_some (State.outsideAccess_wf hs)
  · exact optOk_none
theorem State.onesFor_wf {s : State} {x : HostAccess} (hs : s.Ok) : (s.onesFor x).Ok := by
  unfold State.onesFor
  dsimp only
  split
  · exact hs
  · exact hs
theorem vfStep_wf {s : State} {vf : ℕ} {va : Word64} {a : HostAccess} (hs : s.Ok) : (vfStep s vf va a).Ok := by
  unfold vfStep
  dsimp only
  split
  · exact State.onesFor_wf hs
  · split
    · exact OptOk.of_eq (State.waitZero_wf hs) ‹_›
    · split
      · exact State.record_wf (State.onesFor_wf hs)
      · split
        · exact State.deliver_wf hs
        · exact foldl_ok (fun t x h => State.homeScatter_wf _ _ h) hs
theorem execVfApertureAccess_wf {vf : ℕ} {va : Word64} {acc : HostAccess} {s : State} (hs : s.Ok)
    : NextOk (execVfApertureAccess vf va acc s) := by
  unfold execVfApertureAccess
  refine event_wf hs ?_
  split
  · exact optOk_none
  · split
    · exact optOk_some (vfStep_wf hs)
    · exact optOk_some (State.onesFor_wf hs)
theorem execPeerAccess_wf {src pa : ℕ} {acc : HostAccess} {s : State} (hs : s.Ok) : NextOk (execPeerAccess src pa acc s) := by
  unfold execPeerAccess
  refine event_wf hs ?_
  split
  · exact optOk_some (State.outsideAccess_wf hs)
  · exact optOk_none
theorem State.dropAtc_wf {s : State} {pasid page pages : ℕ} (hs : s.Ok) : (s.dropAtc pasid page pages).Ok := hs
theorem State.tryWaiting_wf {s : State} (hs : s.Ok) : s.tryWaiting.Ok := by
  unfold State.tryWaiting
  dsimp only
  refine State.tryEnds_wf ?_
  refine foldl_ok (fun t x h => State.tryBarriers_wf h) ?_
  refine foldl_ok ?_ hs
  intro t x h
  split
  · exact State.tryExit_wf h
  · exact h
theorem budgetStep_wf {s : State} (hs : s.Ok) : OptOk (budgetStep s) := by
  unfold budgetStep
  dsimp only
  split
  · exact optOk_none
  · exact optOk_some (State.tryWaiting_wf hs)
theorem throttleStep_wf {s : State} {h : Heat} (hs : s.Ok) : OptOk (throttleStep s h) := by
  unfold throttleStep
  dsimp only
  split
  · exact optOk_none
  · exact optOk_some hs
theorem execThermalTrip_wf {heat : Heat} {s : State} (hs : s.Ok) : NextOk (execThermalTrip heat s) := by
  unfold execThermalTrip
  dsimp only
  refine event_wf hs ?_
  split
  · exact optOk_some (State.killWhere_wf hs)
  · exact optOk_none
theorem State.poisonSite_wf {s : State} {x : PoisonSite} (hs : s.Ok) : (s.poisonSite x).Ok := by
  unfold State.poisonSite
  dsimp only
  split
  · exact hs
  · split
    · exact State.setTeam_wf hs
    · exact hs
  · split
    · exact State.setGroup_wf hs
    · exact hs
  · split
    · exact State.setTeam_wf hs
    · exact hs
  · exact State.setBf_wf hs
  · exact State.setBf_wf hs
theorem dieErrorStep_wf {s : State} {u : SharedUnit} (hs : s.Ok) : (dieErrorStep s u).Ok := by
  unfold dieErrorStep
  split
  · exact State.dropTlb_wf hs
  · exact State.codeInvalidate_wf hs
  · exact State.sendMsi_wf (State.killWhere_wf hs)

/-! ### Every instruction and every event -/

theorem exec_wf {i : Instr} {s : State} (hs : s.Ok) : NextOk (exec i s) := by
  cases i with
  | add _ | sub _ | addc _ | mul _ | mulh _ | mad _ | madw _ | neg _ | abs _ | min _ | max _ | and _ | or _ | xor _ | not _
  | andn _ | shl _ | shr _ | sar _ | rotl _ | fshl _ | popc _ | clz _ | ctz _ | brev _ | bfx _ | bfi _ | sel _ | cmp _ | mov _
  | lea _ | fadd _ | fsub _ | fmul _ | ffma _ | fmin _ | fmax _ | fcmp _ | fclass _ | frnd _ | fscl _ | hadd2 _ | hmul2 _ | hfma2 _
  | fsel _ | dadd _ | dmul _ | dfma _ | dcmp _ | cvt _ | pack _ | unpack _ | xlo _ | xhi _ | xstg _ | pset _ | ppop _ | pmask _
  | taint _ | flagr _ =>
    exact laneFixed_wf hs
  | div _ | rem _ | fdiv _ | fsqrt _ | frcp _ | frsq _ | fexp2 _ | flog2 _ | ddiv _ | dsqrt _ =>
    exact laneVariable_wf hs
  | movw _ => exact execMovw_wf hs
  | addImm o => exact (laneImm_wf hs : NextOk (execAddImm o s))
  | mulImm o => exact (laneImm_wf hs : NextOk (execMulImm o s))
  | andImm o => exact (laneImm_wf hs : NextOk (execAndImm o s))
  | orImm o => exact (laneImm_wf hs : NextOk (execOrImm o s))
  | xorImm o => exact (laneImm_wf hs : NextOk (execXorImm o s))
  | shlImm o => exact (laneImm_wf hs : NextOk (execShlImm o s))
  | shrImm o => exact (laneImm_wf hs : NextOk (execShrImm o s))
  | sarImm o => exact (laneImm_wf hs : NextOk (execSarImm o s))
  | rotlImm o => exact (laneImm_wf hs : NextOk (execRotlImm o s))
  | uadd o => exact (uniFixed_wf hs : NextOk (execUadd o s))
  | usub o => exact (uniFixed_wf hs : NextOk (execUsub o s))
  | umul o => exact (uniFixed_wf hs : NextOk (execUmul o s))
  | umulh o => exact (uniFixed_wf hs : NextOk (execUmulh o s))
  | uand o => exact (uniFixed_wf hs : NextOk (execUand o s))
  | uor o => exact (uniFixed_wf hs : NextOk (execUor o s))
  | uxor o => exact (uniFixed_wf hs : NextOk (execUxor o s))
  | ushl o => exact (uniFixed_wf hs : NextOk (execUshl o s))
  | ushr o => exact (uniFixed_wf hs : NextOk (execUshr o s))
  | usar o => exact (uniFixed_wf hs : NextOk (execUsar o s))
  | umin o => exact (uniFixed_wf hs : NextOk (execUmin o s))
  | umax o => exact (uniFixed_wf hs : NextOk (execUmax o s))
  | ucmp o => exact (uniFixed_wf hs : NextOk (execUcmp o s))
  | umov _ => exact execUmov_wf hs
  | umovw _ => exact execUmovw_wf hs
  | ulea o => exact (uniFixed_wf hs : NextOk (execUlea o s))
  | udiv _ => exact execUdiv_wf hs
  | urdv _ => exact execUrdv_wf hs
  | uaddImm o => exact (uniImm_wf hs : NextOk (execUaddImm o s))
  | umulImm o => exact (uniImm_wf hs : NextOk (execUmulImm o s))
  | uandImm o => exact (uniImm_wf hs : NextOk (execUandImm o s))
  | uorImm o => exact (uniImm_wf hs : NextOk (execUorImm o s))
  | uxorImm o => exact (uniImm_wf hs : NextOk (execUxorImm o s))
  | ushlImm o => exact (uniImm_wf hs : NextOk (execUshlImm o s))
  | ushrImm o => exact (uniImm_wf hs : NextOk (execUshrImm o s))
  | usarImm o => exact (uniImm_wf hs : NextOk (execUsarImm o s))
  | qblk _ => exact execQblk_wf hs
  | xld _ => exact execXld_wf hs
  | xmovv o => exact (xFixed_wf hs : NextOk (execXmovv o s))
  | xpin _ => exact execXpin_wf hs
  | xmov o => exact (xFixed_wf hs : NextOk (execXmov o s))
  | xadd o => exact (xArith_wf hs : NextOk (execXadd o s))
  | xsub o => exact (xArith_wf hs : NextOk (execXsub o s))
  | xmul o => exact (xArith_wf hs : NextOk (execXmul o s))
  | xfma o => exact (xArith_wf hs : NextOk (execXfma o s))
  | xdiv _ => exact execXdiv_wf hs
  | xneg o => exact (xArith_wf hs : NextOk (execXneg o s))
  | xabs o => exact (xArith_wf hs : NextOk (execXabs o s))
  | xmin o => exact (xArith_wf hs : NextOk (execXmin o s))
  | xmax o => exact (xArith_wf hs : NextOk (execXmax o s))
  | xcmp _ => exact execXcmp_wf hs
  | xsgn _ => exact execXsgn_wf hs
  | xsever o => exact (xFixed_wf hs : NextOk (execXsever o s))
  | xref _ => exact execXref_wf hs
  | xst _ => exact execXst_wf hs
  | xlogq _ => exact execXlogq_wf hs
  | pnot o => exact (predFixed_wf hs : NextOk (execPnot o s))
  | pand o => exact (predFixed_wf hs : NextOk (execPand o s))
  | por o => exact (predFixed_wf hs : NextOk (execPor o s))
  | pxor o => exact (predFixed_wf hs : NextOk (execPxor o s))
  | pdup o => exact (predFixed_wf hs : NextOk (execPdup o s))
  | bra _ => exact execBra_wf hs
  | bru _ => exact execBru_wf hs
  | brx o => exact (indirect_wf hs : NextOk (execBrx o s))
  | call _ => exact execCall_wf hs
  | ret o => exact (indirect_wf hs : NextOk (execRet o s))
  | exit _ => exact execExit_wf hs
  | nop _ => exact execNop_wf hs
  | pause _ => exact execPause_wf hs
  | shfl _ => exact execShfl_wf hs
  | vote _ => exact execVote_wf hs
  | ballot _ => exact execBallot_wf hs
  | matchLanes _ => exact execMatchLanes_wf hs
  | compact _ => exact execCompact_wf hs
  | redux _ => exact execRedux_wf hs
  | scan _ => exact execScan_wf hs
  | elect _ => exact execElect_wf hs
  | isect _ => exact execIsect_wf hs
  | merge _ => exact execMerge_wf hs
  | ld _ => exact execLd_wf hs
  | st _ => exact execSt_wf hs
  | ldu _ => exact execLdu_wf hs
  | stu _ => exact execStu_wf hs
  | pref _ => exact execPref_wf hs
  | atom o => exact (laneAtom_wf hs : NextOk (execAtom o s))
  | red o => exact (laneAtom_wf hs : NextOk (execRed o s))
  | atomu _ => exact execAtomu_wf hs
  | phase o => exact (effectWord_wf hs : NextOk (execPhase o s))
  | fence o => exact (effectWord_wf hs : NextOk (execFence o s))
  | cfence o => exact (effectWord_wf hs : NextOk (execCfence o s))
  | bar _ => exact execBar_wf hs
  | ordw _ => exact execOrdw_wf hs
  | ordd o => exact (effectWord_wf hs : NextOk (execOrdd o s))
  | cntwait _ => exact execCntwait_wf hs
  | tfence _ => exact execTfence_wf hs
  | copy _ => exact execCopy_wf hs
  | gather _ => exact execGather_wf hs
  | coll _ => exact execColl_wf hs
  | launch _ => exact execLaunch_wf hs
  | ftest _ => exact execFtest_wf hs
  | fwait _ => exact execFwait_wf hs
  | fcancel _ => exact execFcancel_wf hs
  | fmov _ => exact execFmov_wf hs
  | fstat _ => exact execFstat_wf hs
  | bfacq _ => exact execBfacq_wf hs
  | bfrel _ => exact execBfrel_wf hs
  | osclaim o => exact (bfAnswer_wf hs : NextOk (execOsclaim o s))
  | osrel o => exact (bfEffect_wf hs : NextOk (execOsrel o s))
  | osfill o => exact (bfCommand_wf hs : NextOk (execOsfill o s))
  | ossave o => exact (bfCommand_wf hs : NextOk (execOssave o s))
  | bstset o => exact (bfEffect_wf hs : NextOk (execBstset o s))
  | bfstage o => exact (stageWord_wf hs : NextOk (execBfstage o s))
  | bfchain o => exact (stageWord_wf hs : NextOk (execBfchain o s))
  | bfzero o => exact (bfCommand_wf hs : NextOk (execBfzero o s))
  | bfdrain _ => exact execBfdrain_wf hs
  | bfscale o => exact (bfAnswer_wf hs : NextOk (execBfscale o s))
  | gangset o => exact (bfEffect_wf hs : NextOk (execGangset o s))
  | swbind _ => exact execSwbind_wf hs
  | swrun _ => exact execSwrun_wf hs
  | swwake o => exact (pokeWord_wf hs : NextOk (execSwwake o s))
  | swpoke o => exact (pokeWord_wf hs : NextOk (execSwpoke o s))
  | swstat _ => exact execSwstat_wf hs
  | trap _ => exact execTrap_wf hs
  | tret _ => exact execTret_wf hs
  | csrr _ => exact execCsrr_wf hs
  | csrw _ => exact execCsrw_wf hs
  | kill _ => exact execKill_wf hs
  | clock _ => exact execClock_wf hs
  | brkpt _ => exact execBrkpt_wf hs
  | digest _ => exact execDigest_wf hs
  | tlbq _ => exact execTlbq_wf hs
  | href _ => exact execHref_wf hs
  | hpf _ => exact execHpf_wf hs
  | hsch _ => exact execHsch_wf hs
  | hintNop _ => exact execHintNop_wf hs
  | pairedWord _ => exact execPairedWord_wf hs
  | issueSlotSelect _ _ => exact event_wf hs (selectStep_wf hs)
  | groupPromotion _ => exact execGroupPromotion_wf hs
  | pauseExpiry _ => exact execPauseExpiry_wf hs
  | regLineFill _ _ => exact event_wf hs (fillStep_wf hs)
  | regLineWriteback _ _ _ => exact execRegLineWriteback_wf hs
  | runCommit _ => exact event_wf hs (commitStep_wf hs)
  | deferredWrite _ => exact event_wf hs (deferredStep_wf hs)
  | teamScratchRelease _ => exact event_wf hs (releaseStep_wf hs)
  | detUpdateHold _ => exact event_wf hs (holdStep_wf hs)
  | atomicPerform _ => exact event_wf hs (atomicStep_wf hs)
  | viewAdvance _ _ => exact event_wf hs (optOk_some (State.bump_wf (State.growView_wf hs)))
  | linePresent _ _ => exact event_wf hs (linePresentStep_wf hs)
  | windowAccessArrive _ => exact event_wf hs (windowStep_wf hs)
  | cntwaitRecheck _ => exact event_wf hs (optOk_map (fun a => foldl_ok (fun t x h => State.recheck_wf h) hs))
  | pageWalk _ _ _ => exact event_wf hs (pageWalkStep_wf hs)
  | zbRecheck _ => exact event_wf hs (zbRecheckStep_wf hs)
  | pageZeroed _ => exact event_wf hs (pageZeroedStep_wf hs)
  | referralDecide _ => exact event_wf hs (referralStep_wf hs)
  | copyLineWrite _ _ => exact event_wf hs (copyStep_wf hs)
  | copyComplete _ => exact execCopyComplete_wf hs
  | gatherComplete _ => exact execGatherComplete_wf hs
  | collComplete _ => exact event_wf hs (collStep_wf hs)
  | collAbort _ => exact event_wf hs (collAbortStep_wf hs)
  | launchEnqueue _ => exact event_wf hs (launchStep_wf hs)
  | bfCommandPerform _ => exact event_wf hs (bfPerformStep_wf hs)
  | bfStagePass _ => exact event_wf hs (bfPassStep_wf hs)
  | swrunStart _ _ => exact event_wf hs (swStartStep_wf hs)
  | sweep _ _ => exact event_wf hs (sweepStep_wf hs)
  | headExamine _ => exact event_wf hs (headStep_wf hs)
  | depCounterRecheck _ => exact execDepCounterRecheck_wf hs
  | gridStart => exact event_wf hs (gridStartStep_wf hs)
  | teamPlace _ => exact event_wf hs (placeStep_wf hs)
  | placementTimeout _ | hostLinkDown | portLoss _ | hostLinkUp | vernalLinkPortUp _ =>
    exact event_wf hs (optOk_some hs)
  | swapTrigger _ => exact event_wf hs (swapTriggerStep_wf hs)
  | teamSwapOut _ => exact event_wf hs (swapOutStep_wf hs)
  | teamResume _ => exact event_wf hs (resumeStep_wf hs)
  | killComplete _ => exact event_wf hs (killCompleteStep_wf hs)
  | qwriteWrite _ _ => exact execQwriteWrite_wf hs
  | qctlDisable _ _ => exact execQctlDisable_wf hs
  | qctlEnable _ _ => exact execQctlEnable_wf hs
  | qctlReconfigure _ _ => exact execQctlReconfigure_wf hs
  | qbaseWrite q v => exact (pfOnly_wf hs (optOk_some (State.onQueue_wf hs)) : NextOk (execQbaseWrite q v s))
  | ctxsync v => exact (pfOnly_wf hs (optOk_some (State.queueOp_wf hs)) : NextOk (execCtxsync v s))
  | syncDone => exact event_wf hs (syncStep_wf hs)
  | invalRange v => exact (invalWrite_wf hs : NextOk (execInvalRange v s))
  | invalAsid v => exact (invalWrite_wf hs : NextOk (execInvalAsid v s))
  | invalAll v => exact (invalWrite_wf hs : NextOk (execInvalAll v s))
  | invalidationDone => exact event_wf hs (invalidationStep_wf hs)
  | replay _ => exact execReplay_wf hs
  | gridkill _ => exact execGridkill_wf hs
  | attreq v => exact (pfOnly_wf hs (optOk_some (State.queueOp_wf hs)) : NextOk (execAttreq v s))
  | attestationDone => exact event_wf hs (attestStep_wf hs)
  | fwctlVerify _ => exact execFwctlVerify_wf hs
  | fwctlRestart _ => exact execFwctlRestart_wf hs
  | verifyDone => exact event_wf hs (verifyStep_wf hs)
  | firmwareWindowWrite _ _ => exact execFirmwareWindowWrite_wf hs
  | registerWrite _ _ => exact execRegisterWrite_wf hs
  | hostMemoryWrite _ _ => exact execHostMemoryWrite_wf hs
  | hostMemoryRead _ _ => exact execHostMemoryRead_wf hs
  | vfApertureAccess _ _ _ => exact execVfApertureAccess_wf hs
  | atsInvalidation _ _ _ => exact event_wf hs (optOk_some (State.dropAtc_wf hs))
  | peerAccess _ _ _ => exact execPeerAccess_wf hs
  | powerOn => exact execPowerOn_wf hs
  | budgetPeriodStart => exact event_wf hs (budgetStep_wf hs)
  | throttleStep _ => exact event_wf hs (throttleStep_wf hs)
  | thermalTrip _ => exact execThermalTrip_wf hs
  | softErrorCorrected _ => exact event_wf hs optOk_none
  | uncorrectableError _ => exact event_wf hs (optOk_some (State.poisonSite_wf hs))
  | dieError _ => exact event_wf hs (optOk_some (dieErrorStep_wf hs))
  | bfTransferComplete _ => exact event_wf hs (bfTransferStep_wf hs)

theorem take_wf {t : Turn} {s : State} (hs : s.Ok) : NextOk (take t s) := by
  unfold take
  split
  · exact nextOk_next (State.pass_wf hs)
  · split
    · exact nextOk_next hs
    · exact exec_wf hs
  · split
    next h' => exact nextOk_next ((issue_wf hs).of_done h')
    next h' => exact exec_wf ((issue_wf hs).of_exec h')

/-- Settles O59, by the forms that every turn keeps. -/
theorem memoryCanonical : Obligations.MemoryCanonical := by
  intro s t hs ht
  exact take_wf (State.nextTurn_wf hs) t ht

end Sys2Proof.Machine
end

section
/-!
PROOF. FEXP2 and FLOG2: the fixed-point enclosures and their errors (09 R232).
-/
namespace Sys2Proof.Machine
open Sys2Proof

/-! ### ln 2 in fixed point -/

/-- One, in fixed point, as a real number. -/
noncomputable def fxR : ℝ := (fxOne : ℝ)

theorem fxOne_eq : fxOne = 2 ^ 256 := by unfold fxOne fxBits; rfl
theorem fxR_eq : fxR = (2 : ℝ) ^ (256 : ℕ) := by unfold fxR; rw [fxOne_eq, Nat.cast_pow, Nat.cast_ofNat]
theorem fxR_pos : 0 < fxR := by rw [fxR_eq]; positivity
theorem fxR_big : (2 : ℝ) ^ (200 : ℕ) ≤ fxR := by rw [fxR_eq]; norm_num
theorem fxOne_pos : 0 < fxOne := by rw [fxOne_eq]; positivity

/-- The integer quotient of natural numbers, as a real number: at most one below the quotient. -/
theorem natDiv_bounds (a b : Nat) (hb : 0 < b) : (a : ℝ) / b - 1 ≤ ((a / b : ℕ) : ℝ) ∧ ((a / b : ℕ) : ℝ) ≤ a / b := by
  have hb' : (0 : ℝ) < b := by exact_mod_cast hb
  refine ⟨?_, Nat.cast_div_le⟩
  have h := Nat.div_add_mod a b
  have h2 := Nat.mod_lt a hb
  rw [sub_le_iff_le_add, div_le_iff₀ hb']
  have h3 : a ≤ (a / b + 1) * b := by nlinarith
  exact_mod_cast h3

theorem ln2From_bounds (n acc : Nat) :
    (acc : ℝ) + fxR * (∑ i ∈ Finset.range n, (1 / 2 : ℝ) ^ (i + 1) / (i + 1)) - n ≤ ln2From n acc ∧
      (ln2From n acc : ℝ) ≤ acc + fxR * ∑ i ∈ Finset.range n, (1 / 2 : ℝ) ^ (i + 1) / (i + 1) := by
  induction n generalizing acc with
  | zero => simp [ln2From]
  | succ n ih =>
    obtain ⟨low, high⟩ := ih (acc + fxOne / ((n + 1) * 2 ^ (n + 1)))
    obtain ⟨d1, d2⟩ := natDiv_bounds fxOne ((n + 1) * 2 ^ (n + 1)) (by positivity)
    have hterm : (fxOne : ℝ) / (((n + 1) * 2 ^ (n + 1) : ℕ) : ℝ) = fxR * ((1 / 2 : ℝ) ^ (n + 1) / (n + 1)) := by
      unfold fxR
      push_cast
      rw [one_div, inv_pow]
      field_simp
    rw [hterm] at d1 d2
    rw [Finset.sum_range_succ, mul_add]
    push_cast at low high ⊢
    rw [ln2From]
    constructor <;> linarith

theorem log_half : Real.log (1 - 1 / 2) = -Real.log 2 := by rw [show (1 - 1 / 2 : ℝ) = 2⁻¹ by norm_num, Real.log_inv]

/-- The partial sums of the series of ln 2. -/
theorem ln2_series : Real.log 2 - 1 / 2 ^ 260 ≤ ∑ i ∈ Finset.range 260, (1 / 2 : ℝ) ^ (i + 1) / (i + 1) ∧
    ∑ i ∈ Finset.range 260, (1 / 2 : ℝ) ^ (i + 1) / (i + 1) ≤ Real.log 2 := by
  have habs : |(1 / 2 : ℝ)| = 1 / 2 := abs_of_pos (by norm_num)
  have hlt : |(1 / 2 : ℝ)| < 1 := by rw [habs]; norm_num
  constructor
  · have h := (abs_le.mp (Real.abs_log_sub_add_sum_range_le hlt 260)).1
    rw [habs, log_half] at h
    have hnum : (1 / 2 : ℝ) ^ (260 + 1) / (1 - 1 / 2) = 1 / 2 ^ 260 := by
      rw [pow_succ, one_div_pow]; ring
    rw [hnum] at h
    linarith
  · have h := sum_le_hasSum (Finset.range 260) (fun i _ => by positivity) (Real.hasSum_pow_div_log_of_abs_lt_one hlt)
    rwa [log_half, neg_neg] at h

/-- The enclosure of ln 2 lies at most 261 units below it. -/
theorem ln2Fx_bounds : fxR * Real.log 2 - 261 ≤ ln2Fx ∧ (ln2Fx : ℝ) ≤ fxR * Real.log 2 := by
  obtain ⟨low, high⟩ := ln2From_bounds 260 0
  obtain ⟨s1, s2⟩ := ln2_series
  have hpos := fxR_pos
  have htail : fxR * (1 / 2 ^ 260) ≤ 1 := by
    rw [fxR_eq, mul_one_div, div_le_one (by positivity)]
    exact pow_le_pow_right₀ one_le_two (by norm_num)
  have h1 := mul_le_mul_of_nonneg_left s1 hpos.le
  have h2 := mul_le_mul_of_nonneg_left s2 hpos.le
  rw [mul_sub] at h1
  push_cast at low high
  unfold ln2Fx
  constructor <;> linarith

theorem log2_low : (0.69 : ℝ) ≤ Real.log 2 := by have := Real.log_two_gt_d9; linarith
theorem log2_high : Real.log 2 ≤ 0.7 := by have := Real.log_two_lt_d9; linarith

/-! ### The exponential in fixed point -/

/-- One term of the Taylor sum, in fixed point, from the one before: both quotients are cut off. -/
theorem expTerm_bounds {y t k : Nat} {u T : ℝ} (hu : (y : ℝ) = fxR * u) (hu0 : 0 ≤ u) (hu1 : u ≤ 0.7) (hlow : T - 7 ≤ t) (hhigh : (t : ℝ) ≤ T) :
    T * u / (k + 1) - 7 ≤ (t * y / fxOne / (k + 1) : ℕ) ∧ ((t * y / fxOne / (k + 1) : ℕ) : ℝ) ≤ T * u / (k + 1) := by
  have hpos := fxR_pos
  obtain ⟨a1, a2⟩ := natDiv_bounds (t * y) fxOne fxOne_pos
  obtain ⟨b1, b2⟩ := natDiv_bounds (t * y / fxOne) (k + 1) (Nat.succ_pos k)
  have hty : ((t * y : ℕ) : ℝ) / (fxOne : ℝ) = t * u := by
    change _ / fxR = _
    rw [Nat.cast_mul, hu]
    field_simp
  rw [hty] at a1 a2
  push_cast at b1 b2 ⊢
  have hk : (1 : ℝ) ≤ k + 1 := by have : (0 : ℝ) ≤ k := Nat.cast_nonneg k; linarith
  have hk0 : (0 : ℝ) < k + 1 := by linarith
  constructor
  · have h1 : T * u - 5.9 ≤ ((t * y / fxOne : ℕ) : ℝ) := by nlinarith
    have h2 : (T * u - 5.9) / (k + 1) ≤ ((t * y / fxOne : ℕ) : ℝ) / (k + 1) := by gcongr
    have h3 : (5.9 : ℝ) / (k + 1) ≤ 5.9 := div_le_self (by norm_num) hk
    rw [sub_div] at h2
    push_cast at h2
    linarith
  · have h1 : ((t * y / fxOne : ℕ) : ℝ) ≤ T * u := by nlinarith
    have h2 : ((t * y / fxOne : ℕ) : ℝ) / (k + 1) ≤ T * u / (k + 1) := by gcongr
    push_cast at h2
    linarith

/-- The Taylor term of index `k`, in fixed point. -/
noncomputable def expT (u : ℝ) (k : Nat) : ℝ := fxR * (u ^ k / k.factorial)

theorem expT_succ (u : ℝ) (k : Nat) : expT u (k + 1) = expT u k * u / (k + 1) := by
  unfold expT
  rw [Nat.factorial_succ, pow_succ]
  push_cast
  field_simp

theorem expFrom_bounds {y : Nat} {u : ℝ} (hu : (y : ℝ) = fxR * u) (hu0 : 0 ≤ u) (hu1 : u ≤ 0.7) (fuel k t acc : Nat)
    (hlow : expT u k - 7 ≤ t) (hhigh : (t : ℝ) ≤ expT u k) :
    (acc : ℝ) + (∑ i ∈ Finset.range fuel, expT u (k + 1 + i)) - 7 * fuel ≤ expFrom y fuel k t acc ∧
      (expFrom y fuel k t acc : ℝ) ≤ acc + ∑ i ∈ Finset.range fuel, expT u (k + 1 + i) := by
  induction fuel generalizing k t acc with
  | zero => simp [expFrom]
  | succ fuel ih =>
    obtain ⟨t1, t2⟩ := expTerm_bounds (k := k) hu hu0 hu1 hlow hhigh
    rw [← expT_succ] at t1 t2
    obtain ⟨l, h⟩ := ih (k + 1) (t * y / fxOne / (k + 1)) (acc + t * y / fxOne / (k + 1)) t1 t2
    rw [Finset.sum_range_succ', add_zero]
    have hshift : ∀ i, expT u (k + 1 + (i + 1)) = expT u (k + 1 + 1 + i) := fun i => by congr 1; ring
    simp only [hshift]
    rw [expFrom]
    push_cast at l h ⊢
    constructor <;> linarith

/-- The Taylor sum to the term of index 70 is the exponential within one unit. -/
theorem exp_series {u : ℝ} (hu0 : 0 ≤ u) (hu1 : u ≤ 0.7) :
    fxR * Real.exp u - 1 ≤ ∑ i ∈ Finset.range 71, expT u i ∧ ∑ i ∈ Finset.range 71, expT u i ≤ fxR * Real.exp u := by
  have hpos := fxR_pos
  unfold expT
  rw [← Finset.mul_sum]
  constructor
  · have h := Real.exp_bound' hu0 (by linarith) (n := 71) (by norm_num)
    have hsmall : u ^ 71 * ((71 : ℕ) + 1) / (((71 : ℕ).factorial : ℝ) * (71 : ℕ)) ≤ 1 / 2 ^ 256 := by
      have hu : u ^ 71 ≤ 1 := pow_le_one₀ hu0 (by linarith)
      have hfac : 2 * (2 : ℝ) ^ 256 ≤ ((71 : ℕ).factorial : ℝ) := by
        have : 2 * 2 ^ 256 ≤ (71 : ℕ).factorial := by decide
        exact_mod_cast this
      rw [div_le_div_iff₀ (by positivity) (by positivity), one_mul]
      push_cast
      calc u ^ 71 * (71 + 1) * (2 : ℝ) ^ 256 ≤ 1 * (71 + 1) * 2 ^ 256 := by gcongr
        _ ≤ 2 * 2 ^ 256 * 71 := by norm_num
        _ ≤ ((71 : ℕ).factorial : ℝ) * 71 := by gcongr
    have htail : fxR * (1 / 2 ^ 256) = 1 := by rw [fxR_eq]; norm_num
    have h2 := mul_le_mul_of_nonneg_left (h.trans (add_le_add_right hsmall _)) hpos.le
    rw [mul_add, htail] at h2
    linarith
  · exact mul_le_mul_of_nonneg_left (Real.sum_le_exp_of_nonneg hu0 71) hpos.le

theorem expFrom_ge (y fuel k t acc : Nat) : acc ≤ expFrom y fuel k t acc := by
  induction fuel generalizing k t acc with
  | zero => exact le_refl acc
  | succ fuel ih => exact (Nat.le_add_right _ _).trans (ih _ _ _)

theorem exp2Fx_ge (r : Nat) : fxOne ≤ exp2Fx r := expFrom_ge _ _ _ _ _

/-- The exponent in fixed point: the fraction times ln 2, at most 263 units below. -/
theorem expArg_bounds {r : Nat} (hr : r < fxOne) :
    r * Real.log 2 - 263 ≤ (r * ln2Fx / fxOne : ℕ) ∧ ((r * ln2Fx / fxOne : ℕ) : ℝ) ≤ r * Real.log 2 := by
  have hpos := fxR_pos
  obtain ⟨l1, l2⟩ := ln2Fx_bounds
  obtain ⟨d1, d2⟩ := natDiv_bounds (r * ln2Fx) fxOne fxOne_pos
  have hr0 : (0 : ℝ) ≤ r := Nat.cast_nonneg r
  have hr1 : (r : ℝ) ≤ fxR := by unfold fxR; exact_mod_cast hr.le
  have heq : ((r * ln2Fx : ℕ) : ℝ) / (fxOne : ℝ) = r * ln2Fx / fxR := by unfold fxR; push_cast; rfl
  rw [heq] at d1 d2
  constructor
  · have h1 : r * Real.log 2 - 261 ≤ r * ln2Fx / fxR := by
      rw [le_div_iff₀ hpos]
      nlinarith
    linarith
  · have h2 : r * ln2Fx / fxR ≤ r * Real.log 2 := by
      rw [div_le_iff₀ hpos]
      nlinarith
    linarith

/-- `2^r` in fixed point lies within 2000 units of the power. -/
theorem exp2Fx_bounds {r : Nat} (hr : r < fxOne) :
    |(exp2Fx r : ℝ) - fxR * (2 : ℝ) ^ ((r : ℝ) / fxR)| ≤ 2000 := by
  have hpos := fxR_pos
  obtain ⟨y1, y2⟩ := expArg_bounds hr
  have hr0 : (0 : ℝ) ≤ r := Nat.cast_nonneg r
  have hr1 : (r : ℝ) ≤ fxR := by unfold fxR; exact_mod_cast hr.le
  have hlog0 := log2_low
  have hlog1 := log2_high
  generalize hy : r * ln2Fx / fxOne = y at y1 y2
  obtain ⟨u, hu⟩ : ∃ u : ℝ, (y : ℝ) = fxR * u := ⟨y / fxR, by field_simp⟩
  obtain ⟨x, hx⟩ : ∃ x : ℝ, (r : ℝ) * Real.log 2 = fxR * x := ⟨r * Real.log 2 / fxR, by field_simp⟩
  have hu0 : 0 ≤ u := by
    have : 0 ≤ fxR * u := by rw [← hu]; exact Nat.cast_nonneg y
    exact nonneg_of_mul_nonneg_right this hpos
  have hux : u ≤ x := le_of_mul_le_mul_left (by linarith : fxR * u ≤ fxR * x) hpos
  have hx1 : x ≤ 0.7 := by
    have : fxR * x ≤ fxR * 0.7 := by rw [← hx]; nlinarith
    exact le_of_mul_le_mul_left this hpos
  have hgap : fxR * (x - u) ≤ 263 := by rw [mul_sub]; linarith
  have hpow : (2 : ℝ) ^ ((r : ℝ) / fxR) = Real.exp x := by
    rw [Real.rpow_def_of_pos (by norm_num)]
    congr 1
    rw [mul_div_assoc', mul_comm, hx]
    field_simp
  have t0 : expT u 0 = fxR := by simp [expT]
  obtain ⟨l, h⟩ := expFrom_bounds hu hu0 (hux.trans hx1) 70 0 fxOne fxOne (by rw [t0]; unfold fxR; linarith) (by rw [t0]; unfold fxR; exact le_refl _)
  obtain ⟨s1, s2⟩ := exp_series hu0 (hux.trans hx1)
  rw [Finset.sum_range_succ', t0] at s1 s2
  have hshift : ∀ i, expT u (0 + 1 + i) = expT u (i + 1) := fun i => by congr 1; ring
  simp only [hshift] at l h
  have hE : exp2Fx r = expFrom y 70 0 fxOne fxOne := by rw [exp2Fx, hy]
  rw [hE, hpow]
  change (fxR : ℝ) + _ - _ ≤ _ at l
  change _ ≤ (fxR : ℝ) + _ at h
  have hmono : Real.exp u ≤ Real.exp x := Real.exp_le_exp.mpr hux
  -- the exponential is at most three times as steep as the line
  have hsteep : Real.exp x - Real.exp u ≤ 3 * (x - u) := by
    have h1 : 1 - Real.exp (u - x) ≤ x - u := by have := Real.add_one_le_exp (u - x); linarith
    have h2 : Real.exp x - Real.exp u = Real.exp x * (1 - Real.exp (u - x)) := by
      rw [mul_sub, ← Real.exp_add]; ring_nf
    have h3 : Real.exp x ≤ 3 := (Real.exp_le_exp.mpr (by linarith : x ≤ 1)).trans (by have := Real.exp_one_lt_d9; linarith)
    rw [h2]
    have h4 : 0 ≤ x - u := by linarith
    calc Real.exp x * (1 - Real.exp (u - x)) ≤ Real.exp x * (x - u) := mul_le_mul_of_nonneg_left h1 (Real.exp_pos x).le
      _ ≤ 3 * (x - u) := mul_le_mul_of_nonneg_right h3 h4
  have hsteep' := mul_le_mul_of_nonneg_left hsteep hpos.le
  have hmono' := mul_le_mul_of_nonneg_left hmono hpos.le
  rw [abs_le]
  push_cast at l
  constructor <;> nlinarith

end Sys2Proof.Machine
end

section
/-!
PROOF. FLOG2: the logarithm in fixed point and its error (09 R232).
-/
namespace Sys2Proof.Machine
open Sys2Proof

/-! ### The logarithm of the significand -/

/-- One power of the series, in fixed point, from the one before. -/
theorem atanhPow_bounds {z2 p : Nat} {ζ P : ℝ} (h0 : 0 ≤ ζ) (h1 : ζ ≤ 1 / 3) (hz : fxR * ζ ^ 2 - 2 ≤ z2) (hz' : (z2 : ℝ) ≤ fxR * ζ ^ 2)
    (hP0 : 0 ≤ P) (hP : P ≤ fxR / 3) (hp : P - 2 ≤ p) (hp' : (p : ℝ) ≤ P) :
    P * ζ ^ 2 - 2 ≤ (p * z2 / fxOne : ℕ) ∧ ((p * z2 / fxOne : ℕ) : ℝ) ≤ P * ζ ^ 2 := by
  have hpos := fxR_pos
  obtain ⟨a1, a2⟩ := natDiv_bounds (p * z2) fxOne fxOne_pos
  have heq : ((p * z2 : ℕ) : ℝ) / (fxOne : ℝ) = p * z2 / fxR := by unfold fxR; push_cast; rfl
  rw [heq] at a1 a2
  have hp0 : (0 : ℝ) ≤ p := Nat.cast_nonneg p
  have hz0 : (0 : ℝ) ≤ z2 := Nat.cast_nonneg z2
  have hsq : ζ ^ 2 ≤ 1 / 9 := by nlinarith
  have hsq0 : 0 ≤ ζ ^ 2 := by positivity
  constructor
  · have h2 : P * ζ ^ 2 - 1 ≤ p * z2 / fxR := by
      rw [le_div_iff₀ hpos]
      have e1 : (P - p) * (fxR * ζ ^ 2) ≤ 2 * (fxR * (1 / 9)) := by
        apply mul_le_mul (by linarith) (by nlinarith) (by positivity) (by norm_num)
      have e2 : p * (fxR * ζ ^ 2 - z2) ≤ fxR / 3 * 2 := mul_le_mul (hp'.trans hP) (by linarith) (by linarith) (by positivity)
      nlinarith
    linarith
  · have h2 : p * z2 / fxR ≤ P * ζ ^ 2 := by
      rw [div_le_iff₀ hpos]
      calc (p : ℝ) * z2 ≤ P * (fxR * ζ ^ 2) := mul_le_mul hp' hz' hz0 hP0
        _ = P * ζ ^ 2 * fxR := by ring
    linarith

/-- The term of index `j` of the series of the inverse hyperbolic tangent, in fixed point. -/
noncomputable def atT (ζ : ℝ) (j : Nat) : ℝ := fxR * (ζ ^ (2 * j + 1) / (2 * j + 1))

theorem atanhFrom_bounds {z2 : Nat} {ζ : ℝ} (h0 : 0 ≤ ζ) (h1 : ζ ≤ 1 / 3) (hz : fxR * ζ ^ 2 - 2 ≤ z2) (hz' : (z2 : ℝ) ≤ fxR * ζ ^ 2)
    (fuel j p acc : Nat) (hp : fxR * ζ ^ (2 * j + 1) - 2 ≤ p) (hp' : (p : ℝ) ≤ fxR * ζ ^ (2 * j + 1)) :
    (acc : ℝ) + (∑ i ∈ Finset.range fuel, atT ζ (j + 1 + i)) - 2 * fuel ≤ atanhFrom z2 fuel (2 * j + 1) p acc ∧
      (atanhFrom z2 fuel (2 * j + 1) p acc : ℝ) ≤ acc + ∑ i ∈ Finset.range fuel, atT ζ (j + 1 + i) := by
  have hpos := fxR_pos
  induction fuel generalizing j p acc with
  | zero => simp [atanhFrom]
  | succ fuel ih =>
    have hle : fxR * ζ ^ (2 * j + 1) ≤ fxR / 3 := by
      have : ζ ^ (2 * j + 1) ≤ 1 / 3 := (pow_le_of_le_one h0 (by linarith) (by omega)).trans h1
      nlinarith
    obtain ⟨q1, q2⟩ := atanhPow_bounds h0 h1 hz hz' (by positivity) hle hp hp'
    have hpow : fxR * ζ ^ (2 * j + 1) * ζ ^ 2 = fxR * ζ ^ (2 * (j + 1) + 1) := by ring
    rw [hpow] at q1 q2
    obtain ⟨d1, d2⟩ := natDiv_bounds (p * z2 / fxOne) (2 * j + 1 + 2) (by omega)
    have hk : (3 : ℝ) ≤ 2 * j + 3 := by have : (0 : ℝ) ≤ j := Nat.cast_nonneg j; linarith
    have hterm : atT ζ (j + 1) = fxR * ζ ^ (2 * (j + 1) + 1) / (2 * j + 3) := by
      unfold atT
      push_cast
      ring
    have hcast : (((2 * j + 1 + 2 : ℕ) : ℕ) : ℝ) = 2 * j + 3 := by push_cast; ring
    rw [hcast] at d1 d2
    have t1 : atT ζ (j + 1) - 2 ≤ ((p * z2 / fxOne / (2 * j + 1 + 2) : ℕ) : ℝ) := by
      have e1 : (fxR * ζ ^ (2 * (j + 1) + 1) - 2) / (2 * j + 3) ≤ ((p * z2 / fxOne : ℕ) : ℝ) / (2 * j + 3) := by gcongr
      have e2 : (2 : ℝ) / (2 * j + 3) ≤ 2 / 3 := by gcongr
      rw [sub_div, ← hterm] at e1
      linarith
    have t2 : ((p * z2 / fxOne / (2 * j + 1 + 2) : ℕ) : ℝ) ≤ atT ζ (j + 1) := by
      have e1 : ((p * z2 / fxOne : ℕ) : ℝ) / (2 * j + 3) ≤ fxR * ζ ^ (2 * (j + 1) + 1) / (2 * j + 3) := by gcongr
      rw [← hterm] at e1
      linarith
    obtain ⟨l, h⟩ := ih (j + 1) (p * z2 / fxOne) (acc + p * z2 / fxOne / (2 * j + 1 + 2)) q1 q2
    rw [Finset.sum_range_succ', add_zero]
    have hshift : ∀ i, atT ζ (j + 1 + (i + 1)) = atT ζ (j + 1 + 1 + i) := fun i => by congr 1; ring
    simp only [hshift]
    rw [atanhFrom]
    have hk2 : 2 * (j + 1) + 1 = 2 * j + 1 + 2 := by ring
    rw [hk2] at l h
    push_cast at l h ⊢
    constructor <;> linarith

/-- The partial sums of the series. -/
theorem atanh_series {ζ : ℝ} (h0 : 0 ≤ ζ) (h1 : ζ ≤ 1 / 3) :
    fxR * (1 / 2 * Real.log ((1 + ζ) / (1 - ζ))) - 1 ≤ ∑ i ∈ Finset.range 91, atT ζ i ∧
      ∑ i ∈ Finset.range 91, atT ζ i ≤ fxR * (1 / 2 * Real.log ((1 + ζ) / (1 - ζ))) := by
  have hpos := fxR_pos
  have hlow := Real.sum_range_le_log_div h0 (by linarith) 91
  have hhigh := Real.log_div_le_sum_range_add h0 (by linarith) 91
  have htail : fxR * (ζ ^ (2 * 91 + 1) / (1 - ζ ^ 2)) ≤ 1 := by
    have hsq : ζ ^ 2 ≤ 1 / 9 := by nlinarith
    have hp : ζ ^ (2 * 91 + 1) ≤ (1 / 3) ^ 183 := pow_le_pow_left₀ h0 h1 _
    have hden : 0 < 1 - ζ ^ 2 := by linarith
    rw [mul_div_assoc', div_le_one hden]
    calc fxR * ζ ^ (2 * 91 + 1) ≤ fxR * (1 / 3) ^ 183 := by gcongr
      _ ≤ 1 / 2 := by rw [fxR_eq]; norm_num
      _ ≤ 1 - ζ ^ 2 := by linarith
  unfold atT
  rw [← Finset.mul_sum]
  constructor
  · have := mul_le_mul_of_nonneg_left hhigh hpos.le
    rw [mul_add] at this
    linarith
  · exact mul_le_mul_of_nonneg_left hlow hpos.le

/-- The logarithm of a significand `m / 2^l` in fixed point: at most 364 units below. -/
theorem lnFx_bounds {m l : Nat} (hl : 2 ^ l ≤ m) (hm : m < 2 ^ (l + 1)) :
    fxR * Real.log (m / 2 ^ l) - 364 ≤ lnFx m l ∧ (lnFx m l : ℝ) ≤ fxR * Real.log (m / 2 ^ l) := by
  have hpos := fxR_pos
  have hB : (0 : ℝ) < 2 ^ l := by positivity
  have hlr : (2 : ℝ) ^ l ≤ m := by exact_mod_cast hl
  have hmr : (m : ℝ) < 2 * 2 ^ l := by rw [← pow_succ']; exact_mod_cast hm
  obtain ⟨ζ, hζ⟩ : ∃ ζ : ℝ, ζ = ((m : ℝ) - 2 ^ l) / (m + 2 ^ l) := ⟨_, rfl⟩
  have hsum : (0 : ℝ) < m + 2 ^ l := by linarith
  have h0 : 0 ≤ ζ := by rw [hζ]; exact div_nonneg (by linarith) hsum.le
  have h1 : ζ ≤ 1 / 3 := by rw [hζ, div_le_div_iff₀ hsum (by norm_num)]; linarith
  have hratio : (1 + ζ) / (1 - ζ) = m / 2 ^ l := by
    rw [hζ]
    field_simp
    ring
  generalize hz : (m - 2 ^ l) * fxOne / (m + 2 ^ l) = z
  have hzr : fxR * ζ - 1 ≤ z ∧ (z : ℝ) ≤ fxR * ζ := by
    obtain ⟨d1, d2⟩ := natDiv_bounds ((m - 2 ^ l) * fxOne) (m + 2 ^ l) (by positivity)
    have hcast : (((m - 2 ^ l) * fxOne : ℕ) : ℝ) / ((m + 2 ^ l : ℕ) : ℝ) = fxR * ζ := by
      rw [hζ, Nat.cast_mul, Nat.cast_sub hl]
      unfold fxR
      push_cast
      ring
    rw [hcast, hz] at d1 d2
    exact ⟨d1, d2⟩
  obtain ⟨z1, z2⟩ := hzr
  have hz0 : (0 : ℝ) ≤ z := Nat.cast_nonneg z
  have hsq : fxR * ζ ^ 2 - 2 ≤ (z * z / fxOne : ℕ) ∧ ((z * z / fxOne : ℕ) : ℝ) ≤ fxR * ζ ^ 2 := by
    obtain ⟨d1, d2⟩ := natDiv_bounds (z * z) fxOne fxOne_pos
    have hcast : ((z * z : ℕ) : ℝ) / (fxOne : ℝ) = z * z / fxR := by unfold fxR; push_cast; rfl
    rw [hcast] at d1 d2
    have hfz : 0 ≤ fxR * ζ := by positivity
    constructor
    · have h2 : fxR * ζ ^ 2 - 2 / 3 ≤ z * z / fxR := by
        rw [le_div_iff₀ hpos]
        have : (fxR * ζ - z) * (z + fxR * ζ) ≤ 1 * (2 * (fxR * ζ)) := mul_le_mul (by linarith) (by linarith) (by linarith) (by norm_num)
        nlinarith
      linarith
    · have h2 : z * z / fxR ≤ fxR * ζ ^ 2 := by
        rw [div_le_iff₀ hpos]
        nlinarith
      linarith
  obtain ⟨l1, l2⟩ := atanhFrom_bounds h0 h1 hsq.1 hsq.2 90 0 z z (by simp only [mul_zero, zero_add, pow_one]; linarith)
    (by simp only [mul_zero, zero_add, pow_one]; exact z2)
  obtain ⟨s1, s2⟩ := atanh_series h0 h1
  have t0 : atT ζ 0 = fxR * ζ := by simp [atT]
  rw [Finset.sum_range_succ', t0, hratio] at s1 s2
  have hshift : ∀ i, atT ζ (0 + 1 + i) = atT ζ (i + 1) := fun i => by congr 1; ring
  simp only [hshift] at l1 l2
  have hL : (lnFx m l : ℝ) = 2 * atanhFrom (z * z / fxOne) 90 (2 * 0 + 1) z z := by
    unfold lnFx
    rw [hz]
    push_cast
    rfl
  rw [hL]
  push_cast at l1
  constructor <;> linarith

/-- Its logarithm to the base 2, in fixed point, within 1000 units. -/
theorem log2Frac_bounds {m l : Nat} (hl : 2 ^ l ≤ m) (hm : m < 2 ^ (l + 1)) :
    |((lnFx m l * fxOne / ln2Fx : ℕ) : ℝ) - fxR * Real.logb 2 (m / 2 ^ l)| ≤ 1000 := by
  have hpos := fxR_pos
  have hbig := fxR_big
  have hbig' : (1000000 : ℝ) ≤ fxR := le_trans (by norm_num) hbig
  obtain ⟨n1, n2⟩ := ln2Fx_bounds
  obtain ⟨l1, l2⟩ := lnFx_bounds hl hm
  have g1 := log2_low
  have g2 := log2_high
  have hln0 : (0 : ℝ) < ln2Fx := by nlinarith
  have hB : (0 : ℝ) < 2 ^ l := by positivity
  have hlr : (2 : ℝ) ^ l ≤ m := by exact_mod_cast hl
  have hmr : (m : ℝ) < 2 * 2 ^ l := by rw [← pow_succ']; exact_mod_cast hm
  obtain ⟨lam, hlam⟩ : ∃ x : ℝ, x = Real.logb 2 (m / 2 ^ l) := ⟨_, rfl⟩
  have hlog : Real.log (m / 2 ^ l) = lam * Real.log 2 := by
    rw [hlam, Real.logb]
    field_simp
  have hlam0 : 0 ≤ lam := by rw [hlam]; exact Real.logb_nonneg (by norm_num) ((one_le_div hB).mpr hlr)
  have hlam1 : lam ≤ 1 := by
    rw [hlam, Real.logb_le_iff_le_rpow (by norm_num) (div_pos (by linarith) hB), Real.rpow_one, div_le_iff₀ hB]
    exact hmr.le
  rw [hlog] at l1 l2
  obtain ⟨d1, d2⟩ := natDiv_bounds (lnFx m l * fxOne) ln2Fx (by exact_mod_cast hln0)
  have hcast : ((lnFx m l * fxOne : ℕ) : ℝ) / (ln2Fx : ℝ) = lnFx m l * fxR / ln2Fx := by unfold fxR; push_cast; rfl
  rw [hcast] at d1 d2
  have hL0 : (0 : ℝ) ≤ lnFx m l := Nat.cast_nonneg _
  rw [← hlam, abs_le]
  constructor
  · have h1 : fxR * lam - 600 ≤ lnFx m l * fxR / ln2Fx := by
      rw [le_div_iff₀ hln0]
      by_cases hneg : fxR * lam - 600 ≤ 0
      · exact (mul_nonpos_of_nonpos_of_nonneg hneg hln0.le).trans (by positivity)
      · calc (fxR * lam - 600) * ln2Fx ≤ (fxR * lam - 600) * (fxR * Real.log 2) := by
              exact mul_le_mul_of_nonneg_left n2 (by linarith)
          _ = (fxR * (lam * Real.log 2) - 600 * Real.log 2) * fxR := by ring
          _ ≤ lnFx m l * fxR := by apply mul_le_mul_of_nonneg_right _ hpos.le; linarith
    linarith
  · have h1 : lnFx m l * fxR / ln2Fx ≤ fxR * lam + 400 := by
      rw [div_le_iff₀ hln0]
      calc (lnFx m l : ℝ) * fxR ≤ fxR * (lam * Real.log 2) * fxR := by gcongr
        _ ≤ (fxR * lam + 400) * (fxR * Real.log 2 - 261) := by
            have e1 : fxR * lam ≤ fxR := by nlinarith
            have e2 : 0.69 * fxR ≤ fxR * Real.log 2 := by nlinarith
            nlinarith
        _ ≤ (fxR * lam + 400) * ln2Fx := by gcongr
    linarith

end Sys2Proof.Machine
end

section
/-!
PROOF. FEXP2 and FLOG2 are round_to of a number within 2^-200 of the exact one, relative (09 R232).
-/
namespace Sys2Proof.Machine
open Sys2Proof

section
variable {f : FloatFmt} {rm : Nat}

/-- What `roundTo` raises where something is known to lie below the significand. -/
theorem roundTo_sticky_inexact (neg : Bool) {m : Nat} (hm : m ≠ 0) (e : ℤ) : (roundTo f rm neg m e true).2 &&& fNX = fNX := by
  rw [roundTo_eq hm, Bool.or_true]
  simp only []
  split
  · decide
  · change (fNX ||| flagIf _ fUF) &&& fNX = fNX
    unfold flagIf
    split <;> decide

/-- `roundTo` with half a unit below a long significand. -/
theorem roundTo_half (hf : RealFmt f) (hrm : rm < 4) (neg : Bool) {m : Nat} (hm : 2 ^ (f.fbits + 1) ≤ m) (e : ℤ) :
    RoundsTo f rm (signed neg ((m + 1 / 2) * (2 : ℝ) ^ e)) (roundTo f rm neg m e true) := by
  have hpos : 0 < 2 ^ (f.fbits + 1) := by positivity
  exact roundTo_rounds hf hrm neg (by omega) e ⟨by norm_num, by norm_num, by simp, fun _ => log2_ge hm⟩

/-! ### Results beyond the format -/

/-- The mode picks a multiple for every magnitude: the one below, or the next. -/
theorem exists_picks (rm : Nat) (neg : Bool) {a : ℝ} (ha : 0 ≤ a) : ∃ y : Nat, Picks rm neg y a ∧ (y = ⌊a⌋₊ ∨ y = ⌊a⌋₊ + 1) := by
  have h0 : 0 ≤ a - ⌊a⌋₊ := sub_nonneg.mpr (Nat.floor_le ha)
  have h1 : a - ⌊a⌋₊ < 1 := by have := Nat.lt_floor_add_one a; linarith
  have h2 : 0 ≤ 2 * (a - ⌊a⌋₊) := by linarith
  obtain ⟨rem, hrem⟩ : ∃ rem, rem = ⌊2 * (a - ⌊a⌋₊)⌋₊ := ⟨_, rfl⟩
  have hr0 : (rem : ℝ) ≤ 2 * (a - ⌊a⌋₊) := hrem ▸ Nat.floor_le h2
  have hr1 : 2 * (a - ⌊a⌋₊) < rem + 1 := hrem ▸ Nat.lt_floor_add_one _
  have below : Below rem 1 (2 * (a - ⌊a⌋₊) - rem) (decide (2 * (a - ⌊a⌋₊) - rem ≠ 0)) := by
    refine ⟨?_, by linarith, by linarith, rfl, fun _ => one_pos⟩
    have : (rem : ℝ) < 2 := by linarith
    exact_mod_cast this
  have hfrac : (⌊a⌋₊ : ℝ) + fracOf rem 1 (2 * (a - ⌊a⌋₊) - rem) = a := by unfold fracOf; ring
  have picks := stepUp_picks (y := ⌊a⌋₊) below rm neg
  rw [hfrac] at picks
  refine ⟨_, picks, ?_⟩
  unfold stepUp
  split
  · exact .inr rfl
  · exact .inl rfl

end

theorem f32_qmin : f32.qmin = -149 := by decide
theorem f32_emin : f32.emin = -126 := by decide
theorem f32_fbits : f32.fbits = 23 := rfl

/-- Every magnitude of 2^128 or more overflows as 2^(2^20) does. -/
theorem overflow_rounds {rm : Nat} (hrm : rm < 4) {x : ℝ} (hx : (2 : ℝ) ^ (128 : ℤ) ≤ x) :
    RoundsTo f32 rm x (roundTo f32 rm false 1 (2 ^ 20) true) := by
  have hx0 : 0 < x := lt_of_lt_of_le (by positivity) hx
  obtain ⟨k, hk, hk1⟩ := exists_mem_Ico_zpow hx0 one_lt_two
  have hk128 : 128 ≤ k := by
    by_contra hlt
    have : (2 : ℝ) ^ (k + 1) ≤ 2 ^ (128 : ℤ) := zpow_le_zpow_right₀ one_le_two (by omega)
    linarith
  have hq : max k f32.emin - f32.fbits = k - 23 := by rw [f32_emin, f32_fbits]; push_cast; omega
  have hpow : (0 : ℝ) < (2 : ℝ) ^ (k - 23) := by positivity
  obtain ⟨a, rfl⟩ : ∃ a : ℝ, x = a * (2 : ℝ) ^ (k - 23) := ⟨x / (2 : ℝ) ^ (k - 23), by field_simp⟩
  have ha0 : 0 < a := (mul_pos_iff_of_pos_right hpow).mp hx0
  have split23 : (2 : ℝ) ^ k = (2 : ℝ) ^ (23 : ℕ) * (2 : ℝ) ^ (k - 23) := by
    rw [← zpow_natCast, ← zpow_add₀ two_ne_zero]; congr 1; push_cast; ring
  have split24 : (2 : ℝ) ^ (k + 1) = (2 : ℝ) ^ (24 : ℕ) * (2 : ℝ) ^ (k - 23) := by
    rw [← zpow_natCast, ← zpow_add₀ two_ne_zero]; congr 1; push_cast; ring
  have hlow : (2 : ℝ) ^ (23 : ℕ) ≤ a := by rw [split23] at hk; exact le_of_mul_le_mul_right hk hpow
  have hhigh : a < (2 : ℝ) ^ (24 : ℕ) := by rw [split24] at hk1; exact lt_of_mul_lt_mul_right hk1 hpow.le
  obtain ⟨y, hy, hfl⟩ := exists_picks rm false ha0.le
  have hy1 : 2 ^ 23 ≤ y ∧ y ≤ 2 ^ 24 := by
    have h1 : 2 ^ 23 ≤ ⌊a⌋₊ := Nat.le_floor (by exact_mod_cast hlow)
    have h2 : ⌊a⌋₊ < 2 ^ 24 := (Nat.floor_lt ha0.le).mpr (by exact_mod_cast hhigh)
    omega
  have hmul : Multiple f32 (k - 23) y := ⟨by rw [f32_qmin]; omega, by rw [f32_fbits]; exact hy1.2, fun _ => by rw [f32_fbits]; exact hy1.1⟩
  have hover : (2 ^ f32.ebits - 1) * 2 ^ f32.fbits ≤ magBits f32 (k - 23) y := by
    have hE : f32.ebits = 8 := rfl
    rw [magBits, hE, f32_fbits, f32_qmin]
    have : 254 ≤ (k - 23 - -149).toNat := by omega
    omega
  have h := encode_rounds (r := roundTo f32 rm false 1 (2 ^ 20) true) f32_real hrm (neg := false) (k := k) ha0
    (by rw [hq]; exact hk) (by rw [hq]; exact hk1) hy (by rw [hq]; exact hmul)
    (by
      rw [hq, encode, if_pos hover]
      have : rm = 0 ∨ rm = 1 ∨ rm = 2 ∨ rm = 3 := by omega
      rcases this with rfl | rfl | rfl | rfl <;> decide)
    (by
      rw [hq, if_pos hover]
      have : rm = 0 ∨ rm = 1 ∨ rm = 2 ∨ rm = 3 := by omega
      rcases this with rfl | rfl | rfl | rfl <;> decide)
  rwa [hq, signed_false] at h

/-- A magnitude below half a spacing is picked up to one spacing, or down to zero. -/
theorem tiny_picks {rm : Nat} (hrm : rm < 4) {a : ℝ} (ha : 0 < a) (hlt : a < 1 / 2) : Picks rm false (if rm = 3 then 1 else 0) a := by
  refine ⟨fun h => ?_, fun h => ?_, fun h => ?_⟩
  · subst h
    rw [if_neg (by decide), Nat.cast_zero, zero_sub, abs_neg, abs_of_pos ha]
    exact ⟨by linarith, fun h => by linarith⟩
  · rw [if_neg (by simp at h; omega), Nat.cast_zero]
    exact ⟨ha.le, by linarith⟩
  · rw [if_pos (by simp at h; omega), Nat.cast_one]
    exact ⟨by linarith, by linarith⟩

/-- Every magnitude below 2^-151 rounds as 2^(60 - 2^20) does. -/
theorem tiny_rounds {rm : Nat} (hrm : rm < 4) {x : ℝ} (hx0 : 0 < x) (hx : x < (2 : ℝ) ^ (-151 : ℤ)) :
    RoundsTo f32 rm x (roundTo f32 rm false (2 ^ 60) (-2 ^ 20) true) := by
  obtain ⟨k, hk, hk1⟩ := exists_mem_Ico_zpow hx0 one_lt_two
  have hk151 : k < -151 := (zpow_lt_zpow_iff_right₀ one_lt_two).mp (hk.trans_lt hx)
  have hq : max k f32.emin - f32.fbits = -149 := by rw [f32_emin, f32_fbits]; push_cast; omega
  have hpow : (0 : ℝ) < (2 : ℝ) ^ (-149 : ℤ) := by positivity
  obtain ⟨a, rfl⟩ : ∃ a : ℝ, x = a * (2 : ℝ) ^ (-149 : ℤ) := ⟨x / (2 : ℝ) ^ (-149 : ℤ), by field_simp⟩
  have ha0 : 0 < a := (mul_pos_iff_of_pos_right hpow).mp hx0
  have ha1 : a < 1 / 2 := by
    have h4 : (2 : ℝ) ^ (-151 : ℤ) = 1 / 4 * (2 : ℝ) ^ (-149 : ℤ) := by norm_num
    rw [h4] at hx
    have := lt_of_mul_lt_mul_right hx hpow.le
    linarith
  have hmul : Multiple f32 (-149) (if rm = 3 then 1 else 0) :=
    ⟨by rw [f32_qmin], by split <;> decide, fun h => absurd h (by rw [f32_qmin]; decide)⟩
  have hno : ¬ (2 ^ f32.ebits - 1) * 2 ^ f32.fbits ≤ magBits f32 (-149) (if rm = 3 then 1 else 0) := by split <;> decide
  have hpicks := tiny_picks hrm ha0 ha1
  have hne : ((if rm = 3 then 1 else 0 : ℕ) : ℝ) ≠ a := by
    split
    · rw [Nat.cast_one]; linarith
    · rw [Nat.cast_zero]; exact ha0.ne
  have h := encode_rounds (r := roundTo f32 rm false (2 ^ 60) (-2 ^ 20) true) f32_real hrm (neg := false) (k := k) ha0
    (by rw [hq]; exact hk) (by rw [hq]; exact hk1) hpicks (by rw [hq]; exact hmul)
    (by
      rw [hq]
      have : rm = 0 ∨ rm = 1 ∨ rm = 2 ∨ rm = 3 := by omega
      rcases this with rfl | rfl | rfl | rfl <;> decide +kernel)
    (by
      rw [hq, if_neg hno, if_neg hne, if_pos (by rw [f32_emin]; omega)]
      have : rm = 0 ∨ rm = 1 ∨ rm = 2 ∨ rm = 3 := by omega
      rcases this with rfl | rfl | rfl | rfl <;> decide +kernel)
  rwa [hq, signed_false] at h

end Sys2Proof.Machine
end

section
/-!
PROOF. FEXP2 of a finite number (09 R232).
-/
namespace Sys2Proof.Machine
open Sys2Proof

/-! ### The whole part and the fraction of the operand -/

/-- A binary32 magnitude in fixed point. -/
def fxMag (m : Nat) (e : ℤ) : Nat := m * 2 ^ (e + 256).toNat

section
variable {m : Nat} {e : ℤ}

theorem fxMag_eq (he : -149 ≤ e) : (m : ℝ) * (2 : ℝ) ^ e = fxMag m e / fxR := by
  have hpos := fxR_pos
  rw [eq_div_iff hpos.ne', fxMag, fxR_eq]
  push_cast
  rw [mul_assoc, ← zpow_natCast, ← zpow_natCast, ← zpow_add₀ two_ne_zero, Int.toNat_of_nonneg (by omega)]
  rfl

theorem scaleDown_fxMag (he : -149 ≤ e) : scaleDown m (e + fxBits) = fxMag m e := by
  have h : e + (fxBits : ℤ) = e + 256 := rfl
  rw [h, scaleDown, if_pos (by omega), Nat.shiftLeft_eq, fxMag]

theorem scaleRest_fxMag (he : -149 ≤ e) : scaleRest m (e + fxBits) = false := by
  have h : e + (fxBits : ℤ) = e + 256 := rfl
  rw [h, scaleRest, if_pos (by omega)]

theorem scaleDown_whole (he : -149 ≤ e) : scaleDown m e = fxMag m e / fxOne := by
  rw [scaleDown, fxMag, fxOne_eq]
  split
  · next h =>
    rw [Nat.shiftLeft_eq, show (e + 256).toNat = e.toNat + 256 by omega, pow_add, ← mul_assoc, Nat.mul_div_cancel _ (by positivity)]
  · next h =>
    obtain ⟨j, hj⟩ : ∃ j : Nat, 256 = (-e).toNat + j ∧ (e + 256).toNat = j := ⟨(e + 256).toNat, by omega, rfl⟩
    have hB : 0 < 2 ^ j := by positivity
    rw [hj.2, Nat.shiftRight_eq_div_pow, hj.1, pow_add, Nat.mul_div_mul_right _ _ hB]

/-- The integer below the operand of FEXP2. -/
def expWhole (n : Bool) (m : Nat) (e : ℤ) : ℤ := if n then -((fxMag m e / fxOne : ℕ) : ℤ) - 1 else (fxMag m e / fxOne : ℕ)
/-- The fraction of the operand above it, in fixed point. -/
def expFrac (n : Bool) (m : Nat) (e : ℤ) : Nat := if n then fxOne - fxMag m e % fxOne else fxMag m e % fxOne

theorem fExp2_small (rm : Nat) (n : Bool) (hm : m ≠ 0) (he : -149 ≤ e) (hsmall : (m.log2 : ℤ) + e < 20) :
    fExp2 f32 rm (.fin n m e) = if fxMag m e % fxOne = 0 then
        roundTo f32 rm false 1 (if n then -((fxMag m e / fxOne : ℕ) : ℤ) else (fxMag m e / fxOne : ℕ)) false
      else roundTo f32 rm false (exp2Fx (expFrac n m e)) (expWhole n m e - 256) true := by
  have shape : fExp2 f32 rm (.fin n m e) = if (scaleDown m (e + fxBits) % fxOne == 0 && !scaleRest m (e + fxBits)) = true then
        roundTo f32 rm false 1 (if n then -(scaleDown m e : ℤ) else scaleDown m e) false
      else roundTo f32 rm false
        (exp2Fx (if n then (-(scaleDown m e : ℤ) - 1, fxOne - scaleDown m (e + fxBits) % fxOne)
          else ((scaleDown m e : ℤ), scaleDown m (e + fxBits) % fxOne)).2)
        ((if n then (-(scaleDown m e : ℤ) - 1, fxOne - scaleDown m (e + fxBits) % fxOne)
          else ((scaleDown m e : ℤ), scaleDown m (e + fxBits) % fxOne)).1 - fxBits) true := by
    rw [fExp2, if_neg hm, if_neg (by omega)]
  rw [shape, scaleDown_fxMag he, scaleRest_fxMag he, scaleDown_whole he, Bool.not_false, Bool.and_true]
  simp only [beq_iff_eq]
  split
  · rfl
  · cases n <;> rfl

end

/-! ### FEXP2 -/

/-- What R232 says of FEXP2: the result rounds a number close to the power, which is the power itself where that is rational; NX is raised
everywhere else. -/
def ExpRounds (rm : Nat) (A : ℝ) (r : Nat × Flags) : Prop :=
  ∃ y : ℝ, |y - (2 : ℝ) ^ A| ≤ (2 : ℝ) ^ A * (2 : ℝ) ^ (-200 : ℤ) ∧ RoundsTo f32 rm y r ∧ (∀ k : ℤ, A = k → y = (2 : ℝ) ^ k) ∧
    ((∀ k : ℤ, A ≠ k) → r.2 &&& fNX = fNX)

section
variable {rm : Nat} {n : Bool} {m : Nat} {e : ℤ}

theorem fExp2_large (hrm : rm < 4) (hm : m ≠ 0) (hbig : 20 ≤ (m.log2 : ℤ) + e) :
    ExpRounds rm (signed n (m * (2 : ℝ) ^ e)) (fExp2 f32 rm (.fin n m e)) := by
  have hmag : (2 : ℝ) ^ (20 : ℤ) ≤ m * (2 : ℝ) ^ e := by
    have h := (magnitude_bounds (e := e) (Tail.none f32 m) hm).1
    rw [add_zero] at h
    exact (zpow_le_zpow_right₀ one_le_two hbig).trans h
  have h20 : (2 : ℝ) ^ (20 : ℤ) = 1048576 := by norm_num
  rw [h20] at hmag
  have power (x : ℝ) (r : Nat × Flags) (hr : RoundsTo f32 rm ((2 : ℝ) ^ x) r) (hnx : r.2 &&& fNX = fNX) : ExpRounds rm x r :=
    ⟨(2 : ℝ) ^ x, by rw [sub_self, abs_zero]; positivity, hr, fun k hk => by rw [hk, Real.rpow_intCast], fun _ => hnx⟩
  cases n
  · have hr : fExp2 f32 rm (.fin false m e) = roundTo f32 rm false 1 (2 ^ 20) true := by rw [fExp2, if_neg hm, if_pos hbig]; rfl
    rw [hr]
    refine power _ _ (overflow_rounds hrm ?_) (roundTo_sticky_inexact _ one_ne_zero _)
    rw [← Real.rpow_intCast]
    exact Real.rpow_le_rpow_of_exponent_le one_le_two (by rw [signed_false]; push_cast; linarith)
  · have hr : fExp2 f32 rm (.fin true m e) = roundTo f32 rm false (2 ^ 60) (-2 ^ 20) true := by rw [fExp2, if_neg hm, if_pos hbig]; rfl
    rw [hr]
    refine power _ _ (tiny_rounds hrm (by positivity) ?_) (roundTo_sticky_inexact _ (by positivity) _)
    have h151 : (2 : ℝ) ^ (-151 : ℤ) = (2 : ℝ) ^ ((-151 : ℤ) : ℝ) := (Real.rpow_intCast _ _).symm
    rw [h151]
    refine Real.rpow_lt_rpow_of_exponent_lt one_lt_two ?_
    change -((m : ℝ) * (2 : ℝ) ^ e) < ((-151 : ℤ) : ℝ)
    push_cast
    linarith

/-- The operand is the integer below it and the fraction above that. -/
theorem exp_parts (he : -149 ≤ e) (hf : fxMag m e % fxOne ≠ 0) :
    signed n (m * (2 : ℝ) ^ e) = expWhole n m e + expFrac n m e / fxR ∧ 0 < expFrac n m e ∧ expFrac n m e < fxOne := by
  have hpos := fxR_pos
  have hlt := Nat.mod_lt (fxMag m e) fxOne_pos
  have hdiv : (fxMag m e : ℝ) = (fxMag m e / fxOne : ℕ) * fxR + (fxMag m e % fxOne : ℕ) := by
    unfold fxR
    exact_mod_cast (Nat.div_add_mod' (fxMag m e) fxOne).symm
  rw [fxMag_eq he, hdiv]
  cases n
  · refine ⟨?_, Nat.pos_of_ne_zero hf, hlt⟩
    rw [signed_false]
    simp only [expWhole, expFrac, Bool.false_eq_true, if_false, Int.cast_natCast]
    field_simp
  · refine ⟨?_, Nat.sub_pos_of_lt hlt, Nat.sub_lt fxOne_pos (Nat.pos_of_ne_zero hf)⟩
    have hsub : ((fxOne - fxMag m e % fxOne : ℕ) : ℝ) = fxR - (fxMag m e % fxOne : ℕ) := by rw [Nat.cast_sub hlt.le]; rfl
    simp only [expWhole, expFrac, if_true, signed, hsub, Int.cast_sub, Int.cast_neg, Int.cast_natCast, Int.cast_one]
    field_simp
    ring

theorem fExp2_inexact (hrm : rm < 4) (he : -149 ≤ e) (hf : fxMag m e % fxOne ≠ 0) :
    ExpRounds rm (signed n (m * (2 : ℝ) ^ e)) (roundTo f32 rm false (exp2Fx (expFrac n m e)) (expWhole n m e - 256) true) := by
  have hpos := fxR_pos
  obtain ⟨hA, hr0, hr1⟩ := exp_parts (n := n) he hf
  rw [hA]
  generalize expWhole n m e = K
  generalize expFrac n m e = r at *
  have hr0' : (0 : ℝ) < r := by exact_mod_cast hr0
  have hr1' : (r : ℝ) < fxR := by unfold fxR; exact_mod_cast hr1
  have hq0 : 0 < (r : ℝ) / fxR := by positivity
  have hq1 : (r : ℝ) / fxR < 1 := (div_lt_one hpos).mpr hr1'
  have hE := exp2Fx_ge r
  have hE24 : 2 ^ (f32.fbits + 1) ≤ exp2Fx r := le_trans (by rw [fxOne_eq, f32_fbits]; norm_num) hE
  have noInt (k : ℤ) : (K : ℝ) + r / fxR ≠ k := by
    intro h
    have h1 : (K : ℝ) < k := by linarith
    have h2 : (k : ℝ) < K + 1 := by linarith
    have h1' : K < k := by exact_mod_cast h1
    have h2' : k < K + 1 := by exact_mod_cast h2
    omega
  have hround := roundTo_half f32_real hrm false hE24 (K - 256)
  rw [signed_false] at hround
  refine ⟨_, ?_, hround, fun k hk => absurd hk (noInt k), fun _ => ?_⟩
  · have hpow : (2 : ℝ) ^ ((K : ℝ) + r / fxR) = (2 : ℝ) ^ (K - 256) * (fxR * (2 : ℝ) ^ ((r : ℝ) / fxR)) := by
      rw [Real.rpow_add two_pos, Real.rpow_intCast, zpow_sub₀ two_ne_zero, fxR_eq]
      have h256 : (2 : ℝ) ^ (256 : ℤ) = (2 : ℝ) ^ (256 : ℕ) := rfl
      rw [h256]
      field_simp
    have hone : (1 : ℝ) ≤ (2 : ℝ) ^ ((r : ℝ) / fxR) := Real.one_le_rpow one_le_two hq0.le
    have hbound := abs_le.mp (exp2Fx_bounds hr1)
    have hc : (0 : ℝ) < (2 : ℝ) ^ (K - 256) := by positivity
    rw [hpow, mul_comm _ ((2 : ℝ) ^ (K - 256)), ← mul_sub, abs_mul, abs_of_pos hc, mul_assoc]
    refine mul_le_mul_of_nonneg_left ?_ hc.le
    have hbig : (2001 : ℝ) ≤ fxR * (2 : ℝ) ^ (-200 : ℤ) := by rw [fxR_eq]; norm_num
    have hwide : (2001 : ℝ) ≤ fxR * (2 : ℝ) ^ ((r : ℝ) / fxR) * (2 : ℝ) ^ (-200 : ℤ) := by
      have h200 : (0 : ℝ) < fxR * (2 : ℝ) ^ (-200 : ℤ) := by positivity
      calc (2001 : ℝ) ≤ fxR * (2 : ℝ) ^ (-200 : ℤ) * 1 := by linarith
        _ ≤ fxR * (2 : ℝ) ^ (-200 : ℤ) * (2 : ℝ) ^ ((r : ℝ) / fxR) := by gcongr
        _ = _ := by ring
    rw [abs_le]
    constructor <;> linarith
  · exact roundTo_sticky_inexact _ (by have := fxOne_pos; omega) _

theorem fExp2_exact (hrm : rm < 4) (he : -149 ≤ e) (hf : fxMag m e % fxOne = 0) :
    ExpRounds rm (signed n (m * (2 : ℝ) ^ e))
      (roundTo f32 rm false 1 (if n then -((fxMag m e / fxOne : ℕ) : ℤ) else (fxMag m e / fxOne : ℕ)) false) := by
  have hpos := fxR_pos
  have hmul : (fxMag m e : ℝ) = (fxMag m e / fxOne : ℕ) * fxR := by
    unfold fxR
    exact_mod_cast (Nat.div_mul_cancel (Nat.dvd_of_mod_eq_zero hf)).symm
  have hA : signed n (m * (2 : ℝ) ^ e) = ((if n then -((fxMag m e / fxOne : ℕ) : ℤ) else (fxMag m e / fxOne : ℕ) : ℤ) : ℝ) := by
    rw [fxMag_eq he, hmul, mul_div_cancel_right₀ _ hpos.ne']
    generalize fxMag m e / fxOne = W
    cases n <;> simp [signed]
  rw [hA]
  generalize (if n then -((fxMag m e / fxOne : ℕ) : ℤ) else (fxMag m e / fxOne : ℕ) : ℤ) = K
  have h := roundTo_rounds f32_real hrm false one_ne_zero K (Tail.none f32 1)
  rw [signed_false, Nat.cast_one, add_zero, one_mul] at h
  refine ⟨_, ?_, h, fun k hk => by rw [Int.cast_inj.mp hk], fun hk => absurd rfl (hk K)⟩
  rw [Real.rpow_intCast, sub_self, abs_zero]
  positivity

theorem fExp2_rounds (hrm : rm < 4) (hm : m ≠ 0) (he : -149 ≤ e) :
    ExpRounds rm (signed n (m * (2 : ℝ) ^ e)) (fExp2 f32 rm (.fin n m e)) := by
  by_cases hbig : 20 ≤ (m.log2 : ℤ) + e
  · exact fExp2_large hrm hm hbig
  · rw [fExp2_small rm n hm he (by omega)]
    split
    · next h => exact fExp2_exact hrm he h
    · next h => exact fExp2_inexact hrm he h

end

end Sys2Proof.Machine
end

section
/-!
PROOF. FLOG2 of a finite number (09 R232).
-/
namespace Sys2Proof.Machine
open Sys2Proof

/-- What R232 says of FLOG2: the result rounds a number close to the logarithm, which is the logarithm itself where that is rational; NX is
raised everywhere else. -/
def LogRounds (rm : Nat) (A : ℝ) (r : Nat × Flags) : Prop :=
  ∃ y : ℝ, |y - Real.logb 2 A| ≤ |Real.logb 2 A| * (2 : ℝ) ^ (-200 : ℤ) ∧ RoundsTo f32 rm y r ∧ (∀ k : ℤ, A = (2 : ℝ) ^ k → y = k) ∧
    ((∀ k : ℤ, A ≠ (2 : ℝ) ^ k) → r.2 &&& fNX = fNX)

section
variable {rm m : Nat} {e : ℤ}

theorem fLog2_fin (rm : Nat) (hm : m ≠ 0) (e : ℤ) : fLog2 f32 rm (.fin false m e) =
    let v : ℤ := ((m.log2 : ℤ) + e) * fxOne + ((lnFx m m.log2 * fxOne / ln2Fx : ℕ) : ℤ)
    if m = 2 ^ m.log2 then
      if (m.log2 : ℤ) + e = 0 then (0, 0) else roundTo f32 rm (decide ((m.log2 : ℤ) + e < 0)) ((m.log2 : ℤ) + e).natAbs 0 false
    else if 0 ≤ v then roundTo f32 rm false v.natAbs (-(fxBits : ℤ)) true else roundTo f32 rm true (v.natAbs - 1) (-(fxBits : ℤ)) true := by
  simp only [fLog2, if_neg hm, Bool.false_eq_true, if_false]

/-- A power of two whose significand has a single bit. -/
theorem pow_of_single (h : m = 2 ^ m.log2) (e : ℤ) : (m : ℝ) * (2 : ℝ) ^ e = (2 : ℝ) ^ ((m.log2 : ℤ) + e) := by
  rw [zpow_add₀ two_ne_zero, zpow_natCast]
  congr 1
  exact_mod_cast h

/-- Only a significand with a single bit gives a power of two. -/
theorem single_of_pow (hm : m ≠ 0) {k : ℤ} (h : (m : ℝ) * (2 : ℝ) ^ e = (2 : ℝ) ^ k) : m = 2 ^ m.log2 := by
  obtain ⟨low, high⟩ := magnitude_bounds (e := e) (Tail.none f32 m) hm
  rw [add_zero, h] at low high
  have h1 := (zpow_le_zpow_iff_right₀ one_lt_two).mp low
  have h2 := (zpow_lt_zpow_iff_right₀ one_lt_two).mp high
  have hk : k = (m.log2 : ℤ) + e := by omega
  rw [hk, zpow_add₀ two_ne_zero, zpow_natCast] at h
  have := mul_right_cancel₀ (by positivity : (2 : ℝ) ^ e ≠ 0) h
  exact_mod_cast this

theorem fLog2_power (hrm : rm < 4) (hm : m ≠ 0) (h : m = 2 ^ m.log2) (hk : (m.log2 : ℤ) + e ≠ 0) :
    LogRounds rm (m * (2 : ℝ) ^ e) (fLog2 f32 rm (.fin false m e)) := by
  rw [fLog2_fin rm hm, pow_of_single h]
  dsimp only
  rw [if_pos h, if_neg hk]
  generalize (m.log2 : ℤ) + e = k at hk ⊢
  have hr := roundTo_rounds f32_real hrm (decide (k < 0)) (by omega : k.natAbs ≠ 0) 0 (Tail.none f32 k.natAbs)
  have hv : signed (decide (k < 0)) ((k.natAbs + 0) * (2 : ℝ) ^ (0 : ℤ)) = k := by
    have habs : ((k.natAbs : ℕ) : ℝ) = |(k : ℝ)| := by rw [Nat.cast_natAbs, Int.cast_abs]
    rw [add_zero, zpow_zero, mul_one, habs]
    by_cases hneg : k < 0
    · have : (k : ℝ) < 0 := by exact_mod_cast hneg
      simp [signed, hneg, abs_of_neg this]
    · have : (0 : ℝ) ≤ k := by exact_mod_cast not_lt.mp hneg
      simp [signed, hneg, abs_of_nonneg this]
  rw [hv] at hr
  have hlog : Real.logb 2 ((2 : ℝ) ^ k) = k := by rw [← Real.rpow_intCast, Real.logb_rpow two_pos (by norm_num)]
  refine ⟨k, ?_, hr, fun j hj => ?_, fun hj => absurd rfl (hj k)⟩
  · rw [hlog, sub_self, abs_zero]
    positivity
  · exact_mod_cast zpow_right_injective₀ two_pos (by norm_num) hj

/-- The logarithm of a significand of 24 bits that is no power of two lies well inside the unit. -/
theorem log2Frac_inside {m l : Nat} (hl : 2 ^ l < m) (hm : m < 2 ^ (l + 1)) (hl24 : l < 24) :
    1 / 2 ^ 24 ≤ Real.logb 2 (m / 2 ^ l) ∧ Real.logb 2 (m / 2 ^ l) ≤ 1 - 1 / 2 ^ 24 := by
  have hB : (0 : ℝ) < 2 ^ l := by positivity
  have hB24 : (2 : ℝ) ^ l ≤ 2 ^ 23 := pow_le_pow_right₀ one_le_two (by omega)
  have hlr : (2 : ℝ) ^ l + 1 ≤ m := by exact_mod_cast hl
  have hmr : (m : ℝ) + 1 ≤ 2 * 2 ^ l := by rw [← pow_succ']; exact_mod_cast hm
  have hm0 : (0 : ℝ) < m := by linarith
  have g1 := log2_low
  have g2 := log2_high
  have hlog : Real.logb 2 (m / 2 ^ l) * Real.log 2 = Real.log (m / 2 ^ l) := by rw [Real.logb]; field_simp
  constructor
  · have h1 := Real.one_sub_inv_le_log_of_pos (div_pos hm0 hB)
    have h2 : 1 / 2 ^ 24 ≤ 1 - ((m : ℝ) / 2 ^ l)⁻¹ := by
      rw [inv_div, one_sub_div hm0.ne', div_le_div_iff₀ (by positivity) hm0]
      nlinarith
    rw [← hlog] at h1
    nlinarith
  · have h1 := Real.one_sub_inv_le_log_of_pos (div_pos (by positivity : (0 : ℝ) < 2 * 2 ^ l) hm0)
    have h2 : 1 / 2 ^ 24 ≤ 1 - ((2 * 2 ^ l : ℝ) / m)⁻¹ := by
      rw [inv_div, one_sub_div (by positivity), div_le_div_iff₀ (by positivity) (by positivity)]
      nlinarith
    have h3 : Real.log (2 * 2 ^ l / m) = Real.log 2 - Real.log (m / 2 ^ l) := by
      rw [mul_div_assoc, Real.log_mul two_ne_zero (by positivity), ← inv_div, Real.log_inv, sub_eq_add_neg]
    rw [h3, ← hlog] at h1
    nlinarith

/-- A logarithm with such a fraction is no smaller than that. -/
theorem log2_away {lam : ℝ} (h0 : 1 / 2 ^ 24 ≤ lam) (h1 : lam ≤ 1 - 1 / 2 ^ 24) (k : ℤ) : 1 / 2 ^ 24 ≤ |(k : ℝ) + lam| := by
  by_cases hk : 0 ≤ k
  · have : (0 : ℝ) ≤ k := by exact_mod_cast hk
    exact le_trans (by linarith) (le_abs_self _)
  · have : (k : ℝ) ≤ -1 := by exact_mod_cast (by omega : k ≤ -1)
    exact le_trans (by linarith) (neg_le_abs _)

theorem fLog2_inexact (hrm : rm < 4) (hm : m ≠ 0) (hm24 : m < 2 ^ 24) (h : m ≠ 2 ^ m.log2) :
    LogRounds rm (m * (2 : ℝ) ^ e) (fLog2 f32 rm (.fin false m e)) := by
  have hpos := fxR_pos
  have hl : 2 ^ m.log2 < m := lt_of_le_of_ne (Nat.log2_self_le hm) (Ne.symm h)
  have hm1 : m < 2 ^ (m.log2 + 1) := Nat.lt_log2_self
  have hl24 : m.log2 < 24 := (Nat.log2_lt hm).mpr hm24
  obtain ⟨in0, in1⟩ := log2Frac_inside hl hm1 hl24
  have hfrac := abs_le.mp (log2Frac_bounds hl.le hm1)
  rw [fLog2_fin rm hm]
  dsimp only
  rw [if_neg h]
  have hA : Real.logb 2 (m * (2 : ℝ) ^ e) = (((m.log2 : ℤ) + e : ℤ) : ℝ) + Real.logb 2 (m / 2 ^ m.log2) := by
    have hm0 : (0 : ℝ) < m := by exact_mod_cast Nat.pos_of_ne_zero hm
    have hsplit : (m : ℝ) * (2 : ℝ) ^ e = (2 : ℝ) ^ (((m.log2 : ℤ) + e : ℤ) : ℝ) * (m / 2 ^ m.log2) := by
      rw [Real.rpow_intCast, zpow_add₀ two_ne_zero, zpow_natCast]
      field_simp
    rw [hsplit, Real.logb_mul (by positivity) (by positivity), Real.logb_rpow two_pos (by norm_num)]
  have noPow (k : ℤ) : (m : ℝ) * (2 : ℝ) ^ e ≠ (2 : ℝ) ^ k := fun hk => h (single_of_pow hm hk)
  have haway := log2_away in0 in1 ((m.log2 : ℤ) + e)
  unfold LogRounds
  rw [hA]
  generalize Real.logb 2 (m / 2 ^ m.log2) = lam at *
  generalize (m.log2 : ℤ) + e = k at *
  generalize lnFx m m.log2 * fxOne / ln2Fx = F at *
  -- the fixed-point value and half a unit lie close to the logarithm
  have hv : |((k * fxOne + F : ℤ) : ℝ) + 1 / 2 - fxR * (k + lam)| ≤ 1001 := by
    have hc : ((k * fxOne + F : ℤ) : ℝ) = k * fxR + F := by unfold fxR; push_cast; rfl
    rw [hc, abs_le]
    constructor <;> linarith
  generalize k * (fxOne : ℤ) + F = v at hv ⊢
  have hlarge : (2 : ℝ) ^ 231 ≤ |(v : ℝ)| := by
    have h1 : (2 : ℝ) ^ 232 ≤ |fxR * (k + lam)| := by
      rw [abs_mul, abs_of_pos hpos]
      calc (2 : ℝ) ^ 232 = fxR * (1 / 2 ^ 24) := by rw [fxR_eq]; norm_num
        _ ≤ fxR * |(k : ℝ) + lam| := by gcongr
    have h2 : |fxR * (k + lam)| ≤ |(v : ℝ)| + 1002 := by
      have e1 : fxR * (k + lam) = v - (v + 1 / 2 - fxR * (k + lam)) + 1 / 2 := by ring
      rw [e1]
      have e2 := abs_add_le ((v : ℝ) - (v + 1 / 2 - fxR * (k + lam))) (1 / 2)
      have e3 := abs_sub (v : ℝ) (v + 1 / 2 - fxR * (k + lam))
      have e4 : |(1 / 2 : ℝ)| = 1 / 2 := abs_of_pos (by norm_num)
      linarith
    have h3 : (2 : ℝ) ^ 232 = 2 * 2 ^ 231 := by norm_num
    have h4 : (2000 : ℝ) ≤ 2 ^ 231 := by norm_num
    linarith
  have hnat : 2 ^ 231 ≤ v.natAbs := by
    have : ((v.natAbs : ℕ) : ℝ) = |(v : ℝ)| := by rw [Nat.cast_natAbs, Int.cast_abs]
    rw [← this] at hlarge
    exact_mod_cast hlarge
  have hlong : 2 ^ (f32.fbits + 1) ≤ v.natAbs - 1 := by
    have : 2 ^ (f32.fbits + 1) + 1 ≤ 2 ^ 231 := by decide
    omega
  have hclose : |(v + 1 / 2) / fxR - ((k : ℝ) + lam)| ≤ |(k : ℝ) + lam| * (2 : ℝ) ^ (-200 : ℤ) := by
    have hdiv : (v + 1 / 2) / fxR - ((k : ℝ) + lam) = (v + 1 / 2 - fxR * (k + lam)) / fxR := by field_simp
    rw [hdiv, abs_div, abs_of_pos hpos, div_le_iff₀ hpos]
    calc _ ≤ (1001 : ℝ) := hv
      _ ≤ 1 / 2 ^ 24 * (2 : ℝ) ^ (-200 : ℤ) * fxR := by rw [fxR_eq]; norm_num
      _ ≤ |(k : ℝ) + lam| * (2 : ℝ) ^ (-200 : ℤ) * fxR := by gcongr
  have hscale : (2 : ℝ) ^ (-(fxBits : ℤ)) = 1 / fxR := by rw [fxR_eq, zpow_neg, one_div]; rfl
  refine ⟨(v + 1 / 2) / fxR, hclose, ?_, fun j hj => absurd hj (noPow j), fun _ => ?_⟩
  · split
    · next hneg =>
      have hr := roundTo_half f32_real hrm false (le_trans hlong (Nat.sub_le _ _)) (-(fxBits : ℤ))
      have hcast : ((v.natAbs : ℕ) : ℝ) = v := by rw [Nat.cast_natAbs, Int.cast_abs, abs_of_nonneg (by exact_mod_cast hneg)]
      rwa [signed_false, hscale, hcast, mul_one_div] at hr
    · next hneg =>
      have hr := roundTo_half f32_real hrm true hlong (-(fxBits : ℤ))
      have hcast : ((v.natAbs - 1 : ℕ) : ℝ) = -v - 1 := by
        rw [Nat.cast_sub (by omega), Nat.cast_natAbs, Int.cast_abs, abs_of_neg (by exact_mod_cast not_le.mp hneg), Nat.cast_one]
      have hs : signed true (((v.natAbs - 1 : ℕ) + 1 / 2) * (1 / fxR)) = (v + 1 / 2) / fxR := by
        rw [hcast]
        change -((-(v : ℝ) - 1 + 1 / 2) * (1 / fxR)) = _
        ring
      rwa [hscale, hs] at hr
  · split
    · exact roundTo_sticky_inexact _ (by omega) _
    · exact roundTo_sticky_inexact _ (by have : 0 < 2 ^ (f32.fbits + 1) := by positivity
                                         omega) _

/-- FLOG2 of a positive number that is not 1. -/
theorem fLog2_rounds (hrm : rm < 4) (hm : m ≠ 0) (hm24 : m < 2 ^ 24) (hA : (m : ℝ) * (2 : ℝ) ^ e ≠ 1) :
    LogRounds rm (m * (2 : ℝ) ^ e) (fLog2 f32 rm (.fin false m e)) := by
  by_cases h : m = 2 ^ m.log2
  · refine fLog2_power hrm hm h fun hk => hA ?_
    rw [pow_of_single h, hk, zpow_zero]
  · exact fLog2_inexact hrm hm hm24 h

/-- FLOG2 of 1. -/
theorem fLog2_one (hm : m ≠ 0) (hA : (m : ℝ) * (2 : ℝ) ^ e = 1) : fLog2 f32 rm (.fin false m e) = (0, 0) := by
  have h : m = 2 ^ m.log2 := single_of_pow hm (k := 0) (by rw [hA, zpow_zero])
  have hk : (m.log2 : ℤ) + e = 0 := by
    rw [pow_of_single h] at hA
    exact (zpow_eq_one_iff_right₀ two_pos.le (by norm_num)).mp hA
  rw [fLog2_fin rm hm]
  dsimp only
  rw [if_pos h, if_pos hk]

end

end Sys2Proof.Machine
end

section
/-!
PROOF. 08 R190 to R196, 09 R231, R232, R236: what special operands give, and the rounding of every operation.
-/
namespace Sys2Proof.Machine
open Sys2Proof

/-! ### Special operands -/

section
variable (f : FloatFmt) (rm : Nat)

/-- A NaN operand gives the canonical NaN, with IV where one signals (R192). -/
theorem nan_operands (x y : FVal) (h : x.isNaN = true ∨ y.isNaN = true) :
    fAdd f rm x y = nanOut f (x.isSNaN || y.isSNaN) ∧ fMul f rm x y = nanOut f (x.isSNaN || y.isSNaN) ∧
      fDiv f rm x y = nanOut f (x.isSNaN || y.isSNaN) := by
  cases x with
  | nan s => exact ⟨rfl, rfl, rfl⟩
  | inf a =>
    cases y with
    | nan s => exact ⟨rfl, rfl, rfl⟩
    | inf b => simp [FVal.isNaN] at h
    | fin n m e => simp [FVal.isNaN] at h
  | fin n m e =>
    cases y with
    | nan s => exact ⟨rfl, rfl, rfl⟩
    | inf b => simp [FVal.isNaN] at h
    | fin n' m' e' => simp [FVal.isNaN] at h

theorem fFma_nan (x y z : FVal) (h0 : zeroTimesInf x y = false) (h : x.isNaN = true ∨ y.isNaN = true ∨ z.isNaN = true) :
    fFma f rm x y z = nanOut f (x.isSNaN || y.isSNaN || z.isSNaN) := by
  have hany : (x.isNaN || y.isNaN || z.isNaN) = true := by simpa [Bool.or_eq_true, or_assoc] using h
  rw [fFma, h0, hany]
  rfl

/-- A product of zero and infinity is invalid, whatever is added (R231). -/
theorem fFma_zeroTimesInf (x y z : FVal) (h0 : zeroTimesInf x y = true) : fFma f rm x y z = nanOut f true := by
  rw [fFma, if_pos h0]

/-- A fused sum without NaNs adds the exact product. -/
theorem fFma_sum {x y z : FVal} (h0 : zeroTimesInf x y = false) (hx : x.isNaN = false) (hy : y.isNaN = false) (hz : z.isNaN = false) :
    fFma f rm x y z = fAdd f rm (mulVal x y) z := by
  rw [fFma, h0, hx, hy, hz]
  rfl

theorem mulVal_inf_operands {x y : FVal} {a : Bool} (h : mulVal x y = .inf a) : x.isNaN = false ∧ y.isNaN = false := by
  cases x with
  | nan s => cases h
  | inf b =>
    cases y with
    | nan s => cases h
    | inf c => exact ⟨rfl, rfl⟩
    | fin n m e => exact ⟨rfl, rfl⟩
  | fin n m e =>
    cases y with
    | nan s => cases h
    | inf c => exact ⟨rfl, rfl⟩
    | fin n' m' e' => exact ⟨rfl, rfl⟩

/-- A fused sum whose product is infinite. -/
theorem fFma_infProduct {x y : FVal} {a : Bool} (h : mulVal x y = .inf a) (h0 : zeroTimesInf x y = false) :
    (∀ n m e, fFma f rm x y (.fin n m e) = (f.infBits a, 0)) ∧
      ∀ b, fFma f rm x y (.inf b) = if a = b then (f.infBits a, 0) else nanOut f true := by
  obtain ⟨hx, hy⟩ := mulVal_inf_operands h
  exact ⟨fun n m e => by rw [fFma_sum f rm h0 hx hy rfl, h]; rfl, fun b => by rw [fFma_sum f rm h0 hx hy rfl, h]; rfl⟩

theorem fDiv_byZero (n1 : Bool) (m1 : Nat) (e1 : ℤ) (n2 : Bool) (e2 : ℤ) :
    fDiv f rm (.fin n1 m1 e1) (.fin n2 0 e2) = if m1 = 0 then nanOut f true else (f.infBits (n1 != n2), fDZ) := rfl

theorem fDiv_ofZero (n1 : Bool) (e1 : ℤ) (n2 : Bool) {m2 : Nat} (hm2 : m2 ≠ 0) (e2 : ℤ) :
    fDiv f rm (.fin n1 0 e1) (.fin n2 m2 e2) = (f.signBit (n1 != n2), 0) := by
  rw [fDiv, if_neg hm2, if_pos rfl]

/-- A fused sum that is zero takes its sign by R194. -/
theorem fFma_zero (n1 : Bool) (m1 : Nat) (e1 : ℤ) (n2 : Bool) (m2 : Nat) (e2 : ℤ) (n3 : Bool) (m3 : Nat) (e3 : ℤ)
    (h : ratOf (.fin n1 m1 e1) * ratOf (.fin n2 m2 e2) + ratOf (.fin n3 m3 e3) = 0) :
    fFma f rm (.fin n1 m1 e1) (.fin n2 m2 e2) (.fin n3 m3 e3) =
      (f.signBit (if (m1 = 0 ∨ m2 = 0) ∧ m3 = 0 ∧ (n1 != n2) = n3 then n1 != n2 else rm == 2), 0) := by
  rw [ratOf_mul] at h
  rw [fFma_fin, fAdd_zero _ _ _ _ _ _ h]
  simp only [Nat.mul_eq_zero]

theorem fFma_rounds {f : FloatFmt} {rm : Nat} (hf : RealFmt f) (hrm : rm < 4) (n1 : Bool) (m1 : Nat) (e1 : ℤ) (n2 : Bool) (m2 : Nat) (e2 : ℤ)
    (n3 : Bool) (m3 : Nat) (e3 : ℤ) (h : ratOf (.fin n1 m1 e1) * ratOf (.fin n2 m2 e2) + ratOf (.fin n3 m3 e3) ≠ 0) :
    RoundsTo f rm ((ratOf (.fin n1 m1 e1) * ratOf (.fin n2 m2 e2) + ratOf (.fin n3 m3 e3) : ℚ) : ℝ)
      (fFma f rm (.fin n1 m1 e1) (.fin n2 m2 e2) (.fin n3 m3 e3)) := by
  rw [ratOf_mul] at h ⊢
  exact fAdd_rounds hf hrm _ _ _ _ _ _ h

theorem roots_of_zero (n : Bool) (e : ℤ) :
    fSqrt f rm (.fin n 0 e) = (f.signBit n, 0) ∧ fRsqrt f rm (.fin n 0 e) = (f.infBits n, 0) ∧
      fExp2 f rm (.fin n 0 e) = roundVal f rm (.fin false 1 0) ∧ fLog2 f rm (.fin n 0 e) = (f.infBits true, fDZ) := ⟨rfl, rfl, rfl, rfl⟩

theorem roots_of_negative {m : Nat} (hm : m ≠ 0) (e : ℤ) :
    fSqrt f rm (.fin true m e) = nanOut f true ∧ fRsqrt f rm (.fin true m e) = nanOut f true ∧
      fLog2 f rm (.fin true m e) = nanOut f true := by
  refine ⟨?_, ?_, ?_⟩
  · rw [fSqrt, if_neg hm, if_pos rfl]
  · rw [fRsqrt, if_neg hm, if_pos rfl]
  · rw [fLog2, if_neg hm, if_pos rfl]

end

/-! ### FSCL and FRND of binary32 (R236) -/

section
variable {rm : Nat} {w : Word32}

theorem fScl_rounds (hrm : rm < 4) {n : Bool} {m : Nat} {e : ℤ} (h : unpackF f32 w.toNat = .fin n m e) (hm : m ≠ 0) (k : ℤ) :
    RoundsTo f32 rm (((ratOf (.fin n m e) : ℚ) : ℝ) * (2 : ℝ) ^ k) (fScl f32 rm w.toNat k) := by
  have hr : fScl f32 rm w.toNat k = roundTo f32 rm n m (e + k) false := by
    rw [fScl, h]
    exact if_neg hm
  have hv : ((ratOf (.fin n m e) : ℚ) : ℝ) * (2 : ℝ) ^ k = ((ratOf (.fin n m (e + k)) : ℚ) : ℝ) := by
    rw [cast_ratOf, cast_ratOf, zpow_add₀ two_ne_zero]
    cases n <;> simp [signed] <;> ring
  rw [hr, hv]
  exact roundTo_ratOf f32_real hrm hm _

/-- What R236 says of FRND, of a number `A`: an integral value that the mode picks, with the sign of the operand, and no flag. -/
def RndRounds (rm : Nat) (neg : Bool) (A : ℝ) (r : Nat × Flags) : Prop :=
  ∃ i : ℤ, r.2 = 0 ∧ (unpackF f32 r.1).sign = neg ∧ ((unpackF f32 r.1).isZero = true ∨ (unpackF f32 r.1).isFinNZ = true) ∧
    ratOf (unpackF f32 r.1) = i ∧
    (rm = 0 → |(i : ℝ) - A| ≤ 1 / 2 ∧ (|(i : ℝ) - A| = 1 / 2 → i % 2 = 0)) ∧ (rm = 1 → |(i : ℝ)| ≤ |A| ∧ |A| < |(i : ℝ)| + 1 ∧ 0 ≤ i * A) ∧
    (rm = 2 → i ≤ A ∧ A < i + 1) ∧ (rm = 3 → A ≤ i ∧ i < A + 1)

/-- The bound of round to nearest, of rationals, holds of the reals that they are. -/
theorem half_dist_cast {i : ℤ} {q : ℚ} {p : Prop} (h : |(i : ℚ) - q| ≤ 1 / 2 ∧ (|(i : ℚ) - q| = 1 / 2 → p)) :
    |(i : ℝ) - (q : ℝ)| ≤ 1 / 2 ∧ (|(i : ℝ) - (q : ℝ)| = 1 / 2 → p) := by
  have hd : |(i : ℝ) - (q : ℝ)| = ((|(i : ℚ) - q| : ℚ) : ℝ) := by push_cast; rfl
  have hh : (1 / 2 : ℝ) = ((1 / 2 : ℚ) : ℝ) := by norm_num
  rw [hd, hh]
  exact ⟨Rat.cast_le.2 h.1, fun he => h.2 (Rat.cast_injective he)⟩

theorem fRnd_picks (hrm : rm < 4) {n : Bool} {m : Nat} {e : ℤ} (h : unpackF f32 w.toNat = .fin n m e) (hm : m ≠ 0) :
    RndRounds rm w.msb ((ratOf (.fin n m e) : ℚ) : ℝ) (fRnd f32 rm w.toNat) := by
  obtain ⟨hn, -, -, -⟩ := unpack_fin_f32 h
  obtain ⟨hflags, m', e', hu, hv⟩ := fRnd_rounds hrm h hm
  obtain ⟨h0, h1, h2, h3, -⟩ := roundInt_rounds hrm n m e
  refine ⟨(roundInt rm n m e).1, hflags, by rw [hu]; exact hn, ?_, by rw [hu]; exact hv, fun hr => ?_, fun hr => ?_, fun hr => ?_, fun hr => ?_⟩
  · rw [hu]
    by_cases hm' : m' = 0
    · exact .inl (by simp [FVal.isZero, hm'])
    · exact .inr (by simp [FVal.isFinNZ, hm'])
  · exact half_dist_cast (h0 hr)
  · exact_mod_cast h1 hr
  · exact_mod_cast h2 hr
  · exact_mod_cast h3 hr

theorem not_finite {x : FVal} (hn : x.isNaN = false) (hf : x.isFinNZ = false) : (∃ a, x = .inf a) ∨ ∃ n e, x = .fin n 0 e := by
  cases x with
  | nan s => cases hn
  | inf a => exact .inl ⟨a, rfl⟩
  | fin n m e =>
    have : m = 0 := by simpa [FVal.isFinNZ] using hf
    exact .inr ⟨n, e, by rw [this]⟩

theorem finite {x : FVal} (hf : x.isFinNZ = true) : ∃ n m e, x = .fin n m e ∧ m ≠ 0 := by
  cases x with
  | nan s => cases hf
  | inf a => cases hf
  | fin n m e => exact ⟨n, m, e, rfl, by simpa [FVal.isFinNZ] using hf⟩

/-- FRND and FSCL give an infinity and a zero back. -/
theorem fRnd_fScl_special (hn : (unpackF f32 w.toNat).isNaN = false) (hf : (unpackF f32 w.toNat).isFinNZ = false) :
    fRnd f32 rm w.toNat = (w.toNat, 0) ∧ ∀ k, fScl f32 rm w.toNat k = (w.toNat, 0) := by
  unfold fRnd fScl
  rcases not_finite hn hf with ⟨a, h⟩ | ⟨n, e, h⟩ <;> rw [h] <;> exact ⟨rfl, fun _ => rfl⟩

end

/-- Settles O7, by the rounding of each operation and the cases of its special operands. -/
theorem roundingIsCorrect : Obligations.RoundingIsCorrect := by
  intro f rm hmem hrm
  have hf := RealFmt.of_mem hmem
  refine ⟨fun neg m e hm => roundTo_ratOf hf hrm hm e, fun neg e => rfl, fun neg => rfl, fun sg => rfl, fun n1 m1 e1 n2 m2 e2 => ?_,
    fun m e hm => ⟨fSqrt_rounds hf hrm hm e, fRsqrt_rounds hf hrm hm e⟩, by decide, ?_, fun w => ?_⟩
  · exact ⟨fAdd_rounds hf hrm _ _ _ _ _ _, fAdd_zero _ _ _ _ _ _, fMul_rounds hf hrm _ _ _ _ _ _, fMul_zero _ _ _ _ _ _,
      fDiv_rounds hf hrm _ _ _ _ _ _, fun n3 m3 e3 => fFma_rounds hf hrm _ _ _ _ _ _ _ _ _⟩
  · refine ⟨fun x y z => ⟨nan_operands f rm x y, fFma_nan f rm x y z⟩, fun sg => ⟨rfl, rfl, rfl, rfl⟩, fun a b => ⟨rfl, rfl, rfl⟩,
      fun a n m e => ?_, fun n1 m1 e1 n2 m2 e2 => ⟨?_, ?_, fun n3 m3 e3 => ?_, fun a => ?_⟩,
      fun x y a h h0 => fFma_infProduct f rm h h0, fun n m e => ⟨?_, ?_⟩, rfl, rfl, rfl, rfl, rfl, rfl, rfl, rfl⟩
    · refine ⟨rfl, rfl, rfl, rfl, rfl, rfl, fun z hm => ?_⟩
      subst hm
      exact ⟨fFma_zeroTimesInf f rm _ _ z rfl, fFma_zeroTimesInf f rm _ _ z rfl⟩
    · rintro rfl
      exact fDiv_byZero f rm n1 m1 e1 n2 e2
    · rintro rfl hm2
      exact fDiv_ofZero f rm n1 e1 n2 hm2 e2
    · exact fFma_zero f rm _ _ _ _ _ _ _ _ _
    · rfl
    · rintro rfl
      exact roots_of_zero f rm n e
    · rintro hm rfl
      exact roots_of_negative f rm hm e
  · intro x A
    refine ⟨fun sg hx => ?_, fRnd_fScl_special, fun hx => ?_⟩
    · unfold fRnd fScl
      rw [show unpackF f32 w.toNat = .nan sg from hx]
      exact ⟨rfl, fun _ => rfl⟩
    · obtain ⟨n, m, e, hfin, hm⟩ := finite hx
      obtain ⟨hn, hm24, he, -⟩ := unpack_fin_f32 hfin
      have hA : A = signed n (m * (2 : ℝ) ^ e) := by
        simp only [A]
        rw [hfin, cast_ratOf]
      refine ⟨fun k => ?_, ?_, ?_, fun hpos => ?_⟩
      · simp only [A]
        rw [hfin]
        exact fScl_rounds hrm hfin hm k
      · simp only [A]
        rw [hfin]
        exact fRnd_picks hrm hfin hm
      · rw [hfin, hA]
        exact fExp2_rounds hrm hm he
      · have hpos' : n = false := hn.trans hpos
        subst hpos'
        rw [hfin, hA, signed_false]
        exact ⟨fLog2_one hm, fLog2_rounds hrm hm hm24⟩

end Sys2Proof.Machine
end
